-- ==== Sys2Proof/Word.lean ====
section
/-! DEFINITION. Word types and their plainest arithmetic. -/

namespace Sys2Proof

/-- One byte. -/
abbrev Byte := BitVec 8
/-- A register word (R8). -/
abbrev W32 := BitVec 32
/-- A 64-bit word. -/
abbrev W64 := BitVec 64
/-- An IEEE binary32 code (R133, R134). -/
abbrev F32 := BitVec 32

end Sys2Proof
end

