-- ==== Sys2Proof/Machine/Kinds.lean ====
section
/-! DEFINITION. What a command can report of an event outside the model: closed lists that a rule names. -/

namespace Sys2Proof.Machine

/-- What a hop or a lane finds in a flit (R123): nothing, a bad header check, a reserved KIND, double-bit errors in payload words of 8 bytes. -/
inductive HopFault where
  | none | header | kind
  | payload (words : List (BitVec 4))
  /-- a single-bit payload error, corrected -/
  | single
  deriving DecidableEq, Repr, Inhabited

/-- A fault of the cell array in one attempt of a firing (R200 to R204), in the array of the lead or of the partner. A `line` is a column in row
mode and a row in column mode; a value is an F32 word, or a two's-complement word on the integer paths. -/
inductive ArrayFault where
  /-- a bit of the active weight register of cell (k, n) flips after sealing -/
  | cell (partner : Bool) (k n : BitVec 7) (bit : BitVec 4)
  /-- the partial sum that enters block stage `stage` of a line is `value` -/
  | sum (partner : Bool) (row : Nat) (line : BitVec 7) (stage : BitVec 2) (value : BitVec 32)
  /-- one of the two circuits of a block stage forms `value`: as its block value, by the scaling and the conversion, or where `added` as the
  column's sum after the stage, by the F32 addition (R201) -/
  | stage (partner : Bool) (row : Nat) (line : BitVec 7) (stage : BitVec 2) (added : Bool) (value : BitVec 32)
  /-- the magnitude sum that leaves a line is `value` (R202) -/
  | magnitude (partner : Bool) (row : Nat) (line : BitVec 7) (value : BitVec 32)
  /-- the sum that the checksum cells give at block stage `stage` is `value` -/
  | check (partner : Bool) (row : Nat) (stage : BitVec 2) (value : BitVec 32)
  /-- the duplicated conversion of an output row differs (R204) -/
  | convert (partner : Bool) (row : Nat)
  deriving DecidableEq, Repr, Inhabited

/-- A condition the watchdog of R522 watches, or a parity error met at an access (R521, CONTROL). -/
inductive Watch where
  | firing | place | drop | parity
  deriving DecidableEq, Repr, Inhabited

/-- The compare of the duplicated engines (R523): equal, equal after the one repeat, different. -/
inductive Dup where
  | agree | masked | differ
  deriving DecidableEq, Repr, Inhabited

/-- What a decode engine found (R410, R521). -/
inductive DecodeErr where
  | bitstream | unsupported | declMismatch | tokens
  /-- a residue or parity check of the decoder failed: the sample is voided with FETCH -/
  | datapath
  /-- an uncorrectable error at an offset of the staging region -/
  | staging (off : Nat)
  deriving DecidableEq, Repr, Inhabited

end Sys2Proof.Machine
end

