-- ==== Sys2Proof/Config.lean ====
section
/-! DEFINITION. What one part fixes at manufacture, and the free values: constants without a body. -/

namespace Sys2Proof

/-- Silicon revision in CTL_ID, fixed by manufacture (R492). -/
opaque Config.siRevision : BitVec 16
/-- Serial number, 16 bytes (R479, R505). -/
opaque Config.serial : Nat → Byte
/-- Part number, 16 bytes (R479); the spec gives the name, not its bytes. -/
opaque Config.partNumber : Nat → Byte
/-- Highest image fmt_minor the firmware knows, m of R49. -/
opaque Config.fmtMinorKnown : BitVec 16
/-- Highest layout version v_t the firmware supports of section type t (R49). -/
opaque Config.sectionVersion : Nat → BitVec 16
/-- FREE VALUE. Bytes 64 to 127 of the identity page, of the DDR5 capacities accepted by channel (R479). -/
opaque Config.identityDdr : List Nat → Nat → Byte
/-- What each DDR5 socket holds at BOOT (R459): whether a module is fitted, its SPD can be read, it is an RDIMM or 3DS RDIMM; its package ranks, device
width, capacity in GiB, rated speed; whether it trains. -/
structure Config.Dimm where
  fitted : Bool
  spd : Bool
  rdimm : Bool
  ranks : Nat
  width : Nat
  gib : Nat
  speed : Nat
  trains : Bool
  deriving DecidableEq, Repr, Inhabited

/-- FREE VALUE. The module, SPD and training result of each socket (R459). -/
opaque Config.dimm : Nat → Config.Dimm

/-- FREE VALUE. A byte the spec leaves undefined; applied to State.free. -/
opaque Config.freeByte : Nat → Byte
/-- FREE VALUE. A word the spec leaves undefined or random; applied to State.free. -/
opaque Config.freeWord : Nat → BitVec 64
/-- FREE VALUE. The escape entry of a transposed block that gathers more than the two escapes an entry holds (R145, R210): of its (index, value) pairs. -/
opaque Config.escapeOverflow : List (Nat × Nat) → Nat

/-- FREE VALUE. The tile at which a device write for a tile enters the mesh (R120). -/
opaque Config.deviceEntry : Nat → Nat

/-- FREE VALUE. Body of the answer to a management request that R491 leaves to its DMTF standard: of the layer, the command and its operand. -/
opaque Config.mgmtAnswer : Nat → Nat → Nat → List Nat

/-- Falcon-1024 verification (R50, an external standard): key bytes, message, signature bytes. -/
opaque Config.falconVerify : List Byte → List Byte → List Byte → Bool
/-- Falcon-1024 signing with the identity key of a seed (R504, R505): seed, message, signing number; a signature of 1 to 1,280 bytes. -/
opaque Config.falconSign : List Byte → List Byte → Nat → List Byte
/-- Falcon-1024 public key of the deterministic key generation from a 48-byte seed (R504). -/
opaque Config.falconPublic : List Byte → Nat → Byte

/-- A picture a video decoder outputs (R390, R407): size, bit depth, chroma format (0 monochrome, 1 for 4:2:0, else another), and its codes, plane after plane. -/
structure Config.Picture where
  w : Nat
  h : Nat
  depth : Nat
  chroma : Nat
  codes : List Nat
  deriving DecidableEq, Repr, Inhabited

/-- What an HEVC or AV1 decoder meets in a stream, in order (R389, R407, R410). -/
inductive Config.VideoItem where
  /-- an HEVC sequence parameter set comes into use: general_profile_idc, general_level_idc, field_seq_flag, the pictures' shape -/
  | hevc (profile level : Nat) (fieldSeq : Bool) (shape : Config.Picture)
  /-- a pic_struct that says field or frame doubling -/
  | fieldOrDouble
  /-- an AV1 sequence header: seq_profile, seq_level_idx, large-scale tile decoding, the operating point, the pictures' shape -/
  | av1 (profile level : Nat) (largeScale : Bool) (point : Nat) (shape : Config.Picture)
  /-- a coded picture: whether it is an IRAP picture or a key frame -/
  | coded (random : Bool)
  /-- a picture is output -/
  | picture (p : Config.Picture)
  /-- a syntax error, a forbidden value or a reference to data that does not exist -/
  | bad
  deriving DecidableEq, Repr, Inhabited

/-- What HEVC and AV1 decoders meet in a payload, by the texts of the standards R389 names. -/
opaque Config.hevc : List Byte → List Config.VideoItem
opaque Config.av1 : List Byte → List Config.VideoItem
/-- The integer inverse transform of the reference decoder in HSF2-MEDV, whose bits no rule gives (R408): 64 samples of 64 coefficients, by rows. -/
opaque Config.idct : List Int → List Nat
/-- A packet of Opus after the packets before it (R409): channels of the packet, and the reference decoder's 16-bit codes; none where it is in error. -/
opaque Config.opusPacket : List (List Byte) → List Byte → Option (Nat × List Int)

/-- Reference front end of HSF2-MEDV, whose bits no rule gives (R427, R428): resampling between two rates; a sample weighted by entry n of the
periodic Hann window of length win; the powers of bins 0 to n_fft/2 of n_fft samples; and bin powers weighted by triangular filter b of n_mels,
equally spaced on the mel scale from 0 Hz to half the rate. -/
opaque Config.resample : Nat → Nat → List F32 → List F32
opaque Config.hann (win n : Nat) : F32 → F32
opaque Config.binPowers (nFft : Nat) : List F32 → List F32
opaque Config.melFilter (rate nFft nMels b : Nat) : List F32 → F32

end Sys2Proof
end

