-- ==== Sys2Proof/Machine/Sparse.lean ====
section
/-! DEFINITION. Finite tables in one canonical form: keys strictly rising, no entry equal to the default. -/

namespace Sys2Proof.Machine

/-- A table from numbers to values; what an unlisted key reads as is the caller's default. -/
abbrev Sparse (α : Type) := List (Nat × α)

/-- The value at a key. -/
def Sparse.get {α : Type} (d : α) : Sparse α → Nat → α
  | [], _ => d
  | (k, v) :: r, i => if i = k then v else Sparse.get d r i

/-- Remove a key. -/
def Sparse.erase {α : Type} (m : Sparse α) (i : Nat) : Sparse α := m.filter fun p => p.1 != i

/-- Insert or replace a key's entry. -/
def Sparse.insert {α : Type} : Sparse α → Nat → α → Sparse α
  | [], i, a => [(i, a)]
  | (k, v) :: r, i, a =>
    if i = k then (i, a) :: r else if i < k then (i, a) :: (k, v) :: r
    else (k, v) :: Sparse.insert r i a

/-- Write a key: writing the default removes its entry, so equal tables are equal lists. -/
def Sparse.set {α : Type} [DecidableEq α] (d : α) (m : Sparse α) (i : Nat) (a : α) : Sparse α :=
  if a = d then Sparse.erase m i else Sparse.insert m i a

/-- Change the value at a key. -/
def Sparse.upd {α : Type} [DecidableEq α] (d : α) (m : Sparse α) (i : Nat) (f : α → α) : Sparse α :=
  Sparse.set d m i (f (Sparse.get d m i))

/-- The value at a key, with the type's own default. -/
def Sparse.at {α : Type} [Inhabited α] (m : Sparse α) (i : Nat) : α := Sparse.get default m i

/-- Write a key, with the type's own default. -/
def Sparse.put {α : Type} [Inhabited α] [DecidableEq α] (m : Sparse α) (i : Nat) (a : α) : Sparse α :=
  Sparse.set default m i a

/-- Change a key's value, with the type's own default. -/
def Sparse.mod {α : Type} [Inhabited α] [DecidableEq α] (m : Sparse α) (i : Nat) (f : α → α) : Sparse α :=
  Sparse.put m i (f (Sparse.at m i))

/-- Change every listed value. -/
def Sparse.mapVals {α : Type} [Inhabited α] [DecidableEq α] (f : Nat → α → α) : Sparse α → Sparse α
  | [] => []
  | (k, v) :: r => Sparse.put (Sparse.mapVals f r) k (f k v)

/-- Every key is above a bound, keys rise strictly and no entry is the default. -/
def Sparse.wfFrom {α : Type} [DecidableEq α] (d : α) : Nat → Sparse α → Bool
  | _, [] => true
  | b, (k, v) :: r => decide (b ≤ k) && decide (v ≠ d) && Sparse.wfFrom d (k + 1) r

/-- The canonical form. -/
def Sparse.wf {α : Type} [DecidableEq α] (d : α) (m : Sparse α) : Bool := Sparse.wfFrom d 0 m

end Sys2Proof.Machine
end

