-- ==== Sys2Proof/Machine/Bits.lean ====
section
/-! DEFINITION. Saturating counts, register fields and little-endian bytes (R7, R9 to R15). -/

namespace Sys2Proof.Machine

/-- Saturating addition on a counter of its width. -/
def satAdd {w : Nat} (x : BitVec w) (n : Nat) : BitVec w :=
  if 2 ^ w ≤ x.toNat + n then BitVec.allOnes w else x + BitVec.ofNat w n

/-- Field [hi:lo] of a register word as a number. -/
def fld (v : W32) (hi lo : Nat) : Nat := v.toNat / 2 ^ lo % 2 ^ (hi + 1 - lo)

/-- Lowest bit of a free word. -/
def odd (w : W64) : Bool := w.toNat % 2 == 1

/-- Bit i of a register word. -/
def bit (v : W32) (i : Nat) : Bool := v.toNat / 2 ^ i % 2 == 1

/-- A number at bit lo of a register word. -/
def at' (lo n : Nat) : W32 := BitVec.ofNat 32 (n * 2 ^ lo)

/-- A flag at bit i of a register word. -/
def flag (i : Nat) (b : Bool) : W32 := if b then at' i 1 else 0

/-- A flag after a write whose bit is 1 to clear it (R12). -/
def w1c (old : Bool) (v : W32) (i : Nat) : Bool := old && !bit v i

/-- Replace the low or the high word of a 64-bit value. -/
def setLo (x : W64) (v : W32) : W64 := (x &&& 0xFFFFFFFF00000000#64) ||| v.setWidth 64
def setHi (x : W64) (v : W32) : W64 := (x &&& 0xFFFFFFFF#64) ||| (v.setWidth 64 <<< 32)
def loW (n : Nat) : W32 := BitVec.ofNat 32 n
def hiW (n : Nat) : W32 := BitVec.ofNat 32 (n / 2 ^ 32)

/-- n bytes of a number, least significant first (R7). -/
def bytesOf (n v : Nat) : List Byte := (List.range n).map fun i => BitVec.ofNat 8 (v / 256 ^ i)

/-- The number in bytes, least significant first (R7). -/
def numOf : List Byte → Nat
  | [] => 0
  | b :: r => b.toNat + 256 * numOf r

/-- n-byte field at an offset of a byte string. -/
def fieldAt (bs : List Byte) (off n : Nat) : Nat := numOf ((bs.drop off).take n)

/-- Whether the bytes from lo to hi - 1 are all 0. -/
def zeroBytes (bs : List Byte) (lo hi : Nat) : Bool := ((bs.drop lo).take (hi - lo)).all (· == 0)

/-- Position of the first element that satisfies a test. -/
def indexOf {α : Type} (p : α → Bool) : List α → Option Nat
  | [] => none
  | a :: r => if p a then some 0 else (indexOf p r).map (· + 1)

end Sys2Proof.Machine
end

