-- ==== Sys2Proof/Machine/MemBlock.lean ====
section
/-! DEFINITION. The four memory tiers, device addresses, error marks and the registers of the MEM block (R444 to R466). -/

namespace Sys2Proof.Machine

/-- The bytes of the four tiers by physical place, and the units that hold the poison mark (R455).
A place number is: tile SRAM t·2²² + a; base die d (1 + d)·2⁴⁰ + o; HBM stack s (8 + s)·2⁴⁰ + o; DDR5 channel c (16 + c)·2⁴⁰ + o. -/
structure Mem where
  bytes : Sparse Byte := []
  poison : Sparse Bool := []
  deriving DecidableEq, Repr, Inhabited

/-- What an unlisted byte reads as: the zeros of R456. -/
def Mem.blank : Byte := 0

def tilePlace (t a : Nat) : Nat := t * 2 ^ 22 + a
def sramPlace (d o : Nat) : Nat := (1 + d) * 2 ^ 40 + o
def hbmPlace (st o : Nat) : Nat := (8 + st) * 2 ^ 40 + o
def ddrPlace (c o : Nat) : Nat := (16 + c) * 2 ^ 40 + o

/-- Tier of a place (R455's table order): 0 tile SRAM, 1 base-die SRAM, 2 HBM, 3 DDR5. -/
def placeTier (k : Nat) : Nat :=
  if k < 2 ^ 40 then 0 else if k < 8 * 2 ^ 40 then 1 else if k < 16 * 2 ^ 40 then 2 else 3

/-- Tile id, base die, stack or channel of a place. -/
def placeUnit (k : Nat) : Nat :=
  if k < 2 ^ 40 then k / 2 ^ 22 else if k < 8 * 2 ^ 40 then k / 2 ^ 40 - 1
  else if k < 16 * 2 ^ 40 then k / 2 ^ 40 - 8 else k / 2 ^ 40 - 16

/-- Bytes guarded by one check code: a word in SRAM, 32 B in HBM, 64 B in DDR5 (R455). -/
def eccBytes (k : Nat) : Nat :=
  match placeTier k with
  | 2 => 32 | 3 => 64 | _ => 8

/-- First place of the guarded unit that holds a place. -/
def eccUnit (k : Nat) : Nat := k / eccBytes k * eccBytes k

/-- One byte. -/
def Mem.byte (m : Mem) (k : Nat) : Byte := Sparse.get Mem.blank m.bytes k

/-- Whether a place lies in a unit that holds the poison mark. -/
def Mem.poisoned (m : Mem) (k : Nat) : Bool := Sparse.get false m.poison (eccUnit k)

/-- The bytes at a list of places, in order. -/
def Mem.read (m : Mem) (ks : List Nat) : List Byte := ks.map m.byte

/-- One byte stored. -/
def Mem.setByte (m : Mem) (k : Nat) (b : Byte) : Mem := { m with bytes := Sparse.set Mem.blank m.bytes k b }

/-- The poison mark of a unit set or cleared. -/
def Mem.setPoison (m : Mem) (k : Nat) (p : Bool) : Mem := { m with poison := Sparse.set false m.poison (eccUnit k) p }

/-- The bytes of a list of places and values stored as they are. -/
def Mem.setCells (m : Mem) (cs : List (Nat × Byte)) : Mem := cs.foldl (fun m c => m.setByte c.1 c.2) m

/-- Whether an access covers the whole unit of a place. -/
def coversUnit (cs : List (Nat × Byte)) (k : Nat) : Bool :=
  (List.range (eccBytes k)).all fun i => cs.any fun c => c.1 == eccUnit k + i

/-- One write access (R455): a unit that holds the mark keeps it and loses the bytes, unless the access covers the whole unit. -/
def Mem.write (m : Mem) (cs : List (Nat × Byte)) : Mem :=
  let whole := (cs.filter fun c => m.poisoned c.1 && coversUnit cs c.1).map fun c => eccUnit c.1
  let kept := cs.filter fun c => !m.poisoned c.1 || whole.contains (eccUnit c.1)
  (whole.foldl (fun m u => m.setPoison u false) m).setCells kept

/-- A write of data that carries poison stores the mark (R455). -/
def Mem.writePoison (m : Mem) (ks : List Nat) : Mem := ks.foldl (fun m k => m.setPoison k true) m

/-- Data read at places and written to others carries their marks with it (R455): `old` is the memory it was read from. -/
def Mem.carry (m old : Mem) (src dst : List Nat) : Mem :=
  if old.poison.isEmpty then m else m.writePoison (((src.zip dst).filter fun p => old.poisoned p.1).map (·.2))

/-- Places of a write whose units it covers in part: these units are read and merged (R455). -/
def mergedPlaces (cs : List (Nat × Byte)) : List Nat := (cs.filter fun c => !coversUnit cs c.1).map (·.1)

/-- Canonical form of the memory: places strictly rising, no entry equal to what an unlisted one reads as. -/
def Mem.wf (m : Mem) : Bool := Sparse.wf Mem.blank m.bytes && Sparse.wf false m.poison

/-- Members of an HBM or DDR5 set in ascending order (R445). -/
def setMembers (home : Nat) : List Nat :=
  if home = 0 then List.range 8 else if home ≤ 4 then [2 * (home - 1), 2 * (home - 1) + 1]
  else if home ≤ 12 then [home - 5] else []

/-- Member and member offset of an offset in a set (R445). -/
def interleave (ms : List Nat) (o : Nat) : Nat × Nat :=
  let w := ms.length
  (ms.getD (o / 4096 % w) 0, o / (4096 * w) * 4096 + o % 4096)

/-- One DDR5 channel as MEM_DDR_CH reports it (R459, R466). -/
structure DdrCh where
  refused : BitVec 4 := 0
  x8 : Bool := false
  ranks : BitVec 2 := 0
  size : BitVec 9 := 0
  present : Bool := false
  deriving DecidableEq, Repr, Inhabited

/-- Capacity of one stack that serves the interleave sets (R446). -/
def hbmServed : Nat := 36 * 2 ^ 30 - 64 * 2 ^ 20

/-- Capacity of an HBM set (R444, R446). -/
def hbmSetBytes (home : Nat) : Nat := (setMembers home).length * hbmServed

/-- Whether every member channel of a DDR5 set holds an accepted DIMM of one capacity (R448). -/
def ddrPopulated (ddr : Sparse DdrCh) (home : Nat) : Bool :=
  let cs := (setMembers home).map fun c => ddr.at c
  cs.all (fun c => c.present && c.size == (cs.headD {}).size) && !cs.isEmpty

/-- Capacity of a DDR5 set; 0 while it is not populated (R448). -/
def ddrSetBytes (ddr : Sparse DdrCh) (home : Nat) : Nat :=
  if ddrPopulated ddr home then
    (setMembers home).length * ((ddr.at ((setMembers home).headD 0)).size.toNat * 2 ^ 30) else 0

/-- Place of offset o in an HBM or DDR5 set (R445). -/
def setPlace (ddr : Bool) (home o : Nat) : Nat :=
  let p := interleave (setMembers home) o
  if ddr then ddrPlace p.1 p.2 else hbmPlace p.1 p.2

/-- Capacity of a space of R444; 0 for a space not listed. -/
def spaceBytes (ddr : Sparse DdrCh) (sp : Nat) : Nat :=
  if sp ≤ 12 then hbmSetBytes sp
  else if 0x10 ≤ sp && sp ≤ 0x13 then 508 * 2 ^ 20
  else if sp = 0x14 then 2 ^ 30
  else if 0x20 ≤ sp && sp ≤ 0x2C then ddrSetBytes ddr (sp - 0x20)
  else 0

/-- Space and offset of a device address (R444). -/
def addrSpace (a : Nat) : Nat := a / 2 ^ 42
def addrOff (a : Nat) : Nat := a % 2 ^ 42

/-- Place of a mapped device address (R444, R445). -/
def addrPlace (a : Nat) : Nat :=
  let sp := addrSpace a
  let o := addrOff a
  if sp ≤ 12 then setPlace false sp o
  else if sp ≤ 0x13 then sramPlace (sp - 0x10) o
  else if sp = 0x14 then o
  else setPlace true (sp - 0x20) o

/-- Whether a span lies wholly in one space (R444, R461). -/
def spanMapped (ddr : Sparse DdrCh) (a n : Nat) : Bool :=
  decide (a < 2 ^ 48) && decide (addrOff a + n ≤ spaceBytes ddr (addrSpace a)) && decide (0 < spaceBytes ddr (addrSpace a))

/-- Places of a mapped span. -/
def spanPlaces (a n : Nat) : List Nat := (List.range n).map fun i => addrPlace (a + i)

/-- Device address of a place through its own tile, die, one-stack set or one-channel set. -/
def placeAddr (k : Nat) : Nat :=
  match placeTier k with
  | 0 => 0x14 * 2 ^ 42 + k
  | 1 => (0x10 + placeUnit k) * 2 ^ 42 + k % 2 ^ 40
  | 2 => (5 + placeUnit k) * 2 ^ 42 + k % 2 ^ 40
  | _ => (0x25 + placeUnit k) * 2 ^ 42 + k % 2 ^ 40

/-- Device address of a place as an access through a space names it (R444, R445, log entry 13): a set of several members gives its own. -/
def addrIn (space k : Nat) : Nat :=
  let ms := setMembers (if space < 0x20 then space else space - 0x20)
  match indexOf (fun u => u == placeUnit k) ms with
  | some j =>
    if placeTier k = (if space < 0x20 then 2 else 3) then
      space * 2 ^ 42 + (k % 2 ^ 40 / 4096 * ms.length + j) * 4096 + k % 4096
    else placeAddr k
  | none => placeAddr k

/-- Place of an offset in an image store (R446): which of the two spans and the offset in its 256 MiB. -/
def storePlace (b : Bool) (o : Nat) : Nat :=
  let p := interleave (List.range 8) o
  hbmPlace p.1 (hbmServed + (if b then 32 * 2 ^ 20 else 0) + p.2)

/-- An error an access meets in the unit of its byte `i` (R453): `hits` names the code's symbols that are wrong: bits of the SRAM word, 8-bit symbols
of the 32 B of HBM, devices of an x4 burst, bits of an x8 burst numbered beat by beat, 40 to a beat. An HBM error with none is one the stack has
corrected itself and signals. -/
structure EccErr where
  i : Nat
  hits : List Nat
  deriving DecidableEq, Repr, Inhabited

/-- The errors of the memory that one command's reads meet (R453 to R455), each unit's as it stands when it is read. -/
structure Ecc where
  errs : List EccErr := []
  deriving DecidableEq, Repr, Inhabited

/-- No error; one symbol wrong at byte i; two symbols of one code word wrong there. -/
def Ecc.clean : Ecc := {}
def Ecc.corrected (i : Nat) : Ecc := { errs := [{ i := i, hits := [0] }] }
def Ecc.uncorrected (i : Nat) : Ecc := { errs := [{ i := i, hits := [0, 1] }] }

/-- What a unit's check code makes of the symbols that are wrong (R453). -/
inductive EccOut where
  | none | corrected | uncorrected
  deriving DecidableEq, Repr, Inhabited

/-- One wrong symbol of a code word is corrected, two are detected; `x8` splits a DDR5 burst into code words of 40 bits. DESIGN CHOICE: three and
more count as detected too (log entry 133). -/
def eccOut (tier : Nat) (x8 : Bool) (hits : List Nat) : EccOut :=
  let l := hits.eraseDups
  let word := fun h => if tier = 3 && x8 then h / 40 else 0
  if l.any fun a => l.any fun b => a != b && word a == word b then .uncorrected
  else if l.isEmpty && tier ≠ 2 then .none else .corrected

/-- The wrong symbols of an access by unit, in the order of the errors: a place of the unit, and its symbols. -/
def Ecc.units (e : Ecc) (ks : List Nat) : List (Nat × List Nat) :=
  e.errs.foldl (fun l x => match ks[x.i]? with
    | none => l
    | some k =>
      if l.any fun p => eccUnit p.1 == eccUnit k then l.map fun p => if eccUnit p.1 == eccUnit k then (p.1, p.2 ++ x.hits) else p
      else l ++ [(k, x.hits)]) []

/-- The errors that are left for later reads, once a read of n bytes is done. -/
def Ecc.after (e : Ecc) (n : Nat) : Ecc := { errs := (e.errs.filter fun x => decide (n ≤ x.i)).map fun x => { x with i := x.i - n } }

/-- A corrected and an uncorrected error counter (R466). -/
structure EccCnt where
  ue : BitVec 8 := 0
  ce : BitVec 24 := 0
  deriving DecidableEq, Repr, Inhabited

/-- One job of the check-value unit (R460). -/
structure CrcJob where
  addr : W64 := 0
  len : W64 := 0
  alg : Bool := false
  cont : Bool := false
  seed : W64 := 0
  sig : Bool := false
  obj : BitVec 14 := 0
  tag : BitVec 8 := 0
  deriving DecidableEq, Repr, Inhabited

/-- A result: 0 OK, 1 ADDRESS, 2 POISON (R466). -/
structure CrcRes where
  value : W64 := 0
  status : BitVec 2 := 0
  tag : BitVec 8 := 0
  deriving DecidableEq, Repr, Inhabited

/-- One patrol scrubber: scrubbers 0 to 7 serve stacks, 8 to 15 channels (R457, R458). -/
structure Scrub where
  pos : Nat := 0
  /-- a pass has completed since the previous round -/
  done : Bool := false
  deriving DecidableEq, Repr, Inhabited

/-- The registers and queues of the MEM block (R466). -/
structure MemRegs where
  poisonRd : Bool := false
  bar4Rej : Bool := false
  ddr5600 : Bool := false
  initBusy : Bool := true
  activeStore : Bool := false
  ddrDis : Bool := false
  hbmDis : Bool := false
  ddrMin : BitVec 8 := 240
  hbmMin : BitVec 8 := 60
  ddrBehind : Bool := false
  hbmBehind : Bool := false
  ddrPasses : BitVec 8 := 0
  hbmPasses : BitVec 8 := 0
  ddr : Sparse DdrCh := []
  errAddr : BitVec 48 := 0
  errValid : Bool := false
  errOverflow : Bool := false
  errSource : BitVec 2 := 0
  errTier : BitVec 2 := 0
  errUnit : BitVec 8 := 0
  /-- the cycle of the recorded error, as Tmr.age tells it -/
  errCyc : Nat := 0
  bar4RejCnt : W32 := 0
  hbmEcc : Sparse EccCnt := []
  ddrEcc : Sparse EccCnt := []
  bsramEcc : Sparse EccCnt := []
  /-- MEM_CRC_CTRL's fields and the job registers -/
  job : CrcJob := {}
  crcOverflow : Bool := false
  jobs : List CrcJob := []
  running : Option CrcJob := none
  /-- bytes the running job's scan has passed, and the check value they give (R460, R463) -/
  scanPos : Nat := 0
  scanCrc : Nat := 0
  /-- the FIFO of 64 results, and after it the one that waits for room (R462) -/
  results : List CrcRes := []
  scrub : Sparse Scrub := []
  deriving DecidableEq, Repr, Inhabited

def EccCnt.word (c : EccCnt) : W32 := at' 24 c.ue.toNat + at' 0 c.ce.toNat

/-- What the check code of a place's unit makes of wrong symbols there (R453, R459). -/
def MemRegs.eccAt (m : MemRegs) (k : Nat) (hits : List Nat) : EccOut := eccOut (placeTier k) (m.ddr.at (placeUnit k)).x8 hits

/-- Count a corrected error of a place outside tile SRAM (R454). -/
def MemRegs.countCe (m : MemRegs) (k : Nat) : MemRegs :=
  let up := fun (c : EccCnt) => { c with ce := satAdd c.ce 1 }
  match placeTier k with
  | 1 => { m with bsramEcc := m.bsramEcc.mod (placeUnit k) up }
  | 2 => { m with hbmEcc := m.hbmEcc.mod (placeUnit k) up }
  | 3 => { m with ddrEcc := m.ddrEcc.mod (placeUnit k) up }
  | _ => m

/-- Count an uncorrected error of a place outside tile SRAM (R455). -/
def MemRegs.countUe (m : MemRegs) (k : Nat) : MemRegs :=
  let up := fun (c : EccCnt) => { c with ue := satAdd c.ue 1 }
  match placeTier k with
  | 1 => { m with bsramEcc := m.bsramEcc.mod (placeUnit k) up }
  | 2 => { m with hbmEcc := m.hbmEcc.mod (placeUnit k) up }
  | 3 => { m with ddrEcc := m.ddrEcc.mod (placeUnit k) up }
  | _ => m

/-- Record an uncorrected error, or set OVERFLOW while one is recorded (R455); of two in one cycle the lower device address stands (R465). -/
def MemRegs.recordErr (m : MemRegs) (addr k source cyc : Nat) : MemRegs :=
  let m' := { m with errOverflow := m.errOverflow || m.errValid }
  if m.errValid && !(m.errCyc == cyc && decide (addr < m.errAddr.toNat)) then m'
  else { m' with errValid := true, errAddr := BitVec.ofNat 48 addr, errSource := BitVec.ofNat 2 source, errCyc := cyc
                 errTier := BitVec.ofNat 2 (placeTier k), errUnit := BitVec.ofNat 8 (placeUnit k) }

/-- Count a refused BAR4 access (R464). -/
def MemRegs.rejectBar4 (m : MemRegs) : MemRegs := { m with bar4Rej := true, bar4RejCnt := satAdd m.bar4RejCnt 1 }

/-- Whether a scrubber is enabled, and whether it serves a stack or an accepted DIMM (R457). -/
def MemRegs.scrubOn (m : MemRegs) (i : Nat) : Bool :=
  if i < 8 then !m.hbmDis else !m.ddrDis && (m.ddr.at (i - 8)).present

/-- Bytes a scrubber covers: the whole stack, image stores included, or the whole channel (R457). -/
def MemRegs.scrubBytes (m : MemRegs) (i : Nat) : Nat :=
  if i < 8 then 36 * 2 ^ 30 else (m.ddr.at (i - 8)).size.toNat * 2 ^ 30

/-- Place of a scrubber's next unit. -/
def MemRegs.scrubPlace (m : MemRegs) (i : Nat) : Nat :=
  if i < 8 then hbmPlace i (m.scrub.at i).pos else ddrPlace (i - 8) (m.scrub.at i).pos

/-- A pass completes (R458): the scrubber starts again, BEHIND is set when late, and a round counts once every scrubber of the kind has a pass. -/
def MemRegs.scrubPass (m : MemRegs) (i : Nat) (late : Bool) : MemRegs :=
  let sc := m.scrub.put i { pos := 0, done := true }
  let group := if i < 8 then List.range 8
    else ((List.range 8).filter fun c => (m.ddr.at c).present).map (· + 8)
  let full := group.all fun j => (sc.at j).done
  let sc' := if full then group.foldl (fun t j => t.mod j fun x => { x with done := false }) sc else sc
  if i < 8 then
    { m with scrub := sc', hbmBehind := m.hbmBehind || late, hbmPasses := if full then m.hbmPasses + 1 else m.hbmPasses }
  else
    { m with scrub := sc', ddrBehind := m.ddrBehind || late, ddrPasses := if full then m.ddrPasses + 1 else m.ddrPasses }

/-- MEM_CRC_CTRL.POP removes the head result (R462). -/
def MemRegs.crcPop (m : MemRegs) : MemRegs := { m with results := m.results.drop 1 }

/-- MEM_CRC_CTRL.SUBMIT queues a job, or sets OVERFLOW while 64 wait (R462). -/
def MemRegs.crcSubmit (m : MemRegs) : MemRegs :=
  if 64 ≤ m.jobs.length then { m with crcOverflow := true } else { m with jobs := m.jobs ++ [m.job] }

/-- The next job starts once the unit is idle and no completed job's result waits for the FIFO (R462); its scan stands at the first byte (R463). -/
def MemRegs.crcStart (m : MemRegs) : MemRegs :=
  match m.running, m.jobs with
  | none, j :: r => if m.results.length ≤ 64 then { m with running := some j, jobs := r, scanPos := 0, scanCrc := if j.cont then j.seed.toNat else 0 } else m
  | _, _ => m

/-- The fields of MEM_CRC_CTRL stored by a write (R466). -/
def MemRegs.crcCtrl (m : MemRegs) (v : W32) : MemRegs :=
  { m with job := { m.job with cont := bit v 29, alg := bit v 28, sig := bit v 27
                               obj := BitVec.ofNat 14 (fld v 21 8), tag := BitVec.ofNat 8 (fld v 7 0) } }

/-- A write of MEM_CRC_CTRL: its fields, then POP, then SUBMIT (R465, R466). -/
def MemRegs.crcWrite (m : MemRegs) (v : W32) : MemRegs :=
  let m := m.crcCtrl v
  let m := if bit v 30 then m.crcPop else m
  if bit v 31 then m.crcSubmit else m

/-- A number held within a range (R457). -/
def clampN (lo hi n : Nat) : Nat := max lo (min hi n)

/-- A write of MEM_SCRUB_CFG; a scrubber disabled and enabled again starts a new pass (R457, R458). -/
def MemRegs.scrubCfg (m : MemRegs) (v : W32) : MemRegs :=
  let again := fun (b : Bool) (l : List Nat) (t : Sparse Scrub) =>
    if b then l.foldl (fun t i => t.mod i fun x => { x with pos := 0 }) t else t
  { m with
    ddrDis := bit v 17, hbmDis := bit v 16
    ddrMin := BitVec.ofNat 8 (clampN 30 240 (fld v 15 8)), hbmMin := BitVec.ofNat 8 (clampN 10 60 (fld v 7 0))
    scrub := again (m.ddrDis && !bit v 17) ((List.range 8).map (· + 8)) (again (m.hbmDis && !bit v 16) (List.range 8) m.scrub) }

/-- A write to a MEM register outside the stash registers (R466). -/
def MemRegs.writeReg (m : MemRegs) (off : Nat) (v : W32) : MemRegs :=
  match off with
  | 0x00 => { m with poisonRd := w1c m.poisonRd v 7, bar4Rej := w1c m.bar4Rej v 6 }
  | 0x04 => m.scrubCfg v
  | 0x08 => { m with ddrBehind := w1c m.ddrBehind v 17, hbmBehind := w1c m.hbmBehind v 16 }
  | 0x48 => { m with errValid := w1c m.errValid v 31, errOverflow := w1c m.errOverflow v 30 }
  | 0x200 => m.crcWrite v
  | 0x204 => { m with crcOverflow := w1c m.crcOverflow v 30 }
  | 0x208 => { m with job := { m.job with addr := setLo m.job.addr v } }
  | 0x20C => { m with job := { m.job with addr := setHi m.job.addr v } }
  | 0x210 => { m with job := { m.job with len := setLo m.job.len v } }
  | 0x214 => { m with job := { m.job with len := setHi m.job.len v } }
  | 0x218 => { m with job := { m.job with seed := setLo m.job.seed v } }
  | 0x21C => { m with job := { m.job with seed := setHi m.job.seed v } }
  | _ => m

/-- What a MEM register reads as (R466). -/
def MemRegs.readReg (m : MemRegs) (off : Nat) : W32 :=
  if off = 0 then flag 7 m.poisonRd + flag 6 m.bar4Rej + flag 5 m.ddr5600 + flag 4 m.ddrDis + flag 3 m.hbmDis
    + flag 2 m.initBusy + flag 0 m.activeStore
  else if off = 0x04 then flag 17 m.ddrDis + flag 16 m.hbmDis + at' 8 m.ddrMin.toNat + at' 0 m.hbmMin.toNat
  else if off = 0x08 then flag 17 m.ddrBehind + flag 16 m.hbmBehind + at' 8 m.ddrPasses.toNat + at' 0 m.hbmPasses.toNat
  else if 0x10 ≤ off && off < 0x30 && off % 4 = 0 then
    let c := m.ddr.at ((off - 0x10) / 4)
    at' 28 c.refused.toNat + flag 24 c.x8 + at' 20 c.ranks.toNat + at' 9 c.size.toNat + flag 0 c.present
  else if off = 0x40 then loW m.errAddr.toNat
  else if off = 0x44 then hiW m.errAddr.toNat
  else if off = 0x48 then flag 31 m.errValid + flag 30 m.errOverflow + at' 12 m.errSource.toNat
    + at' 10 m.errTier.toNat + at' 0 m.errUnit.toNat
  else if off = 0x4C then m.bar4RejCnt
  else if 0x100 ≤ off && off < 0x120 && off % 4 = 0 then (m.hbmEcc.at ((off - 0x100) / 4)).word
  else if 0x120 ≤ off && off < 0x140 && off % 4 = 0 then (m.ddrEcc.at ((off - 0x120) / 4)).word
  else if 0x140 ≤ off && off < 0x150 && off % 4 = 0 then (m.bsramEcc.at ((off - 0x140) / 4)).word
  else if off = 0x200 then flag 29 m.job.cont + flag 28 m.job.alg + flag 27 m.job.sig + at' 8 m.job.obj.toNat + at' 0 m.job.tag.toNat
  else if off = 0x204 then flag 31 m.running.isSome + flag 30 m.crcOverflow + at' 16 (min 64 m.results.length)
    + at' 0 (m.jobs.length + (if m.running.isSome then 1 else 0))
  else if off = 0x208 then loW m.job.addr.toNat
  else if off = 0x20C then hiW m.job.addr.toNat
  else if off = 0x210 then loW m.job.len.toNat
  else if off = 0x214 then hiW m.job.len.toNat
  else if off = 0x218 then loW m.job.seed.toNat
  else if off = 0x21C then hiW m.job.seed.toNat
  else if off = 0x220 then loW (m.results.headD {}).value.toNat
  else if off = 0x224 then hiW (m.results.headD {}).value.toNat
  else if off = 0x228 then flag 31 (!m.results.isEmpty) + at' 8 (m.results.headD {}).status.toNat + at' 0 (m.results.headD {}).tag.toNat
  else 0

end Sys2Proof.Machine
end

