-- ==== Sys2Proof/Machine/PwrBlock.lean ====
section
/-! DEFINITION. Power and thermal control, monitors and the registers of the PWR block (R545 to R556). -/

namespace Sys2Proof.Machine

/-- A power policy (R556). -/
structure Policy where
  peakEn : Bool := true
  cool : BitVec 4 := 15
  limit : BitVec 12 := 900
  deriving DecidableEq, Repr, Inhabited

/-- A temperature sensor: its latest reading, and samples in a row at or above the trip point (R545, R553). -/
structure Temp where
  sampled : Bool := false
  valid : Bool := false
  temp : BitVec 16 := 0
  overs : Nat := 0
  deriving DecidableEq, Repr, Inhabited

/-- A rail's latest reading (R546). -/
structure Rail where
  warn : Bool := false
  mv : BitVec 16 := 0
  deriving DecidableEq, Repr, Inhabited

/-- The PWR block. -/
structure Pwr where
  nPower : Nat := 16
  nThermal : Nat := 16
  hostCap : BitVec 5 := 16
  polSel : BitVec 4 := 0
  polInForce : BitVec 4 := 0
  policy : Sparse Policy := []
  fastLimit : Bool := false
  railWarn : Bool := false
  droop : Bool := false
  thermThrottle : Bool := false
  exhausted : Bool := false
  /-- samples since the last one above LIMIT, while the fast limit acts (R551) -/
  fastQuiet : Option Nat := none
  /-- the 1 µs samples of the last 20 s in watts, newest first -/
  samples : List Nat := []
  /-- microseconds above 1,000 W (R552): auxiliary domain -/
  res : W64 := 0
  exhCnt : W32 := 0
  fastCnt : W32 := 0
  temp : Sparse Temp := []
  rail : Sparse Rail := []
  droopCnt : Sparse W32 := []
  pmon : Sparse (BitVec 24) := []
  /-- regions whose issue a droop gate holds (R548) -/
  gate : Sparse Bool := []
  deriving DecidableEq, Repr, Inhabited

/-- The policy in force. -/
def Pwr.pol (p : Pwr) : Policy := p.policy.at p.polInForce.toNat

/-- The issue share in force (R547). -/
def Pwr.issue (p : Pwr) : Nat := min (min p.nPower p.nThermal) p.hostCap.toNat

/-- Whether a tile may issue in tick t (R547). -/
def issueTick (n t : Nat) : Bool :=
  t % 16 == 0 || (t % 16) * n / 16 != (t % 16 - 1) * n / 16

/-- A thousand times p_1ms: the sum of the last 1,000 samples (R550). -/
def Pwr.sum1ms (p : Pwr) : Nat := (p.samples.take 1000).foldl (· + ·) 0

/-- p_1ms, the mean of the last 1,000 samples, in whole watts (R550, R556). -/
def Pwr.p1ms (p : Pwr) : Nat := p.sum1ms / 1000

/-- p_1ms lies above LIMIT (R550, R556). -/
def Pwr.overLimit (p : Pwr) : Bool := decide (1000 * p.pol.limit.toNat < p.sum1ms)

/-- E_w in microjoules (R549). -/
def Pwr.excess (p : Pwr) : Nat := (p.samples.map fun x => x - p.pol.limit.toNat).foldl (· + ·) 0

/-- The power controller throttles: exhausted, or held by the fast limit (R550, R551). -/
def Pwr.throttling (p : Pwr) : Bool := p.exhausted || p.fastQuiet.isSome

/-- The allowance is exhausted or restored (R549, R550). -/
def Pwr.judge (p : Pwr) : Pwr :=
  let e := p.excess
  if !p.exhausted && (!p.pol.peakEn || 360000000 ≤ e) then
    { p with exhausted := true, exhCnt := satAdd p.exhCnt 1, nPower := min p.nPower 8 }
  else if p.exhausted && p.pol.peakEn && e < 324000000 then { p with exhausted := false }
  else p

/-- One 1 µs sample of input power in watts (R549 to R552). -/
def Pwr.sample (p : Pwr) (w : Nat) : Pwr :=
  let p := { p with samples := (w :: p.samples).take 20000000
                    res := if 1000 < w then satAdd p.res 1 else p.res
                    fastQuiet := p.fastQuiet.bind fun n =>
                      if p.pol.limit.toNat < w then some 0 else if 10000 ≤ n + 1 then none else some (n + 1) }
  let p := if 1150 < w then
      { p with nPower := min p.nPower 8, fastLimit := true, fastCnt := satAdd p.fastCnt 1, fastQuiet := some 0 }
    else p
  p.judge

/-- Samples in a row above 1,200 W, up to now (R551). -/
def Pwr.overRun (p : Pwr) : Nat := (p.samples.takeWhile fun w => decide (1200 < w)).length

/-- Whether the draw has just been above 1,200 W for 1 ms (R551). -/
def Pwr.overRated (p : Pwr) : Bool := p.overRun == 1000

/-- Whether the module runs outside its rated limits now (R518, R546, R551): the draw, or a rail's latest reading. -/
def Pwr.unrated (p : Pwr) : Bool := decide (1000 ≤ p.overRun) || p.rail.any fun r => r.2.warn

/-- The periods of the power controller (R549, R550). -/
inductive Period where
  | us50 | us100 | ms1 | ms10
  deriving DecidableEq, Repr, Inhabited

/-- Whether p_1ms stayed below the limit less 20 W for the whole of the last 10 ms (R550). -/
def Pwr.quiet10ms (p : Pwr) : Bool :=
  (List.range 10000).all fun j =>
    decide (((p.samples.drop j).take 1000).foldl (· + ·) 0 + 20000 < 1000 * p.pol.limit.toNat)

/-- The power controller at one of its periods (R549, R550). -/
def Pwr.period (p : Pwr) : Period → Pwr
  | .us50 => if p.throttling && p.overLimit then { p with nPower := max 1 (p.nPower - 1) } else p
  | .us100 => { p with polInForce := p.polSel }.judge
  | .ms1 => if p.throttling then p else { p with nPower := min 16 (p.nPower + 1) }
  | .ms10 => if p.throttling && p.quiet10ms then { p with nPower := min 16 (p.nPower + 1) } else p

/-- Sensors 0 to 68 are the die sensors (R545). -/
def dieSensor (s : Nat) : Bool := decide (s ≤ 68)

/-- A reading in eighths of a degree; a failing sensor counts as at its throttle point, one not yet sampled as cold (R545). -/
def Temp.reads (t : Temp) (throttle : Int) : Int := if !t.sampled then -32768 else if t.valid then t.temp.toInt else throttle

/-- Thresholds of R553 in eighths of a degree. -/
def throttleAt (s : Nat) : Int := if dieSensor s then 840 else 760
def releaseAt (s : Nat) : Int := if dieSensor s then 816 else 736
def tripAt (s : Nat) : Int := if dieSensor s then 920 else 840

/-- Some sensor is at or above its throttle point (R553). -/
def Pwr.anyHot (p : Pwr) : Bool := (List.range 77).any fun s => decide (throttleAt s ≤ (p.temp.at s).reads (throttleAt s))

/-- Every sensor is below its release point (R553). -/
def Pwr.allCool (p : Pwr) : Bool := (List.range 77).all fun s => decide ((p.temp.at s).reads (throttleAt s) < releaseAt s)

/-- One temperature sample (R545, R553). -/
def Pwr.tempSample (p : Pwr) (s : Nat) (valid : Bool) (t : BitVec 16) : Pwr :=
  let old := p.temp.at s
  let hit := valid && decide (tripAt s ≤ t.toInt)
  let p := { p with temp := p.temp.put s { sampled := true, valid := valid, temp := if valid then t else old.temp
                                           overs := if hit then old.overs + 1 else 0 } }
  { p with thermThrottle := p.anyHot || (p.thermThrottle && !p.allCool) }

/-- A sensor has tripped: two samples in a row (R553). -/
def Pwr.tripped (p : Pwr) (s : Nat) : Bool := decide (2 ≤ (p.temp.at s).overs)

/-- A die sensor meets an alarm condition (R511, R553). -/
def tempAlarm (s : Nat) (valid : Bool) (t : BitVec 16) : Bool := dieSensor s && valid && (decide (t.toInt < -160) || decide (1000 < t.toInt))

/-- n_thermal at its 100 µs and 1 ms steps (R553). -/
def Pwr.thermalStep (p : Pwr) (ms : Bool) : Pwr :=
  if ms then (if p.allCool then { p with nThermal := min 16 (p.nThermal + 1) } else p)
  else if p.anyHot then { p with nThermal := max 1 (p.nThermal - 1) } else p

/-- The cooling request (R553, R556). -/
def Pwr.coolLevel (p : Pwr) : Nat := if p.thermThrottle then 15 else p.pol.cool.toNat

/-- Nominal voltage in mV, and the operating and glitch windows in parts per thousand (R546). -/
def railSpec (r : Nat) : Nat × Nat × Nat :=
  if r ≤ 3 then (700, 50, 120) else if r ≤ 8 then (750, 50, 120) else if r = 9 then (1100, 40, 100)
  else if r = 10 then (400, 50, 120) else if r = 11 then (1100, 40, 100) else (1800, 50, 120)

/-- Whether a voltage is outside nominal by more than parts per thousand. -/
def outside (nominal parts mv : Nat) : Bool :=
  decide (mv * 1000 < nominal * (1000 - parts)) || decide (nominal * (1000 + parts) < mv * 1000)

def railOut (r mv : Nat) : Bool := outside (railSpec r).1 (railSpec r).2.1 mv
def railGlitch (r mv : Nat) : Bool := outside (railSpec r).1 (railSpec r).2.2 mv

/-- A rail sample (R546). -/
def Pwr.railSample (p : Pwr) (r mv : Nat) : Pwr :=
  { p with rail := p.rail.put r { warn := railOut r mv, mv := BitVec.ofNat 16 mv }, railWarn := p.railWarn || railOut r mv }

/-- A droop detector trips (R548): on VDD_CMP of a region it gates the region. -/
def Pwr.droopTrip (p : Pwr) (r g : Nat) : Pwr :=
  { p with droop := true, droopCnt := p.droopCnt.mod r fun c => satAdd c 1, gate := if r ≤ 3 then p.gate.put g true else p.gate }

/-- A write to a PWR register (R556); one to the policy in force is judged at once (R549). -/
def Pwr.writeReg (p : Pwr) (off : Nat) (v : W32) : Pwr :=
  if off = 0 then { p with fastLimit := w1c p.fastLimit v 6, railWarn := w1c p.railWarn v 5, droop := w1c p.droop v 4 }
  else if off = 4 then { p with hostCap := if fld v 4 0 = 0 || 16 < fld v 4 0 then 16 else BitVec.ofNat 5 (fld v 4 0) }
  else if off = 8 then { p with polSel := BitVec.ofNat 4 (fld v 3 0) }
  else if 0x40 ≤ off && off < 0x80 && off % 4 = 0 then
    let q : Policy := { peakEn := bit v 31, cool := BitVec.ofNat 4 (fld v 27 24)
                        limit := BitVec.ofNat 12 (max 300 (min 900 (fld v 11 0))) }
    let p' := { p with policy := p.policy.put ((off - 0x40) / 4) q }
    if (off - 0x40) / 4 = p.polInForce.toNat then p'.judge else p'
  else p

/-- The sensor with the highest valid reading. -/
def Pwr.hottest (p : Pwr) : Nat × BitVec 16 :=
  ((List.range 77).filter fun s => (p.temp.at s).valid).foldl
    (fun (acc : Nat × BitVec 16) s => if acc.2.toInt < (p.temp.at s).temp.toInt then (s, (p.temp.at s).temp) else acc)
    (match (List.range 77).find? fun s => (p.temp.at s).valid with
     | some s => (s, (p.temp.at s).temp)
     | none => (0, 0))

/-- What a PWR register reads as (R556). -/
def Pwr.readReg (p : Pwr) (off : Nat) : W32 :=
  if off = 0 then at' 16 p.issue + at' 12 p.polInForce.toNat + at' 8 p.coolLevel + flag 6 p.fastLimit + flag 5 p.railWarn
    + flag 4 p.droop + flag 3 p.thermThrottle + flag 2 p.exhausted + flag 1 (decide (p.nPower < 16)) + flag 0 p.overLimit
  else if off = 4 then at' 0 p.hostCap.toNat
  else if off = 8 then at' 0 p.polSel.toNat
  else if off = 0xC then at' 16 (((p.samples.take 1000000).max?.getD 0) % 4096) + at' 0 (p.p1ms % 4096)
  else if off = 0x10 then loW (p.excess / 1000)
  else if off = 0x14 then loW p.res.toNat
  else if off = 0x18 then hiW p.res.toNat
  else if off = 0x1C then p.exhCnt
  else if off = 0x20 then p.fastCnt
  else if off = 0x24 then at' 16 p.hottest.1 + at' 0 p.hottest.2.toNat
  else if 0x40 ≤ off && off < 0x80 && off % 4 = 0 then
    let q := p.policy.at ((off - 0x40) / 4)
    flag 31 q.peakEn + at' 24 q.cool.toNat + at' 0 q.limit.toNat
  else if 0x100 ≤ off && off < 0x234 && off % 4 = 0 then
    flag 31 (p.temp.at ((off - 0x100) / 4)).valid + at' 0 (p.temp.at ((off - 0x100) / 4)).temp.toNat
  else if 0x300 ≤ off && off < 0x334 && off % 4 = 0 then
    flag 31 (p.rail.at ((off - 0x300) / 4)).warn + at' 0 (p.rail.at ((off - 0x300) / 4)).mv.toNat
  else if 0x380 ≤ off && off < 0x3B4 && off % 4 = 0 then p.droopCnt.at ((off - 0x380) / 4)
  else if 0x400 ≤ off && off < 0x440 && off % 4 = 0 then at' 0 (p.pmon.at ((off - 0x400) / 4)).toNat
  else 0

end Sys2Proof.Machine
end

