-- ==== Sys2Proof/Syntax.lean ====
section
/-! DEFINITION. The commands of the block: one constructor per row of spec/opcode_table.json. -/

namespace Sys2Proof

open Sys2Proof.Machine

/-- The commands, in the table's order. An index `i` of a host command is a place in the list of fetched entries (R478); an index
of a message is a place in the list of those under way. Operands beside these say what the event brought. -/
inductive Instr where
  /-- POWER_APPLIED (R561) -/
  | powerApplied
  /-- POWER_REMOVAL (R560) -/
  | powerRemoval
  /-- POWER_LOSS (R560) -/
  | powerLoss
  /-- PERST (R561) -/
  | perst (ns : Nat)
  /-- RESET_N (R561) -/
  | resetN (ns : Nat)
  /-- REFCLK_STOP (R563) -/
  | refclkStop
  /-- RESET_RELEASE (R567) -/
  | resetRelease
  /-- BOOT_COMPLETE (R487) -/
  | bootComplete
  /-- MGMT_WATCHDOG_EXPIRY (R562) -/
  | mgmtWatchdogExpiry
  /-- WDT_KICK (R562) -/
  | wdtKick (v : W32)
  /-- WDT_LOCK (R574) -/
  | wdtLock (v : W32)
  /-- CTL_HCI_HOST_WRITE (R472) -/
  | ctlHciHostWrite (v : W32)
  /-- SQ_TAIL_DOORBELL (R476) -/
  | sqTailDoorbell (off : BitVec 12) (size : Nat) (v : W32)
  /-- CQ_HEAD_DOORBELL (R476) -/
  | cqHeadDoorbell (off : BitVec 12) (size : Nat) (v : W32)
  /-- SQ_ENTRY_FETCH (R477) -/
  | sqEntryFetch (busErr : Bool)
  /-- HIF_SQ_CFG_WRITE (R473) -/
  | hifSqCfgWrite (q : BitVec 6) (v : W32)
  /-- HIF_CQ_CFG_WRITE (R473) -/
  | hifCqCfgWrite (q : BitVec 6) (v : W32)
  /-- HIF_BAR4_BASE_WRITE (R471) -/
  | hifBar4BaseWrite (hi : Bool) (v : W32)
  /-- BAR4_READ (R471) -/
  | bar4Read (off : Nat) (len : Nat) (ecc : Ecc)
  /-- BAR4_WRITE (R471) -/
  | bar4Write (off : Nat) (bytes : List Byte) (ecc : Ecc)
  /-- MSIX_COALESCE_TIMEOUT (R485) -/
  | msixCoalesceTimeout (q : BitVec 6)
  /-- NOP (R479) -/
  | nop (i : Nat)
  /-- IDENTIFY (R479) -/
  | identify (i : Nat)
  /-- IMAGE_LOAD (R80) -/
  | imageLoad (i : Nat) (readErr : Bool) (fault : Nat) (ecc : Ecc)
  /-- ARM (R488) -/
  | arm (i : Nat)
  /-- DISARM (R488) -/
  | disarm (i : Nat)
  /-- RUN (R487) -/
  | run (i : Nat)
  /-- DRAIN (R487) -/
  | drain (i : Nat)
  /-- STEP_ABORT (R479) -/
  | stepAbort (i : Nat)
  /-- FAULT_CLEAR (R487) -/
  | faultClear (i : Nat)
  /-- WARM_RESET (R479) -/
  | warmReset (i : Nat)
  /-- SAMPLE (R391) -/
  | sample (i : Nat)
  /-- SYNC_SIGNAL (R482) -/
  | syncSignal (i : Nat) (parity : Bool)
  /-- SYNC_TAKE (R482) -/
  | syncTake (i : Nat) (parity : Bool)
  /-- SYNC_SET (R482) -/
  | syncSet (i : Nat) (parity : Bool)
  /-- SYNC_ARM (R482) -/
  | syncArm (i : Nat) (parity : Bool)
  /-- SYNC_READ (R482) -/
  | syncRead (i : Nat) (parity : Bool)
  /-- SYNC_NOTIFY (R482) -/
  | syncNotify (i : Nat) (parity : Bool)
  /-- EXPORT (R300) -/
  | exportCmd (i : Nat) (ecc : Ecc)
  /-- IMPORT (R507) -/
  | importCmd (i : Nat) (ecc : Ecc)
  /-- SNAPSHOT (R303) -/
  | snapshot (i : Nat)
  /-- MAIL_SEND (R483) -/
  | mailSend (i : Nat)
  /-- MAIL_RECV (R483) -/
  | mailRecv (i : Nat)
  /-- ATTEST (R505) -/
  | attest (i : Nat)
  /-- ROLLBACK_ADVANCE (R503) -/
  | rollbackAdvance (i : Nat)
  /-- I3C_ADDR_ASSIGN (R491) -/
  | i3cAddrAssign (addr : BitVec 7)
  /-- SET_ENDPOINT_ID (R491) -/
  | setEndpointId (eid : BitVec 8)
  /-- GET_ENDPOINT_ID (R491) -/
  | getEndpointId
  /-- GET_MCTP_VERSION_SUPPORT (R491) -/
  | getMctpVersionSupport
  /-- GET_MESSAGE_TYPE_SUPPORT (R491) -/
  | getMessageTypeSupport
  /-- GETTID (R491) -/
  | getTid
  /-- GETPLDMVERSION (R491) -/
  | getPldmVersion
  /-- GETPLDMTYPES (R491) -/
  | getPldmTypes
  /-- GETPLDMCOMMANDS (R491) -/
  | getPldmCommands
  /-- GETPDRREPOSITORYINFO (R491) -/
  | getPdrRepositoryInfo
  /-- GETPDR (R491) -/
  | getPdr (sensor : Nat)
  /-- GETSENSORREADING (R491) -/
  | getSensorReading (sensor : Nat)
  /-- GETSTATESENSORREADINGS (R491) -/
  | getStateSensorReadings
  /-- MGMT_UNSUPPORTED_REQUEST (R491) -/
  | mgmtUnsupportedRequest (layer : BitVec 8) (command : BitVec 8)
  /-- FIRING_START (R109) -/
  | firingStart (tile : BitVec 8) (slot : BitVec 4) (ecc : Ecc) (streamed : Bool) (faults : List ArrayFault)
  /-- FIRING_END (R112) -/
  | firingEnd (tile : BitVec 8) (slot : BitVec 4) (residue : Bool)
  /-- CHECKSUM_VERDICT (R113) -/
  | checksumVerdict (tile : BitVec 8) (slot : BitVec 4) (ecc : Ecc) (faults : List ArrayFault)
  /-- MEMORY_DROP_RETURN (R114) -/
  | memoryDropReturn (tile : BitVec 8) (slot : BitVec 4) (ecc : Ecc)
  /-- ECC_WRITE_BACK (R454) -/
  | eccWriteBack (place : Nat)
  /-- FLIT_HOP (R127) -/
  | flitHop (tile : BitVec 8) (port : BitVec 2) (fault : HopFault) (aged : Bool)
  /-- FLIT_EJECT (R124) -/
  | flitEject (tile : BitVec 8) (fault : HopFault) (aged : Bool)
  /-- TILE_CREDIT_MESSAGE (R122) -/
  | tileCreditMessage (tile : BitVec 8) (port : BitVec 2) (fault : HopFault)
  /-- TILE_CREDIT_SEND (R125) -/
  | tileCreditSend (tile : BitVec 8) (edge : BitVec 20)
  /-- SWAPPED_SLOT_LOAD (R56) -/
  | swappedSlotLoad (tile : BitVec 8) (slot : BitVec 4)
  /-- DESCRIPTOR_LOAD_COMPLETE (R118) -/
  | descriptorLoadComplete (tile : BitVec 8) (slot : BitVec 4)
  /-- TIL_HALT_WRITE (R115) -/
  | tilHaltWrite (tile : BitVec 8) (v : W32)
  /-- STEM_ENGINE_START (R231) -/
  | stemEngineStart (region : BitVec 4) (ecc : Ecc)
  /-- SPOON_RECOMPUTE (R175) -/
  | spoonRecompute (tile : BitVec 8)
  /-- TILE_WATCHDOG_EXPIRY (R522) -/
  | tileWatchdogExpiry (tile : BitVec 8) (detail : Watch)
  /-- HEARTBEAT_TIMEOUT (R522) -/
  | heartbeatTimeout (region : BitVec 4) (parity : Bool)
  /-- LOCKSTEP_MISMATCH (R521) -/
  | lockstepMismatch
  /-- PLL_LOCK_LOSS (R521) -/
  | pllLockLoss (pll : Nat)
  /-- SIGNAL (R117) -/
  | signal (i : Nat) (parity : Bool)
  /-- TAKE (R116) -/
  | take (i : Nat) (parity : Bool)
  /-- MB_COMPLETE (R439) -/
  | mbComplete
  /-- MB_ADMISSION (R244) -/
  | mbAdmission
  /-- STASH_SIGNAL_PASS (R257) -/
  | stashSignalPass (layer : Nat)
  /-- FRAME_RELEASE (R258) -/
  | frameRelease (mb : Nat)
  /-- RESTORE_SERVE (R264) -/
  | restoreServe
  /-- ACCUMULATING_STORE (R285) -/
  | accumulatingStore (i : Nat) (ecc : Ecc)
  /-- PARKED_ACCUMULATE (R285) -/
  | parkedAccumulate (block : Nat) (ecc : Ecc)
  /-- STEP_START (R376) -/
  | stepStart
  /-- SWEEP_COMPLETE (R295) -/
  | sweepComplete (differ : List Nat) (ecc : Ecc)
  /-- STEP_END (R39) -/
  | stepEnd (ecc : Ecc)
  /-- XFER_WAIT_TIMEOUT (R343) -/
  | xferWaitTimeout
  /-- BUCKET_COMPLETE (R337) -/
  | bucketComplete (b : Nat) (ecc : Ecc)
  /-- CONTRIB (R350) -/
  | contrib (i : Nat) (ecc : Ecc)
  /-- POD_SUM (R353) -/
  | podSum (i : Nat) (ecc : Ecc)
  /-- BUCKET_DEADLINE_PASS (R350) -/
  | bucketDeadlinePass (b : Nat)
  /-- POD_DEADLINE_PASS (R353) -/
  | podDeadlinePass (b : Nat)
  /-- RETURN_DEADLINE_PASS (R359) -/
  | returnDeadlinePass (b : Nat)
  /-- NORM_DEADLINE_PASS (R355) -/
  | normDeadlinePass
  /-- SHARD_REDUCE_START (R351) -/
  | shardReduceStart
  /-- SHARD_REDUCE_DONE (R352) -/
  | shardReduceDone (b : Nat) (shard : Nat) (pod : Bool) (dup : Dup) (ecc : Ecc)
  /-- SHARD_UPDATE_DONE (R356) -/
  | shardUpdateDone (b : Nat) (shard : Nat) (blk : Nat) (dup : Dup) (ecc : Ecc)
  /-- NORM_PART (R355) -/
  | normPart (i : Nat)
  /-- NORM (R287) -/
  | norm (i : Nat)
  /-- RETURN (R358) -/
  | returnMsg (i : Nat) (ecc : Ecc)
  /-- RETURN_END (R358) -/
  | returnEnd (i : Nat)
  /-- FETCH (R361) -/
  | fetch (i : Nat) (ecc : Ecc)
  /-- FETCH_DATA (R361) -/
  | fetchData (i : Nat)
  /-- FETCH_END (R361) -/
  | fetchEnd (i : Nat) (ecc : Ecc)
  /-- FETCH_TIMEOUT (R361) -/
  | fetchTimeout (ecc : Ecc)
  /-- STATE_XFER (R343) -/
  | stateXfer (i : Nat) (ecc : Ecc)
  /-- XFER_END (R343) -/
  | xferEnd (i : Nat)
  /-- COMPARE_ROUND (R361) -/
  | compareRound (ecc : Ecc)
  /-- SNAPSHOT_CAPTURE (R303) -/
  | snapshotCapture (ecc : Ecc)
  /-- ARM_EPOCH (R342) -/
  | armEpoch (v : W32)
  /-- CUTOFF (R349) -/
  | cutoff (v : W32)
  /-- COMPARE_NOW (R360) -/
  | compareNow (v : W32)
  /-- PORT_ENABLE_WRITE (R308) -/
  | portEnableWrite (port : Nat) (v : W32)
  /-- TRAINING_PHASE_COMPLETE (R309) -/
  | trainingPhaseComplete (port : Nat) (inv : List Bool) (reqs idx : List Nat) (skewNs : Nat)
  /-- TRAINING_PHASE_TIMEOUT (R309) -/
  | trainingPhaseTimeout (port : Nat)
  /-- CAP_SEND (R312) -/
  | capSend (port : Nat)
  /-- CAP (R313) -/
  | cap (port : Nat) (flit : List Byte) (fec : List Nat)
  /-- PROBE (R311) -/
  | probe (port : Nat) (flit : List Byte) (fec : List Nat) (echoNs : Option Nat)
  /-- LINK_FLIT_RECEIVE (R318) -/
  | linkFlitReceive (port : Nat) (flit : List Byte) (fec : List Nat)
  /-- NAK (R318) -/
  | nak (port : Nat) (flit : List Byte) (fec : List Nat)
  /-- CREDIT (R321) -/
  | credit (port : Nat) (flit : List Byte) (fec : List Nat)
  /-- ABORT (R331) -/
  | abort (port : Nat) (flit : List Byte) (fec : List Nat)
  /-- RESEND_TIMER_EXPIRY (R318) -/
  | resendTimerExpiry (port : Nat)
  /-- IDLE_FLIT_SEND (R318) -/
  | idleFlitSend (port : Nat)
  /-- CREDIT_FLIT_SEND (R316) -/
  | creditFlitSend (port : Nat)
  /-- TIME_REQ_SEND (R328) -/
  | timeReqSend (port : Nat)
  /-- TIME_REQ (R328) -/
  | timeReq (port : Nat) (flit : List Byte) (fec : List Nat)
  /-- TIME_RESP (R329) -/
  | timeResp (port : Nat) (flit : List Byte) (fec : List Nat)
  /-- PACKET_ROUTE (R324) -/
  | packetRoute (port : Nat) (vc : BitVec 3) (parity : Bool)
  /-- PACKET_DELIVER (R327) -/
  | packetDeliver
  /-- LANE_SIGNAL_LOSS (R330) -/
  | laneSignalLoss (port : Nat) (lane : BitVec 2)
  /-- ALIGNMENT_LOSS (R330) -/
  | alignmentLoss (port : Nat) (lane : BitVec 2)
  /-- LOCK_LOSS (R330) -/
  | lockLoss (port : Nat) (lane : BitVec 2)
  /-- AUTO_RETRAIN (R308) -/
  | autoRetrain (port : Nat)
  /-- VC_STALL (R325) -/
  | vcStall (port : Nat) (vc : BitVec 3)
  /-- TIMER_ENTRY_DUE (R378) -/
  | timerEntryDue (e : BitVec 11) (parity : Bool)
  /-- TIMER_SIGNAL (R380) -/
  | timerSignal (parity : Bool)
  /-- TIMER_SET (R380) -/
  | timerSet (parity : Bool)
  /-- BUCKET_DEADLINE (R349) -/
  | bucketDeadline
  /-- STRAGGLER_CUTOFF (R349) -/
  | stragglerCutoff
  /-- DIGEST_COMPARE (R380) -/
  | digestCompare
  /-- TIMER_SNAPSHOT (R380) -/
  | timerSnapshot
  /-- PLACEMENT_SWITCH (R248) -/
  | placementSwitch
  /-- POWER_POLICY (R380) -/
  | powerPolicy
  /-- TIMER_ENTRY_CTRL_WRITE (R381) -/
  | timerEntryCtrlWrite (e : BitVec 11) (v : W32)
  /-- SET_NOW (R367) -/
  | setNow (v : W32)
  /-- TMR_STEP_WRITE (R367) -/
  | tmrStepWrite (v : W32)
  /-- SERVO_SOURCE_SELECT (R368) -/
  | servoSourceSelect (v : W32)
  /-- CT_PULSE_EDGE (R369) -/
  | ctPulseEdge
  /-- CT_REF_LOSS (R373) -/
  | ctRefLoss
  /-- PULSE_LOSS (R373) -/
  | pulseLoss
  /-- TIME_RESP_LOSS (R373) -/
  | timeRespLoss
  /-- SAMPLE_ACCEPT (R397) -/
  | sampleAccept
  /-- HEADER_READ_RETURN (R397) -/
  | headerReadReturn (seq : Nat) (busErr : Bool) (ecc : Ecc)
  /-- STAGING_RESERVE (R401) -/
  | stagingReserve
  /-- RECORD_FETCH_COMPLETE (R403) -/
  | recordFetchComplete (seq : Nat) (type : Nat) (busErr : Bool) (ecc : Ecc)
  /-- ENGINE_ASSIGN (R405) -/
  | engineAssign (kind : BitVec 2)
  /-- FIELD_DECODE_COMPLETE (R406) -/
  | fieldDecodeComplete (seq : Nat) (type : Nat) (ecc : Ecc)
  /-- FIELD_DECODE_ERROR (R410) -/
  | fieldDecodeError (seq : Nat) (type : Nat) (code : DecodeErr)
  /-- ENGINE_TIME_REPORT (R414) -/
  | engineTimeReport (seq : Nat) (us : Nat)
  /-- SAMPLE_EMIT (R435) -/
  | sampleEmit (residue : Bool) (ecc : Ecc)
  /-- ROW_SET_SEAL (R437) -/
  | rowSetSeal (residue : Bool)
  /-- CLOSE_MB (R438) -/
  | closeMb (v : W32)
  /-- FLUSH (R441) -/
  | flush (v : W32)
  /-- PATROL_SCRUB_READ (R457) -/
  | patrolScrubRead (i : BitVec 4) (ecc : Ecc)
  /-- SCRUB_PASS_COMPLETE (R458) -/
  | scrubPassComplete (i : BitVec 4) (late : Bool)
  /-- SUBMIT (R462) -/
  | submit (v : W32)
  /-- POP (R462) -/
  | pop (v : W32)
  /-- CRC_JOB_START (R462) -/
  | crcJobStart
  /-- CRC_JOB_COMPLETE (R461) -/
  | crcJobComplete (ecc : Ecc)
  /-- PROV_GO (R499) -/
  | provGo (v : W32)
  /-- PROV_LOCK (R500) -/
  | provLock (v : W32)
  /-- FUSE_BIT_BLOW (R499) -/
  | fuseBitBlow (ok : Bool)
  /-- EXPORT_KEY_COMMIT (R506) -/
  | exportKeyCommit (v : W32)
  /-- EXPORT_KEY_CLEAR (R506) -/
  | exportKeyClear (v : W32)
  /-- FUSE_INTEGRITY_CHECK (R498) -/
  | fuseIntegrityCheck (flips : List Nat)
  /-- TAMPER (R511) -/
  | tamper (ns : Nat) (held : Bool)
  /-- ALARM_FUSE_BLOW (R512) -/
  | alarmFuseBlow
  /-- DEBUG_INTRUSION (R508) -/
  | debugIntrusion
  /-- DEBUG_SESSION (R509) -/
  | debugSession
  /-- FAULT_REPORT (R527) -/
  | faultReport
  /-- TILE_FENCE (R33) -/
  | tileFence
  /-- FAULT_RECORD_WRITE (R541) -/
  | faultRecordWrite
  /-- ABANDON_COMPLETE (R532) -/
  | abandonComplete
  /-- FLT_INJECT (R542) -/
  | fltInject (v : W32)
  /-- POWER_SAMPLE (R549) -/
  | powerSample (w : Nat)
  /-- POWER_CONTROL_PERIOD (R550) -/
  | powerControlPeriod (p : Period)
  /-- TEMP_SAMPLE (R553) -/
  | tempSample (sensor : BitVec 7) (valid : Bool) (t : BitVec 16)
  /-- THERMAL_THROTTLE_STEP (R553) -/
  | thermalThrottleStep (ms : Bool)
  /-- DROOP_TRIP (R548) -/
  | droopTrip (rail : BitVec 4) (region : BitVec 4)
  /-- DROOP_GATE_END (R548) -/
  | droopGateEnd (region : BitVec 4)
  /-- RAIL_SAMPLE (R546) -/
  | railSample (rail : BitVec 4) (mv : BitVec 16)
  /-- CGLITCH (R511) -/
  | cglitch
  /-- REGISTER_WRITE (R9) -/
  | registerWrite (addr : BitVec 26) (size : Nat) (value : W64)
  /-- D3HOT_TRANSITION (R467) -/
  | d3hotTransition (on : Bool)
  /-- P3V3_AUX_IN_WINDOW (R560) -/
  | p3v3AuxInWindow
  /-- HOLDOVER_LIMIT_EXCEEDED (R374) -/
  | holdoverLimitExceeded (e0 : Nat)
  deriving DecidableEq, Repr, Inhabited

end Sys2Proof
end

