-- ==== Sys2Proof/Machine/Float32.lean ====
section
/-! DEFINITION. Binary floating point by exact arithmetic and one rounding (R133 to R136, R185, R290). -/

namespace Sys2Proof.Machine

/-- An exact value: NaN, an infinity, or (-1)^neg · m · 2^e. -/
inductive Fl where
  | nan
  | inf (neg : Bool)
  | fin (neg : Bool) (m : Nat) (e : Int)
  deriving DecidableEq, Repr, Inhabited

/-- Number of bits of a positive number; 0 for 0. -/
def bitLen (n : Nat) : Nat := if n = 0 then 0 else Nat.log2 n + 1

/-- Drop `sh` low bits, nearest, ties to even; `st` marks a nonzero remainder already dropped (R148). -/
def shiftNE (m sh : Nat) (st : Bool) : Nat :=
  if sh = 0 then m else
    let q := m >>> sh
    let r := m % 2 ^ sh
    let h := 2 ^ (sh - 1)
    if r > h || (r == h && (st || q % 2 == 1)) then q + 1 else q

/-- Magnitude bits of a binary format with `eb` exponent and `mb` fraction bits, from m·2^e (plus a trace when `st`),
nearest-even, subnormals kept; the infinity code beyond the range (R133, R147). -/
def encodeMag (eb mb : Nat) (m : Nat) (e : Int) (st : Bool) : Nat :=
  if m = 0 then 0 else
    let bias : Int := (2 ^ (eb - 1) : Nat) - 1
    let qmin : Int := 1 - bias - (mb : Int)
    let top : Int := e + (bitLen m : Int) - 1
    let q : Int := max (top - (mb : Int)) qmin
    let r := if q ≤ e then m <<< (e - q).toNat else shiftNE m (q - e).toNat st
    let code := if r < 2 ^ mb then r else ((q - qmin).toNat + 1) * 2 ^ mb + (r - 2 ^ mb)
    min code ((2 ^ eb - 1) * 2 ^ mb)

/-- The value of a code whose top exponent field means infinity and NaN (R135, R136). -/
def decodeIEEE (eb mb : Nat) (c : Nat) : Fl :=
  let neg := c / 2 ^ (eb + mb) % 2 == 1
  let ex := c / 2 ^ mb % 2 ^ eb
  let fr := c % 2 ^ mb
  let bias : Int := (2 ^ (eb - 1) : Nat) - 1
  if ex = 2 ^ eb - 1 then (if fr = 0 then .inf neg else .nan)
  else if ex = 0 then .fin neg fr (1 - bias - (mb : Int))
  else .fin neg (2 ^ mb + fr) ((ex : Int) - bias - (mb : Int))

/-- The code of an exact value, nearest-even; NaN gives the canonical NaN of R136. -/
def encodeIEEE (eb mb : Nat) (x : Fl) (st : Bool := false) : Nat :=
  match x with
  | .nan => (2 ^ eb - 1) * 2 ^ mb + 2 ^ (mb - 1)
  | .inf neg => (if neg then 2 ^ (eb + mb) else 0) + (2 ^ eb - 1) * 2 ^ mb
  | .fin neg m e => (if neg then 2 ^ (eb + mb) else 0) + encodeMag eb mb m e st

/-- The exact value of an F32 code. -/
def f32Val (x : F32) : Fl := decodeIEEE 8 23 x.toNat
/-- One F32 rounding (R133). -/
def f32Of (x : Fl) (st : Bool := false) : F32 := BitVec.ofNat 32 (encodeIEEE 8 23 x st)

/-- A positive magnitude m·2^e rounded up to F32 (R202). -/
def f32UpMag (m : Nat) (e : Int) : Nat :=
  let q : Int := max (e + (bitLen m : Int) - 24) (-149)
  let r := if q ≤ e then m <<< (e - q).toNat else (m + 2 ^ (q - e).toNat - 1) >>> (q - e).toNat
  encodeMag 8 23 r q false

/-- A value that is not negative rounded towards +∞ to F32 (R202). -/
def f32Up (x : Fl) : F32 :=
  match x with
  | .fin _ m e => BitVec.ofNat 32 (if m = 0 then 0 else f32UpMag m e)
  | y => f32Of y

/-- The exact negation. -/
def Fl.neg : Fl → Fl
  | .nan => .nan
  | .inf n => .inf (!n)
  | .fin n m e => .fin (!n) m e

/-- Signed integer m·2^(e - at) of a finite value, for `at` not above e. -/
def Fl.scaled (neg : Bool) (m : Nat) (e at' : Int) : Int :=
  let v : Int := (m <<< (e - at').toNat : Nat)
  if neg then -v else v

/-- Exact sum; x + (−x) is +0 and −0 + −0 is −0 (R194). -/
def Fl.add : Fl → Fl → Fl
  | .nan, _ => .nan
  | _, .nan => .nan
  | .inf a, .inf b => if a == b then .inf a else .nan
  | .inf a, _ => .inf a
  | _, .inf b => .inf b
  | .fin n1 m1 e1, .fin n2 m2 e2 =>
    let e := min e1 e2
    let v := Fl.scaled n1 m1 e1 e + Fl.scaled n2 m2 e2 e
    if v = 0 then .fin (n1 && n2) 0 e else .fin (decide (v < 0)) v.natAbs e

/-- Exact product. -/
def Fl.mul : Fl → Fl → Fl
  | .nan, _ => .nan
  | _, .nan => .nan
  | .inf a, .inf b => .inf (a != b)
  | .inf a, .fin n m _ => if m = 0 then .nan else .inf (a != n)
  | .fin n m _, .inf b => if m = 0 then .nan else .inf (n != b)
  | .fin n1 m1 e1, .fin n2 m2 e2 => .fin (n1 != n2) (m1 * m2) (e1 + e2)

/-- Exact product by a power of two. -/
def Fl.scale2 (x : Fl) (k : Int) : Fl :=
  match x with
  | .fin n m e => .fin n m (e + k)
  | y => y

/-- Exact sum of a list, left to right. -/
def Fl.sum : List Fl → Fl
  | [] => .fin false 0 0
  | x :: r => r.foldl Fl.add x

/-- |x|. -/
def Fl.abs : Fl → Fl
  | .nan => .nan
  | .inf _ => .inf false
  | .fin _ m e => .fin false m e

/-- Numeric order of two values that are not NaN, zeros equal (R197). -/
def Fl.lt : Fl → Fl → Bool
  | .nan, _ => false
  | _, .nan => false
  | .inf a, .inf b => a && !b
  | .inf a, _ => a
  | _, .inf b => !b
  | .fin n1 m1 e1, .fin n2 m2 e2 =>
    let e := min e1 e2
    decide (Fl.scaled n1 m1 e1 e < Fl.scaled n2 m2 e2 e)

def Fl.isNan : Fl → Bool
  | .nan => true
  | _ => false

def Fl.isFinite : Fl → Bool
  | .fin _ _ _ => true
  | _ => false

def Fl.isZero : Fl → Bool
  | .fin _ m _ => m == 0
  | _ => false

/-- The exact value of an integer. -/
def Fl.ofInt (v : Int) : Fl := .fin (decide (v < 0)) v.natAbs 0

/-- Exact integer of a finite value. -/
def Fl.toInt : Fl → Int
  | .fin n m e => (if n then -1 else 1) * (if 0 ≤ e then (m * 2 ^ e.toNat : Nat) else (m / 2 ^ (-e).toNat : Nat))
  | _ => 0

def f32Add (a b : F32) : F32 := f32Of ((f32Val a).add (f32Val b))
def f32Sub (a b : F32) : F32 := f32Of ((f32Val a).add (f32Val b).neg)
def f32Mul (a b : F32) : F32 := f32Of ((f32Val a).mul (f32Val b))
/-- a · b + c, rounded once. -/
def f32Fma (a b c : F32) : F32 := f32Of (((f32Val a).mul (f32Val b)).add (f32Val c))
def f32Neg (a : F32) : F32 := a ^^^ 0x80000000#32
def f32Lt (a b : F32) : Bool := (f32Val a).lt (f32Val b)
def f32IsNan (a : F32) : Bool := (f32Val a).isNan
def f32IsFinite (a : F32) : Bool := (f32Val a).isFinite
/-- The canonical NaN (R136). -/
def f32Nan : F32 := 0x7FC00000#32
/-- An integer converted nearest-even. -/
def f32OfInt (v : Int) : F32 := f32Of (Fl.ofInt v)
def f32OfNat (v : Nat) : F32 := f32OfInt v

/-- Running F32 sum of a list, its first term taken as it is (R185, R191). -/
def runSum : List F32 → F32
  | [] => 0
  | x :: r => r.foldl f32Add x

/-- Correctly rounded quotient (R290). -/
def f32Div (a b : F32) : F32 :=
  match f32Val a, f32Val b with
  | .nan, _ => f32Nan
  | _, .nan => f32Nan
  | .inf _, .inf _ => f32Nan
  | .inf n, .fin n2 _ _ => f32Of (.inf (n != n2))
  | .fin n _ _, .inf n2 => f32Of (.fin (n != n2) 0 0)
  | .fin n1 m1 e1, .fin n2 m2 e2 =>
    if m2 = 0 then (if m1 = 0 then f32Nan else f32Of (.inf (n1 != n2)))
    else
      let k := 64
      let num := m1 <<< k
      f32Of (.fin (n1 != n2) (num / m2) (e1 - e2 - k)) (num % m2 != 0)

/-- Integer square root, one result bit a round from bit `k`. -/
def isqrtGo : Nat → Nat → Nat → Nat
  | 0, _, r => r
  | k + 1, n, r =>
    let r' := r + 2 ^ k
    if r' * r' ≤ n then isqrtGo k n r' else isqrtGo k n r

def isqrt (n : Nat) : Nat := isqrtGo (bitLen n / 2 + 1) n 0

/-- Correctly rounded square root (R290); of a negative value the canonical NaN. -/
def f32Sqrt (a : F32) : F32 :=
  match f32Val a with
  | .nan => f32Nan
  | .inf n => if n then f32Nan else f32Of (.inf false)
  | .fin n m e =>
    if m = 0 then a else if n then f32Nan else
      let s : Int := if e % 2 = 0 then 64 else 65
      let num := m <<< s.toNat
      let r := isqrt num
      f32Of (.fin false r ((e - s) / 2)) (r * r != num)

/-- 1 divided by the argument, rounded once; rcp(±0) is ±∞ (R220). -/
def f32Rcp (a : F32) : F32 := f32Div 0x3F800000#32 a

/-- 1 / sqrt, rounded once (R220). -/
def f32Rsqrt (a : F32) : F32 :=
  match f32Val a with
  | .nan => f32Nan
  | .inf n => if n then f32Nan else 0#32
  | .fin n m e =>
    if m = 0 then f32Of (.inf n) else if n then f32Nan else
      -- 1/sqrt(m·2^e) = sqrt(2^-e / m), with 2^k extra bits under the root
      let k : Nat := 400
      let s : Int := if (e + k) % 2 = 0 then (k : Int) else (k : Int) + 1
      let num := 2 ^ s.toNat
      let r := isqrt (num / m)
      f32Of (.fin false r (-(e + s) / 2)) (r * r * m != num)

end Sys2Proof.Machine
end

