-- ==== Sys2Proof/Machine/Formats.lean ====
section
/-! DEFINITION. Number formats, block-scaled storage, conversions, stochastic rounding and the block Hadamard transform (R134 to R166). -/

namespace Sys2Proof.Machine

/-- The formats by their codes of R104. -/
inductive Fmt where
  | f32 | h16 | b16 | g16 | f8e4 | f8e5 | f6e3 | f6e2 | f4 | w2 | i8 | i4
  deriving DecidableEq, Repr, Inhabited

def Fmt.code : Fmt → Nat
  | .f32 => 0 | .h16 => 1 | .b16 => 2 | .g16 => 3 | .f8e4 => 4 | .f8e5 => 5
  | .f6e3 => 6 | .f6e2 => 7 | .f4 => 8 | .w2 => 9 | .i8 => 10 | .i4 => 11

/-- Format of a code (R104); 0xFF and unlisted codes name none. -/
def Fmt.ofCode? (c : Nat) : Option Fmt :=
  [Fmt.f32, .h16, .b16, .g16, .f8e4, .f8e5, .f6e3, .f6e2, .f4, .w2, .i8, .i4][c]?

/-- Bits of an element (R134). -/
def Fmt.bits : Fmt → Nat
  | .f32 => 32 | .h16 => 16 | .b16 => 16 | .g16 => 16 | .f8e4 => 8 | .f8e5 => 8
  | .f6e3 => 6 | .f6e2 => 6 | .f4 => 4 | .w2 => 2 | .i8 => 8 | .i4 => 4

/-- Block-scaled formats (R134). -/
def Fmt.blockScaled (f : Fmt) : Bool := 4 ≤ f.code && f.code ≤ 9

/-- Exponent and fraction widths and bias of a floating format (R134). -/
def Fmt.layout : Fmt → Nat × Nat × Int
  | .f32 => (8, 23, 127) | .h16 => (5, 10, 15) | .b16 => (8, 7, 127) | .g16 => (8, 7, 127)
  | .f8e4 => (4, 3, 7) | .f8e5 => (5, 2, 15) | .f6e3 => (3, 2, 3) | .f6e2 => (2, 3, 1)
  | .f4 => (2, 1, 1) | .w2 => (1, 0, 0) | .i8 => (1, 0, 0) | .i4 => (1, 0, 0)

/-- emax of R140. -/
def Fmt.emax : Fmt → Int
  | .f8e4 => 8 | .f8e5 => 15 | .f6e3 => 4 | .f6e2 => 2 | .f4 => 2 | _ => 0

/-- Largest finite element value of R140 as m·2^e. -/
def Fmt.maximum : Fmt → Fl
  | .f8e4 => .fin false 15 5 | .f8e5 => .fin false 7 13 | .f6e3 => .fin false 7 2
  | .f6e2 => .fin false 15 (-1) | .f4 => .fin false 3 1 | .i8 => .fin false 127 0
  | .i4 => .fin false 7 0 | .b16 => .fin false 255 120 | .g16 => .fin false 255 120
  | .h16 => .fin false 2047 5 | .f32 => .fin false 16777215 104 | .w2 => .fin false 1 0

/-- Formats that can hold a NaN (R136). -/
def Fmt.hasNan : Fmt → Bool
  | .f8e4 => true | .f8e5 => true | .f32 => true | .h16 => true | .b16 => true | .g16 => true
  | _ => false

/-- Two's complement value of an n-bit code. -/
def signedOf (n c : Nat) : Int := if c < 2 ^ (n - 1) then (c : Int) else (c : Int) - (2 ^ n : Nat)
/-- The n-bit code of an integer, modulo 2^n. -/
def codeOfInt (n : Nat) (v : Int) : Nat := (v % ((2 ^ n : Nat) : Int)).toNat

/-- The element value of a code (R135 to R139); no block or bucket scale applied. -/
def Fmt.decode (f : Fmt) (c : Nat) : Fl :=
  match f with
  | .f32 => decodeIEEE 8 23 c
  | .h16 => decodeIEEE 5 10 c
  | .b16 => decodeIEEE 8 7 c
  | .g16 => decodeIEEE 8 7 c
  | .f8e5 => decodeIEEE 5 2 c
  | .i8 => Fl.ofInt (signedOf 8 c)
  | .i4 => Fl.ofInt (signedOf 4 c)
  | .w2 => if c = 1 then .fin false 1 0 else if c = 3 then .fin true 1 0 else .fin false 0 0
  | f =>
    let (eb, mb, bias) := f.layout
    let neg := c / 2 ^ (eb + mb) % 2 == 1
    let ex := c / 2 ^ mb % 2 ^ eb
    let fr := c % 2 ^ mb
    if neg && ex == 0 && fr == 0 then (if f = .f8e4 then .nan else .fin false 0 0)
    else if ex = 0 then .fin neg fr (1 - bias - (mb : Int))
    else .fin neg (2 ^ mb + fr) ((ex : Int) - bias - (mb : Int))

/-- How a conversion rounds: nearest-even, or stochastically with a 16-bit word (R150, R151). -/
inductive Rnd where
  | nearest
  | word (u : Nat)
  deriving DecidableEq, Repr, Inhabited

/-- Exponent of the grid step at a magnitude m·2^e (R148): integers for W2, I8 and I4. -/
def Fmt.gridExp (f : Fmt) (m : Nat) (e : Int) : Int :=
  match f with
  | .w2 => 0 | .i8 => 0 | .i4 => 0
  | f =>
    let (_, mb, bias) := f.layout
    max (e + (bitLen m : Int) - 1 - (mb : Int)) (1 - bias - (mb : Int))

/-- The grid value r·2^q an exact nonzero value rounds to (R148, R151). -/
def Fmt.roundGrid (f : Fmt) (rnd : Rnd) (neg : Bool) (m : Nat) (e : Int) : Nat × Int :=
  let q := f.gridExp m e
  if q ≤ e then (m <<< (e - q).toNat, q) else
    let sh := (q - e).toNat
    match rnd with
    | .nearest => (shiftNE m sh false, q)
    | .word u =>
      let lo := m >>> sh
      let r := m % 2 ^ sh
      if r = 0 then (lo, q) else
        -- the fraction is taken from the lower signed neighbour
        let num := if neg then 2 ^ sh - r else r
        let fr := (num <<< 16) >>> sh
        let up := decide (fr + u ≥ 65536)
        if neg then (if up then (lo, q) else (lo + 1, q)) else (if up then (lo + 1, q) else (lo, q))

/-- Magnitude code of a grid value within the format's range. -/
def Fmt.magCode (f : Fmt) (r : Nat) (q : Int) : Nat :=
  match f with
  | .w2 => r | .i8 => r | .i4 => r
  | f =>
    let (_, mb, bias) := f.layout
    let qmin : Int := 1 - bias - (mb : Int)
    -- a carry out of the fraction raises the exponent
    let (r, q) := if r ≥ 2 ^ (mb + 1) then (r / 2, q + 1) else (r, q)
    if r < 2 ^ mb then r else ((q - qmin).toNat + 1) * 2 ^ mb + (r - 2 ^ mb)

/-- Counts a conversion adds to its site or to the unbound record (R149, R578). -/
structure Counts where
  nonfinite : Nat := 0
  converted : Nat := 0
  saturated : Nat := 0
  escapes : Nat := 0
  w2 : Nat := 0
  /-- largest finite magnitude's F32 exponent field (R160) -/
  maxExp : Nat := 0
  anyFinite : Bool := false
  deriving DecidableEq, Repr, Inhabited

def Counts.add (a b : Counts) : Counts :=
  { nonfinite := a.nonfinite + b.nonfinite, converted := a.converted + b.converted,
    saturated := a.saturated + b.saturated, escapes := a.escapes + b.escapes, w2 := a.w2 + b.w2,
    maxExp := max a.maxExp b.maxExp, anyFinite := a.anyFinite || b.anyFinite }

/-- The sign and magnitude code put together; only F8E5, F32, H16 and B16 keep the sign of zero (R148). -/
def Fmt.signed (f : Fmt) (neg : Bool) (mag : Nat) : Nat :=
  match f with
  | .w2 => if mag = 0 then 0 else if neg then 3 else 1
  | .i8 => codeOfInt 8 (if neg then -(mag : Int) else mag)
  | .i4 => codeOfInt 4 (if neg then -(mag : Int) else mag)
  | f =>
    let (eb, mb, _) := f.layout
    let keep := f = .f8e5 || f = .f32 || f = .h16 || f = .b16
    if mag = 0 && !keep then 0 else (if neg then 2 ^ (eb + mb) else 0) + mag

/-- The finite maximum's magnitude code; the integers reach one further below zero (R134). -/
def Fmt.satCode (f : Fmt) (neg : Bool) : Nat :=
  match f with
  | .i8 => if neg then 128 else 127
  | .i4 => if neg then 8 else 7
  | .w2 => 1 | .f8e4 => 0x7F | .f8e5 => 0x7B | .f6e3 => 0x1F | .f6e2 => 0x1F | .f4 => 7
  | _ => 0

/-- Convert one exact quotient to an element code (R147 to R151): the code, and whether it saturated or is non-finite. -/
def Fmt.encode (f : Fmt) (rnd : Rnd) (x : Fl) : Nat × Bool × Bool :=
  match f, x with
  | .f32, x => (encodeIEEE 8 23 x, false, !x.isFinite)
  | .f8e4, .nan => (0x80, false, true)
  | .f8e5, .nan => (0x7E, false, true)
  | .h16, .nan => (0x7E00, false, true)
  | .b16, .nan => (0x7FC0, false, true)
  | .g16, .nan => (0x7FC0, false, true)
  | _, .nan => (0, false, true)
  | .f8e5, .inf n => (if n then 0xFC else 0x7C, false, true)
  | .h16, .inf n => (if n then 0xFC00 else 0x7C00, false, true)
  | .b16, .inf n => (if n then 0xFF80 else 0x7F80, false, true)
  | .g16, .inf n => (if n then 0xFF80 else 0x7F80, false, true)
  | f, .inf n => (f.signed n (f.satCode n), false, true)
  | f, .fin n m e =>
    if m = 0 then (f.signed n 0, false, false) else
    let (r, q) := f.roundGrid rnd n m e
    let lim : Fl := if n && (f = .i8 || f = .i4) then Fl.fin false (f.satCode true) 0 else f.maximum
    if lim.lt (.fin false r q) then
      match f with
      | .h16 => (if n then 0xFC00 else 0x7C00, false, true)
      | .b16 => (if n then 0xFF80 else 0x7F80, false, true)
      | .g16 => (if n then 0xFF80 else 0x7F80, false, true)
      | f => (f.signed n (f.satCode n), true, false)
    else (f.signed n (f.magCode r q), false, false)

/-- e_local of R158 for the largest magnitude m·2^e. -/
def Fmt.eLocal (f : Fmt) (x : Fl) : Nat :=
  match x with
  | .fin _ m e =>
    if m = 0 then 0 else
    let b : Int := max (e + (bitLen m : Int) - 1) (-149)
    let above := (f.maximum.scale2 (b - f.emax)).lt (.fin false m e)
    let v : Int := b - f.emax + 127 + (if above then 1 else 0)
    (max 0 (min 254 v)).toNat
  | _ => 254

/-- F32 exponent field of a finite magnitude (R155). -/
def expField (x : F32) : Nat := x.toNat / 2 ^ 23 % 256

/-- The larger of two exact magnitudes. -/
def Fl.maxMag (a b : Fl) : Fl := if a.abs.lt b.abs then b.abs else a.abs

/-- The up to two elements escaped in a row block (R157): finite, above the cap's limit, largest first, ties to the lower index. -/
def escapeChoice (f : Fmt) (cap : Nat) (xs : List F32) : List Nat :=
  let lim := f.maximum.scale2 ((cap : Int) - 127)
  let cand := (xs.zipIdx).filter fun p => f32IsFinite p.1 && lim.lt (f32Val p.1).abs
  let best := fun (l : List (F32 × Nat)) =>
    l.foldl (fun (acc : Option (F32 × Nat)) p =>
      match acc with
      | none => some p
      | some a => if (f32Val a.1).abs.lt (f32Val p.1).abs then some p else some a) none
  match best cand with
  | none => []
  | some a =>
    match best (cand.filter fun p => p.2 ≠ a.2) with
    | none => [a.2]
    | some b => if a.2 < b.2 then [a.2, b.2] else [b.2, a.2]

/-- Largest finite magnitude of a block outside its escapes; 0 if none (R157). -/
def blockMag (xs : List F32) (esc : List Nat) : Fl :=
  (xs.zipIdx).foldl (fun acc p =>
    if f32IsFinite p.1 && !esc.contains p.2 then acc.maxMag (f32Val p.1) else acc) (.fin false 0 0)

/-- One coded block: 32 codes, the scale byte, the escape entry, the counts. -/
structure Block where
  codes : List Nat
  scale : Nat
  escape : Nat
  counts : Counts
  deriving DecidableEq, Repr, Inhabited

/-- Largest F32 exponent field of the finite inputs, and whether there is one (R160). -/
def maxFinite (xs : List F32) : Nat × Bool :=
  xs.foldl (fun a x => if f32IsFinite x then (max a.1 (expField x), true) else a) (0, false)

/-- A NaN block (R143, R157). DESIGN CHOICE (log entry 150): its 32 elements count as converted and its finite ones enter the site's largest
magnitude, as those of any block; R157 only counts the NaNs. -/
def nanBlock (xs : List F32) : Block :=
  let (mx, fin) := maxFinite xs
  { codes := xs.map fun _ => 0, scale := 255, escape := 0,
    counts := { nonfinite := (xs.filter f32IsNan).length, converted := xs.length, maxExp := mx, anyFinite := fin } }

/-- The codes of a block under a scale e_b and an escape choice; `rnd i` is the rounding of element i (R157). -/
def codeBlock (f : Fmt) (eb : Nat) (esc : List Nat) (rnd : Nat → Rnd) (xs : List F32) : Block :=
  let q := fun (x : F32) => (f32Val x).scale2 (127 - (eb : Int))
  let r := (xs.zipIdx).map fun p =>
    if esc.contains p.2 then
      let (c, sat, nf) := Fmt.f8e4.encode (rnd p.2) (q p.1); (0, some (0x8000 + p.2 * 256 + c), sat, nf)
    else
      let (c, sat, nf) := f.encode (rnd p.2) (q p.1); (c, none, sat, nf)
  let halves := r.filterMap fun t => t.2.1
  let (mx, fin) := maxFinite xs
  { codes := r.map (·.1), scale := eb,
    escape := halves.headD 0 + 65536 * (halves.tail.headD 0),
    counts := { nonfinite := (r.filter (·.2.2.2)).length, converted := xs.length,
                saturated := (r.filter (·.2.2.1)).length, escapes := halves.length, maxExp := mx, anyFinite := fin } }

/-- quantise_block of R157. -/
def quantiseBlock (f : Fmt) (cap : Nat) (escapes : Bool) (rnd : Nat → Rnd) (xs : List F32) : Block :=
  if !f.hasNan && xs.any f32IsNan then nanBlock xs else
  let esc := if escapes && (f = .f4 || f = .w2) then escapeChoice f cap xs else []
  codeBlock f (min cap (f.eLocal (blockMag xs esc))) esc rnd xs

/-- The SQUARE conversion of a 32-row group of one 32-column block (R209); `rnd r i` rounds element i of row r. -/
def quantiseSquare (f : Fmt) (cap : Nat) (escapes : Bool) (rnd : Nat → Nat → Rnd) (rows : List (List F32)) : List Block :=
  if !f.hasNan && rows.any (·.any f32IsNan) then rows.map nanBlock else
  let esc := rows.map fun xs => if escapes && (f = .f4 || f = .w2) then escapeChoice f cap xs else []
  let m := (rows.zip esc).foldl (fun acc p => acc.maxMag (blockMag p.1 p.2)) (.fin false 0 0)
  let eb := min cap (f.eLocal m)
  ((rows.zip esc).zipIdx).map fun p => codeBlock f eb p.1.2 (rnd p.2) p.1.1

/-- Bytes of a number, little-endian (R7). -/
def leBytes : Nat → Nat → List Byte
  | 0, _ => []
  | n + 1, v => BitVec.ofNat 8 (v % 256) :: leBytes n (v / 256)

/-- The number in bytes, little-endian (R7). -/
def leVal : List Byte → Nat
  | [] => 0
  | b :: r => b.toNat + 256 * leVal r

/-- Cut a list into pieces of n elements; `fuel` bounds the pieces. -/
def chunksGo {α : Type} (n : Nat) : Nat → List α → List (List α)
  | 0, _ => []
  | fuel + 1, l => if l.isEmpty then [] else l.take n :: chunksGo n fuel (l.drop n)

def chunks {α : Type} (n : Nat) (l : List α) : List (List α) := if n = 0 then [] else chunksGo n l.length l

/-- Codes packed from the least significant end (R142): 24-bit words for the 6-bit formats, bytes for the others. -/
def packCodes (f : Fmt) (cs : List Nat) : List Byte :=
  let per := if f.bits = 6 then 4 else if f.bits < 8 then 8 / f.bits else 1
  let bytes := if f.bits = 6 then 3 else if f.bits < 8 then 1 else f.bits / 8
  (chunks per cs).flatMap fun g => leBytes bytes (g.foldr (fun c acc => c + acc * 2 ^ f.bits) 0)

/-- n codes unpacked (R142). -/
def unpackCodes (f : Fmt) (n : Nat) (bs : List Byte) : List Nat :=
  let per := if f.bits = 6 then 4 else if f.bits < 8 then 8 / f.bits else 1
  let bytes := if f.bits = 6 then 3 else if f.bits < 8 then 1 else f.bits / 8
  ((chunks bytes bs).flatMap fun g =>
    (List.range per).map fun i => leVal g / 2 ^ (f.bits * i) % 2 ^ f.bits).take n

/-- Bytes of a row of n codes. -/
def rowBytes (f : Fmt) (n : Nat) : Nat := (n * f.bits + 7) / 8

/-- Bytes of a panel of `rows` rows of `len` elements with or without an escape table (R144); a plain matrix for other formats,
its codes packed on across rows (log entry 31). -/
def panelBytes (f : Fmt) (esc : Bool) (rows len : Nat) : Nat :=
  (rows * len * f.bits + 7) / 8
    + (if f.blockScaled then rows * (len / 32) + (if esc then rows * (len / 32) * 4 else 0) else 0)

/-- A panel read back: per row the element values, the scale byte of each block, and reserved W2 codes met (R138, R143 to R146). -/
structure PanelRow where
  elems : List Fl
  scales : List Nat
  deriving DecidableEq, Repr, Inhabited

/-- Elements of one block after its escape entry (R146): value and code counts. -/
def blockElems (f : Fmt) (codes : List Nat) (entry : Option Nat) : List Fl :=
  let base := codes.map f.decode
  match entry with
  | none => base
  | some en =>
    let put := fun (l : List Fl) (h : Nat) =>
      if h / 32768 = 1 then l.set (h / 256 % 32) (Fmt.f8e4.decode (h % 256)) else l
    -- the lower half governs when both name one index
    put (put base (en / 65536)) (en % 65536)

/-- Whether an escape entry names one index twice, which the reading unit counts as non-finite (R146). -/
def escapeClash (en : Nat) : Bool :=
  en / 32768 % 2 == 1 && en / 2 ^ 31 % 2 == 1 && en / 256 % 32 == en / 2 ^ 24 % 32

/-- Read a panel (R144). -/
def readPanel (f : Fmt) (esc : Bool) (rows len : Nat) (bs : List Byte) : List PanelRow :=
  let nb := len / 32
  let sOff := (rows * len * f.bits + 7) / 8
  let eOff := sOff + rows * nb
  let scales := (bs.drop sOff).take (rows * nb)
  let entries := chunks 4 ((bs.drop eOff).take (rows * nb * 4))
  let all := (chunks len (unpackCodes f (rows * len) (bs.take sOff))).toArray
  (List.range rows).map fun r =>
    let codes := all.getD r []
    if f.blockScaled then
      { elems := (List.range nb).flatMap fun b =>
          blockElems f ((codes.drop (32 * b)).take 32)
            (if esc then some (leVal (entries.getD (r * nb + b) [])) else none)
        scales := (List.range nb).map fun b => (scales.getD (r * nb + b) 0#8).toNat }
    else { elems := codes.map f.decode, scales := [] }

/-- Whether a valid half of an escape entry names an index (R145, R146). -/
def escapeNames (en i : Nat) : Bool :=
  (en / 32768 % 2 == 1 && en / 256 % 32 == i) || (en / 2 ^ 31 % 2 == 1 && en / 2 ^ 24 % 32 == i)

/-- Blocks of a panel in order: codes, escape entry, scale byte (R144). -/
def panelBlocks (f : Fmt) (esc : Bool) (rows len : Nat) (bs : List Byte) : List ((List Nat × Nat) × Byte) :=
  let n := rows * (len / 32)
  let off := rows * rowBytes f len
  let entries := if esc then (chunks 4 ((bs.drop (off + n)).take (4 * n))).map leVal else List.replicate n 0
  ((chunks 32 (unpackCodes f (rows * len) bs)).zip entries).zip ((bs.drop off).take n)

/-- Positions of the reserved W2 codes read in a panel (R138): the codes of a NaN block and of an escaped position are ignored (R143, R146). -/
def w2Places (esc : Bool) (rows len : Nat) (bs : List Byte) : List Nat :=
  (panelBlocks .w2 esc rows len bs).zipIdx.flatMap fun (p, k) =>
    if p.2 = 255 then [] else (p.1.1.zipIdx.filter fun c => c.1 == 2 && !escapeNames p.1.2 c.2).map fun c => 32 * k + c.2

/-- A panel row decoded to F32 (R143, R147): a NaN block gives NaN in all its elements. -/
def PanelRow.toF32 (f : Fmt) (r : PanelRow) : List F32 :=
  if f.blockScaled then
    (r.elems.zipIdx).map fun p =>
      let e := r.scales.getD (p.2 / 32) 127
      if e = 255 then f32Nan else f32Of (p.1.scale2 ((e : Int) - 127))
  else r.elems.map fun x => f32Of x

/-- Philox-4×32 with 10 rounds (R152). -/
def philoxGo : Nat → Nat → Nat → Nat → Nat → Nat → Nat → List Nat
  | 0, _, _, c0, c1, c2, c3 => [c0, c1, c2, c3]
  | n + 1, k0, k1, c0, c1, c2, c3 =>
    let p0 := 0xD2511F53 * c0
    let p1 := 0xCD9E8D57 * c2
    philoxGo n ((k0 + 0x9E3779B9) % 2 ^ 32) ((k1 + 0xBB67AE85) % 2 ^ 32)
      ((p1 / 2 ^ 32) ^^^ c1 ^^^ k0) (p1 % 2 ^ 32) ((p0 / 2 ^ 32) ^^^ c3 ^^^ k1) (p0 % 2 ^ 32)

def philox (k0 k1 c0 c1 c2 c3 : Nat) : List Nat := philoxGo 10 k0 k1 c0 c1 c2 c3

/-- 16-bit word j of the evaluation at a 64-bit index (R152, R153). -/
def philoxWord (seed c0 c1 index j : Nat) : Nat :=
  let w := (philox (seed % 2 ^ 32) (seed / 2 ^ 32 % 2 ^ 32) (c0 % 2 ^ 32) (c1 % 2 ^ 32)
    (index % 2 ^ 32) (index / 2 ^ 32 % 2 ^ 32)).getD (j / 2) 0
  w / 2 ^ (16 * (j % 2)) % 65536

/-- Who converts: the fields of the counter of R153. -/
structure RndCtx where
  seed : Nat
  step : Nat
  member : Nat
  mb : Nat
  tile : Nat
  slot : Nat
  firing : Nat
  deriving DecidableEq, Repr, Inhabited

/-- Index of R153 at a site on a tile. -/
def RndCtx.siteIndex (c : RndCtx) (low : Nat) : Nat :=
  (c.mb % 256) * 2 ^ 56 + (c.tile % 256) * 2 ^ 48 + (c.slot % 16) * 2 ^ 44 + (c.firing % 2 ^ 24) * 2 ^ 20 + low % 2 ^ 20

/-- Random word of element e converted at site s (R153, second row). -/
def RndCtx.siteWord (c : RndCtx) (s e : Nat) : Nat :=
  philoxWord c.seed c.step (c.member * 2 ^ 20 + 0x10000 + s) (c.siteIndex (e / 8)) (e % 8)

/-- Random word of the sampler's choice of an output row (R153, third row). -/
def RndCtx.spoonWord (c : RndCtx) (s row : Nat) : Nat :=
  philoxWord c.seed c.step (c.member * 2 ^ 20 + 0xF0000 + s) (c.siteIndex row) 0

/-- Random word of element e of bucket b (R153, first row). -/
def bucketWord (seed step member mb b e : Nat) : Nat :=
  philoxWord seed step (member * 2 ^ 20 + b) (mb * 2 ^ 40 + e / 8) (e % 8)

/-- Conversion to G16 under bucket scale g: x·2^(−g) exactly, then stochastic (R147). -/
def toG16 (g : Int) (u : Nat) (x : F32) : Nat × Bool :=
  let (c, _, nf) := Fmt.g16.encode (.word u) ((f32Val x).scale2 (-g))
  (c, nf)

/-- The F32 value of a G16 code under bucket scale g (R141, R147). -/
def ofG16 (g : Int) (c : Nat) : F32 := f32Of ((Fmt.g16.decode c).scale2 g)

/-- One butterfly stage of span 2^s over 32 elements. -/
def hadamardStage (s : Nat) (v : List F32) : List F32 :=
  (List.range 32).map fun i =>
    let span := 2 ^ s
    if i / span % 2 = 0 then f32Add (v.getD i 0) (v.getD (i + span) 0)
    else f32Sub (v.getD (i - span) 0) (v.getD i 0)

/-- hadamard32 of R164. -/
def hadamard32 (v : List F32) : List F32 :=
  hadamardStage 4 (hadamardStage 3 (hadamardStage 2 (hadamardStage 1 (hadamardStage 0 v))))

/-- tree_sum of R189 by fuel (the length suffices). DESIGN CHOICE (log entry 153): the sum of no terms is +0. -/
def treeSumGo : Nat → List F32 → F32
  | 0, _ => 0
  | fuel + 1, l =>
    match l with
    | [] => 0
    | [x] => x
    | _ =>
      let n := l.length
      let h := 2 ^ (bitLen (n - 1) - 1)
      f32Add (treeSumGo fuel (l.take h)) (treeSumGo fuel (l.drop h))

/-- tree_sum over a list of F32 terms (R189). -/
def treeSum (l : List F32) : F32 := treeSumGo (l.length + 1) l

end Sys2Proof.Machine
end

