-- ==== Sys2Proof/Machine/Crypto.lean ====
section
/-! DEFINITION. Check values and digests: CRC-32C (R317), CRC-64 (R388), SHAKE256 (R50, R357, R495) and AES-256-GCM (R506). -/

namespace Sys2Proof.Machine

/-- Reflected CRC register after one byte. -/
def crcByte (poly : Nat) : Nat → Nat → Nat
  | 0, c => c
  | n + 1, c => crcByte poly n (if c % 2 = 1 then (c / 2) ^^^ poly else c / 2)

def crcReg (poly : Nat) (init : Nat) (bs : List Byte) : Nat :=
  bs.foldl (fun c b => crcByte poly 8 (c ^^^ b.toNat)) init

/-- CRC-32C of R317. -/
def crc32c (bs : List Byte) : Nat := crcReg 0x82F63B78 0xFFFFFFFF bs ^^^ 0xFFFFFFFF

/-- The reflected polynomial of R388 (0x42F0_E1EB_A9EA_3693 with its bits in reverse order). -/
def crc64Poly : Nat := 0xC96C5795D7870F42

/-- CRC-64 of R388. -/
def crc64 (bs : List Byte) : Nat := crcReg crc64Poly 0xFFFFFFFFFFFFFFFF bs ^^^ 0xFFFFFFFFFFFFFFFF

/-- A continued CRC: the register is preset to the seed XOR the final XOR value (R460). -/
def crcContinue (alg64 : Bool) (seed : Nat) (bs : List Byte) : Nat :=
  if alg64 then crcReg crc64Poly (seed % 2 ^ 64 ^^^ 0xFFFFFFFFFFFFFFFF) bs ^^^ 0xFFFFFFFFFFFFFFFF
  else crcReg 0x82F63B78 (seed % 2 ^ 32 ^^^ 0xFFFFFFFF) bs ^^^ 0xFFFFFFFF


/-- A row of five of the 25 lanes of the SHAKE256 permutation, turned left by k places. -/
def turn (k : Nat) (row : List W64) : List W64 := row.drop k ++ row.take k

/-- How far ρ turns the lane at (x, y), lanes in row order: the walk (x, y) → (y, 2x + 3y) from (1, 0) meets every lane but (0, 0)
once, its step t with the triangular number (t+1)(t+2)/2. -/
def rhoTurns : List (List Nat) :=
  let walk := (List.range 24).foldl (fun (w : List (Nat × Nat) × Nat × Nat) t =>
    (w.1 ++ [(w.2.1 + 5 * w.2.2, (t + 1) * (t + 2) / 2 % 64)], w.2.2, (2 * w.2.1 + 3 * w.2.2) % 5)) ([], 1, 0)
  (List.range 5).map fun y => (List.range 5).map fun x => (walk.1.lookup (x + 5 * y)).getD 0

/-- The constant ι adds in each of the 24 rounds: bit 2^j − 1 of round i is output 7i + j of the eight-bit shift register. -/
def iotaLanes : List W64 :=
  let bits := ((List.range 168).foldl (fun (w : List Bool × Nat) _ =>
    (w.1 ++ [w.2 % 2 == 1], if w.2 < 128 then 2 * w.2 else (2 * w.2) ^^^ 0x171)) ([], 1)).1
  (List.range 24).map fun i => (List.range 7).foldl (fun l j =>
    if (bits.drop (7 * i + j)).headD false then l ||| BitVec.ofNat 64 (2 ^ (2 ^ j - 1)) else l) 0

/-- θ: each lane takes in the parity of the column before its own and, turned by one, of the column after it. -/
def mixColumns (rows : List (List W64)) : List (List W64) :=
  let parity := rows.foldl (List.zipWith (· ^^^ ·)) (List.replicate 5 0#64)
  rows.map (List.zipWith (· ^^^ ·) (List.zipWith (· ^^^ ·) (turn 4 parity) ((turn 1 parity).map (·.rotateLeft 1))))

/-- π: row y takes from row x the lane of column x + 3y. -/
def moveLanes (rows : List (List W64)) : List (List W64) :=
  (List.range 5).map fun y => rows.zipIdx.map fun r => (r.1.drop ((r.2 + 3 * y) % 5)).headD 0

/-- χ: each lane takes in the next but one where the next is clear. -/
def bendRow (row : List W64) : List W64 :=
  List.zipWith (· ^^^ ·) row (List.zipWith (fun n m => ~~~n &&& m) (turn 1 row) (turn 2 row))

/-- The permutation of SHAKE256: 24 rounds of θ, ρ, π, χ and ι. -/
def permute (rows : List (List W64)) : List (List W64) :=
  iotaLanes.foldl (fun a k =>
    match (moveLanes (List.zipWith (List.zipWith fun l n => l.rotateLeft n) (mixColumns a) rhoTurns)).map bendRow with
    | (l :: r) :: rest => ((l ^^^ k) :: r) :: rest
    | a => a) rows

/-- Sponge input of SHAKE256: the message, 0x1F, zeros and 0x80 to a multiple of 136 bytes. -/
def shakePad (bs : List Byte) : List Byte :=
  let r := 136 - (bs.length + 1) % 136
  if r = 136 then bs ++ [0x9F#8]
  else bs ++ [0x1F#8] ++ List.replicate (r - 1) 0#8 ++ [0x80#8]

/-- A block's 17 words of 8 bytes go into the first lanes, row by row. -/
def absorb (rows : List (List W64)) (block : List Byte) : List (List W64) :=
  permute (rows.zipIdx.map fun r => r.1.zipIdx.map fun l =>
    let at8 := 8 * (l.2 + 5 * r.2)
    if at8 < 136 then l.1 ^^^ BitVec.ofNat 64 (leVal ((block.drop at8).take 8)) else l.1)

/-- The bytes n blocks of output give. -/
def squeeze : Nat → List (List W64) → List Byte
  | 0, _ => []
  | n + 1, rows => (rows.flatten.take 17).flatMap (fun l => leBytes 8 l.toNat) ++ squeeze n (permute rows)

/-- The first n bytes of the SHAKE256 output (FIPS 202, named by R50). -/
def shake256 (n : Nat) (bs : List Byte) : List Byte :=
  (squeeze (n / 136 + 1) ((chunks 136 (shakePad bs)).foldl absorb (List.replicate 5 (List.replicate 5 0)))).take n

/-- Product in GF(2⁸) with AES's polynomial. -/
def gf8Mul (a b : Nat) : Nat :=
  (List.range 8).foldl (fun (s : Nat × Nat) i =>
    (if b / 2 ^ i % 2 = 1 then s.1 ^^^ s.2 else s.1,
     if s.2 ≥ 128 then (s.2 * 2 - 256) ^^^ 0x1B else s.2 * 2)) (0, a) |>.1

/-- x^254, the inverse in GF(2⁸). -/
def gf8Inv (a : Nat) : Nat :=
  let a2 := gf8Mul a a; let a4 := gf8Mul a2 a2; let a8 := gf8Mul a4 a4; let a16 := gf8Mul a8 a8
  let a32 := gf8Mul a16 a16; let a64 := gf8Mul a32 a32; let a128 := gf8Mul a64 a64
  gf8Mul a128 (gf8Mul a64 (gf8Mul a32 (gf8Mul a16 (gf8Mul a8 (gf8Mul a4 a2)))))

/-- AES's byte substitution. -/
def aesSub (a : Nat) : Nat :=
  let b := gf8Inv a
  let rot := fun n => (b * 2 ^ n) % 256 + b / 2 ^ (8 - n)
  b ^^^ rot 1 ^^^ rot 2 ^^^ rot 3 ^^^ rot 4 ^^^ 0x63

/-- AES-256 key schedule, 4-byte words appended one at a time; `fuel` words to go. -/
def aesExpandGo : Nat → Nat → List (List Nat) → List (List Nat)
  | 0, _, w => w
  | fuel + 1, rc, w =>
    let i := w.length
    let t := w.getD (i - 1) []
    let t' := if i % 8 = 0 then
        let s := (t.drop 1 ++ t.take 1).map aesSub
        [s.getD 0 0 ^^^ rc] ++ s.drop 1
      else if i % 8 = 4 then t.map aesSub else t
    let nw := (t'.zip (w.getD (i - 8) [])).map fun p => p.1 ^^^ p.2
    aesExpandGo fuel (if i % 8 = 0 then gf8Mul rc 2 else rc) (w ++ [nw])

def aesKeys (key : List Byte) : List (List Nat) :=
  aesExpandGo 52 1 (chunks 4 (key.map (·.toNat)))

def aesRound (final : Bool) (rk : List Nat) (st : List Nat) : List Nat :=
  let sb := st.map aesSub
  let sr := (List.range 16).map fun i => sb.getD ((i + 4 * (i % 4)) % 16) 0
  let mc := if final then sr else
    (List.range 16).map fun i =>
      let c := i / 4 * 4; let r := i % 4
      let at' := fun k => sr.getD (c + (r + k) % 4) 0
      gf8Mul (at' 0) 2 ^^^ gf8Mul (at' 1) 3 ^^^ at' 2 ^^^ at' 3
  (mc.zip rk).map fun p => p.1 ^^^ p.2

/-- AES-256 of one 16-byte block. -/
def aesBlock (keys : List (List Nat)) (st : List Nat) : List Nat :=
  let rk := fun r => ((keys.drop (4 * r)).take 4).flatten
  let s0 := (st.zip (rk 0)).map fun p => p.1 ^^^ p.2
  (List.range 14).foldl (fun s r => aesRound (r == 13) (rk (r + 1)) s) s0

/-- Big-endian value of bytes. -/
def beVal (bs : List Nat) : Nat := bs.foldl (fun a b => a * 256 + b) 0
def beBytes (n v : Nat) : List Nat := (List.range n).map fun i => v / 256 ^ (n - 1 - i) % 256

/-- Product in GF(2¹²⁸) as GCM orders its bits. -/
def ghashMul (x y : Nat) : Nat :=
  (List.range 128).foldl (fun (s : Nat × Nat) i =>
    (if x / 2 ^ (127 - i) % 2 = 1 then s.1 ^^^ s.2 else s.1,
     if s.2 % 2 = 1 then (s.2 / 2) ^^^ (0xE1 * 2 ^ 120) else s.2 / 2)) (0, y) |>.1

def pad16 (bs : List Nat) : List Nat := bs ++ List.replicate ((16 - bs.length % 16) % 16) 0

/-- GCM key stream over data, counter from 2. -/
def gcmCtr (keys : List (List Nat)) (iv : List Nat) (data : List Nat) : List Nat :=
  ((chunks 16 data).zipIdx).flatMap fun p =>
    (p.1.zip (aesBlock keys (iv ++ beBytes 4 (p.2 + 2)))).map fun q => q.1 ^^^ q.2

def gcmTag (keys : List (List Nat)) (iv aad ct : List Nat) : List Nat :=
  let h := beVal (aesBlock keys (List.replicate 16 0))
  let s := (chunks 16 (pad16 aad ++ pad16 ct ++ beBytes 8 (8 * aad.length) ++ beBytes 8 (8 * ct.length))).foldl
    (fun y b => ghashMul (y ^^^ beVal b) h) 0
  beBytes 16 (s ^^^ beVal (aesBlock keys (iv ++ beBytes 4 1)))

def toNats (bs : List Byte) : List Nat := bs.map (·.toNat)
def ofNats (bs : List Nat) : List Byte := bs.map (BitVec.ofNat 8)

/-- AES-256-GCM sealing: ciphertext and tag (R506). -/
def gcmSeal (key iv aad plain : List Byte) : List Byte × List Byte :=
  let k := aesKeys key
  let ct := gcmCtr k (toNats iv) (toNats plain)
  (ofNats ct, ofNats (gcmTag k (toNats iv) (toNats aad) ct))

/-- AES-256-GCM opening: the plain text when the tag matches (R507). -/
def gcmOpen (key iv aad ct tag : List Byte) : Option (List Byte) :=
  let k := aesKeys key
  if ofNats (gcmTag k (toNats iv) (toNats aad) (toNats ct)) = tag then
    some (ofNats (gcmCtr k (toNats iv) (toNats ct))) else none

end Sys2Proof.Machine
end

