-- ==== Sys2Proof/Machine/HifBlock.lean ====
section
/-! DEFINITION. Queues, completions, events, MSI-X and the registers of the HIF block (R470 to R485, R493). -/

namespace Sys2Proof.Machine

/-- Completion codes of R480. -/
inductive Code where
  | success | stateReject | invalidOpcode | invalidField | version | address | tooSmall | aborted | imageReject | fault
  | importReject | limit | precondition | sampleVoid
  deriving DecidableEq, Repr, Inhabited

def Code.num : Code → Nat
  | .success => 0 | .stateReject => 1 | .invalidOpcode => 2 | .invalidField => 3 | .version => 4 | .address => 5
  | .tooSmall => 6 | .aborted => 7 | .imageReject => 8 | .fault => 9 | .importReject => 10 | .limit => 11
  | .precondition => 12 | .sampleVoid => 0x20

/-- A completion or event waiting to be written: the fields of R475 but sq_head and PHASE, which belong to the moment of writing. -/
structure Compl where
  cid : BitVec 16 := 0
  sqid : BitVec 8 := 0
  code : BitVec 8 := 0
  event : Bool := false
  /-- order of receipt of its entry: the model's own, for FENCE (R474) -/
  order : Nat := 0
  detail : BitVec 8 := 0
  result0 : W64 := 0
  result1 : W64 := 0
  result2 : W64 := 0
  deriving DecidableEq, Repr, Inhabited

/-- A submission queue (R473, R493). `stopped` is the stop of R476 after a fetch bus error. -/
structure Sq where
  base : W64 := 0
  enable : Bool := false
  prio : BitVec 2 := 0
  cq : BitVec 6 := 0
  size : BitVec 12 := 0
  dbErr : Bool := false
  fetchErr : Bool := false
  stopped : Bool := false
  head : BitVec 12 := 0
  tail : BitVec 12 := 0
  deriving DecidableEq, Repr, Inhabited

/-- A completion queue (R473, R485, R493), with the completions it holds while full (R476) and its unsignalled entries. -/
structure Cq where
  base : W64 := 0
  enable : Bool := false
  intEn : Bool := false
  vector : BitVec 7 := 0
  coalCnt : BitVec 4 := 0
  coalUs : BitVec 7 := 0
  size : BitVec 12 := 0
  addrErr : Bool := false
  phase : Bool := false
  head : BitVec 12 := 0
  tail : BitVec 12 := 0
  held : List Compl := []
  unsig : Nat := 0
  deriving DecidableEq, Repr, Inhabited

/-- A fetched submission entry (R474). -/
structure Entry where
  sq : Nat
  opcode : BitVec 8
  fence : Bool
  cid : BitVec 16
  p0 : W64
  p1 : W64
  p2 : W64
  p3 : W64
  data : List Byte
  /-- order of receipt (R477): the model's own -/
  order : Nat := 0
  deriving DecidableEq, Repr, Inhabited

/-- An MSI-X table entry (R469); PCIe gives a vector masked after reset (log entry 14). -/
structure MsixEntry where
  addr : W64 := 0
  data : W32 := 0
  mask : Bool := true
  deriving DecidableEq, Repr, Inhabited

/-- What the endpoint has sent: MSI-X messages and read completions (log entry 8). -/
inductive HostOut where
  | msix (vector : Nat) (addr : W64) (data : W32)
  | readData (bytes : List Byte)
  /-- a completion with EP set and undefined data (R471) -/
  | poisoned (bytes : List Byte)
  /-- the AER message that reports it (R467, R471) -/
  | aerReport
  /-- what answers a request while the endpoint takes none (R565, R567): configuration request retry, or Unsupported Request -/
  | retry
  | unsupported
  deriving DecidableEq, Repr, Inhabited

/-- A packet delivered to the host mailbox (R483): source node, MSG and the bytes the buffer receives. -/
structure Mail where
  node : Nat
  msg : Nat
  bytes : List Byte
  deriving DecidableEq, Repr, Inhabited

/-- The HIF block, host memory as the bus master sees it (log entry 7) and what the endpoint has sent. -/
structure Hif where
  bar4Base : BitVec 48 := 0
  /-- log2 of the BAR4 size: 30 to 36, default 34 (R467) -/
  bar4Log : Nat := 34
  d3hot : Bool := false
  /-- AER status: a poisoned completion has been reported (R471) -/
  aerPoisoned : Bool := false
  evtLost : W32 := 0
  mbxDrop : W32 := 0
  snapAddr : W64 := 0
  snapLen : W64 := 0
  sq : Sparse Sq := []
  cq : Sparse Cq := []
  /-- queue last served in each priority (R477) -/
  rr : Sparse Nat := []
  /-- entries fetched and not completed, in order of receipt (R477, R478) -/
  fetched : List Entry := []
  /-- entries received so far (R477): the model's own -/
  received : Nat := 0
  events : List Compl := []
  mailHeld : List Mail := []
  /-- MAIL_RECV entries outstanding, in order of receipt -/
  mailRecv : List Entry := []
  /-- the MAILBOX event of this run of held packets has been posted (R483) -/
  mailTold : Bool := false
  msix : Sparse MsixEntry := []
  pba : Sparse Bool := []
  mem : Sparse Byte := []
  /-- 4 KiB pages of host memory whose access ends in a bus error: host memory's own state (R476, R480, R493, log entry 7) -/
  holes : List Nat := []
  out : List HostOut := []
  deriving DecidableEq, Repr, Inhabited

/-- Sizes of the BARs in bytes (R468). -/
def Hif.barBytes (h : Hif) : Nat → Nat
  | 0 => 2 ^ 26 | 2 => 2 ^ 12 | 4 => 2 ^ h.bar4Log | _ => 0

/-- Class code and device id of the configuration space (R467). -/
def pciClass : Nat := 0x120000
def pciDevice : Nat := 0x0F72

/-- The Resizable BAR capability sets BAR4's size (R467): a power of two from 1 GiB to 64 GiB; the base stays a multiple of it (R471). No row of the
opcode table writes configuration space (log entry 100). -/
def Hif.resizeBar4 (h : Hif) (n : Nat) : Hif :=
  if n < 30 || 36 < n then h else { h with bar4Log := n, bar4Base := BitVec.ofNat 48 (h.bar4Base.toNat / 2 ^ n * 2 ^ n) }

/-- The doorbell at an offset of BAR2 (R470): its queue, and whether it is a head doorbell. Only 4-byte writes at 8q and 8q + 4 are doorbells. -/
def doorbellAt (off size : Nat) : Option (Nat × Bool) :=
  if size = 4 && off % 4 = 0 && off < 512 then some (off / 8, off % 8 == 4) else none

/-- BAR2 reads return 0 (R470). -/
def bar2Read (_off : Nat) : W32 := 0

/-- Whether an access of n bytes of host memory ends in a bus error (R476, R480). -/
def Hif.busErr (h : Hif) (a n : Nat) : Bool := h.holes.any fun p => decide (a < 4096 * (p + 1) ∧ 4096 * p < a + n)

/-- Bytes of host memory. -/
def Hif.readMem (h : Hif) (a n : Nat) : List Byte := (List.range n).map fun i => Sparse.get 0 h.mem (a + i)

/-- Bytes written to host memory. -/
def Hif.writeMem (h : Hif) (a : Nat) (bs : List Byte) : Hif :=
  { h with mem := (bs.zipIdx).foldl (fun m p => Sparse.set 0 m (a + p.2) p.1) h.mem }

/-- Entries of a queue from its SIZE field (R473). -/
def qEntries (size : BitVec 12) : Nat := size.toNat + 1

/-- A full completion queue (R476): one more entry would make tail and head equal, which reads as empty (log entry 15). -/
def Cq.full (c : Cq) : Bool := (c.tail.toNat + 1) % qEntries c.size == c.head.toNat

/-- Send a vector's message, or mark it pending while masked (R485). -/
def Hif.sendMsix (h : Hif) (v : Nat) : Hif :=
  let e := h.msix.at v
  if e.mask then { h with pba := h.pba.put v true } else { h with out := h.out ++ [.msix v e.addr e.data] }

/-- Signal after an entry is written (R485): each at once under HCI 1.0 and for an event, else every COAL_CNT + 1 entries. -/
def Hif.signalCq (h : Hif) (hciMinor q : Nat) (event : Bool) : Hif :=
  let c := h.cq.at q
  if !c.intEn then h
  else if event || hciMinor = 0 || c.coalCnt.toNat ≤ c.unsig then
    { h with cq := h.cq.put q { c with unsig := 0 } }.sendMsix c.vector.toNat
  else { h with cq := h.cq.put q { c with unsig := c.unsig + 1 } }

/-- The 32 bytes of an entry (R475). -/
def Compl.bytes (c : Compl) (sqHead : Nat) (phase : Bool) : List Byte :=
  bytesOf 2 c.cid.toNat ++ [c.sqid, c.code] ++ bytesOf 2 sqHead
    ++ bytesOf 1 ((if phase then 1 else 0) + (if c.event then 2 else 0)) ++ [c.detail]
    ++ bytesOf 8 c.result0.toNat ++ bytesOf 8 c.result1.toNat ++ bytesOf 8 c.result2.toNat

/-- Write one entry at the tail, advance it, turn the phase over when it wraps, and signal (R475, R485). A bus error on the write sets ADDR_ERR
(R493); DESIGN CHOICE: the entry is lost and the tail goes on (log entry 141). -/
def Hif.writeEntry (h : Hif) (hciMinor q : Nat) (c : Compl) : Hif :=
  let k := h.cq.at q
  let sqHead := if c.event then 0 else (h.sq.at c.sqid.toNat).head.toNat
  let t := (k.tail.toNat + 1) % qEntries k.size
  let a := k.base.toNat + 32 * k.tail.toNat
  let bad := h.busErr a 32
  let k := { k with addrErr := k.addrErr || bad }
  let h := if bad then h else h.writeMem a (c.bytes sqHead k.phase)
  { h with cq := h.cq.put q { k with tail := BitVec.ofNat 12 t, phase := if t = 0 then !k.phase else k.phase } }.signalCq
    hciMinor q c.event

/-- Post a completion (R475, R476): held behind others or while the queue is full; discarded when it is not enabled (log entry 16). -/
def Hif.post (h : Hif) (hciMinor q : Nat) (c : Compl) : Hif :=
  let k := h.cq.at q
  if !k.enable then h
  else if k.full || !k.held.isEmpty then { h with cq := h.cq.put q { k with held := k.held ++ [c] } }
  else h.writeEntry hciMinor q c

/-- Post an event to completion queue 0, or hold it, or lose it (R484). -/
def Hif.event (h : Hif) (hciMinor : Nat) (type : Nat) (detail : Nat) (r0 r1 r2 : W64) : Hif :=
  let c : Compl := { cid := 0xFFFF, sqid := 0xFF, code := BitVec.ofNat 8 type, event := true, detail := BitVec.ofNat 8 detail
                     result0 := r0, result1 := r1, result2 := r2 }
  let k := h.cq.at 0
  if k.enable && !k.full && k.held.isEmpty && h.events.isEmpty then h.writeEntry hciMinor 0 c
  else if h.events.length < 256 then { h with events := h.events ++ [c] }
  else { h with evtLost := satAdd h.evtLost 1 }

/-- Write held completions, then (for queue 0) waiting events, while the queue has room (R476, R484, R490). -/
def Hif.release (hciMinor q : Nat) : Nat → Hif → Hif
  | 0, h => h
  | n + 1, h =>
    let k := h.cq.at q
    if !k.enable || k.full then h else
    match k.held with
    | c :: r => Hif.release hciMinor q n ({ h with cq := h.cq.put q { k with held := r } }.writeEntry hciMinor q c)
    | [] =>
      if q = 0 then
        match h.events with
        | c :: r => Hif.release hciMinor q n ({ h with events := r }.writeEntry hciMinor q c)
        | [] => h
      else h

/-- The completion of an entry (R475, R479). -/
def Hif.complete (h : Hif) (hciMinor : Nat) (e : Entry) (code : Code) (detail : Nat := 0) (r0 r1 r2 : W64 := 0) : Hif :=
  let q := (h.sq.at e.sq).cq.toNat
  h.post hciMinor q { cid := e.cid, sqid := BitVec.ofNat 8 e.sq, code := BitVec.ofNat 8 code.num, detail := BitVec.ofNat 8 detail
                      order := e.order, result0 := r0, result1 := r1, result2 := r2 }

/-- The submission entry fetched from a queue's head (R474). -/
def Hif.entryBytes (h : Hif) (q : Nat) : List Byte :=
  let s := h.sq.at q
  h.readMem (s.base.toNat + 128 * s.head.toNat) 128

/-- The fields of an entry (R474). -/
def parseEntry (q : Nat) (bs : List Byte) : Entry :=
  { sq := q, opcode := BitVec.ofNat 8 (fieldAt bs 0 1), fence := fieldAt bs 1 1 % 2 == 1, cid := BitVec.ofNat 16 (fieldAt bs 2 2)
    p0 := BitVec.ofNat 64 (fieldAt bs 8 8), p1 := BitVec.ofNat 64 (fieldAt bs 16 8), p2 := BitVec.ofNat 64 (fieldAt bs 24 8)
    p3 := BitVec.ofNat 64 (fieldAt bs 32 8), data := (bs.drop 64).take 64 }

/-- Whether an entry's reserved bytes are 0 (R474). -/
def entryReservedOk (bs : List Byte) : Bool :=
  fieldAt bs 1 1 / 2 == 0 && zeroBytes bs 4 8 && zeroBytes bs 40 64
    && (fieldAt bs 0 1 == 0x20 || zeroBytes bs 64 128)

/-- Least HCI minor version of a listed opcode (R479). -/
def opcodeVersion (op : Nat) : Option Nat :=
  if op ∈ [0x00, 0x01, 0x10, 0x11, 0x12, 0x13, 0x14, 0x15, 0x18, 0x19, 0x20, 0x30, 0x60, 0x62] then some 0
  else if op ∈ [0x40, 0x41, 0x42] then some 2
  else if op ∈ [0x50, 0x51] then some 3
  else none

/-- The serial commands (R478). -/
def isSerial (op : Nat) : Bool := (0x10 ≤ op && op ≤ 0x19) || (0x40 ≤ op && op ≤ 0x42) || op == 0x62

/-- Whether a queue has an entry to fetch. -/
def Sq.ready (s : Sq) : Bool := s.enable && !s.stopped && s.head != s.tail

/-- The queue next served (R477): highest priority first, round-robin by queue id after the last served. `hold` names queues held back. -/
def Hif.nextQueue (h : Hif) (hold : Nat → Bool) : Option Nat :=
  let ready := (List.range 64).filter fun q => (h.sq.at q).ready && !hold q
  match (ready.map fun q => (h.sq.at q).prio.toNat).max? with
  | none => none
  | some p =>
    let same := ready.filter fun q => (h.sq.at q).prio.toNat == p
    let last := Sparse.get 63 h.rr p
    match same.find? fun q => decide (last < q) with
    | some q => some q
    | none => same.head?

/-- A tail doorbell (R476); `v` is the index it carries. -/
def Hif.tailDoorbell (h : Hif) (q v : Nat) : Hif :=
  let s := h.sq.at q
  let n := qEntries s.size
  if !s.enable then h
  else if n ≤ v || (s.tail.toNat + n - s.head.toNat) % n + (v + n - s.tail.toNat) % n ≥ n then
    { h with sq := h.sq.put q { s with dbErr := true } }
  else { h with sq := h.sq.put q { s with tail := BitVec.ofNat 12 v } }

/-- A head doorbell (R476): entries are freed and held completions follow. -/
def Hif.headDoorbell (h : Hif) (hciMinor q v : Nat) : Hif :=
  let k := h.cq.at q
  let n := qEntries k.size
  if !k.enable then h
  else if n ≤ v || (v + n - k.head.toNat) % n > (k.tail.toNat + n - k.head.toNat) % n then
    { h with cq := h.cq.put q { k with addrErr := true } }
  else
    { h with cq := h.cq.put q { k with head := BitVec.ofNat 12 v } }.release hciMinor q (k.held.length + h.events.length)

/-- SIZE as stored: 0 stores 1 (R493). -/
def sizeField (v : W32) : BitVec 12 := if fld v 11 0 = 0 then 1 else BitVec.ofNat 12 (fld v 11 0)

/-- A write of HIF_SQ_CFG (R473). -/
def Hif.writeSqCfg (h : Hif) (hciValid : Bool) (q : Nat) (v : W32) : Hif :=
  let s := h.sq.at q
  if s.enable then (if bit v 31 then h else { h with sq := h.sq.put q { s with enable := false, stopped := false } })
  else
    let s := { s with prio := BitVec.ofNat 2 (fld v 28 27), cq := BitVec.ofNat 6 (fld v 21 16), size := sizeField v }
    let on := bit v 31 && hciValid && (h.cq.at s.cq.toNat).enable
    { h with sq := h.sq.put q (if on then { s with enable := true, stopped := false, head := 0, tail := 0 } else s) }

/-- Whether an enabled submission queue posts to a completion queue (R473). -/
def Hif.cqUsed (h : Hif) (q : Nat) : Bool := (List.range 64).any fun i => (h.sq.at i).enable && (h.sq.at i).cq.toNat == q

/-- A write of HIF_CQ_CFG (R473, R484). -/
def Hif.writeCqCfg (h : Hif) (hciValid : Bool) (hciMinor q : Nat) (v : W32) : Hif :=
  let k := h.cq.at q
  if k.enable then
    if bit v 31 || h.cqUsed q then h
    else { h with cq := h.cq.put q { k with enable := false, held := [], unsig := 0 } }
  else
    let k := { k with intEn := bit v 30, vector := BitVec.ofNat 7 (fld v 29 23), coalCnt := BitVec.ofNat 4 (fld v 22 19)
                      coalUs := BitVec.ofNat 7 (fld v 18 12), size := sizeField v }
    if bit v 31 && hciValid then
      { h with cq := h.cq.put q { k with enable := true, head := 0, tail := 0, phase := true, held := [], unsig := 0 } }.release
        hciMinor q h.events.length
    else { h with cq := h.cq.put q k }

/-- HIF_BAR4_BASE stored, rounded down to a multiple of the BAR4 size (R471). -/
def Hif.writeBar4Base (h : Hif) (hi : Bool) (v : W32) : Hif :=
  let old := h.bar4Base.toNat
  let new := if hi then v.toNat % 2 ^ 16 * 2 ^ 32 + old % 2 ^ 32 else old / 2 ^ 32 * 2 ^ 32 + v.toNat
  { h with bar4Base := BitVec.ofNat 48 (new / 2 ^ h.bar4Log * 2 ^ h.bar4Log) }

/-- The MSI-X coalescing timer of a queue (R485). -/
def Hif.coalesceTimeout (h : Hif) (hciMinor q : Nat) : Hif :=
  let k := h.cq.at q
  if k.enable && k.intEn && k.coalUs != 0 && 0 < k.unsig && 1 ≤ hciMinor then
    { h with cq := h.cq.put q { k with unsig := 0 } }.sendMsix k.vector.toNat
  else h

/-- A write to the MSI-X table (R469); a vector unmasked while pending is sent under PCIe's rules. -/
def Hif.writeMsix (h : Hif) (off : Nat) (v : W32) : Hif :=
  let i := off / 16
  let e := h.msix.at i
  match off % 16 with
  | 0 => { h with msix := h.msix.put i { e with addr := setLo e.addr v } }
  | 4 => { h with msix := h.msix.put i { e with addr := setHi e.addr v } }
  | 8 => { h with msix := h.msix.put i { e with data := v } }
  | 12 =>
    let h := { h with msix := h.msix.put i { e with mask := bit v 0 } }
    if !bit v 0 && h.pba.at i then { h with pba := h.pba.put i false }.sendMsix i else h
  | _ => h

/-- A write to a HIF register (R493), the queues' windows included. -/
def Hif.writeReg (h : Hif) (hciValid : Bool) (hciMinor off : Nat) (v : W32) : Hif :=
  if off = 0x00 then h.writeBar4Base false v
  else if off = 0x04 then h.writeBar4Base true v
  else if off = 0x10 then { h with snapAddr := setLo h.snapAddr v }
  else if off = 0x14 then { h with snapAddr := setHi h.snapAddr v }
  else if off = 0x18 then { h with snapLen := setLo h.snapLen v }
  else if off = 0x1C then { h with snapLen := setHi h.snapLen v }
  else if 0x1000 ≤ off && off < 0x2000 then
    let q := (off - 0x1000) / 0x40
    let s := h.sq.at q
    let k := h.cq.at q
    match (off - 0x1000) % 0x40 with
    | 0x00 => if s.enable then h else { h with sq := h.sq.put q { s with base := setLo s.base (v &&& 0xFFFFF000#32) } }
    | 0x04 => if s.enable then h else { h with sq := h.sq.put q { s with base := setHi s.base v } }
    | 0x08 => h.writeSqCfg hciValid q v
    | 0x0C => { h with sq := h.sq.put q { s with dbErr := w1c s.dbErr v 31, fetchErr := w1c s.fetchErr v 30 } }
    | 0x10 => if k.enable then h else { h with cq := h.cq.put q { k with base := setLo k.base (v &&& 0xFFFFF000#32) } }
    | 0x14 => if k.enable then h else { h with cq := h.cq.put q { k with base := setHi k.base v } }
    | 0x18 => h.writeCqCfg hciValid hciMinor q v
    | 0x1C => { h with cq := h.cq.put q { k with addrErr := w1c k.addrErr v 30 } }
    | _ => h
  else h

/-- What a HIF register reads as (R493). -/
def Hif.readReg (h : Hif) (off : Nat) : W32 :=
  if off = 0x00 then loW h.bar4Base.toNat else if off = 0x04 then hiW h.bar4Base.toNat
  else if off = 0x08 then h.evtLost else if off = 0x0C then h.mbxDrop
  else if off = 0x10 then loW h.snapAddr.toNat else if off = 0x14 then hiW h.snapAddr.toNat
  else if off = 0x18 then loW h.snapLen.toNat else if off = 0x1C then hiW h.snapLen.toNat
  else if 0x1000 ≤ off && off < 0x2000 then
    let s := h.sq.at ((off - 0x1000) / 0x40)
    let k := h.cq.at ((off - 0x1000) / 0x40)
    match (off - 0x1000) % 0x40 with
    | 0x00 => loW s.base.toNat
    | 0x04 => hiW s.base.toNat
    | 0x08 => flag 31 s.enable + at' 27 s.prio.toNat + at' 16 s.cq.toNat + at' 0 s.size.toNat
    | 0x0C => flag 31 s.dbErr + flag 30 s.fetchErr + at' 0 s.head.toNat
    | 0x10 => loW k.base.toNat
    | 0x14 => hiW k.base.toNat
    | 0x18 => flag 31 k.enable + flag 30 k.intEn + at' 23 k.vector.toNat + at' 19 k.coalCnt.toNat + at' 12 k.coalUs.toNat + at' 0 k.size.toNat
    | 0x1C => flag 31 (k.enable && k.full && (!k.held.isEmpty || (off == 0x101C && !h.events.isEmpty))) + flag 30 k.addrErr + flag 12 k.phase + at' 0 k.tail.toNat
    | _ => 0
  else 0

/-- A packet for the host mailbox: to the first outstanding buffer, or held, or dropped (R483). A buffer whose write meets a bus error completes
with ADDRESS, and the packet goes on to the next (R480). -/
def Hif.mailbox (h : Hif) (hciMinor : Nat) (m : Mail) : Hif :=
  let bad := fun (e : Entry) => h.busErr e.p1.toNat m.bytes.length
  let h := (h.mailRecv.takeWhile bad).foldl (fun h e => { h with mailRecv := h.mailRecv.drop 1 }.complete hciMinor e .address) h
  match h.mailRecv with
  | e :: r =>
    ({ h with mailRecv := r }.writeMem e.p1.toNat m.bytes).complete hciMinor e .success 0 (BitVec.ofNat 64 m.node)
      (BitVec.ofNat 64 (m.msg + (m.bytes.length - 8) * 2 ^ 16))
  | [] =>
    if 64 ≤ h.mailHeld.length then { h with mbxDrop := satAdd h.mbxDrop 1 }
    else
      let h := { h with mailHeld := h.mailHeld ++ [m] }
      if h.mailTold then h
      else { h with mailTold := true }.event hciMinor 0x05 0 (BitVec.ofNat 64 h.mailHeld.length) 0 0

end Sys2Proof.Machine
end

