-- ==== Sys2Proof/Machine/LnkBlock.lean ====
section
/-! DEFINITION. Evoad ports, flits, retry, credits, the router and the registers of the LNK block (R306 to R333). -/

namespace Sys2Proof.Machine

/-- Port states of R308. -/
inductive PState where
  | disabled | training | negotiating | up | down
  deriving DecidableEq, Repr, Inhabited

def PState.code : PState → Nat
  | .disabled => 0 | .training => 1 | .negotiating => 2 | .up => 3 | .down => 4

/-- A sequenced flit as the sender holds it: type and VC, 56 payload bytes, and the packet it belongs to. -/
structure TxFlit where
  type : Nat
  vc : Nat
  payload : List Byte
  pid : Nat
  deriving DecidableEq, Repr, Inhabited

/-- A packet in an input buffer: the payloads received of it, whether its last flit is in, and where it has been routed. -/
structure RxPkt where
  flits : List (List Byte)
  done : Bool
  /-- output port and VC its head has been looked up for, while it waits there (R324) -/
  want : Option (Nat × Nat) := none
  /-- output port and VC once its head has left -/
  out : Option (Nat × Nat) := none
  /-- its packet number on that output -/
  pid : Nat := 0
  /-- its flits are discarded as they arrive (R324, R331) -/
  drop : Bool := false
  deriving DecidableEq, Repr, Inhabited

/-- A packet whose head has left on an output and whose last flit has not: its number, VC, and the flits it has taken credits for and not yet
sent (R321). -/
structure OpenPkt where
  pid : Nat
  vc : Nat
  left : Nat
  deriving DecidableEq, Repr, Inhabited

/-- One lane (R309, R310, R333). -/
structure LinkLane where
  /-- equalisation requests its receiver made in phase 3 -/
  requests : Nat := 0
  index : BitVec 2 := 0
  inverted : Bool := false
  aligned : Bool := false
  lock : Bool := false
  deriving DecidableEq, Repr, Inhabited

/-- One Evoad port. -/
structure Port where
  ttEn : Bool := false
  verMask : BitVec 2 := 3
  autoRetrain : Bool := false
  enable : Bool := false
  vcStall : Bool := false
  down : Bool := false
  downReason : BitVec 4 := 0
  version : BitVec 2 := 0
  state : PState := .disabled
  pVersions : BitVec 2 := 0
  pPort : BitVec 4 := 0
  pNode : BitVec 12 := 0
  loopNs : BitVec 9 := 0
  lanes : Sparse LinkLane := []
  fecCorr : W32 := 0
  fecUncorr : W32 := 0
  crcErr : W32 := 0
  replay : W32 := 0
  lostPkt : W32 := 0
  asym : BitVec 16 := 0
  period : BitVec 16 := 1000
  ttOffset : W32 := 0
  ttDelay : W32 := 0
  /-- training phase, 1 to 6 (R309) -/
  phase : Nat := 0
  /-- versions this side offers, read at the start of phase 6 -/
  offer : BitVec 2 := 0
  /-- echoes of the 16 probes received so far (R311) -/
  echoes : Nat := 0
  /-- a CAP from the partner has been received (R312) -/
  seen : Bool := false
  /-- sender: next sequence number, unacknowledged flits oldest first, flits waiting for room per VC, the VC it serves first, resends of the oldest -/
  seqNext : BitVec 12 := 0
  held : List (BitVec 12 × TxFlit) := []
  txq : Sparse (List TxFlit) := []
  txNext : Nat := 0
  resends : Nat := 0
  /-- packets whose head has left on this port and whose last flit has not -/
  openPids : List OpenPkt := []
  nextPid : Nat := 0
  /-- per VC, the input port whose turn it is (R322) -/
  turn : Sparse Nat := []
  /-- receiver: the slot of 257 that comes next, and the bits in of the codeword under way (R307) -/
  rxSlot : Nat := 0
  rxBits : Nat := 0
  /-- receiver: next sequence number expected, a NAK sent and not yet answered -/
  expected : BitVec 12 := 0
  nakPending : Bool := false
  /-- credits taken per VC (R321): 160 less this are left -/
  used : Sparse Nat := []
  /-- the partner's freed counters as last reported, this side's own, and this side's as last told -/
  pFreed : Sparse (BitVec 16) := []
  freed : Sparse (BitVec 16) := []
  told : Sparse (BitVec 16) := []
  /-- last TIME_REQ: its id and t1 in 1/64 ns (R328) -/
  ttId : BitVec 16 := 0
  ttT1 : Option Nat := none
  /-- input buffers per VC -/
  rx : Sparse (List RxPkt) := []
  deriving DecidableEq, Repr, Inhabited

/-- A route entry (R333). -/
structure Route where
  valid : Bool := false
  dlA : Bool := false
  alt : BitVec 4 := 0xF
  dlP : Bool := false
  primary : BitVec 4 := 0xF
  deriving DecidableEq, Repr, Inhabited

/-- A packet of R323: routing header and message payload, with its VC. -/
structure Packet where
  dst : Nat
  src : Nat
  msg : Nat
  hops : Nat := 0
  vc : Nat
  payload : List Byte
  deriving DecidableEq, Repr, Inhabited

/-- A packet this module injects, and the MAIL_SEND that waits for it (R483). -/
structure Inject where
  pkt : Packet
  /-- as of a packet in an input buffer -/
  want : Option (Nat × Nat) := none
  entry : Option Entry := none
  deriving DecidableEq, Repr, Inhabited

/-- The LNK block and the router. -/
structure Lnk where
  nodeId : BitVec 12 := 0
  badMsg : Bool := false
  hopLimit : Bool := false
  noRoute : Bool := false
  altUsed : Bool := false
  dropCnt : W32 := 0
  route : Sparse Route := []
  port : Sparse Port := []
  /-- packets injected here, per VC, oldest first -/
  inject : Sparse (List Inject) := []
  /-- packets delivered to the local port (R327) -/
  localQ : List Packet := []
  /-- flits sent, each with its port (log entry 8) -/
  out : List (Nat × List Byte) := []
  /-- quarters of a flit's slot that have passed since the last whole one: a cycle is 1.25 slots (R306) -/
  quarters : Nat := 0
  deriving DecidableEq, Repr, Inhabited

/-- Fields of a link header (R314). -/
def flitType (h : W32) : Nat := fld h 31 29
def flitVc (h : W32) : Nat := fld h 28 26
def flitSeq (h : W32) : Nat := fld h 25 14
def flitAck (h : W32) : Nat := fld h 13 2
def flitAckV (h : W32) : Bool := bit h 1

/-- Header word of a received flit. -/
def flitHeader (bs : List Byte) : W32 := BitVec.ofNat 32 (fieldAt bs 0 4)
def flitPayload (bs : List Byte) : List Byte := (bs.drop 4).take 56

/-- The CRC of R317. -/
def flitCrcOk (bs : List Byte) : Bool := bs.length == 64 && crc32c (bs.take 60) == fieldAt bs 60 4

/-- A payload brought to 56 bytes. -/
def pad56 (bs : List Byte) : List Byte := (bs ++ List.replicate 56 0).take 56

/-- The 64 bytes of a flit, with the receiver's current ACK (R314, R317, R318). -/
def Port.flit (p : Port) (type vc seq : Nat) (payload : List Byte) : List Byte :=
  let h := type * 2 ^ 29 + vc * 2 ^ 26 + seq * 2 ^ 14 + p.expected.toNat * 4 + 2
  let body := bytesOf 4 h ++ pad56 payload
  body ++ bytesOf 4 (crc32c body)

/-- The sequenced types (R315): HEAD, BODY, TAIL, SINGLE and ABORT. -/
def isSequenced (t : Nat) : Bool := t == 1 || t == 2 || t == 3 || t == 4 || t == 6

/-- Flits of a packet (R323). -/
def packetLen (plen : Nat) : Nat := 1 + ((plen - 48) + 55) / 56

/-- Packet header fields of a HEAD's payload (R323). -/
def headDst (pl : List Byte) : Nat := fieldAt pl 0 2 % 4096
def headSrc (pl : List Byte) : Nat := fieldAt pl 2 2
def headMsg (pl : List Byte) : Nat := fieldAt pl 4 1
def headHops (pl : List Byte) : Nat := fieldAt pl 5 1
def headPlen (pl : List Byte) : Nat := fieldAt pl 6 2

/-- A HEAD's payload with its HOPS replaced. -/
def setHops (pl : List Byte) (h : Nat) : List Byte := pl.set 5 (BitVec.ofNat 8 h)

/-- The flit payloads of a packet (R323). -/
def Packet.flits (k : Packet) : List (List Byte) :=
  let head := bytesOf 2 k.dst ++ bytesOf 2 k.src ++ bytesOf 1 k.msg ++ bytesOf 1 k.hops ++ bytesOf 2 k.payload.length
  (head ++ k.payload.take 48) :: chunks 56 (k.payload.drop 48)

/-- A packet back from its flit payloads. -/
def packetOf (vc : Nat) (fl : List (List Byte)) : Packet :=
  let h := fl.headD []
  { dst := headDst h, src := headSrc h, msg := headMsg h, hops := headHops h, vc := vc
    payload := ((h.drop 8) ++ (fl.drop 1).flatten).take (headPlen h) }

/-- Largest message payload of a version (R313). -/
def plenLimit (version : BitVec 2) : Nat := if version = 2 then 4096 else 1024

/-- A port, and a port replaced. -/
def Lnk.setPort (l : Lnk) (i : Nat) (p : Port) : Lnk := { l with port := l.port.put i p }

/-- Send an unsequenced flit: SEQ 0 (R314, R315). -/
def Lnk.sendCtrl (l : Lnk) (i : Nat) (type : Nat) (payload : List Byte) : Lnk :=
  { l with out := l.out ++ [(i, (l.port.at i).flit type 0 0 payload)] }

/-- The flit an output port sends next of those that wait: round-robin over the virtual channels (R322). -/
def Port.nextTx (p : Port) : Option (Nat × TxFlit × List TxFlit) :=
  ((List.range 8).map fun j => (p.txNext + j) % 8).findSome? fun vc => match p.txq.at vc with | f :: r => some (vc, f, r) | [] => none

/-- One slot of an output port (R318, R322): the flit chosen goes into the replay buffer and onto the link, while fewer than 1,024 are
unacknowledged. -/
def Lnk.serve (l : Lnk) (i : Nat) : Lnk :=
  let p := l.port.at i
  if p.state ≠ .up || 1024 ≤ p.held.length then l else
  match p.nextTx with
  | none => l
  | some (vc, f, r) =>
    let p' := { p with txq := p.txq.put vc r, txNext := (vc + 1) % 8, held := p.held ++ [(p.seqNext, f)], seqNext := p.seqNext + 1 }
    { l.setPort i p' with out := l.out ++ [(i, p.flit f.type f.vc p.seqNext.toNat f.payload)] }

/-- One slot of every port that has data flits. -/
def Lnk.slot (l : Lnk) : Lnk := (l.port.filter fun p => !p.2.txq.isEmpty).foldl (fun l p => l.serve p.1) l

/-- One cycle of the time base: one slot, and every fourth cycle a second one (R306). -/
def Lnk.cycle (l : Lnk) : Lnk :=
  if l.port.all fun p => p.2.txq.isEmpty then l
  else
    let l := { l.slot with quarters := (l.quarters + 1) % 4 }
    if l.quarters = 0 then l.slot else l

/-- Sequenced flits wait on an output for their slots. -/
def Lnk.sendFlits (l : Lnk) (i : Nat) (fs : List TxFlit) : Lnk :=
  let p := l.port.at i
  l.setPort i { p with txq := fs.foldl (fun q f => q.mod f.vc fun l => l ++ [f]) p.txq }

/-- Count freed flits of a VC at an input (R316). -/
def Lnk.free (l : Lnk) (i vc n : Nat) : Lnk :=
  if 12 ≤ i then l else
  let p := l.port.at i
  l.setPort i { p with freed := p.freed.mod vc fun c => c + BitVec.ofNat 16 n }

/-- Release the replay entries before an acknowledged number (R318). -/
def Port.ack (p : Port) (a : Nat) : Port :=
  let n := match p.held with
    | [] => 0
    | (s, _) :: _ => (a + 4096 - s.toNat) % 4096
  if n = 0 || p.held.length < n then p else { p with held := p.held.drop n, resends := 0 }

/-- Resend every held flit from a sequence number (R318). -/
def Lnk.resendFrom (l : Lnk) (i : Nat) (e : Nat) : Lnk :=
  let p := l.port.at i
  let fs := p.held.dropWhile fun h => h.1.toNat != e
  let oldest := match p.held with
    | (s, _) :: _ => s.toNat == e
    | [] => false
  let p' := { p with replay := satAdd p.replay 1, resends := if oldest then p.resends + 1 else p.resends }
  { l.setPort i p' with out := l.out ++ fs.map fun h => (i, p.flit h.2.type h.2.vc h.1.toNat h.2.payload) }

/-- Packets lost on an output: their heads sent and not wholly acknowledged (R331). -/
def Port.lost (p : Port) : Nat :=
  ((p.held.map fun h => h.2.pid) ++ (p.txq.flatMap fun q => q.2.map (·.pid)) ++ p.openPids.map (·.pid)).eraseDups.length

/-- Credits, sequence numbers and counters at their initial values, the replay buffer empty (R331): before a port goes UP, and when it loses its
link. -/
def Port.restart (p : Port) : Port :=
  { p with lostPkt := satAdd p.lostPkt p.lost, held := [], txq := [], openPids := [], resends := 0, seqNext := 0, expected := 0
           nakPending := false, used := [], pFreed := [], freed := [], told := [], version := 0, ttT1 := none, phase := 0
           echoes := 0, seen := false }

/-- What a port loses with its link: that, and, its partner sending electrical idle too, the lock and the alignment of its lanes (R308, R331,
R333). -/
def Port.unlink (p : Port) : Port :=
  { p.restart with lanes := p.lanes.mapVals fun _ x => { x with lock := false, aligned := false } }

/-- The ABORT flits that end packets that were arriving on a port, with the outputs they go to (R331). -/
def Port.aborts (p : Port) : List (Nat × TxFlit) :=
  (List.range 8).filterMap fun vc =>
    match (p.rx.at vc).getLast? with
    | some k => if k.done then none else k.out.map fun o => (o.1, { type := 6, vc := o.2, payload := [], pid := k.pid })
    | none => none

/-- A packet's last flit has gone out on a port: the credits of flits it never sent are held no more (R321). -/
def Lnk.endPacket (l : Lnk) (o pid : Nat) : Lnk :=
  let p := l.port.at o
  match p.openPids.find? fun x => x.pid == pid with
  | some x => l.setPort o { p with openPids := p.openPids.filter fun y => y.pid != pid, used := p.used.mod x.vc fun u => u - x.left }
  | none => l

/-- A later flit of a packet follows its head on an output (R321, R324). -/
def Lnk.forward (l : Lnk) (o : Nat) (f : TxFlit) : Lnk :=
  let p := l.port.at o
  let l := (l.setPort o { p with openPids := p.openPids.map fun x => if x.pid == f.pid then { x with left := x.left - 1 } else x }).sendFlits o [f]
  if f.type = 2 then l else l.endPacket o f.pid

/-- Packets in an input buffer when an output port leaves the link (R331): those leaving by it are dropped as they arrive, and a head that waits for
it is looked up again. -/
def RxPkt.lose (i : Nat) (k : RxPkt) : RxPkt :=
  let k := if (k.want.map (·.1)) = some i then { k with want := none } else k
  if (k.out.map (·.1)) = some i then { k with drop := true, out := none } else k

/-- A port leaves the link, to a state of its own (R308, R331): its replay buffer and sequence numbers go, packets arriving on it are
ended by ABORT, and packets that were leaving by it are dropped as they arrive. -/
def Lnk.leave (l : Lnk) (i : Nat) (st : PState) : Lnk :=
  let p := l.port.at i
  let ab := p.aborts
  let p' := { p.unlink with state := st, rx := p.rx.mapVals fun _ ks => ks.filter (·.done) }
  let l := l.setPort i p'
  let l := { l with
    port := l.port.mapVals fun _ q => { q with rx := q.rx.mapVals fun _ ks => ks.map (RxPkt.lose i) }
    inject := l.inject.mapVals fun _ q => q.map fun x => if (x.want.map (·.1)) = some i then { x with want := none } else x }
  ab.foldl (fun l a => if a.1 = i then l else l.forward a.1 a.2) l

/-- A port goes to DOWN (R331). -/
def Lnk.toDown (l : Lnk) (i reason : Nat) : Lnk :=
  let l := l.leave i .down
  l.setPort i { (l.port.at i) with down := true, downReason := BitVec.ofNat 4 reason }

/-- Reason codes of a phase that times out (R309). -/
def phaseReason (ph : Nat) : Nat :=
  match ph with
  | 1 => 1 | 2 => 3 | 3 => 5 | 4 => 2 | 5 => 6 | _ => 7

/-- Training starts (R308, R309). -/
def Lnk.train (l : Lnk) (i : Nat) : Lnk :=
  let p := l.port.at i
  l.setPort i { p with state := .training, phase := 1, echoes := 0, seen := false, loopNs := 0, lanes := [] }

/-- A write of LNK_PORT_CTRL (R308, R333). -/
def Lnk.writePortCtrl (l : Lnk) (i : Nat) (v : W32) : Lnk :=
  let p := { l.port.at i with ttEn := bit v 4, verMask := BitVec.ofNat 2 (fld v 3 2), autoRetrain := bit v 1, enable := bit v 0 }
  let l := l.setPort i p
  if !bit v 0 then l.leave i .disabled
  else if p.state = .disabled then l.train i else l

/-- A training phase completes (R309 to R311): `inv` holds the lanes found inverted in phase 2, `reqs` the equalisation requests each lane's receiver
made in phase 3, `idx` the lane indices found in phase 4 and `skewNs` the skew between lanes. A lane that asks for more than 64 requests does not
complete phase 3. Phase 5 starts the flit layer with an IDLE flit, and then sends its probes. -/
def Lnk.phaseDone (l : Lnk) (i : Nat) (inv : List Bool) (reqs idx : List Nat) (skewNs : Nat) : Lnk :=
  let p := l.port.at i
  let lane := fun (f : Nat → LinkLane → LinkLane) => (List.range 4).foldl (fun t k => t.mod k (f k)) p.lanes
  match p.phase with
  | 1 => l.setPort i { p with phase := 2 }
  | 2 => l.setPort i { p with phase := 3, lanes := lane fun k x => { x with inverted := inv.getD k false, lock := true } }
  | 3 => if (List.range 4).any fun k => decide (64 < reqs.getD k 0) then l
    else l.setPort i { p with phase := 4, lanes := lane fun k x => { x with requests := reqs.getD k 0 } }
  | 4 =>
    if 48 < skewNs || ((List.range 4).map fun k => idx.getD k 0 % 4).eraseDups.length ≠ 4 then l.toDown i 9
    else
      let l := l.setPort i { p with phase := 5, rxSlot := 0, rxBits := 0, lanes := lane fun k x => { x with aligned := true, index := BitVec.ofNat 2 (idx.getD k 0) } }
      -- the IDLE flit of R309 and the 16 probes of R311
      (List.range 16).foldl (fun l n => l.sendCtrl i 5 (bytesOf 1 6 ++ bytesOf 1 0 ++ bytesOf 2 n)) (l.sendCtrl i 0 [])
  | 5 =>
    if p.echoes < 16 then l
    else if 224 < p.loopNs.toNat then l.toDown i 6
    else l.setPort i { p with phase := 6, state := .negotiating, offer := p.verMask, seen := false }
  | _ => l

/-- The CAP flit of R312. -/
def Lnk.capPayload (l : Lnk) (i : Nat) : List Byte :=
  let p := l.port.at i
  bytesOf 1 5 ++ bytesOf 1 p.offer.toNat ++ bytesOf 2 l.nodeId.toNat ++ bytesOf 1 i
    ++ bytesOf 1 (if p.seen then 1 else 0) ++ bytesOf 2 1024 ++ List.replicate 8 160#8

/-- A partner's CAP (R312, R313). -/
def Lnk.onCap (l : Lnk) (i : Nat) (pl : List Byte) : Lnk :=
  let p := l.port.at i
  if p.state ≠ .negotiating then l else
  let vers := BitVec.ofNat 2 (fieldAt pl 1 1)
  let node := BitVec.ofNat 12 (fieldAt pl 2 2)
  let p := { p with seen := true, pVersions := vers, pNode := node, pPort := BitVec.ofNat 4 (fieldAt pl 4 1) }
  let l := l.setPort i p
  let both := (vers &&& p.offer).toNat
  if node = l.nodeId then l.toDown i 8
  else if both = 0 then l.toDown i 7
  else if fieldAt pl 5 1 % 2 = 1 then
    l.setPort i { p.restart with state := .up, version := if 2 ≤ both then 2 else 1, pVersions := vers, pNode := node, pPort := p.pPort }
  else l

/-- A PROBE flit (R311): the partner's is echoed unchanged; the echo of an own probe is timed at `ns`. -/
def Lnk.onProbe (l : Lnk) (i : Nat) (pl : List Byte) (echo : Option Nat) : Lnk :=
  match echo with
  | none => l.sendCtrl i 5 pl
  | some ns =>
    let p := l.port.at i
    if p.phase = 5 && p.echoes < 16 then
      l.setPort i { p with echoes := p.echoes + 1, loopNs := BitVec.ofNat 9 (min 511 (max p.loopNs.toNat ns)) }
    else l

/-- A NAK (R318, R319): every held flit from the expected number is resent; a fourth resend of the oldest is exhaustion. -/
def Lnk.onNak (l : Lnk) (i : Nat) (pl : List Byte) : Lnk :=
  let p := l.port.at i
  let e := fieldAt pl 2 2 % 4096
  if p.held.any fun h => h.1.toNat == e then
    let oldest := (p.held.head?.map fun h => h.1.toNat) == some e
    if oldest && 3 ≤ p.resends then l.toDown i 4 else l.resendFrom i e
  else l

/-- The resend timer expires (R318, R319). -/
def Lnk.onResendTimer (l : Lnk) (i : Nat) : Lnk :=
  let p := l.port.at i
  match p.held with
  | (s, _) :: _ => if p.state ≠ .up then l else if 3 ≤ p.resends then l.toDown i 4 else l.resendFrom i s.toNat
  | [] => l

/-- A CREDIT flit (R316, R321): what the partner has freed since its last report comes back. -/
def Lnk.onCredit (l : Lnk) (i : Nat) (pl : List Byte) : Lnk :=
  let p := l.port.at i
  let c := fun vc => BitVec.ofNat 16 (fieldAt pl (2 + 2 * vc) 2)
  l.setPort i ((List.range 8).foldl (fun (p : Port) vc =>
    { p with used := p.used.mod vc fun u => u - (c vc - p.pFreed.at vc).toNat, pFreed := p.pFreed.put vc (c vc) }) p)

/-- The CREDIT flit of R316. -/
def Lnk.sendCredit (l : Lnk) (i : Nat) : Lnk :=
  let p := l.port.at i
  let l := l.sendCtrl i 5 (bytesOf 1 2 ++ bytesOf 1 0 ++ (List.range 8).flatMap fun vc => bytesOf 2 (p.freed.at vc).toNat)
  l.setPort i { p with told := p.freed }

/-- Nine bytes of a timestamp (R316); version 1 carries whole nanoseconds (R313). -/
def stampBytes (version : BitVec 2) (t64 : Nat) : List Byte :=
  bytesOf 8 (t64 / 64) ++ bytesOf 1 (if version = 2 then t64 % 64 else 0)
def stampAt (pl : List Byte) (off : Nat) : Nat := fieldAt pl off 8 * 64 + fieldAt pl (off + 8) 1 % 64
def stampOf (version : BitVec 2) (t64 : Nat) : Nat := if version = 2 then t64 else t64 / 64 * 64

/-- A port with TT_EN in UP sends a TIME_REQ (R328). -/
def Lnk.sendTimeReq (l : Lnk) (i t64 : Nat) : Lnk :=
  let p := l.port.at i
  let id := p.ttId + 1
  let l := l.sendCtrl i 5 (bytesOf 1 3 ++ bytesOf 1 0 ++ bytesOf 2 id.toNat ++ stampBytes p.version t64)
  l.setPort i { p with ttId := id, ttT1 := some (stampOf p.version t64) }

/-- A TIME_REQ is answered with its arrival and departure stamps (R328). -/
def Lnk.onTimeReq (l : Lnk) (i : Nat) (pl : List Byte) (t64 : Nat) : Lnk :=
  let p := l.port.at i
  l.sendCtrl i 5 (bytesOf 1 4 ++ bytesOf 1 0 ++ bytesOf 2 (fieldAt pl 2 2) ++ stampBytes p.version t64 ++ stampBytes p.version t64)

/-- Twice the offset and twice the delay of a TIME_RESP that counts, in 1/64 ns (R329): the last id, within 10 µs. -/
def Lnk.timeResult (l : Lnk) (i : Nat) (pl : List Byte) (t64 : Nat) : Option (Int × Int) :=
  let p := l.port.at i
  match p.ttT1 with
  | none => none
  | some t1 =>
    let t4 := stampOf p.version t64
    if fieldAt pl 2 2 ≠ p.ttId.toNat || t1 + 640000 < t4 then none
    else
      let t2 : Int := stampAt pl 4
      let t3 : Int := stampAt pl 13
      some ((t2 - t1) - (t4 - t3) - p.asym.toInt, (t4 - t1) - (t3 - t2))

/-- Half of a sum of stamps in a 32-bit register: exact where it is a whole number of units that fits, else a value the rules leave open;
the delay is unsigned (R329, R333). -/
def halfReg (signed : Bool) (x : Int) (free : W64) : W32 :=
  let fits := if signed then decide (-(2 ^ 31) ≤ x / 2 ∧ x / 2 < 2 ^ 31) else decide (0 ≤ x ∧ x / 2 < 2 ^ 32)
  if x % 2 = 0 && fits then BitVec.ofInt 32 (x / 2)
  else if fits then BitVec.ofInt 32 (x / 2) + (if odd free then 1 else 0)
  else free.setWidth 32

/-- A TIME_RESP's results are kept (R329). -/
def Lnk.onTimeResp (l : Lnk) (i : Nat) (o d : W32) : Lnk :=
  let p := l.port.at i
  l.setPort i { p with ttOffset := o, ttDelay := d, ttT1 := none }

/-- A sequenced flit accepted in order reaches its input buffer, or follows its head (R318, R321, R324, R331). -/
def Lnk.accept (l : Lnk) (i type vc : Nat) (pl : List Byte) : Lnk :=
  let p := l.port.at i
  let ks := p.rx.at vc
  let put := fun (l : Lnk) (ks : List RxPkt) => l.setPort i { (l.port.at i) with rx := (l.port.at i).rx.put vc ks }
  if type = 1 || type = 4 then put l (ks ++ [{ flits := [pl], done := type == 4 }])
  else
    match ks.getLast? with
    | none => l
    | some k =>
      let pre := ks.dropLast
      if k.done then l
      else if k.drop then (put l (if type = 2 then ks else pre)).free i vc 1
      else match k.out with
      | some (o, ovc) =>
        let l := (l.forward o { type := type, vc := ovc, payload := pl, pid := k.pid }).free i vc 1
        if type = 2 then l else put l pre
      | none =>
        if type = 6 then (put l pre).free i vc (k.flits.length + 1)
        else put l (pre ++ [{ k with flits := k.flits ++ [pl], done := type == 3 }])

/-- Acting on a received CTRL flit is the caller's. -/
def Lnk.nakOnce (l : Lnk) (i : Nat) : Lnk :=
  let p := l.port.at i
  if p.nakPending then l
  else (l.sendCtrl i 5 (bytesOf 1 1 ++ bytesOf 1 0 ++ bytesOf 2 p.expected.toNat)).setPort i { p with nakPending := true }

/-- The receive procedure of R318 for one flit on a port; `ctrl` acts on an IDLE or CTRL flit's payload. -/
def Lnk.receive (l : Lnk) (i : Nat) (bs : List Byte) (ctrl : Lnk → List Byte → Lnk) : Lnk :=
  let p := l.port.at i
  if !flitCrcOk bs then (l.setPort i { p with crcErr := satAdd p.crcErr 1 }).nakOnce i
  else
    let h := flitHeader bs
    let t := flitType h
    if t = 7 then l.setPort i { p with crcErr := satAdd p.crcErr 1 }
    else
      let p := if flitAckV h then p.ack (flitAck h) else p
      let l := l.setPort i p
      if !isSequenced t then ctrl l (flitPayload bs)
      else
        let p := l.port.at i
        if flitSeq h = p.expected.toNat then
          (l.setPort i { p with expected := p.expected + 1, nakPending := false }).accept i t (flitVc h) (flitPayload bs)
        else l.nakOnce i

/-- Output of a head by the route table (R324): port, VC and whether by the alternate. -/
def Lnk.lookup (l : Lnk) (dst vc : Nat) : Option (Nat × Nat × Bool) :=
  let e := l.route.at dst
  let line := fun (dl : Bool) => if dl && vc % 2 == 0 then vc + 1 else vc
  let up := fun (o : BitVec 4) => decide (o.toNat < 12) && decide ((l.port.at o.toNat).state = .up)
  if !e.valid then none
  else if up e.primary then some (e.primary.toNat, line e.dlP, false)
  else if up e.alt then some (e.alt.toNat, line e.dlA, true)
  else none

/-- What the router does with a head (R323, R324). -/
inductive Verdict where
  | deliver
  | send (out vc : Nat) (alt : Bool)
  /-- it waits for credits -/
  | wait (out vc : Nat) (alt : Bool)
  /-- another packet's flits are still going out on that VC, another input's turn comes first, or the port can send no new flit (R318, R321, R322) -/
  | hold (out vc : Nat) (alt : Bool)
  | dropHop
  | dropRoute
  | dropSize
  deriving DecidableEq, Repr, Inhabited

/-- What the front packet of an input, 12 being the local one, waits for: the output it has been looked up for (R324). -/
def Lnk.wanted (l : Lnk) (i vc : Nat) : Option (Nat × Nat) :=
  if i = 12 then ((l.inject.at vc).head?).bind (·.want)
  else match (l.port.at i).rx.at vc with
    | k :: _ => if k.out.isSome || k.drop then none else k.want
    | [] => none

/-- Whether no other input that waits for an output VC comes before input i: whole packets are granted round-robin (R322). -/
def Lnk.myTurn (l : Lnk) (o v i : Nat) : Bool :=
  let rank := fun j => (j + 13 - (l.port.at o).turn.at v % 13) % 13
  (List.range 13).all fun j => decide (rank i ≤ rank j) || (List.range 8).all fun vc => l.wanted j vc != some (o, v)

/-- Whether the head of a packet could leave on an output VC next: the replay buffer has room, and no flit waits on the VC (R318). -/
def Port.open' (p : Port) (v : Nat) : Bool := decide (p.held.length < 1024) && (p.txq.at v).isEmpty && !p.openPids.any fun x => x.vc == v

/-- A head of input i is judged: delivered, or looked up in the route table unless it has been already (R323, R324). -/
def Lnk.judge (l : Lnk) (i : Nat) (head : List Byte) (vc : Nat) (want : Option (Nat × Nat)) : Verdict :=
  if headDst head = l.nodeId.toNat then .deliver
  else if want.isNone && 32 ≤ headHops head + 1 then .dropHop
  else match (match want with | some w => some (w.1, w.2, false) | none => l.lookup (headDst head) vc) with
  | none => .dropRoute
  | some (o, v, alt) =>
    let p := l.port.at o
    if plenLimit p.version < headPlen head then .dropSize
    else if !p.open' v || !l.myTurn o v i then .hold o v alt
    else if p.used.at v + packetLen (headPlen head) ≤ 160 then .send o v alt else .wait o v alt

/-- A drop counted with its flag (R323, R324, R327). -/
def Lnk.countDrop (l : Lnk) (v : Verdict) : Lnk :=
  let l := { l with dropCnt := satAdd l.dropCnt 1 }
  match v with
  | .dropHop => { l with hopLimit := true }
  | .dropRoute => { l with noRoute := true }
  | _ => { l with badMsg := true }

/-- Types of a packet's flits as they go out. -/
def flitTypes (n : Nat) (done : Bool) : List Nat :=
  (List.range n).map fun j =>
    if j = 0 then (if n = 1 && done then 4 else 1) else if done && j + 1 = n then 3 else 2

/-- Input i queues a packet's present flits on an output, where they take part in the turns of its slots, and takes its credits (R321, R322, R324);
answers the packet number. -/
def Lnk.sendPacket (l : Lnk) (i o vc : Nat) (fl : List (List Byte)) (done : Bool) : Lnk × Nat :=
  let p := l.port.at o
  let n := packetLen (headPlen (fl.headD []))
  let pid := p.nextPid
  let p := { p with nextPid := pid + 1, turn := p.turn.put vc ((i + 1) % 13), used := p.used.mod vc (· + if done then fl.length else n)
                    openPids := if done then p.openPids else p.openPids ++ [{ pid := pid, vc := vc, left := n - fl.length }] }
  let fs := (fl.zip (flitTypes fl.length done)).map fun x => ({ type := x.2, vc := vc, payload := x.1, pid := pid } : TxFlit)
  ((l.setPort o p).sendFlits o fs, pid)

/-- The head at the front of an input buffer is routed (R324). -/
def Lnk.routeRx (l : Lnk) (i vc : Nat) : Lnk :=
  let ks := (l.port.at i).rx.at vc
  let put := fun (l : Lnk) (ks : List RxPkt) => l.setPort i { (l.port.at i) with rx := (l.port.at i).rx.put vc ks }
  match ks with
  | [] => l
  | k :: rest =>
    if k.out.isSome || k.drop then (if k.done then put l rest else l) else
    let head := k.flits.headD []
    let stay := fun (o v : Nat) (alt : Bool) => { put l ({ k with want := some (o, v) } :: rest) with altUsed := l.altUsed || alt }
    match l.judge i head vc k.want with
    | .deliver => if k.done then
        { (put l rest).free i vc k.flits.length with localQ := l.localQ ++ [packetOf vc k.flits] } else l
    | .send o v alt =>
      let fl := setHops head (headHops head + 1) :: k.flits.drop 1
      let r := l.sendPacket i o v fl k.done
      let l := { r.1.free i vc k.flits.length with altUsed := r.1.altUsed || alt }
      put l (if k.done then rest else { k with flits := [], out := some (o, v), pid := r.2 } :: rest)
    | .wait o v alt => stay o v alt
    | .hold o v alt => stay o v alt
    | v => (put (l.countDrop v) (if k.done then rest else { k with flits := [], drop := true } :: rest)).free i vc k.flits.length

/-- The front packet of the local input is routed (R324); `none` when it stays, else whether it left or was delivered. -/
def Lnk.routeLocal (l : Lnk) (vc : Nat) : Lnk × Option (Inject × Bool) :=
  match l.inject.at vc with
  | [] => (l, none)
  | x :: rest =>
    let l' := { l with inject := l.inject.put vc rest }
    let head := x.pkt.flits.headD []
    let stay := fun (o v : Nat) (alt : Bool) =>
      ({ l with inject := l.inject.put vc ({ x with want := some (o, v) } :: rest), altUsed := l.altUsed || alt }, (none : Option (Inject × Bool)))
    match l.judge 12 head vc x.want with
    | .deliver => ({ l' with localQ := l'.localQ ++ [x.pkt] }, some (x, true))
    | .send o v alt =>
      let r := l'.sendPacket 12 o v (setHops head (headHops head + 1) :: x.pkt.flits.drop 1) true
      ({ r.1 with altUsed := r.1.altUsed || alt }, some (x, true))
    | .wait o v alt => stay o v alt
    | .hold o v alt => stay o v alt
    | v => (l'.countDrop v, some (x, false))

/-- Queue a packet on the local port. -/
def Lnk.injectPkt (l : Lnk) (k : Packet) (e : Option Entry := none) : Lnk :=
  { l with inject := l.inject.mod k.vc fun q => q ++ [{ pkt := k, entry := e }] }

/-- The head at the front of an input, 12 being the local one. -/
def Lnk.frontHead (l : Lnk) (i vc : Nat) : Option (List Byte) :=
  if i = 12 then (l.inject.at vc).head?.map fun x => x.pkt.flits.headD []
  else match (l.port.at i).rx.at vc with
    | k :: _ => if k.out.isSome || k.drop then none else k.flits.head?
    | [] => none

/-- A head that waits for credits (R325): the output and VC it waits for. -/
def Lnk.stalled (l : Lnk) (i vc : Nat) : Option (Nat × Nat) :=
  match l.frontHead i vc with
  | none => none
  | some h => match l.judge i h vc (l.wanted i vc) with
    | .wait o v _ => some (o, v)
    | _ => none

/-- Bits a slot and a codeword carry, and the slots of which the first is an alignment slot (R307). -/
def slotBits : Nat := 512
def codewordBits : Nat := 5140
def alignEvery : Nat := 257

/-- A flit's slot has passed, and the alignment slot before it where its turn has come: how many codewords have ended (R307). -/
def Port.passSlot (p : Port) : Port × Nat :=
  let n := if p.rxSlot % alignEvery = 0 then 2 else 1
  let bits := p.rxBits + n * slotBits
  ({ p with rxSlot := (p.rxSlot + n) % alignEvery, rxBits := bits % codewordBits }, bits / codewordBits)

/-- One codeword with so many symbol errors (R307): up to 15 are corrected; more are passed on unchanged. Each outcome is counted (R333). -/
def Port.codeword (p : Port) (errors : Nat) : Port :=
  if errors = 0 then p else if errors ≤ 15 then { p with fecCorr := satAdd p.fecCorr 1 } else { p with fecUncorr := satAdd p.fecUncorr 1 }

/-- A flit's slot is received: of the codewords that end with it, each with its symbol errors (R307). -/
def Port.countFec (p : Port) (errors : List Nat) : Port :=
  let r := p.passSlot
  (errors.take r.2).foldl Port.codeword r.1

/-- A write to an LNK register (R332, R333). -/
def Lnk.writeReg (l : Lnk) (off : Nat) (v : W32) : Lnk :=
  if off < 0xC000 then
    let i := off / 0x1000
    let p := l.port.at i
    match off % 0x1000 with
    | 0x000 => l.writePortCtrl i v
    | 0x004 => l.setPort i { p with vcStall := w1c p.vcStall v 13, down := w1c p.down v 12 }
    | 0x028 => l.setPort i { p with asym := BitVec.ofNat 16 (fld v 31 16), period := BitVec.ofNat 16 (max 16 (fld v 15 0)) }
    | _ => l
  else if off = 0xC000 then
    if (List.range 12).all fun i => (l.port.at i).state = .disabled || (l.port.at i).state = .down then
      { l with nodeId := BitVec.ofNat 12 (fld v 11 0) } else l
  else if off = 0xC004 then
    { l with badMsg := w1c l.badMsg v 3, hopLimit := w1c l.hopLimit v 2, noRoute := w1c l.noRoute v 1, altUsed := w1c l.altUsed v 0 }
  else if 0x10000 ≤ off && off < 0x14000 && off % 4 = 0 then
    let e : Route := { valid := bit v 31, dlA := bit v 12, alt := BitVec.ofNat 4 (fld v 11 8), dlP := bit v 4, primary := BitVec.ofNat 4 (fld v 3 0) }
    { l with route := l.route.put ((off - 0x10000) / 4) e }
  else l

/-- What an LNK register reads as (R333). -/
def Lnk.readReg (l : Lnk) (off : Nat) : W32 :=
  if off < 0xC000 then
    let p := l.port.at (off / 0x1000)
    match off % 0x1000 with
    | 0x000 => flag 4 p.ttEn + at' 2 p.verMask.toNat + flag 1 p.autoRetrain + flag 0 p.enable
    | 0x004 => flag 13 p.vcStall + flag 12 p.down + at' 8 p.downReason.toNat + at' 4 p.version.toNat + at' 0 p.state.code
    | 0x008 => at' 16 p.pVersions.toNat + at' 12 p.pPort.toNat + at' 0 p.pNode.toNat
    | 0x00C => at' 0 p.loopNs.toNat
    | 0x010 => (List.range 4).foldl (fun a i =>
        let x := p.lanes.at i
        a + at' (8 * i + 3) x.index.toNat + flag (8 * i + 2) x.inverted + flag (8 * i + 1) x.aligned + flag (8 * i) x.lock) 0
    | 0x014 => p.fecCorr | 0x018 => p.fecUncorr | 0x01C => p.crcErr | 0x020 => p.replay | 0x024 => p.lostPkt
    | 0x028 => at' 16 p.asym.toNat + at' 0 p.period.toNat
    | 0x02C => p.ttOffset | 0x030 => p.ttDelay | _ => 0
  else if off = 0xC000 then at' 0 l.nodeId.toNat
  else if off = 0xC004 then flag 3 l.badMsg + flag 2 l.hopLimit + flag 1 l.noRoute + flag 0 l.altUsed
  else if off = 0xC008 then l.dropCnt
  else if 0x10000 ≤ off && off < 0x14000 && off % 4 = 0 then
    let e := l.route.at ((off - 0x10000) / 4)
    flag 31 e.valid + flag 12 e.dlA + at' 8 e.alt.toNat + flag 4 e.dlP + at' 0 e.primary.toNat
  else 0

end Sys2Proof.Machine
end

