-- ==== Sys2Proof/Machine/FltBlock.lean ====
section
/-! DEFINITION. Fault classes, reports, records, the fault log and the registers of the FLT block (R521 to R544). -/

namespace Sys2Proof.Machine

/-- Fault classes of R521. -/
inductive Cls where
  | matrix | sram | mesh | link | control | mgmt | railClock | hbm | ddr5 | replica | datapath | update | stash | load | hostAbort
  deriving DecidableEq, Repr, Inhabited

def Cls.code : Cls → Nat
  | .matrix => 1 | .sram => 2 | .mesh => 3 | .link => 4 | .control => 5 | .mgmt => 6 | .railClock => 7 | .hbm => 8
  | .ddr5 => 9 | .replica => 10 | .datapath => 11 | .update => 12 | .stash => 13 | .load => 14 | .hostAbort => 15

/-- Severities of R524. -/
inductive Sev where
  | corrected | contained | chip
  deriving DecidableEq, Repr, Inhabited

def Sev.code : Sev → Nat
  | .corrected => 0 | .contained => 1 | .chip => 2

/-- A detected fault on its way (R519, R527): the fields of its record (R540) and the tile it arose in, if any. -/
structure Report where
  cls : Cls
  sev : Sev
  /-- 0 cell, 1 tile, 2 region, 3 chip -/
  level : Nat := 3
  unit : Nat := 0xFFFF
  sub : Nat := 0
  detail : Nat := 0
  stopped : Bool := false
  fenced : Bool := false
  abandon : Bool := false
  imgLost : Bool := false
  injected : Bool := false
  summary : Bool := false
  /-- a tile's own report, which follows the escalation mode (R529) -/
  tile : Option Nat := none
  step : Nat := 0
  time : Nat := 0
  /-- the cycle of detection, as Tmr.age tells it -/
  cyc : Nat := 0
  deriving DecidableEq, Repr, Inhabited

/-- Region of a tile (R16): 4·die + 2·(row div 4) + (column div 4). -/
def regionOf (t : Nat) : Nat := t / 64 * 4 + t % 64 / 8 / 4 * 2 + t % 8 / 4

/-- The registers and queues of the FLT block (R544). -/
structure Flt where
  imgLost : Bool := false
  abftOffStep : Bool := false
  partialUpdate : Bool := false
  abandoned : Bool := false
  chip : Bool := false
  logFull : Bool := false
  ceEvt : Bool := false
  ceThresh : BitVec 8 := 16
  logWr : BitVec 9 := 0
  logRd : BitVec 9 := 0
  lostCnt : W32 := 0
  abandonCnt : W32 := 0
  lastAbandon : W32 := 0
  injTile : BitVec 8 := 0
  injKind : BitVec 3 := 0
  classCnt : Sparse W32 := []
  chipRec : List Byte := List.replicate 32 0
  regCe : Sparse W32 := []
  regFence : Sparse W32 := []
  /-- the ring of R541 -/
  log : Sparse (List Byte) := []
  /-- record number of the next record (R540) -/
  seq : W32 := 0
  /-- detected faults whose report is under way (R527 to R529) -/
  reports : List Report := []
  /-- records not yet written -/
  toWrite : List Report := []
  /-- tiles and regions whose fence is ordered and not yet in force (R529): a tile, or 256 + region -/
  fences : List Nat := []
  /-- times of the corrected faults a region has absorbed since its last summary (R527) -/
  absorbed : Sparse (List Nat) := []
  /-- an abandonment is under way (R532) -/
  abandoning : Bool := false
  /-- a CHIP fault met during the abandonment, which enters FAULT when it completes (R543) -/
  chipAfter : Bool := false
  /-- a step abandonment deferred to the step's end (R304) -/
  deferred : Bool := false
  /-- RUN is refused until a flush (R534) -/
  needFlush : Bool := false
  deriving DecidableEq, Repr, Inhabited

/-- Records unread (R541). -/
def Flt.unread (f : Flt) : Nat := (f.logWr - f.logRd).toNat

/-- Of faults of one cycle the lower class goes first, then the lower unit (R543). -/
def Report.before (a b : Report) : Bool :=
  a.cyc == b.cyc && (decide (a.cls.code < b.cls.code) || (a.cls.code == b.cls.code && decide (a.unit < b.unit)))

/-- A report joins a queue behind those it does not go before (R543). -/
def Report.enter (r : Report) (l : List Report) : List Report :=
  (l.takeWhile fun x => !r.before x) ++ r :: l.dropWhile fun x => !r.before x

/-- The fence a report orders: a tile, or 256 + region (R525, R529). -/
def Report.fence? (r : Report) : Option Nat :=
  if !r.fenced then none else some (match r.tile with | some t => t | none => if r.level = 2 then 256 + r.unit else r.unit)

/-- A fault is detected: counted in its class, its report under way (R519, R541). -/
def Flt.detect (f : Flt) (r : Report) : Flt :=
  { f with classCnt := f.classCnt.mod r.cls.code fun c => satAdd c 1, reports := r.enter f.reports }

/-- The action byte of a record (R540). -/
def Report.action (r : Report) (partialUpd : Bool) : Nat :=
  (if r.sev = .corrected then 1 else 0) + (if r.stopped then 2 else 0) + (if r.fenced then 4 else 0)
    + (if r.abandon then 8 else 0) + (if r.sev = .chip then 16 else 0) + (if partialUpd then 32 else 0)
    + (if r.imgLost then 64 else 0)

/-- The 32 bytes of a record (R540). -/
def Report.bytes (r : Report) (seq : Nat) (partialUpd : Bool) : List Byte :=
  bytesOf 4 seq ++ bytesOf 4 r.step ++ bytesOf 8 r.time
    ++ bytesOf 1 r.cls.code ++ bytesOf 1 r.sev.code
    ++ bytesOf 1 (r.level + (if r.summary then 4 else 0) + (if r.injected then 8 else 0))
    ++ bytesOf 1 (r.action partialUpd) ++ bytesOf 2 r.unit ++ bytesOf 2 r.sub ++ bytesOf 8 r.detail

/-- A record goes to the log, or is lost while 256 are unread; a CHIP record is always copied (R541). -/
def Flt.writeRecord (f : Flt) (r : Report) (partialUpd : Bool) : Flt :=
  let bs := r.bytes f.seq.toNat partialUpd
  let f := { f with seq := f.seq + 1 }
  let f := if r.sev = .chip then { f with chipRec := bs, chip := true } else f
  if f.unread = 256 then { f with lostCnt := satAdd f.lostCnt 1, logFull := true }
  else { f with log := Sparse.put f.log (f.logWr.toNat % 256) bs, logWr := f.logWr + 1 }

/-- A region absorbs a corrected fault of a tile (R527); `now` is cluster time in ns. -/
def Flt.absorb (f : Flt) (r : Report) (tile now : Nat) : Flt :=
  let g := regionOf tile
  let f := { f with regCe := f.regCe.mod g fun c => satAdd c 1 }
  let l := ((f.absorbed.at g).filter fun t => now < t + 1000000000) ++ [now]
  if f.ceThresh != 0 && f.ceThresh.toNat ≤ l.length then
    { f with absorbed := f.absorbed.put g []
             toWrite := Report.enter { cls := r.cls, sev := .corrected, level := 2, unit := g, sub := f.ceThresh.toNat, summary := true
                                       injected := r.injected, step := r.step, time := r.time, cyc := r.cyc } f.toWrite }
  else { f with absorbed := f.absorbed.put g l }

/-- The front report reaches the region manager or the chip controller (R527, R528). -/
def Flt.report (f : Flt) (crossed : Bool) (now : Nat) : Flt :=
  match f.reports with
  | [] => f
  | r :: rest =>
    let f := { f with reports := rest }
    match r.tile, crossed, r.sev with
    | some t, false, .corrected => f.absorb r t now
    | _, _, _ => { f with toWrite := r.enter f.toWrite, fences := f.fences ++ r.fence?.toList }

/-- Whether a record must wait: in nested mode the region manager passes a report of a tile on only after it has fenced it (R527). -/
def Flt.fencePending (f : Flt) (crossed : Bool) (r : Report) : Bool :=
  !crossed && r.tile.isSome && r.fence?.any fun n => f.fences.contains n

/-- A write to an FLT register; FLT_INJECT.GO is the command's own (R544). -/
def Flt.writeReg (f : Flt) (off : Nat) (v : W32) : Flt :=
  match off with
  | 0x00 => { f with imgLost := w1c f.imgLost v 8, abftOffStep := w1c f.abftOffStep v 7
                     partialUpdate := w1c f.partialUpdate v 5, abandoned := w1c f.abandoned v 4
                     chip := w1c f.chip v 3, logFull := w1c f.logFull v 2 }
  | 0x04 => { f with ceEvt := bit v 8, ceThresh := BitVec.ofNat 8 (fld v 7 0) }
  | 0x0C =>
    let n := BitVec.ofNat 9 (fld v 8 0)
    -- a value past FLT_LOG_WR is ignored (R543)
    if (n - f.logRd).toNat ≤ f.unread then { f with logRd := n } else f
  | 0x20 => { f with injTile := BitVec.ofNat 8 (fld v 23 16), injKind := BitVec.ofNat 3 (fld v 2 0) }
  | _ => f

/-- Word w of a 32-byte record. -/
def recWord (bs : List Byte) (w : Nat) : W32 := BitVec.ofNat 32 (fieldAt bs (4 * w) 4)

/-- What an FLT register reads as; MODE and COND_OFF come from elsewhere (R544). -/
def Flt.readReg (f : Flt) (off : Nat) (crossed condOff : Bool) : W32 :=
  if off = 0 then flag 9 crossed + flag 8 f.imgLost + flag 7 f.abftOffStep + flag 6 condOff + flag 5 f.partialUpdate
    + flag 4 f.abandoned + flag 3 f.chip + flag 2 f.logFull + flag 0 (f.unread != 0)
  else if off = 4 then flag 8 f.ceEvt + at' 0 f.ceThresh.toNat
  else if off = 8 then at' 0 f.logWr.toNat
  else if off = 0xC then at' 0 f.logRd.toNat
  else if off = 0x10 then f.lostCnt
  else if off = 0x14 then f.abandonCnt
  else if off = 0x18 then f.lastAbandon
  else if off = 0x20 then at' 16 f.injTile.toNat + at' 0 f.injKind.toNat
  else if 0x40 ≤ off && off < 0xC0 && off % 4 = 0 then f.classCnt.at ((off - 0x40) / 4)
  else if 0x100 ≤ off && off < 0x120 && off % 4 = 0 then recWord f.chipRec ((off - 0x100) / 4)
  else if 0x200 ≤ off && off < 0x240 && off % 4 = 0 then f.regCe.at ((off - 0x200) / 4)
  else if 0x240 ≤ off && off < 0x280 && off % 4 = 0 then f.regFence.at ((off - 0x240) / 4)
  else if 0x1000 ≤ off && off < 0x3000 && off % 4 = 0 then recWord (f.log.at ((off - 0x1000) / 32)) ((off - 0x1000) % 32 / 4)
  else 0

end Sys2Proof.Machine
end

