-- ==== Sys2Proof/Machine/ImageTypes.lean ====
section
/-! DEFINITION. What a Daxmen image says, as plain data: header, directory and the fourteen sections (R45 to R72, R102 to R106, R168 to R170, R240, R276 to R279, R334, R394, R395, R411, R419, R420). -/

namespace Sys2Proof.Machine

/-- A directory entry (R47). -/
structure DirEntry where
  type : Nat
  flags : Nat
  offset : Nat
  length : Nat
  version : Nat
  reserved : Nat
  deriving DecidableEq, Repr, Inhabited

/-- A placement record (R53): windows (lo, hi) and per tile (branch, slot mask). -/
structure Placement where
  windows : List (Nat × Nat)
  tiles : List (Nat × Nat)
  deriving DecidableEq, Repr, Inhabited

/-- A route (R57). -/
structure RouteRec where
  src : Nat
  dst : Nat
  yFirst : Bool
  vc : Nat
  deriving DecidableEq, Repr, Inhabited

/-- An edge (R59). -/
structure EdgeRec where
  placement : Nat
  prodTile : Nat
  prodSlot : Nat
  consTile : Nat
  consSlot : Nat
  capacity : Nat
  initTokens : Nat
  initCredits : Nat
  dataRoute : Nat
  creditRoute : Nat
  blockBytes : Nat
  bufBase : Nat
  deriving DecidableEq, Repr, Inhabited

/-- A tensor region (R64). -/
structure Region where
  tier : Nat
  kind : Nat
  home : Nat
  flags : Nat
  offset : Nat
  size : Nat
  deriving DecidableEq, Repr, Inhabited

/-- A recompute layer (R69). -/
structure Layer where
  layer : Nat
  eligible : Bool
  stashFormat : Nat
  boundary : Nat
  span : Nat
  deriving DecidableEq, Repr, Inhabited

/-- A SYNC_INIT record (R72). -/
structure SyncRec where
  object : Nat
  count : Nat
  threshold : Nat
  deriving DecidableEq, Repr, Inhabited

/-- A descriptor with its place (R102, R105). Codes stay numbers, since unlisted ones must be refused, not read as a neighbour. -/
structure Desc where
  placement : Nat
  tile : Nat
  slot : Nat
  cls : Nat
  op : Nat
  fmtIn : Nat
  fmtSt : Nat
  fmtOut : Nat
  hadamard : Bool
  abftOff : Bool
  spoon : Bool
  backward : Bool
  sigPerMb : Bool
  escapes : Bool
  priority : Nat
  inEdges : List Nat
  outEdges : List Nat
  /-- 0xFFFF for none -/
  waitObj : Nat
  waitCount : Nat
  sigObj : Nat
  sigCount : Nat
  firesPerMb : Nat
  params : List Byte
  raw : List Byte
  deriving DecidableEq, Repr, Inhabited

/-- A preload record (R105) with its block. -/
structure Preload where
  edge : Nat
  place : Nat
  offset : Nat
  deriving DecidableEq, Repr, Inhabited

/-- A parameter group (R278). -/
structure Group where
  rule : Nat
  lr : F32
  beta1 : F32
  beta2 : F32
  eps : F32
  decay : F32
  tOrigin : Nat
  deriving DecidableEq, Repr, Inhabited

/-- A trained tensor (R279). -/
structure Tensor where
  master : Nat
  state : Nat
  copy : Nat
  grad : Nat
  rows : Nat
  cols : Nat
  stateOff : Nat
  copyOff : Nat
  gradOff : Nat
  copyFmt : Nat
  group : Nat
  hadW : Bool
  deriving DecidableEq, Repr, Inhabited

/-- A freeze record (R240); the bitmap is the UPDATE secIdxs bytes from `a`. -/
structure Freeze where
  region : Nat
  kind : Nat
  a : Nat
  b : Nat
  bitmap : List Byte
  deriving DecidableEq, Repr, Inhabited

/-- The UPDATE section (R276, R277). -/
structure UpdateSec where
  k : Nat := 0
  clip : Bool := false
  nfSkip : Bool := false
  mbCount : Nat := 1
  lossExp : Int := 0
  retireObj : Nat := 0
  backlogObj : Nat := 0xFFFF
  clipMax : F32 := 0
  parkRegion : Nat := 0xFFFFFFFF
  retirePerMb : Nat := 1
  groups : List Group := []
  tensors : List Tensor := []
  freezes : List Freeze := []
  deriving DecidableEq, Repr, Inhabited

/-- A scale site (R169). -/
structure SiteRec where
  format : Nat
  h : Nat
  satShift : Nat
  grad : Bool
  history : Bool
  hadW : Bool
  refRegion : Nat
  deriving DecidableEq, Repr, Inhabited

/-- A site binding (R170). -/
structure Binding where
  placement : Nat
  tile : Nat
  slot : Nat
  port : Nat
  site : Nat
  deriving DecidableEq, Repr, Inhabited

/-- The NUMERICS section (R168). -/
structure NumSec where
  seed : Nat := 0
  reportRegion : Nat := 0xFFFFFFFF
  defaultH : Nat := 2
  defaultSat : Nat := 16
  spoonR : Nat := 12
  sites : List SiteRec := []
  bindings : List Binding := []
  deriving DecidableEq, Repr, Inhabited

/-- A bucket (R334). -/
structure Bucket where
  firstBlock : Nat
  blockCount : Nat
  deadlineOff : Nat
  g : Int
  deriving DecidableEq, Repr, Inhabited

/-- The BUCKETS section (R334). -/
structure BucketSec where
  slotRegion : Nat := 0
  stageRegion : Nat := 0
  returnGrace : Nat := 0
  normOff : Nat := 0
  podLead : Nat := 0
  buckets : List Bucket := []
  deriving DecidableEq, Repr, Inhabited

/-- An output entry of a profile (R420). -/
structure OutRec where
  region : Nat
  p : Nat
  branch : Nat
  cont : Bool
  f32 : Bool
  deriving DecidableEq, Repr, Inhabited

/-- An intake profile: intake part (R395) and assembly part (R419). -/
structure Profile where
  v1 : Bool
  v2 : Bool
  budgetMult : Nat
  permitted : Nat
  required : Nat
  maxRecord : Nat
  nominalUs : Nat
  vMaxW : Nat
  vMaxH : Nat
  vMaxFrames : Nat
  vCodecs : Nat
  vMaxDepth : Nat
  vRatio : Nat
  iMaxW : Nat
  iMaxH : Nat
  iCodecs : Nat
  iRatio : Nat
  aMaxRate : Nat
  aMaxChannels : Nat
  aCodecs : Nat
  aMaxSamples : Nat
  aRatio : Nat
  tMaxBytes : Nat
  tMaxTokens : Nat
  tBos : Nat
  tEos : Nat
  lMax : Nat
  mbRows : Nat
  readyObj : Nat
  readyCount : Nat
  reportRegion : Nat
  out : List OutRec
  vMode : Nat
  outC : Nat
  ph : Nat
  pw : Nat
  pt : Nat
  vStride : Nat
  vOutFrames : Nat
  tw : Nat
  th : Nat
  vg : List F32
  vt : List F32
  aMode : Nat
  aStack : Nat
  outRate : Nat
  nFft : Nat
  win : Nat
  hop : Nat
  nMels : Nat
  chunk : Nat
  ag : F32
  at' : F32
  deriving DecidableEq, Repr, Inhabited

/-- The INPUT_PROFILES section (R394). -/
structure ProfileSec where
  stagingRegion : Nat := 0
  profiles : List Profile := []
  deriving DecidableEq, Repr, Inhabited

/-- The TOKENISER_TABLE section (R411): merges by rank. -/
structure TokSec where
  specialCount : Nat := 0
  splitMode : Nat := 0
  merges : List (Nat × Nat) := []
  deriving DecidableEq, Repr, Inhabited

/-- An image: what its header and sections say. -/
structure Image where
  fmtMinor : Nat := 0
  imageLength : Nat := 0
  rollbackIndex : Nat := 0
  rollbackValue : Nat := 0
  modelId : List Byte := []
  buildId : Nat := 0
  minFirmware : Nat := 0
  bodyDigest : List Byte := []
  keyOffset : Nat := 0
  dir : List DirEntry := []
  branchCount : Nat := 1
  placements : List Placement := []
  descs : List Desc := []
  preloads : List Preload := []
  /-- the DESCRIPTORS section, which holds the preload data -/
  descBytes : List Byte := []
  routes : List RouteRec := []
  edges : List EdgeRec := []
  pairs : List (Nat × Nat) := []
  regions : List Region := []
  crossed : Bool := false
  prof : Option ProfileSec := none
  layers : List Layer := []
  upd : UpdateSec := {}
  num : NumSec := {}
  bkt : BucketSec := {}
  syncs : List SyncRec := []
  tok : Option TokSec := none
  deriving DecidableEq, Repr, Inhabited

/-- No region, edge or report (R59, R105, R168). -/
def none32 : Nat := 0xFFFFFFFF
def none16 : Nat := 0xFFFF

def Image.region? (im : Image) (i : Nat) : Option Region := im.regions[i]?
def Image.edge? (im : Image) (i : Nat) : Option EdgeRec := im.edges[i]?

/-- The descriptor of a placement's slot. -/
def Image.desc? (im : Image) (p t s : Nat) : Option Desc :=
  im.descs.find? fun d => d.placement == p && d.tile == t && d.slot == s

/-- The site bound to a descriptor's port (R155, R170). -/
def Image.site? (im : Image) (d : Desc) (port : Nat) : Option Nat :=
  (im.num.bindings.find? fun b => b.placement == d.placement && b.tile == d.tile && b.slot == d.slot && b.port == port).map (·.site)

/-- Lead tiles and partners of the pairs (R62). -/
def Image.isLead (im : Image) (t : Nat) : Bool := im.pairs.any fun p => p.1 == t
def Image.isPartner (im : Image) (t : Nat) : Bool := im.pairs.any fun p => p.2 == t
def Image.partner? (im : Image) (t : Nat) : Option Nat := (im.pairs.find? fun p => p.1 == t).map (·.2)

/-- Whether a slot is marked by two or more placements on its tile (R56). -/
def Image.swapped (im : Image) (t s : Nat) : Bool :=
  decide (2 ≤ (im.placements.filter fun p => (p.tiles.getD t (0xFF, 0)).2 / 2 ^ s % 2 == 1).length)

/-- Whether a placement marks a slot on a tile (R53). -/
def Image.marks (im : Image) (p t s : Nat) : Bool :=
  match im.placements[p]? with
  | some r => (r.tiles.getD t (0xFF, 0)).2 / 2 ^ s % 2 == 1
  | none => false

/-- The one region of a kind (R65). -/
def Image.kindRegion? (im : Image) (k : Nat) : Option Nat := indexOf (fun (r : Region) => r.kind == k) im.regions

/-- Parameter blocks of a tensor (R282). -/
def Tensor.pr (t : Tensor) : Nat := (t.rows + 127) / 128
def Tensor.pc (t : Tensor) : Nat := (t.cols + 127) / 128
def Tensor.blocks (t : Tensor) : Nat := t.pr * t.pc

/-- Bytes of a compute-copy panel (R281). -/
def Tensor.panel (t : Tensor) : Nat := if t.copyFmt = 2 then 32768 else 16896
/-- Bytes of one compute-copy slot (R281). -/
def Tensor.slotBytes (t : Tensor) : Nat := t.blocks * t.panel

/-- Valid rows and columns of panel (i, j) (R282). -/
def Tensor.validRows (t : Tensor) (i : Nat) : Nat := min 128 (t.rows - 128 * i)
def Tensor.validCols (t : Tensor) (j : Nat) : Nat := min 128 (t.cols - 128 * j)
/-- Valid elements of block b of a tensor. -/
def Tensor.elems (t : Tensor) (b : Nat) : Nat := t.validRows (b / t.pc) * t.validCols (b % t.pc)

/-- Tensor and its own block number of a global block number (R282). -/
def locateGo : List Tensor → Nat → Nat → Option (Nat × Nat)
  | [], _, _ => none
  | t :: r, n, g => if g < t.blocks then some (n, g) else locateGo r (n + 1) (g - t.blocks)

def Image.locate (im : Image) (g : Nat) : Option (Nat × Nat) := locateGo im.upd.tensors 0 g
def Image.tensor (im : Image) (i : Nat) : Tensor := im.upd.tensors.getD i default
/-- All parameter blocks. -/
def Image.blockCount (im : Image) : Nat := (im.upd.tensors.map Tensor.blocks).foldl (· + ·) 0
/-- First global block number of a tensor. -/
def Image.firstBlock (im : Image) (t : Nat) : Nat := ((im.upd.tensors.take t).map Tensor.blocks).foldl (· + ·) 0
/-- Valid elements of a global block. -/
def Image.blockElems (im : Image) (g : Nat) : Nat :=
  match im.locate g with
  | some (t, b) => (im.tensor t).elems b
  | none => 0
/-- The bucket that holds a block (R335). -/
def Image.bucketOf (im : Image) (g : Nat) : Option Nat :=
  indexOf (fun (b : Bucket) => decide (b.firstBlock ≤ g) && decide (g < b.firstBlock + b.blockCount)) im.bkt.buckets

end Sys2Proof.Machine
end

