-- ==== Sys2Proof/Machine/ImageParse.lean ====
section
/-! DEFINITION. Reading an image's header, directory and sections from its bytes (R45 to R48, R575). -/

namespace Sys2Proof.Machine

/-- A rejected load: code of R76, and the directory and record index of R576. -/
structure Rej where
  code : Nat
  secIdx : Nat := 0xFF
  record : Nat := 0xFFFFFF
  deriving DecidableEq, Repr, Inhabited

/-- The first failure of a list of checks, each made only when those before it pass. -/
def firstRej : List (Thunk (Option Rej)) → Option Rej
  | [] => none
  | t :: rest => match t.get with
    | some r => some r
    | none => firstRej rest

/-- n records of a size at an offset. -/
def recordsAt (bs : List Byte) (off n size : Nat) : List (List Byte) := (chunks size ((bs.drop off).take (n * size))).take n

/-- Bytes of a list of records that are all present. -/
def fits (bs : List Byte) (off n size : Nat) : Bool := decide (off + n * size ≤ bs.length)

/-- A section read: its contents, whether its counts, records and referenced data lie within it, the first record with a reserved bit set
or with referenced data out of place (0xFFFFFF for the header), and whether its uncovered bytes are zero (R575, R576). -/
structure Read (α : Type) where
  val : α
  layout : Bool
  reserved : Option Nat := none
  covered : Bool := true
  deriving Repr

/-- The first record that fails a test. -/
def firstBad {α : Type} (ok : α → Bool) (l : List α) : Option Nat := indexOf (fun a => !ok a) l

/-- A signed byte. -/
def i8At (bs : List Byte) (off : Nat) : Int := (bs.getD off 0).toInt
def f32At (bs : List Byte) (off : Nat) : F32 := BitVec.ofNat 32 (fieldAt bs off 4)
/-- One bit of a byte field. -/
def bitAt (bs : List Byte) (off i : Nat) : Bool := fieldAt bs off 1 / 2 ^ i % 2 == 1

def parseDir (bs : List Byte) : List DirEntry :=
  (recordsAt bs 256 (fieldAt bs 0x10 2) 16).map fun r =>
    { type := fieldAt r 0 2, flags := fieldAt r 2 2, offset := fieldAt r 4 4, length := fieldAt r 8 4
      version := fieldAt r 12 2, reserved := fieldAt r 14 2 }

def parsePlacement (r : List Byte) : Placement :=
  { windows := (chunks 8 (r.take 128)).map fun w => (fieldAt w 0 4, fieldAt w 4 4)
    tiles := (chunks 4 ((r.drop 128).take 1024)).map fun e => (fieldAt e 0 1, fieldAt e 2 2) }

def readPlacements (bs : List Byte) : Read (Nat × List Placement) :=
  let n := fieldAt bs 0 1
  let rs := recordsAt bs 4 n 1152
  { val := (fieldAt bs 1 1, rs.map parsePlacement)
    layout := decide (4 ≤ bs.length) && decide (1 ≤ n) && decide (n ≤ 8) && decide (1 ≤ fieldAt bs 1 1) && decide (fieldAt bs 1 1 ≤ 16)
      && fits bs 4 n 1152 && zeroBytes bs (4 + n * 1152) bs.length
    reserved := if fieldAt bs 2 2 ≠ 0 then some 0xFFFFFF
      else firstBad (fun r => (chunks 4 ((r.drop 128).take 1024)).all fun (e : List Byte) => fieldAt e 1 1 == 0) rs }

def parseDesc (r : List Byte) : Desc :=
  let d := r.drop 8
  let nIn := fieldAt d 7 1 % 8
  let nOut := fieldAt d 7 1 / 16 % 4
  { placement := fieldAt r 0 1, tile := fieldAt r 1 1, slot := fieldAt r 2 1
    cls := fieldAt d 0 1, op := fieldAt d 1 1, fmtIn := fieldAt d 2 1, fmtSt := fieldAt d 3 1, fmtOut := fieldAt d 4 1
    hadamard := bitAt d 5 0, abftOff := bitAt d 5 1, spoon := bitAt d 5 2, backward := bitAt d 5 3, sigPerMb := bitAt d 5 4
    escapes := bitAt d 5 5, priority := fieldAt d 6 1 % 4
    inEdges := (List.range (min nIn 4)).map fun i => fieldAt d (8 + 4 * i) 4
    outEdges := (List.range (min nOut 2)).map fun i => fieldAt d (24 + 4 * i) 4
    waitObj := fieldAt d 32 2, waitCount := fieldAt d 34 2, sigObj := fieldAt d 36 2, sigCount := fieldAt d 38 2
    firesPerMb := fieldAt d 40 4 % 2 ^ 24, params := (d.drop 44).take 20, raw := d.take 64 }

/-- Reserved bytes and bits of a descriptor record (R102, R105). -/
def descReservedOk (r : List Byte) : Bool :=
  let d := r.drop 8
  zeroBytes r 3 8 && fieldAt d 5 1 / 64 == 0 && fieldAt d 6 1 / 4 == 0 && fieldAt d 7 1 / 64 == 0 && fieldAt d 7 1 / 8 % 2 == 0
    && fieldAt d 43 1 == 0

/-- Whether every byte outside a list of spans is zero (R575). -/
def uncoveredZero (bs : List Byte) (spans : List (Nat × Nat)) : Bool :=
  (bs.zipIdx).all fun p => p.1 == 0 || spans.any fun s => decide (s.1 ≤ p.2) && decide (p.2 < s.2)

/-- The DESCRIPTORS section; `blockBytes e` is the block size of edge e, which the preload data's length needs. -/
def readDescs (bs : List Byte) (blockBytes : Nat → Nat) : Read (List Desc × List Preload) :=
  let n := fieldAt bs 0 4
  let rs := recordsAt bs 4 n 72
  let m := fieldAt bs (4 + 72 * n) 4
  let po := 8 + 72 * n
  let ps := recordsAt bs po m 16
  let pre : List Preload := ps.map fun r => { edge := fieldAt r 0 4, place := fieldAt r 4 1, offset := fieldAt r 8 4 }
  { val := (rs.map parseDesc, pre)
    layout := decide (1 ≤ n) && decide (n ≤ 32768) && fits bs 4 n 72 && decide (po ≤ bs.length) && fits bs po m 16
      && pre.all fun p => decide (p.offset + blockBytes p.edge ≤ bs.length)
    covered := uncoveredZero bs ((0, po + 16 * m) :: pre.map fun p => (p.offset, p.offset + blockBytes p.edge))
    reserved := match firstBad descReservedOk rs with
      | some i => some i
      | none => (firstBad (fun (r : List Byte × Preload) => zeroBytes r.1 5 8 && zeroBytes r.1 12 16 && decide (r.2.offset % 64 = 0))
          (ps.zip pre)).map (· + n) }

def readRoutes (bs : List Byte) : Read (List RouteRec) :=
  let n := fieldAt bs 0 4
  let rs := recordsAt bs 4 n 8
  { val := rs.map fun r => { src := fieldAt r 0 1, dst := fieldAt r 1 1, yFirst := fieldAt r 2 1 == 1, vc := fieldAt r 3 1 }
    layout := decide (1 ≤ n) && decide (n ≤ 65535) && fits bs 4 n 8 && zeroBytes bs (4 + 8 * n) bs.length
    reserved := firstBad (fun r => fieldAt r 4 4 == 0 && decide (fieldAt r 2 1 ≤ 1)) rs }

def readEdges (bs : List Byte) : Read (List EdgeRec) :=
  let n := fieldAt bs 0 4
  let rs := recordsAt bs 4 n 32
  { val := rs.map fun r =>
      { placement := fieldAt r 0 1, prodTile := fieldAt r 1 1, prodSlot := fieldAt r 2 1, consTile := fieldAt r 3 1
        consSlot := fieldAt r 4 1, capacity := fieldAt r 5 1, initTokens := fieldAt r 6 1, initCredits := fieldAt r 7 1
        dataRoute := fieldAt r 8 2, creditRoute := fieldAt r 10 2, blockBytes := fieldAt r 12 4, bufBase := fieldAt r 16 4 }
    layout := decide (1 ≤ n) && decide (n ≤ 1048576) && fits bs 4 n 32 && zeroBytes bs (4 + 32 * n) bs.length
    reserved := firstBad (fun r => zeroBytes r 20 32) rs }

def readPairs (bs : List Byte) : Read (List (Nat × Nat)) :=
  let n := fieldAt bs 0 2
  { val := (recordsAt bs 2 n 2).map fun r => (fieldAt r 0 1, fieldAt r 1 1)
    layout := decide (2 ≤ bs.length) && decide (n ≤ 128) && fits bs 2 n 2 && zeroBytes bs (2 + 2 * n) bs.length }

def readRegions (bs : List Byte) : Read (List Region) :=
  let n := fieldAt bs 0 4
  let rs := recordsAt bs 4 n 32
  { val := rs.map fun r => { tier := fieldAt r 0 1, kind := fieldAt r 1 1, home := fieldAt r 2 2, flags := fieldAt r 4 4
                             offset := fieldAt r 8 8, size := fieldAt r 16 8 }
    layout := decide (1 ≤ n) && decide (n ≤ 65536) && fits bs 4 n 32 && zeroBytes bs (4 + 32 * n) bs.length
    reserved := firstBad (fun r => zeroBytes r 24 32 && decide (fieldAt r 4 4 < 4)) rs }

def readEscalation (bs : List Byte) : Read Nat :=
  { val := fieldAt bs 0 1, layout := decide (64 ≤ bs.length) && zeroBytes bs 1 bs.length }

/-- RECOMPUTE (R69); bits [7:1] of a record's flags are taken as reserved, which the spec does not say (log entry 120). -/
def readLayers (bs : List Byte) : Read (List Layer) :=
  let n := fieldAt bs 0 2
  let rs := recordsAt bs 2 n 8
  { val := rs.map fun r => { layer := fieldAt r 0 2, eligible := bitAt r 2 0, stashFormat := fieldAt r 3 1, boundary := fieldAt r 4 2
                             span := fieldAt r 6 2 }
    layout := decide (2 ≤ bs.length) && fits bs 2 n 8 && zeroBytes bs (2 + 8 * n) bs.length
    reserved := firstBad (fun r => decide (fieldAt r 2 1 < 2)) rs }

/-- SYNC_INIT has no count: its records fill the section, and what is left over must be zero (R72, R575). Log entry 18. -/
def readSyncs (bs : List Byte) : Read (List SyncRec) :=
  let n := bs.length / 8
  { val := (recordsAt bs 0 n 8).map fun r => { object := fieldAt r 0 2, count := fieldAt r 2 4, threshold := fieldAt r 6 2 }
    layout := zeroBytes bs (8 * n) bs.length }

/-- UPDATE (R276): header, groups and tensors stand one after another, the freeze table after them where there is one, its bitmaps after the
table. -/
def readUpdate (bs : List Byte) : Read UpdateSec :=
  let ng := fieldAt bs 4 2
  let nt := fieldAt bs 8 4
  let nf := fieldAt bs 12 4
  let fo := fieldAt bs 16 4
  let gs := recordsAt bs 64 ng 64
  let ts := recordsAt bs (64 + 64 * ng) nt 64
  let fs := recordsAt bs fo nf 16
  let fz : List Freeze := fs.map fun r =>
    { region := fieldAt r 0 4, kind := fieldAt r 4 1, a := fieldAt r 8 4, b := fieldAt r 12 4
      bitmap := if fieldAt r 4 1 = 4 then (bs.drop (fieldAt r 8 4)).take ((fieldAt r 12 4 + 7) / 8) else [] }
  let maps := (fz.filter fun f => f.kind == 4).map fun f => (f.a, f.a + (f.b + 7) / 8)
  { val :=
      { k := fieldAt bs 0 1, clip := bitAt bs 1 0, nfSkip := bitAt bs 1 1, mbCount := fieldAt bs 2 2, lossExp := i8At bs 6
        retireObj := fieldAt bs 20 2, backlogObj := fieldAt bs 22 2, clipMax := f32At bs 24, parkRegion := fieldAt bs 28 4
        retirePerMb := fieldAt bs 32 2
        groups := gs.map fun r => { rule := fieldAt r 0 1, lr := f32At r 4, beta1 := f32At r 8, beta2 := f32At r 12, eps := f32At r 16
                                    decay := f32At r 20, tOrigin := fieldAt r 24 4 }
        tensors := ts.map fun r => { master := fieldAt r 0 4, state := fieldAt r 4 4, copy := fieldAt r 8 4, grad := fieldAt r 12 4
                                     rows := fieldAt r 16 4, cols := fieldAt r 20 4, stateOff := fieldAt r 24 8, copyOff := fieldAt r 32 8
                                     gradOff := fieldAt r 40 8, copyFmt := fieldAt r 48 1, group := fieldAt r 49 1, hadW := bitAt r 50 0 }
        freezes := fz }
    layout := decide (64 ≤ bs.length) && decide (1 ≤ ng) && decide (ng ≤ 256) && decide (1 ≤ nt) && decide (nt ≤ 65536) && decide (nf ≤ nt)
      && decide (fo % 16 = 0) && fits bs 64 ng 64 && fits bs (64 + 64 * ng) nt 64
      && (decide (nf = 0) || (decide (64 + 64 * ng + 64 * nt ≤ fo) && fits bs fo nf 16)) && maps.all fun m => decide (m.2 ≤ bs.length)
    covered := uncoveredZero bs ((0, 64 + 64 * ng + 64 * nt) :: (fo, fo + 16 * nf) :: maps)
    reserved := if fieldAt bs 1 1 / 4 ≠ 0 || fieldAt bs 7 1 ≠ 0 || !zeroBytes bs 34 64 then some 0xFFFFFF
      else match firstBad (fun r => zeroBytes r 1 4 && zeroBytes r 28 64) gs with
        | some i => some i
        | none => match firstBad (fun r => decide (fieldAt r 50 1 < 2) && zeroBytes r 51 64) ts with
          | some i => some (ng + i)
          | none => (firstBad (fun (r : List Byte × Freeze) => zeroBytes r.1 5 8 && (r.2.kind != 4 || decide (fo + 16 * nf ≤ r.2.a)))
              (fs.zip fz)).map (· + (ng + nt)) }

def readNumerics (bs : List Byte) : Read NumSec :=
  let ns := fieldAt bs 0 4
  let nb := fieldAt bs 4 4
  let ss := recordsAt bs 64 ns 16
  let bb := recordsAt bs (64 + 16 * ns) nb 8
  { val := { seed := fieldAt bs 8 8, reportRegion := fieldAt bs 16 4, defaultH := fieldAt bs 20 1, defaultSat := fieldAt bs 21 1
             spoonR := fieldAt bs 22 1
             sites := ss.map fun r => { format := fieldAt r 0 1, h := if fieldAt r 1 1 = 0xFF then fieldAt bs 20 1 else fieldAt r 1 1
                                        satShift := if fieldAt r 2 1 = 0xFF then fieldAt bs 21 1 else fieldAt r 2 1, grad := bitAt r 3 0
                                        history := bitAt r 3 1, hadW := bitAt r 3 2, refRegion := fieldAt r 4 4 }
             bindings := bb.map fun r => { placement := fieldAt r 0 1, tile := fieldAt r 1 1, slot := fieldAt r 2 1, port := fieldAt r 3 1
                                           site := fieldAt r 4 2 } }
    layout := decide (64 ≤ bs.length) && decide (ns ≤ 65535) && decide (nb ≤ 65536) && fits bs 64 ns 16 && fits bs (64 + 16 * ns) nb 8
      && zeroBytes bs (64 + 16 * ns + 8 * nb) bs.length
    reserved := if !zeroBytes bs 23 64 then some 0xFFFFFF
      else match firstBad (fun r => decide (fieldAt r 3 1 < 8) && zeroBytes r 8 16) ss with
        | some i => some i
        | none => (firstBad (fun r => zeroBytes r 6 8) bb).map (· + ns) }

def readBuckets (bs : List Byte) : Read BucketSec :=
  let n := fieldAt bs 0 2
  let rs := recordsAt bs 64 n 16
  { val := { slotRegion := fieldAt bs 4 4, stageRegion := fieldAt bs 8 4, returnGrace := fieldAt bs 12 4, normOff := fieldAt bs 16 4
             podLead := fieldAt bs 20 4
             buckets := rs.map fun r => { firstBlock := fieldAt r 0 4, blockCount := fieldAt r 4 4, deadlineOff := fieldAt r 8 4, g := i8At r 12 } }
    layout := decide (64 ≤ bs.length) && decide (1 ≤ n) && decide (n ≤ 4096) && fits bs 64 n 16 && zeroBytes bs (64 + 16 * n) bs.length
    reserved := if fieldAt bs 2 2 ≠ 0 || !zeroBytes bs 24 64 then some 0xFFFFFF else firstBad (fun r => zeroBytes r 13 16) rs }

def parseProfile (r : List Byte) : Profile :=
  let f := fun o n => fieldAt r o n
  { v1 := bitAt r 0 0, v2 := bitAt r 0 1, budgetMult := f 1 1, permitted := f 2 1, required := f 3 1, maxRecord := f 4 4, nominalUs := f 8 4
    vMaxW := f 12 2, vMaxH := f 14 2, vMaxFrames := f 16 4, vCodecs := f 20 1, vMaxDepth := f 21 1, vRatio := f 24 4
    iMaxW := f 28 2, iMaxH := f 30 2, iCodecs := f 32 1, iRatio := f 36 4
    aMaxRate := f 40 4, aMaxChannels := f 44 1, aCodecs := f 45 1, aMaxSamples := f 48 4, aRatio := f 52 4
    tMaxBytes := f 56 4, tMaxTokens := f 60 4, tBos := f 64 2, tEos := f 66 2, lMax := f 68 2
    mbRows := f 128 2, readyObj := f 130 2, readyCount := f 132 2, reportRegion := f 136 4
    out := (List.range 5).map fun i =>
      let o := 140 + 8 * i
      { region := f o 4, p := if f (o + 4) 2 = 0 then 65536 else f (o + 4) 2, branch := f (o + 6) 1
        cont := bitAt r (o + 7) 0, f32 := bitAt r (o + 7) 1 }
    vMode := f 180 1, outC := f 181 1, ph := f 182 1, pw := f 183 1, pt := f 184 1, vStride := f 185 1, vOutFrames := f 186 2
    tw := f 188 2, th := f 190 2
    vg := (List.range 4).map fun i => f32At r (192 + 4 * i), vt := (List.range 4).map fun i => f32At r (208 + 4 * i)
    aMode := f 224 1, aStack := f 225 1, outRate := f 226 2, nFft := f 228 2, win := f 230 2, hop := f 232 2, nMels := f 234 2
    chunk := f 236 2, ag := f32At r 240, at' := f32At r 244 }

/-- Reserved bits of a profile record (R395, R419, R420). -/
def profileReservedOk (r : List Byte) : Bool :=
  decide (fieldAt r 0 1 < 4) && decide (fieldAt r 2 1 < 64) && decide (fieldAt r 3 1 < 64) && decide (fieldAt r 20 1 < 4)
    && zeroBytes r 22 24 && decide (fieldAt r 32 1 < 4) && zeroBytes r 33 36 && decide (fieldAt r 45 1 < 16) && zeroBytes r 46 48
    && zeroBytes r 70 128 && zeroBytes r 134 136 && zeroBytes r 238 240 && zeroBytes r 248 256
    && (List.range 5).all fun i => decide (fieldAt r (147 + 8 * i) 1 < 4)

def readProfiles (bs : List Byte) : Read ProfileSec :=
  let n := fieldAt bs 0 2
  let rs := recordsAt bs 64 n 256
  { val := { stagingRegion := fieldAt bs 4 4, profiles := rs.map parseProfile }
    layout := decide (64 ≤ bs.length) && decide (1 ≤ n) && decide (n ≤ 256) && fits bs 64 n 256 && zeroBytes bs (64 + 256 * n) bs.length
    reserved := if !zeroBytes bs 2 4 || !zeroBytes bs 8 64 then some 0xFFFFFF else firstBad profileReservedOk rs }

def readTok (bs : List Byte) : Read TokSec :=
  let n := fieldAt bs 0 4
  { val := { specialCount := fieldAt bs 4 2, splitMode := fieldAt bs 6 1
             merges := (recordsAt bs 16 n 8).map fun r => (fieldAt r 0 4, fieldAt r 4 4) }
    layout := decide (16 ≤ bs.length) && decide (n ≤ 262144) && fits bs 16 n 8 && zeroBytes bs (16 + 8 * n) bs.length
    reserved := if zeroBytes bs 7 16 then none else some 0xFFFFFF }

/-- Preload data of a record (R105). -/
def Image.preloadData (im : Image) (p : Preload) : List Byte :=
  (im.descBytes.drop p.offset).take ((im.edges.getD p.edge default).blockBytes)

end Sys2Proof.Machine
end

