-- ==== Sys2Proof/Machine/ImageDesc.lean ====
section
/-! DEFINITION. What a descriptor's parameter bytes say, class by class, and the checks of its fields (R92, R98, R99, R102 to R106, R153, R165, R209 to R218, R229, R232, R234, R237 to R239, R579). -/

namespace Sys2Proof.Machine

/-- An n-byte parameter at a descriptor offset from 44 on. -/
def Desc.par (d : Desc) (off n : Nat) : Nat := fieldAt d.params (off - 44) n
def Desc.parBit (d : Desc) (off i : Nat) : Bool := d.par off 1 / 2 ^ i % 2 == 1

/-- How the lead of a pair stands to its partner (R62). -/
inductive PairKind where
  | single | horizontal | vertical
  deriving DecidableEq, Repr, Inhabited

/-- The pair a tile leads: horizontal partners differ by one column, vertical ones by one row (R62). -/
def Image.pairKind (im : Image) (t : Nat) : PairKind :=
  match im.partner? t with
  | none => .single
  | some p => if p = t + 1 then .horizontal else .vertical

/-- Bytes of tile SRAM a tile's descriptors reach (R61). -/
def Image.sramBytes (im : Image) (t : Nat) : Nat := if im.isLead t then 2 ^ 23 else 2 ^ 22

/-- Parameters of the array classes (R212). -/
structure ArrPar where
  nTotal : Nat
  rows : Nat
  seg : Nat
  segCount : Nat
  kValid : Nat
  opIdx : Nat
  stIdx : Nat
  accIdx : Nat
  acc : Bool
  last : Bool
  transpose : List Bool
  square : Bool
  opSram : Bool
  stSram : Bool
  opStride : Nat
  opOff : Nat
  stOff : Nat
  deriving DecidableEq, Repr, Inhabited

def Desc.arr (d : Desc) : ArrPar :=
  let roles := d.par 55 1
  { nTotal := d.par 44 4, rows := d.par 48 2, seg := d.par 50 2, segCount := d.par 52 2, kValid := d.par 54 1 + 1
    opIdx := roles % 4, stIdx := roles / 4 % 4, accIdx := roles / 16 % 4, acc := d.parBit 55 6, last := d.parBit 55 7
    transpose := [d.parBit 56 0, d.parBit 56 1], square := d.parBit 56 2, opSram := d.parBit 56 3, stSram := d.parBit 56 4
    opStride := d.par 57 2, opOff := d.par 59 5 % 2 ^ 20, stOff := d.par 59 5 / 2 ^ 20 }

/-- A field that encodes 65,536 as 0 (R218). -/
def full16 (n : Nat) : Nat := if n = 0 then 65536 else n

/-- Parameters of VECTOR descriptors with op below 0x20 (R218). -/
structure VecPar where
  width : Nat
  rows : Nat
  nTotal : Nat
  c0 : F32
  indexBase : Nat
  auxOff : Nat
  opts : Nat
  aIdx : Nat
  bIdx : Nat
  cIdx : Nat
  rowTotal : Nat
  deriving DecidableEq, Repr, Inhabited

def Desc.vec (d : Desc) : VecPar :=
  let roles := d.par 61 1
  { width := full16 (d.par 44 2), rows := d.par 46 2, nTotal := d.par 48 4, c0 := BitVec.ofNat 32 (d.par 52 4), indexBase := d.par 52 4
    auxOff := d.par 56 4, opts := d.par 60 1, aIdx := roles % 4, bIdx := roles / 4 % 4, cIdx := roles / 16 % 4
    rowTotal := full16 (d.par 62 2) }

def VecPar.opt (v : VecPar) (i : Nat) : Bool := v.opts / 2 ^ i % 2 == 1

/-- Window geometry (R98, R229, R232, R234). -/
structure Geom where
  h : Nat
  w : Nat
  c : Nat
  kh : Nat
  kw : Nat
  sh : Nat
  sw : Nat
  dh : Nat
  dw : Nat
  ph : Nat
  pw : Nat
  elem : Nat
  replicate : Bool
  deriving DecidableEq, Repr, Inhabited

def Desc.geom (d : Desc) : Geom :=
  { h := d.par 52 2, w := d.par 54 2, c := d.par 56 2, kh := d.par 58 1 / 16 + 1, kw := d.par 58 1 % 16 + 1
    sh := d.par 59 1 / 16 + 1, sw := d.par 59 1 % 16 + 1, dh := d.par 60 1 / 16 + 1, dw := d.par 60 1 % 16 + 1
    ph := d.par 61 1 / 16, pw := d.par 61 1 % 16, elem := d.par 62 1 % 4, replicate := d.parBit 62 2 }

/-- One output size of R99; 0 when the window does not fit. -/
def outSize (n pad dil k stride : Nat) : Nat :=
  let span := dil * (k - 1) + 1
  if n + 2 * pad < span then 0 else (n + 2 * pad - span) / stride + 1

def Geom.oh (g : Geom) : Nat := outSize g.h g.ph g.dh g.kh g.sh
def Geom.ow (g : Geom) : Nat := outSize g.w g.pw g.dw g.kw g.sw
def Geom.elemBytes (g : Geom) : Nat := if g.elem = 0 then 1 else if g.elem = 1 then 2 else 4
/-- A size rounded up to a multiple. -/
def roundUp (n a : Nat) : Nat := (n + a - 1) / a * a
/-- Bytes of a row of the expanded buffer, and of the whole (R98, R227). -/
def Geom.rowBytes (g : Geom) : Nat := roundUp (g.c * g.kh * g.kw * g.elemBytes) 64
def Geom.bufferBytes (g : Geom) : Nat := g.oh * g.ow * g.rowBytes
def Geom.inputBytes (g : Geom) : Nat := g.c * g.h * g.w * g.elemBytes

/-- Parameters of the memory classes (R237). -/
structure MemPar where
  region : Nat
  rows : Nat
  rowUnits : Nat
  perMb : Bool
  base : Nat
  stride : Nat
  advance : Nat
  deriving DecidableEq, Repr, Inhabited

def Desc.mem (d : Desc) : MemPar :=
  { region := d.par 44 2, rows := d.par 46 2, rowUnits := d.par 48 2, perMb := d.parBit 50 0
    base := d.par 52 4, stride := d.par 56 4, advance := d.par 60 4 }

/-- Bytes of one firing (R237). -/
def MemPar.bytes (m : MemPar) : Nat := m.rows * m.rowUnits * 64
/-- Region offset of row i of firing q (R238). -/
def MemPar.rowOff (m : MemPar) (size q i : Nat) : Nat := if size = 0 then 0 else (m.base + q * m.advance + i * m.stride) * 64 % size
/-- Region spans of firing q. -/
def MemPar.spans (m : MemPar) (size q : Nat) : List (Nat × Nat) :=
  (List.range m.rows).map fun i => (m.rowOff size q i, m.rowOff size q i + m.rowUnits * 64)
/-- Firings after which the offsets repeat (R238). -/
def MemPar.period (m : MemPar) (size : Nat) : Nat := if size = 0 then 1 else size / Nat.gcd (m.advance * 64) size

/-- Unit classes (R103). -/
def isArray (c : Nat) : Bool := decide (1 ≤ c) && decide (c ≤ 3)
def Desc.isMem (d : Desc) : Bool := d.cls == 6 || d.cls == 7

/-- A format code of R104. -/
def fmtOk (c : Nat) : Bool := decide (c ≤ 11) || c == 0xFF
def blockFmt (c : Nat) : Bool := decide (4 ≤ c) && decide (c ≤ 9)
def intFmt (c : Nat) : Bool := c == 10 || c == 11

/-- The pairings of R92: stationary, streamed. -/
def pairingOk (st inn : Nat) : Bool :=
  [(8, 8), (9, 8), (11, 11), (10, 10), (2, 2), (1, 1)].contains (st, inn)
    || ([4, 5, 6, 7].contains st && [4, 5].contains inn)

/-- Whether a pair sums 256 terms in this class: a vertical pair in row mode, a horizontal pair in column mode (R128). Log entry 19. -/
def chained (k : PairKind) (cls : Nat) : Bool := (k = .vertical && cls != 2) || (k = .horizontal && cls == 2)
/-- Whether a pair gives 256 outputs per row. -/
def widened (k : PairKind) (cls : Nat) : Bool := (k = .horizontal && cls != 2) || (k = .vertical && cls == 2)

/-- Field rules of the array classes (R92, R165, R209, R210, R212, R217). -/
def Desc.arrayOk (d : Desc) (k : PairKind) : Bool :=
  let p := d.arr
  let lim := if k = .vertical then 256 else 128
  let roles := (if p.opSram then [] else [p.opIdx]) ++ (if p.stSram then [] else [p.stIdx]) ++ (if p.acc then [p.accIdx] else [])
  d.op == 1 && pairingOk d.fmtSt d.fmtIn && decide (d.fmtOut ≤ 11)
    && (!d.hadamard || (d.cls == 1 && [8, 4, 5].contains d.fmtIn))
    && decide (1 ≤ p.nTotal) && decide (1 ≤ p.rows) && decide (p.rows ≤ 8192) && decide (1 ≤ p.segCount) && decide (p.seg < p.segCount)
    && decide (p.kValid ≤ lim) && d.par 56 1 / 32 == 0
    && decide roles.Nodup && roles.all (fun r => decide (r < d.inEdges.length))
    && (!p.square || p.rows % 32 == 0)
    && (!blockFmt d.fmtOut || !(p.transpose.any id) || p.square)
    && (p.last || d.fmtOut == 0)

/-- Inputs a VECTOR op reads (R219, R579): which of a, b and c. -/
def vecUses (v : VecPar) (op : Nat) : Bool × Bool × Bool :=
  let b := [0x02, 0x03, 0x04, 0x06, 0x09, 0x18, 0x19, 0x1A].contains op
    || (op == 0x13 && v.opts % 4 == 2) || ((op == 0x14 || op == 0x15) && v.opt 0)
  (true, b, op == 0x04)

/-- Inputs a VECTOR firing reads in fmt_in: index, rows and row length (R219, R230, R234). -/
def Desc.readShapes (d : Desc) : List (Nat × Nat × Nat) :=
  if d.cls ≠ 4 then []
  else if d.op < 0x20 then
    let v := d.vec
    let u := vecUses v d.op
    let other := [0x13, 0x14, 0x15, 0x18, 0x19, 0x1A].contains d.op
    (v.aIdx, v.rows, v.width) :: ((if u.2.1 && !other then [(v.bIdx, v.rows, v.width)] else []) ++ (if u.2.2 then [(v.cIdx, v.rows, v.width)] else []))
  else
    let g := d.geom
    if d.op = 0x20 || d.op = 0x30 || d.op = 0x31 then [(0, g.c, g.h * g.w)]
    else if d.op = 0x22 then [(0, g.c, g.h * g.w), (1, g.c, g.oh * g.ow)]
    else [(0, g.c, g.oh * g.ow)]

/-- Ops that read auxiliary vectors (R219). -/
def vecAux (op : Nat) : Bool := [0x05, 0x16, 0x17, 0x18, 0x1A].contains op
/-- Auxiliary bytes an op reads. -/
def vecAuxBytes (v : VecPar) (op : Nat) : Nat :=
  if op = 0x05 || op = 0x17 then 8 * v.width else if op = 0x16 then 4 * v.width
  else if op = 0x18 then (if v.opt 0 then 8 else 4) * v.width else if op = 0x1A then 2 * v.width else 0

/-- Field rules of VECTOR ops below 0x20 (R209, R210, R217 to R219, R579). DESIGN CHOICE (log entry 148): where ROW_SUM, ROW_MAX or ROW_MIN turn
plain rows into a block-scaled result, whose 32-element blocks run over the rows, only `rows` must be a multiple of 32, not the width; and
HAD_BACK, which works on blocks of 32, asks for such a width in every format. -/
def Desc.vectorOk (d : Desc) : Bool :=
  let v := d.vec
  let u := vecUses v d.op
  let n := d.inEdges.length
  decide (1 ≤ v.rows) && d.par 61 1 / 64 == 0
    && (!(blockFmt d.fmtIn || blockFmt d.fmtOut || d.op == 7) || v.width % 32 == 0 || ([0x13, 0x14, 0x15].contains d.op && !blockFmt d.fmtIn))
    && decide (v.aIdx < n) && (!u.2.1 || decide (v.bIdx < n)) && (!u.2.2 || decide (v.cIdx < n))
    && !(d.op == 0x13 && v.opts % 4 == 3)
    && !([0x13, 0x14, 0x15].contains d.op && blockFmt d.fmtOut && v.rows % 32 != 0)
    && !(d.op == 1 && v.opt 0 && v.rows % 32 != 0)
    && !(d.op == 1 && v.opt 1 && blockFmt d.fmtOut && !v.opt 0)
    && !(d.op == 6 && !v.opt 0 && d.fmtOut != 0)
    && !(d.op == 0x1A && v.width % 2 != 0)
    && (!vecAux d.op || (v.auxOff % 64 == 0 && v.auxOff != none32))

/-- Planes and padding within R98's ranges. -/
def Geom.planesOk (g : Geom) : Bool :=
  decide (1 ≤ g.h) && decide (g.h ≤ 4096) && decide (1 ≤ g.w) && decide (g.w ≤ 4096) && decide (1 ≤ g.c) && decide (g.c ≤ 4096)

/-- Ranges shared by two axes. -/
def Geom.axes (g : Geom) (k s dil p : Nat) : Bool :=
  decide (g.kh ≤ k) && decide (g.kw ≤ k) && decide (g.sh ≤ s) && decide (g.sw ≤ s) && decide (g.dh ≤ dil) && decide (g.dw ≤ dil)
    && decide (g.ph ≤ p) && decide (g.pw ≤ p)

/-- Field rules of the depthwise ops and of pooling (R229, R234). -/
def Desc.convOk (d : Desc) : Bool :=
  let g := d.geom
  let below := decide (g.ph < g.kh) && decide (g.pw < g.kw)
  let grp := d.par 63 1 % 16 + 1
  g.planesOk && below && d.par 62 1 / 8 == 0 && d.par 63 1 / 32 == 0
    && (if decide (0x30 ≤ d.op) then g.axes 16 16 1 7
        else g.axes 7 4 4 7 && g.c % grp == 0)
    && decide (1 ≤ d.inEdges.length)
    && (!([0x22, 0x32].contains d.op) || decide (2 ≤ d.inEdges.length))

/-- Field rules of COPY_WINDOW (R98, R99): the input and the buffer lie within the tile's SRAM. -/
def Desc.copyOk (d : Desc) (sram : Nat) : Bool :=
  let g := d.geom
  d.op == 1 && d.par 44 4 % 64 == 0 && d.par 48 4 % 64 == 0 && g.planesOk && g.axes 16 8 4 15 && decide (g.elem ≤ 2)
    && d.par 62 1 / 8 == 0 && d.par 63 1 == 0 && decide (1 ≤ g.oh) && decide (1 ≤ g.ow)
    && decide (d.par 44 4 + g.inputBytes ≤ sram) && decide (d.par 48 4 + g.bufferBytes ≤ sram)

/-- Field rules of STEM (R232). -/
def Desc.stemOk (d : Desc) : Bool :=
  let g := d.geom
  let co := d.par 48 2
  decide (1 ≤ d.op) && decide (d.op ≤ 3) && d.par 50 2 == 0 && d.par 63 1 == 0 && d.par 62 1 / 8 == 0 && g.planesOk
    && g.axes 16 8 4 15 && decide (1 ≤ co) && decide (co ≤ 1024) && decide (g.c ≤ 1024) && (decide (g.c ≤ 16) || decide (co ≤ 16))
    && d.fmtIn == 2 && d.fmtOut == 2
    && decide (co * g.c * g.kh * g.kw ≤ 16 * 16 * 16 * 1024)
    && decide (1 ≤ d.inEdges.length) && (!(d.op == 3) || decide (2 ≤ d.inEdges.length))

/-- Field rules of MEM_LOAD and MEM_STORE (R237, R238): no row of a firing that can occur straddles the region's end. -/
def Desc.memOk (d : Desc) (im : Image) : Bool :=
  let m := d.mem
  match im.region? m.region with
  | none => false
  | some r =>
    let n := if m.perMb then min d.firesPerMb (m.period r.size) else m.period r.size
    d.op == 1 && decide (1 ≤ m.rows) && decide (1 ≤ m.rowUnits) && d.par 50 1 / 2 == 0 && d.par 51 1 == 0
      && decide (m.rows * m.stride * 64 ≤ r.size) && decide (m.rowUnits * 64 ≤ r.size)
      && (List.range n).all (fun q => (m.spans r.size q).all fun s => decide (s.2 ≤ r.size))
      && (if d.cls = 6 then decide (1 ≤ d.outEdges.length) else decide (1 ≤ d.inEdges.length))
      -- R452: a descriptor reaches no other tile's SRAM (log entry 134)
      && (r.tier != 0 || r.home == d.tile || im.partner? r.home == some d.tile)
      -- R255, first condition
      && r.kind != 6 && (r.kind != 5 || m.perMb)

/-- The ops a class lists (R211). -/
def opListed (cls op : Nat) : Bool :=
  if cls = 4 then (decide (1 ≤ op) && decide (op ≤ 0x1A)) || (decide (0x20 ≤ op) && decide (op ≤ 0x22)) || (decide (0x30 ≤ op) && decide (op ≤ 0x33))
  else if cls = 9 then decide (1 ≤ op) && decide (op ≤ 3) else op == 1

/-- Field rules of a descriptor by its class (R102 to R104, R106). -/
def Image.descOk (im : Image) (d : Desc) : Bool :=
  fmtOk d.fmtIn && fmtOk d.fmtSt && fmtOk d.fmtOut && decide (1 ≤ d.cls) && decide (d.cls ≤ 9) && opListed d.cls d.op
    && decide (fieldAt d.raw 7 1 % 8 ≤ 4) && decide (fieldAt d.raw 7 1 / 16 % 4 ≤ 2)
    && (List.range 4).all (fun i => decide (i < d.inEdges.length) || fieldAt d.raw (8 + 4 * i) 4 == none32)
    && (List.range 2).all (fun i => decide (i < d.outEdges.length) || fieldAt d.raw (24 + 4 * i) 4 == none32)
    && (decide (d.waitObj ≤ 16383) || d.waitObj == none16) && (decide (d.sigObj ≤ 16383) || d.sigObj == none16)
    && decide (1 ≤ d.waitCount) && decide (1 ≤ d.sigCount) && decide (1 ≤ d.firesPerMb)
    && (isArray d.cls || (!d.hadamard && d.fmtSt == 0xFF))
    && (if isArray d.cls then d.arrayOk (im.pairKind d.tile)
        else if d.cls = 4 then (if d.op < 0x20 then d.vectorOk else d.convOk)
        else if d.cls = 5 then d.copyOk (im.sramBytes d.tile)
        else if d.isMem then d.memOk im
        else if d.cls = 8 then zeroBytes d.params 0 20
        else d.stemOk)

/-- Escape tables exist only in F4 and W2 (R145). -/
def escFmt (f : Nat) (esc : Bool) : Bool := esc && (f == 8 || f == 9)

/-- Bytes of the block a firing writes to output edge j (R153, R212, R217, R219, R237, R579). -/
def Image.outBytes (im : Image) (d : Desc) (j : Nat) : Nat :=
  let fb := fun (rows len : Nat) => match Fmt.ofCode? d.fmtOut with
    | some f => panelBytes f (escFmt d.fmtOut d.escapes) rows len
    | none => 0
  if isArray d.cls then
    let p := d.arr
    (if widened (im.pairKind d.tile) d.cls then 2 else 1) * (if p.transpose.getD j false then fb 128 p.rows else fb p.rows 128)
  else if d.cls = 4 then
    let v := d.vec
    let g := d.geom
    if d.op = 0x13 then fb 1 v.rows
    else if d.op = 0x14 || d.op = 0x15 then (if j = 0 then fb 1 v.rows else 4 * v.rows)
    else if d.op < 0x20 then (if d.op = 1 && v.opt 1 then fb v.width v.rows else fb v.rows v.width)
    else if d.op = 0x20 then fb g.c (g.oh * g.ow)
    else if d.op = 0x22 then fb 1 (g.c * (d.par 63 1 % 16 + 1) * g.kh * g.kw)
    else if d.op = 0x21 || d.op = 0x32 || d.op = 0x33 then fb g.c (g.h * g.w)
    else if j = 0 then fb g.c (g.oh * g.ow) else 2 * g.c * g.oh * g.ow
  else if d.cls = 6 then d.mem.bytes
  else if d.cls = 9 then
    let g := d.geom
    if d.op = 1 then 2 * d.par 48 2 * g.oh * g.ow else if d.op = 2 then 2 * g.c * g.h * g.w else 2 * d.par 48 2 * g.c * g.kh * g.kw
  else 0

end Sys2Proof.Machine
end

