-- ==== Sys2Proof/Machine/ImageRules.lean ====
section
/-! DEFINITION. Relations among descriptors that the validator derives: producers, segment trees, stash layers and recompute chains, accumulating stores, the wait graph (R73, R216, R253 to R261, R283, R285). -/

namespace Sys2Proof.Machine

/-- Record index of the descriptor that produces an edge, and of the one that consumes it (R106). -/
def Image.producer? (im : Image) (e : Nat) : Option Nat := indexOf (fun (d : Desc) => d.outEdges.contains e) im.descs
def Image.consumer? (im : Image) (e : Nat) : Option Nat := indexOf (fun (d : Desc) => d.inEdges.contains e) im.descs
def Image.descAt (im : Image) (i : Nat) : Desc := im.descs.getD i default

/-- Everything reached from a list by a successor function; `fuel` bounds the number of nodes taken up. -/
def reachGo (succ : Nat → List Nat) : Nat → List Nat → List Nat → List Nat
  | 0, _, seen => seen
  | _ + 1, [], seen => seen
  | f + 1, x :: r, seen => if seen.contains x then reachGo succ f r seen else reachGo succ f (succ x ++ r) (seen ++ [x])

/-- Descriptors that feed a descriptor by an edge. -/
def Image.preds (im : Image) (i : Nat) : List Nat := (im.descAt i).inEdges.filterMap im.producer?
/-- Descriptors a descriptor feeds by an edge. -/
def Image.succs (im : Image) (i : Nat) : List Nat := (im.descAt i).outEdges.filterMap im.consumer?
/-- Edge ancestors of a descriptor, itself excluded unless it lies on a cycle. -/
def Image.ancestors (im : Image) (i : Nat) : List Nat := reachGo im.preds (5 * im.descs.length + 5) (im.preds i) []
def Image.descendants (im : Image) (i : Nat) : List Nat := reachGo im.succs (3 * im.descs.length + 3) (im.succs i) []

/-- The largest power of two below n, for n at least 2 (R189). -/
def leftLen (n : Nat) : Nat := 2 ^ Nat.log2 (n - 1)

/-- What a node of a segment tree covers and carries (R216). -/
structure TreeNode where
  lo : Nat
  hi : Nat
  segCount : Nat
  nTotal : Nat
  path : Nat
  deriving DecidableEq, Repr, Inhabited

/-- The path of an array descriptor: its format on the 16-bit and integer paths, one code for the block-scaled ones (R182). -/
def Desc.path (d : Desc) : Nat := if d.fmtSt ≤ 2 || intFmt d.fmtSt then d.fmtSt else 4

/-- Whether a descriptor adds: VECTOR ACC_ADD. -/
def Desc.isAccAdd (d : Desc) : Bool := d.cls == 4 && d.op == 6

/-- In-edge of a role index. -/
def Desc.inAt (d : Desc) (i : Nat) : Nat := d.inEdges.getD i none32

/-- Whether a sum holds an array product somewhere below, so that it belongs to a contraction; ACC_ADD trees over row totals do not (R222). Log entry 20. -/
def Image.inContraction (im : Image) : Nat → Nat → Bool
  | 0, _ => false
  | f + 1, i =>
    let d := im.descAt i
    isArray d.cls || (d.isAccAdd && [d.inAt d.vec.aIdx, d.inAt d.vec.bIdx].any fun e =>
      match im.producer? e with
      | some j => im.inContraction f j
      | none => false)

/-- The range a node covers, none where it breaks R216. -/
def Image.treeNode (im : Image) : Nat → Nat → Option TreeNode
  | 0, _ => none
  | f + 1, i =>
    let d := im.descAt i
    if isArray d.cls then
      let p := d.arr
      let own : TreeNode := { lo := p.seg, hi := p.seg, segCount := p.segCount, nTotal := p.nTotal, path := d.path }
      if p.acc then
        match (im.producer? (d.inAt p.accIdx)).bind (im.treeNode f) with
        | some l =>
          if l.hi + 1 = p.seg && l.segCount = p.segCount && l.nTotal = p.nTotal && l.path = d.path
              && p.seg - l.lo = leftLen (p.seg - l.lo + 1) then some { own with lo := l.lo } else none
        | none => none
      else some own
    else if d.isAccAdd then
      let v := d.vec
      match (im.producer? (d.inAt v.aIdx)).bind (im.treeNode f), (im.producer? (d.inAt v.bIdx)).bind (im.treeNode f) with
      | some a, some b =>
        if a.hi + 1 = b.lo && a.segCount = b.segCount && a.nTotal = b.nTotal && a.path = b.path && v.nTotal = a.nTotal
            && (if intFmt a.path then d.fmtIn = a.path else !intFmt d.fmtIn)
            && a.hi - a.lo + 1 = leftLen (b.hi - a.lo + 1) then some { a with hi := b.hi } else none
      | _, _ => none
    else none

/-- Whether the LAST flag of a node is set (R212, R219). -/
def Desc.lastFlag (d : Desc) : Bool := if isArray d.cls then d.arr.last else d.vec.opt 0

/-- Whether a node's output is an operand of another node: an accumulate input or an input of an ACC_ADD (R190, R216). -/
def Image.feedsNode (im : Image) (i : Nat) : Bool :=
  (im.descAt i).outEdges.any fun e => match im.consumer? e with
    | some j =>
      let d := im.descAt j
      (isArray d.cls && d.arr.acc && d.inAt d.arr.accIdx == e) || (d.isAccAdd && (d.inAt d.vec.aIdx == e || d.inAt d.vec.bIdx == e))
    | none => false

/-- R190, R216 and R217 for one descriptor. A node that is not LAST must be an operand of the next one, so that every contraction's nodes reach
[0, s − 1] and no sum of part of its segments leaves the tree (DEDUCED, log entry 20). -/
def Image.treeOk (im : Image) (i : Nat) : Bool :=
  let d := im.descAt i
  let n := im.descs.length + 1
  if im.inContraction n i then
    match im.treeNode n i with
    | some t => d.lastFlag == (t.lo == 0 && t.hi + 1 == t.segCount)
        && (d.lastFlag || (d.fmtOut == 0 && (im.site? d 0).isNone && im.feedsNode i))
    | none => false
  else !d.isAccAdd || d.lastFlag || (d.fmtOut == 0 && (im.site? d 0).isNone)

/-- The stash region and the overflow region (R253). -/
def Image.stashRegion? (im : Image) : Option Nat := im.kindRegion? 5
def Image.overflowRegion? (im : Image) : Option Nat := im.kindRegion? 6
def Image.namesStash (im : Image) (d : Desc) : Bool := d.isMem && some d.mem.region == im.stashRegion?

def Image.regionSize (im : Image) (i : Nat) : Nat := ((im.region? i).getD default).size

/-- Distinct 64 KiB logical pages a descriptor touches in one frame (R256). -/
def Image.pagesOf (im : Image) (d : Desc) : List Nat :=
  let size := im.regionSize d.mem.region
  ((List.range (min d.firesPerMb (d.mem.period size))).flatMap fun q => (d.mem.spans size q).flatMap fun s =>
    (List.range ((s.2 + 65535) / 65536 - s.1 / 65536)).map (· + s.1 / 65536)).eraseDups

/-- A restore store: a forward store of the stash region that descends from a load of it (R261). -/
def Image.isRestore (im : Image) (i : Nat) : Bool :=
  let d := im.descAt i
  d.cls == 7 && im.namesStash d && !d.backward
    && (im.ancestors i).any fun j => (im.descAt j).cls == 6 && im.namesStash (im.descAt j)

/-- A stash store (R255). -/
def Image.isStashStore (im : Image) (i : Nat) : Bool := (im.descAt i).cls == 7 && im.namesStash (im.descAt i) && !im.isRestore i

def Image.indices (im : Image) : List Nat := List.range im.descs.length

/-- The stash stores of a layer, named by its stash object (R254). -/
def Image.layerStores (im : Image) (l : Nat) : List Nat := im.indices.filter fun i => im.isStashStore i && (im.descAt i).sigObj == l

/-- The stash layers of a placement in ascending id. -/
def Image.stashLayers (im : Image) (p : Nat) : List Nat :=
  let ids := ((im.indices.filter fun i => im.isStashStore i && (im.descAt i).placement == p).map fun i => (im.descAt i).sigObj).eraseDups
  ids.mergeSort (· ≤ ·)

/-- Placement of a stash layer. -/
def Image.layerPlacement? (im : Image) (l : Nat) : Option Nat := ((im.layerStores l).head?).map fun i => (im.descAt i).placement

/-- Logical pages of a layer (R255). -/
def Image.layerPages (im : Image) (l : Nat) : List Nat := ((im.layerStores l).flatMap fun i => im.pagesOf (im.descAt i)).eraseDups

/-- The restore stores of a layer, which write its logical pages, all of them and no others, and its chain (R261). -/
def Image.restores (im : Image) (l : Nat) : List Nat :=
  let pages := im.layerPages l
  im.indices.filter fun i => im.isRestore i && (im.descAt i).sigObj == l
    && (let own := im.pagesOf (im.descAt i); own.all pages.contains && pages.all own.contains)
def Image.chain (im : Image) (l : Nat) : List Nat := (im.restores l ++ (im.restores l).flatMap im.ancestors).eraseDups
/-- Chain sources: chain descriptors without in_edges (R261). -/
def Image.chainSources (im : Image) (l : Nat) : List Nat := (im.chain l).filter fun i => (im.descAt i).inEdges.isEmpty

/-- The RECOMPUTE record of a layer. DESIGN CHOICE: of several the first counts (log entry 128). -/
def Image.layer? (im : Image) (l : Nat) : Option Layer := im.layers.find? fun r => r.layer == l
def Image.eligible (im : Image) (l : Nat) : Bool := match im.layer? l with | some r => r.eligible | none => false
/-- Eligible layers of a placement in record order (R259). -/
def Image.eligibleOf (im : Image) (p : Nat) : List Nat :=
  (im.layers.filter fun r => r.eligible && im.layerPlacement? r.layer == some p).map (·.layer)

/-- Recompute chain sources that read the stash region, of any eligible layer. -/
def Image.isChainSource (im : Image) (i : Nat) : Bool := im.layers.any fun r => r.eligible && (im.chainSources r.layer).contains i
/-- The layer whose chain holds a descriptor (R262). -/
def Image.chainLayer? (im : Image) (i : Nat) : Option Nat := (im.layers.find? fun r => r.eligible && (im.chain r.layer).contains i).map (·.layer)

/-- A stash object or a trigger object (R254, R261). -/
def Image.stashObj (im : Image) (o : Nat) : Bool :=
  (List.range im.placements.length).any (fun p => (im.stashLayers p).contains o)
  || im.layers.any fun r => r.eligible && (im.chainSources r.layer).any fun i => (im.descAt i).waitObj == o

/-- A stash load (R255). -/
def Image.isStashLoad (im : Image) (i : Nat) : Bool := (im.descAt i).cls == 6 && im.namesStash (im.descAt i) && !im.isChainSource i
def Image.layerLoads (im : Image) (l : Nat) : List Nat := im.indices.filter fun i => im.isStashLoad i && (im.descAt i).waitObj == l

/-- Page counts of R253 and R255. -/
def Image.layerPageCount (im : Image) (l : Nat) : Nat := (im.layerPages l).length
def Image.need (im : Image) (p : Nat) : Nat := ((im.stashLayers p).map im.layerPageCount).foldl (· + ·) 0
def Image.restorePages (im : Image) : Nat := ((im.layers.filter (·.eligible)).map fun r => im.layerPageCount r.layer).foldl max 0
def Image.stashPages (im : Image) : Nat := match im.stashRegion? with | some r => im.regionSize r / 65536 | none => 0
def Image.overflowPages (im : Image) : Nat := match im.overflowRegion? with | some r => im.regionSize r / 65536 | none => 0
def Image.framePages (im : Image) : Nat := im.stashPages - im.restorePages

/-- What a descriptor signals in one micro-batch (R73, R112). -/
def Desc.sigPer (d : Desc) : Nat := d.sigCount * (if d.sigPerMb then 1 else d.firesPerMb)

/-- An accumulating store (R283). -/
def Image.isAccStore (im : Image) (d : Desc) : Bool := d.cls == 7 && ((im.region? d.mem.region).getD default).kind == 4

/-- Firing numbers of frame c of a store (R238, R283). -/
def frameFirings (d : Desc) (c : Nat) : List Nat := (List.range d.firesPerMb).map fun q => if d.mem.perMb then q else c * d.firesPerMb + q

/-- Spans the accumulating stores of a placement write in a region in frame c. -/
def Image.accSpans (im : Image) (p region c : Nat) : List (Nat × Nat) :=
  (im.descs.filter fun d => d.placement == p && im.isAccStore d && d.mem.region == region).flatMap fun d =>
    (frameFirings d c).flatMap fun q => d.mem.spans (im.regionSize region) q

/-- Frames after which an accumulating store's offsets repeat (R238, R283), and those after which all do. -/
def Image.storePeriod (im : Image) (d : Desc) : Nat :=
  let size := im.regionSize d.mem.region
  if d.mem.perMb || size = 0 then 1 else size / Nat.gcd (64 * d.mem.advance * d.firesPerMb) size
def Image.accPeriod (im : Image) : Nat := ((im.descs.filter im.isAccStore).map im.storePeriod).foldl Nat.lcm 1

/-- Whether every element of a tensor's gradient buffer is written exactly once in frame c (R283). How often a byte is written changes only where
a span begins or ends, so it is enough to look there and at the buffer's first byte; no span may begin inside an element. -/
def Image.gradCovered (im : Image) (p c : Nat) (t : Tensor) : Bool :=
  t.grad == none32 || (
    let sp := im.accSpans p t.grad c
    let stop := t.gradOff + 2 * t.rows * t.cols
    let inside := fun o => decide (t.gradOff ≤ o) && decide (o < stop)
    (t.gradOff :: (sp.flatMap fun s => [s.1, s.2]).filter inside).all (fun o =>
        (sp.filter fun s => decide (s.1 ≤ o) && decide (o < s.2)).length == 1)
      && sp.all fun s => !inside s.1 || s.1 % 2 == t.gradOff % 2)

/-- Global blocks an accumulating store writes in the frames that can occur (R282, R285). -/
def Image.accBlocks (im : Image) (d : Desc) : List Nat :=
  let sp := (List.range (im.storePeriod d)).flatMap fun c => (frameFirings d c).flatMap fun q => d.mem.spans (im.regionSize d.mem.region) q
  ((im.upd.tensors.zipIdx).flatMap fun (t, ti) =>
    if t.grad ≠ d.mem.region then [] else
      (List.range t.blocks).filterMap fun b =>
        let i := b / t.pc
        let j := b % t.pc
        let hit := (List.range (t.validRows i)).any fun r =>
          let lo := t.gradOff + 2 * ((128 * i + r) * t.cols + 128 * j)
          sp.any fun s => decide (s.1 < lo + 2 * t.validCols j) && decide (lo < s.2)
        if hit then some (im.firstBlock ti + b) else none).eraseDups

/-- gb(p) of R285: blocks written by accumulating stores of a placement. -/
def Image.gbBlocks (im : Image) (p : Nat) : List Nat :=
  ((im.descs.filter fun d => d.placement == p && im.isAccStore d).flatMap im.accBlocks).eraseDups
def Image.gb (im : Image) (p : Nat) : Nat := (im.gbBlocks p).length

/-- Whether a parking region is required (R285). -/
def Image.parkRequired (im : Image) : Bool :=
  decide (1 < im.placements.length) || (List.range im.placements.length).any fun p =>
    let per := (im.descs.filter fun d => d.placement == p && im.isAccStore d).map im.accBlocks
    (im.gbBlocks p).any fun g => decide (1 < (per.filter fun l => l.contains g).length)

/-- Initial count of a sync object (R72). -/
def Image.syncCount (im : Image) (o : Nat) : Nat := match im.syncs.find? fun r => r.object == o with | some r => r.count | none => 0
def Image.syncThreshold (im : Image) (o : Nat) : Nat := match im.syncs.find? fun r => r.object == o with | some r => r.threshold | none => 0

/-- Nodes of the wait graph: descriptors by index, objects above them (R73). -/
def Image.objNode (im : Image) (o : Nat) : Nat := im.descs.length + o

/-- Arcs of a placement's wait graph that carry no unit (R73, D5). -/
def Image.zeroArcs (im : Image) (p x : Nat) : List Nat :=
  if x < im.descs.length then
    let d := im.descAt x
    (d.outEdges.filter fun e => (im.edges.getD e default).initTokens == 0).filterMap im.consumer?
      ++ (if d.sigObj = none16 then [] else [im.objNode d.sigObj])
  else
    let o := x - im.descs.length
    im.indices.filter fun i =>
      let d := im.descAt i
      d.placement == p && d.waitObj == o && im.syncCount o / d.waitCount == 0

/-- Whether a descriptor lies on a cycle of empty arcs (D5). -/
def Image.onZeroCycle (im : Image) (p i : Nat) : Bool :=
  let n := 20 * (im.descs.length + 16384) + 20
  (reachGo (im.zeroArcs p) n (im.zeroArcs p i) []).contains i

/-- Signals declared per step on an object in a placement, plus its initial count (D6). -/
def Image.declared (im : Image) (p o : Nat) : Nat :=
  let ds := (im.descs.filter fun d => d.placement == p && d.sigObj == o).map Desc.sigPer
  let ready := match im.prof with
    | some ps => match ps.profiles with
      | q :: _ => if q.readyObj = o then q.readyCount else 0
      | [] => 0
    | none => 0
  im.syncCount o + (ds.foldl (· + ·) 0 + ready) * im.upd.mbCount

end Sys2Proof.Machine
end

