-- ==== Sys2Proof/Machine/SecBlock.lean ====
section
/-! DEFINITION. Fuses, keys, provisioning, alarm causes and the registers of the SEC block (R494 to R516). -/

namespace Sys2Proof.Machine

/-- What a run of fuse blows is for (R499, R503). -/
inductive BlowFor where
  | prov
  | rollback (e : Entry) (counter : Nat)
  deriving DecidableEq, Repr, Inhabited

/-- The fuses and the SEC block. -/
structure Sec where
  fuses : Sparse Bool := []
  /-- the copy the controller holds (R498) -/
  held : Sparse Bool := []
  bootErr : BitVec 4 := 0
  debugSeen : Bool := false
  expKeyValid : Bool := false
  idKeyReady : Bool := false
  provErr : Bool := false
  provDone : Bool := false
  sources : BitVec 7 := 0
  valid : Bool := false
  first : BitVec 3 := 0
  /-- the cycle in which FIRST was detected, as Tmr.age tells it -/
  firstCyc : Nat := 0
  keysErased : Bool := false
  retireBlown : Bool := false
  /-- the fuse blows of the present alarm are done (R512, R515) -/
  alarmBlown : Bool := false
  fwSvn : W32 := 0
  expCnt : W64 := 0
  /-- words written to SEC_EXP_KEY0 to 7 -/
  expStage : Sparse W32 := []
  /-- the committed export key -/
  expKey : List Byte := List.replicate 32 0
  locked : Bool := false
  err : BitVec 4 := 0
  field : BitVec 4 := 0
  data : Sparse W32 := []
  /-- fuse bits still to blow, in order, and why -/
  blow : List Nat := []
  blowFor : BlowFor := .prov
  /-- steps 1 to 7 of R502 have passed in this BOOT; so the machine stands at State.reset (log entry 142) -/
  verified : Bool := true
  fwVersion : W32 := 0
  fwDigest : List Byte := List.replicate 64 0
  deriving DecidableEq, Repr, Inhabited

/-- Fuse bits lo to lo + n − 1 as a number, bit 0 the lowest-numbered fuse (R494). -/
def fuseField (fs : Sparse Bool) (lo : Nat) : Nat → Nat
  | 0 => 0
  | n + 1 => (if fs.at lo then 1 else 0) + 2 * fuseField fs (lo + 1) n

def fuseBytes (fs : Sparse Bool) (lo n : Nat) : List Byte := (List.range n).map fun i => BitVec.ofNat 8 (fuseField fs (lo + 8 * i) 8)

/-- State of a 256-bit field with its check word (R495). -/
inductive KeyState where
  | unprogrammed | complete | incomplete | corrupt
  deriving DecidableEq, Repr, Inhabited

def keyState (fs : Sparse Bool) (lo : Nat) : KeyState :=
  let v := fuseField fs lo 256
  let c := fuseField fs (lo + 256) 32
  if v = 0 && c = 0 then .unprogrammed
  else if c ≠ 0 && c = crc32c (fuseBytes fs lo 32) then .complete
  else if c = 0 then .incomplete else .corrupt

def fwKeyLo : Nat := 0x000
def ownerKeyLo : Nat := 0x120
def idSeedLo : Nat := 0x240

/-- A triplicated bit is set when any copy is (R496). -/
def debugDis (fs : Sparse Bool) : Bool := [0xB60, 0xB61, 0xB62].any fun i => fs.at i
def retired (fs : Sparse Bool) : Bool := [0xB69, 0xB6A, 0xB6B].any fun i => fs.at i
/-- The raw alarm action code (R496). -/
def alarmActRaw (fs : Sparse Bool) : Nat :=
  (if [0xB63, 0xB65, 0xB67].any fun i => fs.at i then 1 else 0) + (if [0xB64, 0xB66, 0xB68].any fun i => fs.at i then 2 else 0)

/-- The alarm action code: 0b10 reads as ERASE_AND_RETIRE (R496). -/
def alarmCode (fs : Sparse Bool) : Nat := if alarmActRaw fs = 2 then 3 else alarmActRaw fs

/-- Alarm actions of R496. -/
inductive AlarmAct where
  | lock | eraseKeys | eraseAndRetire
  deriving DecidableEq, Repr, Inhabited

def alarmAct (fs : Sparse Bool) : AlarmAct :=
  match alarmActRaw fs with
  | 0 => .lock | 1 => .eraseKeys | _ => .eraseAndRetire

/-- Consecutive set bits from bit lo, at most n (R497). -/
def runLength (fs : Sparse Bool) (lo : Nat) : Nat → Nat
  | 0 => 0
  | n + 1 => if fs.at lo then 1 + runLength fs (lo + 1) n else 0

def arbLo (i : Nat) : Nat := 0x360 + 32 * i
def arbValue (fs : Sparse Bool) (i : Nat) : Nat := runLength fs (arbLo i) 32
def alarmCount (fs : Sparse Bool) : Nat := runLength fs 0xB70 32

/-- A set bit above a clear bit (R497). -/
def hasGap (fs : Sparse Bool) (lo : Nat) : Bool := fuseField fs lo 32 != 2 ^ runLength fs lo 32 - 1

/-- Whether an array as read fails the checks of R498 against the held copy. -/
def fuseFails (held now : Sparse Bool) : Bool :=
  let ret := retired now
  keyState now fwKeyLo != .complete || keyState now ownerKeyLo = .corrupt
    || (!ret && keyState now idSeedLo != .complete)
    || (List.range 64).any (fun i => hasGap now (arbLo i)) || hasGap now 0xB70
    || now.any (fun p => p.2 && !held.at p.1 && !(ret && 0x240 ≤ p.1 && p.1 < 0x360))
    || held.any (fun p => p.2 && !now.at p.1 && !(ret && 0x240 ≤ p.1 && p.1 < 0x360))

/-- Blow one fuse, in the array and in the held copy. -/
def Sec.setFuse (s : Sec) (i : Nat) : Sec := { s with fuses := s.fuses.put i true, held := s.held.put i true }

/-- Blow every clear fuse of a list. -/
def Sec.setFuses (s : Sec) (l : List Nat) : Sec := l.foldl Sec.setFuse s

/-- Key erasure (R510). -/
def Sec.eraseKeys (s : Sec) : Sec :=
  { s with idKeyReady := false, expKeyValid := false, expKey := List.replicate 32 0, expStage := [] }

/-- Alarm sources by their codes of R511. -/
inductive AlarmSrc where
  | tamper | vglitch | cglitch | temp | fuse | debug | sigfail
  deriving DecidableEq, Repr, Inhabited

def AlarmSrc.code : AlarmSrc → Nat
  | .tamper => 0 | .vglitch => 1 | .cglitch => 2 | .temp => 3 | .fuse => 4 | .debug => 5 | .sigfail => 6

/-- SEC_ALARM_CAUSE after a source is detected in cycle `cyc` (R512, R515): FIRST stays with the first, of two in one cycle with the lower code. -/
def Sec.note (s : Sec) (a : AlarmSrc) (cyc : Nat) : Sec :=
  let keep := s.valid && !(s.firstCyc == cyc && decide (a.code < s.first.toNat))
  { s with sources := s.sources ||| BitVec.ofNat 7 (2 ^ a.code), first := if keep then s.first else BitVec.ofNat 3 a.code
           firstCyc := if keep then s.firstCyc else cyc, valid := true }

/-- The controller's part of entering ALARM (R512, R515): blowing stops after the current bit, keys are erased as ALARM_ACT requires. -/
def Sec.alarm (s : Sec) (a : AlarmSrc) (cyc : Nat) : Sec :=
  let s := { s.note a cyc with blow := s.blow.take 1 }
  match alarmAct s.fuses with
  | .lock => s
  | _ => { s.eraseKeys with keysErased := true }

/-- Fuse bits of the retirement (R512): the RETIRED copies, then every bit of ID_SEED and its check word. -/
def retireBits : List Nat := [0xB69, 0xB6A, 0xB6B] ++ (List.range 288).map (· + 0x240)

/-- The fuse blows that follow the first alarm (R512). -/
def Sec.alarmBlow (s : Sec) : Sec :=
  if s.alarmBlown then s else
  let n := alarmCount s.fuses
  let s := if n < 32 then s.setFuse (0xB70 + n) else s
  let s := { s with alarmBlown := true }
  match alarmAct s.fuses with
  | .eraseAndRetire => { s.setFuses retireBits with retireBlown := true }
  | _ => s

/-- The 32 bytes of the provisioning data registers. -/
def Sec.provBytes (s : Sec) : List Byte := (List.range 8).flatMap fun i => bytesOf 4 (s.data.at i).toNat

/-- ERR that refuses GO, or 0 (R499), in the order state, locked, field or value, field contents. -/
def Sec.provRefusal (s : Sec) (ready : Bool) : Nat :=
  let f := s.field.toNat
  let act := (s.data.at 0).toNat % 4
  if s.locked then 3
  else if !ready then 1
  else if f = 0 || 3 < f || (f = 3 && (act = 0 || act = 2)) then 5
  else if f = 1 then
    match keyState s.fuses ownerKeyLo with
    | .unprogrammed => 0
    | .incomplete =>
      if (List.range 256).all fun i => !s.fuses.at (ownerKeyLo + i) || numOf s.provBytes / 2 ^ i % 2 == 1 then 0 else 2
    | _ => 2
  else if f = 3 && act < alarmCode s.fuses then 2
  else 0

/-- Fuse bits GO has blown, in order (R499). -/
def Sec.provBits (s : Sec) : List Nat :=
  match s.field.toNat with
  | 1 =>
    let v := numOf s.provBytes
    let c := crc32c s.provBytes
    (((List.range 256).filter fun i => v / 2 ^ i % 2 == 1).map (· + ownerKeyLo)
      ++ ((List.range 32).filter fun i => c / 2 ^ i % 2 == 1).map (· + (ownerKeyLo + 256))).filter fun i => !s.fuses.at i
  | 2 => [0xB60, 0xB61, 0xB62].filter fun i => !s.fuses.at i
  | _ =>
    let act := (s.data.at 0).toNat % 4
    ([0xB63, 0xB64, 0xB65, 0xB66, 0xB67, 0xB68].filter fun i => if (i - 0xB63) % 2 = 0 then act % 2 == 1 else act / 2 == 1).filter
      fun i => !s.fuses.at i

/-- SEC_PROV_CTRL.GO (R499); with nothing left to blow the programming completes. -/
def Sec.provGo (s : Sec) (ready : Bool) : Sec :=
  match s.provRefusal ready with
  | 0 => if s.provBits.isEmpty then { s with provDone := true, err := 0 } else { s with blow := s.provBits, blowFor := .prov, err := 0 }
  | n => { s with provErr := true, err := BitVec.ofNat 4 n }

/-- A write of SEC_PROV_CTRL (R515, R516): FIELD while unlocked, LOCK, then GO, which a
run of blows under way turns away (log entry 49). -/
def Sec.writeProvCtrl (s : Sec) (ready : Bool) (v : W32) : Sec :=
  let s := if s.locked then s else { s with field := BitVec.ofNat 4 (fld v 3 0) }
  let s := { s with locked := s.locked || bit v 30 }
  if bit v 31 && s.blow.isEmpty then s.provGo ready else s

/-- A write of SEC_EXP_KEYi; word 7 commits the key (R506). -/
def Sec.writeExpKey (s : Sec) (i : Nat) (v : W32) : Sec :=
  let s := { s with expStage := s.expStage.put i v }
  if i = 7 then
    { s with expKey := (List.range 8).flatMap fun j => bytesOf 4 (s.expStage.at j).toNat
             expKeyValid := true, expCnt := 0 }
  else s

/-- SEC_EXP_CTRL.CLEAR (R506). -/
def Sec.clearExpKey (s : Sec) : Sec := { s with expKeyValid := false, expKey := List.replicate 32 0, expStage := [] }

/-- A write to a SEC register (R516). -/
def Sec.writeReg (s : Sec) (ready : Bool) (off : Nat) (v : W32) : Sec :=
  if off = 0 then { s with provErr := w1c s.provErr v 1, provDone := w1c s.provDone v 0 }
  else if off = 0x10 then (if bit v 0 then s.clearExpKey else s)
  else if 0x20 ≤ off && off < 0x40 && off % 4 = 0 then s.writeExpKey ((off - 0x20) / 4) v
  else if off = 0x40 then s.writeProvCtrl ready v
  else if 0x44 ≤ off && off < 0x64 && off % 4 = 0 then
    (if s.locked then s else { s with data := s.data.put ((off - 0x44) / 4) v })
  else s

/-- What a SEC register reads as (R516). -/
def Sec.readReg (s : Sec) (off : Nat) : W32 :=
  if off = 0 then at' 12 s.bootErr.toNat + flag 7 s.debugSeen + flag 6 s.expKeyValid + flag 5 s.idKeyReady
    + flag 4 (keyState s.fuses ownerKeyLo = .complete) + flag 2 (!s.blow.isEmpty) + flag 1 s.provErr + flag 0 s.provDone
  else if off = 4 then at' 24 (alarmCount s.fuses) + at' 2 (alarmCode s.fuses) + flag 0 (debugDis s.fuses)
  else if off = 8 then flag 17 s.retireBlown + flag 16 s.keysErased + at' 8 s.first.toNat + flag 7 s.valid + at' 0 s.sources.toNat
  else if off = 0xC then s.fwSvn
  else if off = 0x14 then loW s.expCnt.toNat
  else if off = 0x40 then flag 29 s.locked + at' 8 s.err.toNat + at' 0 s.field.toNat
  else if 0x44 ≤ off && off < 0x64 && off % 4 = 0 then s.data.at ((off - 0x44) / 4)
  else if 0x100 ≤ off && off < 0x200 && off % 4 = 0 then at' 0 (arbValue s.fuses ((off - 0x100) / 4))
  else 0

end Sys2Proof.Machine
end

