-- ==== Sys2Proof/Machine/ImageCheck.lean ====
section
/-! DEFINITION. Validation of an image in the order of R75, with the codes of R76 and the places of R576. -/

namespace Sys2Proof.Machine

/-- Whether a directory entry is one the firmware reads (R49). -/
def DirEntry.supported (e : DirEntry) : Bool :=
  decide (1 ≤ e.type) && decide (e.type ≤ 14) && decide (1 ≤ e.version) && decide (e.version ≤ (Config.sectionVersion e.type).toNat)

/-- Directory index of the section of a type that is read; 0xFF when there is none (R576). -/
def dirIndex (dir : List DirEntry) (t : Nat) : Nat := (indexOf (fun (e : DirEntry) => e.type == t && e.supported) dir).getD 0xFF

/-- A rejection naming a record of a section (R576). -/
def Image.rej (im : Image) (code t : Nat) (record : Nat := 0xFFFFFF) : Rej :=
  let i := dirIndex im.dir t
  { code := code, secIdx := i, record := if i = 0xFF then 0xFFFFFF else record }

/-- A check of what no single record holds (R576). -/
def wide (ok : Bool) (code : Nat) : Option Rej := if ok then none else some { code := code }

/-- A check of what a section's header holds: nothing when it holds. -/
def Image.need' (im : Image) (ok : Bool) (code t : Nat) (record : Nat := 0xFFFFFF) : Option Rej :=
  if ok then none else some (im.rej code t record)

/-- The first element of a secIdxs list that breaks a rule. -/
def Image.each {α : Type} (im : Image) (code t base : Nat) (l : List α) (ok : Nat → α → Bool) : Option Rej :=
  match l.zipIdx.find? fun p => !ok p.2 p.1 with
  | some p => some (im.rej code t (base + p.2))
  | none => none

/-- Section codes of R76 by type. -/
def sectionCode (t : Nat) : Nat :=
  match t with
  | 1 => 0x30 | 2 => 0x3D | 3 => 0x31 | 4 => 0x32 | 5 => 0x33 | 6 => 0x34 | 7 => 0x35 | 8 => 0x36 | 9 => 0x37
  | 10 => 0x38 | 11 => 0x39 | 12 => 0x3A | 13 => 0x3B | _ => 0x3C

def mandatory : List Nat := [1, 2, 3, 4, 6, 7, 10, 11, 12]

/-- What validation is judged against: fuses, firmware, DIMMs (R50 to R52, R448). -/
structure CheckEnv where
  ownerHash : List Byte
  arb : Nat → Nat
  fwVersion : Nat
  ddr : Sparse DdrCh
  /-- slot bytes the exchange needs under an image, current and staged roster (R348) -/
  slotNeed : Image → Nat

/-- A failure of the header or of authenticity (R576). -/
def hdr (ok : Bool) (code : Nat) : Option Rej := if ok then none else some { code := code }

/-- Whether an entry is skipped (R49). -/
def DirEntry.skipped (e : DirEntry) (minor : Nat) : Bool :=
  !e.supported && decide (Config.fmtMinorKnown.toNat < minor) && e.flags % 2 == 0

/-- Whether an entry lies in order, aligned, within the body and clear of the entry before it; `pos` is where that one ends (R45, R47). -/
def layoutGo (key : Nat) : Nat → Nat → List DirEntry → Option Rej
  | _, _, [] => none
  | i, pos, e :: r =>
    if e.offset % 64 ≠ 0 || e.offset < pos || key < e.offset + e.length then some { code := 0x06, secIdx := i }
    else layoutGo key (i + 1) (e.offset + e.length) r

/-- Padding between the parts that is not zero (R45). -/
def paddingOk (bs : List Byte) (key : Nat) : Nat → List DirEntry → Bool
  | pos, [] => zeroBytes bs pos key
  | pos, e :: r => zeroBytes bs pos e.offset && paddingOk bs key (e.offset + e.length) r

/-- Header, directory and layout (R45 to R47, R50; codes 0x01 to 0x07). -/
def checkHeader (bs : List Byte) (available : Nat) : Option Rej :=
  let f := fun o n => fieldAt bs o n
  let len := f 0x0C 4
  let n := f 0x10 2
  let key := f 0x80 4
  let sig := f 0x84 4
  let dir := parseDir bs
  let slen := fieldAt bs sig 2
  firstRej [
    hdr (f 0 4 == 0x4E4D5844) 0x01,
    hdr (f 4 2 == 1) 0x02,
    hdr (f 8 4 == 256 && f 0x14 4 == 256) 0x03,
    hdr (len % 64 == 0 && decide (len ≤ 2 ^ 28) && decide (len ≤ available) && len == sig + 1344) 0x04,
    hdr (decide (1 ≤ n) && decide (n ≤ 32)) 0x05,
    layoutGo key 0 (256 + 16 * n) dir,
    hdr (key % 64 == 0 && decide (256 + 16 * n ≤ key) && sig == key + 1856
      && paddingOk bs key (256 + 16 * n) dir && zeroBytes bs (key + 1793) sig
      && decide (1 ≤ slen) && decide (slen ≤ 1280) && zeroBytes bs (sig + 2 + slen) len) 0x06,
    hdr (zeroBytes bs 0x12 0x14 && decide (f 0x18 1 ≤ 63) && zeroBytes bs 0x19 0x1C && zeroBytes bs 0x3C 0x40 && zeroBytes bs 0x88 256) 0x07,
    (dir.zipIdx.find? fun p => decide (p.1.flags ≥ 2) || p.1.reserved != 0).map fun p => ({ code := 0x07, secIdx := p.2 } : Rej) ]

/-- Authenticity, rollback and firmware version (R50 to R52). -/
def checkAuth (bs : List Byte) (env : CheckEnv) : Option Rej :=
  let key := fieldAt bs 0x80 4
  let sig := fieldAt bs 0x84 4
  let kb := (bs.drop key).take 1793
  let slen := fieldAt bs sig 2
  firstRej [
    hdr (shake256 32 kb == env.ownerHash) 0x10,
    hdr (shake256 64 ((bs.take key).drop 256) == (bs.drop 0x40).take 64) 0x11,
    hdr (Config.falconVerify kb (shake256 64 (bs.take sig)) ((bs.drop (sig + 2)).take slen)) 0x12,
    hdr (decide (env.arb (fieldAt bs 0x18 1) ≤ fieldAt bs 0x1C 4)) 0x13,
    hdr (decide (fieldAt bs 0x38 4 ≤ env.fwVersion)) 0x14 ]

/-- The directory (R48, R49): a section skipped under R49 counts as absent. -/
def checkDir (bs : List Byte) : Option Rej :=
  let dir := parseDir bs
  let minor := fieldAt bs 6 2
  let kept := dir.zipIdx.filter fun p => !p.1.skipped minor
  let has := fun t => kept.any fun p => p.1.type == t
  let dup := kept.find? fun p => decide (1 ≤ p.1.type) && decide (p.1.type ≤ 14) && kept.any fun q => q.1.type == p.1.type && decide (q.2 < p.2)
  firstRej [
    hdr (mandatory.all has) 0x08,
    dup.map fun p => ({ code := 0x08, secIdx := p.2 } : Rej),
    (kept.find? fun p => !p.1.supported).map fun p => ({ code := 0x09, secIdx := p.2 } : Rej) ]

/-- Bytes of a section that is present and read. -/
def sectionBytes (bs : List Byte) (t : Nat) : Option (List Byte) :=
  ((parseDir bs).find? fun e => e.type == t && e.supported).map fun e => (bs.drop e.offset).take e.length

/-- A secIdxs own layout and reserved bits (R575). -/
def readRej {α : Type} (im : Image) (t : Nat) (r : Option (Read α)) : Option Rej :=
  match r with
  | none => none
  | some r =>
    if !r.layout then some (im.rej (sectionCode t) t)
    else match r.reserved with
      | some i => some (im.rej (sectionCode t) t i)
      | none => im.need' r.covered (sectionCode t) t

/-- The sections of an image as read. -/
structure Sections where
  plc : Option (Read (Nat × List Placement))
  dsc : Option (Read (List Desc × List Preload))
  rts : Option (Read (List RouteRec))
  edg : Option (Read (List EdgeRec))
  prs : Option (Read (List (Nat × Nat)))
  tmp : Option (Read (List Region))
  esc : Option (Read Nat)
  prf : Option (Read ProfileSec)
  rcp : Option (Read (List Layer))
  upd : Option (Read UpdateSec)
  num : Option (Read NumSec)
  bkt : Option (Read BucketSec)
  syn : Option (Read (List SyncRec))
  tok : Option (Read TokSec)

/-- The sections an image has. A section of a supported version above 1 is read by the layout of version 1, the only one the spec gives (log
entry 121). -/
def readSections (bs : List Byte) : Sections :=
  let s := sectionBytes bs
  let edg := (s 4).map readEdges
  let blk := fun e => match edg with | some r => (r.val.getD e default).blockBytes | none => 0
  { plc := (s 1).map readPlacements, dsc := (s 2).map fun b => readDescs b blk, rts := (s 3).map readRoutes, edg := edg
    prs := (s 5).map readPairs, tmp := (s 6).map readRegions, esc := (s 7).map readEscalation, prf := (s 8).map readProfiles
    rcp := (s 9).map readLayers, upd := (s 10).map readUpdate, num := (s 11).map readNumerics, bkt := (s 12).map readBuckets
    syn := (s 13).map readSyncs, tok := (s 14).map readTok }

/-- The value of a section, or its default (R48). -/
def secVal {α : Type} (d : α) (r : Option (Read α)) : α := match r with | some r => r.val | none => d

/-- What an image says. -/
def buildImage (bs : List Byte) (x : Sections) : Image :=
  { fmtMinor := fieldAt bs 6 2, imageLength := fieldAt bs 0x0C 4, rollbackIndex := fieldAt bs 0x18 1, rollbackValue := fieldAt bs 0x1C 4
    modelId := (bs.drop 0x20).take 16, buildId := fieldAt bs 0x30 8, minFirmware := fieldAt bs 0x38 4
    bodyDigest := (bs.drop 0x40).take 64, keyOffset := fieldAt bs 0x80 4, dir := parseDir bs
    branchCount := (secVal (1, []) x.plc).1, placements := (secVal (1, []) x.plc).2
    descs := (secVal ([], []) x.dsc).1, preloads := (secVal ([], []) x.dsc).2, descBytes := (sectionBytes bs 2).getD []
    routes := secVal [] x.rts, edges := secVal [] x.edg, pairs := secVal [] x.prs, regions := secVal [] x.tmp
    crossed := secVal 0 x.esc == 1, prof := x.prf.map (·.val), layers := secVal [] x.rcp, upd := secVal {} x.upd, num := secVal {} x.num
    bkt := secVal {} x.bkt, syncs := secVal [] x.syn, tok := x.tok.map (·.val) }

/-- PLACEMENTS (R53). -/
def checkPlacements (im : Image) : Option Rej :=
  im.each 0x30 1 0 im.placements fun _ p => p.tiles.all fun e => e.1 == 0xFF || decide (e.1 < im.branchCount)

/-- DESCRIPTORS (R106, R153, R216, R217, R237, R255). -/
def checkDescs (im : Image) : Option Rej :=
  let nd := im.descs.length
  let block := fun e => (im.edges.getD e default).blockBytes
  firstRej [
    im.each 0x3D 2 0 im.descs fun i d => decide (d.placement < im.placements.length) && decide (d.slot ≤ 15) && !im.isPartner d.tile
      && indexOf (fun (x : Desc) => x.placement == d.placement && x.tile == d.tile && x.slot == d.slot) im.descs == some i
      && im.descOk d
      && d.inEdges.all (fun e => match im.edge? e with
        | some x => x.placement == d.placement && x.consTile == d.tile && x.consSlot == d.slot
        | none => false)
      && d.outEdges.all (fun e => match im.edge? e with
        | some x => x.placement == d.placement && x.prodTile == d.tile && x.prodSlot == d.slot
        | none => false),
    im.each 0x3D 4 0 im.edges fun e _ =>
      ((im.descs.flatMap fun d => d.inEdges).filter (· == e)).length == 1 && ((im.descs.flatMap fun d => d.outEdges).filter (· == e)).length == 1,
    im.each 0x3D 2 nd im.preloads fun i p => (match im.edge? p.edge with
        | some x => decide (p.place < x.initTokens)
        | none => false)
      && indexOf (fun (q : Preload) => q.edge == p.edge && q.place == p.place) im.preloads == some i,
    im.each 0x3D 4 0 im.edges fun e x => (im.preloads.filter fun p => p.edge == e).length == x.initTokens,
    im.each 0x3D 2 0 im.descs fun _ d => d.outEdges.zipIdx.all fun p => decide (im.outBytes d p.2 ≤ block p.1),
    im.each 0x3D 2 0 im.descs fun _ d =>
      if d.cls = 6 then d.outEdges.all (fun e => block e == d.mem.bytes)
      else if d.cls = 7 && !im.isAccStore d then block (d.inAt 0) == d.mem.bytes else true,
    im.each 0x3D 2 0 im.descs fun i _ => im.treeOk i ]

/-- ROUTES (R57, R120). -/
def checkRoutes (im : Image) : Option Rej := im.each 0x31 3 0 im.routes fun _ r => r.src != r.dst && decide (r.vc ≤ 5)

/-- Whether a route id joins two tiles (R59). -/
def Image.routeOk (im : Image) (id a b : Nat) : Bool :=
  if a = b then id == none16 else match im.routes[id]? with
    | some r => r.src == a && r.dst == b
    | none => false

/-- Byte span of an edge's buffer (R61). -/
def EdgeRec.span (e : EdgeRec) : Nat × Nat := (e.bufBase, e.bufBase + e.capacity * e.blockBytes)

/-- Two spans share a byte. -/
def meet (a b : Nat × Nat) : Bool := decide (max a.1 b.1 < min a.2 b.2)

/-- EDGES (R59, R61, R106). -/
def checkEdges (im : Image) : Option Rej :=
  firstRej [
    wide ((List.range 8).all fun p => decide ((im.edges.filter fun e => e.placement == p).length ≤ 131072)) 0x32,
    im.each 0x32 4 0 im.edges fun _ e => decide (e.placement < im.placements.length) && decide (e.prodSlot ≤ 15) && decide (e.consSlot ≤ 15)
      && decide (1 ≤ e.capacity) && decide (e.capacity ≤ 64) && e.blockBytes % 64 == 0 && decide (64 ≤ e.blockBytes)
      && decide (e.blockBytes ≤ 2 ^ 20) && e.bufBase % 64 == 0 && decide (e.span.2 ≤ im.sramBytes e.consTile)
      && im.routeOk e.dataRoute e.prodTile e.consTile && im.routeOk e.creditRoute e.consTile e.prodTile
      && !(im.regions.any fun r => r.tier == 0 && r.home == e.consTile && meet e.span (r.offset, r.offset + r.size)),
    im.each 0x32 4 0 im.edges fun i e => !((im.edges.take i).any fun x => x.consTile == e.consTile && meet e.span x.span
      && (x.placement == e.placement || !im.swapped e.consTile e.consSlot || !im.swapped x.consTile x.consSlot)) ]

/-- Row and column of a tile in its die (R16). -/
def tileRow (t : Nat) : Nat := t % 64 / 8
def tileCol (t : Nat) : Nat := t % 8

/-- PAIRINGS (R62, R63). -/
def checkPairs (im : Image) : Option Rej :=
  let ok4 := fun n => [0, 1, 2, 4, 5, 6].contains n
  firstRej [
    im.each 0x33 5 0 im.pairs fun i p => decide (p.1 < p.2) && regionOf p.1 == regionOf p.2
      && ((p.2 == p.1 + 1 && tileRow p.1 == tileRow p.2 && ok4 (tileCol p.1)) || (p.2 == p.1 + 8 && ok4 (tileRow p.1)))
      && !((im.pairs.take i).any fun q => q.1 == p.1 || q.1 == p.2 || q.2 == p.1 || q.2 == p.2),
    im.each 0x33 3 0 im.routes fun _ r => !im.isPartner r.src && !im.isPartner r.dst,
    im.each 0x33 4 0 im.edges fun _ e => !im.isPartner e.prodTile && !im.isPartner e.consTile ]

/-- Bytes a home can hold, 0 for a home that does not exist (R65, R444 to R449). -/
def Image.homeBytes (im : Image) (tier home : Nat) : Nat :=
  match tier with
  | 0 => if home ≤ 255 && !im.isPartner home then im.sramBytes home else 0
  | 1 => if home ≤ 3 then 508 * 2 ^ 20 else 0
  | 2 => hbmSetBytes home
  | 3 => (setMembers home).length * (256 * 2 ^ 30)
  | _ => 0

/-- Byte ranges a region occupies, each with its tile, die, stack or channel (R449). -/
def Region.footprint (r : Region) : List (Nat × (Nat × Nat)) :=
  if r.tier < 2 then [(r.home, (r.offset, r.offset + r.size))]
  else
    let ms := setMembers r.home
    let g := 4096 * ms.length
    ms.map fun m => (m, (r.offset / g * 4096, (r.offset + r.size + g - 1) / g * 4096))

def regionsMeet (a b : Region) : Bool :=
  a.tier == b.tier && a.footprint.any fun x => b.footprint.any fun y => x.1 == y.1 && meet x.2 y.2

/-- Whether master weights or optimizer state of any tensor lie in DDR5 (R65, R274). -/
def Image.slowTensor (im : Image) (t : Tensor) : Bool :=
  ((im.region? t.master).getD default).tier == 3 || ((im.region? t.state).getD default).tier == 3
def Image.hasSlow (im : Image) : Bool := im.upd.tensors.any im.slowTensor

/-- TIER_MAP (R64, R65, R253, R445, R449). -/
def checkTiers (im : Image) : Option Rej :=
  let count := fun k => (im.regions.filter fun r => r.kind == k).length
  firstRej [
    im.each 0x34 6 0 im.regions fun _ r => decide (r.tier ≤ 3) && decide (r.kind ≤ 9)
      && decide (0 < im.homeBytes r.tier r.home) && decide (r.offset + r.size ≤ im.homeBytes r.tier r.home)
      && r.offset % (if r.tier < 2 then 64 else 4096) == 0 && (r.kind != 9 || r.flags % 2 == 1)
      && ((r.kind != 5 && r.kind != 6) || r.size % 65536 == 0),
    im.each 0x34 6 0 im.regions fun i r => !((im.regions.take i).any fun x => regionsMeet r x),
    wide (decide (count 5 ≤ 1) && decide (count 6 ≤ 1) && (count 6 == 0 || count 5 == 1)
      && count 7 == (if im.hasSlow then 1 else 0)) 0x34 ]

/-- Elements and bytes of one position of an output (R421): type 0 video to 4 labels. -/
def Profile.posBytes (p : Profile) (t : Nat) (f32 : Bool) : Nat :=
  let eb := if f32 then 4 else 2
  match t with
  | 0 => p.outC * p.pt * p.ph * p.pw * eb
  | 1 => p.outC * p.ph * p.pw * eb
  | 2 => (if p.aMode = 0 then p.nMels * p.aStack else p.chunk) * eb
  | _ => 4

/-- Bytes of a lane's row slot: payload, mark words, zeros to a multiple of 64 (R430). -/
def slotRowBytes (p e : Nat) : Nat := roundUp (p * e + 4 * p) 64

/-- A lane: region, positions, branch, bytes per position (R421, R430). -/
structure Lane where
  region : Nat
  p : Nat
  branch : Nat
  e : Nat
  deriving DecidableEq, Repr, Inhabited

/-- Lanes a profile names, by output type. -/
def Profile.lanes (p : Profile) : List (Nat × Lane) :=
  (p.out.zipIdx.filter fun o => o.1.region != none32).map fun o =>
    (o.2, { region := o.1.region, p := o.1.p, branch := o.1.branch, e := p.posBytes o.2 o.1.f32 })

/-- The distinct lanes of an image in ascending region id. -/
def Image.lanes (im : Image) : List Lane :=
  match im.prof with
  | some ps => (((ps.profiles.flatMap fun p => p.lanes.map (·.2)).eraseDups).mergeSort fun a b => a.region ≤ b.region)
  | none => []

/-- Ring slots Q of the lanes and the report region (R430). -/
def Image.ringSlots (im : Image) : Nat :=
  match im.prof with
  | some ps => im.regionSize (ps.profiles.headD default).reportRegion / 65536
  | none => 0

/-- Ranges of a profile's fields (R395, R419). -/
def Profile.ranges (p : Profile) : Bool :=
  let rng := fun lo x hi => decide (lo ≤ x) && decide (x ≤ hi)
  rng 64 p.maxRecord (2 ^ 30) && decide (1 ≤ p.nominalUs) && rng 16 p.vMaxW 4096 && rng 16 p.vMaxH 4096 && rng 1 p.vMaxFrames 65536
    && (p.vMaxDepth == 8 || p.vMaxDepth == 10) && rng 1 p.iMaxW 16384 && rng 1 p.iMaxH 16384 && rng 8000 p.aMaxRate 192000
    && rng 1 p.aMaxChannels 8 && rng 1 p.aMaxSamples (2 ^ 31) && rng 1 p.tMaxBytes (2 ^ 24) && rng 1 p.tMaxTokens (2 ^ 24) && decide (1 ≤ p.lMax)
    && rng 1 p.mbRows 4096 && decide (p.readyObj ≤ 16383) && decide (1 ≤ p.readyCount) && decide (p.vMode ≤ 2) && (p.outC == 1 || p.outC == 3)
    && rng 1 p.ph 32 && rng 1 p.pw 32 && rng 1 p.pt 4 && rng 1 p.vStride 16 && rng 1 p.vOutFrames 4096 && p.vOutFrames % p.pt == 0
    && (p.vMode == 2 || (rng p.pw p.tw 4096 && p.tw % p.pw == 0 && rng p.ph p.th 4096 && p.th % p.ph == 0))
    && decide (p.aMode ≤ 1) && rng 1 p.aStack 16 && rng 8000 p.outRate 48000 && rng 64 p.nFft 2048 && 2 ^ Nat.log2 p.nFft == p.nFft
    && rng 16 p.win p.nFft && rng 1 p.hop p.win && rng 1 p.nMels 256 && rng 1 p.chunk 4096

/-- R396: versions, permitted types, codecs, ratios and special tokens. -/
def Profile.intakeOk (p : Profile) (special : Nat) : Bool :=
  let perm := fun t => p.permitted / 2 ^ t % 2 == 1
  (p.v1 || p.v2) && (List.range 6).all (fun t => p.required / 2 ^ t % 2 == 0 || perm t)
    && (!perm 0 || (p.vCodecs != 0 && p.vRatio != 0)) && (!perm 1 || (p.iCodecs != 0 && p.iRatio != 0))
    && (!perm 2 || (p.aCodecs != 0 && (decide (p.aCodecs < 4) || p.aRatio != 0)))
    && (p.tBos == none16 || decide (p.tBos < special)) && (p.tEos == none16 || decide (p.tEos < special))

/-- INPUT_PROFILES (R68, R394 to R396, R419 to R421, R430). The common fields are those of record 0, since the others equal it (R576). -/
def checkProfiles (im : Image) : Option Rej :=
  match im.prof with
  | none => none
  | some ps =>
    let p0 := ps.profiles.headD default
    let special := match im.tok with | some t => t.specialCount | none => 0
    let st := im.region? ps.stagingRegion
    let rep := im.region? p0.reportRegion
    let q := im.ringSlots
    firstRej [
      im.need' (match st with | some r => r.kind == 0 && (r.tier == 2 || r.tier == 3) && r.size % 65536 == 0 | none => false) 0x36 8,
      im.each 0x36 8 0 ps.profiles fun i p => p.ranges && p.intakeOk special
        && p.mbRows == p0.mbRows && p.readyObj == p0.readyObj && p.readyCount == p0.readyCount && p.reportRegion == p0.reportRegion
        && p.out.all (fun o => decide (o.branch < im.branchCount))
        && p.lanes.all (fun l => (match im.region? l.2.region with | some r => r.kind == 8 | none => false)
          && (ps.profiles.take (i + 1)).all fun o => o.lanes.all fun m => m.2.region != l.2.region || m.2 == l.2),
      wide (decide ((im.lanes.map (·.region)).eraseDups.length ≤ 8)) 0x36,
      im.need' ((match rep with | some r => r.kind == 0 && r.tier == 2 && r.flags / 2 % 2 == 1 && r.size == q * 65536 | none => false)
        && decide (2 * p0.mbRows ≤ q) && q % p0.mbRows == 0) 0x36 8 0,
      im.each 0x36 8 0 ps.profiles fun _ p => p.lanes.all fun l => im.regionSize l.2.region == q * slotRowBytes l.2.p l.2.e ]

/-- Producers of a stash store's block (R255). -/
def Image.storeProducer (im : Image) (i : Nat) : Option Desc := (im.producer? ((im.descAt i).inAt 0)).map im.descAt

/-- RECOMPUTE and the stash (R69, R70, R254, R255, R261). -/
def checkStash (im : Image) : Option Rej :=
  let layersOf := fun p => im.stashLayers p
  let allLayers := ((List.range im.placements.length).flatMap layersOf).eraseDups
  let amount := fun (l : List Nat) (f : Desc → Nat) => (l.map fun i => f (im.descAt i)).foldl (· + ·) 0
  let fmtOf := fun l => match im.layer? l with | some r => r.stashFormat + 4 | none => 4
  firstRej [
    -- R69, R255: each layer and its boundary are stash layers of one placement
    im.each 0x37 9 0 im.layers fun _ r => decide (r.stashFormat ≤ 3) && (im.layerPlacement? r.layer).isSome
      && im.layerPlacement? r.layer == im.layerPlacement? r.boundary,
    -- R70
    im.each 0x37 9 0 im.layers fun _ r =>
      let ls := match im.layerPlacement? r.layer with | some p => layersOf p | none => []
      !r.eligible || (decide (r.boundary < r.layer) && !im.eligible r.boundary
        && ls.all (fun l => !(decide (r.boundary < l) && decide (l < r.layer)) || im.eligible l)
        && r.span == (ls.filter fun l => decide (r.boundary ≤ l) && decide (l ≤ r.layer)).length && decide (r.span ≤ 8)),
    -- R255: stash stores; no other descriptor signals a stash object
    im.each 0x37 2 0 im.descs fun i d => !im.isStashStore i || (!d.backward && d.sigObj != none16),
    im.each 0x37 2 0 im.descs fun i d => im.isStashStore i || im.isRestore i || !allLayers.contains d.sigObj,
    -- R254: one placement per stash object
    im.each 0x37 2 0 im.descs fun i d => !(im.isStashStore i || im.isRestore i || im.isStashLoad i)
      || (im.indices.all fun j => !((im.isStashStore j && (im.descAt j).sigObj == (if d.cls = 7 then d.sigObj else d.waitObj))
          && (im.descAt j).placement != d.placement)),
    -- R255: no logical page is written by two layers of a placement
    im.each 0x37 2 0 im.descs fun i d => !im.isStashStore i || (layersOf d.placement).all fun l => l == d.sigObj
      || !((im.pagesOf d).any fun g => (im.layerPages l).contains g),
    -- R255: stash loads
    im.each 0x37 2 0 im.descs fun i d => !im.isStashLoad i || (d.backward && (layersOf d.placement).contains d.waitObj
      && (im.pagesOf d).all fun g => (im.layerPages d.waitObj).contains g),
    wide (allLayers.all fun l => amount (im.layerLoads l) (fun d => d.waitCount * d.firesPerMb) == amount (im.layerStores l) Desc.sigPer) 0x37,
    -- R255: format of the stored blocks, and their source
    im.each 0x37 2 0 im.descs fun i d => !im.isStashStore i || (match im.storeProducer i with
      | some s => s.fmtOut == fmtOf d.sigObj && !s.escapes
          && !(s.cls == 6 && ((im.region? s.mem.region).getD default).flags % 2 == 1)
      | none => false),
    -- R254: ids ascend along the forward pass
    im.each 0x37 2 0 im.descs fun i d => !im.isStashStore i || (match im.producer? (d.inAt 0) with
      | some s => (im.descendants s).all fun j => (im.indices.all fun k => !(im.isStashStore k && im.producer? ((im.descAt k).inAt 0) == some j)
          || decide (d.sigObj ≤ (im.descAt k).sigObj))
      | none => true),
    -- R261: chains
    im.each 0x37 9 0 im.layers fun _ r => !r.eligible || (im.restores r.layer).length == 1,
    im.each 0x37 2 0 im.descs fun i d => !im.isRestore i || (im.eligible d.sigObj && (im.restores d.sigObj).contains i),
    im.each 0x37 2 0 im.descs fun i d => match im.chainLayer? i with
      | none => true
      | some l => !d.backward && !im.swapped d.tile d.slot
          && (im.succs i).all (fun j => (im.chain l).contains j)
          && (!d.inEdges.isEmpty || (d.waitObj != none16
            && (im.descs.filter fun x => x.waitObj == d.waitObj).length == 1
            && !(im.descs.any fun x => x.sigObj == d.waitObj) && !(im.syncs.any fun x => x.object == d.waitObj)
            && (!(d.cls == 6 && im.namesStash d)
              || (im.pagesOf d).all fun g => (im.layerPages ((im.layer? l).getD default).boundary).contains g))),
    im.each 0x37 9 0 im.layers fun _ r => !r.eligible
      || (((im.chainSources r.layer).filter fun i => (im.descAt i).cls == 6 && im.namesStash (im.descAt i)).length == 1
        && amount (im.restores r.layer) Desc.sigPer == amount (im.layerStores r.layer) Desc.sigPer),
    -- R255: what cannot be dropped fits
    wide ((List.range im.placements.length).all fun p =>
      decide (im.need p - ((im.eligibleOf p).map im.layerPageCount).foldl (· + ·) 0 ≤ im.framePages + im.overflowPages)) 0x37 ]

/-- A finite F32 value in a range: at least 0, above 0, below 1. -/
def f32NonNeg (x : F32) : Bool := f32IsFinite x && !f32Lt x 0#32
def f32Pos (x : F32) : Bool := f32IsFinite x && f32Lt 0#32 x
def f32Unit (x : F32) : Bool := f32NonNeg x && f32Lt x 0x3F800000#32
def f32Zero (x : F32) : Bool := (f32Val x).isZero

/-- State arrays of a rule (R281). -/
def ruleArrays (rule : Nat) : Nat := if rule = 1 then 2 else 1

/-- A layout of R281: region, offset, bytes. -/
def Image.layouts (im : Image) (t : Tensor) : List (Nat × (Nat × Nat)) :=
  let n := 4 * t.rows * t.cols
  let rule := (im.upd.groups.getD t.group default).rule
  [(t.master, (0, n)), (t.state, (t.stateOff, t.stateOff + ruleArrays rule * n)), (t.copy, (t.copyOff, t.copyOff + 2 * t.slotBytes))]
    ++ (if t.grad = none32 then [] else [(t.grad, (t.gradOff, t.gradOff + n / 2))])

/-- UPDATE (R71, R240, R273, R274, R277 to R280, R283, R285). -/
def checkUpdate (im : Image) : Option Rej :=
  let u := im.upd
  let ng := u.groups.length
  let nt := u.tensors.length
  let reg := fun i => (im.region? i).getD default
  let has := fun i => (im.region? i).isSome
  let slow := im.hasSlow
  let slowBlocks := ((u.tensors.filter im.slowTensor).map Tensor.blocks).foldl (· + ·) 0
  let np := im.placements.length
  firstRej [
    im.need' (decide (u.k ≤ 3) && decide (1 ≤ u.mbCount) && decide (u.mbCount ≤ 4096) && decide (-64 ≤ u.lossExp) && decide (u.lossExp ≤ 63)
      && decide (u.retireObj ≤ 16383) && f32Pos u.clipMax && decide (1 ≤ u.retirePerMb) && decide (u.mbCount * u.retirePerMb ≤ 65535)
      && im.syncs.any (fun r => r.object == u.retireObj && r.threshold == u.mbCount * u.retirePerMb)
      && (if u.backlogObj = none16 then !slow || u.k == 0
          else slow && u.k != 0 && decide (u.backlogObj ≤ 16383) && !(im.syncs.any fun r => r.object == u.backlogObj)
            && !(im.descs.any fun d => d.waitObj == u.backlogObj || d.sigObj == u.backlogObj))) 0x38 10,
    im.need' (if u.parkRegion = none32 then !im.parkRequired
      else has u.parkRegion && (reg u.parkRegion).kind == 0 && (reg u.parkRegion).tier == 2
        && (!im.parkRequired || decide (((List.range np).map im.gb).foldl max 0 * 65536 ≤ (reg u.parkRegion).size))) 0x38 10,
    im.each 0x38 10 0 u.groups fun _ g => decide (g.rule ≤ 2) && f32NonNeg g.lr && f32Unit g.beta1
      && (if g.rule = 0 then f32Zero g.beta2 else f32Unit g.beta2) && (if g.rule = 1 then f32Pos g.eps else f32Zero g.eps) && f32NonNeg g.decay,
    im.each 0x38 10 ng u.tensors fun i t => decide (1 ≤ t.rows) && decide (t.rows ≤ 2 ^ 24) && decide (1 ≤ t.cols) && decide (t.cols ≤ 2 ^ 24)
      && has t.master && (reg t.master).kind == 1 && decide (2 ≤ (reg t.master).tier) && (reg t.master).size == 4 * t.rows * t.cols
      && has t.state && (reg t.state).kind == 2 && (reg t.state).tier == (reg t.master).tier
      && has t.copy && (reg t.copy).kind == 3 && (reg t.copy).tier == 2
      && (t.grad == none32 || (has t.grad && (reg t.grad).kind == 4 && (reg t.grad).tier == 2))
      && t.stateOff % 64 == 0 && t.copyOff % 64 == 0 && t.gradOff % 64 == 0
      && [2, 4, 5].contains t.copyFmt && decide (t.group < ng)
      && !((u.tensors.take i).any fun x => x.master == t.master)
      && (im.layouts t).all fun l => decide (l.2.2 ≤ (reg l.1).size),
    im.each 0x38 10 ng u.tensors fun i t => !((u.tensors.take i).any fun x => (im.layouts t).any fun a => (im.layouts x).any fun b =>
      a.1 == b.1 && meet a.2 b.2),
    wide (slowBlocks == 0 || (im.kindRegion? 7).isSome) 0x38,
    im.each 0x38 6 0 im.regions fun _ r => r.kind != 7 || (r.tier == 2 && decide (slowBlocks * 65536 ≤ r.size)),
    im.each 0x38 10 (ng + nt) u.freezes fun i f => (match u.tensors.find? fun t => t.master == f.region with
        | some t => f.kind == 1 || (f.kind == 2 && decide (f.a < f.b) && decide (f.b ≤ t.rows))
            || (f.kind == 3 && decide (f.a < f.b) && decide (f.b ≤ t.cols)) || (f.kind == 4 && decide (1 ≤ f.b) && decide (f.b ≤ t.rows))
        | none => false)
      && !((u.freezes.take i).any fun x => x.region == f.region),
    -- R283
    im.each 0x38 2 0 im.descs fun i d => !im.isAccStore d || ((im.edges.getD (d.inAt 0) default).blockBytes == d.mem.rows * d.mem.rowUnits * 128
      && match im.storeProducer i with
        | some s => s.fmtOut == 0 && (im.site? s 0).isNone
        | none => false),
    wide ((List.range np).all fun p => (List.range im.accPeriod).all fun c => u.tensors.all (im.gradCovered p c)) 0x38 ]

/-- NUMERICS (R168 to R171). -/
def checkNumerics (im : Image) : Option Rej :=
  let n := im.num
  let sc := n.sites.length
  firstRej [
    im.need' (decide (n.defaultH ≤ 7) && decide (8 ≤ n.defaultSat) && decide (n.defaultSat ≤ 24) && decide (n.spoonR ≤ 16)
      && (n.reportRegion == none32 || match im.region? n.reportRegion with
        | some r => r.kind == 0 && r.tier == 2 && r.flags / 2 % 2 == 1 && decide (2 * (sc + 1) * 256 ≤ r.size)
        | none => false)) 0x39 11,
    im.each 0x39 11 0 n.sites fun _ s => blockFmt s.format && (decide (s.h ≤ 7) || s.h == 0xFF)
      && ((decide (8 ≤ s.satShift) && decide (s.satShift ≤ 24)) || s.satShift == 0xFF)
      && (s.refRegion == none32 || (im.region? s.refRegion).isSome),
    im.each 0x39 11 sc n.bindings fun i b => (match im.desc? b.placement b.tile b.slot, n.sites[b.site]? with
        | some d, some s => decide (b.port ≤ 1) && (b.port == 0 || d.hadamard) && s.format == (if b.port = 0 then d.fmtOut else d.fmtIn)
        | _, _ => false)
      && !((n.bindings.take i).any fun x => x.placement == b.placement && x.tile == b.tile && x.slot == b.slot && x.port == b.port) ]

/-- BUCKETS (R334, R335). -/
def checkBuckets (im : Image) : Option Rej :=
  let k := im.bkt
  let total := im.blockCount
  let region := fun i => match im.region? i with
    | some r => r.kind == 0 && r.tier == 2 && r.size % 65536 == 0
    | none => false
  let graded := fun g => match im.locate g with | some (t, _) => (im.tensor t).grad != none32 | none => false
  firstRej [
    im.need' (decide (1000 ≤ k.returnGrace) && decide (k.returnGrace ≤ 1000000000) && k.buckets.all (fun b => decide (k.podLead < b.deadlineOff))
      && region k.slotRegion && region k.stageRegion
      && decide ((im.upd.tensors.map Tensor.slotBytes).foldl (· + ·) 0 ≤ im.regionSize k.stageRegion)) 0x3A 12,
    im.each 0x3A 12 0 k.buckets fun i b => decide (1 ≤ b.blockCount) && decide (b.blockCount ≤ 8192) && decide (-64 ≤ b.g) && decide (b.g ≤ 63)
      && decide (b.firstBlock + b.blockCount ≤ total)
      && !((k.buckets.take i).any fun x => meet (b.firstBlock, b.firstBlock + b.blockCount) (x.firstBlock, x.firstBlock + x.blockCount))
      && (List.range b.blockCount).all (fun j => graded (b.firstBlock + j))
      && decide (2 * ((List.range b.blockCount).map fun j => im.blockElems (b.firstBlock + j)).foldl (· + ·) 0 ≤ 2 ^ 28),
    wide ((List.range total).all fun g => !graded g || (im.bucketOf g).isSome) 0x3A ]

/-- SYNC_INIT (R72). -/
def checkSyncs (im : Image) : Option Rej :=
  im.each 0x3B 13 0 im.syncs fun i r => decide (r.object ≤ 16383) && !((im.syncs.take i).any fun x => x.object == r.object)

/-- TOKENISER_TABLE (R411). -/
def checkTok (im : Image) : Option Rej :=
  match im.tok with
  | none => none
  | some t => firstRej [
      im.need' (decide (t.specialCount ≤ 1024) && decide (t.splitMode ≤ 1)) 0x3C 14,
      im.each 0x3C 14 0 t.merges fun r m => decide (m.1 < 256 + r) && decide (m.2 < 256 + r) && !((t.merges.take r).contains m) ]

/-- D1 to D7 of one placement (R73). -/
def checkDeadlock (im : Image) (p : Nat) : Option Rej :=
  let pe := im.edges.zipIdx.filter fun x => x.1.placement == p
  let pd := im.descs.zipIdx.filter fun x => x.1.placement == p
  let first := fun {α : Type} (l : List (α × Nat)) (bad : α → Nat → Bool) => (l.find? fun x => bad x.1 x.2).map (·.2)
  let at'' := fun (code t : Nat) (r : Option Nat) => r.map fun i => im.rej code t i
  firstRej [
    at'' 0x21 3 (first im.routes.zipIdx fun r _ => im.routes.any fun x => x.vc == r.vc && x.yFirst != r.yFirst),
    at'' 0x22 4 (first pe fun e _ => e.capacity == 0 || (e.prodTile != e.consTile && e.initCredits == 0 && e.initTokens == 0)),
    at'' 0x23 4 (first pe fun e _ => e.initTokens + e.initCredits != e.capacity),
    at'' 0x24 2 (first pd fun d _ => !im.marks p d.tile d.slot),
    at'' 0x25 2 (first pd fun _ i => im.onZeroCycle p i),
    at'' 0x26 13 (first im.syncs.zipIdx fun r _ => r.threshold != 0
      && pd.any (fun x => x.1.waitObj == r.object || x.1.sigObj == r.object) && decide (im.declared p r.object < r.threshold)),
    at'' 0x27 2 (first pd fun d _ => d.waitObj != none16 && im.descs.any fun x => x.sigObj == d.waitObj && x.placement != p) ]

/-- Resources (R348, R448). -/
def checkResources (im : Image) (env : CheckEnv) : Option Rej :=
  firstRej [
    im.each 0x40 6 0 im.regions fun _ r => r.tier != 3 || (ddrPopulated env.ddr r.home && decide (r.offset + r.size ≤ ddrSetBytes env.ddr r.home)),
    im.need' (decide (env.slotNeed im * 65536 ≤ im.regionSize im.bkt.slotRegion)) 0x41 12 ]

/-- Validation in the order of R75: what the image says, and the first failure. -/
def validate (bs : List Byte) (available : Nat) (env : CheckEnv) : Image × Option Rej :=
  let x := readSections bs
  let im := buildImage bs x
  (im, match firstRej [checkHeader bs available, checkAuth bs env, checkDir bs] with
    | some r => some r
    | none => firstRej (([
        readRej im 1 x.plc, checkPlacements im,
        readRej im 2 x.dsc, checkDescs im,
        readRej im 3 x.rts, checkRoutes im,
        readRej im 4 x.edg, checkEdges im,
        readRej im 5 x.prs, checkPairs im,
        readRej im 6 x.tmp, checkTiers im,
        readRej im 7 x.esc, im.need' (decide (secVal 0 x.esc ≤ 1)) 0x35 7,
        readRej im 8 x.prf, checkProfiles im,
        readRej im 9 x.rcp, checkStash im,
        readRej im 10 x.upd, checkUpdate im,
        readRej im 11 x.num, checkNumerics im,
        readRej im 12 x.bkt, checkBuckets im,
        readRej im 13 x.syn, checkSyncs im,
        readRej im 14 x.tok, checkTok im ] : List (Thunk (Option Rej)))
      ++ ((List.range im.placements.length).map fun p => Thunk.mk fun _ => checkDeadlock im p)
      ++ ([checkResources im env] : List (Thunk (Option Rej)))))

/-- Whether a rejection is a signature failure (R77). -/
def Rej.isSig (r : Rej) : Bool := r.code == 0x10 || r.code == 0x11 || r.code == 0x12
/-- Whether a load passed authenticity (R77): it was accepted or failed later. -/
def passedAuth (r : Option Rej) : Bool := match r with | some r => decide (0x13 ≤ r.code) || r.code == 0x08 || r.code == 0x09 | none => true

end Sys2Proof.Machine
end

