-- ==== Sys2Proof/Machine/Array.lean ====
section
/-! DEFINITION. The cell array: weight registers and their loads, column sums, block stages, the checksum column and its comparisons (R86 to R91, R182 to R187, R199 to R207). -/

namespace Sys2Proof.Machine

/-- Rows turned into columns. -/
def transposeRows {α : Type} [Inhabited α] (n : Nat) (rows : List (List α)) : List (List α) :=
  (List.range n).map fun c => rows.map fun r => r.getD c default

/-- The pieces of 32 of a list. -/
def piece {α : Type} (b : Nat) (l : List α) : List α := (l.drop (32 * b)).take 32

/-! Weight registers -/

/-- One of the two weight registers of every cell of an array, with the sums its load sealed (R85, R86, R90, R184, R199). A register whose
element carries an escape holds its F8E4 code with bit 8 set (R93; log entry 108). -/
structure Bank where
  fmt : Fmt := .f32
  /-- the register of cell (k, n), by row k; empty before the first load, every register then 0 -/
  cells : List (List (BitVec 16)) := []
  /-- the scale byte of sub-block (i, j), by i -/
  scales : List (List Nat) := []
  /-- the least of them, the unit in which the seal weighs every line -/
  least : Nat := 255
  /-- row sums and column sums, by k -/
  rho : List Fl := []
  kappa : List Fl := []
  deriving DecidableEq, Repr, Inhabited

/-- The element value of a register. -/
def cellVal (f : Fmt) (c : BitVec 16) : Fl :=
  if (f = .f4 || f = .w2) && c.getLsbD 8 then Fmt.f8e4.decode (c.toNat % 256) else f.decode (c.toNat % 2 ^ f.bits)

/-- The registers a block of 32 codes loads: an escaped position takes its entry's F8E4 code; the lower half governs (R93, R146). -/
def blockRegs (codes : List Nat) (entry : Nat) : List (BitVec 16) :=
  let put := fun (l : List (BitVec 16)) (h : Nat) => if h / 32768 = 1 then l.set (h / 256 % 32) (BitVec.ofNat 16 (256 + h % 256)) else l
  put (put (codes.map (BitVec.ofNat 16)) (entry / 65536)) (entry % 65536)

/-- A 128 × 128 stationary panel as register contents by source row (R87, R213). -/
def panelRegs (f : Fmt) (esc : Bool) (bs : List Byte) : List (List (BitVec 16)) :=
  chunks 128 (if f.blockScaled then (panelBlocks f esc 128 128 bs).flatMap fun p => blockRegs p.1.1 p.1.2
    else (unpackCodes f 16384 bs).map (BitVec.ofNat 16))

/-- The sum a seal writes for one line of elements, each with its scale byte, `least` being the least byte of the whole block (R199). -/
def sealSum (f : Fmt) (least : Nat) (xs : List Fl) (scales : List Nat) : Fl :=
  if f.blockScaled then
    Fl.sum (xs.zip scales |>.map fun p => p.1.scale2 ((p.2 : Int) - least))
  else if f = .i8 || f = .i4 then Fl.ofInt ((xs.map Fl.toInt).foldl (· + ·) 0 % 2 ^ 32)
  else f32Val (runSum (xs.map fun x => f32Of x))

/-- The bank a stationary load leaves: plain, or transposing for ARRAY_WGRAD; positions at or beyond k_valid load as +0 (R87, R90, R213 to R215).
`base` is the contraction position of the array's first row or column. -/
def Bank.load (f : Fmt) (esc : Bool) (cls kv base : Nat) (bs : List Byte) : Bank :=
  let src := panelRegs f esc bs
  let rows := if cls = 3 then transposeRows 128 src else src
  let sOff := (16384 * f.bits + 7) / 8
  let byte := fun (i j : Nat) => (bs.getD (sOff + 4 * i + j) 0#8).toNat
  let cells := rows.zipIdx.map fun (row, k) => row.zipIdx.map fun (c, n) => if kv ≤ base + (if cls = 2 then n else k) then 0#16 else c
  let scales := if f.blockScaled then (List.range 4).map fun i => (List.range 4).map fun j => if cls = 3 then byte (32 * j) i else byte (32 * i) j else []
  let spread := fun (l : List Nat) => l.flatMap fun e => List.replicate 32 e
  let vals := cells.map fun r => r.map (cellVal f)
  -- sub-blocks wholly at or beyond k_valid have no part in it (R215)
  let least := (scales.zipIdx.flatMap fun (l, i) => (l.zipIdx.filter fun e => decide (base + 32 * (if cls = 2 then e.2 else i) < kv)).map (·.1)).foldl
    min 255
  { fmt := f, cells := cells, scales := scales, least := least
    rho := vals.zipIdx.map fun (r, k) => sealSum f least r (spread (scales.getD (k / 32) []))
    kappa := (transposeRows 128 vals).zipIdx.map fun (r, k) => sealSum f least r (spread (scales.map fun s => s.getD (k / 32) 0)) }

/-- A bit of a register flips after the seal (R204). -/
def Bank.flip (b : Bank) (k n bit : Nat) : Bank :=
  { b with cells := b.cells.modify k fun r => r.modify n fun c => c ^^^ BitVec.ofNat 16 (2 ^ bit) }

/-- Element values along the contraction, by line; a line is a column in row mode and a row in column mode (R88, R89). -/
def Bank.lines (b : Bank) (col : Bool) : List (List Fl) :=
  (if col then b.cells else transposeRows 128 b.cells).map fun l => l.map (cellVal b.fmt)

/-- Scale bytes of line o by contraction block (R184). -/
def Bank.lineScales (b : Bank) (col : Bool) (o : Nat) : List Nat :=
  if col then b.scales.getD (o / 32) [] else b.scales.map fun r => r.getD (o / 32) 0

/-- The sums the checksum cells use: ρ in row mode, κ in column mode (R90). -/
def Bank.sums (b : Bank) (col : Bool) : List Fl := if col then b.kappa else b.rho

/-! Columns -/

/-- The value of one block stage (R185, R215). -/
def blockValue (sum : Fl) (ex ew : Nat) (had valid : Bool) : F32 :=
  if !valid then 0 else
  if ex = 255 || ew = 255 then f32Nan else
  let v := f32Of (sum.scale2 ((ex : Int) - 127 + ((ew : Int) - 127)))
  if had then f32Mul v 0x3D000000#32 else v

/-- Exact sum of 32 products (R183). -/
def blockSum (xs ws : List Fl) : Fl := Fl.sum (List.zipWith Fl.mul xs ws)

/-- The block sums of a line as they enter the stages; `ov` is what a fault makes of one (R183). -/
def lineSums (xs ws : List Fl) (ov : Nat → Option W32) : List Fl :=
  (List.range (xs.length / 32)).map fun b => match ov b with | some v => f32Val v | none => blockSum (piece b xs) (piece b ws)

/-- The block values of a column on a block-scaled path, from its block sums (R185): scale bytes by block. -/
def columnValues (kv : Nat) (had : Bool) (sums : List Fl) (ex ew : List Nat) : List F32 :=
  sums.zipIdx.map fun (s, b) => blockValue s (ex.getD b 0) (ew.getD b 0) had (decide (32 * b < kv))

/-- The column sum as block stage b leaves it (R185); the last stage leaves the column's sum. -/
def stageSum (vals : List F32) (b : Nat) : F32 := runSum (vals.take (b + 1))

/-- The running value of a 16-bit column after n products (R186). -/
def run16 (a : Option F32) (l : List (F32 × F32)) : Option F32 :=
  l.foldl (fun a p => some (match a with | none => f32Mul p.1 p.2 | some r => f32Fma p.1 p.2 r)) a

/-- One column sum on a 16-bit path (R186). -/
def column16 (xs ws : List F32) (ov : Nat → Option W32) : F32 :=
  ((List.range (xs.length / 32)).foldl (fun a b =>
    match ov b with | some v => some v | none => run16 a ((piece b xs).zip (piece b ws))) none).getD 0

/-- One column sum on an integer path, modulo 2^32 (R187). -/
def columnInt (xs ws : List Int) (ov : Nat → Option W32) : W32 :=
  (List.range (xs.length / 32)).foldl (fun a b =>
    match ov b with | some v => v | none => a + BitVec.ofInt 32 ((List.zipWith (· * ·) (piece b xs) (piece b ws)).foldl (· + ·) 0)) 0

/-- A magnitude sum: |x·w| added in F32, rounded towards +∞ (R202). -/
def magnitude (xs ws : List F32) : F32 :=
  (xs.zip ws).foldl (fun a p => f32Up ((f32Val a).add ((f32Val p.1).mul (f32Val p.2)).abs)) 0

/-! Checks -/

/-- What one row of a product gives: its outputs, the sum of the checksum column by stage, that column's magnitude sum, and the stage whose
check fails, if one does. -/
structure RowOut where
  y : List F32
  check : List Fl := []
  mag : F32 := 0
  fail : Option Nat := none
  deriving DecidableEq, Repr, Inhabited

/-- The arrays whose lines are summed and checked as one: one array, or both of a chained pair, in contraction order (R128, R207). -/
structure Column where
  /-- values and scale bytes of each line along the contraction -/
  lines : List (List Fl × List Nat)
  sums : List Fl
  /-- by block stage, the scale byte in whose unit the sums were sealed (R199) -/
  units : List Nat := []
  deriving Inhabited

/-- The column that banks form, in contraction order (R128). -/
def Column.of (col : Bool) (banks : List Bank) : Column :=
  let ls := banks.map fun b => b.lines col
  { lines := (List.range 128).map fun o => (ls.flatMap fun l => l.getD o [], banks.flatMap fun b => b.lineScales col o)
    sums := banks.flatMap fun b => b.sums col
    units := banks.flatMap fun b => List.replicate 4 b.least }

/-- The faults of a row in the terms of one column of arrays. -/
structure RowFaults where
  sum : Nat → Nat → Option W32 := fun _ _ => none
  stage : Nat → Nat → Option W32 := fun _ _ => none
  added : Nat → Nat → Option W32 := fun _ _ => none
  magnitude : Nat → Option W32 := fun _ => none
  check : Nat → Option W32 := fun _ => none
  convert : Bool := false

/-- The faults of row r in column u of a firing; a chained pair's arrays form one column of eight stages (R207). -/
def RowFaults.of (fs : List ArrayFault) (chain : Bool) (u r : Nat) : RowFaults :=
  let here := fun (p : Bool) (row : Nat) => row == r && (chain || (if p then 1 else 0) == u)
  let st := fun (p : Bool) (k : BitVec 2) => k.toNat + (if chain && p then 4 else 0)
  { sum := fun o b => fs.findSome? fun f => match f with
      | .sum p row l k v => if here p row && l.toNat == o && st p k == b then some v else none | _ => none
    stage := fun o b => fs.findSome? fun f => match f with
      | .stage p row l k false v => if here p row && l.toNat == o && st p k == b then some v else none | _ => none
    added := fun o b => fs.findSome? fun f => match f with
      | .stage p row l k true v => if here p row && l.toNat == o && st p k == b then some v else none | _ => none
    magnitude := fun o => fs.findSome? fun f => match f with
      | .magnitude p row l v => if here p row && l.toNat == o then some v else none | _ => none
    check := fun b => fs.findSome? fun f => match f with
      | .check p row k v => if here p row && st p k == b then some v else none | _ => none
    convert := fs.any fun f => match f with | .convert p row => here p row | _ => false }

/-- The registers that flip in the array of the lead or of the partner. -/
def flipAll (fs : List ArrayFault) (partner : Bool) (b : Bank) : Bank :=
  fs.foldl (fun b f => match f with
    | .cell p k n i => if p == partner then b.flip k.toNat n.toNat i.toNat else b
    | _ => b) b

/-- Whether two exact values are equal; two that are not finite are not compared (log entry 109). -/
def sameSum (a b : Fl) : Bool := !a.isFinite || !b.isFinite || (a.add b.neg).isZero

/-- One row on a block-scaled path: exact check of each stage, and the compare of the duplicated stages (R200, R201, R205). -/
def Column.rowBlock (c : Column) (kv : Nat) (had : Bool) (xs : List Fl) (ex : List Nat) (f : RowFaults) : RowOut :=
  let sums := c.lines.zipIdx.map fun (l, o) => lineSums xs l.1 (f.sum o)
  let vals := sums.zip c.lines |>.map fun p => columnValues kv had p.1 ex p.2.2
  let check := lineSums xs c.sums f.check
  let bad := fun (b : Nat) =>
    let ew := c.lines.map fun l => l.2.getD b 0
    let skip := decide (32 * b < kv) && (ex.getD b 0 == 255 || ew.contains 255)
    let lhs := Fl.sum (sums.zip ew |>.map fun p => (p.1.getD b (.fin false 0 0)).scale2 ((p.2 : Int) - c.units.getD b 255))
    let same := fun (r : Option W32) (v : F32) => match r with | some w => w == v | none => true
    let twice := vals.zipIdx.all fun (v, o) => same (f.stage o b) (v.getD b 0) && same (f.added o b) (stageSum v b)
    !twice || !(skip || sameSum lhs (check.getD b (.fin false 0 0)))
  { y := vals.map runSum
    check := check
    fail := (List.range (xs.length / 32)).find? bad }

/-- The last stage of a column, where its whole sum is compared. -/
def lastStage (xs : List Fl) : Nat := xs.length / 32 - 1

/-- One row on an integer path (R187, R200). -/
def Column.rowInt (c : Column) (xs : List Fl) (f : RowFaults) : RowOut :=
  let x := xs.map Fl.toInt
  let y := c.lines.zipIdx.map fun (l, o) => columnInt x (l.1.map Fl.toInt) (f.sum o)
  let k := columnInt x (c.sums.map Fl.toInt) f.check
  { y := y, check := [Fl.ofInt k.toNat]
    fail := if y.foldl (· + ·) 0 = k then none else some (lastStage xs) }

/-- The tolerance test of R202: |S − c| ≤ τ·ΣA + 2^-140, τ = 2^-t. -/
def withinTolerance (t : Nat) (s c a : Fl) : Bool :=
  !s.isFinite || !c.isFinite || !a.isFinite || !((a.scale2 (-(t : Int))).add (.fin false 1 (-140))).lt (s.add c.neg).abs

/-- One row on a 16-bit path (R186, R202). -/
def Column.row16 (c : Column) (tau : Nat) (xs : List Fl) (f : RowFaults) : RowOut :=
  let x := xs.map fun v => f32Of v
  let ls := c.lines.map fun l => l.1.map fun v => f32Of v
  let sums := c.sums.map fun v => f32Of v
  let y := ls.zipIdx.map fun (l, o) => column16 x l (f.sum o)
  let mags := ls.zipIdx.map fun (l, o) => (f.magnitude o).getD (magnitude x l)
  let k := column16 x sums f.check
  { y := y, check := [f32Val k], mag := magnitude x sums
    fail := if withinTolerance tau (Fl.sum (y.map f32Val)) (f32Val k) (Fl.sum (mags.map f32Val)) then none else some (lastStage xs) }

end Sys2Proof.Machine
end

