-- ==== Sys2Proof/Machine/Functions.lean ====
section
/-! DEFINITION. EXP2, LOG2, TANH, SIN and COS of R220: evaluated in fixed point at `funBits` fraction bits, far beyond the
result's 24, then rounded once. PRESUMED: no F32 argument lies so close to a rounding boundary that these bits do not
decide it (log entry 11). -/

namespace Sys2Proof.Machine

/-- Fraction bits of the fixed-point evaluation. -/
def funBits : Nat := 700

/-- A fixed-point product. -/
def fxMul (a b : Int) : Int := (a * b) >>> funBits

/-- 2 · atanh(z) = 2 (z + z³/3 + z⁵/5 + …), `n` terms. -/
def atanh2Go : Nat → Nat → Int → Int → Int → Int
  | 0, _, _, _, acc => 2 * acc
  | n + 1, k, p, z2, acc => atanh2Go n (k + 2) (fxMul p z2) z2 (acc + p / (k : Int))

def atanh2 (z : Int) : Int := atanh2Go 240 1 z (fxMul z z) 0

def fxOne : Int := ((2 ^ funBits : Nat) : Int)
/-- ln 2 = 2 atanh(1/3). -/
def fxLn2 : Int := atanh2 (fxOne / 3)

/-- Σ xᵏ/k! by terms. -/
def expGo : Nat → Nat → Int → Int → Int → Int
  | 0, _, _, _, acc => acc
  | n + 1, k, t, x, acc => expGo n (k + 1) (fxMul t x / (k : Int)) x (acc + t)

/-- e^x for 0 ≤ x < 1 in fixed point. -/
def fxExp (x : Int) : Int := expGo 160 1 fxOne x 0

/-- arctan(1/q) in fixed point. -/
def atanInvGo : Nat → Nat → Int → Int → Int → Int
  | 0, _, _, _, acc => acc
  | n + 1, k, p, q2, acc => atanInvGo n (k + 2) (-(p / q2)) q2 (acc + p / (k : Int))

def fxAtanInv (q : Int) : Int := atanInvGo 320 1 (fxOne / q) (q * q) 0
/-- π by Machin's formula. -/
def fxPi : Int := 4 * (4 * fxAtanInv 5 - fxAtanInv 239)

/-- Alternating series of sine (from t = x, k = 1) and cosine (from t = 1, k = 0). -/
def trigGo : Nat → Nat → Int → Int → Int → Int
  | 0, _, _, _, acc => acc
  | n + 1, k, t, x2, acc => trigGo n (k + 2) (-(fxMul t x2 / ((k + 1) * (k + 2) : Nat))) x2 (acc + t)

def fxSin (x : Int) : Int := trigGo 90 1 x (fxMul x x) 0
def fxCos (x : Int) : Int := trigGo 90 0 fxOne (fxMul x x) 0

/-- A finite value in fixed point, truncated below funBits. -/
def fxOf (n : Bool) (m : Nat) (e : Int) : Int :=
  let v : Nat := if e ≥ -(funBits : Int) then m <<< (e + funBits).toNat else m >>> (-(e + funBits)).toNat
  if n then -(v : Int) else v

/-- One rounding of a fixed-point value times 2^k, known to be inexact. -/
def fxRound (v k : Int) : F32 := f32Of (.fin (decide (v < 0)) v.natAbs (k - funBits)) true

/-- EXP2 (R220). -/
def f32Exp2 (a : F32) : F32 :=
  match f32Val a with
  | .nan => f32Nan
  | .inf n => if n then 0#32 else a
  | .fin n m e =>
    if m = 0 then 0x3F800000#32 else
    if e > 10 || (bitLen m : Int) + e > 10 then (if n then 0#32 else 0x7F800000#32) else
    let x := fxOf n m e
    let i := x >>> funBits
    let f := x - (i <<< funBits)
    if e ≥ 0 || m % 2 ^ (-e).toNat = 0 then f32Of (.fin false 1 i) else
    fxRound (fxExp (fxMul f fxLn2)) i

/-- LOG2 (R220): of ±0 −∞, of a negative value the canonical NaN. -/
def f32Log2 (a : F32) : F32 :=
  match f32Val a with
  | .nan => f32Nan
  | .inf n => if n then f32Nan else a
  | .fin n m e =>
    if m = 0 then 0xFF800000#32 else if n then f32Nan else
    let k := bitLen m - 1
    let ex : Int := e + k
    if m = 2 ^ k then f32OfInt ex else
    let x : Int := ((m <<< (funBits - k) : Nat) : Int)          -- in [1, 2)
    let ln := atanh2 (((x - fxOne) <<< funBits) / (x + fxOne))
    fxRound ((ex <<< funBits) + (ln <<< funBits) / fxLn2) 0

/-- TANH (R220). -/
def f32Tanh (a : F32) : F32 :=
  match f32Val a with
  | .nan => f32Nan
  | .inf n => if n then 0xBF800000#32 else 0x3F800000#32
  | .fin n m e =>
    if m = 0 then a else
    if (bitLen m : Int) + e > 5 then (if n then 0xBF800000#32 else 0x3F800000#32) else
    let x := fxOf false m e
    -- tanh x = s / c with s, c from e^{2x}, 2x = i·ln2 + r; below 2^-40 the series x − x³/3 decides
    let v : Int :=
      if (bitLen m : Int) + e < -40 then x - fxMul x (fxMul x x) / 3
      else
        let i := (2 * x) / fxLn2
        let r := 2 * x - i * fxLn2
        let ex := fxExp r <<< i.toNat
        ((ex - fxOne) <<< funBits) / (ex + fxOne)
    fxRound (if n then -v else v) 0

/-- The quadrant and remainder of an argument by π/2. -/
def trigReduce (n : Bool) (m : Nat) (e : Int) : Int × Int :=
  let x := fxOf n m e
  let h := fxPi / 2
  let q := x / h
  (q % 4, x - q * h)

def trigOf (q r : Int) : Int :=
  if q = 0 then fxSin r else if q = 1 then fxCos r else if q = 2 then -(fxSin r) else -(fxCos r)

/-- SIN (R220): of ±∞ the canonical NaN. -/
def f32Sin (a : F32) : F32 :=
  match f32Val a with
  | .nan => f32Nan
  | .inf _ => f32Nan
  | .fin n m e =>
    if m = 0 then a else
    let (q, r) := trigReduce n m e
    fxRound (trigOf q r) 0

/-- COS (R220): of ±∞ the canonical NaN. -/
def f32Cos (a : F32) : F32 :=
  match f32Val a with
  | .nan => f32Nan
  | .inf _ => f32Nan
  | .fin n m e =>
    if m = 0 then 0x3F800000#32 else
    let (q, r) := trigReduce n m e
    fxRound (trigOf ((q + 1) % 4) r) 0

end Sys2Proof.Machine
end

