-- ==== Sys2Proof/Machine/Compute.lean ====
section
/-! DEFINITION. What a firing computes: array products, vector operations, the window copier, the stem engine and pooling, from the bytes it reads (R88 to R98, R182 to R236). -/

namespace Sys2Proof.Machine

/-- How a port converts (R147 to R157): the site's cap, escapes, and the random word of an element where it rounds stochastically. -/
structure Conv where
  fmt : Fmt
  cap : Nat := 254
  escapes : Bool := false
  word : Option (Nat → Nat) := none
  square : Bool := false
  transpose : Bool := false
  /-- position of the panel's first element in the whole output (R153) -/
  base : Nat := 0

/-- Rounding of element e (R150, R153). -/
def Conv.rnd (c : Conv) (e : Nat) : Rnd := match c.word with | some f => .word (f (c.base + e)) | none => .nearest

/-- The blocks of a conversion, by row and column block (R157, R209). -/
def Conv.blocks (c : Conv) (rows : List (List F32)) (n : Nat) : List (List Block) :=
  let nb := n / 32
  let piece := fun (xs : List F32) (b : Nat) => (xs.drop (32 * b)).take 32
  if c.square then
    (chunks 32 rows).zipIdx.flatMap fun (grp, g) =>
      let cols := (List.range nb).map fun b =>
        quantiseSquare c.fmt c.cap c.escapes (fun r i => c.rnd ((32 * g + r) * n + 32 * b + i)) (grp.map fun xs => piece xs b)
      (List.range grp.length).map fun r => cols.map fun col => col.getD r default
  else
    rows.zipIdx.map fun (xs, r) => (List.range nb).map fun b =>
      quantiseBlock c.fmt c.cap c.escapes (fun i => c.rnd (r * n + 32 * b + i)) (piece xs b)

/-- The (index, value) pairs of an escape entry (R145). -/
def escapePairs (entry : Nat) : List (Nat × Nat) :=
  ([entry % 65536, entry / 65536].filter fun h => h / 32768 == 1).map fun h => (h / 256 % 32, h % 256)
/-- An escape entry from pairs in ascending index; more than two have no entry of R145. -/
def escapeEntry (ps : List (Nat × Nat)) : Nat :=
  match ps with
  | [] => 0
  | [a] => 0x8000 + a.1 * 256 + a.2
  | [a, b] => 0x8000 + a.1 * 256 + a.2 + 65536 * (0x8000 + b.1 * 256 + b.2)
  | l => Config.escapeOverflow l

/-- The bytes of an output of `rows` rows of n elements, in the port's orientation, and what the conversion counts (R142, R144, R149, R210). -/
def Conv.emit (c : Conv) (rows : List (List F32)) (n : Nat) : List Byte × Counts :=
  if c.fmt.blockScaled then
    let bl := c.blocks rows n
    let counts := (bl.flatMap fun r => r.map (·.counts)).foldl Counts.add {}
    let esc := c.escapes && (c.fmt = .f4 || c.fmt = .w2)
    if c.transpose then
      let m := rows.length
      let codes := transposeRows n (bl.map fun r => r.flatMap (·.codes))
      let scale := fun (col a : Nat) => ((bl.getD (32 * a) []).getD (col / 32) default).scale
      let entry := fun (col a : Nat) => escapeEntry ((List.range 32).filterMap fun i =>
        ((escapePairs ((bl.getD (32 * a + i) []).getD (col / 32) default).escape).find? fun p => p.1 == col % 32).map fun p => (i, p.2))
      (codes.flatMap (packCodes c.fmt)
        ++ (List.range n).flatMap (fun col => (List.range (m / 32)).map fun a => BitVec.ofNat 8 (scale col a))
        ++ (if esc then (List.range n).flatMap fun col => (List.range (m / 32)).flatMap fun a => bytesOf 4 (entry col a) else []), counts)
    else
      (bl.flatMap (fun r => packCodes c.fmt (r.flatMap (·.codes))) ++ bl.flatMap (fun r => r.map fun b => BitVec.ofNat 8 b.scale)
        ++ (if esc then bl.flatMap fun r => r.flatMap fun b => bytesOf 4 b.escape else []), counts)
  else
    let enc : List (List (Nat × Bool × Bool)) := rows.zipIdx.map fun (xs, r) => xs.zipIdx.map fun (x, i) =>
      if c.fmt = .f32 then (((if f32IsNan x then f32Nan else x).toNat, false, false) : Nat × Bool × Bool) else c.fmt.encode (c.rnd (r * n + i)) (f32Val x)
    let codes := enc.map fun r => r.map fun e => e.1
    let flat : List (Nat × Bool × Bool) := enc.flatten
    let all := rows.flatMap id
    let mx := maxFinite all
    let counts : Counts :=
      if c.fmt = .f32 then {} else
      { nonfinite := (flat.filter fun e => e.2.2).length, converted := flat.length, saturated := (flat.filter fun e => e.2.1).length
        maxExp := mx.1, anyFinite := mx.2 }
    (packCodes c.fmt (if c.transpose then transposeRows n codes else codes).flatten, counts)

/-- Rows decoded to F32 (R147); F32 words are taken as they are. -/
def decodeRows (f : Fmt) (esc : Bool) (rows n : Nat) (bs : List Byte) : List (List F32) :=
  if f = .f32 then (List.range rows).map fun r => (List.range n).map fun i => BitVec.ofNat 32 (fieldAt bs (4 * (r * n + i)) 4)
  else (readPanel f esc rows n bs).map fun r => r.toF32 f

/-- The elements, by row and position, that both valid halves of an escape entry name (R146); a NaN block's entry is not read (R143). -/
def clashPlaces (f : Fmt) (esc : Bool) (rows n : Nat) (bs : List Byte) : List (Nat × Nat) :=
  if !(esc && f.blockScaled) then [] else
  ((panelBlocks f esc rows n bs).zipIdx.filter fun b => b.1.2 != 255 && escapeClash b.1.1.2).map fun b =>
    (b.2 / (n / 32), b.2 % (n / 32) * 32 + b.1.1.2 / 256 % 32)

/-- Escape entries that name one index twice, and reserved W2 codes: what a reading unit counts (R138, R146). -/
def readCounts (f : Fmt) (esc : Bool) (rows n : Nat) (bs : List Byte) : Counts :=
  { nonfinite := (clashPlaces f esc rows n bs).length, w2 := if f = .w2 then (w2Places esc rows n bs).length else 0 }

/-- What a firing reads. -/
structure FireIn where
  d : Desc
  pair : PairKind := .single
  /-- the block of each input edge -/
  ins : List (List Byte)
  /-- whether it carries an escape table (R577) -/
  inEsc : List Bool
  /-- tile SRAM of the tile: offset, length -/
  sram : Nat → Nat → List Byte
  /-- the output conversion without its orientation -/
  port0 : Conv
  /-- the streamed-operand conversion of HADAMARD (R165) -/
  port1 : Conv
  /-- what befalls the arrays in this attempt -/
  faults : List ArrayFault := []

/-- A row the sampler may choose (R172, R173): the output row before conversion as written, and the streamed operand row it came from. -/
structure SpoonRow where
  row : Nat
  y : List F32
  x : List F32
  deriving DecidableEq, Repr, Inhabited

/-- The first check of an attempt that fails (R200 to R204): its row, its stage, and whether it is the partner's (R207). -/
structure CheckFail where
  row : Nat
  stage : Nat
  partner : Bool
  deriving DecidableEq, Repr, Inhabited

/-- What a firing gives. -/
structure FireOut where
  outs : List (List Byte) := []
  /-- counts at port 0, at port 1, and of its reads -/
  counts0 : Counts := {}
  counts1 : Counts := {}
  reads : Counts := {}
  w2 : Nat := 0
  stalls : Nat := 0
  busy : Nat := 0
  accLong : Bool := false
  rows : List SpoonRow := []
  /-- the decoded stationary, one list per contraction position (R173) -/
  stationary : List (List F32) := []
  /-- bytes COPY_WINDOW writes in tile SRAM -/
  sram : Option (Nat × List Byte) := none
  /-- the banks its loads left, lead first, and what column 128 of each column gave for the last row (R90, R202) -/
  banks : List Bank := []
  checks : List (List Fl × F32) := []
  fail : Option CheckFail := none
  deriving Inhabited

/-- Decoded rows of an array operand: element values and scale bytes, or F32 words on the 16-bit and integer paths (as one block row). -/
def operandRows (f : Fmt) (esc : Bool) (rows : Nat) (bs : List Byte) : List PanelRow := readPanel f esc rows 128 bs

/-- Positions of escaped elements in a panel of rows of 128 (R145). -/
def escapedAt (f : Fmt) (esc : Bool) (rows : Nat) (bs : List Byte) : List (Nat × Nat) :=
  if !esc || !(f = .f4 || f = .w2) then [] else
  let off := rows * rowBytes f 128 + rows * 4
  let scales := (bs.drop (rows * rowBytes f 128)).take (rows * 4)
  ((List.range (rows * 4)).filter fun k => scales.getD k 0 != 255#8).flatMap fun k =>
    (escapePairs (fieldAt bs (off + 4 * k) 4)).map fun p => (k / 4, k % 4 * 32 + p.1)

/-- The operand rows of an array firing: from its edge or SRAM, in B16 before the transform when HADAMARD is set (R165, R212). A chained pair
takes 256 elements a row, as two panels one after the other (log entry 19). -/
def arrayOperand (i : FireIn) (f : Fmt) (esc : Bool) (chain : Bool) : List (List Byte) :=
  let p := i.d.arr
  let size := panelBytes f esc p.rows 128
  let n := if chain then 2 else 1
  if p.opSram then
    if f.blockScaled then (List.range n).map fun j => i.sram (p.opOff * 64 + j * size) size
    else (List.range n).map fun j => (List.range p.rows).flatMap fun r =>
      i.sram (p.opOff * 64 + r * p.opStride * 64 + j * rowBytes f 128) (rowBytes f 128)
  else (List.range n).map fun j => ((i.ins.getD p.opIdx []).drop (j * size)).take size

/-- The operand of an array firing as the array receives it: the panels' bytes, whether they carry an escape table, the B16 source of HADAMARD with
its positions at or beyond k_valid zeroed, and what its conversion counts (R94, R165, R212, R215; log entry 110). -/
structure Operand where
  bytes : List (List Byte)
  esc : Bool
  source : List (List (List F32)) := []
  counts : Counts := {}

def FireIn.operand (i : FireIn) (chain : Bool) : Operand :=
  let d := i.d
  let p := d.arr
  let carries := if p.opSram then d.escapes else i.inEsc.getD p.opIdx false
  if d.hadamard then
    let src := (arrayOperand i .b16 false chain).zipIdx.map fun (b, j) =>
      (decodeRows .b16 false p.rows 128 b).map fun r => r.zipIdx.map fun (x, k) => if 128 * j + k < p.kValid then x else 0
    let conv := src.zipIdx.map fun (rows, j) =>
      ({ i.port1 with base := 128 * p.rows * j } : Conv).emit (rows.map fun r => (chunks 32 r).flatMap hadamard32) 128
    { bytes := conv.map (·.1), esc := escFmt d.fmtIn d.escapes, source := src, counts := (conv.map (·.2)).foldl Counts.add {} }
  else
    let f := (Fmt.ofCode? d.fmtIn).getD .f32
    { bytes := arrayOperand i f (escFmt d.fmtIn carries) chain, esc := escFmt d.fmtIn carries }

/-- The stationary panels of an array firing, one for each of its arrays, and whether they carry an escape table (R212, R213). -/
def FireIn.stationary (i : FireIn) : List (List Byte) × Bool :=
  let d := i.d
  let p := d.arr
  let f := (Fmt.ofCode? d.fmtSt).getD .f32
  let esc := escFmt d.fmtSt (if p.stSram then d.escapes else i.inEsc.getD p.stIdx false)
  let size := panelBytes f esc 128 128
  ((List.range (if i.pair = .single then 1 else 2)).map fun j =>
    if p.stSram then i.sram (p.stOff * 64 + j * size) size else ((i.ins.getD p.stIdx []).drop (j * size)).take size, esc)

/-- The banks a firing's stationary loads leave (R87, R128). -/
def FireIn.banks (i : FireIn) : List Bank :=
  let d := i.d
  let st := i.stationary
  st.1.zipIdx.map fun (b, j) =>
    Bank.load ((Fmt.ofCode? d.fmtSt).getD .f32) st.2 d.cls d.arr.kValid (if chained i.pair d.cls then 128 * j else 0) b

/-- One row of a column on the path of its formats (R182). -/
def Column.row (c : Column) (i : FireIn) (xs : List Fl) (ex : List Nat) (f : RowFaults) : RowOut :=
  let r := if intFmt i.d.fmtIn then c.rowInt xs f
    else if blockFmt i.d.fmtIn then c.rowBlock i.d.arr.kValid i.d.hadamard xs ex f
    else c.row16 (if i.pair = .vertical then 13 else 14) xs f
  { r with fail := if f.convert && r.fail.isNone then some (lastStage xs) else r.fail }

/-- The stationary as the sampler reads it: by contraction position, output by output; a NaN block reads as NaN (R143, R173). -/
def Column.reference (c : Column) (blocks : Bool) (kv : Nat) : List (List F32) :=
  transposeRows c.sums.length (c.lines.map fun l => l.1.zipIdx.map fun (x, k) =>
    let e := l.2.getD (k / 32) 127
    if kv ≤ k then 0 else if blocks && e == 255 then f32Nan else f32Of (if blocks then x.scale2 ((e : Int) - 127) else x))

/-- An array firing (R88 to R93, R182 to R187, R199 to R207, R212 to R217). -/
def fireArray (i : FireIn) : FireOut :=
  let d := i.d
  let p := d.arr
  let fi := (Fmt.ofCode? d.fmtIn).getD .f32
  let fs := (Fmt.ofCode? d.fmtSt).getD .f32
  let chain := chained i.pair d.cls
  let kv := p.kValid
  let col := d.cls == 2
  let op := i.operand chain
  let st := i.stationary
  let banks := i.banks
  let cols := fun (bs : List Bank) => if chain then [Column.of col bs] else bs.map fun b => Column.of col [b]
  let columns := cols (banks.zipIdx.map fun (b, j) => flipAll i.faults (j == 1) b)
  let panels := op.bytes.map fun b => readPanel fi op.esc p.rows 128 b
  let xRow := fun (r : Nat) => panels.map fun q => q.getD r default
  let rows : List (List RowOut) := (List.range p.rows).map fun r =>
    let xs := ((xRow r).flatMap (·.elems)).zipIdx.map fun e => if e.2 < kv then e.1 else .fin false 0 0
    columns.zipIdx.map fun (c, u) => c.row i xs ((xRow r).flatMap (·.scales)) (RowFaults.of i.faults chain u r)
  let fail := rows.zipIdx.findSome? fun (q, r) => q.zipIdx.findSome? fun (o, u) => o.fail.map fun k =>
    ({ row := r, stage := k, partner := if chain then decide (4 ≤ k) else u == 1 } : CheckFail)
  -- accumulate input: F32 or 32-bit words, one panel per half
  let acc := i.ins.getD p.accIdx []
  let accAt := fun (r o : Nat) => (BitVec.ofNat 32 (fieldAt acc (4 * ((o / 128) * p.rows * 128 + r * 128 + o % 128)) 4) : F32)
  let sums := rows.map fun q => q.flatMap (·.y)
  let total : List (List F32) := if !p.acc then sums else sums.zipIdx.map fun (row, r) => row.zipIdx.map fun (y, o) =>
    if intFmt d.fmtIn then accAt r o + y else f32Add (accAt r o) y
  let fin : List (List F32) := if p.last && intFmt d.fmtIn then total.map fun row => row.map fun y => f32OfInt y.toInt else total
  let halves := (List.range columns.length).map fun h => fin.map fun row => (row.drop (128 * h)).take 128
  let port : Conv := if p.last then i.port0 else { fmt := .f32 }
  let put := fun (j : Nat) => halves.zipIdx.map fun (rows, h) =>
    ({ port with square := p.square, transpose := p.transpose.getD j false, base := 128 * p.rows * h } : Conv).emit rows 128
  let raw := fun (rows : List (List F32)) => (rows.flatMap fun r => r.flatMap fun y => bytesOf 4 y.toNat)
  let outs := (List.range d.outEdges.length).map fun j =>
    if !p.last && intFmt d.fmtIn then halves.map fun rows => (raw (if p.transpose.getD j false then transposeRows 128 rows else rows), ({} : Counts))
    else put j
  let escX := op.bytes.zipIdx.flatMap fun (b, j) => ((escapedAt fi op.esc p.rows b).map fun e => (e.1, e.2 + 128 * j)).filter fun e => decide (e.2 < kv)
  let escS := (st.1.zipIdx.flatMap fun (b, j) => (escapedAt fs st.2 128 b).map fun e =>
    (if d.cls == 1 then e.1 else e.2) + (if chain then 128 * j else 0)).filter fun k => decide (k < kv)
  -- an entry that names a position at or beyond k_valid twice has no effect (R215)
  let clashX := if d.hadamard then [] else op.bytes.zipIdx.flatMap fun (b, j) =>
    (clashPlaces fi op.esc p.rows 128 b).filter fun e => decide (e.2 + 128 * j < kv)
  let clashS := st.1.zipIdx.flatMap fun (b, j) => (clashPlaces fs st.2 128 128 b).filter fun e =>
    decide ((if d.cls == 1 then e.1 else e.2) + (if chain then 128 * j else 0) < kv)
  let two := d.fmtSt = 8 || d.fmtSt = 9 || d.fmtSt = 11
  let loadedW2 := if d.fmtSt ≠ 9 then 0 else (st.1.zipIdx.map fun (b, j) => ((w2Places st.2 128 128 b).filter fun k =>
    decide ((if d.cls == 1 then k / 128 else k % 128) + (if chain then 128 * j else 0) < kv)).length).foldl (· + ·) 0
  { outs := outs.map fun hs => hs.flatMap (·.1)
    counts0 := ((outs.headD []).map (·.2)).foldl Counts.add {}
    counts1 := op.counts
    reads := { nonfinite := clashX.length + clashS.length }
    w2 := loadedW2
    stalls := (((escX.filter fun e => escS.contains e.2).map fun e => if two then e.1 / 2 else e.1).eraseDups).length
    busy := if two then (p.rows + 1) / 2 else p.rows
    accLong := p.last && !intFmt d.fmtIn && decide (2 ^ 20 < p.nTotal)
    rows := fin.zipIdx.map fun (y, r) =>
      { row := r, y := y
        x := if d.hadamard then op.source.flatMap fun rows => rows.getD r []
          else ((xRow r).flatMap fun q => q.toF32 fi).zipIdx.map fun e => if e.2 < kv then e.1 else 0 }
    stationary := ((cols banks).map fun c => c.reference fs.blockScaled kv).foldl (fun a m => if a.isEmpty then m else List.zipWith (· ++ ·) a m) []
    banks := banks
    checks := (rows.getLastD []).map fun o => (o.check, o.mag)
    fail := fail }

/-- The winner of a maximum or minimum (R198): over value and index pairs. -/
def pickWinner (isMax : Bool) (xs : List (F32 × Nat)) : F32 × Nat :=
  match (xs.filter fun p => f32IsNan p.1).map (·.2) with
  | i :: r => (f32Nan, r.foldl min i)
  | [] =>
    match xs with
    | [] => (f32Nan, 0)
    | x :: r => r.foldl (fun a b =>
        let better := if isMax then f32Lt a.1 b.1 else f32Lt b.1 a.1
        let equal := !f32Lt a.1 b.1 && !f32Lt b.1 a.1
        if better || (equal && decide (b.2 < a.2)) then b else a) x

/-- F32 words at an offset of tile SRAM. -/
def f32Words (bs : List Byte) (n : Nat) : List F32 := (List.range n).map fun i => BitVec.ofNat 32 (fieldAt bs (4 * i) 4)
def u32Words (bs : List Byte) (n : Nat) : List Nat := (List.range n).map fun i => fieldAt bs (4 * i) 4
def u16Words (bs : List Byte) (n : Nat) : List Nat := (List.range n).map fun i => fieldAt bs (2 * i) 2

/-- RMSNORM of a row (R221). -/
def rmsApply (inv : F32) (x g : List F32) : List F32 := List.zipWith (fun a b => f32Mul (f32Mul a inv) b) x g
def rmsInv (sq c eps : F32) : F32 := f32Rsqrt (f32Add (f32Mul sq c) eps)

/-- LAYERNORM's last line (R221). -/
def layerApply (inv : F32) (ds g t : List F32) : List F32 := (List.zip ds (List.zip g t)).map fun p => f32Fma (f32Mul p.1 inv) p.2.1 p.2.2

/-- Whether a query may attend a key (R223). -/
def mayAttend (causal : Bool) (q k : Nat) : Bool :=
  q / 65536 != 0xFFFF && k / 65536 == q / 65536 && (!causal || decide (k % 65536 ≤ q % 65536))

/-- masked_softmax of a row (R224). -/
def softmaxRow (causal : Bool) (kc : F32) (q : Nat) (keys : List Nat) (s : List F32) : List F32 :=
  let ok := keys.map (mayAttend causal q)
  if !ok.any id then s.map fun _ => 0 else
  let m := (pickWinner true ((s.zipIdx).filter fun p => ok.getD p.2 false)).1
  let e := s.zipIdx.map fun p => if ok.getD p.2 false then f32Exp2 (f32Mul (f32Sub p.1 m) kc) else 0
  let r := f32Rcp (treeSum e)
  e.zipIdx.map fun p => if ok.getD p.2 false then f32Mul p.1 r else 0

/-- ROPE of a row (R225). -/
def ropeRow (freqs : List F32) (mark : Nat) (x : List F32) : List F32 :=
  if mark / 65536 = 0xFFFF then x else
  (List.range (x.length / 2)).flatMap fun i =>
    let th := f32Mul (f32OfNat (mark % 65536)) (freqs.getD i 0)
    let cs := f32Cos th
    let sn := f32Sin th
    let a := x.getD (2 * i) 0
    let b := x.getD (2 * i + 1) 0
    [f32Fma a cs (f32Neg (f32Mul b sn)), f32Fma a sn (f32Mul b cs)]

/-- The input of a VECTOR role, decoded to rows of n elements (R218). -/
def FireIn.decode (i : FireIn) (idx rows n : Nat) : List (List F32) :=
  decodeRows ((Fmt.ofCode? i.d.fmtIn).getD .f32) (escFmt i.d.fmtIn (i.inEsc.getD idx false)) rows n (i.ins.getD idx [])

/-- One element of an elementwise VECTOR op (R219, R220); `a` and `b` decoded, `c` the third input. -/
def vecElem (op : Nat) (c0 a b c : F32) : F32 :=
  match op with
  | 0x01 => a
  | 0x02 => f32Add a b
  | 0x03 => f32Mul a b
  | 0x04 => f32Fma a b c
  | 0x06 => f32Add a b
  | 0x08 => if f32IsNan a then f32Nan else if f32Lt 0 a then a else 0
  | 0x09 => if f32Lt 0 a then b else 0
  | 0x0A => f32Mul a (f32Rcp (f32Add 0x3F800000#32 (f32Exp2 (f32Mul (f32Neg a) 0x3FB8AA3B#32))))
  | 0x0B => f32Mul a c0
  | 0x0C => f32Exp2 a
  | 0x0D => f32Log2 a
  | 0x0E => f32Rcp a
  | 0x0F => f32Rsqrt a
  | 0x10 => f32Tanh a
  | 0x11 => f32Sin a
  | 0x12 => f32Cos a
  | _ => a

/-- A VECTOR firing with op below 0x20 (R218 to R225, R579). DESIGN CHOICE (log entry 151): the statistics block of a NORM_APPLY with opts[0] = 1
holds (Σx, Σd²) of each row in turn. -/
def fireVector (i : FireIn) : FireOut :=
  let d := i.d
  let v := d.vec
  let op := d.op
  let u := vecUses v op
  -- a combining firing takes its values as one row per result (R579)
  let A := i.decode v.aIdx v.rows v.width
  let bMarks := op = 0x19 || op = 0x1A
  let bStat := op = 0x13 || op = 0x18
  let bIdxs := (op = 0x14 || op = 0x15) && v.opt 0
  let B := if u.2.1 && !bMarks && !bStat && !bIdxs then i.decode v.bIdx v.rows v.width else []
  let C := if u.2.2 then i.decode v.cIdx v.rows v.width else []
  let bBytes := i.ins.getD v.bIdx []
  let aux := fun n => i.sram v.auxOff n
  let one := fun (rows : List (List F32)) (port : Conv) (n : Nat) =>
    let o := port.emit rows n
    { outs := (List.range d.outEdges.length).map fun _ => o.1, counts0 := o.2 : FireOut }
  let long := decide (2 ^ 20 < v.nTotal)
  if op = 0x06 && intFmt d.fmtIn then
    -- 4-byte two's complement words (R216)
    let a := u32Words (i.ins.getD v.aIdx []) (v.rows * v.width)
    let b := u32Words bBytes (v.rows * v.width)
    let s : List F32 := List.zipWith (fun x y => BitVec.ofNat 32 (x + y)) a b
    if v.opt 0 then
      let o := i.port0.emit (chunks v.width (s.map fun y => f32OfInt y.toInt)) v.width
      { outs := (List.range d.outEdges.length).map fun _ => o.1, counts0 := o.2 }
    else { outs := (List.range d.outEdges.length).map fun _ => s.flatMap fun y => bytesOf 4 y.toNat }
  else if op = 0x05 then
    let gt := f32Words (aux (8 * v.width)) (2 * v.width)
    one (A.map fun r => r.zipIdx.map fun (x, n) => f32Fma x (gt.getD n 0) (gt.getD (v.width + n) 0)) i.port0 v.width
  else if op = 0x07 then
    one (A.map fun r => ((chunks 32 r).flatMap hadamard32).map fun x => f32Mul x 0x3D000000#32) i.port0 v.width
  else if op = 0x13 then
    let st := f32Words bBytes v.rows
    let mus := fun r => f32Mul (st.getD r 0) (f32Rcp (f32OfNat v.rowTotal))
    let vals := A.zipIdx.map fun (r, k) =>
      if v.opts % 4 = 0 then treeSum r
      else if v.opts % 4 = 1 then treeSum (r.map fun x => f32Mul x x)
      else treeSum (r.map fun x => let e := f32Sub x (mus k); f32Mul e e)
    { one [vals] i.port0 v.rows with accLong := long && v.rowTotal == v.width }
  else if op = 0x14 || op = 0x15 then
    let idx := u32Words bBytes (v.rows * v.width)
    let w := A.zipIdx.map fun (r, k) => pickWinner (op == 0x14) (r.zipIdx.map fun (x, n) =>
      (x, if v.opt 0 then idx.getD (k * v.width + n) 0 else v.indexBase + n))
    let o := i.port0.emit [w.map (·.1)] v.rows
    { outs := [o.1, w.flatMap fun p => bytesOf 4 p.2].take d.outEdges.length, counts0 := o.2 }
  else if op = 0x16 then
    let g := f32Words (aux (4 * v.width)) v.width
    let c := f32Rcp (f32OfNat v.width)
    { one (A.map fun r => rmsApply (rmsInv (treeSum (r.map fun x => f32Mul x x)) c v.c0) r g) i.port0 v.width with accLong := long }
  else if op = 0x17 then
    let gt := f32Words (aux (8 * v.width)) (2 * v.width)
    let c := f32Rcp (f32OfNat v.width)
    let row := fun (r : List F32) =>
      let mu := f32Mul (treeSum r) c
      let ds := r.map fun x => f32Sub x mu
      layerApply (rmsInv (treeSum (ds.map fun x => f32Mul x x)) c v.c0) ds (gt.take v.width) (gt.drop v.width)
    { one (A.map row) i.port0 v.width with accLong := long }
  else if op = 0x18 then
    let c := f32Rcp (f32OfNat v.rowTotal)
    if v.opt 0 then
      let st := f32Words bBytes (2 * v.rows)
      let gt := f32Words (aux (8 * v.width)) (2 * v.width)
      one (A.zipIdx.map fun (r, k) =>
        let mu := f32Mul (st.getD (2 * k) 0) c
        layerApply (rmsInv (st.getD (2 * k + 1) 0) c v.c0) (r.map fun x => f32Sub x mu) (gt.take v.width) (gt.drop v.width)) i.port0 v.width
    else
      let st := f32Words bBytes v.rows
      let g := f32Words (aux (4 * v.width)) v.width
      one (A.zipIdx.map fun (r, k) => rmsApply (rmsInv (st.getD k 0) c v.c0) r g) i.port0 v.width
  else if op = 0x19 then
    let marks := u32Words bBytes (v.rows + v.width)
    { one (A.zipIdx.map fun (r, k) => softmaxRow (v.opt 0) v.c0 (marks.getD k 0) (marks.drop v.rows) r) i.port0 v.width with accLong := long }
  else if op = 0x1A then
    let marks := u32Words bBytes v.rows
    let fr := f32Words (aux (2 * v.width)) (v.width / 2)
    one (A.zipIdx.map fun (r, k) => ropeRow fr (marks.getD k 0) r) i.port0 v.width
  else
    let rows := A.zipIdx.map fun (r, k) => r.zipIdx.map fun (x, n) => vecElem op v.c0 x ((B.getD k []).getD n 0) ((C.getD k []).getD n 0)
    let port := if op = 0x01 then { i.port0 with square := v.opt 0, transpose := v.opt 1 } else i.port0
    { one rows port v.width with accLong := op == 0x06 && v.opt 0 && long }

/-- The element a window position reads, none where it is padded: along one axis (R98, R99). -/
def winPos (o stride k dil pad n : Nat) : Option Nat :=
  let q := o * stride + k * dil
  if q < pad then none else if n ≤ q - pad then none else some (q - pad)
/-- The same position held within the plane (edge replicate). -/
def winClamp (o stride k dil pad n : Nat) : Nat :=
  let q := o * stride + k * dil
  if q < pad then 0 else min (q - pad) (n - 1)

/-- Every (channel, kernel row, kernel column) of a window, in the element order of R98. -/
def Geom.taps (g : Geom) (c0 cn : Nat) : List (Nat × Nat × Nat) :=
  (List.range cn).flatMap fun c => (List.range g.kh).flatMap fun r => (List.range g.kw).map fun s => (c0 + c, r, s)
/-- Output positions row-major. -/
def Geom.outs (g : Geom) : List (Nat × Nat) := (List.range g.oh).flatMap fun y => (List.range g.ow).map fun x => (y, x)

/-- Plane element index a tap reads, none where padded. -/
def Geom.read (g : Geom) (y x r s : Nat) : Option Nat :=
  match winPos y g.sh r g.dh g.ph g.h, winPos x g.sw s g.dw g.pw g.w with
  | some a, some b => some (a * g.w + b)
  | _, _ => none
def Geom.readClamp (g : Geom) (y x r s : Nat) : Nat := winClamp y g.sh r g.dh g.ph g.h * g.w + winClamp x g.sw s g.dw g.pw g.w

/-- COPY_WINDOW (R98, R99): the expanded buffer. -/
def fireCopy (i : FireIn) : FireOut :=
  let g := i.d.geom
  let e := g.elemBytes
  let src := i.sram (i.d.par 44 4) g.inputBytes
  let pick := fun (k : Nat) => (src.drop (k * e)).take e
  let row := fun (y x : Nat) =>
    let bs := (g.taps 0 g.c).flatMap fun (c, r, s) =>
      let plane := c * g.h * g.w
      match g.read y x r s with
      | some k => pick (plane + k)
      | none => if g.replicate then pick (plane + g.readClamp y x r s) else List.replicate e 0
    bs ++ List.replicate (g.rowBytes - bs.length) 0
  { sram := some (i.d.par 48 4, g.outs.flatMap fun (y, x) => row y x) }

/-- A planar value with fill (R230): padded positions read 0 or the nearest element. -/
def Geom.value (g : Geom) (plane : List F32) (y x r s : Nat) : F32 :=
  match g.read y x r s with
  | some k => plane.getD k 0
  | none => if g.replicate then plane.getD (g.readClamp y x r s) 0 else 0

/-- Forward convolution in planes: `w o t` the filter value of output channel o at tap index t; channels of o's group from `c0 o` on (R230).
DEDUCED (log entry 152): a B16 product of the stem that F32 does not hold is rounded to F32 before the tree, whose terms are F32 values. -/
def convForward (g : Geom) (co : Nat) (c0 : Nat → Nat) (cn : Nat) (w : Nat → Nat → F32) (planes : List (List F32)) : List (List F32) :=
  (List.range co).map fun o => g.outs.map fun (y, x) =>
    treeSum ((g.taps (c0 o) cn).zipIdx.map fun ((c, r, s), t) => f32Mul (g.value (planes.getD c []) y x r s) (w o t))

/-- Input gradient: terms in ascending (o, output position, tap) of the windows that read the element (R230). DESIGN CHOICE (log entry 153): a
padded tap reads no element, with edge replicate too; an element that no window reads has the gradient +0. -/
def convDx (g : Geom) (co : Nat) (c0 : Nat → Nat) (cn : Nat) (w : Nat → Nat → F32) (dy : List (List F32)) : List (List F32) :=
  (List.range g.c).map fun c => (List.range (g.h * g.w)).map fun k =>
    let terms := ((List.range co).filter fun o => decide (c0 o ≤ c) && decide (c < c0 o + cn)).flatMap fun o =>
      g.outs.zipIdx.flatMap fun ((y, x), pos) => ((g.taps (c0 o) cn).zipIdx.filter fun ((c', r, s), _) => c' == c && g.read y x r s == some k).map
        fun (_, t) => f32Mul ((dy.getD o []).getD pos 0) (w o t)
    treeSum terms

/-- Filter gradient: one value per (o, c in group, r, s), summed over output positions (R230). -/
def convDw (g : Geom) (co : Nat) (c0 : Nat → Nat) (cn : Nat) (x dy : List (List F32)) : List F32 :=
  (List.range co).flatMap fun o => (g.taps (c0 o) cn).map fun (c, r, s) =>
    treeSum (g.outs.zipIdx.map fun ((y, xx), pos) => f32Mul (g.value (x.getD c []) y xx r s) ((dy.getD o []).getD pos 0))

/-- Depthwise and grouped convolution (R229, R230). DEDUCED (log entry 154), here, in pooling and in the stem: in_edge 0 is input a and in_edge 1
is input b, as these layouts have no roles byte. -/
def fireDepthwise (i : FireIn) : FireOut :=
  let d := i.d
  let g := d.geom
  let grp := d.par 63 1 % 16 + 1
  let c0 := fun o => o / grp * grp
  let taps := grp * g.kh * g.kw
  let wt := f32Words (i.sram (d.par 44 4) (4 * g.c * taps)) (g.c * taps)
  let w := fun o t => wt.getD (o * taps + t) 0
  -- a firing whose n_total exceeds its own terms is part of a larger sum (R196; log entry 119)
  let long := decide (2 ^ 20 < d.par 48 4) && decide (d.par 48 4 ≤ if d.op = 0x22 then g.oh * g.ow else taps)
  let fin := fun (rows : List (List F32)) (n : Nat) =>
    let o := i.port0.emit rows n
    { outs := (List.range d.outEdges.length).map fun _ => o.1, counts0 := o.2, accLong := long : FireOut }
  if d.op = 0x20 then fin (convForward g g.c c0 grp w (i.decode 0 g.c (g.h * g.w))) (g.oh * g.ow)
  else if d.op = 0x21 then fin (convDx g g.c c0 grp w (i.decode 0 g.c (g.oh * g.ow))) (g.h * g.w)
  else
    let dw := convDw g g.c c0 grp (i.decode 0 g.c (g.h * g.w)) (i.decode 1 g.c (g.oh * g.ow))
    fin [dw] dw.length

/-- Elements of a pooling window that lie in the plane, with the window-local index (R234, R235). -/
def Geom.window (g : Geom) (y x : Nat) : List (Nat × Nat) :=
  (List.range g.kh).flatMap fun r => (List.range g.kw).filterMap fun s => (g.read y x r s).map fun k => (k, r * g.kw + s)

/-- Pooling (R234 to R236); in_edge 0 is input a and in_edge 1 input b (DEDUCED, log entry 154). -/
def firePool (i : FireIn) : FireOut :=
  let d := i.d
  let g := d.geom
  let incl := d.parBit 63 4
  let n := g.oh * g.ow
  let fin := fun (rows : List (List F32)) (k : Nat) (extra : List (List Byte)) =>
    let o := i.port0.emit rows k
    let outs := if extra.isEmpty then (List.range d.outEdges.length).map fun _ => o.1 else [o.1] ++ extra
    { outs := outs.take (max 1 d.outEdges.length), counts0 := o.2 : FireOut }
  let div := fun (y x : Nat) => f32Rcp (f32OfNat (if incl then g.kh * g.kw else (g.window y x).length))
  let back := fun (contrib : Nat → List (Nat × F32)) => (List.range g.c).map fun c =>
    let cs := contrib c
    (List.range (g.h * g.w)).map fun k => runSum ((cs.filter fun p => p.1 == k).map (·.2))
  if d.op = 0x30 then
    let X := i.decode 0 g.c (g.h * g.w)
    let w : List (List (F32 × Nat)) := X.map fun pl => g.outs.map fun (y, x) => pickWinner true ((g.window y x).map fun p => (pl.getD p.1 0, p.2))
    fin (w.map fun r => r.map (·.1)) n [w.flatMap fun r => r.flatMap fun p => bytesOf 2 p.2]
  else if d.op = 0x31 then
    let X := i.decode 0 g.c (g.h * g.w)
    fin (X.map fun pl => g.outs.map fun (y, x) =>
      let terms := if incl then (List.range g.kh).flatMap fun r => (List.range g.kw).map fun s => match g.read y x r s with
          | some k => pl.getD k 0
          | none => 0
        else (g.window y x).map fun p => pl.getD p.1 0
      f32Mul (treeSum terms) (div y x)) n []
  else
    let dy := i.decode 0 g.c n
    if d.op = 0x32 then
      let idx := u16Words (i.ins.getD 1 []) (g.c * n)
      fin (back fun c => g.outs.zipIdx.filterMap fun ((y, x), pos) =>
        let t := idx.getD (c * n + pos) 0
        (g.read y x (t / g.kw) (t % g.kw)).map fun k => (k, (dy.getD c []).getD pos 0)) (g.h * g.w) []
    else
      fin (back fun c => g.outs.zipIdx.flatMap fun ((y, x), pos) =>
        (g.window y x).map fun p => (p.1, f32Mul ((dy.getD c []).getD pos 0) (div y x))) (g.h * g.w) []

/-- The stem engine (R231, R232); in_edge 0 is input a and in_edge 1 input b (DEDUCED, log entry 154). -/
def fireStem (i : FireIn) : FireOut :=
  let d := i.d
  let g := d.geom
  let co := d.par 48 2
  let taps := g.c * g.kh * g.kw
  let wt := (decodeRows .b16 false 1 (co * taps) (i.sram (d.par 44 4) (2 * co * taps))).headD []
  let w := fun o t => wt.getD (o * taps + t) 0
  let planes := fun idx c n => decodeRows .b16 false c n (i.ins.getD idx [])
  let fin := fun (rows : List (List F32)) (n : Nat) =>
    let o := i.port0.emit rows n
    { outs := (List.range d.outEdges.length).map fun _ => o.1, counts0 := o.2 : FireOut }
  if d.op = 1 then fin (convForward g co (fun _ => 0) g.c w (planes 0 g.c (g.h * g.w))) (g.oh * g.ow)
  else if d.op = 2 then fin (convDx g co (fun _ => 0) g.c w (planes 0 co (g.oh * g.ow))) (g.h * g.w)
  else
    let dw := convDw g co (fun _ => 0) g.c (planes 0 g.c (g.h * g.w)) (planes 1 co (g.oh * g.ow))
    fin [dw] dw.length

/-- What the inputs of a VECTOR firing make it count (R146). -/
def FireIn.vectorReads (i : FireIn) : Counts :=
  (i.d.readShapes.map fun x => readCounts ((Fmt.ofCode? i.d.fmtIn).getD .f32) (escFmt i.d.fmtIn (i.inEsc.getD x.1 false)) x.2.1 x.2.2
    (i.ins.getD x.1 [])).foldl Counts.add {}

/-- What a firing of a computing class gives (R103). -/
def fire (i : FireIn) : FireOut :=
  if isArray i.d.cls then fireArray i
  else if i.d.cls = 4 then
    { (if i.d.op < 0x20 then fireVector i else if i.d.op < 0x30 then fireDepthwise i else firePool i) with reads := i.vectorReads }
  else if i.d.cls = 5 then fireCopy i
  else if i.d.cls = 9 then fireStem i
  else {}

/-- y_ref of a chosen row (R173): x·w with k ascending, each addition rounded. -/
def spoonRef (x : List F32) (w : List (List F32)) (n : Nat) : List F32 :=
  (List.range n).map fun o => (List.zip x w).foldl (fun (a : Option F32) p =>
    match a with
    | none => some (f32Mul p.1 (p.2.getD o 0))
    | some r => some (f32Add r (f32Mul p.1 (p.2.getD o 0)))) none |>.getD 0

/-- Largest magnitude of a list of finite values. -/
def maxAbs (l : List F32) : Fl := l.foldl (fun a x => a.maxMag (f32Val x)) (.fin false 0 0)

/-- The bin of a sample (R174). -/
def spoonBin (y ref : List F32) : Nat :=
  if y.any (fun v => !f32IsFinite v) || ref.any (fun v => !f32IsFinite v) then 31 else
  let diff := List.zipWith (fun a b => (f32Val a).add (f32Val b).neg) y ref
  let num := diff.foldl Fl.maxMag (.fin false 0 0)
  let den := maxAbs ref
  if num.isZero then 0
  else if den.isZero then 31
  else if !(num.lt den) then 31
  else if num.lt (den.scale2 (-29)) then 1
  else ((List.range 29).find? fun k => !(num.lt (den.scale2 (((30 - k : Nat) : Int) - 31)))).elim 1 fun k => 30 - k

end Sys2Proof.Machine
end

