-- ==== Sys2Proof/Machine/SiteBlock.lean ====
section
/-! DEFINITION. Scale sites: history, cap, bump, counts, reports, and the quantisation error sampler's bins (R155 to R178, R578). -/

namespace Sys2Proof.Machine

/-- State of a site at its home (R155), and its counts of the current step (R177). -/
structure Site where
  /-- exponent fields, newest last, at most 16 -/
  hist : List Nat := []
  /-- the bump of the current step's cap -/
  bump : Bool := false
  counts : Counts := {}
  samples : Nat := 0
  skipped : Nat := 0
  bins : Sparse Nat := []
  deriving DecidableEq, Repr, Inhabited

/-- Key of the unbound record (R177). -/
def unboundSite : Nat := 0xFFFF

/-- The states of the sites and of the unbound record. -/
abbrev Sites := Sparse Site

/-- clamp of R156. -/
def clampInt (lo hi n : Int) : Int := max lo (min hi n)

/-- The cap of R156 for the current step; none where the site has none. -/
def siteCap (r : SiteRec) (s : Site) : Option Nat :=
  if r.history && !s.hist.isEmpty then
    let emax := ((Fmt.ofCode? r.format).map Fmt.emax).getD 0
    some (clampInt 0 254 ((s.hist.foldl max 0 : Nat) + 1 + (r.h : Int) - emax + (if s.bump then 1 else 0))).toNat
  else none

/-- Counts are added at a site, or at the unbound record (R155, R578). -/
def Sites.count (t : Sites) (k : Nat) (c : Counts) : Sites := Sparse.mod t k fun s => { s with counts := s.counts.add c }

/-- A sample goes into its bin (R174). -/
def Sites.sample (t : Sites) (k bin : Nat) : Sites :=
  Sparse.mod t k fun s => { s with samples := s.samples + 1, bins := s.bins.mod bin (· + 1) }

/-- A row is skipped because four wait (R175). -/
def Sites.skip (t : Sites) (k : Nat) : Sites := Sparse.mod t k fun s => { s with skipped := s.skipped + 1 }

/-- The bump the step's counts give (R160). -/
def bumpNext (r : SiteRec) (s : Site) : Bool := decide (s.counts.converted / 2 ^ r.satShift < s.counts.saturated)

/-- The last 16 entries of a history. -/
def lastN {α : Type} (n : Nat) (l : List α) : List α := l.drop (l.length - n)

/-- The update of a HISTORY site at the end of a completed step (R160). -/
def Site.update (r : SiteRec) (s : Site) : Site :=
  if !r.history then s else
  { s with hist := if s.counts.anyFinite then lastN 16 (s.hist ++ [s.counts.maxExp]) else s.hist, bump := bumpNext r s }

/-- The counts cleared for the next step. -/
def Site.clear (s : Site) : Site := { s with counts := {}, samples := 0, skipped := 0, bins := [] }

/-- A count held at 32 bits (R178). -/
def sat32 (n : Nat) : Nat := min n 0xFFFFFFFF

/-- The 256 bytes of a record (R177): `before` holds the step's counts and cap, `after` the state after the step's update. -/
def siteReport (step site format : Nat) (abandoned : Bool) (rec' : Option SiteRec) (before after : Site) : List Byte :=
  let c := before.counts
  let flags := (if abandoned then 1 else 0)
    + (if rec'.isSome && (rec'.bind fun r => siteCap r before).isSome && before.bump then 2 else 0)
    + (if after.bump then 4 else 0)
  bytesOf 4 step ++ bytesOf 2 site ++ bytesOf 1 format ++ bytesOf 1 flags
    ++ bytesOf 1 ((rec'.bind fun r => siteCap r before).getD 0xFF) ++ bytesOf 1 c.maxExp
    ++ bytesOf 1 after.hist.length ++ bytesOf 1 (after.hist.foldl max 0)
    ++ bytesOf 4 (sat32 c.nonfinite) ++ bytesOf 8 c.converted ++ bytesOf 8 c.saturated ++ bytesOf 8 c.escapes
    ++ bytesOf 4 (sat32 c.w2) ++ bytesOf 4 (sat32 before.samples) ++ bytesOf 4 (sat32 before.skipped)
    ++ List.replicate 12 0 ++ (List.range 32).flatMap (fun b => bytesOf 4 (sat32 (before.bins.at b))) ++ List.replicate 64 0

/-- The sites after a completed step: histories and bumps updated, counts cleared (R160). -/
def Sites.stepEnd (recs : List SiteRec) (t : Sites) : Sites :=
  Sparse.mapVals (fun k s => match recs[k]? with | some r => (s.update r).clear | none => s.clear) t

/-- The sites after an abandoned step: only the counts go (R162). -/
def Sites.abandon (t : Sites) : Sites := Sparse.mapVals (fun _ s => s.clear) t

/-- The reports of a step, each with its offset in the report region (R176). -/
def Sites.reports (recs : List SiteRec) (step : Nat) (abandoned : Bool) (t : Sites) : List (Nat × List Byte) :=
  let n := recs.length
  let base := step % 2 * (n + 1) * 256
  let one := fun (k : Nat) (r : Option SiteRec) =>
    let b : Site := Sparse.at t k
    siteReport step k (match r with | some x => x.format | none => 0xFF) abandoned r b
      (if abandoned then b else match r with | some x => b.update x | none => b)
  (recs.zipIdx.map fun (r, i) => (base + i * 256, one i (some r))) ++ [(base + n * 256, one unboundSite none)]

/-- A row that waits for the sampler (R172, R175): its site, the step that counts it, the output row as written, the reference operands. -/
structure SpoonJob where
  site : Nat
  y : List F32
  x : List F32
  w : List (List F32)
  deriving DecidableEq, Repr, Inhabited

/-- The bin of a waiting row (R173, R174). -/
def SpoonJob.bin (j : SpoonJob) : Nat := spoonBin j.y (spoonRef j.x j.w j.y.length)

end Sys2Proof.Machine
end

