-- ==== Sys2Proof/Machine/FabBlock.lean ====
section
/-! DEFINITION. Tiles, slots, edges, the mesh and the TIL registers (R24 to R26, R102 to R132). -/

namespace Sys2Proof.Machine

/-- What a slot holds (R107); READY is IDLE with every condition of R108. -/
inductive SlotSt where
  | empty | loading | idle | running | stopped
  deriving DecidableEq, Repr, Inhabited

def SlotSt.code : SlotSt → Nat
  | .empty => 0 | .loading => 1 | .idle => 2 | .running => 4 | .stopped => 5

/-- A descriptor slot (R107 to R118). -/
structure Slot where
  st : SlotSt := .empty
  /-- record index of its descriptor in the active image -/
  desc : Nat := 0
  /-- the 64 bytes of the descriptor loaded, which stay when the image is lost (R131, R537) -/
  raw : List Byte := []
  /-- firings counted in the present micro-batch (R112) -/
  count : Nat := 0
  /-- micro-batches of the step it has completed (R243) -/
  done : Nat := 0
  /-- a TAKE grant is held -/
  taken : Bool := false
  /-- a TAKE is outstanding (R118) -/
  waiting : Bool := false
  deriving DecidableEq, Repr, Inhabited

/-- An edge's counters at its two ends (R60, R110, R124). -/
structure EdgeSt where
  tokens : Nat := 0
  credits : Nat := 0
  /-- consumer's next read place, producer's next write place, the place the consumer expects a token in -/
  rd : Nat := 0
  wr : Nat := 0
  expect : Nat := 0
  /-- flit indices arrived, by place -/
  arrived : Sparse (List Nat) := []
  /-- places whose block is marked poisoned (R124) -/
  bad : List Nat := []
  /-- credits queued for the control lane (R125) -/
  queued : Nat := 0
  deriving DecidableEq, Repr, Inhabited

/-- What a flit carries (R120, R121): image traffic, or a device write of a swapped-slot load, which brings a preload block or the descriptor. -/
inductive FlitUse where
  | data | preload | descriptor
  deriving DecidableEq, Repr, Inhabited

/-- A data flit (R121): header fields and payload. A device write names its edge and place as image traffic does, and a descriptor its slot in
the edge field (log entry 111). -/
structure Flit where
  edge : Nat
  place : Nat
  index : Nat
  dst : Nat
  vc : Nat
  yFirst : Bool
  /-- the last flit of its block -/
  last : Bool
  poison : Bool
  bytes : List Byte
  use : FlitUse := .data
  /-- payload words with a double-bit error, which the ejection delivers poisoned (R123) -/
  words : List (BitVec 4) := []
  deriving DecidableEq, Repr, Inhabited

/-- KIND of R121. -/
def Flit.kind (f : Flit) : Nat := if f.use ≠ .data then 2 else if f.last then 1 else 0

/-- The block a flit belongs to, as an output port holds a VC for it (R127): edge and place, or for a descriptor its slot, past every edge id. -/
def Flit.block (f : Flit) : Nat × Nat := if f.use = .descriptor then (2 ^ 20 + 16 * f.dst + f.edge, 0) else (f.edge, f.place)

/-- CHK of R121: bit i is the XOR of the bits of [59:0] whose index is i modulo 4. -/
def hdrChk (v : Nat) : Nat := ((List.range 15).map fun k => v / 16 ^ k % 16).foldl (fun a b => a ^^^ b) 0

/-- The 64-bit header of a flit (R121). -/
def Flit.header (f : Flit) : Nat :=
  let v := f.kind + (if f.yFirst then 4 else 0) + f.vc * 2 ^ 3 + f.dst * 2 ^ 6 + f.edge * 2 ^ 18
    + f.place * 2 ^ 38 + f.index * 2 ^ 44 + (if f.poison then 2 ^ 57 else 0)
  v + hdrChk v * 2 ^ 60

/-- A credit message on the control lane (R122). -/
structure CtlMsg where
  edge : Nat
  count : Nat
  src : Nat
  dst : Nat
  yFirst : Bool
  deriving DecidableEq, Repr, Inhabited

/-- The 64-bit control message (R122). -/
def CtlMsg.word (m : CtlMsg) : Nat :=
  let v := 1 + (if m.yFirst then 4 else 0) + m.dst * 2 ^ 3 + m.src * 2 ^ 11 + m.edge * 2 ^ 19 + m.count * 2 ^ 39
  v + hdrChk v * 2 ^ 60

/-- An output block of a firing: its place, and how many of its flits have left the tile (R110). -/
structure OutBlk where
  edge : Nat
  place : Nat
  bytes : List Byte
  sent : Nat := 0
  deriving DecidableEq, Repr, Inhabited

/-- The weight registers and checksum cells of a tile's array, or of both arrays of a pair, kept at its lead, the lead's first (R85, R86, R90). -/
structure ArrayRegs where
  active : List Bank := []
  shadow : List Bank := []
  /-- the slot whose product streams -/
  streaming : Option Nat := none
  /-- slots whose products wait their turn, with the blocks they load; the first's lie in the shadow registers -/
  waiting : List (Nat × List Bank) := []
  /-- what column 128 of each column gave for the last row of the last product, by stage, and its magnitude sum -/
  checks : List (List Fl × F32) := []
  deriving DecidableEq, Repr, Inhabited

/-- Where a firing stands: waiting for memory data, for its verdict, or for its last flits or writes. -/
inductive Phase where
  | data | verdict | send
  deriving DecidableEq, Repr, Inhabited

/-- A firing in progress (R110). -/
structure Firing where
  tile : Nat
  slot : Nat
  desc : Nat
  /-- micro-batch, firing number within it, and q of R238 -/
  mb : Nat
  num : Nat
  q : Nat
  phase : Phase
  /-- the repeat of R113 is running -/
  again : Bool := false
  /-- verdicts that an injected fault fails (R542) -/
  forced : Nat := 0
  injected : Bool := false
  /-- the injection names the partner of the pair -/
  injPartner : Bool := false
  /-- the check that failed in the present attempt, and in the first attempt of a repeated firing (R200 to R207) -/
  fail : Option CheckFail := none
  first : Option CheckFail := none
  /-- input edges whose places are freed (R111) -/
  freed : List Nat := []
  outs : List OutBlk := []
  counts0 : Counts := {}
  counts1 : Counts := {}
  reads : Counts := {}
  /-- reserved W2 codes read outside an array load, by the site of the tensor read (R138) -/
  w2s : List (Nat × Nat) := []
  /-- reserved W2 codes loaded, stall ticks and busy ticks of one attempt (R93, R131) -/
  w2 : Nat := 0
  stalls : Nat := 0
  busy : Nat := 0
  accLong : Bool := false
  spoon : List SpoonJob := []
  /-- bytes to write in tile SRAM at the end (R98), or the block of a MEM_STORE -/
  sram : List (Nat × List Byte) := []
  deriving DecidableEq, Repr, Inhabited

/-- What R127 keeps for one output port and VC: the block it is allocated to, and the input port granted last. -/
structure VcOut where
  held : Option (Nat × Nat × Nat) := none
  last : Nat := 4
  deriving DecidableEq, Repr, Inhabited

/-- Dropped flits and messages, and poisoned words, of a port (R131). -/
structure PortErr where
  dropped : BitVec 16 := 0
  poisoned : BitVec 16 := 0
  deriving DecidableEq, Repr, Inhabited

/-- The registers of a tile window (R131). -/
structure TileRegs where
  halt : Bool := false
  abftOffSeen : Bool := false
  placeMismatch : Bool := false
  hdrChk : Bool := false
  poisonIn : Bool := false
  sramUe : Bool := false
  sramCe : Bool := false
  cksumFail : Bool := false
  cksumRetry : Bool := false
  accLong : Bool := false
  fails : BitVec 16 := 0
  retries : BitVec 16 := 0
  ecc : EccCnt := {}
  abftOff : W32 := 0
  w2Rsv : W32 := 0
  escStall : W32 := 0
  busy : W64 := 0
  edgeSel : BitVec 20 := 0
  port : Sparse PortErr := []
  deriving DecidableEq, Repr, Inhabited

/-- The fabric: slots, edges, firings, hop buffers and tile registers. -/
structure Fab where
  /-- by 16·tile + slot -/
  slots : Sparse Slot := []
  /-- by edge id -/
  edges : Sparse EdgeSt := []
  /-- q of R238 by descriptor record, and its value at the start of the step (R532) -/
  q : Sparse Nat := []
  qStart : Sparse Nat := []
  firings : List Firing := []
  arrays : Sparse ArrayRegs := []
  /-- slots that are ready, as (tile, slot), in the order in which they last became so (R109) -/
  readyLog : List (Nat × Nat) := []
  /-- hop buffers by ((tile·4 + port)·8 + vc), oldest first (R126) -/
  bufs : Sparse (List Flit) := []
  /-- the control lane's buffers by 5·tile + port, oldest first; at port 4 the tile's own messages, one for an edge (R119, R125, R126) -/
  ctl : Sparse (List CtlMsg) := []
  /-- hop credits taken, by ((tile·4 + output port)·9 + lane): lanes 0 to 7 the VCs, 8 the control lane (R119, R126) -/
  hops : Sparse Nat := []
  /-- allocation by ((tile·5 + output port)·8 + vc); output port 4 is ejection (R127) -/
  alloc : Sparse VcOut := []
  /-- VC served last, and input port the control lane served last, by 5·tile + output port -/
  vcLast : Sparse Nat := []
  ctlLast : Sparse Nat := []
  /-- device writes that wait to enter the mesh, by the tile they enter at (R120) -/
  device : Sparse (List Flit) := []
  /-- device writes under way to a slot that loads, by 16·tile + slot (R56) -/
  loads : Sparse Nat := []
  tiles : Sparse TileRegs := []
  /-- fences of R33 in force -/
  fenced : List Nat := []
  /-- the device hold of R115 -/
  hold : Bool := false
  /-- rows waiting for the sampler, by tile (R175) -/
  spoon : Sparse (List SpoonJob) := []
  /-- injected faults that wait, as (tile, kind) (R542) -/
  inject : List (Nat × Nat) := []
  /-- tile each stem engine served last (R231) -/
  stem : Sparse Nat := []
  deriving DecidableEq, Repr, Inhabited

/-- Global coordinates of a tile (R24). -/
def tileXY (t : Nat) : Nat × Nat :=
  let d := t / 64
  (d % 2 * 8 + t % 8, d / 2 * 8 + t % 64 / 8)

/-- Tile at global coordinates. -/
def tileAt (x y : Nat) : Nat := (y / 8 * 2 + x / 8) * 64 + y % 8 * 8 + x % 8

/-- The tile port a tile's port faces: 0 N, 1 E, 2 S, 3 W (R24, R131). -/
def neighbour (t port : Nat) : Option Nat :=
  let p := tileXY t
  match port with
  | 0 => if p.2 = 0 then none else some (tileAt p.1 (p.2 - 1))
  | 1 => if p.1 = 15 then none else some (tileAt (p.1 + 1) p.2)
  | 2 => if p.2 = 15 then none else some (tileAt p.1 (p.2 + 1))
  | 3 => if p.1 = 0 then none else some (tileAt (p.1 - 1) p.2)
  | _ => none

/-- The port that faces a port. -/
def facing (port : Nat) : Nat := (port + 2) % 4

/-- Output port of a flit at a tile by dimension order; 4 at its destination (R57, R58). -/
def nextPort (t dst : Nat) (yFirst : Bool) : Nat :=
  let a := tileXY t
  let b := tileXY dst
  let xp := if a.1 < b.1 then 1 else 3
  let yp := if a.2 < b.2 then 2 else 0
  if a = b then 4
  else if yFirst then (if a.2 ≠ b.2 then yp else xp)
  else (if a.1 ≠ b.1 then xp else yp)

/-- Buffer depth of the hop between two tiles (R126). -/
def hopDepth (a b : Nat) : Nat := if a / 64 = b / 64 then 4 else 16

def Fab.slot (f : Fab) (t s : Nat) : Slot := f.slots.at (16 * t + s)
def Fab.setSlot (f : Fab) (t s : Nat) (x : Slot) : Fab := { f with slots := f.slots.put (16 * t + s) x }
def Fab.edge (f : Fab) (e : Nat) : EdgeSt := f.edges.at e
def Fab.setEdge (f : Fab) (e : Nat) (x : EdgeSt) : Fab := { f with edges := f.edges.put e x }
def Fab.modTile (f : Fab) (t : Nat) (g : TileRegs → TileRegs) : Fab := { f with tiles := f.tiles.mod t g }
def Fab.modPort (f : Fab) (t p : Nat) (g : PortErr → PortErr) : Fab := f.modTile t fun r => { r with port := r.port.mod p g }
def Fab.firing? (f : Fab) (t s : Nat) : Option Firing := f.firings.find? fun x => x.tile == t && x.slot == s
def Fab.setFiring (f : Fab) (x : Firing) : Fab :=
  { f with firings := f.firings.map fun y => if y.tile == x.tile && y.slot == x.slot then x else y }
def Fab.dropFiring (f : Fab) (t s : Nat) : Fab := { f with firings := f.firings.filter fun y => !(y.tile == t && y.slot == s) }
def Fab.array (f : Fab) (t : Nat) : ArrayRegs := f.arrays.at t
/-- No firing is left: arrays stream nothing (R80, R532). -/
def Fab.noFirings (f : Fab) : Fab :=
  { f with firings := [], arrays := Sparse.mapVals (fun _ a => { a with streaming := none, waiting := [] }) f.arrays }
/-- Nothing is left in the mesh: buffers, allocations and turns as after reset. -/
def Fab.noTraffic (f : Fab) : Fab :=
  { f with bufs := [], ctl := [], hops := [], alloc := [], vcLast := [], ctlLast := [], device := [], loads := [] }
/-- Slots and edges are cleared with all firings and traffic (R80 step 1). -/
def Fab.cleared (f : Fab) : Fab := { f.noFirings.noTraffic with slots := [], edges := [], readyLog := [] }

/-! The array's turns (R86, R108, R109) -/

/-- The streaming product's last row has entered: the banks exchange roles and the next product streams (R86). -/
def ArrayRegs.streamed (a : ArrayRegs) : ArrayRegs :=
  match a.waiting with
  | [] => { a with streaming := none }
  | (k, _) :: r =>
    { a with streaming := some k, waiting := r, active := a.shadow
             shadow := match r with | [] => a.active | (_, bs) :: _ => bs }

/-- A product's blocks are loaded into the shadow registers, and it streams once no product does (R87, R109). -/
def ArrayRegs.accept (a : ArrayRegs) (k : Nat) (bs : List Bank) : ArrayRegs :=
  let b := { a with waiting := a.waiting ++ [(k, bs)], shadow := if a.waiting.isEmpty then bs else a.shadow }
  if a.streaming.isNone then b.streamed else b

/-- Whether the product of a slot streams or waits to. -/
def ArrayRegs.holds (a : ArrayRegs) (k : Nat) : Bool := a.streaming == some k || a.waiting.any fun w => w.1 == k

/-- The product of a slot has streamed, and every product before it. -/
def ArrayRegs.past (a : ArrayRegs) (k : Nat) : ArrayRegs :=
  (List.range (a.waiting.length + 1)).foldl (fun a _ => if a.holds k then a.streamed else a) a

/-- Whether the array can accept a firing: no product streams, or the shadow registers are free (R108). -/
def ArrayRegs.free (a : ArrayRegs) : Bool := a.streaming.isNone || a.waiting.isEmpty

def Fab.modArray (f : Fab) (t : Nat) (g : ArrayRegs → ArrayRegs) : Fab := { f with arrays := f.arrays.put t (g (f.array t)) }

/-- A slot stops: its firing is gone, its product leaves the array (R113, R114). -/
def Fab.stopSlot (f : Fab) (t s : Nat) : Fab :=
  ((f.dropFiring t s).setSlot t s { f.slot t s with st := .stopped }).modArray t fun a => if a.holds s then a.past s else a

/-- Whether new firings of a tile are held (R108, R115, R33). -/
def Fab.held (f : Fab) (t : Nat) : Bool := f.hold || (f.tiles.at t).halt || f.fenced.contains t

/-- Take one waiting injection of a kind on a tile (R542). -/
def Fab.takeInject (f : Fab) (t k : Nat) : Option Fab :=
  if f.inject.contains (t, k) then some { f with inject := f.inject.erase (t, k) } else none

/-- Payload of flit i of a block: the last one may be half full (R121). -/
def flitBytes (bs : List Byte) (i : Nat) : List Byte := (bs.drop (128 * i)).take 128
/-- Flits of a block (R124). -/
def flitCount (blockBytes : Nat) : Nat := (blockBytes + 127) / 128

/-- The next flit a firing's output block has ready to leave; the token flit is held until the verdict (R113). -/
def Firing.nextFlit (im : Image) (x : Firing) (b : OutBlk) : Option Flit :=
  match im.edge? b.edge with
  | none => none
  | some e =>
    let n := flitCount e.blockBytes
    if e.prodTile = e.consTile || n ≤ b.sent || x.phase == .data || (x.phase == .verdict && b.sent + 1 == n) then none else
    let r := im.routes.getD e.dataRoute default
    some { edge := b.edge, place := b.place, index := b.sent, dst := e.consTile, vc := r.vc, yFirst := r.yFirst
           last := b.sent + 1 == n, poison := false, bytes := flitBytes b.bytes b.sent }

/-- Whether every flit of a firing's blocks has left the tile (R110). -/
def Firing.allSent (im : Image) (x : Firing) : Bool :=
  x.phase == .send && x.outs.all fun b =>
    let e := (im.edge? b.edge).getD default
    e.prodTile == e.consTile || b.sent == flitCount e.blockBytes

/-- The flits a tile's own firings offer its router. DESIGN CHOICE: of several blocks that wait for the same output and VC the firing that
started first goes first (log entry 112). -/
def Fab.localFlits (im : Image) (f : Fab) (t : Nat) : List (Firing × OutBlk × Flit) :=
  (f.firings.filter fun x => x.tile == t).flatMap fun x => x.outs.filterMap fun b => (x.nextFlit im b).map fun fl => (x, b, fl)

/-- What input port p of a tile offers an output port on a VC, given the block that holds the VC; port 4 is the local one (R127). -/
def Fab.offer (im : Image) (f : Fab) (t out vc p : Nat) (held : Option (Nat × Nat)) : Option Flit :=
  let fits := fun (fl : Flit) => fl.vc == vc && nextPort t fl.dst fl.yFirst == out
    && (match held with | some h => h == fl.block | none => true)
  if p = 4 then (((f.device.at t).head?.toList ++ (f.localFlits im t).map fun x => x.2.2)).find? fits
  else (f.bufs.at ((t * 4 + p) * 8 + vc)).head?.filter fits

/-- Numbers 0 to n − 1 in round-robin order after `last`. -/
def roundRobin (n last : Nat) : List Nat := (List.range n).map fun i => (last + 1 + i) % n

/-- The flit an output port would send on a VC, with its input port (R127). -/
def Fab.choose (im : Image) (f : Fab) (t out vc : Nat) : Option (Nat × Flit) :=
  let a := f.alloc.at ((t * 5 + out) * 8 + vc)
  match a.held with
  | some (p, e, pl) => (f.offer im t out vc p (some (e, pl))).map fun fl => (p, fl)
  | none => (roundRobin 5 a.last).findSome? fun p => (f.offer im t out vc p none).map fun fl => (p, fl)

/-- Where an output port's hop credits of a lane are counted. -/
def hopKey (t out lane : Nat) : Nat := (t * 4 + out) * 9 + lane

/-- Whether an output port holds a hop credit of a lane (R126); ejection needs none (R59, R97). -/
def Fab.room (f : Fab) (t out lane : Nat) : Bool :=
  if out = 4 then true else
  match neighbour t out with
  | none => false
  | some n => decide (f.hops.at (hopKey t out lane) < hopDepth t n)

/-- A hop credit is taken at an output port, or comes back on its wire for an entry that left input port p of a tile (R119, R126). -/
def Fab.takeHop (f : Fab) (t out lane : Nat) : Fab := if out = 4 then f else { f with hops := f.hops.mod (hopKey t out lane) (· + 1) }
def Fab.returnHop (f : Fab) (t p lane : Nat) : Fab :=
  if p = 4 then f else
  match neighbour t p with
  | some n => { f with hops := f.hops.mod (hopKey n (facing p) lane) (· - 1) }
  | none => f

/-- The flit an output port sends in a tick (R127): round-robin over VCs 0 to 5 that have a flit and a hop credit; VC 6 only when none of
them can send, or first when it has waited 64 ticks. After reset the turns start at VC 0 and at input port N (log entry 112). -/
def Fab.arbitrate (im : Image) (f : Fab) (t out : Nat) (aged : Bool) : Option (Nat × Flit) :=
  let get := fun (vc : Nat) => if f.room t out vc then f.choose im t out vc else none
  let image := (roundRobin 6 (Sparse.get 5 f.vcLast (5 * t + out))).findSome? get
  if aged then (get 6).or image else image.or (get 6)

/-- The write place of an edge advances once its block is sent (R110). -/
def Fab.advanceWrite (im : Image) (f : Fab) (e : Nat) : Fab :=
  let x := f.edge e
  f.setEdge e { x with wr := (x.wr + 1) % max ((im.edge? e).getD default).capacity 1 }

/-- The flit leaves its input, and the output port's allocation and turns follow (R127); hop credits move (R126), and with the last flit of a
block from its producer the write place advances (R110). -/
def Fab.depart (im : Image) (f : Fab) (t out p : Nat) (fl : Flit) : Fab :=
  let k := (t * 5 + out) * 8 + fl.vc
  let f := { f with alloc := f.alloc.put k { held := if fl.last then none else some (p, fl.block), last := p }
                    vcLast := if fl.vc = 6 then f.vcLast else Sparse.set 5 f.vcLast (5 * t + out) fl.vc }
  let f := (f.takeHop t out fl.vc).returnHop t p fl.vc
  if p = 4 then
    if fl.use ≠ .data then { f with device := f.device.mod t fun l => l.drop 1 } else
    let f := { f with firings := f.firings.map fun x => if x.tile == t then
        { x with outs := x.outs.map fun b => if b.edge == fl.edge && b.place == fl.place then { b with sent := b.sent + 1 } else b } else x }
    if fl.last then f.advanceWrite im fl.edge else f
  else { f with bufs := f.bufs.mod ((t * 4 + p) * 8 + fl.vc) fun l => l.drop 1 }

/-- What an input offers an output of the control lane: the head of a port's buffer; at the local port the tile's first message for that output,
with the credits that have joined it while the output was busy (R125). -/
def Fab.offerCtl (f : Fab) (t out p : Nat) : Option CtlMsg :=
  let fits := fun (m : CtlMsg) => nextPort t m.dst m.yFirst == out
  if p = 4 then ((f.ctl.at (5 * t + 4)).find? fits).map fun m => { m with count := min 64 (m.count + (f.edge m.edge).queued) }
  else (f.ctl.at (5 * t + p)).head?.filter fits

/-- The control message an output port sends, with the input port it comes from (R119, R127); the turns are those of the data lane (log entry 112). -/
def Fab.chooseCtl (f : Fab) (t out : Nat) : Option (Nat × CtlMsg) :=
  if !f.room t out 8 then none else
  (roundRobin 5 (Sparse.get 4 f.ctlLast (5 * t + out))).findSome? fun p => (f.offerCtl t out p).map fun m => (p, m)

/-- The control message leaves its input (R125, R126): the tile's own takes along the credits that had joined it. -/
def Fab.departCtl (f : Fab) (t out p : Nat) (m : CtlMsg) : Fab :=
  let l := f.ctl.at (5 * t + p)
  let f := if p ≠ 4 then { f with ctl := f.ctl.put (5 * t + p) (l.drop 1) } else
    let had := ((l.find? fun x => x.edge == m.edge).map (·.count)).getD m.count
    { f.setEdge m.edge { f.edge m.edge with queued := (f.edge m.edge).queued - (m.count - had) } with
      ctl := f.ctl.put (5 * t + 4) (l.eraseP fun x => x.edge == m.edge) }
  (({ f with ctlLast := Sparse.set 4 f.ctlLast (5 * t + out) p }).takeHop t out 8).returnHop t p 8

/-- One credit for an edge: at once when producer and consumer share a tile, else queued (R111, R125). -/
def Fab.credit (im : Image) (f : Fab) (e : Nat) (n : Nat) : Fab :=
  let x := f.edge e
  match im.edge? e with
  | some r => f.setEdge e (if r.prodTile = r.consTile then { x with credits := x.credits + n } else { x with queued := x.queued + n })
  | none => f

/-- An input place is freed and its credit queued (R111). -/
def Fab.freeInput (im : Image) (f : Fab) (e : Nat) : Fab :=
  let x := f.edge e
  (f.setEdge e { x with tokens := x.tokens - 1 }).credit im e 1

/-- The read place of an input edge advances after the firing (R110). -/
def Fab.advanceRead (im : Image) (f : Fab) (e : Nat) : Fab :=
  let x := f.edge e
  f.setEdge e { x with rd := (x.rd + 1) % max ((im.edge? e).getD default).capacity 1 }

/-- The input places of a firing not freed before are freed (R111). -/
def Fab.freeInputs (im : Image) (f : Fab) (d : Desc) (freed : List Nat) : Fab :=
  (d.inEdges.filter fun e => !freed.contains e).foldl (Fab.freeInput im) f

/-- The expected place of an edge becomes a token; a place that failed its check is marked (R124). -/
def Fab.token (im : Image) (f : Fab) (e : Nat) (ok : Bool) : Fab :=
  let x := f.edge e
  let cap := ((im.edge? e).getD default).capacity
  f.setEdge e { x with tokens := x.tokens + 1, expect := (x.expect + 1) % max cap 1
                       arrived := x.arrived.put x.expect [], bad := if ok then x.bad else x.bad ++ [x.expect] }

/-- Counters of an edge after the load of an image (R60, R80, R110). -/
def edgeReset (e : EdgeRec) : EdgeSt :=
  { tokens := e.initTokens, credits := e.initCredits, wr := e.initTokens % max e.capacity 1, expect := e.initTokens % max e.capacity 1 }

/-- Buffer bytes of an edge's place: offset in the consumer's SRAM (R121). -/
def EdgeRec.placeOff (e : EdgeRec) (place : Nat) : Nat := e.bufBase + place * e.blockBytes

/-- Place in memory of a byte of a tile's SRAM as its descriptors see it; bit 22 selects the partner (R96). -/
def Image.sramPlace' (im : Image) (t off : Nat) : Nat :=
  if off < 2 ^ 22 then tilePlace t off else tilePlace ((im.partner? t).getD t) (off - 2 ^ 22)

/-- The code TIL_SLOT_STATE shows (R107). -/
def Fab.slotWord (f : Fab) (ready : Nat → Bool) (t lo : Nat) : W32 :=
  BitVec.ofNat 32 (((List.range 8).map fun i =>
    let s := f.slot t (lo + i)
    (if s.st == .idle && ready (lo + i) then 3 else s.st.code) * 16 ^ i).foldl (· + ·) 0)

/-- A write to a TIL register (R131). -/
def TileRegs.writeReg (r : TileRegs) (off : Nat) (v : W32) : TileRegs :=
  match off with
  | 0x04 => { r with halt := bit v 0 }
  | 0x08 => { r with abftOffSeen := w1c r.abftOffSeen v 8, placeMismatch := w1c r.placeMismatch v 7, hdrChk := w1c r.hdrChk v 6
                     poisonIn := w1c r.poisonIn v 5, sramUe := w1c r.sramUe v 4, sramCe := w1c r.sramCe v 3
                     cksumFail := w1c r.cksumFail v 2, cksumRetry := w1c r.cksumRetry v 1, accLong := w1c r.accLong v 0 }
  | 0x30 => { r with edgeSel := BitVec.ofNat 20 (fld v 19 0) }
  | _ => r

/-- TIL_STATUS of a tile (R131). -/
def Fab.status (f : Fab) (t : Nat) (paired : Bool) : W32 :=
  let r := f.tiles.at t
  flag 11 paired + flag 10 (f.fenced.contains t) + flag 9 ((r.halt || f.hold) && !f.firings.any fun x => x.tile == t)
    + flag 8 r.abftOffSeen + flag 7 r.placeMismatch + flag 6 r.hdrChk + flag 5 r.poisonIn + flag 4 r.sramUe + flag 3 r.sramCe
    + flag 2 r.cksumFail + flag 1 r.cksumRetry + flag 0 r.accLong

/-- TIL_EDGE_STATE of a tile (R131); `pl` is the active placement. -/
def Fab.edgeWord (im : Image) (f : Fab) (t pl : Nat) : W32 :=
  let e := (f.tiles.at t).edgeSel.toNat
  match im.edge? e with
  | some r =>
    let x := f.edge e
    let prod := r.prodTile == t
    let cons := r.consTile == t
    if r.placement = pl && (prod || cons) then
      flag 31 true + flag 30 prod + flag 29 cons + at' 20 (if cons then x.tokens else 0) + at' 13 (if prod then x.credits else 0)
        + at' 7 x.rd + at' 1 x.wr
    else 0
  | none => 0

/-- What a TIL register reads as (R130, R131). -/
def Fab.readReg (im : Option Image) (f : Fab) (ready : Nat → Bool) (t pl off : Nat) : W32 :=
  let r := f.tiles.at t
  let lead := match im with | some i => i.isLead t | none => false
  let part := match im with | some i => i.isPartner t | none => false
  if off = 0x00 then at' 24 (if lead then 1 else if part then 2 else 0) + at' 20 (t / 64 * 4 + t % 64 / 32 * 2 + t % 8 / 4)
    + at' 14 (t / 64) + at' 11 (t % 64 / 8) + at' 8 (t % 8) + at' 0 t
  else if off = 0x04 then flag 0 r.halt
  else if off = 0x08 then f.status t (lead || part)
  else if off = 0x0C then f.slotWord ready t 0
  else if off = 0x10 then f.slotWord ready t 8
  else if off = 0x14 then at' 16 r.fails.toNat + at' 0 r.retries.toNat
  else if off = 0x18 then r.ecc.word
  else if off = 0x1C then r.abftOff
  else if off = 0x20 then r.w2Rsv
  else if off = 0x24 then r.escStall
  else if off = 0x28 then loW r.busy.toNat
  else if off = 0x2C then hiW r.busy.toNat
  else if off = 0x30 then at' 0 r.edgeSel.toNat
  else if off = 0x34 then (match im with | some i => f.edgeWord i t pl | none => 0)
  else if 0x100 ≤ off && off < 0x110 && off % 4 = 0 then
    let p := r.port.at ((off - 0x100) / 4)
    at' 16 p.poisoned.toNat + at' 0 p.dropped.toNat
  else if 0x1000 ≤ off && off < 0x1400 && off % 4 = 0 then
    let s := f.slot t ((off - 0x1000) / 64)
    if s.st == .empty then 0 else BitVec.ofNat 32 (fieldAt s.raw ((off - 0x1000) % 64) 4)
  else 0

end Sys2Proof.Machine
end

