-- ==== Sys2Proof/Machine/StepBlock.lean ====
section
/-! DEFINITION. Micro-batches of a step: frames, placement choice, the stash plan, restores, and the stash registers (R54, R242 to R272). -/

namespace Sys2Proof.Machine

/-- An admitted micro-batch (R243, R256, R259). -/
structure Frame where
  mb : Nat
  placement : Nat
  /-- micro-batch number since the image was applied, by which its row sets are freed (R431) -/
  inMb : Nat := 0
  hbm : Nat := 0
  ddr : Nat := 0
  /-- physical page + 1 of each stored logical page: stash region pages first, then overflow pages -/
  pages : Sparse Nat := []
  dropped : List Nat := []
  released : Bool := false
  deriving DecidableEq, Repr, Inhabited

/-- The step's admission, the stash allocator and its registers. -/
structure Adm where
  /-- a step has started and not ended -/
  running : Bool := false
  /-- read at the start of the step (R246, R259, R286, R289) -/
  depth : Nat := 2
  force : Option Nat := none
  lossExp : Int := 0
  lrScale : F32 := 0x3F800000#32
  frames : List Frame := []
  restores : List (Nat × Nat) := []
  area : Option (Nat × Nat) := none
  /-- frames of its placement whose signals a layer has passed (R257) -/
  passed : Sparse Nat := []
  /-- a plan has failed: no further admission (R266) -/
  refused : Bool := false
  parkWait : Bool := false
  /-- the plan of the next micro-batch has been made and counted (R271) -/
  planned : Bool := false
  /-- the host has acted on a stash or trigger object in this step, whose stash, restores and results are then undefined (R270) -/
  disturbed : Bool := false
  /-- generations are bound (R268), and released by the retirement object (R298) -/
  bound : Bool := false
  /-- the TAKE on the backlog object: none while not issued, else whether it has been granted (R295) -/
  backlog : Option Bool := none
  retired : Bool := false
  /-- an update of the step has started (R304, R531) -/
  updStarted : Bool := false
  cfgDepth : BitVec 5 := 2
  exhausted : Bool := false
  droppedFlag : Bool := false
  spilled : Bool := false
  spillCnt : W32 := 0
  dropCnt : W32 := 0
  exhMb : BitVec 16 := 0
  exhPlacement : BitVec 4 := 0
  exhStep : W32 := 0
  exhNeed : BitVec 26 := 0
  exhFree : BitVec 26 := 0
  deriving DecidableEq, Repr, Inhabited

/-- select of R54. -/
def Image.select (im : Image) (counts : List Nat) : Nat :=
  (indexOf (fun (p : Placement) => (List.range im.branchCount).all fun b =>
    let w := p.windows.getD b (0, 0)
    decide (w.1 ≤ counts.getD b 0) && decide (counts.getD b 0 ≤ w.2)) im.placements).getD 0

/-- Placement of a micro-batch, and whether a forced value was invalid (R246). -/
def Adm.choose (im : Image) (a : Adm) (counts : List Nat) : Nat × Bool :=
  match a.force with
  | some p => if p < im.placements.length then (p, false) else (0, true)
  | none => (im.select counts, false)

/-- Sum of a list. -/
def sumN (l : List Nat) : Nat := l.foldl (· + ·) 0

/-- Layers dropped until what is left fits, and the pages left to store (R259). -/
def dropLayers (im : Image) (free : Nat) : List Nat → Nat → List Nat → List Nat × Nat
  | [], stored, acc => (acc, stored)
  | l :: r, stored, acc =>
    if stored ≤ free then (acc, stored) else dropLayers im free r (stored - im.layerPageCount l) (acc ++ [l])

/-- What the plan of R259 gives: the frame, or the pages needed and free and the layers dropped where it fails (R266). -/
inductive Plan where
  | wait
  | fail (need free : Nat) (dropped : List Nat)
  | ok (f : Frame)
  deriving DecidableEq, Repr, Inhabited

/-- Physical pages in use by live frames. -/
def Adm.usedPages (a : Adm) : List Nat := (a.frames.filter fun f => !f.released).flatMap fun f => f.pages.map fun p => p.2 - 1

/-- plan(m, p) of R259. -/
def Adm.plan (im : Image) (a : Adm) (p inMb : Nat) : Plan :=
  let m := a.frames.length
  let d := max 1 a.depth
  if d ≤ m && !(a.frames.getD (m - d) default).released then .wait else
  let ledger := a.frames.drop (m + 1 - d)
  let hbmFree := im.framePages - sumN (ledger.map (·.hbm))
  let ddrFree := im.overflowPages - sumN (ledger.map (·.ddr))
  let (dropped, stored) := dropLayers im (hbmFree + ddrFree) (im.eligibleOf p) (im.need p) []
  if hbmFree + ddrFree < stored then .fail stored (hbmFree + ddrFree) dropped else
  let hbm := min stored hbmFree
  let logical := ((im.stashLayers p).reverse.filter fun l => !dropped.contains l).flatMap fun l => (im.layerPages l).mergeSort (· ≤ ·)
  let used := a.usedPages
  let fresh := fun (lo n : Nat) (k : Nat) => (((List.range n).map (· + lo)).filter fun x => !used.contains x).take k
  let phys := fresh 0 im.framePages hbm ++ fresh im.stashPages im.overflowPages (stored - hbm)
  .ok { mb := m, placement := p, inMb := inMb, hbm := hbm, ddr := stored - hbm, dropped := dropped
        pages := (logical.zip phys).foldl (fun t x => t.put x.1 (x.2 + 1)) [] }

/-- The restore queue in ascending frame order, and within a frame in descending layer id (R264). -/
def Adm.queueRestores (a : Adm) (f : Frame) : Adm :=
  { a with restores := a.restores ++ (f.dropped.mergeSort fun x y => decide (y ≤ x)).map fun l => (f.mb, l) }

/-- A plan is made, once for each micro-batch: its flags and counts, also of a plan that drops layers and then fails (R259, R271). -/
def Adm.notePlan (a : Adm) (spills : Bool) (dropped : Nat) : Adm :=
  if a.planned then a else
  { a with planned := true, spilled := a.spilled || spills, spillCnt := if spills then satAdd a.spillCnt 1 else a.spillCnt
           droppedFlag := a.droppedFlag || decide (0 < dropped), dropCnt := satAdd a.dropCnt dropped }

/-- A planned frame is admitted (R259). -/
def Adm.admitMb (a : Adm) (f : Frame) : Adm :=
  { a.queueRestores f with frames := a.frames ++ [f], parkWait := false, planned := false, bound := true }

/-- The registers a failed plan writes (R266). -/
def Adm.exhaust (a : Adm) (p step need free : Nat) : Adm :=
  { a with refused := true, exhausted := true, exhMb := BitVec.ofNat 16 a.frames.length, exhPlacement := BitVec.ofNat 4 p
           exhStep := BitVec.ofNat 32 step, exhNeed := BitVec.ofNat 26 need, exhFree := BitVec.ofNat 26 free }

/-- What remains of the allocator after an abandonment (R266, R532), and its step state after a step's end. -/
def Adm.clear (a : Adm) : Adm :=
  { a with running := false, frames := [], restores := [], area := none, passed := [], refused := false, parkWait := false
           planned := false, disturbed := false, bound := false, retired := false, updStarted := false }

/-- Micro-batches that a slot handles, in order: those whose placement has a descriptor in it (R56, R243). -/
def Adm.slotFrames (im : Image) (a : Adm) (t s : Nat) : List Frame :=
  a.frames.filter fun f => im.descs.any fun d => d.placement == f.placement && d.tile == t && d.slot == s

/-- Micro-batches a descriptor works for, in order (R243, R262). -/
def Adm.work (im : Image) (a : Adm) (i : Nat) : List Nat :=
  match im.chainLayer? i with
  | some l => (a.frames.filter fun f => f.dropped.contains l).map (·.mb)
  | none => (a.frames.filter fun f => f.placement == (im.descAt i).placement).map (·.mb)

/-- How many of them it has completed. -/
def Adm.doneOf (im : Image) (a : Adm) (f : Fab) (i : Nat) : Nat :=
  let d := im.descAt i
  let s := f.slot d.tile d.slot
  if (im.chainLayer? i).isSome || !im.swapped d.tile d.slot then s.done
  else (((a.slotFrames im d.tile d.slot).take s.done).filter fun x => x.placement == d.placement).length

/-- Whether a descriptor has completed micro-batch m. -/
def Adm.completed (im : Image) (a : Adm) (f : Fab) (i m : Nat) : Bool := ((a.work im i).take (a.doneOf im f i)).contains m

/-- Micro-batch of a slot's next firing, once admitted (R108, R243, R262). -/
def Adm.nextMb (im : Image) (a : Adm) (f : Fab) (t s : Nat) : Option Nat :=
  let x := f.slot t s
  if (im.chainLayer? x.desc).isSome then (a.work im x.desc)[x.done]?
  else match (a.slotFrames im t s)[x.done]? with
    | some fr => if fr.placement = (im.descAt x.desc).placement then some fr.mb else none
    | none => none

/-- The descriptor a swapped slot waits for: that of the next micro-batch's placement (R56). -/
def Adm.swapTo (im : Image) (a : Adm) (f : Fab) (t s : Nat) : Option Nat :=
  let x := f.slot t s
  match (a.slotFrames im t s)[x.done]? with
  | some fr =>
    if fr.placement = (im.descAt x.desc).placement && x.st != .empty then none
    else indexOf (fun (d : Desc) => d.placement == fr.placement && d.tile == t && d.slot == s) im.descs
  | none => none

/-- Whether the stash stores of a layer have been written for a frame (R257, R264). -/
def Adm.stored (im : Image) (a : Adm) (f : Fab) (l m : Nat) : Bool := (im.layerStores l).all fun i => a.completed im f i m
/-- Whether its restore stores have. -/
def Adm.restored (im : Image) (a : Adm) (f : Fab) (l m : Nat) : Bool := (im.restores l).all fun i => a.completed im f i m

/-- The frame whose signals a layer may pass next (R257). -/
def Adm.passable (im : Image) (a : Adm) (f : Fab) (l : Nat) : Option Nat :=
  match im.layerPlacement? l with
  | none => none
  | some p =>
    match (a.frames.filter fun x => x.placement == p)[a.passed.at l]? with
    | some x =>
      let ok := if x.dropped.contains l then a.stored im f l x.mb && a.restored im f l x.mb else a.stored im f l x.mb
      if ok then some x.mb else none
    | none => none

/-- The SIGNAL a layer passes for a frame: the sum of its stash stores' signals (R257). -/
def Image.layerSignal (im : Image) (l : Nat) : Nat := sumN ((im.layerStores l).map fun i => (im.descAt i).sigPer)

/-- Whether every stash load of a layer has completed a frame (R258). -/
def Adm.loaded (im : Image) (a : Adm) (f : Fab) (l m : Nat) : Bool := (im.layerLoads l).all fun i => a.completed im f i m

/-- Whether a frame's pages are all freed (R258). -/
def Adm.releasable (im : Image) (a : Adm) (f : Fab) (x : Frame) : Bool :=
  !x.released && (im.stashLayers x.placement).all fun l => a.loaded im f l x.mb

/-- Whether the first queued restore may be served (R264). -/
def Adm.servable (im : Image) (a : Adm) (f : Fab) : Option (Nat × Nat) :=
  match a.area, a.restores with
  | none, (m, l) :: _ =>
    let b := ((im.layer? l).map (·.boundary)).getD 0
    if a.stored im f l m && a.stored im f b m then some (m, l) else none
  | _, _ => none

/-- The restore area is freed once every stash load of the restored layer has completed the frame (R264). -/
def Adm.freeArea (im : Image) (a : Adm) (f : Fab) : Adm :=
  match a.area with
  | some (m, l) => if a.loaded im f l m then { a with area := none } else a
  | none => a

/-- Physical page of a logical page of a frame (R256, R264): restored layers lie in the restore area, page by page. -/
def Adm.page (im : Image) (a : Adm) (m : Nat) (restoring : Option Nat) (page : Nat) : Nat :=
  let fr := (a.frames.find? fun f => f.mb == m).getD default
  let layer := match restoring with
    | some l => some l
    | none => (fr.dropped.find? fun l => (im.layerPages l).contains page)
  match layer with
  | some l => im.framePages + (indexOf (· == page) ((im.layerPages l).mergeSort (· ≤ ·))).getD 0
  | none => fr.pages.at page - 1

/-- MEM_STASH_STATUS (R271). -/
def Adm.status (a : Adm) : W32 :=
  at' 8 (a.frames.filter fun f => !f.released).length + flag 3 a.area.isSome + flag 2 a.exhausted + flag 1 a.droppedFlag + flag 0 a.spilled

/-- A write to a stash register (R271). -/
def Adm.writeReg (a : Adm) (off : Nat) (v : W32) : Adm :=
  match off with
  | 0x400 => if 1 ≤ fld v 4 0 && fld v 4 0 ≤ 16 then { a with cfgDepth := BitVec.ofNat 5 (fld v 4 0) } else a
  | 0x404 => { a with exhausted := w1c a.exhausted v 2, droppedFlag := w1c a.droppedFlag v 1, spilled := w1c a.spilled v 0 }
  | _ => a

/-- What a stash register reads as (R271). -/
def Adm.readReg (im : Option Image) (a : Adm) (off : Nat) : W32 :=
  match off with
  | 0x400 => a.cfgDepth.setWidth 32
  | 0x404 => a.status
  | 0x408 => match im with | some i => BitVec.ofNat 32 i.framePages | none => 0
  | 0x40C => match im with | some i => BitVec.ofNat 32 i.restorePages | none => 0
  | 0x410 => match im with | some i => BitVec.ofNat 32 i.overflowPages | none => 0
  | 0x414 => a.spillCnt
  | 0x418 => a.dropCnt
  | 0x41C => at' 16 a.exhPlacement.toNat + at' 0 a.exhMb.toNat
  | 0x420 => a.exhStep
  | 0x424 => a.exhNeed.setWidth 32
  | 0x428 => a.exhFree.setWidth 32
  | _ => 0

end Sys2Proof.Machine
end

