-- ==== Sys2Proof/Machine/UpdBlock.lean ====
section
/-! DEFINITION. Parameter copies in memory, gradient accumulation, the update rules, generations, export records and the GX_UPD registers (R273 to R305). -/

namespace Sys2Proof.Machine

/-- Place in memory of an offset of a tensor region (R64, R444, R445). -/
def Image.regPlace (im : Image) (r : Region) (o : Nat) : Nat :=
  match r.tier with
  | 0 => im.sramPlace' r.home (r.offset + o)
  | 1 => sramPlace r.home (r.offset + o)
  | 2 => setPlace false r.home (r.offset + o)
  | _ => setPlace true r.home (r.offset + o)

/-- Places of a span of a region. -/
def Image.regPlaces (im : Image) (i o n : Nat) : List Nat :=
  let r := (im.region? i).getD default
  (List.range n).map fun k => im.regPlace r (o + k)

/-- Bytes of a span of a region. -/
def Image.regRead (im : Image) (m : Mem) (i o n : Nat) : List Byte := m.read (im.regPlaces i o n)
/-- Whether a span of a region meets the poison mark (R455). -/
def Image.regPoison (im : Image) (m : Mem) (i o n : Nat) : Bool := (im.regPlaces i o n).any m.poisoned
/-- Bytes written to a span of a region. -/
def Image.regWrite (im : Image) (m : Mem) (i o : Nat) (bs : List Byte) : Mem := m.write ((im.regPlaces i o bs.length).zip bs)

/-- A block's tensor, its block row and column (R282). -/
structure BlockAt where
  ti : Nat
  t : Tensor
  i : Nat
  j : Nat
  deriving DecidableEq, Repr, Inhabited

def Image.block (im : Image) (g : Nat) : BlockAt :=
  match im.locate g with
  | some (ti, b) => { ti := ti, t := im.tensor ti, i := b / (im.tensor ti).pc, j := b % (im.tensor ti).pc }
  | none => default

def BlockAt.rv (b : BlockAt) : Nat := b.t.validRows b.i
def BlockAt.cv (b : BlockAt) : Nat := b.t.validCols b.j
/-- Valid elements of a block in row-major order, in the tensor's logical coordinates (R281, R336). -/
def BlockAt.elems (b : BlockAt) : List (Nat × Nat) :=
  (List.range b.rv).flatMap fun r => (List.range b.cv).map fun c => (128 * b.i + r, 128 * b.j + c)
/-- Element index (R281). -/
def BlockAt.index (b : BlockAt) (rc : Nat × Nat) : Nat := rc.1 * b.t.cols + rc.2
/-- Places of a block's accumulators (R281). -/
def BlockAt.gradPlaces (im : Image) (b : BlockAt) : List Nat :=
  b.elems.flatMap fun rc => im.regPlaces b.t.grad (b.t.gradOff + 2 * b.index rc) 2
/-- Position of an element in a panel of 128 × 128. -/
def BlockAt.pos (rc : Nat × Nat) : Nat := rc.1 % 128 * 128 + rc.2 % 128

/-- The F32 values of a block in an element-ordered array at an offset (R281). -/
def BlockAt.readF32 (im : Image) (m : Mem) (b : BlockAt) (region off : Nat) : List F32 :=
  b.elems.map fun rc => BitVec.ofNat 32 (numOf (im.regRead m region (off + 4 * b.index rc) 4))
/-- Places of those values. -/
def BlockAt.f32Places (im : Image) (b : BlockAt) (region off : Nat) : List Nat := b.elems.flatMap fun rc => im.regPlaces region (off + 4 * b.index rc) 4
/-- The values written, in one access. -/
def BlockAt.writeF32 (im : Image) (m : Mem) (b : BlockAt) (region off : Nat) (xs : List F32) : Mem :=
  m.write ((b.f32Places im region off).zip (xs.flatMap fun x => bytesOf 4 x.toNat))

/-- G16 codes of a block in its gradient buffer (R281). -/
def BlockAt.readG16 (im : Image) (m : Mem) (b : BlockAt) : List Nat :=
  b.elems.map fun rc => numOf (im.regRead m b.t.grad (b.t.gradOff + 2 * b.index rc) 2)

/-- Offset in its region of a block's compute-copy panel of a generation (R281, R296). -/
def BlockAt.copyOff (b : BlockAt) (gen : Nat) : Nat := b.t.copyOff + gen % 2 * b.t.slotBytes + (b.i * b.t.pc + b.j) * b.t.panel
/-- Places of that panel, and its bytes. -/
def BlockAt.copyPlaces (im : Image) (b : BlockAt) (gen : Nat) : List Nat := im.regPlaces b.t.copy (b.copyOff gen) b.t.panel
def BlockAt.readPanel (im : Image) (m : Mem) (b : BlockAt) (gen : Nat) : List Byte := m.read (b.copyPlaces im gen)

/-- Whether an element is frozen (R240, R241). -/
def Image.frozen (im : Image) (b : BlockAt) (rc : Nat × Nat) : Bool :=
  im.upd.freezes.any fun f => f.region == b.t.master && (match f.kind with
    | 1 => true
    | 2 => decide (f.a ≤ rc.1) && decide (rc.1 < f.b)
    | 3 => decide (f.a ≤ rc.2) && decide (rc.2 < f.b)
    | 4 => decide (rc.1 < f.b) && (f.bitmap.getD (rc.1 / 8) 0).toNat / 2 ^ (rc.1 % 8) % 2 == 1
    | _ => false)

/-- The learning rate of a group in a step (R289). -/
def Group.lrAt (g : Group) (scale : F32) : F32 := f32Mul g.lr scale

/-- The bias-correction count of R290. -/
def biasCount (s origin : Nat) : F32 := f32OfNat (if origin ≤ s then s + 1 - origin else 1)

def f32One : F32 := 0x3F800000#32

/-- One element under its group's rule (R290): new weight and state arrays. -/
def Group.apply (g : Group) (lr : F32) (t : F32) (w s1 s2 gu : F32) : F32 × F32 × F32 :=
  let ld := f32Mul lr g.decay
  let w1 := f32Fma (f32Neg ld) w w
  match g.rule with
  | 0 =>
    let v := f32Fma g.beta1 s1 gu
    (f32Fma (f32Neg lr) v w1, v, s2)
  | 1 =>
    let m := f32Fma g.beta1 s1 (f32Mul (f32Sub f32One g.beta1) gu)
    let v := f32Fma g.beta2 s2 (f32Mul (f32Sub f32One g.beta2) (f32Mul gu gu))
    let c1 := f32Sub f32One (f32Exp2 (f32Mul t (f32Log2 g.beta1)))
    let c2 := f32Sub f32One (f32Exp2 (f32Mul t (f32Log2 g.beta2)))
    let u := f32Div (f32Div m c1) (f32Add (f32Sqrt (f32Div v c2)) g.eps)
    (f32Fma (f32Neg lr) u w1, m, v)
  | _ =>
    let c := f32Fma g.beta1 s1 (f32Mul (f32Sub f32One g.beta1) gu)
    let u := if f32IsNan c then f32Nan else if f32Lt 0 c then f32One else if f32Lt c 0 then f32Neg f32One else 0
    (f32Fma (f32Neg lr) u w1, f32Fma g.beta2 s1 (f32Mul (f32Sub f32One g.beta2) gu), s2)

/-- The compute copy formed from a block's master weights (R282, R291), and what the conversion counts. -/
def BlockAt.formCopy (b : BlockAt) (ws : List F32) : List Byte × Counts :=
  let grid : List (List F32) := (List.range 128).map fun r => (List.range 128).map fun c =>
    if r < b.rv && c < b.cv then ws.getD (r * b.cv + c) 0 else 0
  let turned : List (List F32) := if b.t.hadW then
      transposeRows 128 ((transposeRows 128 grid).map fun col => (chunks 32 col).flatMap hadamard32)
    else grid
  let clipped := turned.zipIdx.map fun (row, r) => row.zipIdx.map fun (x, c) => if r < b.rv && c < b.cv then x else 0
  let o := ({ fmt := (Fmt.ofCode? b.t.copyFmt).getD .b16, square := b.t.copyFmt != 2 } : Conv).emit clipped 128
  (o.1, { o.2 with converted := b.rv * b.cv })

/-- Generations of a block (R296, R297): the current one, and the one made in the step. -/
structure Gen where
  cur : Nat := 0
  next : Option Nat := none
  deriving DecidableEq, Repr, Inhabited

/-- A slow-tier queue entry's first and last step (R293). -/
structure QEntry where
  first : Nat
  last : Nat
  deriving DecidableEq, Repr, Inhabited

/-- A contribution on its way to the accumulator (R283, R285): micro-batch, and per element the block, position and value. -/
structure Contribution where
  mb : Nat
  tile : Nat
  items : List (Nat × (Nat × Nat) × F32)
  deriving DecidableEq, Repr, Inhabited

/-- Parked elements of a block: their micro-batch and page (R285). -/
structure Parked where
  block : Nat
  mb : Nat
  page : Nat
  elems : List (Nat × Nat)
  deriving DecidableEq, Repr, Inhabited

/-- The accumulator, the update engines and the GX_UPD registers (R305). -/
structure Upd where
  /-- next micro-batch a block expects, and its elements accumulated for it (R285) -/
  expect : Sparse Nat := []
  filled : Sparse Nat := []
  contribs : List Contribution := []
  parked : List Parked := []
  /-- reserved parking pages: micro-batch, block, page -/
  reserved : List (Nat × Nat × Nat) := []
  gen : Sparse Gen := []
  queue : Sparse (Option QEntry) := []
  /-- a sweep runs (R294): its step, and the blocks it gave a generation -/
  sweep : Option (Nat × List Nat) := none
  lrScale : W32 := 0x3F800000#32
  loss : BitVec 8 := 0
  torn : Bool := false
  tornValid : Bool := false
  tornTensor : BitVec 16 := 0
  clipped : Bool := false
  nfSkipped : Bool := false
  norm2 : W32 := 0
  clip : W32 := 0
  step : W32 := 0
  skipCnt : W32 := 0
  clipCnt : W32 := 0
  deriving DecidableEq, Repr, Inhabited

/-- The accumulator handles one element of micro-batch m (R284, R578): the new G16 code from the old one, and what its conversion counts. -/
def accumElem (seed step member m bucket e : Nat) (gs : Int) (old : Nat) (x : F32) : Nat × Counts :=
  let r := if m = 0 then x else f32Add (ofG16 gs old) x
  let c := toG16 gs (bucketWord seed step member m bucket e) r
  (c.1, { converted := 1, nonfinite := if c.2 then 1 else 0, maxExp := (maxFinite [r]).1, anyFinite := (maxFinite [r]).2 })

/-- Element position of a block's elements in its bucket: elements of the bucket's earlier blocks (R336). -/
def Image.bucketBase (im : Image) (b g : Nat) : Nat :=
  let f := (im.bkt.buckets.getD b default).firstBlock
  sumN ((List.range (g - f)).map fun i => im.blockElems (f + i))

/-- Accumulate elements of one block for micro-batch m (R284, R578). -/
def Image.accumulate (im : Image) (mem : Mem) (step member m g : Nat) (xs : List ((Nat × Nat) × F32)) : Mem × Counts :=
  let b := im.block g
  let bk := (im.bucketOf g).getD 0
  let gs := (im.bkt.buckets.getD bk default).g
  let base := im.bucketBase bk g
  let out := xs.map fun p =>
    let ks := im.regPlaces b.t.grad (b.t.gradOff + 2 * b.index p.1) 2
    let e := base + p.1.1 % 128 * b.cv + p.1.2 % 128
    let o := accumElem im.num.seed step member m bk e gs (numOf (mem.read ks)) p.2
    (ks.zip (bytesOf 2 o.1), o.2)
  (mem.write (out.flatMap (·.1)), out.foldl (fun c o => c.add o.2) {})

/-- n more elements of a block are in for the micro-batch it expects; it expects the next once all are (R285). -/
def Upd.advance (im : Image) (u : Upd) (g n : Nat) : Upd :=
  let k := u.filled.at g + n
  if im.blockElems g ≤ k then { u with filled := u.filled.put g 0, expect := u.expect.mod g (· + 1) }
  else { u with filled := u.filled.put g k }

/-- Parking pages free: of all pages of the parking region those not reserved (R285). -/
def Upd.freePages (im : Image) (u : Upd) : List Nat :=
  (List.range (im.regionSize im.upd.parkRegion / 65536)).filter fun p => !u.reserved.any fun r => r.2.2 == p

/-- Reserve a page per block of a placement's accumulating stores for micro-batch m (R285); none while there are too few. -/
def Upd.reserve (im : Image) (u : Upd) (m p : Nat) : Option Upd :=
  if m = 0 || !im.parkRequired then some u else
  let gb := im.gbBlocks p
  let free := u.freePages im
  if free.length < gb.length then none
  else some { u with reserved := u.reserved ++ (gb.zip free).map fun x => (m, x.1, x.2) }

/-- Pages of frames fully accumulated are released (R285). -/
def Upd.releasePages (u : Upd) : Upd :=
  { u with reserved := u.reserved.filter fun r => !((u.reserved.filter fun x => x.1 == r.1).all fun x => decide (r.1 < u.expect.at x.2.1)) }

/-- Region of a block's gradient elements that an accumulating store's row covers: the row's elements by block (R283). -/
def Image.accItems (im : Image) (d : Desc) (q : Nat) (bs : List Byte) : List (Nat × (Nat × Nat) × F32) :=
  let mp := d.mem
  let size := im.regionSize mp.region
  let per := 32 * mp.rowUnits
  (List.range mp.rows).flatMap fun i => (List.range per).filterMap fun k =>
    let off := mp.rowOff size q i + 2 * k
    let x : F32 := BitVec.ofNat 32 (fieldAt bs (4 * (i * per + k)) 4)
    im.upd.tensors.zipIdx.findSome? fun (t, ti) =>
      if t.grad = mp.region && t.gradOff ≤ off && off < t.gradOff + 2 * t.rows * t.cols then
        let ix := (off - t.gradOff) / 2
        let r := ix / t.cols
        let c := ix % t.cols
        some (im.firstBlock ti + r / 128 * t.pc + c / 128, (r, c), x)
      else none

/-- The i-th slow-tier block in ascending global block number (R280). -/
def Image.slowIndex (im : Image) (g : Nat) : Nat :=
  ((List.range g).filter fun k => im.slowTensor (im.block k).t).length
def Image.isSlow (im : Image) (g : Nat) : Bool := im.slowTensor (im.block g).t

/-- The slow-tier queue entry of a block in memory (R280). -/
def Image.queueRead (im : Image) (m : Mem) (g : Nat) : List F32 :=
  let b := im.block g
  let r := (im.kindRegion? 7).getD 0
  b.elems.map fun rc => BitVec.ofNat 32 (numOf (im.regRead m r (im.slowIndex g * 65536 + 4 * BlockAt.pos rc) 4))
/-- Places of a block's queue entry that are read. -/
def Image.queuePlaces (im : Image) (g : Nat) : List Nat :=
  let b := im.block g
  let r := (im.kindRegion? 7).getD 0
  b.elems.flatMap fun rc => im.regPlaces r (im.slowIndex g * 65536 + 4 * BlockAt.pos rc) 4
def Image.queueWrite (im : Image) (m : Mem) (g : Nat) (xs : List F32) : Mem :=
  let b := im.block g
  let r := (im.kindRegion? 7).getD 0
  let at2 := fun (p : Nat) => (indexOf (fun rc => BlockAt.pos rc == p) b.elems).elim (0 : F32) fun k => xs.getD k 0
  im.regWrite m r (im.slowIndex g * 65536) ((List.range 16384).flatMap fun p => bytesOf 4 (at2 p).toNat)

/-- The group of a block. -/
def Image.groupOf (im : Image) (b : BlockAt) : Group := im.upd.groups.getD b.t.group default

/-- Places of a block's master weights and state, which its update reads (R281, R290). -/
def Image.updPlaces (im : Image) (g : Nat) : List Nat :=
  let b := im.block g
  let n := 4 * b.t.rows * b.t.cols
  b.f32Places im b.t.master 0 ++ (List.range (ruleArrays (im.groupOf b).rule)).flatMap fun k => b.f32Places im b.t.state (b.t.stateOff + k * n)

/-- Whether a block's master weights or state meet the poison mark (R299), or its queue entry where the update rests on that too (R517). -/
def Image.updPoison (im : Image) (m : Mem) (entry : Bool) (g : Nat) : Bool :=
  (im.updPlaces g).any m.poisoned || (entry && (im.queuePlaces g).any m.poisoned)

/-- Update one block with its applied gradients in step s (R290, R291): memory with the new weights, state and copy in the slot of generation `gen`. -/
def Image.updateBlock (im : Image) (m : Mem) (g gen s : Nat) (lrScale : F32) (gu : List F32) : Mem × Counts :=
  let b := im.block g
  let gr := im.groupOf b
  let n := 4 * b.t.rows * b.t.cols
  let lr := gr.lrAt lrScale
  let t := biasCount s gr.tOrigin
  let ws := b.readF32 im m b.t.master 0
  let s1 := b.readF32 im m b.t.state b.t.stateOff
  let s2 := if gr.rule = 1 then b.readF32 im m b.t.state (b.t.stateOff + n) else []
  let out := (b.elems.zip ws).zipIdx.map fun (p, k) =>
    if im.frozen b p.1 then (p.2, s1.getD k 0, s2.getD k 0) else gr.apply lr t p.2 (s1.getD k 0) (s2.getD k 0) (gu.getD k 0)
  let m := b.writeF32 im m b.t.master 0 (out.map (·.1))
  let m := b.writeF32 im m b.t.state b.t.stateOff (out.map fun o => o.2.1)
  let m := if gr.rule = 1 then b.writeF32 im m b.t.state (b.t.stateOff + n) (out.map fun o => o.2.2) else m
  let c := b.formCopy (out.map (·.1))
  (im.regWrite m b.t.copy (b.copyOff gen) c.1, c.2)

/-- Places that the export of a block reads, by its contents (R301). -/
def Image.exportPlaces (im : Image) (u : Upd) (contents g : Nat) : List Nat :=
  let b := im.block g
  let has := fun i => contents / 2 ^ i % 2 == 1
  let n := 4 * b.t.rows * b.t.cols
  (if has 0 then b.f32Places im b.t.master 0 else [])
    ++ (if has 1 then (List.range (ruleArrays (im.groupOf b).rule)).flatMap fun k => b.f32Places im b.t.state (b.t.stateOff + k * n) else [])
    ++ (if has 2 then b.copyPlaces im (u.gen.at g).cur else [])
    ++ (if has 3 && (u.queue.at g).isSome then im.queuePlaces g else [])

/-- Rebuild a block's compute copy of a generation from its master weights (R361); of poisoned weights it is poisoned (R455). -/
def Image.rebuildCopy (im : Image) (m : Mem) (g gen : Nat) : Mem × Counts :=
  let b := im.block g
  let c := b.formCopy (b.readF32 im m b.t.master 0)
  let n := im.regWrite m b.t.copy (b.copyOff gen) c.1
  (if m.poison.isEmpty || !(b.f32Places im b.t.master 0).any m.poisoned then n else n.writePoison (b.copyPlaces im gen), c.2)

/-- Whether a generation may be written: the one two below it is no longer current (R297, R298). -/
def Upd.writable (u : Upd) (g gen : Nat) : Bool := decide (gen ≤ (u.gen.at g).cur + 1)

/-- A generation of the step is written (R296). -/
def Upd.made (u : Upd) (g gen : Nat) : Upd := { u with gen := u.gen.mod g fun x => { x with next := some gen } }

/-- Generations made in the step become current at its end (R297), of the blocks that meet a test: a stale shard keeps its generations (R359). -/
def Upd.stepEnd (ok : Nat → Bool) (u : Upd) : Upd :=
  { u with gen := Sparse.mapVals (fun g x => match x.next with | some n => ({ cur := if ok g then n else x.cur, next := none } : Gen) | none => x) u.gen }

/-- step gradient, and clip factor (R286, R287). -/
def stepGrad (sums : List F32) (n : Nat) (lossExp : Int) : List F32 :=
  -- rcp(n · 2^L) in one rounding: 2^(−L) / n, both exact
  let q := if lossExp = -128 then f32Div (f32Of ((Fl.ofInt 1).scale2 127)) (f32Of ((Fl.ofInt n).scale2 (-1)))
    else f32Div (f32Of ((Fl.ofInt 1).scale2 (-lossExp))) (f32OfNat n)
  sums.map fun s => f32Mul s q
def clipFactor (im : Image) (n2 : F32) : F32 :=
  if im.upd.clip && f32Lt (f32Mul im.upd.clipMax im.upd.clipMax) n2 then f32Mul im.upd.clipMax (f32Rsqrt n2) else f32One
/-- Whether updates wait for N (R287). -/
def Image.needsNorm (im : Image) : Bool := im.upd.clip || im.upd.nfSkip

/-- Part of the squared norm of a shard (R193). -/
def normPart (gs : List F32) : F32 := treeSum (gs.map fun x => f32Mul x x)

/-- The export header (R300). -/
def exportHeader (im : Image) (contents step epoch member count : Nat) : List Byte :=
  bytesOf 4 0x44485346 ++ bytesOf 2 1 ++ bytesOf 2 contents ++ bytesOf 4 step ++ bytesOf 4 epoch ++ bytesOf 2 member ++ bytesOf 2 0
    ++ bytesOf 4 count ++ im.modelId.take 16 ++ List.replicate (16 - im.modelId.length) 0 ++ bytesOf 8 im.buildId ++ List.replicate 80 0

/-- One block record (R301). -/
def Image.exportBlock (im : Image) (m : Mem) (u : Upd) (contents g : Nat) : List Byte :=
  let b := im.block g
  let gr := im.groupOf b
  let has := fun i => contents / 2 ^ i % 2 == 1
  let n := 4 * b.t.rows * b.t.cols
  let words := fun (l : List F32) => l.flatMap fun x => bytesOf 4 x.toNat
  let gen := (u.gen.at g).cur
  let q := u.queue.at g
  let data := (if has 0 then words (b.readF32 im m b.t.master 0) else [])
    ++ (if has 1 then (List.range (ruleArrays gr.rule)).flatMap fun k => words (b.readF32 im m b.t.state (b.t.stateOff + k * n)) else [])
    ++ (if has 2 then b.readPanel im m gen else [])
    ++ (if has 3 && q.isSome then words (im.queueRead m g) else [])
  let head := bytesOf 4 b.ti ++ bytesOf 4 b.i ++ bytesOf 4 b.j ++ bytesOf 1 (b.rv - 1) ++ bytesOf 1 (b.cv - 1) ++ bytesOf 1 gr.rule
    ++ bytesOf 1 b.t.copyFmt ++ bytesOf 4 gen ++ bytesOf 4 (match q with | some e => e.first | none => 0xFFFFFFFF)
    ++ bytesOf 4 (match q with | some e => e.last | none => 0) ++ bytesOf 4 data.length
  let rec' := head ++ data
  rec' ++ List.replicate (roundUp rec'.length 64 - rec'.length) 0

/-- A block record as read back (R301): block, generation, queue steps, data. -/
structure BlockRec where
  block : Nat
  gen : Nat
  qFirst : Nat
  qLast : Nat
  data : List Byte
  bytes : Nat
  deriving DecidableEq, Repr, Inhabited

/-- Read one record under the active image; none where its tensor, dimensions, rule or format differ (R301, R302). -/
def Image.parseBlock (im : Image) (contents : Nat) (bs : List Byte) : Option BlockRec :=
  let f := fieldAt bs
  let ti := f 0 4
  let t := im.tensor ti
  let i := f 4 4
  let j := f 8 4
  let n := f 28 4
  if ti < im.upd.tensors.length && i < t.pr && j < t.pc && f 12 1 + 1 == t.validRows i && f 13 1 + 1 == t.validCols j
      && f 14 1 == (im.upd.groups.getD t.group default).rule && f 15 1 == t.copyFmt && 32 + n ≤ bs.length then
    let e := t.validRows i * t.validCols j * 4
    let has := fun k => contents / 2 ^ k % 2 == 1
    let want := (if has 0 then e else 0) + (if has 1 then ruleArrays (f 14 1) * e else 0) + (if has 2 then t.panel else 0)
      + (if has 3 && f 20 4 ≠ 0xFFFFFFFF then e else 0)
    if n = want then
      some { block := im.firstBlock ti + i * t.pc + j, gen := f 16 4, qFirst := f 20 4, qLast := f 24 4, data := (bs.drop 32).take n
             bytes := roundUp (32 + n) 64 }
    else none
  else none

/-- Read a file's records; `fuel` bounds their number. -/
def Image.parseBlocks (im : Image) (contents : Nat) : Nat → List Byte → Option (List BlockRec)
  | 0, _ => some []
  | n + 1, bs =>
    match im.parseBlock contents bs with
    | some r => (im.parseBlocks contents n (bs.drop r.bytes)).map fun l => r :: l
    | none => none

/-- Write one record (R302). A record that carries the queue and has no entry leaves the block's entry empty, so that a snapshot restores what it
captured (R303). -/
def Image.importBlock (im : Image) (contents : Nat) (mu : Mem × Upd) (r : BlockRec) : Mem × Upd :=
  let (m, u) := mu
  let b := im.block r.block
  let gr := im.groupOf b
  let has := fun k => contents / 2 ^ k % 2 == 1
  let k := b.rv * b.cv
  let n := 4 * b.t.rows * b.t.cols
  let words := fun (off : Nat) => (List.range k).map fun i => (BitVec.ofNat 32 (fieldAt r.data (off + 4 * i) 4) : F32)
  let o1 := if has 0 then 4 * k else 0
  let o2 := o1 + (if has 1 then ruleArrays gr.rule * 4 * k else 0)
  let o3 := o2 + (if has 2 then b.t.panel else 0)
  let m := if has 0 then b.writeF32 im m b.t.master 0 (words 0) else m
  let m := if has 1 then (List.range (ruleArrays gr.rule)).foldl (fun m a => b.writeF32 im m b.t.state (b.t.stateOff + a * n) (words (o1 + a * 4 * k))) m else m
  let m := if has 2 then im.regWrite m b.t.copy (b.copyOff r.gen) ((r.data.drop o2).take b.t.panel) else m
  let u := if has 2 then { u with gen := u.gen.put r.block { cur := r.gen, next := none } } else u
  if has 3 && r.qFirst ≠ 0xFFFFFFFF && im.isSlow r.block then
    (im.queueWrite m r.block (words o3), { u with queue := u.queue.put r.block (some { first := r.qFirst, last := r.qLast }) })
  else (m, if has 3 then { u with queue := u.queue.put r.block none } else u)

/-- The cells of a record's master weights and state, whose writes cover units in part (R302, R455). -/
def Image.partPlaces (im : Image) (u : Upd) (contents g : Nat) : List (Nat × Byte) := (im.exportPlaces u (contents % 4) g).map fun k => (k, 0)

/-- Signed value of GX_UPD_LOSS (R305). -/
def Upd.lossInt (u : Upd) : Int := u.loss.toInt

/-- A write to a GX_UPD register (R305). -/
def Upd.writeReg (u : Upd) (off : Nat) (v : W32) : Upd :=
  match off with
  | 0xC00 => { u with lrScale := v }
  | 0xC04 => { u with loss := BitVec.ofNat 8 (fld v 7 0) }
  | 0xC08 => { u with torn := w1c u.torn v 6, clipped := w1c u.clipped v 1, nfSkipped := w1c u.nfSkipped v 0 }
  | 0xC24 => { u with tornValid := w1c u.tornValid v 31 }
  | _ => u

/-- What a GX_UPD register reads as (R305); three waits come from elsewhere. -/
def Upd.readReg (u : Upd) (off : Nat) (returnWait parkWait normWait : Bool) : W32 :=
  match off with
  | 0xC00 => u.lrScale
  | 0xC04 => u.loss.setWidth 32
  | 0xC08 => flag 6 u.torn + flag 5 returnWait + flag 4 parkWait + flag 3 u.sweep.isSome + flag 2 normWait + flag 1 u.clipped + flag 0 u.nfSkipped
  | 0xC0C => u.norm2
  | 0xC10 => u.clip
  | 0xC14 => u.step
  | 0xC18 => u.skipCnt
  | 0xC1C => u.clipCnt
  | 0xC20 => BitVec.ofNat 32 (min (u.queue.filter fun p => p.2.isSome).length 0xFFFFFF)
  | 0xC24 => flag 31 u.tornValid + at' 0 u.tornTensor.toNat
  | _ => 0

end Sys2Proof.Machine
end

