-- ==== Sys2Proof/Machine/GxBlock.lean ====
section
/-! DEFINITION. Rosters, shards, exchange messages, slot sets, returns and the GX registers (R334 to R363). -/

namespace Sys2Proof.Machine

/-- A roster entry (R338, R363). -/
structure RosterEnt where
  valid : Bool := false
  pod : BitVec 6 := 0
  node : BitVec 12 := 0
  deriving DecidableEq, Repr, Inhabited

/-- A member of the group that exchanges. -/
structure Member where
  id : Nat
  pod : Nat
  node : Nat
  deriving DecidableEq, Repr, Inhabited

/-- The group that exchanges: its members in ascending id, and its levels (R338, R339). -/
structure ExGroup where
  two : Bool := false
  mem : List Member := []
  deriving DecidableEq, Repr, Inhabited

/-- Valid members of a roster in ascending id. -/
def rosterMembers (r : Sparse RosterEnt) : List Member :=
  (r.filter fun p => p.2.valid).map fun p => { id := p.1, pod := p.2.pod.toNat, node := p.2.node.toNat }

/-- Whether a roster does not hold a member as valid (R339). -/
def soloIn (r : Sparse RosterEnt) (me : Nat) : Bool := !(r.at me).valid

/-- The group under a roster: a group of one when it does not hold the device (R339). -/
def groupOf (r : Sparse RosterEnt) (two : Bool) (me : Nat) : ExGroup :=
  if soloIn r me then { mem := [{ id := me, pod := 0, node := 0 }] } else { two := two, mem := rosterMembers r }

def ExGroup.n (g : ExGroup) : Nat := g.mem.length
def ExGroup.rank? (g : ExGroup) (m : Nat) : Option Nat := indexOf (fun (x : Member) => x.id == m) g.mem
def ExGroup.member (g : ExGroup) (rank : Nat) : Member := g.mem.getD rank default
/-- Pods in ascending number, and the members of one (R338). -/
def ExGroup.pods (g : ExGroup) : List Nat := (g.mem.map (·.pod)).eraseDups.mergeSort (· ≤ ·)
def ExGroup.podMembers (g : ExGroup) (p : Nat) : List Member := g.mem.filter fun x => x.pod == p
def ExGroup.podOf (g : ExGroup) (m : Nat) : Nat := ((g.mem.find? fun x => x.id == m).getD default).pod

/-- The limits of R338. -/
def ExGroup.legal (g : ExGroup) : Bool :=
  if g.two then decide (g.n ≤ 4096) && g.pods.all fun p => decide ((g.podMembers p).length ≤ 64) else decide (1 ≤ g.n) && decide (g.n ≤ 512)

/-- Owner of a shard (R341), and its pod owner in a pod. -/
def ExGroup.owner (g : ExGroup) (b i : Nat) : Member := g.member ((i + b) % max g.n 1)
def ExGroup.podOwner (g : ExGroup) (b i p : Nat) : Member :=
  let l := g.podMembers p
  l.getD ((i + b) % max l.length 1) default

/-- First and end block of a shard within its bucket (R340). -/
def shardBounds (nb n i : Nat) : Nat × Nat := (i * nb / max n 1, (i + 1) * nb / max n 1)

/-- Global blocks of a shard (R340). -/
def Image.shardBlocks (im : Image) (n b i : Nat) : List Nat :=
  let k := im.bkt.buckets.getD b default
  let s := shardBounds k.blockCount n i
  (List.range (s.2 - s.1)).map fun x => k.firstBlock + s.1 + x

/-- Elements of a shard (R336, R348). -/
def Image.shardElems (im : Image) (n b i : Nat) : Nat := sumN ((im.shardBlocks n b i).map im.blockElems)

/-- Every non-empty shard in ascending (bucket, shard) (R340). -/
def Image.shards (im : Image) (n : Nat) : List (Nat × Nat) :=
  (List.range im.bkt.buckets.length).flatMap fun b => (List.range n).filterMap fun i =>
    if (im.shardBlocks n b i).isEmpty then none else some (b, i)

/-- The shard of a bucket that holds a block. -/
def Image.shardOf (im : Image) (n g : Nat) : Option (Nat × Nat) :=
  match im.bucketOf g with
  | some b => ((List.range n).find? fun i => (im.shardBlocks n b i).contains g).map fun i => (b, i)
  | none => none

/-- What an owner holds slots for: a shard, and whether as pod owner (R348). -/
structure SlotKey where
  bucket : Nat
  shard : Nat
  asPod : Bool
  deriving DecidableEq, Repr, Inhabited

/-- Slot sets of a device in their order in a half of slot_region (R348). A shard owned and pod-owned has the pod owner's slots first. -/
def Image.slotKeys (im : Image) (g : ExGroup) (me : Nat) : List SlotKey :=
  (im.shards g.n).flatMap fun s =>
    (if g.two && (g.podOwner s.1 s.2 (g.podOf me)).id == me then [{ bucket := s.1, shard := s.2, asPod := true : SlotKey }] else [])
      ++ (if (g.owner s.1 s.2).id == me then [{ bucket := s.1, shard := s.2, asPod := false : SlotKey }] else [])

/-- Slots of a set, and bytes of each (R348). -/
def ExGroup.slotCount (g : ExGroup) (me : Nat) (k : SlotKey) : Nat :=
  if !g.two then g.n else if k.asPod then (g.podMembers (g.podOf me)).length else g.pods.length
def Image.slotBytes (im : Image) (g : ExGroup) (k : SlotKey) : Nat :=
  let e := im.shardElems g.n k.bucket k.shard
  roundUp (if g.two && !k.asPod then 4 * e + 8 else 2 * e) 64

/-- Bytes of a half under a group (R348). -/
def Image.halfBytes (im : Image) (g : ExGroup) (me : Nat) : Nat :=
  sumN ((im.slotKeys g me).map fun k => g.slotCount me k * im.slotBytes g k)

/-- GX_SLOT_NEED's half-size in bytes of a roster (R348). -/
def slotNeed (im : Image) (me : Nat) (cur next : ExGroup) : Nat :=
  (2 * max (im.halfBytes cur me) (im.halfBytes next me) + 65535) / 65536

/-- Offset in slot_region of slot q of a set of step s (R348). -/
def Image.slotOff (im : Image) (g : ExGroup) (me step : Nat) (k : SlotKey) (q : Nat) : Nat :=
  let before := (im.slotKeys g me).takeWhile fun x => x != k
  let half := im.regionSize im.bkt.slotRegion / 2
  step % 2 * half + sumN (before.map fun x => g.slotCount me x * im.slotBytes g x) + q * im.slotBytes g k

/-- Offset in stage_region of a block's panel (R335, R358, log entry 84): one compute-copy slot for each tensor, in tensor order. -/
def Image.stageOff (im : Image) (g : Nat) : Nat :=
  let b := im.block g
  sumN ((im.upd.tensors.take b.ti).map (·.slotBytes)) + (b.i * b.t.pc + b.j) * b.t.panel

/-- An exchange message (R344, R345). -/
structure XMsg where
  msg : Nat
  epoch : Nat
  step : Nat
  bucket : Nat
  shard : Nat
  member : Nat
  pod : Nat
  a : Nat
  b : Nat
  c : Nat
  data : List Byte
  /-- whether another device sent it (R339) -/
  remote : Bool := false
  deriving DecidableEq, Repr, Inhabited

def parseX (msg : Nat) (bs : List Byte) : XMsg :=
  let f := fieldAt bs
  { msg := msg, epoch := f 0 4, step := f 4 4, bucket := f 8 2, shard := f 10 2, member := f 12 2, pod := f 14 2
    a := f 16 4, b := f 20 4, c := f 24 4, data := bs.drop 32, remote := true }

def XMsg.bytes (x : XMsg) : List Byte :=
  bytesOf 4 x.epoch ++ bytesOf 4 x.step ++ bytesOf 2 x.bucket ++ bytesOf 2 x.shard ++ bytesOf 2 x.member ++ bytesOf 2 x.pod
    ++ bytesOf 4 x.a ++ bytesOf 4 x.b ++ bytesOf 4 x.c ++ bytesOf 4 0 ++ x.data

/-- Message types of the exchange (R345). -/
def xContrib : Nat := 0x01
def xPodSum : Nat := 0x02
def xNormPart : Nat := 0x03
def xNorm : Nat := 0x04
def xReturn : Nat := 0x05
def xReturnEnd : Nat := 0x06
def xFetch : Nat := 0x50
def xFetchData : Nat := 0x51
def xFetchEnd : Nat := 0x52
def xState : Nat := 0x53
def xXferEnd : Nat := 0x54

/-- The even virtual channel of a type's class (R320, R345). -/
def xVc (msg : Nat) : Nat := if msg ≤ 2 then 0 else if msg ≤ 4 then 4 else if msg ≤ 6 then 2 else 6

/-- Stages of an owned slot set in a step (R350 to R356). -/
inductive Stage where
  | open' | waiting | adding | reduced | updating | done
  /-- its slots or its return are given up (R355, R359, R523, R532) -/
  | gone
  deriving DecidableEq, Repr, Inhabited

/-- One slot: byte ranges landed, and for a pod sum its mask and count (R348, R353). -/
structure SlotIn where
  got : List (Nat × Nat) := []
  mask : Option Nat := none
  count : Nat := 0
  deriving DecidableEq, Repr, Inhabited

/-- A slot set of a step (R348 to R354). -/
structure SlotSet where
  step : Nat
  key : SlotKey
  slots : Sparse SlotIn := []
  closed : Bool := false
  stage : Stage := .open'
  /-- slots present at closure -/
  present : List Bool := []
  sum : List F32 := []
  n : Nat := 0
  deriving DecidableEq, Repr, Inhabited

/-- A return under way to this member (R356 to R358): panel ranges by block, generations, and RETURN_END. -/
structure Ret where
  step : Nat
  bucket : Nat
  shard : Nat
  got : Sparse (List (Nat × Nat)) := []
  gens : Sparse Nat := []
  fin : Option (Nat × List Byte) := none
  complete : Bool := false
  stale : Bool := false
  deriving DecidableEq, Repr, Inhabited

/-- Return bytes that cannot be written yet and lie in stage_region (R358): block, generation, offset in the panel, how many. -/
structure Staged where
  step : Nat
  block : Nat
  gen : Nat
  off : Nat
  len : Nat
  deriving DecidableEq, Repr, Inhabited

/-- A refetch in a comparison round (R361). -/
structure Refetch where
  bucket : Nat
  shard : Nat
  attempt : Nat
  got : List (Nat × Nat × List Byte) := []
  deriving DecidableEq, Repr, Inhabited

/-- A comparison round in progress (R361): shards not yet compared, mismatches so far, the refetch it waits for. -/
structure Round where
  todo : List (Nat × Nat)
  mismatches : Nat := 0
  fetch : Option Refetch := none
  deriving DecidableEq, Repr, Inhabited

/-- A reference digest with the epoch and step it was formed over (R357, R358). -/
structure RefDigest where
  epoch : Nat
  step : Nat
  digest : List Byte
  deriving DecidableEq, Repr, Inhabited

/-- The GX block and the exchange (R363). -/
structure Gx where
  member : BitVec 12 := 0
  levels : Bool := false
  compareNow : Bool := false
  maxPlen : Bool := false
  skipped : Bool := false
  late : Bool := false
  mismatch : Bool := false
  diverged : Bool := false
  staleFlag : Bool := false
  epochErr : Bool := false
  pendingEpoch : Bool := false
  epoch : W32 := 0
  epochNext : W32 := 0
  epochStep : W32 := 0
  slotNeed : BitVec 26 := 0
  k : BitVec 16 := 100
  base : Option Nat := none
  /-- cluster time of a straggler cut-off in the step (R349) -/
  cut : Option Nat := none
  staleCnt : W32 := 0
  badTag : W32 := 0
  refetchCnt : W32 := 0
  lastBucket : BitVec 12 := 0
  lastShard : BitVec 12 := 0
  msel : BitVec 12 := 0
  mSkip : Sparse W32 := []
  mLate : Sparse W32 := []
  mFetch : Sparse W32 := []
  two : Bool := false
  roster : Sparse RosterEnt := []
  rosterNext : Sparse RosterEnt := []
  /-- exchange messages delivered and not yet handled (R327, R337) -/
  inbox : List XMsg := []
  sets : List SlotSet := []
  rets : List Ret := []
  staged : List Staged := []
  /-- reference digest of a shard (R358), and shards that are stale (R359) -/
  refs : List ((Nat × Nat) × RefDigest) := []
  stale : List (Nat × Nat) := []
  /-- N of the step, once it is here (R355) -/
  norm : Option F32 := none
  /-- parts at the collector by (bucket, shard), and whether NORM has been sent (R355) -/
  parts : List ((Nat × Nat) × F32) := []
  normSent : Bool := false
  /-- buckets whose contributions have been sent (R337) -/
  sentBuckets : List Nat := []
  /-- owned shards that get no return in the step, since a block of theirs has stopped (R299) -/
  silent : List (Nat × Nat) := []
  /-- blocks awaited in a state transfer, and record bytes received (R343) -/
  awaited : List Nat := []
  xfer : Sparse (List (Nat × List Byte)) := []
  unseeded : List Nat := []
  round : Option Round := none
  /-- mismatches in the previous 15 rounds, newest last (R361) -/
  history : List Bool := []
  /-- a round has run at this boundary (R360) -/
  rounded : Bool := false
  /-- a round is due by K at this boundary (R360) -/
  compareDue : Bool := false
  /-- a snapshot waits: by the Timer (none) or a command (R303) -/
  snapshots : List (Option Entry) := []
  deriving DecidableEq, Repr, Inhabited

/-- The group under the current roster (R338, R339). -/
def Gx.me (x : Gx) : Nat := x.member.toNat
def Gx.solo (x : Gx) : Bool := soloIn x.roster x.me
def Gx.group (x : Gx) : ExGroup := groupOf x.roster x.two x.me
/-- The group under the staged roster, as it is for this device, and as it is for its members. -/
def Gx.nextGroup (x : Gx) : ExGroup := groupOf x.rosterNext x.levels x.me
def Gx.stagedGroup (x : Gx) : ExGroup := { two := x.levels, mem := rosterMembers x.rosterNext }

/-- The step above a step, modulo 2^32 (R346). -/
def stepAbove (cur : Nat) : Nat := (cur + 1) % 2 ^ 32

/-- Whether a staged epoch applies to a step above the current one (R346). -/
def Gx.stagedFor (x : Gx) (cur step : Nat) : Bool := x.pendingEpoch && step == x.epochStep.toNat && step == stepAbove cur
/-- Epoch and group that apply to a step (R346, R348). -/
def Gx.epochFor (x : Gx) (cur step : Nat) : Nat := if x.stagedFor cur step then x.epochNext.toNat else x.epoch.toNat
def Gx.groupFor (x : Gx) (cur step : Nat) : ExGroup := if x.stagedFor cur step then x.nextGroup else x.group

/-- Whether two half-open ranges meet. -/
def rangesMeet (a b : Nat × Nat) : Bool := decide (a.1 < b.2) && decide (b.1 < a.2)
/-- Total length of ranges that do not meet. -/
def rangesLen (l : List (Nat × Nat)) : Nat := sumN (l.map fun r => r.2 - r.1)

/-- The tag check of R346, its ranges apart. -/
def Gx.tagOk (im : Image) (x : Gx) (cur : Nat) (m : XMsg) : Bool :=
  let g := x.groupFor cur m.step
  (m.step == cur || m.step == stepAbove cur) && m.epoch == x.epochFor cur m.step && (g.rank? m.member).isSome
    && decide (m.bucket < im.bkt.buckets.length) && decide (m.shard < g.n) && !(im.shardBlocks g.n m.bucket m.shard).isEmpty

def Gx.bad (x : Gx) : Gx := { x with badTag := satAdd x.badTag 1 }

/-- The bucket deadline, its pod deadline and return deadline, and the norm deadline (R349). -/
def Gx.bucketDeadline (im : Image) (x : Gx) (b : Nat) : Option Nat :=
  let d := x.base.map fun s => s + (im.bkt.buckets.getD b default).deadlineOff
  match d, x.cut with
  | some a, some c => some (min a c)
  | some a, none => some a
  | none, c => c
def Gx.podDeadline (im : Image) (x : Gx) (b : Nat) : Option Nat :=
  let d := x.base.map fun s => s + (im.bkt.buckets.getD b default).deadlineOff - im.bkt.podLead
  match d, x.cut with
  | some a, some c => some (min a c)
  | some a, none => some a
  | none, c => c
def Gx.returnDeadline (im : Image) (x : Gx) (b : Nat) : Option Nat :=
  let d := x.base.map fun s => s + (im.bkt.buckets.getD b default).deadlineOff + im.bkt.returnGrace
  match d, x.cut with
  | some a, some c => some (if a ≤ c then a else c + im.bkt.returnGrace)
  | some a, none => some a
  | none, some c => some (c + im.bkt.returnGrace)
  | none, none => none
def Gx.normDeadline (im : Image) (x : Gx) : Option Nat :=
  match x.base.map (· + im.bkt.normOff), x.cut with
  | some a, some c => some (min a c)
  | some a, none => some a
  | none, c => c
/-- Whether a deadline has passed. -/
def passedBy (d : Option Nat) (now : Nat) : Bool := match d with | some t => decide (t ≤ now) | none => false

def Gx.set? (x : Gx) (step : Nat) (k : SlotKey) : Option SlotSet := x.sets.find? fun s => s.step == step && s.key == k
/-- A slot set, new where none is kept. -/
def Gx.getSet (x : Gx) (step : Nat) (k : SlotKey) : SlotSet := (x.set? step k).getD { step := step, key := k }
def Gx.putSet (x : Gx) (s : SlotSet) : Gx :=
  if (x.set? s.step s.key).isSome then { x with sets := x.sets.map fun y => if y.step == s.step && y.key == s.key then s else y }
  else { x with sets := x.sets ++ [s] }
def Gx.ret? (x : Gx) (step b i : Nat) : Option Ret := x.rets.find? fun r => r.step == step && r.bucket == b && r.shard == i
def Gx.getRet (x : Gx) (step b i : Nat) : Ret := (x.ret? step b i).getD { step := step, bucket := b, shard := i }
def Gx.putRet (x : Gx) (r : Ret) : Gx :=
  if (x.ret? r.step r.bucket r.shard).isSome then
    { x with rets := x.rets.map fun y => if y.step == r.step && y.bucket == r.bucket && y.shard == r.shard then r else y }
  else { x with rets := x.rets ++ [r] }
def Gx.ref? (x : Gx) (s : Nat × Nat) : Option RefDigest := (x.refs.find? fun r => r.1 == s).map (·.2)
def Gx.setRef (x : Gx) (s : Nat × Nat) (d : RefDigest) : Gx := { x with refs := (x.refs.filter fun r => r.1 != s) ++ [(s, d)] }

/-- Elements of a slot set's shard. -/
def Gx.setElems (im : Image) (g : ExGroup) (s : SlotSet) : Nat := im.shardElems g.n s.key.bucket s.key.shard

/-- Whether slot q of a set is full (R350, R353). -/
def slotFull (im : Image) (g : ExGroup) (s : SlotSet) (q : Nat) : Bool :=
  let i := s.slots.at q
  let e := im.shardElems g.n s.key.bucket s.key.shard
  rangesLen i.got == e && (!(g.two && !s.key.asPod) || i.mask.isSome)

/-- A slot set closes (R350, R353): who is skipped is counted. -/
def Gx.close (im : Image) (x : Gx) (g : ExGroup) (s : SlotSet) : Gx :=
  if s.closed then x else
  let n := g.slotCount x.me s.key
  let present := (List.range n).map fun q => slotFull im g s q
  let who := fun (q : Nat) => if !g.two then [(g.member q).id]
    else if s.key.asPod then [((g.podMembers (g.podOf x.me)).getD q default).id]
    else
      let l := g.podMembers (g.pods.getD q 0)
      match (s.slots.at q).mask with
      | some m => (l.zipIdx.filter fun p => m / 2 ^ p.2 % 2 == 1).map fun p => p.1.id
      | none => l.map (·.id)
  let missed := ((List.range n).filter fun q => !present.getD q false).flatMap who
  let x := x.putSet { s with closed := true, present := present, stage := .waiting }
  { x with mSkip := missed.foldl (fun t m => t.mod m fun c => satAdd c 1) x.mSkip, skipped := x.skipped || !missed.isEmpty }

/-- The next owned shard to add (R351): closed, with nothing lower still open or being added. -/
def Gx.nextAdd (im : Image) (x : Gx) (step : Nat) : Option SlotSet :=
  let keys := (im.slotKeys x.group x.me).filter fun k => !k.asPod
  match keys.find? fun k => [Stage.open', Stage.waiting, Stage.adding].contains (x.getSet step k).stage with
  | some k => let s := x.getSet step k; if s.stage == .waiting then some s else none
  | none => none

/-- The running sum of a closed set (R192, R352): per element over its present slots, with the count. -/
def reduceSet (im : Image) (g : ExGroup) (me : Nat) (mem : Mem) (s : SlotSet) : List F32 × Nat :=
  let e := im.shardElems g.n s.key.bucket s.key.shard
  let gs := (im.bkt.buckets.getD s.key.bucket default).g
  let wide := g.two && !s.key.asPod
  let used := (s.present.zipIdx.filter fun p => p.1).map (·.2)
  let rows : List (List F32) := used.map fun q =>
    let off := im.slotOff g me s.step s.key q
    if wide then f32Words (im.regRead mem im.bkt.slotRegion (off + 8) (4 * e)) e
    else (List.range e).map fun j => ofG16 gs (numOf (im.regRead mem im.bkt.slotRegion (off + 2 * j) 2))
  let sum := (List.range e).map fun j => (rows.foldl (fun (a : Option F32) r =>
    match a with | none => some (r.getD j 0) | some v => some (f32Add v (r.getD j 0))) none).getD 0
  (sum, if wide then sumN (used.map fun q => (s.slots.at q).count) else used.length)

/-- Places that the addition of a closed set reads: its present slots (R351). -/
def Image.sumPlaces (im : Image) (g : ExGroup) (me : Nat) (s : SlotSet) : List Nat :=
  let e := im.shardElems g.n s.key.bucket s.key.shard
  let wide := g.two && !s.key.asPod
  (s.present.zipIdx.filter fun p => p.1).flatMap fun p =>
    im.regPlaces im.bkt.slotRegion (im.slotOff g me s.step s.key p.2 + if wide then 8 else 0) (if wide then 4 * e else 2 * e)

/-- The shard digest of R357. -/
def Image.shardDigest (im : Image) (m : Mem) (u : Upd) (n epoch step b i : Nat) (made : Bool) : List Byte :=
  shake256 32 (bytesOf 4 epoch ++ bytesOf 4 step ++ bytesOf 2 b ++ bytesOf 2 i ++ (im.shardBlocks n b i).flatMap fun g =>
    let x := u.gen.at g
    let gen := if made then x.next.getD x.cur else x.cur
    bytesOf 4 g ++ bytesOf 4 gen ++ (im.block g).readPanel im m gen)

/-- Message data bytes (R347). -/
def Gx.dataMax (x : Gx) : Nat := (if x.maxPlen then 4096 else 1024) - 32

/-- Cut a byte string into message pieces with their offsets. -/
def pieces (n : Nat) (bs : List Byte) : List (Nat × List Byte) := (chunks n bs).zipIdx.map fun p => (p.2 * n, p.1)

/-- A write to a GX register outside 0xC00 to 0xCFF (R363); the W1S bits are the commands' own. -/
def Gx.writeReg (x : Gx) (idle : Bool) (off : Nat) (v : W32) : Gx :=
  if off = 0 then (if idle then { x with member := BitVec.ofNat 12 (fld v 11 0) } else x)
  else if off = 4 then { x with levels := if x.pendingEpoch then x.levels else bit v 4, maxPlen := bit v 0 }
  else if off = 8 then { x with skipped := w1c x.skipped v 7, late := w1c x.late v 6, mismatch := w1c x.mismatch v 5, diverged := w1c x.diverged v 4
                                staleFlag := w1c x.staleFlag v 2, epochErr := w1c x.epochErr v 1 }
  else if off = 0x10 then { x with epochNext := v }
  else if off = 0x14 then { x with epochStep := v }
  else if off = 0x1C then { x with k := BitVec.ofNat 16 (fld v 15 0) }
  else if off = 0x38 then { x with msel := BitVec.ofNat 12 (fld v 11 0) }
  else if 0x14000 ≤ off && off < 0x18000 && off % 4 = 0 then
    if x.pendingEpoch then x else
    { x with rosterNext := x.rosterNext.put ((off - 0x14000) / 4)
              { valid := bit v 31, pod := BitVec.ofNat 6 (fld v 17 12), node := BitVec.ofNat 12 (fld v 11 0) } }
  else x

def RosterEnt.word (e : RosterEnt) : W32 := flag 31 e.valid + at' 12 e.pod.toNat + at' 0 e.node.toNat

/-- What a GX register reads as (R363). -/
def Gx.readReg (x : Gx) (running : Bool) (off : Nat) : W32 :=
  if off = 0 then x.member.setWidth 32
  else if off = 4 then flag 4 x.levels + flag 1 x.compareNow + flag 0 x.maxPlen
  else if off = 8 then flag 11 x.solo + flag 10 (!x.awaited.isEmpty) + flag 9 x.round.isSome + flag 8 (running && x.base.isNone)
    + flag 7 x.skipped + flag 6 x.late + flag 5 x.mismatch + flag 4 x.diverged + flag 3 (!x.unseeded.isEmpty) + flag 2 x.staleFlag
    + flag 1 x.epochErr + flag 0 x.pendingEpoch
  else if off = 0xC then x.epoch else if off = 0x10 then x.epochNext else if off = 0x14 then x.epochStep
  else if off = 0x18 then x.slotNeed.setWidth 32
  else if off = 0x1C then x.k.setWidth 32
  else if off = 0x20 then (match x.base with | some d => loW d | none => 0xFFFFFFFF#32)
  else if off = 0x24 then (match x.base with | some d => hiW d | none => 0xFFFFFFFF#32)
  else if off = 0x28 then x.staleCnt else if off = 0x2C then x.badTag else if off = 0x30 then x.refetchCnt
  else if off = 0x34 then at' 16 x.lastBucket.toNat + at' 0 x.lastShard.toNat
  else if off = 0x38 then x.msel.setWidth 32
  else if off = 0x3C then x.mSkip.at x.msel.toNat else if off = 0x40 then x.mLate.at x.msel.toNat
  else if off = 0x44 then x.mFetch.at x.msel.toNat
  else if 0x10000 ≤ off && off < 0x14000 && off % 4 = 0 then (x.roster.at ((off - 0x10000) / 4)).word
  else if 0x14000 ≤ off && off < 0x18000 && off % 4 = 0 then (x.rosterNext.at ((off - 0x14000) / 4)).word
  else 0

end Sys2Proof.Machine
end

