-- ==== Sys2Proof/Machine/Flags.lean ====
section
/-! DEFINITION. Status flags that raise events, and the words that show several blocks at once. -/

namespace Sys2Proof.Machine

/-- Flags that became set, with their bits (R484). -/
def newFlags (old new : W32) : W32 := new &&& ~~~old

/-- GX_STATUS bits [7:1] (R363, R484). -/
def Gx.flags (x : Gx) : W32 :=
  flag 7 x.skipped + flag 6 x.late + flag 5 x.mismatch + flag 4 x.diverged + flag 3 (!x.unseeded.isEmpty) + flag 2 x.staleFlag + flag 1 x.epochErr

end Sys2Proof.Machine
end

