-- ==== Sys2Proof/Machine/Operands.lean ====
section
/-! DEFINITION. Operand forms: fields of a submission entry's parameters, register addresses of BAR0, places of device addresses. -/

namespace Sys2Proof.Machine

/-- Field [hi:lo] of a 64-bit parameter. -/
def fld64 (v : W64) (hi lo : Nat) : Nat := v.toNat / 2 ^ lo % 2 ^ (hi + 1 - lo)

/-- Register blocks of BAR0 (R469). -/
inductive Blk where
  | ctl | rst | hif | msix | tmr | lnk | gx | upd | inp | mem | stash | sec | flt | pwr
  | til (tile : Nat)
  /-- no block: reads 0, ignores writes -/
  | none
  deriving DecidableEq, Repr, Inhabited

/-- Block and offset of a BAR0 address (R469); the update registers (R305) lie in GX, the stash registers (R271) in MEM. -/
def regBlock (a : Nat) : Blk × Nat :=
  if a < 0x10000 then (.ctl, a) else if a < 0x20000 then (.rst, a - 0x10000)
  else if a < 0x30000 then (.hif, a - 0x20000)
  else if a < 0x100000 then (.msix, a - 0x30000)
  else if a < 0x200000 then (.tmr, a - 0x100000)
  else if a < 0x300000 then (.lnk, a - 0x200000)
  else if a < 0x400000 then (if 0x300C00 ≤ a && a < 0x300D00 then (.upd, a - 0x300000) else (.gx, a - 0x300000))
  else if a < 0x500000 then (.inp, a - 0x400000)
  else if a < 0x600000 then (if 0x500400 ≤ a && a < 0x500500 then (.stash, a - 0x500000) else (.mem, a - 0x500000))
  else if a < 0x700000 then (.sec, a - 0x600000) else if a < 0x800000 then (.flt, a - 0x700000)
  else if a < 0x1000000 then (.pwr, a - 0x800000)
  else if a < 0x2000000 then (.til ((a - 0x1000000) / 0x10000), (a - 0x1000000) % 0x10000) else (.none, 0)

/-- Whether a tier-map region holds a place (R64, R445). -/
def Region.hasPlace (im : Image) (r : Region) (k : Nat) : Bool :=
  if placeTier k ≠ r.tier then false
  else match r.tier with
  | 0 => (List.range 2).any fun h =>
      let t := if h = 0 then some r.home else im.partner? r.home
      t == some (placeUnit k) && decide (r.offset ≤ k % 2 ^ 22 + h * 2 ^ 22 ∧ k % 2 ^ 22 + h * 2 ^ 22 < r.offset + r.size)
  | 1 => placeUnit k == r.home && decide (r.offset ≤ k % 2 ^ 40 ∧ k % 2 ^ 40 < r.offset + r.size)
  | _ =>
    let ms := setMembers r.home
    match indexOf (· == placeUnit k) ms with
    | none => false
    | some j =>
      let mo := k % 2 ^ 40
      let o := (mo / 4096 * ms.length + j) * 4096 + mo % 4096
      decide (r.offset ≤ o ∧ o < r.offset + r.size)

/-- Whether a BAR4 access of n bytes at a device address reaches memory (R464, R471). -/
def bar4Ok (im : Option Image) (ddr : Sparse DdrCh) (a n : Nat) : Bool :=
  decide (1 ≤ n) && decide (n ≤ 64) && a / 64 == (a + n - 1) / 64 && spanMapped ddr a n &&
  match im with
  | none => addrSpace a == 0
  | some im => im.regions.any fun r => r.flags / 2 % 2 == 1 && (spanPlaces a n).all (r.hasPlace im)

/-- Device address of a place as a descriptor's access names it (R237, R455, log entry 13): through the home of the region that holds it. -/
def Image.addrOf (im : Image) (k : Nat) : Nat :=
  match im.regions.find? fun r => r.hasPlace im k with
  | some r => addrIn (if r.tier = 2 then r.home else if r.tier = 3 then 0x20 + r.home else 0x14) k
  | none => placeAddr k

end Sys2Proof.Machine
end

