-- ==== Sys2Proof/Machine/CtlBlock.lean ====
section
/-! DEFINITION. Device state, version negotiation, reset block, pins and the registers of CTL and RST (R84, R272, R472, R486 to R492, R560 to R574). -/

namespace Sys2Proof.Machine

/-- Device states by their codes of R486. -/
inductive Dev where
  | off | reset | boot | ready | loaded | armed | stepping | draining | fault | alarm
  deriving DecidableEq, Repr, Inhabited

def Dev.code : Dev → Nat
  | .off => 0 | .reset => 1 | .boot => 2 | .ready => 3 | .loaded => 4 | .armed => 5 | .stepping => 6 | .draining => 7
  | .fault => 8 | .alarm => 9

/-- A step runs (R41). -/
def Dev.running (d : Dev) : Bool := d = .stepping || d = .draining

/-- The firmware runs: the states from READY to FAULT. -/
def Dev.live (d : Dev) : Bool :=
  match d with
  | .ready => true | .loaded => true | .armed => true | .stepping => true | .draining => true | .fault => true
  | _ => false

/-- CTL_STEPS_LEFT of a RUN until DRAIN (R492). -/
def unbounded : W32 := 0xFFFFFFFF

/-- The CTL block (R84, R272, R492). -/
structure Ctl where
  state : Dev := .boot
  prev : Dev := .off
  stepsLeft : W32 := 0
  /-- the RUN in force asked for no number of steps -/
  untilDrain : Bool := false
  rejCnt : W32 := 0
  rejOpcode : BitVec 8 := 0
  rejState : BitVec 4 := 0
  rejSq : BitVec 6 := 0
  hciHost : W32 := 0
  hciValid : Bool := false
  hciNone : Bool := false
  hciMajor : BitVec 8 := 0
  hciMinor : BitVec 8 := 0
  lastReject : BitVec 8 := 0
  curPlacement : BitVec 4 := 0
  loadBusy : Bool := false
  rejected : Bool := false
  detailSection : BitVec 8 := 0
  detailRecord : BitVec 24 := 0
  sigFail : BitVec 4 := 0
  placeInvalid : Bool := false
  placeForce : Bool := false
  placement : BitVec 3 := 0
  placeMb : Sparse W32 := []
  /-- high words latched by reads of low words, by the BAR0 address of the high word (R15) -/
  latch : Sparse W32 := []
  deriving DecidableEq, Repr, Inhabited

/-- The RST block and the reset-source latches (R561 to R574). -/
structure Rst where
  cause : BitVec 7 := 1
  cold : Bool := true
  code : BitVec 4 := 15
  wdtPeriod : BitVec 16 := 2000
  wdtLocked : Bool := false
  /-- the watchdog runs (R562) -/
  wdtRunning : Bool := true
  /-- tenths of a nanosecond of the time base since the last kick (R562) -/
  wdtElapsed : Nat := 0
  /-- sources that hold the present reset -/
  active : BitVec 7 := 0
  /-- sources latched while REFCLK is stopped (R563) -/
  latched : BitVec 7 := 0
  deriving DecidableEq, Repr, Inhabited

/-- Pins and supplies (R560, R571). -/
structure Pins where
  p54v : Bool := true
  p3v3 : Bool := true
  refclk : Bool := true
  /-- CFG_STRAP converter code at the pin (R569) -/
  strap : BitVec 4 := 15
  /-- the ALARM_N driver pulls low (R512, R572) -/
  alarmN : Bool := false
  /-- TAMPER_N is still low (R511) -/
  tamperLow : Bool := false
  /-- what COOL_REQ holds through a warm reset, in sixteenths of a period (R572) -/
  coolHeld : Nat := 16
  deriving DecidableEq, Repr, Inhabited

/-- Answers sent on the management path (R491). -/
structure MgmtReply where
  /-- the 7-bit address the path answers at -/
  addr : Nat
  layer : Nat
  command : Nat
  bytes : List Nat
  deriving DecidableEq, Repr, Inhabited

/-- The management path (R491). -/
structure Mgmt where
  /-- dynamic address given by an I3C controller; none means SMBus -/
  i3c : Option (BitVec 7) := none
  eid : BitVec 8 := 0
  out : List MgmtReply := []
  deriving DecidableEq, Repr, Inhabited

/-- The lowest bit of each reset source in RST_CAUSE (R561). -/
inductive Source where
  | por | perst | resetN | warmCmd | wdt | alarm | therm
  deriving DecidableEq, Repr, Inhabited

def Source.bit : Source → Nat
  | .por => 0 | .perst => 1 | .resetN => 2 | .warmCmd => 3 | .wdt => 4 | .alarm => 5 | .therm => 6

def Source.mask (s : Source) : BitVec 7 := BitVec.ofNat 7 (2 ^ s.bit)

/-- Sources of kind cold: POR, PERST and RESET_N (R561). -/
def coldMask : BitVec 7 := 7

/-- The highest version of 1.0 to 1.3 within the host's range, by major then minor (R472). -/
def commonVersion (v : W32) : Option Nat :=
  let hi := fld v 31 16
  let lo := fld v 15 0
  ((List.range 4).filter fun k => decide (lo ≤ 256 + k) && decide (256 + k ≤ hi)).getLast?

/-- A write of CTL_HCI_HOST while no queue is enabled; a chosen version stays (R472). -/
def Ctl.writeHci (c : Ctl) (v : W32) : Ctl :=
  let c := { c with hciHost := v }
  if c.hciValid then c else
  match commonVersion v with
  | some k => { c with hciValid := true, hciNone := false, hciMajor := 1, hciMinor := BitVec.ofNat 8 k }
  | none => { c with hciNone := true }

/-- The state changes; PREV keeps the one before (R492). -/
def Ctl.goto (c : Ctl) (d : Dev) : Ctl := if c.state = d then c else { c with state := d, prev := c.state }

/-- A rejected command is counted and logged (R489). -/
def Ctl.reject (c : Ctl) (opcode : BitVec 8) (sq : Nat) : Ctl :=
  { c with rejCnt := satAdd c.rejCnt 1, rejOpcode := opcode, rejState := BitVec.ofNat 4 c.state.code, rejSq := BitVec.ofNat 6 sq }

/-- The fields a strap code selects (R569). -/
def strapField (code : BitVec 4) (hi lo : Nat) : Nat := (15 - code.toNat) / 2 ^ lo % 2 ^ (hi + 1 - lo)

/-- RST_STATUS (R574). -/
def Rst.status (r : Rst) : W32 :=
  at' 11 (strapField r.code 3 3) + at' 10 (strapField r.code 2 2) + at' 8 (strapField r.code 1 0) + flag 4 r.cold + at' 0 r.code.toNat

/-- A write of RST_WDT_CFG: PERIOD_MS while unlocked, LOCK, KICK (R574). -/
def Rst.writeWdt (r : Rst) (v : W32) : Rst :=
  let p := BitVec.ofNat 16 (max 100 (min 10000 (fld v 15 0)))
  { r with wdtPeriod := if r.wdtLocked then r.wdtPeriod else p
           wdtLocked := r.wdtLocked || bit v 30
           wdtElapsed := if bit v 31 then 0 else r.wdtElapsed }

/-- A write to an RST register (R574). -/
def Rst.writeReg (r : Rst) (off : Nat) (v : W32) : Rst :=
  match off with
  | 0 => { r with cause := r.cause &&& ~~~ (v.setWidth 7) }
  | 8 => r.writeWdt v
  | _ => r

/-- What an RST register reads as (R574). -/
def Rst.readReg (r : Rst) (off : Nat) : W32 :=
  match off with
  | 0 => r.cause.setWidth 32
  | 4 => r.status
  | 8 => flag 30 r.wdtLocked + at' 0 r.wdtPeriod.toNat
  | _ => 0

end Sys2Proof.Machine
end

