-- ==== Sys2Proof/Machine/Bitstream.lean ====
section
/-! DEFINITION. What the stream decoders share: bits in both orders, prefix codes, checks, and what a stream's decoder meets (R389, R407 to R410).
PRESUMED: the formats themselves, which the spec takes over from the standards R389 names without giving their texts (log entry 149). -/

namespace Sys2Proof.Machine

/-- What an image decoder meets in a stream, in order (R389, R408, R410). -/
inductive ImageItem where
  /-- a JPEG frame header: size, sample precision, whether its process is baseline or progressive DCT with Huffman coding, sampling factors by component -/
  | jpeg (w h precision : Nat) (huffmanDct : Bool) (sampling : List (Nat × Nat))
  /-- the component planes of a JPEG image after the integer inverse transform -/
  | planes (p : List (List Nat))
  /-- a PNG header: size, bit depth, colour type -/
  | png (w h depth colour : Nat)
  /-- a PLTE chunk -/
  | palette (rgb : List (Nat × Nat × Nat))
  /-- a tRNS chunk: the key by channel, or alphas by palette index -/
  | trns (v : List Nat)
  /-- the samples of a PNG image, unfiltered and not interlaced, channels interleaved -/
  | pixels (v : List Nat)
  /-- a process, a marker or a method outside what the engines support -/
  | outside
  /-- a syntax error, a failed check, a forbidden value or a reference to data that does not exist -/
  | bad
  deriving DecidableEq, Repr, Inhabited

/-- What a FLAC decoder meets after "fLaC", in order (R389, R409, R410): STREAMINFO and each frame with rate, channels and bits, a frame's codes interleaved. -/
inductive FlacItem where
  | info (rate channels bits : Nat)
  | other
  | frame (rate channels bits : Nat) (codes : List Int)
  | bad
  deriving DecidableEq, Repr, Inhabited

/-- Bits of a byte string, each byte's highest first, or its lowest first. -/
def bitsHigh (bs : List Byte) : List Bool := bs.flatMap fun b => (List.range 8).map fun i => b.toNat / 2 ^ (7 - i) % 2 == 1
def bitsLow (bs : List Byte) : List Bool := bs.flatMap fun b => (List.range 8).map fun i => b.toNat / 2 ^ i % 2 == 1

/-- A number of n bits, its highest bit first. -/
def takeHigh : Nat → List Bool → Option (Nat × List Bool)
  | 0, l => some (0, l)
  | _ + 1, [] => none
  | n + 1, b :: l => (takeHigh n l).map fun r => ((if b then 2 ^ n else 0) + r.1, r.2)

/-- A number of n bits, its lowest bit first. -/
def takeLow : Nat → List Bool → Option (Nat × List Bool)
  | 0, l => some (0, l)
  | _ + 1, [] => none
  | n + 1, b :: l => (takeLow n l).map fun r => ((if b then 1 else 0) + 2 * r.1, r.2)

/-- A signed number of n bits, its highest bit first. -/
def takeSigned (n : Nat) (l : List Bool) : Option (Int × List Bool) :=
  if n = 0 then some (0, l) else (takeHigh n l).map fun r => (signedOf n r.1, r.2)

/-- The number of 0 bits before a 1 bit. -/
def takeUnary : Nat → List Bool → Option (Nat × List Bool)
  | _, [] => none
  | n, b :: l => if b then some (n, l) else takeUnary (n + 1) l

/-- n values read one after another. -/
def takeMany {α : Type} (one : List Bool → Option (α × List Bool)) : Nat → List Bool → Option (List α × List Bool)
  | 0, l => some ([], l)
  | n + 1, l => (one l).bind fun a => (takeMany one n a.2).map fun r => (a.1 :: r.1, r.2)

/-- A number of n bytes, its highest byte first. -/
def highOf (bs : List Byte) : Nat := numOf bs.reverse

/-- A prefix code: length, code and symbol of each word. -/
abbrev PrefixCode := List (Nat × Nat × Nat)

/-- The canonical prefix code of the lengths of its symbols, 0 for a symbol that has no word; the flag says that the lengths leave room for all words. -/
def prefixCode (lens : List Nat) : PrefixCode × Bool :=
  let r := (List.range 17).foldl (fun (s : PrefixCode × Nat × Bool) n => if n = 0 then s else
    let syms := (lens.zipIdx.filter fun p => p.1 == n).map (·.2)
    (s.1 ++ syms.zipIdx.map (fun p => (n, 2 * s.2.1 + p.2, p.1)), 2 * s.2.1 + syms.length,
      s.2.2 && decide (2 * s.2.1 + syms.length ≤ 2 ^ n))) ([], 0, true)
  (r.1, r.2.2)

/-- The symbol of the next word: n bits have been read and make up c. -/
def takeWord (t : PrefixCode) : Nat → Nat → List Bool → Option (Nat × List Bool)
  | _, _, [] => none
  | n, c, b :: l =>
    let c := 2 * c + if b then 1 else 0
    match t.find? fun e => e.1 == n + 1 && e.2.1 == c with
    | some e => some (e.2.2, l)
    | none => if 15 ≤ n then none else takeWord t (n + 1) c l

/-- A CRC of w bits with its register's high bit first. -/
def crcHigh (w poly : Nat) (bs : List Byte) : Nat :=
  bs.foldl (fun c b => (List.range 8).foldl (fun c _ => if 2 ^ (w - 1) ≤ c then (2 * c % 2 ^ w) ^^^ poly else 2 * c) (c ^^^ (b.toNat * 2 ^ (w - 8)))) 0

end Sys2Proof.Machine
end

