-- ==== Sys2Proof/Machine/Flac.lean ====
section
/-! DEFINITION. FLAC native streams after "fLaC" (R389, R409, R410; log entry 149). -/

namespace Sys2Proof.Machine

/-- STREAMINFO's rate, channels and bits per sample. -/
structure FlacInfo where
  rate : Nat
  channels : Nat
  bits : Nat
  deriving DecidableEq, Repr, Inhabited

def flacInfo (d : List Byte) : FlacInfo :=
  let v := highOf ((d.drop 10).take 4)
  { rate := v / 2 ^ 12, channels := v / 2 ^ 9 % 8 + 1, bits := v / 2 ^ 4 % 32 + 1 }

/-- A frame's header: samples per channel, rate, channel assignment and bits per sample. -/
structure FlacHead where
  size : Nat
  rate : Nat
  assign : Nat
  bits : Nat
  deriving DecidableEq, Repr, Inhabited

/-- Bytes after the first of a frame's coded number: as many as the first byte has leading 1 bits, less one. -/
def codedTail (b : Nat) : Option Nat :=
  if b < 128 then some 0 else if b < 192 || b = 255 then none
  else some (((List.range 8).takeWhile fun i => b / 2 ^ (7 - i) % 2 == 1).length - 1)

/-- A frame header (its bytes up to its CRC-8): what it says, and how many bytes it takes with the CRC. -/
def flacHead (i : FlacInfo) (bs : List Byte) : Option (FlacHead × Nat) := do
  let b := fun k => (bs.getD k 0).toNat
  let sizeCode := b 2 / 16
  let rateCode := b 2 % 16
  let assign := b 3 / 16
  let bitCode := b 3 / 2 % 8
  let tail ← codedTail (b 4)
  let n1 := 5 + tail
  let sizeBytes := if sizeCode = 6 then 1 else if sizeCode = 7 then 2 else 0
  let n2 := n1 + sizeBytes
  let rateBytes := if rateCode = 12 then 1 else if rateCode = 13 || rateCode = 14 then 2 else 0
  let n3 := n2 + rateBytes
  let sizeField := highOf ((bs.drop n1).take sizeBytes)
  let rateField := highOf ((bs.drop n2).take rateBytes)
  let size := match sizeCode with
    | 1 => 192
    | 6 => sizeField + 1
    | 7 => sizeField + 1
    | c => if c < 6 then 576 * 2 ^ (c - 2) else 256 * 2 ^ (c - 8)
  let rate := match rateCode with
    | 0 => i.rate
    | 12 => rateField * 1000
    | 13 => rateField
    | 14 => rateField * 10
    | c => [88200, 176400, 192000, 8000, 16000, 22050, 24000, 32000, 44100, 48000, 96000].getD (c - 1) 0
  let bits := [i.bits, 8, 12, 0, 16, 20, 24, 32].getD bitCode 0
  if bs.length < n3 + 1 || b 0 ≠ 0xFF || b 1 / 2 ≠ 0x7C || sizeCode = 0 || (sizeCode = 7 && sizeField = 65535) || rateCode = 15 || 10 < assign
    || bitCode = 3 || b 3 % 2 = 1 || !((bs.drop 5).take tail).all (fun x => x.toNat / 64 == 2) || crcHigh 8 0x07 (bs.take n3) ≠ b n3 then none
  else some ({ size := size, rate := rate, assign := assign, bits := bits }, n3 + 1)

/-- A residual of Rice parameter k: quotient, remainder, and the sign in the lowest bit. -/
def takeRice (k : Nat) (l : List Bool) : Option (Int × List Bool) := do
  let (q, l) ← takeUnary 0 l
  let (r, l) ← takeHigh k l
  let v := q * 2 ^ k + r
  some (if v % 2 = 0 then (v / 2 : Nat) else -((v + 1) / 2 : Nat), l)

/-- n partitions of residuals with parameters of `width` bits; the first lacks `order` samples. -/
def takePartitions (width samples : Nat) : Nat → Nat → List Bool → Option (List Int × List Bool)
  | 0, _, l => some ([], l)
  | n + 1, order, l => do
    let (k, l) ← takeHigh width l
    let (a, l) ← if k = 2 ^ width - 1 then do
        let (w, l) ← takeHigh 5 l
        takeMany (takeSigned w) (samples - order) l
      else takeMany (takeRice k) (samples - order) l
    (takePartitions width samples n 0 l).map fun r => (a ++ r.1, r.2)

/-- The residual of a subframe. -/
def takeResidual (size order : Nat) (l : List Bool) : Option (List Int × List Bool) := do
  let (method, l) ← takeHigh 2 l
  let (p, l) ← takeHigh 4 l
  if 1 < method || size % 2 ^ p ≠ 0 || size / 2 ^ p < order then none
  else takePartitions (if method = 0 then 4 else 5) (size / 2 ^ p) (2 ^ p) order l

/-- Samples from their residuals: each adds the weighted sum of those before it, shifted down; `done` holds them newest first. -/
def predict (coefs : List Int) (shift : Nat) : List Int → List Int → List Int
  | [], done => done.reverse
  | r :: rest, done => predict coefs shift rest ((r + (List.zipWith (· * ·) coefs done).foldl (· + ·) 0 / ((2 ^ shift : Nat) : Int)) :: done)

/-- Weights of the fixed predictors, the newest sample's first. -/
def fixedCoefs (order : Nat) : List Int := [[], [1], [2, -1], [3, -3, 1], [4, -6, 4, -1]].getD order []

/-- A subframe: its samples. -/
def takeSubframe (size bits : Nat) (l : List Bool) : Option (List Int × List Bool) := do
  let (first, l) ← takeHigh 1 l
  let (kind, l) ← takeHigh 6 l
  let (flag, l) ← takeHigh 1 l
  let (wasted, l) ← if flag = 0 then some (0, l) else (takeUnary 0 l).map fun r => (r.1 + 1, r.2)
  let n := bits - wasted
  let warm := fun (order : Nat) (l : List Bool) => if size < order then none else takeMany (takeSigned n) order l
  let (xs, l) ←
    if first ≠ 0 || bits ≤ wasted then none
    else if kind = 0 then (takeSigned n l).map fun r => (List.replicate size r.1, r.2)
    else if kind = 1 then takeMany (takeSigned n) size l
    else if 8 ≤ kind && kind ≤ 12 then do
      let (w, l) ← warm (kind - 8) l
      let (res, l) ← takeResidual size (kind - 8) l
      some (predict (fixedCoefs (kind - 8)) 0 res w.reverse, l)
    else if 32 ≤ kind then do
      let order := kind - 31
      let (w, l) ← warm order l
      let (precision, l) ← takeHigh 4 l
      let (shift, l) ← takeSigned 5 l
      let (coefs, l) ← takeMany (takeSigned (precision + 1)) order l
      if precision = 15 || shift < 0 then none else
      let (res, l) ← takeResidual size order l
      some (predict coefs shift.toNat res w.reverse, l)
    else none
  some (xs.map (· * ((2 ^ wasted : Nat) : Int)), l)

/-- The subframes of a frame; of two stereo channels the difference takes one bit more. -/
def takeSubframes (h : FlacHead) : Nat → List Bool → Option (List (List Int) × List Bool)
  | 0, l => some ([], l)
  | n + 1, l =>
    let last := n = 0
    let side := ((h.assign = 8 || h.assign = 10) && last) || (h.assign = 9 && !last)
    (takeSubframe h.size (if side then h.bits + 1 else h.bits) l).bind fun a => (takeSubframes h n a.2).map fun r => (a.1 :: r.1, r.2)

/-- The channels of a frame from its subframes: left and side, side and right, or mid and side. -/
def stereo (assign : Nat) (s : List (List Int)) : List (List Int) :=
  let a := s.getD 0 []
  let b := s.getD 1 []
  match assign with
  | 8 => [a, List.zipWith (· - ·) a b]
  | 9 => [List.zipWith (· + ·) a b, b]
  | 10 => [List.zipWith (fun m d => (2 * m + d % 2 + d) / 2) a b, List.zipWith (fun m d => (2 * m + d % 2 - d) / 2) a b]
  | _ => s

/-- Channels interleaved. -/
def interleaved (size : Nat) (s : List (List Int)) : List Int := (List.range size).flatMap fun i => s.map fun c => c.getD i 0

/-- The frame at the front: its item, and the bytes it takes. Padding to a byte is 0, and a CRC-16 ends it. -/
def flacFrame (i : FlacInfo) (bs : List Byte) : Option (FlacItem × Nat) := do
  let (h, n) ← flacHead i bs
  let channels := if h.assign < 8 then h.assign + 1 else 2
  let l := bitsHigh (bs.drop n)
  let (s, rest) ← takeSubframes h channels l
  let pad := rest.take (rest.length % 8)
  let used := n + (l.length - rest.length + 7) / 8
  if pad.any (·) || bs.length < used + 2 || crcHigh 16 0x8005 (bs.take used) ≠ highOf ((bs.drop used).take 2) then none
  else some (.frame h.rate channels h.bits (interleaved h.size (stereo h.assign s)), used + 2)

/-- Frames up to the end of the payload; each takes at least one byte. -/
def flacFrames (i : FlacInfo) : Nat → List Byte → List FlacItem
  | 0, _ => []
  | n + 1, bs =>
    if bs.isEmpty then [] else
    match flacFrame i bs with
    | none => [.bad]
    | some (x, used) => x :: flacFrames i n (bs.drop used)

/-- The metadata blocks and then the frames. -/
def flacBlocks : Nat → FlacInfo → List Byte → List FlacItem
  | 0, _, _ => [.bad]
  | n + 1, i, bs =>
    let b := (bs.getD 0 0).toNat
    let len := highOf ((bs.drop 1).take 3)
    let d := (bs.drop 4).take len
    let info := b % 128 = 0
    if bs.length < 4 + len || b % 128 = 127 || (info && len ≠ 34) then [.bad] else
    let i := if info then flacInfo d else i
    let rest := bs.drop (4 + len)
    (if info then .info i.rate i.channels i.bits else .other) :: (if 128 ≤ b then flacFrames i rest.length rest else flacBlocks n i rest)

/-- What a FLAC decoder meets after "fLaC" (R389, R409). -/
def flacItems (bs : List Byte) : List FlacItem := flacBlocks (bs.length + 1) default bs

end Sys2Proof.Machine
end

