-- ==== Sys2Proof/Machine/Jpeg.lean ====
section
/-! DEFINITION. JPEG interchange format up to the inverse transform (R389, R408, R410; log entry 149). -/

namespace Sys2Proof.Machine

/-- A component of the frame: its quantisation table from its first scan on, by coefficient the bit position reached so far, and its blocks of
coefficients in zig-zag order, `wide` blocks a row. -/
structure JpegComp where
  id : Nat
  across : Nat
  down : Nat
  table : Nat
  wide : Nat := 0
  quant : List Nat := []
  reached : List (Option Nat) := List.replicate 64 none
  blocks : List (List Int) := []
  deriving DecidableEq, Repr, Inhabited

/-- What a JPEG decoder holds: tables by their numbers (a quantisation table with whether its entries are 16-bit; a prefix code by 16·class + number), and the frame. -/
structure JpegRun where
  quants : List (Nat × Bool × List Nat) := []
  codes : List (Nat × PrefixCode) := []
  restart : Nat := 0
  framed : Bool := false
  progressive : Bool := false
  w : Nat := 0
  h : Nat := 0
  comps : List JpegComp := []
  deriving DecidableEq, Repr, Inhabited

/-- A scan's spectral band and bit positions, and whether its process is progressive. -/
structure JpegScan where
  progressive : Bool
  first : Nat
  last : Nat
  high : Nat
  low : Nat
  deriving DecidableEq, Repr, Inhabited

/-- The signed value of s additional bits. -/
def extendBits (s x : Nat) : Int := if x < 2 ^ (s - 1) then (x : Int) + 1 - ((2 ^ s : Nat) : Int) else x

/-- The DC coefficient of a block: a difference to the prediction, or one more bit. -/
def JpegScan.dc (c : JpegScan) (t : PrefixCode) (pred : Int) (b : List Int) (l : List Bool) : Option (List Int × Int × List Bool) :=
  if c.high ≠ 0 then (takeHigh 1 l).map fun r => (b.set 0 (b.headD 0 + ((r.1 * 2 ^ c.low : Nat) : Int)), pred, r.2)
  else do
    let (s, l) ← takeWord t 0 0 l
    let (x, l) ← if 11 < s then none else takeHigh s l
    let v := pred + if s = 0 then 0 else extendBits s x
    some (b.set 0 (v * ((2 ^ c.low : Nat) : Int)), v, l)

/-- AC coefficients from place k on, in their first scan: the block, and for how many further blocks the band is 0. -/
def JpegScan.acFirst (c : JpegScan) (t : PrefixCode) : Nat → Nat → List Int → List Bool → Option (List Int × Nat × List Bool)
  | 0, _, _, _ => none
  | n + 1, k, b, l =>
    if c.last < k then some (b, 0, l) else do
    let (v, l) ← takeWord t 0 0 l
    let run := v / 16
    let s := v % 16
    if s = 0 && run = 15 then (if c.last < k + 16 then none else c.acFirst t n (k + 16) b l)
    else if s = 0 then
      if !c.progressive && run ≠ 0 then none else (takeHigh run l).map fun r => (b, 2 ^ run + r.1 - 1, r.2)
    else if c.last < k + run || 10 < s then none
    else do
      let (x, l) ← takeHigh s l
      c.acFirst t n (k + run + 1) (b.set (k + run) (extendBits s x * ((2 ^ c.low : Nat) : Int))) l

/-- One more bit for the coefficients from place k on that are not 0: up to the zero after `skip` zeros, or to the end of the band. -/
def JpegScan.correct (c : JpegScan) : Nat → Option Nat → Nat → List Int → List Bool → Option (Nat × List Int × List Bool)
  | 0, _, _, _, _ => none
  | n + 1, skip, k, b, l =>
    if c.last < k then some (k, b, l) else
    let x := b.getD k 0
    if x ≠ 0 then
      (takeHigh 1 l).bind fun r => c.correct n skip (k + 1) (b.set k (x + x.sign * ((r.1 * 2 ^ c.low : Nat) : Int))) r.2
    else if skip = some 0 then some (k, b, l) else c.correct n (skip.map (· - 1)) (k + 1) b l

/-- AC coefficients from place k on, in a later scan. -/
def JpegScan.acLater (c : JpegScan) (t : PrefixCode) : Nat → Nat → List Int → List Bool → Option (List Int × Nat × List Bool)
  | 0, _, _, _ => none
  | n + 1, k, b, l =>
    if c.last < k then some (b, 0, l) else do
    let (v, l) ← takeWord t 0 0 l
    let run := v / 16
    let s := v % 16
    if s = 0 && run < 15 then do
      let (x, l) ← takeHigh run l
      let (_, b, l) ← c.correct 65 none k b l
      some (b, 2 ^ run + x - 1, l)
    else if 1 < s then none
    else do
      let (x, l) ← takeHigh s l
      let (k, b, l) ← c.correct 65 (some run) k b l
      if c.last < k then none
      else c.acLater t n (k + 1) (if s = 0 then b else b.set k ((2 * (x : Int) - 1) * ((2 ^ c.low : Nat) : Int))) l

/-- What decoding holds from block to block of a restart interval: the frame's blocks, DC predictions by component of the scan, blocks left whose band is 0, and the bits left. -/
structure JpegFlow where
  comps : List JpegComp
  preds : List Int
  run : Nat
  left : List Bool
  deriving DecidableEq, Repr, Inhabited

/-- One block: number `at'` of frame component `i`, which is number `j` of the scan with prefix codes `d` and `a`. -/
def JpegScan.block (c : JpegScan) (j i at' : Nat) (d a : PrefixCode) (f : JpegFlow) : Option JpegFlow := do
  let comp := f.comps.getD i default
  let b := comp.blocks.getD at' []
  let (b, pred, l) ← if c.first = 0 then c.dc d (f.preds.getD j 0) b f.left else some (b, f.preds.getD j 0, f.left)
  let from' := max 1 c.first
  let (b, run, l) ←
    if c.last = 0 then some (b, 0, l)
    else if f.run ≠ 0 then
      if c.high = 0 then some (b, f.run - 1, l) else (c.correct 65 none from' b l).map fun r => (r.2.1, f.run - 1, r.2.2)
    else if c.high = 0 then c.acFirst a 64 from' b l else c.acLater a 64 from' b l
  some { comps := f.comps.set i { comp with blocks := comp.blocks.set at' b }, preds := f.preds.set j pred, run := run, left := l }

/-- Size of the grid of MCUs, and of a component's samples. -/
def JpegRun.most (r : JpegRun) : Nat × Nat := (r.comps.foldl (fun m c => max m c.across) 1, r.comps.foldl (fun m c => max m c.down) 1)
def JpegRun.grid (r : JpegRun) : Nat × Nat := ((r.w + 8 * r.most.1 - 1) / (8 * r.most.1), (r.h + 8 * r.most.2 - 1) / (8 * r.most.2))
def JpegRun.plane (r : JpegRun) (c : JpegComp) : Nat × Nat :=
  ((r.w * c.across + r.most.1 - 1) / r.most.1, (r.h * c.down + r.most.2 - 1) / r.most.2)

/-- The MCUs of a scan of the components `sel`: of each block its number in the scan's components and its number in its component. -/
def JpegRun.mcus (r : JpegRun) (sel : List Nat) : List (List (Nat × Nat)) :=
  match sel with
  | [i] =>
    let c := r.comps.getD i default
    let p := r.plane c
    (List.range ((p.2 + 7) / 8)).flatMap fun y => (List.range ((p.1 + 7) / 8)).map fun x => [(0, y * c.wide + x)]
  | _ =>
    (List.range r.grid.2).flatMap fun y => (List.range r.grid.1).map fun x => sel.zipIdx.flatMap fun q =>
      let c := r.comps.getD q.1 default
      (List.range c.down).flatMap fun v => (List.range c.across).map fun u => (q.2, (y * c.down + v) * c.wide + x * c.across + u)

/-- Bytes of the entropy-coded entropySegments from here on, stuffing removed: the entropySegments between RST markers, their numbers in order, and what follows. -/
def entropySegments : List (List Byte) → List Byte → List Byte → Nat → Option (List (List Byte) × List Byte)
  | done, cur, a :: b :: rest, k =>
    if a ≠ 0xFF then entropySegments done (a :: cur) (b :: rest) k
    else if b = 0 then entropySegments done (a :: cur) rest k
    else if b = 0xFF then entropySegments done cur (b :: rest) k
    else if b.toNat / 8 = 0xD0 / 8 then (if b.toNat % 8 = k % 8 then entropySegments (cur.reverse :: done) [] rest (k + 1) else none)
    else some ((cur.reverse :: done).reverse, a :: b :: rest)
  | _, _, _, _ => none

/-- Whether a scan may take the band of a component: a first scan of coefficients not yet met, or one that goes on where the last one ended; AC coefficients after DC ones. -/
def JpegScan.follows (c : JpegScan) (comp : JpegComp) : Bool :=
  ((List.range (c.last + 1)).drop c.first).all (fun k => decide (comp.reached.getD k none = if c.high = 0 then none else some c.high))
    && (c.first == 0 || (comp.reached.headD none).isSome)

/-- A scan: its header's bytes, and the bytes that follow it. Answers the bytes after its entropy-coded entropySegments. -/
def JpegRun.scan (r : JpegRun) (hd rest : List Byte) : Option (JpegRun × List Byte) := do
  let b := fun k => (hd.getD k 0).toNat
  let n := b 0
  let c : JpegScan := { progressive := r.progressive, first := b (1 + 2 * n), last := b (2 + 2 * n), high := b (3 + 2 * n) / 16, low := b (3 + 2 * n) % 16 }
  let sel := (List.range n).map fun j => (r.comps.findIdx fun p => p.id == b (1 + 2 * j))
  let picked := sel.map fun i => r.comps.getD i default
  let band := if r.progressive then c.first ≤ c.last && c.last < 64 && (c.first ≠ 0 || c.last = 0) && (c.first = 0 || n = 1)
      && c.low ≤ 13 && (c.high = 0 || c.high = c.low + 1)
    else c.first = 0 && c.last = 63 && c.high = 0 && c.low = 0
  if hd.length ≠ 4 + 2 * n || n = 0 || 4 < n || !r.framed || !sel.all (fun i => decide (i < r.comps.length))
    || !(sel.zip (sel.drop 1)).all (fun p => decide (p.1 < p.2)) || !band || !picked.all c.follows
    || (n ≠ 1 && 10 < (picked.map fun p => p.across * p.down).foldl (· + ·) 0) then none else
  let code := fun (cls j : Nat) =>
    let id := if cls = 0 then b (2 + 2 * j) / 16 else b (2 + 2 * j) % 16
    let used := if cls = 0 then c.first = 0 && c.high = 0 else c.last ≠ 0
    if !used then some [] else if !r.progressive && 1 < id then none else (r.codes.find? fun e => e.1 == 16 * cls + id).map (·.2)
  let ds ← (List.range n).mapM (code 0)
  let as ← (List.range n).mapM (code 1)
  -- a component keeps the quantisation table it has at its first scan
  let comps ← r.comps.zipIdx.mapM fun p =>
    if !sel.contains p.2 || !p.1.quant.isEmpty then some p.1 else
    match r.quants.find? fun q => q.1 == p.1.table with
    | some (_, false, q) => some { p.1 with quant := q }
    | _ => none
  let (segs, after) ← entropySegments [] [] rest 0
  let ms := r.mcus sel
  let parts := if r.restart = 0 then [ms] else chunks r.restart ms
  if segs.length ≠ parts.length then none else
  let comps ← (parts.zip segs).foldlM (fun comps p => do
    let f ← p.1.flatten.foldlM (fun f u => c.block u.1 (sel.getD u.1 0) u.2 (ds.getD u.1 []) (as.getD u.1 []) f)
      ({ comps := comps, preds := List.replicate n 0, run := 0, left := bitsHigh p.2 } : JpegFlow)
    -- what is left of the last byte is 1 bits
    if f.run ≠ 0 || 8 ≤ f.left.length || !f.left.all (·) then none else some f.comps) comps
  let comps := comps.zipIdx.map fun p => if sel.contains p.2 then
      { p.1 with reached := p.1.reached.zipIdx.map fun q => if c.first ≤ q.2 && q.2 ≤ c.last then some c.low else q.1 } else p.1
  some ({ r with comps := comps }, after)

/-- Quantisation tables of a DQT segment. -/
def JpegRun.dqt : Nat → JpegRun → List Byte → Option JpegRun
  | 0, _, _ => none
  | n + 1, r, bs =>
    match bs with
    | [] => some r
    | t :: bs =>
      let wide := t.toNat / 16 = 1
      let size := if wide then 128 else 64
      let v := (chunks (if wide then 2 else 1) (bs.take size)).map highOf
      if 2 ≤ t.toNat / 16 || 4 ≤ t.toNat % 16 || bs.length < size || v.any (· == 0) then none
      else JpegRun.dqt n { r with quants := (t.toNat % 16, decide wide, v) :: r.quants } (bs.drop size)

/-- Prefix codes of a DHT segment: how many words of each length, and their symbols in order. -/
def JpegRun.dht : Nat → JpegRun → List Byte → Option JpegRun
  | 0, _, _ => none
  | n + 1, r, bs =>
    match bs with
    | [] => some r
    | t :: bs =>
      let lens := ((bs.take 16).zipIdx.map fun p => List.replicate p.1.toNat (p.2 + 1)).flatten
      let syms := (bs.drop 16).take lens.length
      let code := prefixCode lens
      if 2 ≤ t.toNat / 16 || 4 ≤ t.toNat % 16 || bs.length < 16 + lens.length || 256 < lens.length || !code.2 then none
      else JpegRun.dht n { r with codes := (t.toNat, code.1.map fun e => (e.1, e.2.1, (syms.getD e.2.2 0).toNat)) :: r.codes } (bs.drop (16 + lens.length))

/-- A frame header: its item, and the frame where its process is one the engines support. -/
def JpegRun.sof (r : JpegRun) (process : Nat) (d : List Byte) : Option (ImageItem × JpegRun) :=
  let b := fun k => (d.getD k 0).toNat
  let comps := (List.range (b 5)).map fun j => ({ id := b (6 + 3 * j), across := b (7 + 3 * j) / 16, down := b (7 + 3 * j) % 16, table := b (8 + 3 * j) } : JpegComp)
  if r.framed || d.length ≠ 6 + 3 * comps.length || comps.isEmpty
    || !comps.all (fun c => 1 ≤ c.across && c.across ≤ 4 && 1 ≤ c.down && c.down ≤ 4 && c.table < 4 && (comps.filter fun e => e.id == c.id).length == 1) then none
  else
    let r := { r with framed := true, progressive := process = 2, w := highOf ((d.drop 3).take 2), h := highOf ((d.drop 1).take 2), comps := comps }
    let filled := comps.map fun c =>
      let wide := r.grid.1 * c.across
      { c with wide := wide, blocks := List.replicate (wide * (r.grid.2 * c.down)) (List.replicate 64 0) }
    some (.jpeg r.w r.h (b 0) (process = 0 || process = 2) (comps.map fun c => (c.across, c.down)), { r with comps := filled })

/-- The place in zig-zag order of the coefficient at row v and column u: along the diagonals, every second one from its lower end. -/
def zigzag (v u : Nat) : Nat :=
  let s := u + v
  let before := ((List.range 64).filter fun i => i / 8 + i % 8 < s).length
  let inside := (List.range 8).filter fun y => y ≤ s && s - y < 8
  before + (if s % 2 = 0 then inside.filter (fun y => v < y) else inside.filter (fun y => y < v)).length

/-- A component's samples (R408): each block's coefficients times their quantisation, by rows, through the reference decoder's inverse transform. -/
def JpegRun.samples (r : JpegRun) (c : JpegComp) : List Nat :=
  let order := (List.range 64).map fun i => zigzag (i / 8) (i % 8)
  let blocks := c.blocks.map fun b => Config.idct (order.map fun z => b.getD z 0 * ((c.quant.getD z 0 : Nat) : Int))
  let p := r.plane c
  (List.range p.2).flatMap fun y => (List.range p.1).map fun x => (blocks.getD (y / 8 * c.wide + x / 8) []).getD (y % 8 * 8 + x % 8) 0

/-- The marker entropySegments from here on. Every one but a fill byte takes at least two bytes. -/
def jpegSegments : Nat → JpegRun → List Byte → List ImageItem
  | 0, _, _ => [.bad]
  | n + 1, r, bs =>
    let m := (bs.getD 1 0).toNat
    if bs.headD 0 ≠ 0xFF then [.bad]
    else if m = 0xFF then jpegSegments n r (bs.drop 1)
    else if m = 0xD9 then
      (if r.framed && r.comps.all (fun c => (c.reached.headD none).isSome) then [.planes (r.comps.map r.samples)] else [.bad])
        ++ (if 2 < bs.length then [.bad] else [])
    else
      let len := highOf ((bs.drop 2).take 2)
      let d := (bs.drop 4).take (len - 2)
      let rest := bs.drop (2 + len)
      let goes := fun (x : Option JpegRun) => match x with | none => [.bad] | some r => jpegSegments n r rest
      if m < 0xC0 || (0xD0 ≤ m && m < 0xD9) || m = 0xC8 || (0xF0 ≤ m && m < 0xFE) || m = 0xFF || len < 2 || bs.length < 2 + len then [.bad]
      else if m = 0xC4 then goes (JpegRun.dht (len + 1) r d)
      else if m = 0xDB then goes (JpegRun.dqt (len + 1) r d)
      else if m = 0xDD then (if len = 4 then goes (some { r with restart := highOf d }) else [.bad])
      else if m = 0xDA then (match r.scan d rest with | none => [.bad] | some x => jpegSegments n x.1 x.2)
      else if m = 0xCC || m = 0xDC || m = 0xDE || m = 0xDF then [.outside]
      else if 0xE0 ≤ m then goes (some r)
      else match r.sof (m % 16) d with | none => [.bad] | some x => x.1 :: jpegSegments n x.2 rest

/-- What a JPEG decoder meets in a payload (R389, R408). -/
def jpegItems (bs : List Byte) : List ImageItem :=
  if highOf (bs.take 2) = 0xFFD8 then jpegSegments bs.length {} (bs.drop 2) else [.bad]

end Sys2Proof.Machine
end

