-- ==== Sys2Proof/Machine/MediaBlock.lean ====
section
/-! DEFINITION. Decoded fields as positions: the tokeniser, picture resampling, patches, audio and labels (R389, R406 to R412, R421 to R429). -/

namespace Sys2Proof.Machine

/-- Bytes cut before every 0x20 and around every 0x0A (R412). -/
def splitText : List Byte → List (List Byte)
  | [] => []
  | b :: r =>
    match splitText r with
    | [] => [[b]]
    | p :: ps =>
      let h := p.headD 0
      if b = 0x0A || h = 0x20 || h = 0x0A then [b] :: p :: ps else (b :: p) :: ps

/-- The pieces of a text field (R412). -/
def TokSec.textPieces (t : TokSec) (bs : List Byte) : List (List Byte) :=
  (if t.splitMode = 0 then [bs] else splitText bs).flatMap (chunks 4096)

/-- Rank and position of the best pair of a sequence (R412). -/
def TokSec.best (t : TokSec) : Nat → List Nat → Option (Nat × Nat) → Option (Nat × Nat)
  | j, a :: b :: r, acc =>
    let acc := match indexOf (· == (a, b)) t.merges with
      | some k => (match acc with | some (k0, _) => if k < k0 then some (k, j) else acc | none => some (k, j))
      | none => acc
    t.best (j + 1) (b :: r) acc
  | _, _, acc => acc

/-- tokenise_piece of R412; each round shortens the sequence. -/
def TokSec.piece (t : TokSec) : Nat → List Nat → List Nat
  | 0, s => s
  | n + 1, s =>
    match t.best 0 s none with
    | none => s
    | some (k, j) => t.piece n (s.take j ++ [256 + k] ++ s.drop (j + 2))

/-- The tokens of a text field (R412). -/
def TokSec.tokens (t : TokSec) (p : Profile) (bs : List Byte) : List Nat :=
  let special := fun (j : Nat) => if j = none16 then [] else [256 + t.merges.length + j]
  special p.tBos ++ (t.textPieces bs).flatMap (fun b => t.piece b.length (b.map (·.toNat))) ++ special p.tEos

/-- Declared parameters of a field (R390). -/
structure Decl where
  w : Nat := 0
  h : Nat := 0
  frames : Nat := 1
  depth : Nat := 8
  chroma : Nat := 0
  comps : Nat := 1
  fpsNum : Nat := 1
  fpsDen : Nat := 1
  rate : Nat := 0
  channels : Nat := 0
  samples : Nat := 0
  count : Nat := 0
  deriving DecidableEq, Repr, Inhabited

/-- Read the declared bytes of a field type (R390). -/
def parseDecl (type : Nat) (b : List Byte) : Decl :=
  let f := fieldAt b
  match type with
  | 1 => { w := f 0 2, h := f 2 2, frames := f 4 4, depth := f 8 1, chroma := f 9 1, fpsNum := f 10 2, fpsDen := f 12 2 }
  | 2 => { w := f 0 4, h := f 4 4, comps := f 8 1, depth := f 9 1 }
  | 3 => { rate := f 0 4, channels := f 4 1, samples := f 8 8 }
  | 5 => { count := f 0 4 }
  | _ => {}

/-- Window of a picture (R422): resized size, window and offset of one axis; `other` are the other axis's size and target. -/
def windowAxis (mode size target otherSize otherTarget patch : Nat) : Nat × Nat × Nat :=
  match mode with
  | 0 => (target, target, 0)
  | 1 =>
    let r := if otherTarget * size ≥ otherSize * target
      then (size * otherTarget + otherSize - 1) / max otherSize 1 else target
    (r, target, (r - target) / 2)
  | _ => (size, size / patch * patch, (size - size / patch * patch) / 2)

/-- (resized, window, offset) across and down. -/
def Profile.windowX (p : Profile) (d : Decl) : Nat × Nat × Nat := windowAxis p.vMode d.w p.tw d.h p.th p.pw
def Profile.windowY (p : Profile) (d : Decl) : Nat × Nat × Nat := windowAxis p.vMode d.h p.th d.w p.tw p.ph

/-- coord of R423. -/
def coord (x o s r : Nat) : Nat × Nat :=
  let t : Int := ((2 * ((x : Int) + o) + 1) * s - r) * 32768 / (r : Int)
  let t := (max 0 t).toNat
  if s - 1 ≤ t / 65536 then (s - 1, 0) else (t / 65536, t % 65536)

/-- Value of one output channel at a window position (R423), from a component's plane. -/
def Profile.sampleAt (p : Profile) (d : Decl) (c x y : Nat) (plane : Nat → Nat → Nat) : F32 :=
  let wx := p.windowX d
  let wy := p.windowY d
  let i := coord x wx.2.2 d.w wx.1
  let j := coord y wy.2.2 d.h wy.1
  let i1 := min (i.1 + 1) (d.w - 1)
  let j1 := min (j.1 + 1) (d.h - 1)
  let h0 := plane j.1 i.1 * (65536 - i.2) + plane j.1 i1 * i.2
  let h1 := plane j1 i.1 * (65536 - i.2) + plane j1 i1 * i.2
  let v := h0 * (65536 - j.2) + h1 * j.2
  f32Fma (f32Mul (f32OfNat v) 0x2F800000#32) (p.vg.getD c 0) (p.vt.getD c 0)

/-- The plane of output channel c of a picture (R424), whose codes come component after component, row-major, 4:2:0 chroma at half size. -/
def Decl.plane (d : Decl) (video : Bool) (outC c : Nat) (pic : Array Nat) (y x : Nat) : Nat :=
  if video then
    if c = 0 then pic.getD (y * d.w + x) 0
    else if d.chroma = 1 then
      let cw := (d.w + 1) / 2
      pic.getD (d.w * d.h + (c - 1) * (cw * ((d.h + 1) / 2)) + y / 2 * cw + x / 2) 0
    else 2 ^ (d.depth - 1)
  else
    let k := if outC = 1 || d.comps ≤ 2 then 0 else c
    pic.getD (k * d.w * d.h + y * d.w + x) 0

/-- Bytes of an element of a media output (R420, R421, R423). -/
def elemBytes (f32 : Bool) (x : F32) : List Byte :=
  if f32 then bytesOf 4 x.toNat else bytesOf 2 (Fmt.b16.encode .nearest (f32Val x)).1

/-- Counts of the conversions of elements to B16 (R149, R578). -/
def elemCounts (xs : List F32) : Counts :=
  { converted := xs.length, nonfinite := (xs.filter fun x => (Fmt.b16.encode .nearest (f32Val x)).2.2).length
    maxExp := (maxFinite xs).1, anyFinite := (maxFinite xs).2 }

/-- Frames kept of a video (R425). -/
def Profile.keptFrames (p : Profile) (d : Decl) : Nat :=
  min ((d.frames + p.vStride - 1) / p.vStride / p.pt * p.pt) p.vOutFrames

/-- Patch rows and columns of a picture (R425). -/
def Profile.patches (p : Profile) (d : Decl) : Nat × Nat := ((p.windowY d).2.1 / p.ph, (p.windowX d).2.1 / p.pw)

/-- Positions a visual field has (R425), from its declaration. -/
def Profile.visualCount (p : Profile) (d : Decl) (video : Bool) : Nat :=
  (if video then p.keptFrames d / p.pt else 1) * (p.patches d).1 * (p.patches d).2

/-- Elements of the positions of a visual field in the order of R426, planar; `pictures` are the codes of the output pictures. -/
def Profile.visual (p : Profile) (d : Decl) (video : Bool) (pictures : List (List Nat)) : List (List F32) :=
  let pt := if video then p.pt else 1
  let pics := (List.range (if video then p.keptFrames d else 1)).map fun k => (pictures.getD (if video then k * p.vStride else 0) []).toArray
  let n := p.patches d
  (List.range (pics.length / pt)).flatMap fun t => (List.range n.1).flatMap fun r => (List.range n.2).map fun c =>
    (List.range p.outC).flatMap fun ch => (List.range pt).flatMap fun f => (List.range p.ph).flatMap fun y => (List.range p.pw).map fun x =>
      p.sampleAt d ch (c * p.pw + x) (r * p.ph + y) (d.plane video p.outC ch (pics.getD (t * pt + f) #[]))

/-- Mono samples at the profile's rate (R427). -/
def Profile.mono (p : Profile) (d : Decl) (xs : List F32) : List F32 :=
  let m := (chunks (max d.channels 1) xs).map fun c => f32Mul (treeSum c) (f32Rcp (f32OfNat d.channels))
  if d.rate = p.outRate then m else Config.resample d.rate p.outRate m

/-- The samples of log-mel frame f: win of them from f·hop on, windowed and zero-padded to n_fft (R427). -/
def Profile.windowed (p : Profile) (s : List F32) (f : Nat) : List F32 :=
  let w := ((s.drop (f * p.hop)).take p.win).zipIdx.map fun x => Config.hann p.win x.2 x.1
  w ++ List.replicate (p.nFft - w.length) 0

/-- Log-mel elements of a frame by mel bin (R427): fma(log2(max(m, 2^-40)), ag, at), where m are the filtered powers of the frame. The window, the
transform and the filters are free functions, their bits being the vector set's (R428, log entry 156). -/
def Profile.melFrame (p : Profile) (s : List F32) (f : Nat) : List F32 :=
  let power := (Config.binPowers p.nFft (p.windowed s f)).take (p.nFft / 2 + 1)
  (List.range p.nMels).map fun b => let x := Config.melFilter p.outRate p.nFft p.nMels b power; f32Fma (f32Log2 (if f32Lt x 0x2B800000#32 then 0x2B800000#32 else x)) p.ag p.at'

/-- Elements of the positions of an audio field (R427). -/
def Profile.audio (p : Profile) (d : Decl) (xs : List F32) : List (List F32) :=
  let s := p.mono d xs
  if p.aMode = 0 then
    let frames := if p.win ≤ s.length then 1 + (s.length - p.win) / p.hop else 0
    (List.range (frames / p.aStack)).map fun j =>
      let e := (List.range p.aStack).map fun f => p.melFrame s (j * p.aStack + f)
      (List.range p.nMels).flatMap fun b => e.map fun x => x.getD b 0
  else
    ((chunks p.chunk s).filter fun c => c.length == p.chunk).map fun c => c.map fun x => f32Fma x p.ag p.at'

/-- Staging pages of a field beyond the record item (R401). -/
def workPages (type : Nat) (d : Decl) (len : Nat) : Nat :=
  let b := match type with
    | 1 => 24 * d.w * d.h * (if d.depth = 8 then 1 else 2) * (if d.chroma = 1 then 3 else 2) / 2
    | 2 => d.w * d.h * d.comps * (if d.depth = 8 then 1 else 2)
    | 3 => d.samples * d.channels * 4
    | 4 => len * 4
    | _ => 0
  (b + 65535) / 65536

end Sys2Proof.Machine
end

