-- ==== Sys2Proof/Machine/Png.lean ====
section
/-! DEFINITION. PNG datastreams with zlib wrapping DEFLATE (R389, R408, R410; log entry 149). -/

namespace Sys2Proof.Machine

/-- CRC-32 of a PNG chunk and Adler-32 of zlib data (R408). -/
def crc32 (bs : List Byte) : Nat := crcReg 0xEDB88320 0xFFFFFFFF bs ^^^ 0xFFFFFFFF
def adler32 (bs : List Byte) : Nat :=
  let r := bs.foldl (fun (s : Nat × Nat) b => ((s.1 + b.toNat) % 65521, (s.1 + b.toNat + s.2) % 65521)) (1, 0)
  r.2 * 65536 + r.1

/-- Base and extra bits of the length symbols from 257 and of the distance symbols of DEFLATE: `free` symbols without extra bits, then `every`
symbols to each number of extra bits. -/
def deflateSteps (first free every n : Nat) : List (Nat × Nat) :=
  ((List.range n).foldl (fun (s : List (Nat × Nat) × Nat) k =>
    let e := if k < free then 0 else (k - free) / every + 1
    (s.1 ++ [(s.2, e)], s.2 + 2 ^ e)) ([], first)).1
def lengthSteps : List (Nat × Nat) := deflateSteps 3 8 4 28 ++ [(258, 0)]
def distanceSteps : List (Nat × Nat) := deflateSteps 1 4 2 30

/-- n bytes copied from a distance back; the output stands newest first. -/
def copyBack (d : Nat) : Nat → List Byte → List Byte
  | 0, out => out
  | n + 1, out => copyBack d n (out.getD (d - 1) 0 :: out)

/-- The symbols of a DEFLATE block up to its end; each takes at least one bit, so that many are fuel enough. -/
def inflateSymbols (lit dist : PrefixCode) (window : Nat) : Nat → List Bool → List Byte → Option (List Bool × List Byte)
  | 0, _, _ => none
  | n + 1, l, out => do
    let (x, l) ← takeWord lit 0 0 l
    if x < 256 then inflateSymbols lit dist window n l (BitVec.ofNat 8 x :: out)
    else if x = 256 then some (l, out)
    else
      let (base, e) ← lengthSteps[x - 257]?
      let (len, l) ← takeLow e l
      let (y, l) ← takeWord dist 0 0 l
      let (far, e) ← distanceSteps[y]?
      let (d, l) ← takeLow e l
      if out.length < far + d || window < far + d then none
      else inflateSymbols lit dist window n l (copyBack (far + d) (base + len) out)

/-- Code lengths of a dynamic block: n of them, read by their own code. -/
def dynamicLengths (t : PrefixCode) (n : Nat) : Nat → List Bool → List Nat → Option (List Nat × List Bool)
  | 0, _, _ => none
  | fuel + 1, l, got =>
    if got.length = n then some (got, l) else if n < got.length then none else do
    let (x, l) ← takeWord t 0 0 l
    if x < 16 then dynamicLengths t n fuel l (got ++ [x])
    else if x = 16 then
      let p ← got.getLast?
      let (r, l) ← takeLow 2 l
      dynamicLengths t n fuel l (got ++ List.replicate (3 + r) p)
    else
      let (r, l) ← takeLow (if x = 17 then 3 else 7) l
      dynamicLengths t n fuel l (got ++ List.replicate ((if x = 17 then 3 else 11) + r) 0)

/-- The two codes of a dynamic block. -/
def dynamicCodes (l : List Bool) : Option (PrefixCode × PrefixCode × List Bool) := do
  let (hlit, l) ← takeLow 5 l
  let (hdist, l) ← takeLow 5 l
  let (hclen, l) ← takeLow 4 l
  let (cl, l) ← takeMany (takeLow 3) (hclen + 4) l
  let order := [16, 17, 18, 0, 8, 7, 9, 6, 10, 5, 11, 4, 12, 3, 13, 2, 14, 1, 15]
  let t := prefixCode ((List.range 19).map fun x => match indexOf (· == x) order with | some i => cl.getD i 0 | none => 0)
  let (lens, l) ← dynamicLengths t.1 (hlit + 257 + hdist + 1) (hlit + hdist + 260) l []
  let lit := prefixCode (lens.take (hlit + 257))
  let dist := prefixCode (lens.drop (hlit + 257))
  if 29 < hlit || 29 < hdist || !t.2 || !lit.2 || !dist.2 || lens.getD 256 0 = 0 then none else some (lit.1, dist.1, l)

/-- The codes of a fixed block. -/
def fixedCodes : PrefixCode × PrefixCode :=
  ((prefixCode (List.replicate 144 8 ++ List.replicate 112 9 ++ List.replicate 24 7 ++ List.replicate 8 8)).1, (prefixCode (List.replicate 30 5)).1)

/-- The blocks of DEFLATE data up to the last: the bits left over, and the output newest first. -/
def inflateBlocks (window : Nat) : Nat → List Bool → List Byte → Option (List Bool × List Byte)
  | 0, _, _ => none
  | n + 1, l, out => do
    let (last, l) ← takeLow 1 l
    let (kind, l) ← takeLow 2 l
    let r ← match kind with
      | 0 => do
        let (len, l) ← takeLow 16 (l.drop (l.length % 8))
        let (inv, l) ← takeLow 16 l
        if len + inv ≠ 65535 then none else
        let (bs, l) ← takeMany (takeLow 8) len l
        some (l, (bs.map (BitVec.ofNat 8)).reverse ++ out)
      | 1 => inflateSymbols fixedCodes.1 fixedCodes.2 window (l.length + 1) l out
      | 2 => do
        let (lit, dist, l) ← dynamicCodes l
        inflateSymbols lit dist window (l.length + 1) l out
      | _ => none
    if last = 1 then some r else inflateBlocks window n r.1 r.2

/-- What zlib data holds (R389, R408): its header, its blocks and its Adler-32 must be in order and nothing may follow. -/
def zlibData (bs : List Byte) : Option (List Byte) := do
  let cmf := (bs.getD 0 0).toNat
  let flg := (bs.getD 1 0).toNat
  if bs.length < 2 || cmf % 16 ≠ 8 || 7 < cmf / 16 || (cmf * 256 + flg) % 31 ≠ 0 || flg / 32 % 2 = 1 then none else
  let l := bitsLow (bs.drop 2)
  let (l, out) ← inflateBlocks (2 ^ (cmf / 16 + 8)) (l.length + 1) l []
  let tail := bs.drop (bs.length - l.length / 8)
  if tail.length = 4 && highOf tail = adler32 out.reverse then some out.reverse else none

/-- Number of channels of a PNG colour type. -/
def pngChannels (colour : Nat) : Nat := match colour with | 2 => 3 | 4 => 2 | 6 => 4 | _ => 1

/-- The predictor of PNG filter 4. -/
def paeth (a b c : Nat) : Nat :=
  let p : Int := (a : Int) + b - c
  let d := fun (x : Nat) => (p - x).natAbs
  if d a ≤ d b && d a ≤ d c then a else if d b ≤ d c then b else c

/-- A filtered row undone, with the row above: `done` holds the bytes so far, newest first; each byte comes with the one above it and the one above
and to the left of it. -/
def unfilter (kind bpp : Nat) : List (Byte × Byte × Byte) → List Byte → List Byte
  | [], done => done.reverse
  | (x, b, c) :: r, done =>
    let a := if bpp ≤ done.length then (done.getD (bpp - 1) 0).toNat else 0
    let p := match kind with | 0 => 0 | 1 => a | 2 => b.toNat | 3 => (a + b.toNat) / 2 | _ => paeth a b.toNat c.toNat
    unfilter kind bpp r (BitVec.ofNat 8 (x.toNat + p) :: done)

/-- n rows of a pass of row bytes: its rows, and what data is left. -/
def pngRows (bpp size : Nat) : Nat → List Byte → List Byte → Option (List (List Byte) × List Byte)
  | 0, _, bs => some ([], bs)
  | n + 1, above, bs =>
    let kind := (bs.getD 0 0).toNat
    if bs.length < size + 1 || 4 < kind then none else
    let row := unfilter kind bpp (((bs.drop 1).take size).zip (above.zip (List.replicate bpp 0 ++ above))) []
    (pngRows bpp size n row (bs.drop (size + 1))).map fun r => (row :: r.1, r.2)

/-- The seven passes of Adam7: first column and row, and the steps between columns and rows. -/
def adam7 : List (Nat × Nat × Nat × Nat) :=
  [(0, 0, 8, 8), (4, 0, 8, 8), (0, 4, 4, 8), (2, 0, 4, 4), (0, 2, 2, 4), (1, 0, 2, 2), (0, 1, 1, 2)]

/-- Samples of each pass by row, each pixel a list of its channels. -/
def pngPasses (w h depth chans : Nat) : List (Nat × Nat × Nat × Nat) → List Byte → Option (List (List (List (List Nat))))
  | [], bs => if bs.isEmpty then some [] else none
  | (x0, y0, dx, dy) :: r, bs => do
    let pw := (w + dx - 1 - x0) / dx
    let ph := if pw = 0 then 0 else (h + dy - 1 - y0) / dy
    let size := (pw * chans * depth + 7) / 8
    let (rows, bs) ← pngRows (max 1 (chans * depth / 8)) size ph (List.replicate size 0) bs
    let px := rows.map fun row => ((chunks chans ((chunks depth (bitsHigh row)).map fun b => ((takeHigh depth b).getD (0, [])).1))).take pw
    (pngPasses w h depth chans r bs).map (px :: ·)

/-- Samples of an image, row after row, channels interleaved. -/
def pngPixels (w h depth colour : Nat) (interlaced : Bool) (bs : List Byte) : Option (List Nat) := do
  let passes := if interlaced then adam7 else [(0, 0, 1, 1)]
  let px ← pngPasses w h depth (pngChannels colour) passes bs
  let find := fun (x y : Nat) => (passes.zip px).findSome? fun p =>
    if p.1.1 ≤ x && (x - p.1.1) % p.1.2.2.1 = 0 && p.1.2.1 ≤ y && (y - p.1.2.1) % p.1.2.2.2 = 0
    then some ((p.2.getD ((y - p.1.2.1) / p.1.2.2.2) []).getD ((x - p.1.1) / p.1.2.2.1) []) else none
  some ((List.range h).flatMap fun y => (List.range w).flatMap fun x => (find x y).getD [])

/-- The image header of a PNG: size, bit depth, colour type, interlace. -/
structure PngHead where
  w : Nat
  h : Nat
  depth : Nat
  colour : Nat
  adam : Bool
  deriving DecidableEq, Repr, Inhabited

/-- IHDR's data. -/
def parseIhdr (d : List Byte) : Option PngHead :=
  let b := fun i => (d.getD i 0).toNat
  let x : PngHead := { w := highOf (d.take 4), h := highOf ((d.drop 4).take 4), depth := b 8, colour := b 9, adam := b 12 == 1 }
  let depths := match x.colour with | 0 => [1, 2, 4, 8, 16] | 3 => [1, 2, 4, 8] | 2 => [8, 16] | 4 => [8, 16] | 6 => [8, 16] | _ => []
  if d.length = 13 && 1 ≤ x.w && 1 ≤ x.h && x.w < 2 ^ 31 && x.h < 2 ^ 31 && depths.contains x.depth && b 10 = 0 && b 11 = 0 && b 12 ≤ 1 then some x else none

/-- Where a PNG stands: before its data, in it, after it. -/
inductive PngAt where
  | before | data | after
  deriving DecidableEq, Repr, Inhabited

/-- A tRNS chunk's values, where it may stand and has its length: the key by channel, or up to as many alphas as the palette has entries. -/
def parseTrns (x : PngHead) (palette : Nat) (d : List Byte) : Option (List Nat) :=
  match x.colour with
  | 0 => if d.length = 2 then some [highOf d] else none
  | 2 => if d.length = 6 then some ((chunks 2 d).map highOf) else none
  | 3 => if 1 ≤ d.length && d.length ≤ palette then some (d.map (·.toNat)) else none
  | _ => none

/-- The chunks of a PNG after IHDR, up to IEND, which ends the payload. `rgb` and `key` are the sizes of the PLTE and tRNS chunks met; `zs` the zlib
data so far. The pixels are decoded when the first chunk after the last IDAT comes. -/
def pngChunks (x : PngHead) : Nat → PngAt → Nat → Nat → List Byte → List Byte → List ImageItem
  | 0, _, _, _, _, _ => [.bad]
  | n + 1, place, rgb, key, zs, bs =>
    let len := highOf (bs.take 4)
    let type := highOf ((bs.drop 4).take 4)
    let d := (bs.drop 8).take len
    let rest := bs.drop (12 + len)
    if bs.length < 12 + len then [.bad] else
    let idat := decide (type = 0x49444154)
    let pixels := if place = .data && !idat then (match zlibData zs with
      | none => [.bad]
      | some raw => match pngPixels x.w x.h x.depth x.colour x.adam raw with | none => [.bad] | some v => [.pixels v]) else []
    let place := if place = .data && !idat then .after else place
    pixels ++
      if crc32 ((bs.drop 4).take (4 + len)) ≠ highOf ((bs.drop (8 + len)).take 4) then [.bad]
      else if idat then (if place = .after || (x.colour = 3 && rgb = 0) then [.bad] else pngChunks x n .data rgb key (zs ++ d) rest)
      else if type = 0x49454E44 then (if len = 0 && place = .after && rest.isEmpty then [] else [.bad])
      else if type = 0x504C5445 then
        if place ≠ .before || rgb ≠ 0 || key ≠ 0 || len % 3 ≠ 0 || len = 0 || 768 < len || x.colour = 0 || x.colour = 4 || (x.colour = 3 && 2 ^ x.depth < len / 3) then [.bad]
        else .palette ((chunks 3 d).map fun c => ((c.getD 0 0).toNat, (c.getD 1 0).toNat, (c.getD 2 0).toNat)) :: pngChunks x n place (len / 3) key zs rest
      else if type = 0x74524E53 then
        match if place ≠ .before || key ≠ 0 then none else parseTrns x rgb d with
        | none => [.bad]
        | some v => .trns v :: pngChunks x n place rgb v.length zs rest
      -- an ancillary chunk has bit 5 of its type's first byte set
      else if type / 2 ^ 29 % 2 = 1 then pngChunks x n place rgb key zs rest
      else [.bad]

/-- What a PNG decoder meets in a payload (R389, R408). -/
def pngItems (bs : List Byte) : List ImageItem :=
  let d := (bs.drop 16).take 13
  if highOf (bs.take 8) ≠ 0x89504E470D0A1A0A || bs.length < 33 || highOf ((bs.drop 8).take 8) ≠ 0x0000000D49484452
    || crc32 ((bs.drop 12).take 17) ≠ highOf ((bs.drop 29).take 4) then [.bad] else
  match parseIhdr d with
  | none => [.bad]
  | some x => .png x.w x.h x.depth x.colour :: pngChunks x bs.length .before 0 0 [] (bs.drop 33)

end Sys2Proof.Machine
end

