-- ==== Sys2Proof/Machine/Decoders.lean ====
section
/-! DEFINITION. The decode engines: what a stream's decoder meets, held to the engines' subsets and to the field's declaration (R389, R407 to R410). -/

namespace Sys2Proof.Machine

/-- What a decoder makes of a payload: its output as far as it goes, and the reason code it ends with, 0 when the stream holds (R410, R416). -/
structure Decoded (α : Type) where
  out : List α
  code : Nat
  deriving DecidableEq, Repr, Inhabited

/-- Whether a picture has the declared shape (R410). -/
def Decl.videoShape (d : Decl) (p : Config.Picture) : Bool := p.w == d.w && p.h == d.h && p.depth == d.depth && p.chroma == d.chroma

/-- What one item of a video stream does (R407, R410): a reason code, or 0. `ready` says that the first picture has been met, or for AV1 none yet
but a sequence header. DESIGN CHOICE: a first picture that is no random access point, or that no sequence header precedes, is UNSUPPORTED (log
entry 131). -/
def Decl.videoItem (d : Decl) (first ready : Bool) : Config.VideoItem → Nat
  | .hevc profile level fieldSeq shape =>
    if !(profile == 1 || profile == 2) || 153 < level || fieldSeq || shape.chroma ≠ 1 then 0x16 else if d.videoShape shape then 0 else 0x17
  | .fieldOrDouble => 0x16
  | .av1 profile level large point shape =>
    if profile ≠ 0 || 13 < level || large || point ≠ 0 || 1 < shape.chroma || !(shape.depth == 8 || shape.depth == 10) then 0x16
    else if d.videoShape shape then 0 else 0x17
  | .coded random => if first && !(random && ready) then 0x16 else 0
  | .picture p => if d.videoShape p then 0 else 0x17
  | .bad => 0x15

/-- The pictures of a video stream (R410, R425): `need` pictures end the decoding; the flags say that no coded picture has been met, and that one
may come (R407: in AV1 after a sequence header). -/
def Decl.video (d : Decl) (need : Nat) : Bool → Bool → List (List Nat) → List Config.VideoItem → Decoded (List Nat)
  | first, ready, out, items =>
    if need ≠ 0 && need ≤ out.length then { out := out, code := 0 } else
    match items with
    | [] => { out := out, code := if out.length = d.frames then 0 else 0x17 }
    | i :: rest =>
      let c := d.videoItem first ready i
      if c ≠ 0 then { out := out, code := c } else
      match i with
      | .picture p => if out.length = d.frames then { out := out, code := 0x17 } else d.video need first ready (out ++ [p.codes]) rest
      | .coded _ => d.video need false ready out rest
      | .av1 .. => d.video need first true out rest
      | _ => d.video need first ready out rest

/-- Pictures after which decoding stops: up to the last kept frame, where the video has an output and keeps one (R425); 0 is no such end. -/
def Profile.needFrames (p : Profile) (d : Decl) : Nat :=
  let k := p.keptFrames d
  if (p.out.getD 0 default).region = none32 || k = 0 then 0 else (k - 1) * p.vStride + 1

/-- State of an image decoder (R408). -/
structure ImageRun where
  /-- sampling factors of the JPEG components -/
  sampling : List (Nat × Nat) := []
  depth : Nat := 0
  colour : Nat := 0
  rgb : List (Nat × Nat × Nat) := []
  trns : Option (List Nat) := none
  out : List (List Nat) := []
  deriving DecidableEq, Repr, Inhabited

/-- A colour component rounded to the nearest code and held to 8 bits: `num`/`den`, halves upwards. -/
def colourCode (num : Int) (den : Nat) : Nat := min 255 ((2 * num + den) / (2 * den)).toNat

/-- R, G and B of Y, Cb and Cr by the equations of ITU-T T.871 (R408): R = Y + 1.402·(Cr − 128), B = Y + 1.772·(Cb − 128),
G = Y − (0.114·1.772·(Cb − 128) + 0.299·1.402·(Cr − 128))/0.587. PRESUMED: the numbers, which T.871 holds and the spec cites (log entry 155). -/
def jpegRgb (y cb cr : Nat) : Nat × Nat × Nat :=
  let b : Int := (cb : Int) - 128
  let r : Int := (cr : Int) - 128
  (colourCode (1000 * y + 1402 * r) 1000, colourCode (587000 * y - 202008 * b - 419198 * r) 587000, colourCode (1000 * y + 1772 * b) 1000)

/-- RGB planes of JPEG component planes (R408): chroma replicated to the picture's grid, three components converted. -/
def Decl.jpegPicture (d : Decl) (sampling : List (Nat × Nat)) (planes : List (List Nat)) : List Nat :=
  let hm := sampling.foldl (fun m s => max m s.1) 1
  let vm := sampling.foldl (fun m s => max m s.2) 1
  let at' := fun (i x y : Nat) =>
    let s := sampling.getD i (1, 1)
    let w := (d.w * s.1 + hm - 1) / hm
    (planes.getD i []).getD (y * s.2 / vm * w + x * s.1 / hm) 0
  let grid := (List.range d.h).flatMap fun y => (List.range d.w).map fun x => (x, y)
  if d.comps = 1 then grid.map fun q => at' 0 q.1 q.2
  else
    let px := grid.map fun q => jpegRgb (at' 0 q.1 q.2) (at' 1 q.1 q.2) (at' 2 q.1 q.2)
    px.map (·.1) ++ px.map (·.2.1) ++ px.map (·.2.2)

/-- Channels of a PNG after expansion (R390). DEDUCED: a grey image with a tRNS chunk is grey with alpha (log entry 132). -/
def pngComps (colour : Nat) (trns : Bool) : Nat :=
  match colour with
  | 0 => if trns then 2 else 1
  | 4 => 2
  | 6 => 4
  | _ => if trns then 4 else 3

/-- One pixel of a PNG expanded (R408): palette and tRNS, sub-8-bit samples widened by bit replication. -/
def ImageRun.pixel (r : ImageRun) (v : List Nat) : List Nat :=
  let full := 2 ^ max r.depth 8 - 1
  let wide := fun (x : Nat) => if r.depth < 8 then x * (255 / (2 ^ r.depth - 1)) else x
  let alpha := match r.trns with | some k => (if r.colour = 3 then [] else [if v = k then 0 else full]) | none => []
  if r.colour = 3 then
    let i := v.headD 0
    let c := r.rgb.getD i (0, 0, 0)
    [c.1, c.2.1, c.2.2] ++ (match r.trns with | some k => [k.getD i 255] | none => [])
  else v.map wide ++ alpha

/-- Planes of a PNG image (R408). -/
def ImageRun.pngPicture (r : ImageRun) (comps : Nat) (v : List Nat) : List Nat :=
  let chans := match r.colour with | 2 => 3 | 4 => 2 | 6 => 4 | _ => 1
  let px := (chunks chans v).map r.pixel
  (List.range comps).flatMap fun k => px.map fun p => p.getD k 0

/-- What one item of an image stream does (R408, R410): the run after it, and a reason code or 0. -/
def Decl.imageItem (d : Decl) (r : ImageRun) : ImageItem → ImageRun × Nat
  | .jpeg w h precision dct sampling =>
    if !dct || precision ≠ 8 || !(sampling.length == 1 || sampling.length == 3)
      || !sampling.all (fun s => (s.1 == 1 || s.1 == 2) && (s.2 == 1 || s.2 == 2)) then (r, 0x16)
    else ({ r with sampling := sampling }, if w = d.w && h = d.h && sampling.length = d.comps && d.depth = 8 then 0 else 0x17)
  | .planes p => if r.out.isEmpty then ({ r with out := [d.jpegPicture r.sampling p] }, 0) else (r, 0x17)
  | .png w h depth colour =>
    ({ r with depth := depth, colour := colour }, if w = d.w && h = d.h && d.depth = (if depth = 16 then 16 else 8) then 0 else 0x17)
  | .palette c => ({ r with rgb := c }, 0)
  | .trns v => ({ r with trns := some v }, 0)
  | .pixels v =>
    if !r.out.isEmpty || pngComps r.colour r.trns.isSome ≠ d.comps then (r, 0x17)
    -- a palette index beyond the palette is a reference to data that does not exist (R410)
    else if r.colour = 3 && v.any (fun i => decide (r.rgb.length ≤ i)) then (r, 0x15) else ({ r with out := [r.pngPicture d.comps v] }, 0)
  | .outside => (r, 0x16)
  | .bad => (r, 0x15)

/-- The picture of an image stream (R408, R410). -/
def Decl.image (d : Decl) : ImageRun → List ImageItem → Decoded (List Nat)
  | r, [] => { out := r.out, code := if r.out.isEmpty then 0x17 else 0 }
  | r, i :: rest =>
    let n := d.imageItem r i
    if n.2 ≠ 0 then { out := n.1.out, code := n.2 } else d.image n.1 rest

/-- A signed code of a width as F32: the full scale is 1.0 (R409). -/
def fullScale (bits : Nat) (x : Int) : F32 := f32Of ((Fl.ofInt x).scale2 (1 - (bits : Int)))

/-- Samples join an audio field's output (R410): the first excess one is DECL_MISMATCH. -/
def Decl.more (d : Decl) (out xs : List F32) : Decoded F32 :=
  if d.samples * d.channels < out.length + xs.length then { out := out, code := 0x17 } else { out := out ++ xs, code := 0 }

/-- End of an audio payload (R410). -/
def Decl.audioEnd (d : Decl) (out : List F32) : Decoded F32 :=
  { out := out, code := if out.length = d.samples * d.channels then 0 else 0x17 }

/-- A FLAC stream (R389, R409, R410); `begun` once STREAMINFO has been met. DESIGN CHOICE: a width other than 16 and 24 bits is UNSUPPORTED
(log entry 131). -/
def Decl.flac (d : Decl) : Bool → List F32 → List FlacItem → Decoded F32
  | begun, out, [] => if begun then d.audioEnd out else { out := out, code := 0x15 }
  | begun, out, i :: rest =>
    let shape := fun (rate channels bits : Nat) =>
      if !(bits == 16 || bits == 24) || channels = 0 || 8 < channels then 0x16 else if rate = d.rate && channels = d.channels then 0 else 0x17
    match i with
    | .info rate channels bits =>
      let c := shape rate channels bits
      if begun then { out := out, code := 0x15 } else if c ≠ 0 then { out := out, code := c } else d.flac true out rest
    | .other => if begun then d.flac begun out rest else { out := out, code := 0x15 }
    | .frame rate channels bits codes =>
      let c := if begun then shape rate channels bits else 0x15
      if c ≠ 0 then { out := out, code := c } else
      let r := d.more out (codes.map (fullScale bits))
      if r.code ≠ 0 then r else d.flac begun r.out rest
    | .bad => { out := out, code := 0x15 }

/-- Opus packets (R389, R409, R410), each behind a u16 length from 1 to 1,275; each takes at least three bytes of the payload, so its length is fuel enough. -/
def Decl.opus (d : Decl) : Nat → List (List Byte) → List F32 → List Byte → Decoded F32
  | 0, _, out, _ => d.audioEnd out
  | n + 1, before, out, bs =>
    if bs.isEmpty then d.audioEnd out else
    let len := numOf (bs.take 2)
    if bs.length < 2 || len = 0 || 1275 < len || bs.length < 2 + len then { out := out, code := 0x15 } else
    let pkt := (bs.drop 2).take len
    match Config.opusPacket before pkt with
    | none => { out := out, code := 0x15 }
    | some (ch, codes) =>
      if ch ≠ d.channels then { out := out, code := 0x17 } else
      let r := d.more out (codes.map (fullScale 16))
      if r.code ≠ 0 then r else d.opus n (before ++ [pkt]) r.out (bs.drop (2 + len))

/-- An audio payload as interleaved F32 samples (R389, R409). -/
def Decl.audio (d : Decl) (codec : Nat) (bs : List Byte) : Decoded F32 :=
  match codec with
  | 1 => d.audioEnd ((chunks 2 bs).map fun b => fullScale 16 (signedOf 16 (numOf b)))
  | 2 => d.audioEnd ((chunks 3 bs).map fun b => fullScale 24 (signedOf 24 (numOf b)))
  | 3 => if numOf (bs.take 4) = 0x43614C66 then d.flac false [] (flacItems (bs.drop 4)) else { out := [], code := 0x15 }
  | _ => d.opus bs.length [] [] bs

/-- The pictures of a video or image field (R389, R407, R408). -/
def Profile.pictures (p : Profile) (type codec : Nat) (d : Decl) (bs : List Byte) : Decoded (List Nat) :=
  if type = 1 then d.video (p.needFrames d) true (codec == 1) [] (if codec = 1 then Config.hevc bs else Config.av1 bs)
  else d.image {} (if codec = 1 then jpegItems bs else pngItems bs)

end Sys2Proof.Machine
end

