-- ==== Sys2Proof/Machine/InpBlock.lean ====
section
/-! DEFINITION. Sample contexts, the Sieve, staging pages, engines, the Packer and the INP registers (R385 to R443). -/

namespace Sys2Proof.Machine

/-- Context states (R404). -/
inductive CtxSt where
  | free | sieve | waitPages | fetching | decoding | done | void
  deriving DecidableEq, Repr, Inhabited

/-- Where a field stands: its bytes on their way, waiting for an engine, on one, decoded or dropped with a code (R405, R415). -/
inductive FieldSt where
  | fetch | wait | engine | decoded
  | dropped (code : Nat)
  deriving DecidableEq, Repr, Inhabited

/-- A field of a record (R387). -/
structure Field where
  type : Nat
  codec : Nat
  off : Nat
  len : Nat
  check : Nat
  raw : List Byte
  st : FieldSt := .fetch
  /-- its part of the record's remainder has been read (R393, R403) -/
  got : Bool := false
  data : List Byte := []
  deriving DecidableEq, Repr, Inhabited

def Field.decl (f : Field) : Decl := parseDecl f.type f.raw
def Field.ended (f : Field) : Bool := match f.st with | .decoded => true | .dropped _ => true | _ => false
def Field.kept (f : Field) : Bool := match f.st with | .dropped _ => false | _ => true

/-- A sample descriptor (R391). -/
structure SampleDesc where
  profile : Nat
  source : Nat
  mbEnd : Bool
  len : Nat
  addr : Nat
  recId : Nat
  cookie : W64
  deriving DecidableEq, Repr, Inhabited

def parseSample (b : List Byte) : SampleDesc :=
  let f := fieldAt b
  { profile := f 1 1, source := f 2 1, mbEnd := f 3 1 % 2 == 1, len := f 4 4, addr := f 8 8, recId := f 16 8, cookie := BitVec.ofNat 64 (f 24 8) }

/-- Ranges of R391 whose breach is INVALID_FIELD. -/
def sampleFieldsOk (b : List Byte) : Bool :=
  let f := fieldAt b
  f 0 1 == 1 && decide (f 2 1 ≤ 1) && decide (f 3 1 ≤ 1) && decide (64 ≤ f 4 4) && decide (f 4 4 ≤ 2 ^ 30) && zeroBytes b 32 64

/-- A sample context (R404). -/
structure Ctx where
  st : CtxSt := .free
  e : Entry := default
  d : SampleDesc := default
  version : Nat := 0
  /-- the record's first bytes, read once (R397) -/
  head : List Byte := []
  fields : List Field := []
  /-- the record and working pages it has reserved are counted from here on -/
  reserved : Bool := false
  reason : Nat := 0
  us : Nat := 0
  /-- its emission has begun and not ended (R433) -/
  emitting : Bool := false
  /-- positions of a continued sample not yet placed, by lane, and how many are placed (R431, R435) -/
  left : List (List (Nat × List Byte)) := []
  placed : List Nat := []
  /-- codes of dropped fields by type (R481) -/
  drops : Sparse Nat := []
  deriving DecidableEq, Repr, Inhabited

/-- A piece of a sample in a lane (R435): positions from `pos` on, each with its field type and bytes. -/
structure Piece where
  seq : Nat
  lane : Nat
  pos : Nat
  seg : Nat
  place : Nat
  cells : List (Nat × List Byte)
  deriving DecidableEq, Repr, Inhabited

/-- An entry of a row report (R432). -/
structure RowEntry where
  seq : Nat
  cookie : W64
  seg : Nat := 0xFFFF
  reason : Nat := 0
  flags : Nat := 0
  profile : Nat
  dropped : Nat := 0
  deriving DecidableEq, Repr, Inhabited

/-- A row set (R430, R435, R437). -/
structure RowSet where
  g : Nat
  used : List Nat
  segs : Nat := 0
  entries : List RowEntry := []
  pieces : List Piece := []
  closed : Bool := false
  sealed' : Bool := false
  mbEnd : Bool := false
  deriving DecidableEq, Repr, Inhabited

/-- The INP block. -/
structure Inp where
  /-- SAMPLE entries not yet accepted, in order of arrival (R392, R404) -/
  queue : List Entry := []
  /-- row sets per micro-batch of the image last applied (R419) -/
  mbRows : Nat := 1
  nextSeq : W64 := 0
  /-- contexts that are not FREE, by sequence number -/
  ctx : Sparse Ctx := []
  /-- number of the next row set to open (R430) -/
  nextRow : Nat := 0
  /-- row sets of micro-batches not yet complete -/
  rows : List RowSet := []
  /-- row sets whose slots have not been freed (R431) -/
  live : List Nat := []
  /-- complete micro-batches not yet admitted, with their work counts (R439) -/
  ready : List (Nat × List Nat) := []
  /-- number of the next micro-batch to be admitted -/
  nextMb : Nat := 0
  /-- sequence numbers that CLOSE_MB waits for (R438) -/
  closes : List Nat := []
  /-- close_micro_batch has padding row sets still to write (R431, R438) -/
  closing : Bool := false
  mbDone : W32 := 0
  truncCnt : W32 := 0
  reasonCnt : Sparse W32 := []
  work : Sparse W32 := []
  flushRej : Bool := false
  wrap : Bool := false
  trunc : Bool := false
  voidEmit : Bool := false
  deriving DecidableEq, Repr, Inhabited

/-- A sample's completion (R481). -/
structure SampleDone where
  e : Entry
  seq : Nat
  cookie : W64
  reason : Nat
  drops : List Nat
  deriving DecidableEq, Repr, Inhabited

def Ctx.completion (c : Ctx) (seq : Nat) : SampleDone :=
  { e := c.e, seq := seq, cookie := c.d.cookie, reason := c.reason, drops := (List.range 6).map fun i => c.drops.at (i + 1) }

def Inp.count (x : Inp) (code : Nat) : Inp := { x with reasonCnt := x.reasonCnt.mod code fun n => satAdd n 1 }

/-- Whether positions of the sample are still to be placed. -/
def Ctx.more (c : Ctx) : Bool := c.left.any fun l => !l.isEmpty
/-- Whether positions of a field type are still to be placed. -/
def Ctx.moreOf (c : Ctx) (type : Nat) : Bool := c.left.any fun l => l.any fun p => p.1 == type

/-- Pages a context holds (R401, R434). -/
def Ctx.pages (c : Ctx) : Nat :=
  if !c.reserved || c.st = .void || c.st = .free then 0 else
  (if c.fields.all Field.ended then 0 else (c.d.len + 65535) / 65536)
    + sumN ((c.fields.filter fun f => f.kept && !(c.emitting && (f.type != 1 || f.ended) && !c.moreOf f.type)).map fun f => workPages f.type f.decl f.len)

/-- The staging need of R401. -/
def Ctx.need (c : Ctx) : Nat :=
  (c.d.len + 65535) / 65536 + sumN ((c.fields.filter Field.kept).map fun f => workPages f.type f.decl f.len)

/-- Pages of the staging region, and how many are free. -/
def Image.stagingPages (im : Image) : Nat := match im.prof with | some p => im.regionSize p.stagingRegion / 65536 | none => 0
def Inp.freePages (im : Image) (x : Inp) : Nat := im.stagingPages - sumN (x.ctx.map fun p => p.2.pages)

/-- The head: the lowest sequence number not yet emitted (R433). -/
def Inp.head? (x : Inp) : Option Nat := x.ctx.head?.map (·.1)

/-- A sample is voided (R415): it holds only its reason and no pages; its positions in unsealed row sets become padding (R437). -/
def Inp.void (x : Inp) (seq code : Nat) : Inp :=
  let c := x.ctx.at seq
  let rows := x.rows.map fun r => if r.sealed' then r else
    { r with pieces := r.pieces.filter fun p => p.seq != seq
             entries := r.entries.map fun e => if e.seq == seq then { e with seg := 0xFFFF, reason := code, flags := e.flags ||| 1 } else e }
  { x.count code with
    rows := rows, voidEmit := x.voidEmit || c.emitting
    ctx := x.ctx.put seq { c with st := .void, reason := code, fields := [], head := [], reserved := false, left := [] } }

/-- The profile of a context, by its id (R394). -/
def Image.profile? (im : Image) (i : Nat) : Option Profile := im.prof.bind fun s => s.profiles[i]?
def Ctx.profile (im : Image) (c : Ctx) : Profile := (im.profile? c.d.profile).getD default

/-- A field-level failure (R415): the sample is voided when the type is required, else the field is dropped. -/
def Inp.fieldFail (im : Image) (x : Inp) (seq type code : Nat) : Inp :=
  let c := x.ctx.at seq
  if (c.profile im).required / 2 ^ (type - 1) % 2 = 1 then x.void seq code
  else
    let fs := c.fields.map fun f => if f.type == type then { f with st := .dropped code, data := [] } else f
    let rows := x.rows.map fun r => if r.sealed' then r else
      { r with pieces := r.pieces.map fun p => if p.seq == seq then { p with cells := p.cells.map fun q => if q.1 == type then (0, []) else q } else p
               entries := r.entries.map fun e => if e.seq == seq then { e with dropped := e.dropped ||| 2 ^ (type - 1) } else e }
    { x.count code with rows := rows, ctx := x.ctx.put seq { c with
        fields := fs, drops := c.drops.put type code, left := c.left.map fun l => l.map fun q => if q.1 == type then (0, []) else q } }

/-- Types and codecs of R389, and the profile's mask of codecs of a type (R395). -/
def codecKnown (type codec : Nat) : Bool :=
  match type with
  | 1 => codec == 1 || codec == 2
  | 2 => codec == 1 || codec == 2
  | 3 => decide (1 ≤ codec) && decide (codec ≤ 4)
  | 4 => codec == 1
  | 5 => codec == 1
  | 6 => codec == 0
  | _ => false
def Profile.codecOk (p : Profile) (type codec : Nat) : Bool :=
  match type with
  | 1 => p.vCodecs / 2 ^ (codec - 1) % 2 == 1
  | 2 => p.iCodecs / 2 ^ (codec - 1) % 2 == 1
  | 3 => p.aCodecs / 2 ^ (codec - 1) % 2 == 1
  | _ => true

/-- The check of R398: 0, DIMENSION or FIELD_SIZE. -/
def Profile.declCheck (p : Profile) (f : Field) : Nat :=
  let d := f.decl
  match f.type with
  | 1 => if decide (16 ≤ d.w) && decide (d.w ≤ p.vMaxW) && decide (16 ≤ d.h) && decide (d.h ≤ p.vMaxH) && decide (d.w * d.h ≤ 8912896)
      && decide (1 ≤ d.frames) && decide (d.frames ≤ p.vMaxFrames) && (d.depth == 8 || (d.depth == 10 && p.vMaxDepth == 10))
      && (d.chroma == 1 || (d.chroma == 0 && f.codec == 2)) && d.fpsNum != 0 && d.fpsDen != 0 then 0 else 0x10
  | 2 => if decide (1 ≤ d.w) && decide (d.w ≤ p.iMaxW) && decide (1 ≤ d.h) && decide (d.h ≤ p.iMaxH)
      && (if f.codec = 1 then (d.comps == 1 || d.comps == 3) && d.depth == 8
          else decide (1 ≤ d.comps) && decide (d.comps ≤ 4) && (d.depth == 8 || d.depth == 16)) then 0 else 0x10
  | 3 =>
    if !(decide (8000 ≤ d.rate) && decide (d.rate ≤ p.aMaxRate) && (f.codec != 4 || d.rate == 48000)
        && decide (1 ≤ d.channels) && decide (d.channels ≤ p.aMaxChannels) && (f.codec != 4 || decide (d.channels ≤ 2))
        && decide (1 ≤ d.samples) && decide (d.samples ≤ p.aMaxSamples)) then 0x10
    else if f.codec ≤ 2 && f.len != d.samples * d.channels * (f.codec + 1) then 0x12 else 0
  | 4 => if f.len ≤ p.tMaxBytes then 0 else 0x12
  | 5 => if d.count = 0 || p.lMax < d.count then 0x10 else if f.len = 4 * d.count then 0 else 0x12
  | _ => 0

/-- The ratio check of R400. -/
def Profile.ratioOk (p : Profile) (f : Field) : Bool :=
  let d := f.decl
  match f.type with
  | 1 => decide (d.w * d.h * d.frames * 256 ≤ p.vRatio * f.len)
  | 2 => decide (d.w * d.h * 256 ≤ p.iRatio * f.len)
  | 3 => f.codec ≤ 2 || decide (d.samples * d.channels * 256 ≤ p.aRatio * f.len)
  | _ => true

/-- Header and entry size of a version (R385), and the width of its offsets and of its check values. -/
def recSizes (v : Nat) : Nat × Nat × Nat := if v = 1 then (32, 32, 4) else (64, 48, 8)
/-- Check value of a version (R385, R388). -/
def recCheck (v : Nat) (bs : List Byte) : Nat := if v = 1 then crc32c bs else crc64 bs

/-- The field table of a record (R387). -/
def recFields (v n : Nat) (bs : List Byte) : List Field :=
  let (h, e, w) := recSizes v
  (List.range n).map fun i =>
    let b := bs.drop (h + i * e)
    let f := fieldAt b
    { type := f 0 1, codec := f 1 1, off := f w w, len := f (2 * w) w, check := f (3 * w) w, raw := (b.drop (4 * w)).take 16 }

/-- Whether the declared bytes that R390 does not name are zero. -/
def declClear (type : Nat) (raw : List Byte) : Bool :=
  match type with
  | 1 => zeroBytes raw 14 16
  | 2 => zeroBytes raw 10 16
  | 3 => zeroBytes raw 5 8
  | 5 => zeroBytes raw 4 16
  | 4 => zeroBytes raw 0 16
  | 6 => zeroBytes raw 0 16
  | _ => true

/-- The sample-level checks of the record's header (R397): the first failure's code, or version and fields. -/
def sieveHead (p : Profile) (d : SampleDesc) (bs : List Byte) : Nat ⊕ (Nat × List Field) :=
  let f := fieldAt bs
  let v := f 4 2
  if f 0 4 ≠ 0x434E4954 then .inl 0x03
  else if !((v == 1 && p.v1) || (v == 2 && p.v2)) then .inl 0x04
  else
    let (h, e, w) := recSizes v
    let n := f 6 2
    let fin := h + n * e
    let resH := if v = 1 then zeroBytes bs 12 16 && zeroBytes bs 24 28 else zeroBytes bs 24 56
    let resE := (List.range n).all fun i => zeroBytes bs (h + i * e + 2) (h + i * e + w)
      && declClear (f (h + i * e) 1) ((bs.drop (h + i * e + 4 * w)).take 16)
    if n = 0 || 16 < n || d.len < fin || !resH || !resE then .inl 0x06
    else if recCheck v (bs.take (h - w) ++ (bs.drop h).take (n * e)) ≠ f (h - w) w then .inl 0x05
    else if f 8 w ≠ d.len then .inl 0x06
    else if d.recId ≠ 0 && f 16 8 ≠ d.recId then .inl 0x07
    else
      let fs := recFields v n bs
      let bad := fs.zipIdx.findSome? fun (x, i) =>
        let before := fs.take i
        if !codecKnown x.type x.codec || p.permitted / 2 ^ (x.type - 1) % 2 = 0 || !p.codecOk x.type x.codec
          || before.any (fun y => y.type == x.type) then some 0x09
        else if x.len = 0 || x.off < fin || d.len < x.off + x.len
          || before.any (fun y => decide (x.off < y.off + y.len) && decide (y.off < x.off + x.len)) then some 0x06
        else none
      match bad with
      | some c => .inl c
      | none =>
        if (List.range 6).any fun t => p.required / 2 ^ t % 2 == 1 && !fs.any fun x => x.type == t + 1 then .inl 0x0A
        else .inr (v, fs)

/-- The checks that need no byte of the record (R397): 0 when they hold. `mapped` is R393's condition for device memory. -/
def sieveFirst (im : Image) (d : SampleDesc) (mapped : Bool) : Nat :=
  match im.profile? d.profile with
  | none => 0x08
  | some p => if d.addr % 64 ≠ 0 || (d.source == 1 && !mapped) then 0x02 else if p.maxRecord < d.len then 0x0B else 0

/-- A sample's header bytes have arrived: the rest of the Sieve (R397, R398, R400, R401). -/
def Inp.sieve (im : Image) (x : Inp) (seq : Nat) (bs : List Byte) (err : Bool) : Inp :=
  let c := x.ctx.at seq
  let p := c.profile im
  if err then x.void seq 0x01 else
  match sieveHead p c.d bs with
  | .inl code => x.void seq code
  | .inr (v, fs) =>
    let x := { x with ctx := x.ctx.put seq { c with version := v, head := bs, fields := fs } }
    let x := fs.foldl (fun (x : Inp) f =>
      if (x.ctx.at seq).st = .void then x else
      let code := if p.declCheck f ≠ 0 then p.declCheck f else if p.ratioOk f then 0 else 0x11
      if code = 0 then x else x.fieldFail im seq f.type code) x
    let c := x.ctx.at seq
    if c.st = .void then x
    else if im.stagingPages < c.need then x.void seq 0x0B
    else { x with ctx := x.ctx.put seq { c with st := .waitPages } }

/-- The state of a context after its fields have changed (R404). -/
def Ctx.settle (c : Ctx) : Ctx :=
  if c.st = .void then c
  else { c with st := if c.fields.all Field.ended then .done else if c.fields.any fun f => f.st = .fetch then .fetching else .decoding }

def Inp.settle (x : Inp) (seq : Nat) : Inp := { x with ctx := x.ctx.mod seq Ctx.settle }
def Inp.setField (x : Inp) (seq type : Nat) (g : Field → Field) : Inp :=
  { x with ctx := x.ctx.mod seq fun c => { c with fields := c.fields.map fun f => if f.type == type then g f else f } }

/-- The sample whose pages are reserved next, when enough are free (R401). -/
def Inp.reservable (im : Image) (x : Inp) : Option Nat :=
  match x.ctx.find? fun p => p.2.st == .sieve || p.2.st == .waitPages with
  | some (k, c) => if c.st = .waitPages && decide (c.need ≤ x.freePages im) then some k else none
  | none => none

/-- The header read of a sample may return (R402): fewer than 256 older ones are outstanding. -/
def Inp.headerIssued (x : Inp) (seq : Nat) : Bool := decide ((x.ctx.filter fun p => decide (p.1 < seq) && p.2.st == .sieve).length < 256)

/-- Bytes of the record's remainder that are read with a field of its table (R393, R403): what the header read left, up to the payload that lies
next; the payload that lies first takes what is left before it too. -/
def Ctx.fetchSpan (c : Ctx) (f : Field) : Nat × Nat :=
  let offs := c.fields.map (·.off)
  let start := if offs.all fun o => decide (f.off ≤ o) then c.head.length else max c.head.length f.off
  (start, max start (((offs.filter fun o => decide (f.off < o))).foldl min c.d.len))

/-- A field's payload from the header read and the bytes of its span. -/
def Ctx.payload (c : Ctx) (f : Field) (bs : List Byte) : List Byte :=
  let pre := (c.head.drop f.off).take f.len
  pre ++ (bs.drop (f.off - (c.fetchSpan f).1)).take (f.len - pre.length)

/-- A field's bytes have arrived (R403): labels and metadata are then complete (R406). -/
def Inp.fetched (im : Image) (x : Inp) (seq type : Nat) (bs : List Byte) : Inp :=
  let x := x.setField seq type fun f => { f with got := true }
  let c := x.ctx.at seq
  match c.fields.find? fun f => f.type == type with
  | none => x
  | some f =>
    if !f.kept then x
    else if recCheck c.version bs ≠ f.check then (x.fieldFail im seq type 0x13).settle seq
    else (x.setField seq type fun f => { f with data := bs, st := if 5 ≤ type then .decoded else .wait }).settle seq

/-- Engines of a kind (R406): 0 video, 1 image, 2 audio, 3 tokeniser; field type is kind + 1. -/
def engineCount (kind : Nat) : Nat := [16, 8, 16, 4].getD kind 0
def Inp.engineUsed (x : Inp) (kind : Nat) : Nat :=
  sumN (x.ctx.map fun p => (p.2.fields.filter fun f => f.type == kind + 1 && f.st == .engine).length)

/-- The sample whose waiting field gets a free engine of a kind (R405). -/
def Inp.assignable (x : Inp) (kind : Nat) : Option Nat :=
  let free := engineCount kind - x.engineUsed kind
  if free = 0 then none else
  match x.ctx.find? fun p => p.2.fields.any fun f => f.type == kind + 1 && f.st == .wait with
  | some (k, _) => if kind = 0 && x.head? != some k && free < 2 then none else some k
  | none => none

/-- A sample's budget in microseconds (R413). -/
def Profile.budget (p : Profile) : Nat := min 0xFFFFFFFF ((if p.budgetMult = 0 then 40 else p.budgetMult) * p.nominalUs)

/-- The field of a sample that gives an output type's positions (R420): kept, and with an output. -/
def Ctx.outField (im : Image) (c : Ctx) (t : Nat) : Option Field :=
  if ((c.profile im).out.getD t default).region == none32 then none else c.fields.find? fun f => f.type == t + 1 && f.kept

/-- Elements of the positions of a media output (R425 to R427): type t + 1 up to 3. -/
def Ctx.elems (im : Image) (c : Ctx) (t : Nat) : List (List F32) :=
  let p := c.profile im
  match c.outField im t with
  | none => []
  | some f =>
    match t with
    | 0 => p.visual f.decl true (p.pictures 1 f.codec f.decl f.data).out
    | 1 => p.visual f.decl false (p.pictures 2 f.codec f.decl f.data).out
    | 2 => p.audio f.decl (f.decl.audio f.codec f.data).out
    | _ => []

/-- Positions of one output type of a sample (R420, R421, R425 to R429), none where it has no output. -/
def Ctx.positions (im : Image) (c : Ctx) (t : Nat) : List (List Byte) :=
  match t with
  | 3 => (match c.outField im 3, im.tok with | some f, some tk => (tk.tokens (c.profile im) f.data).map (bytesOf 4) | _, _ => [])
  | 4 => (match c.outField im 4 with | some f => (chunks 4 f.data).map fun b => b.take 4 | none => [])
  | t => (c.elems im t).map fun xs => xs.flatMap (elemBytes ((c.profile im).out.getD t default).f32)

/-- Counts of a sample's conversions to B16 (R423, R578), those of positions that R435 cuts off apart. -/
def Ctx.counts (im : Image) (c : Ctx) (cont : Bool) : Counts :=
  let p := c.profile im
  (im.lanes.flatMap fun l =>
    let ps := (List.range 5).flatMap fun t =>
      if (p.out.getD t default).region ≠ l.region then []
      else if 3 ≤ t then (c.positions im t).map fun _ => []
      else if (p.out.getD t default).f32 then (c.elems im t).map fun _ => [] else c.elems im t
    if cont then ps else ps.take l.p).foldl (fun a xs => a.add (elemCounts xs)) {}

/-- The reason code a field's decoding ends with (R407 to R412), 0 when it completes. -/
def Ctx.outcome (im : Image) (c : Ctx) (f : Field) : Nat :=
  let p := c.profile im
  match f.type with
  | 1 => (p.pictures 1 f.codec f.decl f.data).code
  | 2 => (p.pictures 2 f.codec f.decl f.data).code
  | 3 => (f.decl.audio f.codec f.data).code
  | 4 => (match im.tok with | some tk => if p.tMaxTokens < (tk.tokens p f.data).length then 0x19 else 0 | none => 0x18)
  | _ => 0

/-- A sample's cells by lane, in type order within a lane (R429). -/
def Ctx.cells (im : Image) (c : Ctx) : List (List (Nat × List Byte)) :=
  let p := c.profile im
  im.lanes.map fun l => (List.range 5).flatMap fun t =>
    if (p.out.getD t default).region = l.region then (c.positions im t).map fun b => (t + 1, b) else []

/-- Row sets of a micro-batch (R419). -/
def Image.mbRows (im : Image) : Nat := match im.prof with | some s => max 1 (s.profiles.headD default).mbRows | none => 1

/-- Slots of the ring (R431): whether the slot of the next row set is free. -/
def Inp.slotFree (im : Image) (x : Inp) : Bool := decide (x.nextRow < im.ringSlots) || !x.live.contains (x.nextRow - im.ringSlots)

/-- Whether a row set is open (R435). -/
def Inp.isOpen (x : Inp) : Bool := x.rows.getLast?.any fun r => !r.closed

/-- A row set joins the rows and takes its slot. -/
def Inp.addRow (im : Image) (x : Inp) (pad : Bool) : Inp :=
  { x with rows := x.rows ++ [{ g := x.nextRow, used := im.lanes.map fun _ => 0, closed := pad, mbEnd := pad }]
           live := x.live ++ [x.nextRow], nextRow := x.nextRow + 1 }

/-- The open row set, opened when there is none and its slot is free (R431, R435). -/
def Inp.opened (im : Image) (x : Inp) : Option Inp :=
  if x.isOpen then some x else if x.slotFree im then some (x.addRow im false) else none

/-- Change the open row set. -/
def Inp.modLast (x : Inp) (f : RowSet → RowSet) : Inp :=
  match x.rows.getLast? with
  | some r => if r.closed then x else { x with rows := x.rows.dropLast ++ [f r] }
  | none => x
def Inp.cur (x : Inp) : RowSet := (x.rows.getLast?).getD default

/-- close_row_set of R435. -/
def Inp.closeRow (x : Inp) : Inp := x.modLast fun r => { r with closed := true }

/-- The padding row sets of close_micro_batch, for as long as slots are free (R431, R438). -/
def Inp.pad (im : Image) : Nat → Inp → Inp
  | 0, x => x
  | n + 1, x =>
    if x.nextRow % im.mbRows = 0 then { x with closing := false }
    else if x.slotFree im then Inp.pad im n (x.addRow im true) else x

/-- close_micro_batch of R438, after the open row set; every row set it closes carries MB_END. -/
def Inp.closeMb (im : Image) (x : Inp) : Inp :=
  Inp.pad im im.mbRows { (x.modLast fun r => { r with closed := true, mbEnd := true }) with closing := true }

/-- Place k[l] cells per lane as one piece with an entry; it takes a segment id when the sample has `any` position at all (R432, R435, R436). -/
def Inp.place (x : Inp) (any : Bool) (seq : Nat) (k : List (List (Nat × List Byte))) (done : List Nat) (e : RowEntry) : Inp :=
  let wrap := (k.zip done).any fun p => !p.1.isEmpty && decide ((p.2 - 1) / 65536 < (p.2 + p.1.length - 1) / 65536)
  let x := x.modLast fun r =>
    let ps := ((k.zip (r.used.zip done)).zipIdx.filter fun p => !p.1.1.isEmpty).map fun p =>
      ({ seq := seq, lane := p.2, pos := p.1.2.1, seg := r.segs, place := p.1.2.2, cells := p.1.1 } : Piece)
    { r with used := (r.used.zip k).map fun p => p.1 + p.2.length, segs := if any then r.segs + 1 else r.segs
             entries := r.entries ++ [{ e with seg := if any then r.segs else 0xFFFF, flags := e.flags + (if wrap then 16 else 0) }]
             pieces := r.pieces ++ ps }
  { x with wrap := x.wrap || wrap }

/-- The loop of R435 for a sample that continues over row sets; it stands still while no slot is free (R431). -/
def Inp.emitCont (im : Image) (any : Bool) : Nat → Inp → Nat → List (List (Nat × List Byte)) → List Nat → Bool → RowEntry → Inp
  | 0, x, _, _, _, _, _ => x
  | n + 1, x, seq, left, done, contIn, e =>
    match x.opened im with
    | none => if contIn then { x with ctx := x.ctx.mod seq fun c => { c with emitting := true, left := left, placed := done } } else x
    | some x =>
      let room := (im.lanes.zip x.cur.used).map fun p => p.1.p - p.2
      let k := (left.zip room).map fun p => p.1.take p.2
      let rest := (left.zip k).map fun p => p.1.drop p.2.length
      let more := rest.any fun l => !l.isEmpty
      let x := x.place any seq k done { e with flags := e.flags + (if contIn then 2 else 0) + (if more then 4 else 0) }
      let done := (done.zip k).map fun p => p.1 + p.2.length
      if more then Inp.emitCont im any n x.closeRow seq rest done true e
      else { x with ctx := x.ctx.mod seq fun c => { c with emitting := true, left := [], placed := done } }

/-- Whether the head may be emitted (R433). -/
def Ctx.eligible (c : Ctx) : Bool :=
  !c.emitting && (c.st == .void || ((c.st == .done || c.st == .decoding)
    && c.fields.all fun f => f.ended || (f.type == 1 && f.st == .engine)))

/-- Whether a sample continues over row sets (R435): whether an output of a field it keeps has CONT set. -/
def Ctx.cont (im : Image) (c : Ctx) : Bool :=
  (List.range 5).any fun t => ((c.profile im).out.getD t default).cont && (c.fields.any fun f => f.type == t + 1 && f.kept)
    && ((c.profile im).out.getD t default).region != none32

/-- The emission of a sample has begun. -/
def Inp.begun (x : Inp) (seq : Nat) : Inp := { x with ctx := x.ctx.mod seq fun c => { c with emitting := true } }

/-- emit(x) of R435 for the head, as far as slots are free (R431). -/
def Inp.emit (im : Image) (x : Inp) (seq : Nat) : Inp :=
  let c := x.ctx.at seq
  let e : RowEntry := { seq := seq, cookie := c.d.cookie, profile := c.d.profile, reason := c.reason
                        dropped := sumN ((List.range 6).map fun i => if c.drops.at (i + 1) = 0 then 0 else 2 ^ i)
                        flags := (if c.d.mbEnd then 32 else 0) + (if c.st = .void then 1 else 0) }
  if im.prof.isNone then x.begun seq else
  let x := if x.cur.entries.length = 2044 then x.closeRow else x
  if c.st = .void then
    match x.opened im with
    | none => x
    | some x => (x.begun seq).modLast fun r => { r with entries := r.entries ++ [e] }
  else
    let zero := im.lanes.map fun _ => 0
    let x :=
      if c.emitting || c.cont im then
        let cells := if c.emitting then c.left else c.cells im
        Inp.emitCont im (cells.any fun l => !l.isEmpty) (sumN (cells.map (·.length)) + 2) x seq cells (if c.emitting then c.placed else zero) c.emitting e
      else
        let cells := c.cells im
        let cut := (cells.zip im.lanes).map fun q => q.1.take q.2.p
        let trunc := (cells.zip im.lanes).any fun q => decide (q.2.p < q.1.length)
        let x := if ((cut.zip im.lanes).zip x.cur.used).any fun q => decide (q.1.2.p < q.2 + q.1.1.length) then x.closeRow else x
        match x.opened im with
        | none => x
        | some x =>
          let x := (x.begun seq).place (cut.any fun l => !l.isEmpty) seq cut zero { e with flags := e.flags + (if trunc then 8 else 0) }
          if trunc then { x with trunc := true, truncCnt := satAdd x.truncCnt 1 } else x
    let c' := x.ctx.at seq
    if c.d.mbEnd && c'.emitting && !c'.more then x.closeMb im else x

/-- CLOSE_MB is carried out once every sample accepted before it has been emitted (R438). -/
def Inp.closeDue (im : Image) (x : Inp) : Inp :=
  let h := (x.head?).getD x.nextSeq.toNat
  if x.closes.any fun t => decide (t ≤ h) then { x with closes := x.closes.filter fun t => decide (h < t) }.closeMb im else x

/-- The emission of a sample is over: its context is free and its completion is owed (R404, R481). -/
def Inp.finish (im : Image) (x : Inp) (seq : Nat) : Inp × SampleDone :=
  let c := x.ctx.at seq
  let x := if c.reason = 0 then x.count 0 else x
  (({ x with ctx := x.ctx.put seq {} }).closeDue im, c.completion seq)

/-- A sample whose emission waits for nothing more is finished (R404, R437). -/
def Inp.afterField (im : Image) (x : Inp) (seq : Nat) : Inp × List SampleDone :=
  let c := x.ctx.at seq
  if c.emitting && !c.more && !x.closing && (c.st = .void || c.fields.all Field.ended) then let r := x.finish im seq; (r.1, [r.2]) else (x, [])

/-- The Packer goes on (R431, R433, R435, R438). Padding it still owes comes first; then the eligible head is placed, or the rest of one it has begun.
With it the head it has worked on, and the counts of the head's conversions (R578). -/
def Inp.emitHead (im : Image) (x : Inp) : Inp × Option Nat × Counts :=
  let x := if x.closing then Inp.pad im im.mbRows x else x
  if x.closing then (x, none, {}) else
  match x.head? with
  | none => (x, none, {})
  | some k =>
    let c := x.ctx.at k
    let y := if c.eligible || (c.emitting && c.more) then x.emit im k else x
    (y, some k, if !c.emitting && c.st ≠ .void && (y.ctx.at k).emitting then c.counts im (c.cont im) else {})

/-- Places of a sample's positions in the slots of unsealed row sets (R430, R435). -/
def Inp.rowPlaces (im : Image) (x : Inp) (seq : Nat) : List Nat :=
  (x.rows.filter fun r => !r.sealed').flatMap fun r => (r.pieces.filter fun p => p.seq == seq).flatMap fun p => match im.lanes[p.lane]? with
    | some l => im.regPlaces l.region (r.g % max 1 im.ringSlots * slotRowBytes l.p l.e + p.pos * l.e) (p.cells.length * l.e)
    | none => []

/-- Every sample of an unsealed row set is void there with FETCH (R437, R521, log entry 145). -/
def Inp.voidRow (x : Inp) (g : Nat) : Inp :=
  let hit := fun (e : RowEntry) => e.flags % 2 == 0
  let n := ((x.rows.filter fun r => r.g == g).flatMap fun r => r.entries.filter hit).length
  let rows := x.rows.map fun r => if r.g != g then r else
    { r with pieces := [], entries := r.entries.map fun e => if hit e then { e with seg := 0xFFFF, reason := 0x01, flags := e.flags ||| 1 } else e }
  (List.range n).foldl (fun x _ => x.count 0x01) { x with rows := rows }

/-- The row set that can be sealed (R437): the first unsealed one, closed, with no sample in it whose emission goes on. -/
def Inp.sealable (x : Inp) : Option RowSet :=
  match x.rows.find? fun r => !r.sealed' with
  | none => none
  | some r => if r.closed && r.entries.all fun e => !(x.ctx.at e.seq).emitting then some r else none

/-- RING_WAIT (R431): the Packer has a row set to open, and its slot is not free. -/
def Inp.ringWait (im : Image) (x : Inp) : Bool :=
  !x.isOpen && !x.slotFree im && (x.closing || (match x.head? with
    | some k => (x.ctx.at k).eligible || ((x.ctx.at k).emitting && (x.ctx.at k).more)
    | none => false))

/-- Cells of a piece that are positions of a kept field. -/
def Piece.live (p : Piece) : List (Nat × List Byte) := p.cells.filter fun c => c.1 != 0

/-- Non-padding positions of a row set in a lane. -/
def RowSet.filled (r : RowSet) (lane : Nat) : Nat := sumN ((r.pieces.filter fun p => p.lane == lane).map fun p => p.live.length)

/-- The bytes of a row set's slot in a lane (R430, R436). -/
def RowSet.laneBytes (r : RowSet) (lane : Nat) (l : Lane) : List Byte :=
  let at2 : Nat → Option (List Byte × Nat) := fun i => r.pieces.findSome? fun p =>
    if p.lane == lane && decide (p.pos ≤ i) then
      match p.cells[i - p.pos]? with
      | some c => if c.1 = 0 then none else some (c.2, p.seg * 65536 + (p.place + (i - p.pos)) % 65536)
      | none => none
    else none
  let cells : List (Option (List Byte × Nat)) := (List.range l.p).map at2
  let body := cells.flatMap (fun c => match c with
      | some (b, _) => (b ++ List.replicate (l.e - b.length) (0 : Byte)).take l.e
      | none => List.replicate l.e (0 : Byte))
    ++ cells.flatMap fun c => bytesOf 4 (match c with | some (_, m) => m | none => 0xFFFF0000)
  body ++ List.replicate (slotRowBytes l.p l.e - body.length) 0

/-- The header of a row report (R432). -/
def RowSet.header (im : Image) (r : RowSet) (work : Option (List Nat)) : List Byte :=
  let idx := r.g % im.mbRows
  bytesOf 8 r.g ++ bytesOf 8 (r.g / im.mbRows) ++ bytesOf 2 r.entries.length ++ bytesOf 2 r.segs
    ++ bytesOf 1 ((if idx + 1 = im.mbRows then 1 else 0) + (if r.mbEnd then 2 else 0)) ++ [(0 : Byte)] ++ bytesOf 2 idx ++ bytesOf 8 0
    ++ (List.range 8).flatMap (fun l => bytesOf 4 (r.filled l))
    ++ (List.range 16).flatMap fun b => bytesOf 4 (match work with | some w => w.getD b 0 | none => 0)

/-- The report of a row set (R432). -/
def RowSet.report (im : Image) (r : RowSet) : List Byte :=
  let es := r.entries.flatMap fun e =>
    let n := sumN ((r.pieces.filter fun p => p.seq == e.seq && p.seg == e.seg).map fun p => p.live.length)
    bytesOf 8 e.seq ++ bytesOf 8 e.cookie.toNat ++ bytesOf 4 n ++ bytesOf 2 e.seg ++ bytesOf 1 e.reason ++ bytesOf 1 e.flags
      ++ bytesOf 1 e.profile ++ bytesOf 1 e.dropped ++ List.replicate 6 0
  let bs := r.header im none ++ es
  bs ++ List.replicate (65536 - bs.length) 0

/-- Report region of the image (R419). -/
def Image.reportRegion (im : Image) : Nat := match im.prof with | some s => (s.profiles.headD default).reportRegion | none => none32

/-- A row set is written to its slots (R430, R437). -/
def RowSet.write (im : Image) (r : RowSet) (m : Mem) : Mem :=
  let k := r.g % max 1 im.ringSlots
  let m := im.lanes.zipIdx.foldl (fun m p => im.regWrite m p.1.region (k * slotRowBytes p.1.p p.1.e) (r.laneBytes p.2 p.1)) m
  im.regWrite m im.reportRegion (k * 65536) (r.report im)

/-- Mark a row set sealed. -/
def Inp.seal (x : Inp) (g : Nat) : Inp := { x with rows := x.rows.map fun r => if r.g == g then { r with sealed' := true } else r }

/-- The complete micro-batch, if one is (R439): its row sets. -/
def Inp.completeMb (im : Image) (x : Inp) : Option (List RowSet) :=
  let l := x.rows.take im.mbRows
  if l.length = im.mbRows && l.all (·.sealed') then some l else none

/-- Work counts of a micro-batch (R440). -/
def workCounts (im : Image) (l : List RowSet) : List Nat :=
  (List.range 16).map fun b => min 0xFFFFFFFF (sumN (im.lanes.zipIdx.map fun p =>
    if p.1.branch = b then sumN (l.map fun r => r.filled p.2) else 0))

/-- MB_COMPLETE: work counts reported and kept in the registers (R439, R443). -/
def Inp.mbComplete (im : Image) (x : Inp) (l : List RowSet) : Inp :=
  let w := workCounts im l
  { x with rows := x.rows.drop im.mbRows, ready := x.ready ++ [((l.headD default).g / im.mbRows, w)], mbDone := x.mbDone + 1
           work := (List.range 16).foldl (fun t b => t.put b (BitVec.ofNat 32 (w.getD b 0))) x.work }

/-- The row sets of a micro-batch are freed (R431). -/
def Inp.freeMb (x : Inp) (mb : Nat) : Inp := { x with live := x.live.filter fun g => g / x.mbRows != mb }

/-- Every context is emptied with ABORTED (R81, R441). -/
def Inp.abort (x : Inp) : Inp × List SampleDone :=
  let y := x.ctx.foldl (fun (y : Inp) _ => y.count 0x1F) x
  ({ y with ctx := [] }, x.ctx.map fun p => { p.2 with reason := 0x1F }.completion p.1)

/-- FLUSH carried out (R441), with the row sets per micro-batch of the image last applied. -/
def Inp.flush (x : Inp) : Inp × List SampleDone :=
  let a := x.abort
  let first := x.nextMb * x.mbRows
  ({ a.1 with rows := [], ready := [], closes := [], closing := false, live := x.live.filter fun g => decide (g < first), nextRow := first }, a.2)

/-- Samples ended with a reason are counted under it (R443). -/
def Inp.countAll (x : Inp) (l : List SampleDone) : Inp :=
  l.foldl (fun x d => x.count d.reason) x

/-- Intake state after an image load (R81, R392, R442); `queue` is completed and counted too. DESIGN CHOICE: a queued descriptor has no intake
sequence number yet, and its completion reads 0 there (log entry 126). -/
def Inp.imageLoad (x : Inp) : Inp × List SampleDone :=
  let a := x.abort
  let q := x.queue.map fun e => ({ e := e, seq := 0, cookie := (parseSample e.data).cookie, reason := 0x1F, drops := List.replicate 6 0 } : SampleDone)
  ({ a.1.countAll q with queue := [], nextSeq := 0, rows := [], ready := [], closes := [], closing := false, live := [], nextRow := 0, nextMb := 0, mbDone := 0 }, a.2 ++ q)

/-- A write to an INP register; FLUSH and CLOSE_MB are the commands' own (R443). -/
def Inp.writeReg (x : Inp) (off : Nat) (v : W32) : Inp :=
  match off with
  | 4 => { x with flushRej := w1c x.flushRej v 5, wrap := w1c x.wrap v 4, trunc := w1c x.trunc v 3, voidEmit := w1c x.voidEmit v 2 }
  | _ => x

/-- What an INP register reads as (R443). -/
def Inp.readReg (im : Option Image) (x : Inp) (off : Nat) : W32 :=
  if off = 4 then flag 5 x.flushRej + flag 4 x.wrap + flag 3 x.trunc + flag 2 x.voidEmit
    + flag 1 (match im with | some i => x.ringWait i | none => false) + flag 0 x.ctx.isEmpty
  else if off = 8 then loW x.nextSeq.toNat else if off = 0xC then hiW x.nextSeq.toNat
  else if off = 0x10 then loW x.nextRow else if off = 0x14 then hiW x.nextRow
  else if off = 0x18 then x.mbDone
  else if off = 0x1C then BitVec.ofNat 32 x.ctx.length
  else if off = 0x20 then BitVec.ofNat 32 (match im with | some i => x.freePages i | none => 0)
  else if off = 0x24 then x.truncCnt
  else if 0x100 ≤ off && off < 0x140 && off % 4 = 0 then x.work.at ((off - 0x100) / 4)
  else if 0x200 ≤ off && off < 0x280 && off % 4 = 0 then x.reasonCnt.at ((off - 0x200) / 4)
  else 0

end Sys2Proof.Machine
end

