-- ==== Sys2Proof/Machine/SyncBlock.lean ====
section
/-! DEFINITION. Sync objects: counts, thresholds, pending TAKEs and what an operation brings about (R36, R37, R116 to R118, R482). -/

namespace Sys2Proof.Machine

/-- Who waits for a TAKE. -/
inductive Waiter where
  | slot (tile slot : Nat)
  | host (e : Entry)
  /-- the step start's TAKE on the backlog object (R295) -/
  | backlog
  deriving DecidableEq, Repr, Inhabited

/-- A sync object (R116) with its host-notify flag (R482). -/
structure SyncObj where
  count : W32 := 0
  threshold : BitVec 16 := 0
  events : W32 := 0
  fifo : List (Waiter × W32) := []
  overflow : Bool := false
  notify : Bool := false
  deriving DecidableEq, Repr, Inhabited

/-- Operations on an object (R116). -/
inductive SyncOp where
  | signal (n : W32)
  | take (w : Waiter) (v : W32)
  | set (c : W32)
  | arm (t : BitVec 16)
  | read
  deriving DecidableEq, Repr, Inhabited

/-- What an operation brings about elsewhere. -/
inductive SyncEff where
  | granted (w : Waiter)
  /-- the threshold action, with the event count it leaves -/
  | fired (object : Nat) (events : W32)
  | saturated (object : Nat)
  deriving DecidableEq, Repr, Inhabited

/-- A message of a tile on its way to an object's home through the tile's memory drop (R118): SIGNAL or TAKE. -/
inductive SyncMsg where
  | signal (object : Nat) (n : Nat) (tile : Nat)
  | take (object : Nat) (v : Nat) (tile slot : Nat)
  deriving DecidableEq, Repr, Inhabited

/-- The tile a message comes from. -/
def SyncMsg.tile : SyncMsg → Nat
  | .signal _ _ t => t
  | .take _ _ t _ => t

/-- The sync objects and the tile messages under way to them. -/
structure Sync where
  objs : Sparse SyncObj := []
  msgs : List SyncMsg := []
  deriving DecidableEq, Repr, Inhabited

/-- Home of an object (R36): the I/O die, or base die d. -/
def syncHome (o : Nat) : Option Nat := if o < 4096 then none else some ((o - 4096) / 3072)

/-- The operation's own effect, and whether a SIGNAL saturated (R116). -/
def SyncObj.apply (x : SyncObj) : SyncOp → SyncObj × Bool
  | .signal n =>
    if x.count.toNat + n.toNat < 2 ^ 32 then ({ x with count := x.count + n }, false)
    else ({ x with count := BitVec.allOnes 32, overflow := true }, true)
  | .take w v => ({ x with fifo := x.fifo ++ [(w, v)] }, false)
  | .set c => ({ x with count := c }, false)
  | .arm t => ({ x with threshold := t }, false)
  | .read => (x, false)

/-- The threshold test of R117: at most once per operation. -/
def SyncObj.test (x : SyncObj) : SyncObj × Bool :=
  if x.threshold ≠ 0 ∧ x.threshold.toNat ≤ x.count.toNat then
    ({ x with count := x.count - x.threshold.setWidth 32, events := x.events + 1 }, true)
  else (x, false)

/-- Grants from the head of the FIFO while the count allows (R117). -/
def grantGo : W32 → List (Waiter × W32) → W32 × List (Waiter × W32) × List Waiter
  | c, [] => (c, [], [])
  | c, (w, v) :: r =>
    if v.toNat ≤ c.toNat then
      let g := grantGo (c - v) r
      (g.1, g.2.1, w :: g.2.2)
    else (c, (w, v) :: r, [])

def SyncObj.grant (x : SyncObj) : SyncObj × List Waiter :=
  let g := grantGo x.count x.fifo
  ({ x with count := g.1, fifo := g.2.1 }, g.2.2)

/-- One operation at an object's home: its effect, the threshold test, the grants (R116, R117). -/
def Sync.op (s : Sync) (o : Nat) (p : SyncOp) : Sync × List SyncEff :=
  let a := (s.objs.at o).apply p
  let t := a.1.test
  let g := t.1.grant
  ({ s with objs := s.objs.put o g.1 },
   (if a.2 then [.saturated o] else []) ++ (if t.2 then [.fired o t.1.events] else []) ++ g.2.map .granted)

/-- An object reset (R116): the count and threshold written, the event count, overflow and pending TAKEs cleared; the notify flag as told. -/
def SyncObj.reset (x : SyncObj) (count threshold : Nat) (keepNotify : Bool) : SyncObj :=
  { count := BitVec.ofNat 32 count, threshold := BitVec.ofNat 16 threshold, notify := keepNotify && x.notify }

/-- Host TAKEs outstanding chip-wide (R482). -/
def Sync.hostTakes (s : Sync) : Nat :=
  (s.objs.map fun p => (p.2.fifo.filter fun w => match w.1 with | .host _ => true | _ => false).length).foldl (· + ·) 0

/-- Host TAKEs pending on an object. -/
def SyncObj.hostWaiters (x : SyncObj) : List Entry :=
  x.fifo.filterMap fun w => match w.1 with | .host e => some e | _ => none

end Sys2Proof.Machine
end

