-- ==== Sys2Proof/Machine/TmrBlock.lean ====
section
/-! DEFINITION. Cluster time, the servo, Timer entries and the registers of the TMR block (R364 to R384). -/

namespace Sys2Proof.Machine

/-- Servo states of R372. -/
inductive Servo where
  | free | acquiring | locked | holdover
  deriving DecidableEq, Repr, Inhabited

def Servo.code : Servo → Nat
  | .free => 0 | .acquiring => 1 | .locked => 2 | .holdover => 3

/-- A Timer entry (R376, R384). `served` marks an EVERY entry that has fired, or was armed too late, in the current attempt (R377, R378). -/
structure TEntry where
  armed : Bool := false
  missed : Bool := false
  fired : Bool := false
  every : Bool := false
  kind : BitVec 2 := 0
  action : BitVec 4 := 0
  object : BitVec 14 := 0
  arg : W32 := 0
  time : W64 := 0
  step : W32 := 0
  period : W64 := 0
  served : Bool := false
  deriving DecidableEq, Repr, Inhabited

/-- A due entry queued for issue (R379): its due time and what it does. -/
structure Due where
  time : Nat
  entry : Nat
  action : Nat
  object : Nat
  arg : Nat
  deriving DecidableEq, Repr, Inhabited

/-- The TMR block. -/
structure Tmr where
  ns : W64 := 0
  frac : BitVec 6 := 0
  /-- what the time base has accumulated below 1/64 ns, in 1/(5·2⁴⁰) of it (log entry 3) -/
  rem : Nat := 0
  /-- how far the count has advanced in 1/64 ns, its jumps and sets left out: the measure of intervals (R371, R373, R374) -/
  age : Nat := 0
  step : W32 := 0
  src : BitVec 2 := 0
  port : BitVec 4 := 0
  largeOffset : Bool := false
  setRej : Bool := false
  pulseMiss : Bool := false
  refLoss : Bool := false
  specExceeded : Bool := false
  holdoverEntered : Bool := false
  missed : Bool := false
  timeValid : Bool := false
  servo : Servo := .free
  /-- integ of R371 in units of 2⁻²¹ ns -/
  integ : Int := 0
  /-- a in units of 2⁻⁴⁰ (TMR_RATE) -/
  rate : Int := 0
  /-- measurements in a row below 4 ns, up to 16 (R371) -/
  inBand : Nat := 0
  /-- `age` at the last measurement -/
  lastMeas : Option Nat := none
  /-- source of the last measurement since FREE, and its port where the link is the source -/
  measFrom : Option (Nat × Nat) := none
  /-- rates since ACQUIRING began, newest first, each with the `age` at which it began (R373) -/
  rates : List (Nat × Int) := []
  setVal : W64 := 0
  pulseNext : W64 := 0
  /-- TMR_PULSE_NEXT as a write of its high word since the previous edge took it (R369, R384) -/
  pulseTaken : Option Nat := none
  pulseExpected : Nat := 0
  fracLatch : BitVec 6 := 0
  offset : W32 := 0
  kp : BitVec 4 := 1
  ki : BitVec 4 := 4
  holdLimit : W32 := 20
  holdTime : W32 := 0
  /-- `age` at which the holdover began -/
  holdStart : Nat := 0
  missCnt : W32 := 0
  fireCnt : W32 := 0
  dropCnt : W32 := 0
  entries : Sparse TEntry := []
  issue : List Due := []
  /-- step start of the current attempt (R376) -/
  stepStart : Option Nat := none
  /-- latched actions DIGEST_COMPARE and SNAPSHOT (R380) -/
  latchDigest : Bool := false
  latchSnap : Bool := false
  deriving DecidableEq, Repr, Inhabited

/-- The count in 1/64 ns. -/
def Tmr.t64 (t : Tmr) : Nat := t.ns.toNat * 64 + t.frac.toNat

/-- The count set from 1/64 ns. -/
def Tmr.setT64 (t : Tmr) (n : Nat) : Tmr := { t with ns := BitVec.ofNat 64 (n / 64), frac := BitVec.ofNat 6 (n % 64) }

/-- One cycle of the 1.25 GHz time base adds 0.8 ns · (1 + a) (R364). -/
def Tmr.cycle (t : Tmr) : Tmr :=
  let acc := t.rem + (256 * (2 ^ 40 + t.rate)).toNat
  let d := acc / (5 * 2 ^ 40)
  { t.setT64 (t.t64 + d) with age := t.age + d, rem := acc % (5 * 2 ^ 40) }

/-- TMR_STATUS bits [11:5] (R384). -/
def Tmr.flags (t : Tmr) : W32 :=
  flag 11 t.largeOffset + flag 10 t.setRej + flag 9 t.pulseMiss + flag 8 t.refLoss + flag 7 t.specExceeded
    + flag 6 t.holdoverEntered + flag 5 t.missed

/-- The source in force: 1 CT inputs, 2 link; a reserved code or port acts as none (R368, R384). -/
def Tmr.source (t : Tmr) : Nat :=
  if t.src = 1 then 1 else if t.src = 2 && t.port.toNat < 12 then 2 else 0

/-- Milliseconds of the holdover in progress, saturating (R384). -/
def Tmr.heldMs (t : Tmr) : W32 := BitVec.ofNat 32 (min (2 ^ 32 - 1) ((t.age - t.holdStart) / 64000000))

/-- The holdover ends and its length is kept (R384). -/
def Tmr.endHold (t : Tmr) : Tmr := if t.servo = .holdover then { t with holdTime := t.heldMs } else t

/-- The servo enters ACQUIRING, or stays there (R372, R373). -/
def Tmr.toAcquiring (t : Tmr) : Tmr :=
  if t.servo = .acquiring then t else { t.endHold with servo := .acquiring, rates := [(t.age, t.rate)] }

/-- A measurement arrives: the first from a source enters ACQUIRING, and none before it counts among the 16 of R371 (R372). -/
def Tmr.acquire (t : Tmr) : Tmr :=
  let from' := (t.source, if t.source = 2 then t.port.toNat else 0)
  let new := t.servo == .free || t.servo == .holdover || t.measFrom != some from'
  let t := if new then { t.toAcquiring with inBand := 0 } else t
  { t with measFrom := some from' }

/-- Largest rate adjustment, 200·10⁻⁶ in units of 2⁻⁴⁰ (R366). -/
def rateClamp : Int := 219902325

/-- A quotient rounded to one of the whole numbers beside it. -/
def roundedDiv (a b : Int) (up : Bool) : Int := a / b + if up && a % b != 0 then 1 else 0

/-- The servo acts on a measured offset in 1/64 ns (R366, R371). `nominal` is the interval in ns used for a first measurement (log entry 17);
`free` rounds the rate, and is TMR_OFFSET where the offset does not fit it (log entry 45). -/
def Tmr.measure (t : Tmr) (jumpOk : Bool) (nominal : Nat) (o : Int) (free : W64) : Tmr :=
  let t := { t.acquire with offset := if -(2 ^ 31) ≤ o ∧ o < 2 ^ 31 then BitVec.ofInt 32 o else free.setWidth 32 }
  let big := decide (64000000 < o.natAbs)
  if big && (jumpOk || !t.timeValid) then
    { (t.setT64 ((t.t64 : Int) + o).toNat).toAcquiring with integ := 0, inBand := 0, lastMeas := some t.age }
  else
    let t := if big then { t with largeOffset := true } else t
    let integ := t.integ + o * 2 ^ (15 - t.ki.toNat)
    -- the interval in 1/64 ns
    let span : Nat := match t.lastMeas with
      | some p => max 1 (t.age - p)
      | none => max 1 (64 * nominal)
    let num := o * 2 ^ (15 - t.kp.toNat) + integ
    let a := max (-rateClamp) (min rateClamp (roundedDiv (num * 2 ^ 25) span (odd free)))
    let inBand : Nat := if o.natAbs < 256 then min 16 (t.inBand + 1) else 0
    let t := { t with integ := integ, rate := a, inBand := inBand, lastMeas := some t.age, rates := (t.age, a) :: t.rates }
    if inBand = 16 then { t with servo := .locked }
    else if t.servo = .locked && 1280 ≤ o.natAbs then t.toAcquiring
    else t

/-- Mean of the rates over the last 64 s, or since ACQUIRING began (R373): time-weighted; `until'` is the end of the newest span. -/
def rateMeanGo (from' : Nat) : List (Nat × Int) → Nat → Int × Nat → Int × Nat
  | [], _, acc => acc
  | (b, r) :: rest, until', acc =>
    let lo := max b from'
    let len := until' - lo
    rateMeanGo from' rest (min until' b) (acc.1 + r * len, acc.2 + len)

def Tmr.meanRate (t : Tmr) (up : Bool) : Int :=
  let p := rateMeanGo (t.age - 64 * 64000000000) t.rates t.age (0, 0)
  if p.2 = 0 then t.rate else roundedDiv p.1 (p.2 : Int) up

/-- Loss of the source (R373): only from ACQUIRING or LOCKED. -/
def Tmr.holdover (t : Tmr) (up : Bool) : Tmr :=
  if t.servo = .acquiring || t.servo = .locked then
    { t with servo := .holdover, rate := t.meanRate up, holdoverEntered := true, holdStart := t.age }
  else t

/-- A CT_PULSE rising edge captured at `cap` (1/64 ns), with SRC = 1 (R365, R369, R371). -/
def Tmr.pulse (t : Tmr) (jumpOk : Bool) (cap : Nat) (free : W64) : Tmr :=
  let next := t.pulseExpected + 1000000000
  let expected := t.pulseTaken.getD next
  let far := decide (64000 < ((cap : Int) - 64 * (next : Int)).natAbs)
  if far && t.pulseTaken.isNone && t.timeValid then { t with pulseMiss := true, pulseExpected := next }
  else
    let fresh := t.pulseTaken.isSome
    let t := ({ t with pulseExpected := expected, pulseTaken := none }).measure jumpOk 1000000000 (64 * (expected : Int) - (cap : Int)) free
    { t with timeValid := t.timeValid || fresh }

/-- A measurement from the source port (R365, R370). -/
def Tmr.linkMeasure (t : Tmr) (jumpOk : Bool) (periodUs : Nat) (o : Int) (free : W64) : Tmr :=
  let t := t.measure jumpOk (periodUs * 1000) o free
  { t with timeValid := t.timeValid || t.servo = .locked }

/-- A write of TMR_CTRL (R367, R368, R372). `held` says the state is ARMED, STEPPING or DRAINING. -/
def Tmr.writeCtrl (t : Tmr) (held : Bool) (v : W32) : Tmr :=
  let t := { t with port := BitVec.ofNat 4 (fld v 11 8), src := BitVec.ofNat 2 (fld v 1 0) }
  let t := if t.source = 0 then { t.endHold with servo := .free, rates := [], measFrom := none } else t
  if bit v 4 then
    if held then { t with setRej := true }
    else { t with ns := t.setVal, frac := 0, rem := 0, timeValid := true }
  else t

/-- A write of TMR_STEP (R367). -/
def Tmr.writeStep (t : Tmr) (held : Bool) (v : W32) : Tmr :=
  if held then { t with setRej := true } else { t with step := v }

/-- Whether step s has ended when the current step is cur (R378), on a number that wraps (R364). -/
def stepEnded (s cur : W32) : Bool := s != cur && (cur - s).toNat < 2 ^ 31

/-- The due time of an entry, when its step has a start (R376). -/
def Tmr.dueTime (t : Tmr) (e : TEntry) : Option Nat :=
  if e.kind = 0 then some e.time.toNat
  else if e.every || e.step = t.step then t.stepStart.map (· + e.time.toNat) else none

/-- Whether an armed entry falls due now (R378). -/
def Tmr.isDue (t : Tmr) (e : TEntry) : Bool :=
  e.armed && !(e.every && e.kind != 0 && e.served) && (e.kind != 0 || t.timeValid) &&
    match t.dueTime e with
    | some d => decide (d ≤ t.ns.toNat)
    | none => false

/-- PERIOD as stored: a non-zero period below 1,000 ns is 1,000 (R377). It is judged when both words are there: at a write of
the high word and at arming. -/
def floorP (p : W64) : W64 := if p ≠ 0 && p.toNat < 1000 then 1000 else p

/-- Insert a due entry by due time, then entry number (R379). -/
def insertDue (d : Due) : List Due → List Due
  | [] => [d]
  | x :: r => if d.time < x.time || (d.time == x.time && d.entry < x.entry) then d :: x :: r else x :: insertDue d r

/-- A due entry is queued for issue and re-armed or disarmed (R377 to R379). -/
def Tmr.fire (t : Tmr) (i : Nat) : Tmr :=
  let e := t.entries.at i
  match t.dueTime e with
  | none => t
  | some d =>
    let now := t.ns.toNat
    let due : Due := { time := d, entry := i, action := e.action.toNat, object := e.object.toNat, arg := e.arg.toNat }
    let p := e.period.toNat
    -- periods whose time has already passed are skipped
    let skip := if e.kind = 0 && p ≠ 0 && e.time.toNat + p ≤ now then (now - e.time.toNat) / p else 0
    let e' := if e.kind = 0 then
        (if p = 0 then { e with armed := false }
         else { e with time := BitVec.ofNat 64 (e.time.toNat + p * (skip + 1)), missed := e.missed || 0 < skip })
      else if e.every then { e with served := true } else { e with armed := false }
    { t with entries := t.entries.put i { e' with fired := true }, issue := insertDue due t.issue
             fireCnt := satAdd t.fireCnt 1, missCnt := satAdd t.missCnt skip, missed := t.missed || 0 < skip }

/-- A write of TMR_ENT_CTRL (R378, R381): an entry that is due when the write disarms it fires once first. -/
def Tmr.writeEntCtrl (t : Tmr) (i : Nat) (v : W32) : Tmr :=
  let e := t.entries.at i
  let e := { e with missed := w1c e.missed v 30, fired := w1c e.fired v 29 }
  if e.armed then
    let t := { t with entries := t.entries.put i e }
    if bit v 31 then t
    else
      let t := if t.isDue e then t.fire i else t
      { t with entries := t.entries.mod i fun e => { e with armed := false } }
  else
    let e := { e with every := bit v 28, kind := BitVec.ofNat 2 (fld v 25 24), action := BitVec.ofNat 4 (fld v 23 20)
                      object := BitVec.ofNat 14 (fld v 13 0) }
    if !bit v 31 || 2 ≤ e.kind.toNat || 8 ≤ e.action.toNat then { t with entries := t.entries.put i e }
    else if e.kind = 1 && !e.every && stepEnded e.step t.step then
      { t with entries := t.entries.put i { e with missed := true }, missed := true, missCnt := satAdd t.missCnt 1 }
    else
      let late := e.every && e.kind = 1 &&
        match t.stepStart with
        | some b => decide (b + e.time.toNat ≤ t.ns.toNat)
        | none => false
      { t with entries := t.entries.put i { e with armed := true, served := late, period := floorP e.period } }

/-- A new attempt at a step starts: EVERY entries may fall due again (R376, R377). -/
def Tmr.startStep (t : Tmr) : Tmr :=
  { t with stepStart := some t.ns.toNat, entries := t.entries.mapVals fun _ e => { e with served := false } }

/-- STEP entries that are due fire, in ascending number (R379, R383). -/
def Tmr.fireDue (t : Tmr) : Tmr :=
  (t.entries.map (·.1)).foldl (fun t i => if (t.entries.at i).kind = 1 && t.isDue (t.entries.at i) then t.fire i else t) t

/-- A step ends (R364, R378, R383): STEP entries due by then fire; those of the step that are still armed are missed. -/
def Tmr.endStep (t : Tmr) : Tmr :=
  let t := t.fireDue
  let late := fun (e : TEntry) => e.armed && e.kind = 1 && !e.every && e.step == t.step
  let n := (t.entries.filter fun p => late p.2).length
  { t with entries := t.entries.mapVals fun _ e => if late e then { e with armed := false, missed := true } else e
           missCnt := satAdd t.missCnt n, missed := t.missed || 0 < n, step := t.step + 1, stepStart := none }

/-- Every entry is disarmed (R382). -/
def Tmr.disarm (t : Tmr) : Tmr := { t with entries := t.entries.mapVals fun _ e => { e with armed := false } }

/-- e(t) of R374 exceeds TMR_HOLD_LIMIT, for the accuracy bound e0 in force at the loss. -/
def Tmr.boundExceeded (t : Tmr) (e0 : Nat) : Bool :=
  let d := (t.age - t.holdStart) / 64
  decide (t.holdLimit.toNat * 10 ^ 18 < e0 * 10 ^ 18 + 20 * d * 10 ^ 9 + 2 * d * d)

/-- A write to an entry's register (R381, R384). -/
def Tmr.writeEnt (t : Tmr) (i off : Nat) (v : W32) : Tmr :=
  let e := t.entries.at i
  let put := fun e' => { t with entries := t.entries.put i e' }
  if off = 0 then t.writeEntCtrl i v
  else if e.armed then t
  else match off with
    | 0x04 => put { e with arg := v }
    | 0x08 => put { e with time := setLo e.time v }
    | 0x0C => put { e with time := setHi e.time v }
    | 0x10 => put { e with step := v }
    | 0x14 => put { e with period := setLo e.period v }
    | 0x18 => put { e with period := floorP (setHi e.period v) }
    | _ => t

/-- A write to a TMR register (R384). -/
def Tmr.writeReg (t : Tmr) (held : Bool) (off : Nat) (v : W32) : Tmr :=
  if 0x1000 ≤ off && off < 0x11000 then t.writeEnt ((off - 0x1000) / 0x20) ((off - 0x1000) % 0x20) v
  else match off with
  | 0x00 => t.writeCtrl held v
  | 0x04 => { t with largeOffset := w1c t.largeOffset v 11, setRej := w1c t.setRej v 10, pulseMiss := w1c t.pulseMiss v 9
                     refLoss := w1c t.refLoss v 8, specExceeded := w1c t.specExceeded v 7
                     holdoverEntered := w1c t.holdoverEntered v 6, missed := w1c t.missed v 5 }
  | 0x14 => t.writeStep held v
  | 0x18 => { t with setVal := setLo t.setVal v }
  | 0x1C => { t with setVal := setHi t.setVal v }
  | 0x20 => { t with pulseNext := setLo t.pulseNext v }
  | 0x24 => { t with pulseNext := setHi t.pulseNext v, pulseTaken := some (setHi t.pulseNext v).toNat }
  | 0x30 => { t with ki := BitVec.ofNat 4 (fld v 7 4), kp := BitVec.ofNat 4 (fld v 3 0) }
  | 0x34 => { t with holdLimit := v }
  | _ => t

/-- TMR_HOLD_TIME (R384). -/
def Tmr.holdMs (t : Tmr) : W32 :=
  if t.servo = .holdover then t.heldMs else t.holdTime

/-- What a TMR register reads as (R384). -/
def Tmr.readReg (t : Tmr) (off : Nat) : W32 :=
  if 0x1000 ≤ off && off < 0x11000 then
    let e := t.entries.at ((off - 0x1000) / 0x20)
    match (off - 0x1000) % 0x20 with
    | 0x00 => flag 31 e.armed + flag 30 e.missed + flag 29 e.fired + flag 28 e.every + at' 24 e.kind.toNat + at' 20 e.action.toNat + at' 0 e.object.toNat
    | 0x04 => e.arg | 0x08 => loW e.time.toNat | 0x0C => hiW e.time.toNat | 0x10 => e.step
    | 0x14 => loW e.period.toNat | 0x18 => hiW e.period.toNat | _ => 0
  else match off with
  | 0x00 => at' 8 t.port.toNat + at' 0 t.src.toNat
  | 0x04 => t.flags + flag 4 t.timeValid + at' 0 t.servo.code
  | 0x08 => loW t.ns.toNat | 0x0C => hiW t.ns.toNat | 0x10 => t.fracLatch.setWidth 32 | 0x14 => t.step
  | 0x18 => loW t.setVal.toNat | 0x1C => hiW t.setVal.toNat | 0x20 => loW t.pulseNext.toNat | 0x24 => hiW t.pulseNext.toNat
  | 0x28 => t.offset | 0x2C => BitVec.ofInt 32 t.rate | 0x30 => at' 4 t.ki.toNat + at' 0 t.kp.toNat
  | 0x34 => t.holdLimit | 0x38 => t.holdMs | 0x3C => t.missCnt | 0x40 => t.fireCnt | 0x44 => t.dropCnt | _ => 0

end Sys2Proof.Machine
end

