-- ==== Sys2Proof/Machine/State.lean ====
section
/-! DEFINITION. The state of the Fyanwa FT2: plain data, every register, buffer and queue the spec gives it; the reasons a step can stop. -/

namespace Sys2Proof.Machine

/-- Reasons a step stops with a fault. A meaning raises none: the device's own faults are records it writes (R519), never a stop of
the model. -/
inductive Fault where
  /-- Raised by no meaning and no step; kept so that a stopped machine can be named. Safe: no run reaches it. -/
  | stuck
  deriving DecidableEq, Repr, Inhabited

/-- Reasons a command is refused. -/
inductive Refusal where
  /-- Raised by an arm of Dispatch.lean whose command has no meaning yet. Safe: nothing is claimed of such a command. -/
  | notModelled (mnemonic : String)
  deriving DecidableEq, Repr, Inhabited

/-- The device with the host memory, flash and pins it acts on. -/
structure State where
  /-- commands waiting, first in, first out: the model's own queue -/
  pending : List Instr := []
  ctl : Ctl := {}
  rst : Rst := {}
  pins : Pins := {}
  mgmt : Mgmt := {}
  hif : Hif := {}
  tmr : Tmr := {}
  lnk : Lnk := {}
  gx : Gx := {}
  upd : Upd := {}
  /-- the scale sites and the unbound record (R155, R177) -/
  sites : Sites := []
  /-- micro-batches of the step, frames and the stash allocator -/
  adm : Adm := {}
  fab : Fab := {}
  sync : Sync := {}
  inp : Inp := {}
  mem : Mem := {}
  memr : MemRegs := {}
  sec : Sec := {}
  flt : Flt := {}
  pwr : Pwr := {}
  /-- the active image as its sections say it (R79, R82); its bytes lie in the active store -/
  img : Option Image := none
  /-- the 64 MiB on-module flash that holds firmware (R569) -/
  flash : Sparse Byte := []
  /-- how many free values have been drawn: the model's own (log entry 9) -/
  free : Nat := 0
  deriving DecidableEq, Repr, Inhabited

/-- The device right after a cold reset, in BOOT: every register at its reset value, empty queues, no image. -/
def State.reset : State := {}

end Sys2Proof.Machine
end

