-- ==== Sys2Proof/Machine/Ops.lean ====
section
/-! DEFINITION. Operations shared by the commands: events, reports, checked reads, sync objects, resets, alarm, FAULT, abandonment, image application. -/

namespace Sys2Proof.Machine

/-- What a meaning answers. -/
abbrev Res := Host.Outcome State Fault Refusal

/-- Free bytes from a draw on (log entry 9). -/
def freeBytes (from' n : Nat) : List Byte := (List.range n).map fun i => Config.freeByte (from' + i)

/-- Minor version of the host interface in force, 0 before one is chosen (R472). -/
def State.hci (s : State) : Nat := s.ctl.hciMinor.toNat
/-- A step runs (R41). -/
def State.stepping (s : State) : Bool := s.ctl.state.running && s.adm.running
/-- Cluster time in ns. -/
def State.now (s : State) : Nat := s.tmr.ns.toNat
/-- Whether power is on and the device is not in ALARM: only then does it take part in anything but management. -/
def Dev.awake (d : Dev) : Bool := match d with | .off | .alarm => false | _ => true

/-! Events, state changes, completions -/

/-- An event is posted, or waits for completion queue 0, which is not enabled in RESET and BOOT (R484); none in OFF and ALARM (R512). -/
def State.event (s : State) (type detail : Nat) (r0 r1 r2 : W64) : State :=
  if s.ctl.state.awake then { s with hif := s.hif.event s.hci type detail r0 r1 r2 } else s

/-- The device state changes, with its STATE_CHANGE event (R484, R487, R492). DESIGN CHOICE: the entry to BOOT posts none (log entry 138). -/
def State.goto (s : State) (d : Dev) : State :=
  if s.ctl.state = d then s
  else
    let t := { s with ctl := s.ctl.goto d }
    if d.live then t.event 0x01 0 (BitVec.ofNat 64 (d.code + 16 * s.ctl.state.code)) 0 0 else t

/-- An entry completes (R475). -/
def State.complete (s : State) (e : Entry) (code : Code) (detail : Nat := 0) (r0 r1 r2 : W64 := 0) : State :=
  if s.ctl.state.live then { s with hif := s.hif.complete s.hci e code detail r0 r1 r2 } else s

/-- Entries complete in turn with one code. -/
def State.completeAll (s : State) (l : List Entry) (code : Code) : State := l.foldl (fun s e => s.complete e code) s

/-- Fetched entry i completes and leaves the outstanding entries. -/
def State.finish (s : State) (i : Nat) (code : Code) (detail : Nat := 0) (r0 r1 r2 : W64 := 0) : State :=
  match s.hif.fetched[i]? with
  | none => s
  | some e => ({ s with hif := { s.hif with fetched := s.hif.fetched.eraseIdx i } }).complete e code detail r0 r1 r2

/-- The completion of a sample (R481). -/
def State.sampleDone (s : State) (d : SampleDone) : State :=
  s.complete d.e (if d.reason = 0 then .success else .sampleVoid) 0 (BitVec.ofNat 64 d.seq) d.cookie
    (BitVec.ofNat 64 (leVal (bytesOf 1 d.reason ++ d.drops.flatMap (bytesOf 1))))
def State.samplesDone (s : State) (l : List SampleDone) : State := l.foldl State.sampleDone s

/-! Blocks whose flags raise events -/

/-- The TMR block changes; flags newly set post a TIME event (R383, R484). -/
def State.setTmr (s : State) (t : Tmr) : State :=
  let n := newFlags s.tmr.flags t.flags
  let s := { s with tmr := t }
  if n = 0 then s else s.event 0x03 0 (n.setWidth 64) 0 0

/-- The GX block changes; flags newly set post an EXCHANGE event (R484). -/
def State.setGx (s : State) (x : Gx) : State :=
  let n := newFlags s.gx.flags x.flags
  let s := { s with gx := x }
  if n = 0 then s else s.event 0x06 0 (n.setWidth 64) 0 0

/-! Faults -/

/-- Whether the active image chooses crossed mode (R34). -/
def State.crossed (s : State) : Bool := (s.img.map (·.crossed)).getD false

/-- A fault is detected (R519): its record takes the step and cluster time of detection (R540), and names an abandonment only of a step that
runs (R531). None arises in OFF or ALARM (R543). -/
def State.report (s : State) (r : Report) : State :=
  if s.ctl.state.awake then
    { s with flt := s.flt.detect { r with abandon := r.abandon && s.adm.running, step := s.tmr.step.toNat, time := s.now, cyc := s.tmr.age } }
  else s

/-- A free word is drawn (log entry 9). -/
def State.freeW (s : State) : W64 := Config.freeWord s.free
def State.drawn (s : State) (n : Nat := 1) : State := { s with free := s.free + n }

/-- The servo's source is lost (R373); the mean rate's rounding is open (log entry 45). -/
def State.loseSource (s : State) : State :=
  (s.setTmr (s.tmr.holdover (odd s.freeW))).drawn

/-- The LNK block changes: a port newly in DOWN is a LINK fault (R331, R521), `lane` the lane it is laid to (R540), and the servo loses a source port
that leaves UP (R373). -/
def State.setLnk (s : State) (l : Lnk) (lane : Nat := 0) : State :=
  let fell := (List.range 12).filter fun i => (l.port.at i).state == .down && (s.lnk.port.at i).state != .down
  let lost := s.tmr.source == 2 && (s.lnk.port.at s.tmr.port.toNat).state == .up && (l.port.at s.tmr.port.toNat).state != .up
  let s := { s with lnk := l }
  let s := fell.foldl (fun s i => s.report { cls := .link, sev := .contained, unit := i, sub := lane, detail := (l.port.at i).downReason.toNat }) s
  if lost then s.loseSource else s

/-- Class of an uncorrected or corrected memory error by tier (R521). -/
def tierCls (k : Nat) : Cls := match placeTier k with | 2 => .hbm | 3 => .ddr5 | _ => .sram

/-- The report of a memory error at a place and its device address (R454, R455, R540). `abandon`: the read belongs to a step. -/
def memReport (k addr : Nat) (sev : Sev) (stopped abandon : Bool) (inj : Bool := false) : Report :=
  let tile := placeTier k == 0
  { cls := tierCls k, sev := sev, level := if tile then 1 else 3, unit := placeUnit k, detail := addr, injected := inj
    stopped := stopped, fenced := tile && sev == .contained, abandon := abandon && sev == .contained, tile := if tile then some (placeUnit k) else none }

/-- Whether a place lies in the active image store: its 32 MiB of a stack (R446). -/
def State.inActiveStore (s : State) (k : Nat) : Bool :=
  let o := hbmServed + (if s.memr.activeStore then 2 ^ 25 else 0)
  placeTier k == 2 && decide (o ≤ k % 2 ^ 40 ∧ k % 2 ^ 40 < o + 2 ^ 25)

/-- A corrected error at a place: counted and reported (R454); `inj` marks an injected one (R542). -/
def State.corrected (s : State) (k addr : Nat) (inj : Bool := false) : State :=
  let s := if placeTier k = 0 then { s with fab := s.fab.modTile (placeUnit k) fun r =>
      { r with sramCe := true, ecc := { r.ecc with ce := satAdd r.ecc.ce 1 } } }
    else { s with memr := s.memr.countCe k }
  s.report (memReport k addr .corrected false false inj)

/-- An uncorrectable error at a place: counted, marked, recorded and reported (R455, R521, R537). -/
def State.uncorrected (s : State) (k addr source : Nat) (stopped abandon : Bool) (inj : Bool := false) : State :=
  let s := if placeTier k = 0 then { s with fab := s.fab.modTile (placeUnit k) fun r =>
      { r with sramUe := true, ecc := { r.ecc with ue := satAdd r.ecc.ue 1 } } }
    else { s with memr := s.memr.countUe k }
  let s := { s with mem := s.mem.setPoison k true, memr := s.memr.recordErr addr k source s.tmr.age }
  if s.inActiveStore k && s.img.isSome then s.report { memReport k addr .chip stopped false with imgLost := true }
  else s.report (memReport k addr .contained stopped abandon inj)

/-- One unit is read with some symbols wrong (R453 to R455): the state after it, and whether its data is poisoned by that. A unit that already holds
the mark meets no error. -/
def State.meetErr (s : State) (k addr : Nat) (hits : List Nat) (source : Nat) (stopped abandon : Bool) (inj : Bool := false) : State × Bool :=
  if s.mem.poisoned k then (s, false)
  else match s.memr.eccAt k hits with
  | .none => (s, false)
  | .corrected => (s.corrected k addr inj, false)
  | .uncorrected => (s.uncorrected k addr source stopped abandon inj, true)

/-- The errors of several units, one after the other. -/
def State.meetErrs (s : State) (us : List (Nat × List Nat)) (source : Nat) (stopped abandon : Bool) (via : Nat → Nat) (inj : Bool := false) :
    State × Bool :=
  us.foldl (fun r u => let n := r.1.meetErr u.1 (via u.1) u.2 source stopped abandon inj; (n.1, r.2 || n.2)) (s, false)

/-- An injected fault of kind 4 or 3 that a read of these places meets (R542): the first word in an SRAM whose tile it names. -/
def Fab.injectRead (f : Fab) (ks : List Nat) : Option (Fab × Ecc) :=
  if f.inject.isEmpty then none else
  (ks.zipIdx.filter fun p => placeTier p.1 == 0).findSome? fun (k, i) =>
    match f.takeInject (placeUnit k) 4 with
    | some g => some (g, .uncorrected i)
    | none => (f.takeInject (placeUnit k) 3).map fun g => (g, .corrected i)

/-- A read of places that meets errors: the state after it, and whether its data is poisoned (R454, R455). Units that already hold the mark only set
POISON_RD. `via` names the device address of a place; `inject`: a read that injected faults can befall (R542), where it meets no other error. -/
def State.eccRead (s : State) (ks : List Nat) (e : Ecc) (source : Nat) (stopped abandon : Bool) (via : Nat → Nat := placeAddr)
    (inject : Bool := false) : State × Bool :=
  let old := ks.any s.mem.poisoned
  let s := if old then { s with memr := { s.memr with poisonRd := true } } else s
  match (if inject && e.errs.isEmpty && !old then s.fab.injectRead ks else none) with
  | some (f, x) => State.meetErrs { s with fab := f } (x.units ks) source stopped abandon via true
  | none =>
    let r := s.meetErrs (e.units ks) source stopped abandon via
    (r.1, old || r.2)

/-- An engine reads places (R454, R455): the errors it meets are counted, marked, recorded and reported. DEDUCED: its data goes on as the memory holds
it (log entry 66). -/
def State.engineRead (s : State) (im : Image) (ks : List Nat) (e : Ecc) : State :=
  if s.mem.poison.isEmpty && e.errs.isEmpty then s else (s.eccRead ks e 0 false false im.addrOf).1

/-- The units that a write of these cells reads and merges (R455): the errors their reads meet. -/
def State.mergeRead (s : State) (im : Image) (cs : List (Nat × Byte)) (e : Ecc) : State :=
  if s.mem.poison.isEmpty && e.errs.isEmpty then s else s.engineRead im (mergedPlaces cs) e

/-! Readiness -/

/-- Unit of a class (R103): the array classes share one, the memory classes another. -/
def unitOf (c : Nat) : Nat := if isArray c then 1 else if c = 7 then 6 else c

/-- Whether the unit of a class can accept a firing (R103, R108). -/
def Fab.unitFree (im : Image) (f : Fab) (t : Nat) (d : Desc) : Bool :=
  let mine := f.firings.filter fun x => x.tile == t && unitOf (im.descAt x.desc).cls == unitOf d.cls
  if isArray d.cls then (f.array t).free
  else if d.cls = 6 || d.cls = 7 then decide (mine.length < 2)
  else if d.cls = 8 then true
  else if d.cls = 9 then !f.firings.any fun x => regionOf x.tile == regionOf t && (im.descAt x.desc).cls == 9
  else mine.isEmpty

/-- A slot is ready (R108). -/
def State.ready (s : State) (im : Image) (t k : Nat) : Bool :=
  let sl := s.fab.slot t k
  let d := im.descAt sl.desc
  sl.st == .idle && !s.fab.held t && (s.adm.nextMb im s.fab t k).isSome
    && d.inEdges.all (fun e => decide (0 < (s.fab.edge e).tokens)) && d.outEdges.all (fun e => decide (0 < (s.fab.edge e).credits))
    && (sl.taken || d.waitObj == none16) && s.fab.unitFree im t d

/-- The order in which slots became ready, after an event at some tiles: those that are so no more leave it, the new ones follow by slot (R109). -/
def State.noteReady (s : State) (ts : List Nat) : State :=
  match s.img with
  | none => s
  | some im =>
    let now := ts.flatMap fun t => ((List.range 16).filter fun k => s.ready im t k).map fun k => (t, k)
    let keep := s.fab.readyLog.filter fun p => !ts.contains p.1 || now.contains p
    { s with fab := { s.fab with readyLog := keep ++ now.filter fun p => !keep.contains p } }

/-- The same after a firing of a tile has started, ended or stopped: its unit serves the tile, or with STEM every tile of the region (R231). -/
def State.noteUnit (s : State) (t cls : Nat) : State :=
  s.noteReady (if cls = 9 then (List.range 256).filter fun u => regionOf u == regionOf t else [t])

/-- The same after an event that can concern every tile. -/
def State.noteAll (s : State) : State := s.noteReady (s.fab.slots.map fun p => p.1 / 16).eraseDups

/-! Sync objects -/

/-- One consequence of an operation on a sync object (R117, R295, R298, R482, R521). -/
def State.syncEff (s : State) : SyncEff → State
  | .granted (.slot t k) => ({ s with fab := s.fab.setSlot t k { s.fab.slot t k with taken := true, waiting := false } }).noteReady [t]
  | .granted (.host e) => s.complete e .success
  | .granted .backlog => { s with adm := { s.adm with backlog := some true } }
  | .fired o n =>
    let s := if (s.sync.objs.at o).notify then s.event 0x04 0 (BitVec.ofNat 64 o) (n.setWidth 64) 0 else s
    match s.img with
    | some im => if im.upd.retireObj = o && s.adm.running then { s with adm := { s.adm with retired := true } } else s
    | none => s
  | .saturated o => s.report { cls := .control, sev := .contained, sub := o, detail := 6, abandon := s.adm.running }

/-- An operation at a sync object's home (R116, R117). -/
def State.syncOp (s : State) (o : Nat) (p : SyncOp) : State :=
  let r := s.sync.op o p
  r.2.foldl State.syncEff { s with sync := r.1 }

/-- A parity error met in an object's storage at an operation (R521): recorded, and the count the operation acts on is a free value (log entry 41). -/
def State.parityAt (s : State) (o : Nat) (parity : Bool) : State :=
  if !parity then s else
  ({ s with sync := { s.sync with objs := s.sync.objs.mod o fun x => { x with count := s.freeW.setWidth 32 } }, free := s.free + 1 }).report
    { cls := .control, sev := .contained, sub := o, detail := 1, abandon := s.adm.running }

/-- Objects named by SYNC_INIT or by a descriptor (R532). -/
def Image.syncNames (im : Image) : List Nat :=
  (im.syncs.map (·.object) ++ (im.descs.flatMap fun d => [d.waitObj, d.sigObj]).filter (· != none16)).eraseDups

/-- Count and threshold an object is reset to (R72, R116). -/
def Image.syncInit (im : Image) (o : Nat) : Nat × Nat :=
  match im.syncs.find? fun r => r.object == o with | some r => (r.count, r.threshold) | none => (0, 0)

/-- Reset objects: host TAKEs that were pending complete with ABORTED (R116, R482). -/
def State.syncReset (s : State) (os : List Nat) (init : Nat → Nat × Nat) (keepNotify : Bool) : State :=
  let waiters := os.flatMap fun o => (s.sync.objs.at o).hostWaiters
  let objs := os.foldl (fun (t : Sparse SyncObj) o => t.mod o fun x => x.reset (init o).1 (init o).2 keepNotify) s.sync.objs
  ({ s with sync := { s.sync with objs := objs } }).completeAll waiters .aborted

/-! The check-value unit -/

/-- Errors in ascending order of their bytes. -/
def Ecc.sorted (e : Ecc) : Ecc :=
  let place := fun (x : EccErr) (l : List EccErr) => (l.takeWhile fun y => decide (y.i ≤ x.i)) ++ x :: l.dropWhile fun y => decide (y.i ≤ x.i)
  { errs := e.errs.foldl (fun l x => place x l) [] }

/-- The errors a scan meets up to the first that stops it (R461). -/
def State.scanErrs (source : Nat) (via : Nat → Nat) (inj : Bool) : List (Nat × List Nat) → State → State × Bool
  | [], s => (s, false)
  | (k, h) :: r, s =>
    let n := s.meetErr k (via k) h source false false inj
    if n.2 then n else State.scanErrs source via inj r n.1

/-- A scan's read (R461): in ascending order it ends at the first unit that holds the poison mark or has an uncorrectable error; nothing behind it is
read. -/
def State.scanRead (s : State) (ks : List Nat) (e : Ecc) (source : Nat) (via : Nat → Nat) : State × Bool :=
  let n := (indexOf s.mem.poisoned ks).getD ks.length
  let x := match (if e.errs.isEmpty then s.fab.injectRead (ks.take n) else none) with
    | some (f, x) => ({ s with fab := f }, x, true)
    | none => (s, e, false)
  let r := State.scanErrs source via x.2.2 (x.2.1.sorted.units (ks.take n)) x.1
  if r.2 || n = ks.length then r
  else ({ r.1 with memr := { r.1.memr with poisonRd := true } }, true)

/-- The running job ends with a result, and signals if it is to (R460, R462). -/
def State.crcEnd (s : State) (j : CrcJob) (value : W64) (status : Nat) : State :=
  let s := { s with memr := { s.memr with running := none, scanPos := 0, scanCrc := 0
                                          results := s.memr.results ++ [{ value := value, status := BitVec.ofNat 2 status, tag := j.tag }] } }
  if j.sig then s.syncOp j.obj.toNat (.signal 1) else s

/-- The scan of the running job reads its next n bytes as they stand, each once (R460, R461, R463): a span that is not mapped ends it unread, a
poisoned one with an undefined result, a FREE VALUE; the last byte ends it with its check value. -/
def State.crcScan (s : State) (j : CrcJob) (n : Nat) (ecc : Ecc) : State :=
  let a := j.addr.toNat
  if j.len ≠ 0 && !spanMapped s.memr.ddr a j.len.toNat then s.crcEnd j 0 1
  else
    let ks := spanPlaces (a + s.memr.scanPos) n
    let r := s.scanRead ks ecc 2 (addrIn (addrSpace a))
    if r.2 then r.1.drawn.crcEnd j s.freeW 2
    else
      let v := crcContinue j.alg s.memr.scanCrc (s.mem.read ks)
      if j.len.toNat ≤ s.memr.scanPos + n then r.1.crcEnd j (BitVec.ofNat 64 v) 0
      else { r.1 with memr := { r.1.memr with scanPos := s.memr.scanPos + n, scanCrc := v } }

/-- In one cycle the scan reads at most 51 bytes, which is 64 GB/s; how many it gets is a FREE VALUE (R462, log entry 94). The last byte is left to
the job's completion. -/
def State.crcCycle (s : State) : State :=
  match s.memr.running with
  | none => s
  | some j =>
    let n := min (s.freeW.toNat % 52) (j.len.toNat - s.memr.scanPos - 1)
    if n = 0 then s.drawn else s.drawn.crcScan j n {}

/-- One cycle of the 1.25 GHz time base (R306, R322, R364, R463, R562, log entry 3). -/
def idle (s : State) : State :=
  if s.ctl.state = .off then s
  else
    { s with tmr := s.tmr.cycle, lnk := s.lnk.cycle, rst := if s.rst.wdtRunning then { s.rst with wdtElapsed := s.rst.wdtElapsed + 8 } else s.rst }.crcCycle

/-! Slots and edges -/

/-- A slot that holds a descriptor is armed: with a wait object it sends its first TAKE (R118). -/
def Image.arm (im : Image) (x : Fab × Sync) (t k : Nat) : Fab × Sync :=
  let sl := x.1.slot t k
  let d := im.descAt sl.desc
  if sl.st = .empty || d.waitObj = none16 || sl.waiting || sl.taken then x
  else (x.1.setSlot t k { sl with waiting := true }, { x.2 with msgs := x.2.msgs ++ [.take d.waitObj d.waitCount t k] })

/-- Write the preload blocks of the edges of a placement that satisfy a test (R80, R105). -/
def Image.writePreloads (im : Image) (m : Mem) (p : Nat) (ok : EdgeRec → Bool) : Mem :=
  im.preloads.foldl (fun m r => match im.edge? r.edge with
    | some e => if e.placement = p && ok e then
        m.write ((im.preloadData r).zipIdx.map fun (b, i) => (im.sramPlace' e.consTile (e.placeOff r.place + i), b)) else m
    | none => m) m

/-- A TAKE of a slot that is under way or pending is given up (log entry 40). -/
def Sync.dropTake (x : Sync) (t k : Nat) : Sync :=
  { objs := Sparse.mapVals (fun _ o => { o with fifo := o.fifo.filter fun w => w.1 != .slot t k }) x.objs
    msgs := x.msgs.filter fun m => match m with | .take _ _ a b => !(a == t && b == k) | .signal _ _ _ => true }

/-- Flits of a block of device traffic (R120, R121, R127). -/
def deviceFlits (f : Flit) (bs : List Byte) : List Flit :=
  let n := flitCount bs.length
  (List.range n).map fun i => { f with index := i, last := i + 1 == n, bytes := flitBytes bs i }

/-- The device writes of a swapped-slot load (R56, R120): the descriptor, then the preload blocks of the slot's input edges. -/
def Image.loadFlits (im : Image) (t k i : Nat) : List Flit :=
  let d := im.descAt i
  let base : Flit := { edge := k, place := 0, index := 0, dst := t, vc := 6, yFirst := false, last := false, poison := false, bytes := [], use := .descriptor }
  deviceFlits base d.raw ++ im.preloads.flatMap fun r => match im.edge? r.edge with
    | some e => if e.placement = d.placement && e.consTile == t && e.consSlot == k then
        deviceFlits { base with edge := r.edge, place := r.place, use := .preload } (im.preloadData r) else []
    | none => []

/-- A slot begins to load a descriptor (R56, R107, R247): its device writes enter the mesh at a tile the spec does not name (log entry 118). -/
def State.loadSlot (s : State) (im : Image) (t k i : Nat) : State :=
  let fs := im.loadFlits t k i
  let f := s.fab.setSlot t k { st := .loading, desc := i, raw := (im.descAt i).raw, done := (s.fab.slot t k).done }
  { s with fab := { f with device := f.device.mod (Config.deviceEntry t % 256) fun l => l ++ fs, loads := f.loads.put (16 * t + k) fs.length }
           sync := s.sync.dropTake t k }

/-- Steps 1 and 4 of R80: slots cleared, descriptors of the default placement loaded, edge counters set. DESIGN CHOICE: rows that wait for the
sampler are dropped, uncounted (log entry 137). -/
def Image.freshFab (im : Image) (f : Fab) : Fab :=
  let slots := im.descs.zipIdx.foldl (fun (t : Sparse Slot) (d, i) =>
    if d.placement = 0 then t.put (16 * d.tile + d.slot) { st := .idle, desc := i, raw := d.raw } else t) []
  let edges := im.edges.zipIdx.foldl (fun (t : Sparse EdgeSt) (e, i) => t.put i (edgeReset e)) []
  { f.cleared with slots := slots, edges := edges, spoon := [], fenced := [], hold := false }

/-- Step 8 of R80: every loaded slot is armed (R118). -/
def Image.armAll (im : Image) (x : Fab × Sync) : Fab × Sync :=
  im.descs.foldl (fun x d => if d.placement = 0 then im.arm x d.tile d.slot else x) x

/-! Reset, alarm, FAULT -/

/-- Blocks an update engine has before it (R293, R299, R343): of a sweep that runs, which the shards wait for, then of the shards whose update runs;
a deferred block only joins its queue entry and an unseeded one takes no update. -/
def State.updating (s : State) (im : Image) : List Nat :=
  let fast := fun (g : Nat) => !(im.isSlow g && 0 < im.upd.k) && !s.gx.unseeded.contains g
  (match s.upd.sweep with | some x => x.2 | none => [])
    ++ (s.gx.sets.filter fun x => x.stage == .updating).flatMap fun x => (im.shardBlocks s.gx.group.n x.key.bucket x.key.shard).filter fast

/-- Block an update engine is in the middle of (R299). -/
def State.midBlock (s : State) : Option Nat := s.img.bind fun im => (s.updating im).head?

/-- The values an interrupted update leaves of a block (R241, R299): free ones, but for frozen elements, which it never writes. -/
def Image.torn (im : Image) (b : BlockAt) (from' : Nat) (old : List F32) : List F32 :=
  (b.elems.zip old).zipIdx.map fun (p, i) => if im.frozen b p.1 then p.2 else (Config.freeWord (from' + i)).setWidth 32

/-- A reset or alarm stops an update engine mid-block (R299): the TORN fields tell, and the block's bytes are free values (log entry 32). -/
def State.tear (s : State) : State :=
  match s.img, s.midBlock with
  | some im, some g =>
    let b := im.block g
    let n := b.elems.length
    let o2 := b.t.stateOff + 4 * b.t.rows * b.t.cols
    let free := fun (m : Mem) (region off k : Nat) => b.writeF32 im m region off (im.torn b (s.free + k * n) (b.readF32 im m region off))
    let m := free s.mem b.t.master 0 0
    let m := free m b.t.state b.t.stateOff 1
    let m := if (im.groupOf b).rule = 1 then free m b.t.state o2 2 else m
    let m := im.regWrite m b.t.copy (b.copyOff ((s.upd.gen.at g).cur + 1)) (freeBytes (s.free + 3 * n) b.t.panel)
    { s with mem := m, free := s.free + 3 * n + b.t.panel
             upd := { s.upd with torn := true, tornValid := true, tornTensor := if s.upd.tornValid then s.upd.tornTensor else BitVec.ofNat 16 b.ti } }
  | _, _ => s

/-- What the auxiliary domain keeps of the update registers (R305, R560). -/
def Upd.aux (u : Upd) : Upd := { torn := u.torn, tornValid := u.tornValid, tornTensor := u.tornTensor }

/-- SEC at a reset (R565): fuses stay, and SEC_ALARM_CAUSE is cleared by power removal only. -/
def Sec.resetKeep (x : Sec) : Sec :=
  { fuses := x.fuses, sources := x.sources, valid := x.valid, first := x.first, keysErased := x.keysErased, retireBlown := x.retireBlown
    alarmBlown := x.alarmBlown, firstCyc := x.firstCyc, verified := false }

/-- The blocks both kinds of reset clear (R565). -/
def State.clearCommon (s : State) : State :=
  { s with ctl := { state := .reset }, inp := {}, fab := {}, gx := {}, upd := s.upd.aux, sites := [], adm := {}, sync := {}
           sec := s.sec.resetKeep, img := none, mgmt := { s.mgmt with i3c := none, eid := 0 } }

/-- A cold reset's clearing (R565); memory is zeroed in BOOT (R456). -/
def State.clearCold (s : State) : State :=
  { s.clearCommon with
    hif := { mem := s.hif.mem, holes := s.hif.holes, out := s.hif.out }, memr := {}, tmr := {}, lnk := { out := s.lnk.out }, flt := {}
    pwr := { res := s.pwr.res }
    rst := { s.rst with wdtPeriod := 2000, wdtLocked := false, wdtRunning := false, wdtElapsed := 0, cold := true } }

/-- A warm reset's clearing (R458, R565): TMR, LNK, FLT, PWR, RST, DDR5 training and the PCIe configuration space stay; a scrubber it enables again
starts a new pass. -/
def State.clearWarm (s : State) : State :=
  { s.clearCommon with
    hif := { mem := s.hif.mem, holes := s.hif.holes, out := s.hif.out, bar4Log := s.hif.bar4Log, d3hot := s.hif.d3hot, aerPoisoned := s.hif.aerPoisoned }
    memr := { ddr := s.memr.ddr, initBusy := false, scrub := (s.memr.scrubCfg 0).scrub }
    tmr := { s.tmr.disarm with issue := [], stepStart := none, latchDigest := false, latchSnap := false }
    lnk := { s.lnk with inject := s.lnk.inject.mapVals fun _ q => q.map fun x => { x with entry := none } }
    flt := { s.flt with fences := [], abandoning := false, chipAfter := false, deferred := false, needFlush := false }
    pwr := { s.pwr with nPower := 16, nThermal := 16 }
    rst := { s.rst with wdtRunning := false, wdtElapsed := 0, cold := false } }

/-- What the sources that hold the device in RESET clear (R565). -/
def State.clearFor (s : State) : State := if s.rst.active &&& coldMask = 0 then s.clearWarm else s.clearCold

/-- COOL_REQ (R571, R572): sixteenths of each period that the output is low. It drives full cooling through a cold reset and its BOOT, holds through a
warm reset, then follows COOL_LEVEL. -/
def State.coolReq (s : State) : Nat :=
  match s.ctl.state with
  | .off => 0
  | .reset | .boot => if s.rst.cold then 16 else s.pins.coolHeld
  | _ => s.pwr.coolLevel + 1

/-- A source is latched in the auxiliary domain (R560, R563). -/
def State.latchSource (s : State) (m : BitVec 7) : State := { s with rst := { s.rst with latched := s.rst.latched ||| m } }

/-- Entry to RESET from sources `m` (R561, R563 to R566, R573). No reset is entered from OFF or ALARM (R487); while REFCLK is stopped a source is
latched and held pending, in OFF too. -/
def State.enterReset (s : State) (m : BitVec 7) : State :=
  match s.ctl.state with
  | .alarm => s
  | .off => if !s.pins.refclk && s.pins.p3v3 then s.latchSource m else s
  | d =>
    if !s.pins.refclk then s.latchSource m
    else
      let act := (if d = .reset then s.rst.active else 0) ||| m
      ({ s.tear with rst := { s.rst with cause := s.rst.cause ||| m, active := act }, pins := { s.pins with coolHeld := s.coolReq } }).clearFor

/-- What is lost at power removal (R560): everything but the auxiliary domain; the fuses and the flash are non-volatile. -/
def State.powerDown (s : State) : State :=
  { s with ctl := { state := .off }, inp := {}, fab := {}, gx := {}, upd := s.upd.aux, sites := [], adm := {}, sync := {}
           sec := { fuses := s.sec.fuses, verified := false }, img := none, mgmt := { out := s.mgmt.out }, mem := {}
           hif := { mem := s.hif.mem, holes := s.hif.holes, out := s.hif.out }, memr := {}, tmr := {}, lnk := { out := s.lnk.out }, flt := {}
           pwr := { res := s.pwr.res }
           rst := { cause := s.rst.cause, latched := s.rst.latched } }

/-- The accumulator after an abandonment: nothing parked, every block expects micro-batch 0 (R532). -/
def Upd.restart (u : Upd) : Upd := { u with expect := [], filled := [], contribs := [], parked := [], reserved := [] }

/-- Every port goes to electrical idle (R331, R512); no reason code names the alarm (log entry 33). -/
def Lnk.allIdle (l : Lnk) (reason : Nat) : Lnk :=
  (List.range 12).foldl (fun l i => if (l.port.at i).state == .disabled then l else l.toDown i reason) l

/-- An alarm source is detected (R511 to R513, R515): the first one enters ALARM, a later one only sets its bit. -/
def State.alarm (s : State) (a : AlarmSrc) : State :=
  match s.ctl.state with
  | .off => s
  | .alarm => { s with sec := s.sec.note a s.tmr.age }
  | _ =>
    let s := s.tear
    { s with ctl := { s.ctl.goto .alarm with loadBusy := false }, sec := s.sec.alarm a s.tmr.age, pins := { s.pins with alarmN := true }
             rst := { s.rst with cause := s.rst.cause ||| Source.alarm.mask }
             lnk := s.lnk.allIdle 0, fab := { s.fab.noFirings with hold := true, readyLog := [] }
             inp := { s.inp with queue := [], ctx := [] }, hif := { s.hif with fetched := [], events := [], mailRecv := [] }
             memr := { s.memr with jobs := [], running := none }, tmr := { s.tmr with issue := [] }
             flt := { s.flt with reports := [], toWrite := [], fences := [], abandoning := false, chipAfter := false, deferred := false }
             adm := { s.adm with running := false }, upd := { s.upd.restart with sweep := none }
             gx := { s.gx with sets := [], inbox := [], round := none } }

/-- An abandonment starts (R532): admission stops and every tile is held. With an update of the step begun it waits for the step's end (R304). -/
def State.abandon (s : State) : State :=
  if s.flt.abandoning then s
  else if s.adm.running && s.adm.updStarted then { s with flt := { s.flt with deferred := true } }
  else
    { s with adm := { s.adm with refused := true }, fab := { s.fab with hold := true, readyLog := [] }, flt := { s.flt with abandoning := true } }

/-- A read that the step's updates rest on (R285, R337, R351, R517): poisoned data abandons the step, and the answer is that the data may not be
used. With an update of the step begun the abandonment waits (R304), and the data goes on as the memory holds it (log entry 66). -/
def State.stepRead (s : State) (im : Image) (ks : List Nat) (e : Ecc) : State × Bool :=
  if s.mem.poison.isEmpty && e.errs.isEmpty then (s, false) else
  let r := s.eccRead ks e 0 false true im.addrOf
  if r.2 then (r.1.abandon, !s.adm.updStarted) else (r.1, false)

/-- A firing stops for poison (R114); data whose mark was already there brings no new record, and the step is abandoned (R455, R521, log entry 38). -/
def State.poisonStop (s : State) (t k : Nat) (marked : Bool) : State :=
  let cls := match s.img with | some im => (im.descAt (s.fab.slot t k).desc).cls | none => 0
  let s := { s with fab := (s.fab.stopSlot t k).modTile t fun r => { r with poisonIn := true } }
  (if marked then s.abandon else s).noteUnit t cls

/-- A serial command that runs when a chip-level fault comes completes with FAULT (R490, R543): a waiting snapshot, a counter advance. -/
def State.failSerial (s : State) : State :=
  let s := ({ s with gx := { s.gx with snapshots := [] } }).completeAll (s.gx.snapshots.filterMap id) .fault
  match s.sec.blow, s.sec.blowFor with
  | _ :: _, .rollback e _ => ({ s with sec := { s.sec with blow := [] } }).complete e .fault
  | _, _ => s

/-- The update engines stop after the block in progress (R536): a sweep keeps its first block, the entries of the others stay, and a shard none of
whose blocks is in progress gets no update and no return (log entry 144). -/
def State.stopUpdates (s : State) : State :=
  let mid := match s.upd.sweep with | some _ => none | none => s.midBlock
  let keep := fun (x : SlotSet) => match s.img, mid with
    | some im, some g => (im.shardBlocks s.gx.group.n x.key.bucket x.key.shard).contains g
    | _, _ => false
  { s with upd := { s.upd with sweep := if s.img.isSome then s.upd.sweep.map fun x => (x.1, x.2.take 1) else none }
           gx := { s.gx with sets := s.gx.sets.map fun x => if x.stage = .updating && !keep x then { x with stage := .gone } else x } }

/-- A chip-level fault enters FAULT (R487, R536 to R538): with an update of the step begun the step is left as it stands, else it is abandoned. -/
def State.enterFault (s : State) (imgLost : Bool) : State :=
  match s.ctl.state with
  | .off | .reset | .alarm => s
  | _ =>
    let s := if imgLost then { s with img := none, flt := { s.flt with imgLost := true } } else s
    let s := s.failSerial
    if s.flt.abandoning then { s with flt := { s.flt with chipAfter := true } }
    else
      let s := if !s.adm.running then s
        else if s.adm.updStarted then { s with flt := { s.flt with partialUpdate := true } } else s.abandon
      let s := s.stopUpdates
      ({ s with fab := { s.fab with hold := true, readyLog := [] }, gx := { s.gx with round := none }
                flt := { s.flt with chipAfter := s.flt.chipAfter || s.flt.abandoning } }).goto .fault

/-! Abandonment and image application -/

/-- The report records of a step or of an attempt are written to the report region, if there is one (R176). -/
def Image.writeReports (im : Image) (m : Mem) (step : Nat) (abandoned : Bool) (t : Sites) : Mem :=
  if im.num.reportRegion = none32 then m
  else (Sites.reports im.num.sites step abandoned t).foldl (fun m r => im.regWrite m im.num.reportRegion r.1 r.2) m

/-- Owned shards of the step whose update has not started are given up, those no contribution has reached too (R532, R535). -/
def Gx.giveUp (im : Image) (x : Gx) (step : Nat) : Gx :=
  ((im.slotKeys x.group x.me).filter fun k => !k.asPod).foldl (fun (x : Gx) k =>
    let y := x.getSet step k
    if y.stage = .updating || y.stage = .done then x
    else x.putSet { y with stage := .gone, closed := true, slots := [], present := [], sum := [] }) { x with sentBuckets := [], silent := [] }

/-- What every abandonment gives up, with or without an image (R176, R441, R532 to R534): the row sets of its micro-batches are discarded and freed,
parked contributions and counts of the attempt go, and fences ordered and not yet in force are lifted with the others. -/
def State.abandonStep (s : State) : State :=
  let inp := s.adm.frames.foldl (fun (x : Inp) fr => x.freeMb fr.inMb) s.inp
  { s with
    adm := s.adm.clear, upd := s.upd.restart, sites := s.sites.abandon, tmr := { s.tmr with stepStart := none }
    inp := { inp with nextMb := inp.nextMb - s.adm.frames.length }
    flt := { s.flt with fences := [], abandoning := false, chipAfter := false, deferred := false, needFlush := true, abandoned := true
                        abandonCnt := satAdd s.flt.abandonCnt 1, lastAbandon := s.tmr.step } }

/-- Steps 1, 4 and 8 of R80 are reapplied and the named sync objects reset, as R532 says; `f` is the fabric with the firing counts that stand. -/
def State.reapply (s : State) (im : Image) (f : Fab) : State :=
  let mem := im.writePreloads s.mem 0 fun _ => true
  let names := im.syncNames.filter fun o => !(o == im.upd.backlogObj)
  let s := ({ s with mem := mem, sync := { s.sync with msgs := [] } }).syncReset names im.syncInit true
  let fx := im.armAll (im.freshFab f, s.sync)
  { s with fab := fx.1, sync := fx.2 }

/-- The device returns to ARMED, or enters FAULT for a chip-level fault met meanwhile, which keeps its hold (R487, R536, R543). -/
def State.leaveStep (s : State) (hold : Bool) : State :=
  let s := ({ s with fab := { s.fab with hold := hold } }).noteAll
  if s.ctl.state.running then (if hold then s.stopUpdates.goto .fault else s.goto .armed) else s

/-- The end of an abandonment (R176, R532 to R534, R543). -/
def State.abandonDone (s : State) (im : Image) : State :=
  let step := s.tmr.step.toNat
  let s' := { s with mem := im.writeReports s.mem step true s.sites, gx := s.gx.giveUp im step }
  ((s'.reapply im { s.fab with q := s.fab.qStart }).abandonStep).leaveStep s.flt.chipAfter

/-- The end of an abandonment whose image was lost (R532, R537): of R80 only step 1 can be reapplied, and no slot of a shard is kept. -/
def State.abandonLost (s : State) : State :=
  let keep := fun (x : SlotSet) => x.stage == .updating || x.stage == .done
  let s' := { s with fab := { s.fab.cleared with spoon := [], fenced := [] }, gx := { s.gx with sets := s.gx.sets.filter keep, sentBuckets := [], silent := [] } }
  s'.abandonStep.leaveStep s.flt.chipAfter

/-- Steps 1 to 8 of R80, and what R81 lists beside them; the state changes after it. DESIGN CHOICE: injected faults that still wait for a
firing are discarded with the descriptors (log entry 125), and CUR_PLACEMENT reads 0 again, which R84 does not say (log entry 139). -/
def State.applyImage (s : State) (im : Image) : State :=
  let mem := im.writePreloads s.mem 0 fun _ => true
  let fab := { im.freshFab s.fab with q := [], qStart := [], inject := [] }
  let objs := (s.sync.objs.map (·.1) ++ im.syncs.map (·.object)).eraseDups
  let s := ({ s with sync := { s.sync with msgs := [] } }).syncReset objs im.syncInit false
  let sync := if im.upd.backlogObj = none16 then s.sync
    else { s.sync with objs := s.sync.objs.mod im.upd.backlogObj fun x => { x with count := 1 } }
  let fx := im.armAll (fab, sync)
  let ld := s.inp.imageLoad
  let s := { s with
    mem := mem, fab := fx.1, sync := fx.2, memr := { s.memr with activeStore := !s.memr.activeStore }
    adm := { s.adm.clear with backlog := none }, upd := { s.upd.restart with gen := [], sweep := none, loss := BitVec.ofInt 8 im.upd.lossExp }, sites := []
    gx := { s.gx with sets := [], rets := [], staged := [], refs := [], stale := [], norm := none, parts := [], normSent := false
                      sentBuckets := [], silent := [], unseeded := [], round := none, history := [], cut := none, base := none }
    tmr := { s.tmr.disarm with issue := [] }, inp := { ld.1 with mbRows := im.mbRows }, flt := { s.flt with fences := [] }, img := some im
    ctl := { s.ctl with loadBusy := false, curPlacement := 0 } }
  s.samplesDone ld.2

/-! Messages to members -/

/-- Member id in a random counter: 0 outside a group (R153). -/
def Gx.rndMember (x : Gx) : Nat := if x.solo then 0 else x.me

/-- An exchange message goes to a member: to this device at once, else as a packet (R337, R344, R345). -/
def State.sendX (s : State) (to' : Member) (m : XMsg) : State :=
  if to'.id = s.gx.me then { s with gx := { s.gx with inbox := s.gx.inbox ++ [m] } }
  else { s with lnk := s.lnk.injectPkt { dst := to'.node, src := s.lnk.nodeId.toNat, msg := m.msg, vc := xVc m.msg, payload := m.bytes } }

end Sys2Proof.Machine
end

