-- ==== Sys2Proof/Machine/GxOps.lean ====
section
/-! DEFINITION. Operations shared by the step and the exchange: messages to every member, panels, the update of a block (R290 to R299, R344, R356). -/

namespace Sys2Proof.Machine

/-- A message of the current step from this device (R344). -/
def State.xmsg (s : State) (msg b i a c d : Nat) (data : List Byte) : XMsg :=
  let g := s.gx.group
  { msg := msg, epoch := s.gx.epoch.toNat, step := s.tmr.step.toNat, bucket := b, shard := i, member := s.gx.me
    pod := if g.two then g.podOf s.gx.me else 0, a := a, b := c, c := d, data := data }

/-- A message goes to every member, this device included (R356). -/
def State.toAll (s : State) (m : XMsg) : State := s.gx.group.mem.foldl (fun s k => s.sendX k m) s

/-- The RETURN messages of a block's panel (R347, R356). -/
def State.sendPanel (s : State) (im : Image) (g gen : Nat) : State :=
  match im.shardOf s.gx.group.n g with
  | none => s
  | some (b, i) => (pieces s.gx.dataMax ((im.block g).readPanel im s.mem gen)).foldl (fun s p => s.toAll (s.xmsg xReturn b i g p.1 gen p.2)) s

/-- Counts that belong to no bound site (R578). -/
def State.countUnbound (s : State) (c : Counts) : State := if c = {} then s else { s with sites := s.sites.count unboundSite c }

/-- The record of an update that stops (R299, R521): unit the tensor, sub the bucket, detail the global block. -/
def State.updateFault (s : State) (im : Image) (g : Nat) : State :=
  s.report { cls := .update, sev := .contained, unit := (im.block g).ti, sub := (im.bucketOf g).getD 0, detail := g }

/-- The update engine reads the master weights and the state of blocks, and queue entries (R293, R294, R299, R455): the state after it, and the blocks
whose update stops, those swept from a poisoned entry among them (R517). A unit that holds the mark already stops its block with a record of the update; a new error is the record of the
memory (log entry 60). -/
def State.updateRead (s : State) (im : Image) (gs queued : List Nat) (e : Ecc) : State × List Nat :=
  let bad := fun (m : Mem) (g : Nat) => im.updPoison m (queued.contains g) g
  let old := gs.filter (bad s.mem)
  let r := s.engineRead im (gs.flatMap im.updPlaces ++ queued.flatMap im.queuePlaces) e
  (old.foldl (fun s g => s.updateFault im g) r, gs.filter (bad r.mem))

/-- One block is updated with its applied gradients (R290, R291, R296); `step` is the latest step they hold. -/
def State.updateOne (s : State) (im : Image) (g step : Nat) (gu : List F32) : State :=
  let gen := (s.upd.gen.at g).cur + 1
  let r := im.updateBlock s.mem g gen step s.adm.lrScale gu
  ({ s with mem := r.1, upd := s.upd.made g gen }).countUnbound r.2

/-- Change the stage of an owned shard of the current step. -/
def Gx.setStage (x : Gx) (step b i : Nat) (st : Stage) : Gx :=
  let k : SlotKey := { bucket := b, shard := i, asPod := false }
  x.putSet { x.getSet step k with stage := st, closed := true }

/-- A block is updated in a shard that gets no return: its generation stays (R299, R359, log entry 60). -/
def State.updateQuiet (s : State) (im : Image) (g step : Nat) (gu : List F32) : State := { s.updateOne im g step gu with upd := s.upd }

/-- Whether an owned shard gets no return in the step: a block of it has stopped, or is unseeded (R299, R343). -/
def Gx.isSilent (im : Image) (x : Gx) (b i : Nat) : Bool :=
  x.silent.contains (b, i) || (im.shardBlocks x.group.n b i).any x.unseeded.contains

/-- Some blocks of owned shards have stopped (R299). -/
def Gx.silence (im : Image) (x : Gx) (stopped : List Nat) : Gx :=
  { x with silent := (x.silent ++ stopped.filterMap fun g => im.shardOf x.group.n g).eraseDups }

/-- GX_UPD_STEP once every owned shard of the step is done (R305). -/
def State.noteStep (s : State) (im : Image) : State :=
  let step := s.tmr.step.toNat
  let keys := (im.slotKeys s.gx.group s.gx.me).filter fun k => !k.asPod
  if keys.all fun k => [Stage.done, Stage.gone].contains (s.gx.getSet step k).stage then { s with upd := { s.upd with step := s.tmr.step } } else s

/-- Panel bytes of a return are placed in stage_region (R358). -/
def State.stagePanel (s : State) (im : Image) (step g gen off : Nat) (bs : List Byte) : State :=
  { s with mem := im.regWrite s.mem im.bkt.stageRegion (im.stageOff g + off) bs
           gx := { s.gx with staged := s.gx.staged ++ [{ step := step, block := g, gen := gen, off := off, len := bs.length }] } }

/-- Places of a staged piece, and of its copy slot. -/
def Image.stagedPlaces (im : Image) (p : Staged) : List Nat := im.regPlaces im.bkt.stageRegion (im.stageOff p.block + p.off) p.len
def Image.stagedSlot (im : Image) (p : Staged) : List Nat := im.regPlaces (im.block p.block).t.copy ((im.block p.block).copyOff p.gen + p.off) p.len

/-- Staged pieces that may be written now (R297). -/
def State.stagedReady (s : State) : List Staged := s.gx.staged.filter fun p => s.upd.writable p.block p.gen

/-- Staged panels that may be written now are written (R297, R358), their marks with them (R455). -/
def State.writeStaged (s : State) (im : Image) : State :=
  let mem := s.stagedReady.foldl (fun m p =>
    (m.write ((im.stagedSlot p).zip (m.read (im.stagedPlaces p)))).carry m (im.stagedPlaces p) (im.stagedSlot p)) s.mem
  { s with mem := mem, gx := { s.gx with staged := s.gx.staged.filter fun p => !s.upd.writable p.block p.gen } }

/-- Generations of the returns of the current step that are complete (R296, R358). -/
def State.settleReturns (s : State) : State :=
  let gens := (s.gx.rets.filter fun r => r.complete && r.step == s.tmr.step.toNat).flatMap fun r => r.gens
  { s with upd := gens.foldl (fun u p => u.made p.1 p.2) s.upd }

end Sys2Proof.Machine
end

