-- ==== Sys2Proof/Machine/HostIfExec.lean ====
section
/-! DEFINITION. The endpoint, queues, doorbells and BAR4 (R467 to R478, R485). -/

namespace Sys2Proof.Machine

/-- A write to a register or doorbell takes effect while the endpoint answers: from READY to FAULT (R486, R490, R513, R565). -/
def State.host (s : State) (f : State → State) : Res := .next (if s.ctl.state.live then f s else s)

/-- A write of CTL_HCI_HOST (R472): ignored while any queue is enabled. -/
def State.writeHciHost (s : State) (v : W32) : State :=
  if s.hif.sq.any (fun q => q.2.enable) || s.hif.cq.any (fun q => q.2.enable) then s else { s with ctl := s.ctl.writeHci v }
/-- CTL_HCI_HOST_WRITE (R472). -/
def execCtlHciHostWrite (v : W32) (s : State) : Res := s.host fun s => s.writeHciHost v

/-- A write to BAR2 (R470, R476): bits [11:0] carry the index. -/
def State.doorbell (s : State) (off size : Nat) (v : W32) : State :=
  match doorbellAt off size with
  | some (q, false) => { s with hif := s.hif.tailDoorbell q (fld v 11 0) }
  | some (q, true) => { s with hif := s.hif.headDoorbell s.hci q (fld v 11 0) }
  | none => s

/-- SQ_TAIL_DOORBELL (R470, R476): a write of `size` bytes at an offset of BAR2. -/
def execSqTailDoorbell (off : BitVec 12) (size : Nat) (v : W32) (s : State) : Res := s.host fun s => s.doorbell off.toNat size v
/-- CQ_HEAD_DOORBELL (R470, R476). -/
def execCqHeadDoorbell (off : BitVec 12) (size : Nat) (v : W32) (s : State) : Res := s.host fun s => s.doorbell off.toNat size v
/-- HIF_SQ_CFG_WRITE (R473). -/
def execHifSqCfgWrite (q : BitVec 6) (v : W32) (s : State) : Res := s.host fun s => { s with hif := s.hif.writeSqCfg s.ctl.hciValid q.toNat v }
/-- HIF_CQ_CFG_WRITE (R473, R484). -/
def execHifCqCfgWrite (q : BitVec 6) (v : W32) (s : State) : Res :=
  s.host fun s => { s with hif := s.hif.writeCqCfg s.ctl.hciValid s.hci q.toNat v }
/-- HIF_BAR4_BASE_WRITE (R471). -/
def execHifBar4BaseWrite (hi : Bool) (v : W32) (s : State) : Res := s.host fun s => { s with hif := s.hif.writeBar4Base hi v }
/-- MSIX_COALESCE_TIMEOUT (R485). -/
def execMsixCoalesceTimeout (q : BitVec 6) (s : State) : Res := s.host fun s => { s with hif := s.hif.coalesceTimeout s.hci q.toNat }
/-- What the endpoint sends back. -/
def State.send (s : State) (o : HostOut) : State := { s with hif := { s.hif with out := s.hif.out ++ [o] } }

/-- What a request meets (R486, R513, R565): from READY to FAULT the endpoint acts on it; in a warm reset and in BOOT it answers `o` and does nothing; in
OFF, ALARM and a cold reset this command is not answered. -/
def State.answered (s : State) (o : HostOut) (f : State → State) : Res :=
  .next (if s.ctl.state.live then f s
    else if s.ctl.state = .boot || (s.ctl.state = .reset && !s.rst.cold) then s.send o else s)

/-- D3HOT_TRANSITION (R467, R565), a configuration request: in D3hot the device keeps its state and fetches no entry. In ALARM too configuration
requests are answered (R513). -/
def execD3hotTransition (on : Bool) (s : State) : Res :=
  if s.ctl.state = .alarm then .next { s with hif := { s.hif with d3hot := on } }
  else s.answered .retry fun s => { s with hif := { s.hif with d3hot := on } }

/-- BAR4_READ (R455, R464, R465, R471, R565): within the present size of the BAR. A poisoned completion is reported through AER. -/
def execBar4Read (off len : Nat) (ecc : Ecc) (s : State) : Res :=
  s.answered .unsupported fun s =>
    if s.hif.barBytes 4 ≤ off then s else
    let a := s.hif.bar4Base.toNat + off
    if bar4Ok s.img s.memr.ddr a len then
      let ks := spanPlaces a len
      let r := s.eccRead ks ecc 3 false false (addrIn (addrSpace a)) true
      if r.2 then
        let t := (r.1.send (.poisoned (freeBytes s.free len))).send .aerReport
        { t with free := s.free + len, hif := { t.hif with aerPoisoned := true } }
      else r.1.send (.readData (s.mem.read ks))
    else ({ s with memr := s.memr.rejectBar4 }).send (.readData (List.replicate len (0 : Byte)))

/-- BAR4_WRITE (R455, R464, R465, R471). -/
def execBar4Write (off : Nat) (bytes : List Byte) (ecc : Ecc) (s : State) : Res :=
  s.host fun s =>
    if s.hif.barBytes 4 ≤ off then s else
    let a := s.hif.bar4Base.toNat + off
    if bar4Ok s.img s.memr.ddr a bytes.length then
      let cs := (spanPlaces a bytes.length).zip bytes
      let r := s.eccRead (mergedPlaces cs) ecc 3 false false (addrIn (addrSpace a))
      { r.1 with mem := r.1.mem.write cs }
    else { s with memr := s.memr.rejectBar4 }

/-- A queue is held back by a SAMPLE of its own that is not yet accepted (R477). -/
def State.heldBack (s : State) (q : Nat) : Bool :=
  (s.inp.queue.any fun e => e.sq == q) || s.hif.fetched.any fun e => e.sq == q && e.opcode == 0x20

/-- FAULT was entered from BOOT, by a check that failed or a chip-level fault (R502, R539). -/
def State.bootFailed (s : State) : Bool := s.sec.bootErr != 0 || (s.ctl.state == .fault && s.ctl.prev == .boot)

/-- SQ_ENTRY_FETCH (R474, R476, R477, R479, R539): the next entry is fetched; an opcode that is unknown or above the version, or a reserved byte that
is set, completes at once. -/
def execSqEntryFetch (busErr : Bool) (s : State) : Res :=
  s.host fun s =>
    if s.hif.d3hot || s.bootFailed then s else
    match s.hif.nextQueue s.heldBack with
    | none => s
    | some q =>
      let k := s.hif.sq.at q
      let rr := Sparse.set 63 s.hif.rr k.prio.toNat q
      if busErr || s.hif.busErr (k.base.toNat + 128 * k.head.toNat) 128 then { s with hif := { s.hif with rr := rr, sq := s.hif.sq.put q { k with fetchErr := true, stopped := true } } }
      else
        let bs := s.hif.entryBytes q
        let e := { parseEntry q bs with order := s.hif.received }
        let h := { s.hif with rr := rr, received := s.hif.received + 1
                              sq := s.hif.sq.put q { k with head := BitVec.ofNat 12 ((k.head.toNat + 1) % qEntries k.size) } }
        match opcodeVersion e.opcode.toNat with
        | none => ({ s with hif := h }).complete e .invalidOpcode
        | some v =>
          if s.hci < v then ({ s with hif := h }).complete e .version
          else if !entryReservedOk bs then ({ s with hif := h }).complete e .invalidField
          else { s with hif := { h with fetched := h.fetched ++ [e] } }

end Sys2Proof.Machine
end

