-- ==== Sys2Proof/Machine/HostCmdExec.lean ====
section
/-! DEFINITION. Host commands: control of the device, image load, identity and anti-rollback (R78 to R83, R477 to R483, R487 to R490, R503, R505). -/

namespace Sys2Proof.Machine

/-- Entries of a submission queue received before a number that have not completed (R474): fetched, waiting in a part of the device, or held. -/
def State.earlier (s : State) (sq n : Nat) : Bool :=
  let is := fun (e : Entry) => e.sq == sq && decide (e.order < n)
  s.hif.fetched.any is || s.inp.queue.any is || s.inp.ctx.any (fun p => is p.2.e) || s.hif.mailRecv.any is
    || s.sync.objs.any (fun p => p.2.hostWaiters.any is) || s.lnk.inject.any (fun p => p.2.any fun x => x.entry.any is)
    || s.gx.snapshots.any (fun x => x.any is)
    || (!s.sec.blow.isEmpty && (match s.sec.blowFor with | .rollback e _ => is e | .prov => false))
    || s.hif.cq.any fun p => p.2.held.any fun c => !c.event && c.sqid.toNat == sq && decide (c.order < n)

/-- A serial command is in progress after its start (R478). -/
def State.serialBusy (s : State) : Bool :=
  s.gx.snapshots.any Option.isSome || (!s.sec.blow.isEmpty && (match s.sec.blowFor with | .rollback _ _ => true | .prov => false))

/-- Whether the turn of fetched entry i has come (R474, R478); SAMPLE and MAIL_RECV are taken in order of receipt (R392, R477, R483). -/
def State.turn (s : State) (i : Nat) (e : Entry) : Bool :=
  let first := fun (p : Nat → Bool) => (s.hif.fetched.take i).all fun x => !p x.opcode.toNat
  (!isSerial e.opcode.toNat || (!s.serialBusy && first isSerial))
    && (!(e.opcode == 0x20 || e.opcode == 0x51) || first (· == e.opcode.toNat))
    && (!e.fence || !s.earlier e.sq e.order)

/-- A host command: its opcode, the states in which it is legal (R488), and its effect. Rejected by state, it is counted and logged (R489). -/
def State.command (s : State) (i op : Nat) (legal : Dev → Bool) (k : Entry → State) : State :=
  match s.hif.fetched[i]? with
  | none => s
  | some e =>
    if e.opcode.toNat ≠ op || !s.ctl.state.live || !s.turn i e then s
    else if legal s.ctl.state then k e
    else ({ s with ctl := s.ctl.reject e.opcode e.sq }).finish i .stateReject s.ctl.state.code

/-- NOP (R479). -/
def execNop (i : Nat) (s : State) : Res := .next (s.command i 0x00 Dev.live fun _ => s.finish i .success)

/-- The identity page (R479). The spec gives no form for the entries at 64: their bytes are free values of the DDR5 capacities accepted by channel
(log entry 34). -/
def State.identity (s : State) : List Byte :=
  (List.range 16).map Config.partNumber ++ (List.range 16).map Config.serial ++ bytesOf 4 s.sec.fwVersion.toNat ++ bytesOf 4 0x01030100
    ++ bytesOf 4 Config.siRevision.toNat ++ bytesOf 2 Config.fmtMinorKnown.toNat ++ List.replicate 18 (0 : Byte)
    ++ (List.range 64).map (Config.identityDdr ((List.range 8).map fun i => if (s.memr.ddr.at i).present then (s.memr.ddr.at i).size.toNat else 0))
    ++ (List.range 32).flatMap (fun t => bytesOf 2 (if t < 14 then (Config.sectionVersion (t + 1)).toNat else 0)) ++ List.replicate 3904 (0 : Byte)

/-- IDENTIFY (R479): to a 4 KiB page of host memory. -/
def execIdentify (i : Nat) (s : State) : Res :=
  .next (s.command i 0x01 Dev.live fun e =>
    if e.p0.toNat % 4096 ≠ 0 || s.hif.busErr e.p0.toNat 4096 then s.finish i .address
    else ({ s with hif := s.hif.writeMem e.p0.toNat s.identity }).finish i .success)

/-! Loading an image -/

/-- What validation is judged against (R50 to R52, R75, R348, R448). -/
def State.checkEnv (s : State) : CheckEnv :=
  { ownerHash := if keyState s.sec.held ownerKeyLo = .complete then fuseBytes s.sec.held ownerKeyLo 32 else []
    arb := fun i => arbValue s.sec.held i, fwVersion := s.sec.fwVersion.toNat, ddr := s.memr.ddr
    slotNeed := fun im => slotNeed im s.gx.me s.gx.group (if s.gx.pendingEpoch then s.gx.nextGroup else s.gx.group) }

/-- Bytes of the image a load names: as many as its header says, within the length given (R45, R79, R479). DESIGN CHOICE: an image_length
shorter than the header copies that much only, and absent bytes read 0 (log entry 127). -/
def State.loadBytes (s : State) (e : Entry) : List Byte :=
  let rd := fun n => if e.p0 = 0 then s.hif.readMem e.p1.toNat n else s.mem.read (spanPlaces e.p1.toNat n)
  let n := min e.p2.toNat (2 ^ 28)
  rd (min n (fieldAt (rd (min n 16)) 0xC 4))

/-- The copy in the staging store (R79, R446). -/
def State.stage (s : State) (bs : List Byte) : Mem :=
  s.mem.write (bs.zipIdx.map fun (b, o) => (storePlace (!s.memr.activeStore) o, b))

/-- A rejected load (R76, R77, R80): registers and the signature failure count change. -/
def State.rejected (s : State) (r : Rej) : State :=
  { s with ctl := { s.ctl with lastReject := BitVec.ofNat 8 r.code, rejected := true, detailSection := BitVec.ofNat 8 r.secIdx
                               detailRecord := BitVec.ofNat 24 r.record, sigFail := if r.isSig then satAdd s.ctl.sigFail 1 else s.ctl.sigFail } }

/-- A load that fails during application (R83): READY without an image, and a LOAD record with the step of R80, the only record of the fault (log
entry 122). What the steps before it changed stands only so far: slots, edges, traffic, contexts and Timer entries are cleared, fences lifted;
sync objects, updates and exchange stay, and no preload is written (log entry 123). -/
def State.loadFault (s : State) (step : Nat) : State :=
  let ld := s.inp.imageLoad
  let s := { s with img := none, memr := { s.memr with activeStore := !s.memr.activeStore }, inp := ld.1, adm := { s.adm.clear with backlog := none }
                    tmr := { s.tmr.disarm with issue := [] }, sites := []
                    fab := { s.fab.cleared with spoon := [], fenced := [] } }
  ((s.samplesDone ld.2).report { cls := .load, sev := .contained, detail := step }).goto .ready

/-- IMAGE_LOAD (R75 to R83, R454, R455, R479, R500, R511). `readErr`: a bus error on the image's data; `fault`: the step of R80, 3 to 8, in which a fault is
detected, else 0. While a sweep runs it is rejected by state (R304). -/
def execImageLoad (i : Nat) (readErr : Bool) (fault : Nat) (ecc : Ecc) (s : State) : Res :=
  .next (s.command i 0x10 (fun d => (d == .ready || d == .loaded) && s.upd.sweep.isNone) fun e =>
    if 1 < e.p0.toNat then s.finish i .invalidField
    else if keyState s.sec.held ownerKeyLo ≠ .complete then s.finish i .precondition
    else if readErr || (e.p0 = 0 && s.hif.busErr e.p1.toNat (s.loadBytes e).length) || (e.p0 = 1 && !spanMapped s.memr.ddr e.p1.toNat (max (min 16 e.p2.toNat) (s.loadBytes e).length)) then s.finish i .address
    else
      let r := if e.p0 = 1 then
          s.eccRead (spanPlaces e.p1.toNat (s.loadBytes e).length) ecc 0 false false (addrIn (addrSpace e.p1.toNat))
        else (s, false)
      let s := r.1
      if r.2 then s.finish i .fault else
      let bs := s.loadBytes e
      let v := validate bs e.p2.toNat s.checkEnv
      let s := { s with mem := s.stage bs }
      let s := if passedAuth v.2 then { s with ctl := { s.ctl with sigFail := 0 } } else s
      match v.2 with
      | some r =>
        let s := s.rejected r
        if 8 < s.ctl.sigFail.toNat && r.isSig then s.alarm .sigfail else s.finish i .imageReject r.code (BitVec.ofNat 64 (r.secIdx % 256 * 2 ^ 24 + r.record % 2 ^ 24))
      | none =>
        if 3 ≤ fault && fault ≤ 8 then (s.finish i .fault).loadFault fault
        else
          let s := { s with gx := { s.gx with slotNeed := BitVec.ofNat 26 (s.checkEnv.slotNeed v.1) } }
          let e' := e
          ((({ s with hif := { s.hif with fetched := s.hif.fetched.eraseIdx i } }).applyImage v.1).complete e' .success).goto .loaded)

/-! Device states -/

/-- ARM (R479, R487): PRECONDITION while cluster time is not valid. -/
def execArm (i : Nat) (s : State) : Res :=
  .next (s.command i 0x11 (· == .loaded) fun _ =>
    if s.tmr.timeValid then (s.finish i .success).goto .armed else s.finish i .precondition)

/-- DISARM (R487). -/
def execDisarm (i : Nat) (s : State) : Res := .next (s.command i 0x12 (· == .armed) fun _ => (s.finish i .success).goto .loaded)

/-- RUN (R479, R487, R534): p0 steps, or until DRAIN. -/
def execRun (i : Nat) (s : State) : Res :=
  .next (s.command i 0x13 (· == .armed) fun e =>
    if 2 ^ 32 ≤ e.p0.toNat then s.finish i .invalidField
    else if s.flt.needFlush then s.finish i .precondition
    else (({ s with ctl := { s.ctl with stepsLeft := if e.p0 = 0 then unbounded else e.p0.setWidth 32, untilDrain := e.p0 = 0 } }).finish i .success).goto .stepping)

/-- DRAIN (R487, R488): with no step running the draining ends at once (log entry 35). -/
def execDrain (i : Nat) (s : State) : Res :=
  .next (s.command i 0x14 Dev.running fun _ =>
    let t := s.finish i .success
    if s.ctl.state = .stepping then (if s.adm.running then t.goto .draining else (t.goto .draining).goto .armed) else t)

/-- STEP_ABORT (R479, R521, R531, R543): a HOST_ABORT record, and the abandonment. -/
def execStepAbort (i : Nat) (s : State) : Res :=
  .next (s.command i 0x15 Dev.running fun _ =>
    ((s.report { cls := .hostAbort, sev := .contained, abandon := true }).abandon).finish i .success)

/-- What a FAULT that left a step unfinished gives up (R538): the step's work, and no update already written. -/
def State.dropStep (s : State) (im : Image) : State :=
  let s := { s with gx := { s.gx with sets := s.gx.sets.map fun (x : SlotSet) => if x.stage == Stage.updating then { x with stage := Stage.gone } else x } }
  s.abandonDone im

/-- FAULT_CLEAR (R115, R487, R488, R536, R537): in FAULT it waits for an abandonment under way. -/
def execFaultClear (i : Nat) (s : State) : Res :=
  .next (if s.flt.abandoning && s.ctl.state = .fault then s else s.command i 0x18 (· == .fault) fun _ =>
    let s := match s.img, s.adm.running with
      | some im, true => s.dropStep im
      | some _, false => s
      | none, true => s.abandonLost
      | none, false => { s with fab := s.fab.cleared }
    let s := ({ s with fab := { s.fab with hold := false }, flt := { s.flt with chipAfter := false, deferred := false } }).noteAll
    (s.finish i .success).goto (if s.img.isSome then .loaded else .ready))

/-- Whether the completion queue of an entry has no room, so that its completion would be held (R476). -/
def State.cqBlocked (s : State) (e : Entry) : Bool :=
  let k := s.hif.cq.at (s.hif.sq.at e.sq).cq.toNat
  k.enable && (k.full || !k.held.isEmpty)

/-- WARM_RESET (R479, R490, R564): its completion is written, then RESET is entered; while its queue is full both wait. -/
def execWarmReset (i : Nat) (s : State) : Res :=
  .next (s.command i 0x19 Dev.live fun e => if s.cqBlocked e then s else (s.finish i .success).enterReset Source.warmCmd.mask)

/-- SAMPLE (R391, R404): the descriptor waits for a context. -/
def execSample (i : Nat) (s : State) : Res :=
  .next (s.command i 0x20 (fun d => d == .loaded || d == .armed || d.running) fun e =>
    if !sampleFieldsOk e.data then s.finish i .invalidField
    else { s with hif := { s.hif with fetched := s.hif.fetched.eraseIdx i }, inp := { s.inp with queue := s.inp.queue ++ [e] } })

/-! Sync objects -/

/-- States in which SYNC is legal (R488); READ also in FAULT. -/
def syncLegal (read : Bool) (d : Dev) : Bool := d == .loaded || d == .armed || d.running || (read && d == .fault)

/-- SYNC with operation `k` (R482): reserved bits and p1's range, then the operation on the object. -/
def State.syncCmd (s : State) (i k : Nat) (ok : Nat → Bool) (f : Entry → Nat → State) : State :=
  match s.hif.fetched[i]? with
  | none => s
  | some e =>
    if fld64 e.p0 7 0 ≠ k then s
    else s.command i 0x30 (syncLegal (k == 5)) fun e =>
      if e.p0.toNat ≠ k + fld64 e.p0 29 16 * 2 ^ 16 || !ok e.p1.toNat then s.finish i .invalidField
      else f e (fld64 e.p0 29 16)

/-- A host SIGNAL, TAKE or SET of an object is carried out at its home; on a stash or trigger object while a step runs it leaves the step's stash,
restores and results undefined (R270). -/
def State.hostSync (s : State) (o : Nat) (p : SyncOp) : State :=
  let hit := s.stepping && ((s.img.map fun im => im.stashObj o).getD false)
  ({ s with adm := { s.adm with disturbed := s.adm.disturbed || hit } }).syncOp o p

/-- SYNC_SIGNAL (R116, R482): SIGNAL(0) has no effect. An unlisted operation code has no row of its own and is refused here with INVALID_FIELD. -/
def execSyncSignal (i : Nat) (parity : Bool) (s : State) : Res :=
  .next (match s.hif.fetched[i]? with
    | none => s
    | some e =>
      let k := fld64 e.p0 7 0
      if e.opcode = 0x30 && (k = 0 || 7 ≤ k || (k = 6 && s.hci < 1)) then
        s.command i 0x30 (syncLegal false) fun _ => s.finish i (if k = 6 then .version else .invalidField)
      else s.syncCmd i 1 (fun v => decide (v < 2 ^ 32)) fun e o =>
        (if e.p1 = 0 then s else (s.parityAt o parity).hostSync o (.signal (e.p1.setWidth 32))).finish i .success)

/-- SYNC_TAKE (R482): completes when granted; beyond 256 outstanding, at once with LIMIT. -/
def execSyncTake (i : Nat) (parity : Bool) (s : State) : Res :=
  .next (s.syncCmd i 2 (fun v => decide (1 ≤ v) && decide (v < 2 ^ 32)) fun e o =>
    if 256 ≤ s.sync.hostTakes then s.finish i .limit
    else (({ s with hif := { s.hif with fetched := s.hif.fetched.eraseIdx i } }).parityAt o parity).hostSync o (.take (.host e) (e.p1.setWidth 32)))

/-- SYNC_SET (R482). -/
def execSyncSet (i : Nat) (parity : Bool) (s : State) : Res :=
  .next (s.syncCmd i 3 (fun v => decide (v < 2 ^ 32)) fun e o => ((s.parityAt o parity).hostSync o (.set (e.p1.setWidth 32))).finish i .success)

/-- SYNC_ARM (R482). -/
def execSyncArm (i : Nat) (parity : Bool) (s : State) : Res :=
  .next (s.syncCmd i 4 (fun v => decide (v < 2 ^ 16)) fun e o => ((s.parityAt o parity).syncOp o (.arm (e.p1.setWidth 16))).finish i .success)

/-- SYNC_READ (R482): count in result0, event count in result1; the home acts after it as after every operation (R117). -/
def execSyncRead (i : Nat) (parity : Bool) (s : State) : Res :=
  .next (s.syncCmd i 5 (fun _ => true) fun _ o =>
    let s := s.parityAt o parity
    let x := s.sync.objs.at o
    (s.syncOp o .read).finish i .success 0 (x.count.setWidth 64) (x.events.setWidth 64))

/-- SYNC_NOTIFY (R482). -/
def execSyncNotify (i : Nat) (parity : Bool) (s : State) : Res :=
  .next (if s.hci < 1 then s else s.syncCmd i 6 (fun v => decide (v < 2)) fun e o =>
    let s := s.parityAt o parity
    ({ s with sync := { s.sync with objs := s.sync.objs.mod o fun x => { x with notify := e.p1 = 1 } } }).finish i .success)

/-! Mail -/

/-- MAIL_SEND (R483): one packet of the bulk class; it completes when its head leaves a port. Bits of p0 outside its fields are reserved. -/
def execMailSend (i : Nat) (s : State) : Res :=
  .next (s.command i 0x50 Dev.live fun e =>
    let node := fld64 e.p0 11 0
    let msg := fld64 e.p0 23 16
    let plen := fld64 e.p0 47 32
    if e.p0.toNat ≠ node + msg * 2 ^ 16 + plen * 2 ^ 32 || msg < 0x80 || plenLimit 2 < plen then s.finish i .invalidField
    else if s.hif.busErr e.p1.toNat plen then s.finish i .address
    else
      { s with hif := { s.hif with fetched := s.hif.fetched.eraseIdx i }
               lnk := s.lnk.injectPkt { dst := node, src := s.lnk.nodeId.toNat, msg := msg, vc := 6, payload := s.hif.readMem e.p1.toNat plen } (some e) })

/-- MAIL_RECV (R483): the oldest held packet goes to the buffer at once, else the buffer waits. -/
def execMailRecv (i : Nat) (s : State) : Res :=
  .next (s.command i 0x51 Dev.live fun e =>
    let h := { s.hif with fetched := s.hif.fetched.eraseIdx i }
    match h.mailHeld with
    | [] => { s with hif := { h with mailRecv := h.mailRecv ++ [e] } }
    | m :: r =>
      if h.busErr e.p1.toNat m.bytes.length then s.finish i .address else
      { s with hif := { h with mailRecv := [e], mailHeld := [] }.mailbox s.hci m |> fun x =>
          { x with mailHeld := r, mailTold := x.mailTold && !r.isEmpty } })

/-! Identity -/

/-- Seed of the identity key (R504): the ASCII bytes of HSF2-ID, then ID_SEED. -/
def Sec.identitySeed (x : Sec) : List Byte := shake256 48 (([0x48, 0x53, 0x46, 0x32, 0x2D, 0x49, 0x44] : List Byte) ++ fuseBytes x.fuses idSeedLo 32)

/-- Identity public key block, and the signature block over a message (R50, R505). -/
def Sec.keyBlock (x : Sec) : List Byte := (List.range 1793).map (Config.falconPublic x.identitySeed) ++ List.replicate 63 (0 : Byte)
def Sec.signBlock (x : Sec) (draw : Nat) (msg : List Byte) : List Byte :=
  let g := Config.falconSign x.identitySeed (shake256 64 msg) draw
  bytesOf 2 g.length ++ g ++ List.replicate (1342 - g.length) (0 : Byte)

/-- The attestation report without its signature block (R505). -/
def State.attestation (s : State) (e : Entry) : List Byte :=
  let zeros := fun n => List.replicate n (0 : Byte)
  let im := s.img
  bytesOf 4 0x54535441 ++ bytesOf 2 1
    ++ bytesOf 2 ((if im.isSome then 1 else 0) + (if debugDis s.sec.held then 2 else 0) + 4 * alarmCode s.sec.held)
    ++ bytesOf 8 e.p2.toNat ++ bytesOf 8 e.p3.toNat ++ (List.range 16).map Config.serial ++ bytesOf 4 s.sec.fwVersion.toNat
    ++ bytesOf 4 s.sec.fwSvn.toNat ++ bytesOf 1 s.ctl.state.code ++ zeros 3 ++ bytesOf 2 s.gx.me ++ zeros 2 ++ bytesOf 4 s.gx.epoch.toNat
    ++ bytesOf 4 s.tmr.step.toNat ++ bytesOf 8 s.now
    ++ (match im with | some x => x.modelId.take 16 ++ zeros (16 - x.modelId.length) | none => zeros 16)
    ++ bytesOf 8 (match im with | some x => x.buildId | none => 0)
    ++ s.sec.fwDigest ++ (match im with | some x => x.bodyDigest | none => zeros 64)
    ++ (if keyState s.sec.held ownerKeyLo = .complete then fuseBytes s.sec.held ownerKeyLo 32 else zeros 32)
    ++ fuseBytes s.sec.held fwKeyLo 32 ++ (List.range 64).flatMap (fun i => bytesOf 1 (arbValue s.sec.held i)) ++ zeros 32 ++ s.sec.keyBlock

/-- ATTEST (R505). -/
def execAttest (i : Nat) (s : State) : Res :=
  .next (s.command i 0x60 Dev.live fun e =>
    if e.p0.toNat % 64 ≠ 0 || s.hif.busErr e.p0.toNat 3584 then s.finish i .address
    else if e.p1.toNat < 3584 then s.finish i .tooSmall 0 3584
    else if !s.sec.idKeyReady then s.finish i .precondition
    else
      let r := s.attestation e
      ({ s with hif := s.hif.writeMem e.p0.toNat (r ++ s.sec.signBlock s.free r), free := s.free + 1 }).finish i .success)

/-- ROLLBACK_ADVANCE (R503): the blows follow one by one (FUSE_BIT_BLOW), and its completion with the last. -/
def execRollbackAdvance (i : Nat) (s : State) : Res :=
  .next (if !s.sec.blow.isEmpty then s else s.command i 0x62 (fun d => d == .ready || d == .loaded) fun e =>
    let c := fld64 e.p0 5 0
    let v := e.p1.toNat
    let now := arbValue s.sec.fuses c
    if e.p0.toNat ≠ c || 32 < v then s.finish i .invalidField
    else if c = 0 && s.sec.fwSvn.toNat < v then s.finish i .precondition
    else if (match s.img with | some im => im.rollbackIndex == c && decide (im.rollbackValue < v) | none => false) then s.finish i .precondition
    else if v ≤ now then s.finish i .success 0 (BitVec.ofNat 64 now)
    else { s with hif := { s.hif with fetched := s.hif.fetched.eraseIdx i }
                  sec := { s.sec with blow := (List.range (v - now)).map fun k => arbLo c + now + k, blowFor := .rollback e c } })

end Sys2Proof.Machine
end

