-- ==== Sys2Proof/Machine/SealExec.lean ====
section
/-! DEFINITION. Exports, imports and snapshots, sealed under the export key (R300 to R303, R479, R506, R507). -/

namespace Sys2Proof.Machine

/-- Blocks of the shards this device owns, ascending (R341, R479). -/
def State.ownedBlocks (s : State) (im : Image) : List Nat :=
  let g := s.gx.group
  ((im.shards g.n).filter fun x => (g.owner x.1 x.2).id == s.gx.me).flatMap fun x => im.shardBlocks g.n x.1 x.2

/-- The reads of an export of blocks (R301, R454, R455): the state after them, and whether one meets the poison mark, old or new. -/
def State.exportRead (s : State) (im : Image) (contents : Nat) (bs : List Nat) (e : Ecc) : State × Bool :=
  let ks := bs.flatMap (im.exportPlaces s.upd contents)
  let s := s.engineRead im ks e
  (s, !s.mem.poison.isEmpty && ks.any s.mem.poisoned)

/-- The export of a list of blocks (R300, R301): its step is the last one whose update it includes. -/
def State.exportPlain (s : State) (im : Image) (contents : Nat) (bs : List Nat) : List Byte :=
  exportHeader im contents (s.tmr.step - 1).toNat s.gx.epoch.toNat s.gx.me bs.length ++ bs.flatMap fun g => im.exportBlock s.mem s.upd contents g

/-- Size of a sealed file (R506). -/
def sealedSize (plain : Nat) : Nat := 128 + roundUp (plain + 16) 64 + 3200

/-- Sealing is refused without keys, or once the counter has reached 2^32 (R506). -/
def Sec.canSeal (x : Sec) : Bool := x.expKeyValid && x.idKeyReady && decide (x.expCnt.toNat < 2 ^ 32)

/-- A sealed file (R506); five free values are drawn for its random bytes and its signing number. -/
def State.sealFile (s : State) (snapshot : Bool) (plain : List Byte) : List Byte :=
  let zeros := fun n => List.replicate n (0 : Byte)
  let iv := bytesOf 8 s.sec.expCnt.toNat ++ freeBytes s.free 4
  let head := bytesOf 4 0x4C414553 ++ bytesOf 2 1 ++ bytesOf 2 (if snapshot then 1 else 0) ++ (shake256 32 s.sec.expKey).take 8 ++ iv ++ zeros 4
    ++ bytesOf 8 plain.length ++ (List.range 16).map Config.serial ++ bytesOf 4 s.sec.fwVersion.toNat ++ zeros 68
  let g := gcmSeal s.sec.expKey iv head plain
  let body := head ++ g.1 ++ g.2 ++ zeros (roundUp (plain.length + 16) 64 - (plain.length + 16)) ++ s.sec.keyBlock
  body ++ s.sec.signBlock (s.free + 4) body

/-- The file written, its counter advanced (R506). -/
def State.writeSealed (s : State) (addr : Nat) (snapshot : Bool) (plain : List Byte) : State :=
  { s with hif := s.hif.writeMem addr (s.sealFile snapshot plain), sec := { s.sec with expCnt := s.sec.expCnt + 1 }, free := s.free + 5 }

/-- EXPORT (R300, R301, R454, R455, R479, R480, R506). -/
def execExportCmd (i : Nat) (ecc : Ecc) (s : State) : Res :=
  .next (s.command i 0x40 (fun d => d == .loaded || d == .armed || d == .fault) fun e =>
    match s.img with
    | none => s.finish i .precondition
    | some im =>
      let lo := fld64 e.p3 31 0
      let hi := fld64 e.p3 63 32
      let all := e.p3 = BitVec.allOnes 64
      if 16 ≤ e.p0.toNat || (!all && (hi < lo || im.upd.tensors.length < hi)) then s.finish i .invalidField
      else if !s.sec.canSeal then s.finish i .precondition
      else
        let bs := (s.ownedBlocks im).filter fun g => all || (decide (lo ≤ (im.block g).ti) && decide ((im.block g).ti < hi))
        let r := s.exportRead im e.p0.toNat bs ecc
        let s := r.1
        if r.2 then s.finish i .fault
        else
          let plain := s.exportPlain im e.p0.toNat bs
          let n := sealedSize plain.length
          if e.p2.toNat < n then s.finish i .tooSmall 0 (BitVec.ofNat 64 n)
          else if s.hif.busErr e.p1.toNat n then s.finish i .address
          else (s.writeSealed e.p1.toNat false plain).finish i .success 0 (BitVec.ofNat 64 n))

/-- What is wrong with one record (R302): 1 tensor, 2 dimensions, 3 rule, 4 copy format, 0 nothing. -/
def Image.recordFault (im : Image) (bs : List Byte) : Nat :=
  let f := fieldAt bs
  let t := im.tensor (f 0 4)
  if im.upd.tensors.length ≤ f 0 4 then 1
  else if t.pr ≤ f 4 4 || t.pc ≤ f 8 4 || f 12 1 + 1 != t.validRows (f 4 4) || f 13 1 + 1 != t.validCols (f 8 4) then 2
  else if f 14 1 != (im.upd.groups.getD t.group default).rule then 3
  else if f 15 1 != t.copyFmt then 4 else 2

/-- The records of an export, or the detail of its rejection (R302, R479): 5 a block named twice. -/
def Image.readRecords (im : Image) (contents : Nat) : Nat → List Byte → List BlockRec → Nat ⊕ List BlockRec
  | 0, _, acc => .inr acc.reverse
  | n + 1, bs, acc =>
    match im.parseBlock contents bs with
    | none => .inl (im.recordFault bs)
    | some r => if acc.any fun x => x.block == r.block then .inl 5 else im.readRecords contents n (bs.drop r.bytes) (r :: acc)

/-- The export inside a sealed file (R507), when magic and version, key check, signature and tag pass, in that order. -/
def State.openSealed (s : State) (bs : List Byte) : Option (List Byte) :=
  let n := fieldAt bs 32 8
  let size := sealedSize n
  let signed := bs.take (size - 1344)
  let key := (bs.drop (size - 3200)).take 1793
  let sig := bs.drop (size - 1344)
  if fieldAt bs 0 4 = 0x4C414553 && fieldAt bs 4 2 = 1 && s.sec.expKeyValid && (bs.drop 8).take 8 = (shake256 32 s.sec.expKey).take 8
      && size ≤ bs.length && Config.falconVerify key (shake256 64 signed) ((sig.drop 2).take (fieldAt sig 0 2)) then
    gcmOpen s.sec.expKey ((bs.drop 16).take 12) (bs.take 128) ((bs.drop 128).take n) ((bs.drop (128 + n)).take 16)
  else none

/-- IMPORT (R302, R455, R479, R480, R507). -/
def execImportCmd (i : Nat) (ecc : Ecc) (s : State) : Res :=
  .next (s.command i 0x41 (fun d => d == .loaded || d == .armed) fun e =>
    match s.img with
    | none => s.finish i .precondition
    | some im =>
      let n := min e.p2.toNat (sealedSize (fieldAt (s.hif.readMem e.p1.toNat 40) 32 8))
      if s.hif.busErr e.p1.toNat n then s.finish i .address else
      match s.openSealed (s.hif.readMem e.p1.toNat n) with
      | none => s.finish i .importReject 6
      | some plain =>
        let contents := fieldAt plain 6 2
        if fieldAt plain 0 4 ≠ 0x44485346 || fieldAt plain 4 2 ≠ 1 then s.finish i .importReject 6
        else match im.readRecords contents (fieldAt plain 20 4) (plain.drop 128) [] with
          | .inl d => s.finish i .importReject d
          | .inr rs =>
            let s := s.mergeRead im (rs.flatMap fun r => im.partPlaces s.upd contents r.block) ecc
            let mu := rs.foldl (im.importBlock contents) (s.mem, s.upd)
            ({ s with mem := mu.1, upd := mu.2
                      gx := { s.gx with unseeded := s.gx.unseeded.filter fun g => !rs.any fun r => r.block == g } }).finish i .success)

/-- SNAPSHOT (R303, R488): the request waits for the capture at this boundary or the next. -/
def execSnapshot (i : Nat) (s : State) : Res :=
  .next (s.command i 0x42 (fun d => d == .loaded || d == .armed || d.running) fun e =>
    { s with hif := { s.hif with fetched := s.hif.fetched.eraseIdx i }, gx := { s.gx with snapshots := s.gx.snapshots ++ [some e] } })

/-- Whether the device stands at a step boundary (R303). -/
def State.atBoundary (s : State) : Bool := !s.adm.running && !s.flt.abandoning && s.upd.sweep.isNone && s.img.isSome

/-- One capture (R303, R479, R480, R484, R506): to HIF_SNAP_ADDR; a Timer capture tells by its event. -/
def State.capture (s : State) (im : Image) (e : Option Entry) (ecc : Ecc) : State :=
  let bs := s.ownedBlocks im
  let done := fun (s : State) (code : Code) (detail : Nat) (n : Nat) => match e with
    | some x => s.complete x code 0 (BitVec.ofNat 64 n)
    | none => s.event 0x07 detail (if code = .success then BitVec.ofNat 64 n else 0) 0 0
  if !s.sec.canSeal then done s .precondition 0x0C 0 else
  let r := s.exportRead im 15 bs ecc
  let s := r.1
  if r.2 then done s .fault 0x09 0
  else
    let plain := s.exportPlain im 15 bs
    let n := sealedSize plain.length
    if s.hif.snapLen.toNat < n then done s .tooSmall 0x06 n
    else if s.hif.busErr s.hif.snapAddr.toNat n then done s .address 0x05 0
    else done (s.writeSealed s.hif.snapAddr.toNat true plain) .success 0 n

/-- SNAPSHOT_CAPTURE (R303, R360): after the comparison round of this boundary. -/
def execSnapshotCapture (ecc : Ecc) (s : State) : Res :=
  .next (match s.img, s.gx.snapshots with
    | some im, e :: r =>
      if s.atBoundary && s.gx.rounded && s.gx.round.isNone && (s.ctl.state == .loaded || s.ctl.state == .armed || s.ctl.state.running) then
        ({ s with gx := { s.gx with snapshots := r } }).capture im e ecc
      else s
    | _, _ => s)

end Sys2Proof.Machine
end

