-- ==== Sys2Proof/Machine/StepExec.lean ====
section
/-! DEFINITION. A step: its start and end, admissions, the stash, gradient accumulation, the slow tier's sweep (R38 to R41, R242 to R272, R283 to R298, R342, R376). -/

namespace Sys2Proof.Machine

/-! Admission -/

/-- Slots of a placement that are still to be loaded: empty, and marked by no other placement (R247). -/
def State.toLoad (s : State) (im : Image) (p : Nat) : List (Nat × Nat × Nat) :=
  im.descs.zipIdx.filterMap fun (d, i) =>
    if d.placement = p && !im.swapped d.tile d.slot && (s.fab.slot d.tile d.slot).st == .empty then some (d.tile, d.slot, i) else none

/-- Whether such a slot is still loading. -/
def State.loadingFor (s : State) (im : Image) (p : Nat) : Bool :=
  im.descs.any fun d => d.placement == p && !im.swapped d.tile d.slot && (s.fab.slot d.tile d.slot).st == .loading

/-- A failed plan (R266): registers, the STASH fault, no further admission. -/
def State.stashFault (s : State) (p need free dropped : Nat) : State :=
  ({ s with adm := (s.adm.notePlan false dropped).exhaust p s.tmr.step.toNat need free }).report
    { cls := .stash, sev := .contained, detail := (BitVec.ofNat 26 need).toNat, abandon := true }

/-- The input-ready signal of an admission (R245, R439). -/
def State.inputReady (s : State) (im : Image) : State :=
  match im.prof.bind fun x => x.profiles.head? with
  | some p => if p.readyObj = none16 then s else s.syncOp p.readyObj (.signal (BitVec.ofNat 32 p.readyCount))
  | none => s

/-- MB_ADMISSION (R244 to R247, R259, R266, R268, R285): the placement is chosen and the stash planned; the slots of a placement met for the
first time begin to load; the admission itself comes once those loads are over and the parking pages are reserved. -/
def execMbAdmission (s : State) : Res :=
  .next (match s.img, s.inp.ready with
    | some im, (mb, counts) :: rest =>
      let m := s.adm.frames.length
      if !s.stepping || s.adm.refused || s.flt.abandoning || im.upd.mbCount ≤ m then s else
      let c := s.adm.choose im counts
      let p := c.1
      let s := if c.2 then { s with ctl := { s.ctl with placeInvalid := true } } else s
      match s.adm.plan im p mb with
      | .wait => s
      | .fail need free dropped => s.stashFault p need free dropped.length
      | .ok fr =>
        let s := { s with adm := s.adm.notePlan (decide (0 < fr.ddr)) fr.dropped.length }
        match s.toLoad im p with
        | x :: xs =>
          (x :: xs).foldl (fun s y => s.loadSlot im y.1 y.2.1 y.2.2) s
        | [] =>
          if s.loadingFor im p then s else
          match s.upd.reserve im m p with
          | none => { s with adm := { s.adm with parkWait := true } }
          | some u =>
            ({ s with upd := u, adm := s.adm.admitMb fr, ctl := { s.ctl with curPlacement := BitVec.ofNat 4 p }
                      inp := { s.inp with ready := rest, nextMb := s.inp.nextMb + 1 } }).inputReady im |>.noteAll
    | _, _ => s)

/-! The stash -/

/-- STASH_SIGNAL_PASS (R257, R264): the layer's signals of its next frame pass as one. -/
def execStashSignalPass (layer : Nat) (s : State) : Res :=
  .next (match s.img with
    | none => s
    | some im =>
      match s.adm.passable im s.fab layer with
      | none => s
      | some _ =>
        ({ s with adm := { s.adm with passed := s.adm.passed.mod layer (· + 1) } }).syncOp layer (.signal (BitVec.ofNat 32 (im.layerSignal layer))))

/-- FRAME_RELEASE (R258, R431): the frame's pages and the row sets of its micro-batch are free. -/
def execFrameRelease (mb : Nat) (s : State) : Res :=
  .next (match s.img, s.adm.frames.find? fun f => f.mb == mb with
    | some im, some fr =>
      if !s.adm.releasable im s.fab fr then s else
      { s with adm := { s.adm with frames := s.adm.frames.map fun (f : Frame) => if f.mb == mb then { f with released := true } else f }
               inp := s.inp.freeMb fr.inMb }
    | _, _ => s)

/-- The restore served next (R264); after a host operation on a stash or trigger object whether the first queued one is served is a FREE
VALUE (R270, log entry 55). -/
def State.nextRestore (s : State) (im : Image) : Option (Nat × Nat) :=
  if s.adm.disturbed then (if s.adm.area.isNone && odd s.freeW then s.adm.restores.head? else none) else s.adm.servable im s.fab

/-- RESTORE_SERVE (R264): the first queued restore gets the restore area and its chain sources their triggers. -/
def execRestoreServe (s : State) : Res :=
  .next (match s.img with
    | none => s
    | some im =>
      let next := s.nextRestore im
      let s := if s.adm.disturbed then s.drawn else s
      match next with
      | none => s
      | some (m, l) =>
        ((im.chainSources l).foldl (fun (s : State) i =>
            let d := im.descAt i
            s.syncOp d.waitObj (.signal (BitVec.ofNat 32 (d.waitCount * d.firesPerMb))))
          { s with adm := { s.adm with area := some (m, l), restores := s.adm.restores.drop 1 } }).noteAll)

/-! Gradient accumulation -/

/-- Elements of one block are accumulated for micro-batch m (R284, R285). -/
def State.accumulate (s : State) (im : Image) (m g : Nat) (xs : List ((Nat × Nat) × F32)) : State :=
  let r := im.accumulate s.mem s.tmr.step.toNat s.gx.rndMember m g xs
  ({ s with mem := r.1, upd := (s.upd.advance im g xs.length).releasePages }).countUnbound r.2

/-- Elements for a later micro-batch are parked in the block's reserved page (R285). -/
def State.park (s : State) (im : Image) (m g : Nat) (xs : List ((Nat × Nat) × F32)) : State :=
  let page := match s.upd.reserved.find? fun r => r.1 == m && r.2.1 == g with | some r => r.2.2 | none => 0
  let mem := xs.foldl (fun mem x => im.regWrite mem im.upd.parkRegion (page * 65536 + 4 * BlockAt.pos x.1) (bytesOf 4 x.2.toNat)) s.mem
  { s with mem := mem, upd := { s.upd with parked := s.upd.parked ++ [{ block := g, mb := m, page := page, elems := xs.map (·.1) }] } }

/-- Accumulators that elements of a block for micro-batch m read: none for the first (R284). -/
def Image.accPlaces (im : Image) (m g : Nat) (xs : List (Nat × Nat)) : List Nat :=
  let b := im.block g
  if m = 0 then [] else xs.flatMap fun rc => im.regPlaces b.t.grad (b.t.gradOff + 2 * b.index rc) 2

/-- Places of elements in a parking page (R285). -/
def Image.parkPlaces (im : Image) (page : Nat) (xs : List (Nat × Nat)) : List Nat :=
  xs.flatMap fun rc => im.regPlaces im.upd.parkRegion (page * 65536 + 4 * BlockAt.pos rc) 4

/-- ACCUMULATING_STORE (R191, R283 to R285, R454, R455, R517): contribution i reaches the accumulator. -/
def execAccumulatingStore (i : Nat) (ecc : Ecc) (s : State) : Res :=
  .next (match s.img, s.upd.contribs[i]? with
    | some im, some c =>
      let turn := fun (g : Nat) => s.upd.expect.at g == c.mb
      let r := s.stepRead im ((c.items.filter fun x => turn x.1).flatMap fun x => im.accPlaces c.mb x.1 [x.2.1]) ecc
      if r.2 then r.1 else
      let s := r.1
      let s := { s with upd := { s.upd with contribs := s.upd.contribs.eraseIdx i } }
      (c.items.map (·.1)).eraseDups.foldl (fun s g =>
        let xs := (c.items.filter fun x => x.1 == g).map (·.2)
        if s.upd.expect.at g = c.mb then s.accumulate im c.mb g xs else s.park im c.mb g xs) s
    | _, _ => s)

/-- PARKED_ACCUMULATE (R285, R454, R455, R517): a parked contribution whose turn has come. -/
def execParkedAccumulate (block : Nat) (ecc : Ecc) (s : State) : Res :=
  .next (match s.img, indexOf (fun (p : Parked) => p.block == block && p.mb == s.upd.expect.at block) s.upd.parked with
    | some im, some i =>
      let p := s.upd.parked.getD i default
      let r := s.stepRead im (im.parkPlaces p.page p.elems ++ im.accPlaces p.mb block p.elems) ecc
      if r.2 then r.1 else
      let s := r.1
      let xs := p.elems.map fun rc =>
        (rc, (BitVec.ofNat 32 (numOf (im.regRead s.mem im.upd.parkRegion (p.page * 65536 + 4 * BlockAt.pos rc) 4)) : F32))
      let t := ({ s with upd := { s.upd with parked := s.upd.parked.eraseIdx i } }).accumulate im p.mb block xs
      let dst := (im.accPlaces 1 block p.elems).flatMap fun k => [k, k]
      { t with mem := t.mem.carry s.mem (im.parkPlaces p.page p.elems) dst }
    | _, _ => s)

/-! The start of a step -/

/-- A comparison round is due at this boundary (R360). -/
def State.roundDue (s : State) : Bool :=
  !s.gx.rounded && (s.gx.compareDue || s.gx.compareNow || s.tmr.latchDigest || !s.gx.snapshots.isEmpty)

/-- What holds the next step's start besides the backlog object (R303, R343, R360, R376). -/
def State.startHeld (s : State) : Bool :=
  s.roundDue || s.gx.round.isSome || !s.gx.snapshots.isEmpty || !s.gx.awaited.isEmpty

/-- The check of a staged roster (R342): this device is in it, it meets R338, and its slots fit. -/
def Gx.epochOk (im : Image) (x : Gx) : Bool :=
  let next := groupOf x.rosterNext x.levels x.me
  (x.rosterNext.at x.me).valid && next.legal && decide (Sys2Proof.Machine.slotNeed im x.me x.group next * 65536 ≤ im.regionSize im.bkt.slotRegion)

/-- The staged epoch is checked and takes effect, or fails (R342); blocks no longer owned are no longer unseeded (R343, R363). Of the references and stale marks those stay whose shard keeps its blocks. -/
def Gx.takeEpoch (im : Image) (x : Gx) (step : Nat) : Gx :=
  if !x.pendingEpoch || x.epochStep.toNat ≠ step then x
  else if x.epochOk im then
    let same := fun (k : Nat × Nat) => im.shardBlocks x.group.n k.1 k.2 == im.shardBlocks (groupOf x.rosterNext x.levels x.me).n k.1 k.2
    { x with roster := x.rosterNext, two := x.levels, epoch := x.epochNext, pendingEpoch := false
             refs := x.refs.filter fun r => same r.1, stale := x.stale.filter same
             unseeded := x.unseeded.filter fun g =>
               ((im.shardOf x.nextGroup.n g).map fun k => (x.nextGroup.owner k.1 k.2).id) == some x.me }
  else { x with epochErr := true, pendingEpoch := false }

/-- Blocks the sweep of step s applies (R294, R343): owned, seeded, of its phase, with an entry. -/
def State.sweepBlocks (s : State) (im : Image) (step : Nat) : List Nat :=
  let g := s.gx.group
  let owned := ((im.shards g.n).filter fun x => (g.owner x.1 x.2).id == s.gx.me).flatMap fun x => im.shardBlocks g.n x.1 x.2
  owned.filter fun b => im.isSlow b && b % im.upd.k == step % im.upd.k && (s.upd.queue.at b).isSome && !s.gx.unseeded.contains b

/-- Every hold is released: the step starts; a fence ordered while none ran is lifted (R526, log entry 140) (R246, R259, R286, R289, R294, R342, R376, R487). -/
def State.beginStep (s : State) (im : Image) : State :=
  let step := s.tmr.step.toNat
  let s := s.setGx (({ s.gx with rounded := false, compareDue := false }).takeEpoch im step)
  let sweep := im.hasSlow && 0 < im.upd.k
  let counted := !s.ctl.untilDrain && s.ctl.stepsLeft != 0
  let last := counted && s.ctl.stepsLeft == 1
  let s := { s with
    adm := { s.adm.clear with running := true, depth := s.adm.cfgDepth.toNat, lossExp := s.upd.lossInt, lrScale := s.upd.lrScale, backlog := none
                              force := if s.ctl.placeForce then some s.ctl.placement.toNat else none }
    tmr := s.tmr.startStep, fab := { s.fab with qStart := s.fab.q, fenced := [] }
    upd := { s.upd.restart with sweep := if sweep then some (step, s.sweepBlocks im step) else s.upd.sweep }
    ctl := { s.ctl with stepsLeft := s.ctl.stepsLeft - (if counted then 1 else 0) } }
  if last then s.goto .draining else s

/-- STEP_START (R41, R295, R376): the TAKE on the backlog object is issued once, and the step starts when it has been granted. -/
def execStepStart (s : State) : Res :=
  .next (match s.img with
    | none => s
    | some im =>
      if s.ctl.state ≠ .stepping || s.adm.running || s.flt.abandoning || s.startHeld then s
      else if im.upd.backlogObj = none16 then s.beginStep im
      else
        let s := if s.adm.backlog.isNone then
            ({ s with adm := { s.adm with backlog := some false } }).syncOp im.upd.backlogObj (.take .backlog 1)
          else s
        if s.adm.backlog = some true then s.beginStep im else s)

/-- A swept block is updated from its entry, which is emptied, and its panel returned (R294, R356), in a shard that gets a return. -/
def State.sweepBlock (s : State) (im : Image) (g : Nat) : State :=
  let e := (s.upd.queue.at g).getD default
  let gu := im.queueRead s.mem g
  let empty := fun (s : State) => { s with upd := { s.upd with queue := s.upd.queue.put g none } }
  if (im.shardOf s.gx.group.n g).any fun k => s.gx.isSilent im k.1 k.2 then empty (s.updateQuiet im g e.last gu)
  else
    let s := empty (s.updateOne im g e.last gu)
    s.sendPanel im g ((s.upd.gen.at g).next.getD 0)

/-- SWEEP_COMPLETE (R294, R295, R299, R523): the sweep's blocks are updated and returned and the backlog object signalled. A block whose memory fails,
or on which the engines differ, stops: it keeps its entry and leaves its shard without a return; the other blocks are unaffected. `differ` numbers
blocks of the sweep. -/
def execSweepComplete (differ : List Nat) (ecc : Ecc) (s : State) : Res :=
  .next (match s.img, s.upd.sweep with
    | some im, some (_, bs) =>
      let r := s.updateRead im bs bs ecc
      let bad := (bs.zipIdx.filter fun p => differ.contains p.2 && !r.2.contains p.1).map (·.1)
      let s := bad.foldl (fun s g => s.updateFault im g) r.1
      let stop := r.2 ++ bad
      let s := (bs.filter fun g => !stop.contains g).foldl (fun s g => s.sweepBlock im g) { s with gx := s.gx.silence im stop }
      let s := { s with upd := { s.upd with sweep := none } }
      if im.upd.backlogObj = none16 then s else s.syncOp im.upd.backlogObj (.signal 1)
    | _, _ => s)

/-! The end of a step -/

/-- Whether a step may end (R39, R161, R258, R294): no firing is left whose counts are still to reach its sites, everything admitted has retired and is released, every owned shard is updated or skipped, every
shard held has been returned or is stale, and the sweep is over. A step that FAULT left as it stands does not end (R487, R538). -/
def State.stepOver (s : State) (im : Image) : Bool :=
  let g := s.gx.group
  let step := s.tmr.step.toNat
  let owned := (im.slotKeys g s.gx.me).filter fun k => !k.asPod
  s.stepping && !s.flt.abandoning && s.adm.retired && s.adm.frames.length == im.upd.mbCount && s.adm.frames.all (·.released)
    && s.fab.firings.isEmpty && s.upd.sweep.isNone && s.upd.contribs.isEmpty && s.upd.parked.isEmpty
    && owned.all (fun k => [Stage.done, Stage.gone].contains (s.gx.getSet step k).stage)
    && (im.shards g.n).all fun x => match s.gx.ret? step x.1 x.2 with | some r => r.complete || r.stale | none => false

/-- Micro-batches of a step by placement (R272). -/
def placeCounts (fs : List Frame) : Sparse W32 :=
  (List.range 8).foldl (fun t p => t.put p (BitVec.ofNat 32 (fs.filter fun f => f.placement == p).length)) []

/-- The complete returns of a step become its shards' references, and what the step used leaves (R348, R349, R355, R358); later steps' slots and
returns are kept. -/
def Gx.endStep (x : Gx) (step : Nat) : Gx :=
  let done := x.rets.filter fun r => r.step == step && r.complete
  let x := done.foldl (fun x r => x.setRef (r.bucket, r.shard)
    { epoch := x.epoch.toNat, step := step, digest := (r.fin.getD default).2 }) { x with stale := x.stale.filter fun p => !done.any fun r => (r.bucket, r.shard) == p }
  { x with base := none, cut := none, norm := none, parts := [], normSent := false, sentBuckets := [], silent := [], rounded := false
           sets := x.sets.filter fun y => y.step == stepAbove step, rets := x.rets.filter fun y => y.step == stepAbove step
           compareDue := x.k != 0 && (step + 1) % x.k.toNat == 0 }

/-- Blocks that change owner when the staged epoch takes effect at `step`: block, old owner, new owner (R343). None of a roster that fails R338; a
device that leaves the roster sends its blocks all the same. -/
def Gx.moves (im : Image) (x : Gx) (step : Nat) : List (Nat × Member × Member) :=
  let old := x.group
  let new := x.stagedGroup
  if !x.pendingEpoch || x.epochStep.toNat ≠ step || new.n = 0 || !new.legal then [] else
  (List.range im.blockCount).filterMap fun g =>
    match im.shardOf old.n g, im.shardOf new.n g with
    | some a, some b =>
      let o := old.owner a.1 a.2
      let n := new.owner b.1 b.2
      if o.id = n.id then none else some (g, o, n)
    | _, _ => none

/-- Blocks this device sends at the end of the step before a new epoch, with the new owner (R343). -/
def State.leaving (s : State) (im : Image) : List (Nat × Member) :=
  if s.gx.solo then [] else
  (s.gx.moves im s.tmr.step.toNat).filterMap fun m => if m.2.1.id = s.gx.me then some (m.1, m.2.2) else none

/-- Places that their records are read from. -/
def State.leavingPlaces (s : State) (im : Image) : List Nat := (s.leaving im).flatMap fun m => im.exportPlaces s.upd 11 m.1

/-- State transfers at the end of the step before a new epoch (R343): blocks that leave are sent, blocks that come are awaited. A group of one owns
every block and sends no exchange message (R339), so nothing leaves or comes (log entry 63). A block whose data is poisoned is not sent, since its
record has no place for the mark (log entry 66). -/
def State.sendState (s : State) (im : Image) : State :=
  if s.gx.solo then s else
  let mine := s.leaving im
  let come := if s.gx.epochOk im then (s.gx.moves im s.tmr.step.toNat).filter fun m => m.2.2.id == s.gx.me && m.2.1.id != s.gx.me else []
  let s := (mine.filter fun m => s.mem.poison.isEmpty || !(im.exportPlaces s.upd 11 m.1).any s.mem.poisoned).foldl (fun s m =>
    let bs := im.exportBlock s.mem s.upd 11 m.1
    let at0 := (im.shardOf s.gx.stagedGroup.n m.1).getD (0, 0)
    (pieces s.gx.dataMax bs).foldl (fun s p => s.sendX m.2 { s.xmsg xState at0.1 at0.2 m.1 p.1 0 p.2 with epoch := s.gx.epochNext.toNat }) s) s
  let s := (mine.map (·.2)).eraseDups.foldl (fun s k =>
    s.sendX k { s.xmsg xXferEnd 0xFFFF 0xFFFF (mine.filter fun m => m.2.id == k.id).length 0 0 [] with epoch := s.gx.epochNext.toNat }) s
  { s with gx := { s.gx with awaited := come.map (·.1), xfer := [] } }

/-- No fence outlives the step (R526); a fault kept for its end is acted on (R304): the step stands, and what an abandonment reapplies reloads the
stopped slots (log entry 140). -/
def State.recoverStep (s : State) (im : Image) (deferred : Bool) : State :=
  let s := if deferred then s.reapply im s.fab else s
  { s with fab := { s.fab with fenced := [] }, flt := { s.flt with fences := [] } }

/-- Blocks whose shard this member holds as returned in the step (R358, R359). -/
def State.returned (s : State) (im : Image) (g : Nat) : Bool :=
  (im.shardOf s.gx.group.n g).any fun k => (s.gx.ret? s.tmr.step.toNat k.1 k.2).any (·.complete)

/-- STEP_END (R39, R160, R176, R297, R303, R304, R343, R358, R359, R364, R454, R455, R487). The errors are those its reads meet: of the staged panels
it writes, then of the blocks it sends. -/
def execStepEnd (ecc : Ecc) (s : State) : Res :=
  .next (match s.img with
    | none => s
    | some im =>
      if !s.stepOver im then s else
      let step := s.tmr.step.toNat
      let mem := im.writeReports s.mem step false s.sites
      let deferred := s.flt.deferred
      let s := { s with
        mem := mem, sites := s.sites.stepEnd im.num.sites, upd := { (s.upd.stepEnd (s.returned im)).restart with step := s.tmr.step }
        ctl := { s.ctl with placeMb := placeCounts s.adm.frames }
        adm := s.adm.clear, gx := s.gx.endStep step, fab := { s.fab with readyLog := [], slots := Sparse.mapVals (fun _ x => { x with done := 0 }) s.fab.slots }
        flt := { s.flt with deferred := false } }
      let s := s.setTmr s.tmr.endStep
      let snap := s.tmr.latchSnap
      let s := { s with gx := { s.gx with snapshots := s.gx.snapshots ++ if snap then [none] else [] }, tmr := { s.tmr with latchSnap := false } }
      let s := s.engineRead im (s.stagedReady.flatMap im.stagedPlaces ++ s.leavingPlaces im) ecc
      let s := ((s.writeStaged im).settleReturns).sendState im
      let s := s.recoverStep im deferred
      if deferred || s.ctl.state = .draining then s.goto .armed else s)

end Sys2Proof.Machine
end

