-- ==== Sys2Proof/Machine/ExchangeExec.lean ====
section
/-! DEFINITION. Contributions, deadlines, reductions, the norm, updates and returns, comparison rounds, state transfers, epochs (R286 to R293, R337 to R362). -/

namespace Sys2Proof.Machine

/-! Messages at the door -/

/-- Message i of the inbox, when it is of a type. -/
def Gx.mail (x : Gx) (i type : Nat) : Option XMsg := (x.inbox[i]?).filter fun m => m.msg == type
def State.drop (s : State) (i : Nat) : State := { s with gx := { s.gx with inbox := s.gx.inbox.eraseIdx i } }
/-- A message fails the tag check: discarded and counted (R346). -/
def State.bad (s : State) : State := { s with gx := s.gx.bad }
/-- Message i of the inbox, when it is of a type, is handled: without an image no bucket or shard exists under its epoch, and a group of one takes no
message from another device, so it is then discarded and counted (R339, R346). -/
def State.onMail (s : State) (i type : Nat) (f : Image → XMsg → State) : State :=
  match s.gx.mail i type, s.img with
  | none, _ => s
  | some m, some im => if m.remote && s.gx.solo then (s.drop i).bad else f im m
  | some _, none => (s.drop i).bad

/-- Epoch, step and sender of a message that names no shard (R346). -/
def Gx.headOk (x : Gx) (cur : Nat) (m : XMsg) : Bool :=
  (m.step == cur || m.step == stepAbove cur) && m.epoch == x.epochFor cur m.step && ((x.groupFor cur m.step).rank? m.member).isSome

/-! Contributions -/

/-- Pieces of a list of n-byte elements as messages carry them: first element, count, bytes (R347). -/
def elemPieces (max' size : Nat) (bs : List Byte) : List (Nat × Nat × List Byte) :=
  (pieces (max' / size * size) bs).map fun p => (p.1 / size, p.2.length / size, p.2)

/-- The contribution to shard i of a bucket (R337, R347): to its owner, or in two levels to its pod owner. -/
def State.contribute (s : State) (im : Image) (b i : Nat) : State :=
  let g := s.gx.group
  let to' := if g.two then g.podOwner b i (g.podOf s.gx.me) else g.owner b i
  let bs := (im.shardBlocks g.n b i).flatMap fun k => ((im.block k).readG16 im s.mem).flatMap (bytesOf 2)
  (elemPieces s.gx.dataMax 2 bs).foldl (fun s p => s.sendX to' (s.xmsg xContrib b i p.1 p.2.1 0 p.2.2)) s

/-- Shards of a bucket in the order in which the member of rank r sends them (R341, R347): by their owners' ranks from r + 1 on, its own last. -/
def sendOrder (n r b : Nat) : List Nat := (List.range n).map fun j => (r + 1 + j + n - b % n) % n

/-- BUCKET_COMPLETE (R285, R337, R347, R454, R455, R517): once every block of the bucket holds the last micro-batch. -/
def execBucketComplete (b : Nat) (ecc : Ecc) (s : State) : Res :=
  .next (match s.img, s.img.bind fun im => im.bkt.buckets[b]? with
    | some im, some k =>
      let full := (List.range k.blockCount).all fun x => s.upd.expect.at (k.firstBlock + x) == im.upd.mbCount
      if !s.stepping || s.flt.abandoning || s.gx.sentBuckets.contains b || !full then s
      else
        let r := s.stepRead im ((List.range k.blockCount).flatMap fun x => (im.block (k.firstBlock + x)).gradPlaces im) ecc
        if r.2 then r.1 else
        let s := r.1
        let n := s.gx.group.n
        let r := (s.gx.group.rank? s.gx.me).getD 0
        (sendOrder n r b).foldl (fun s i => if (im.shardBlocks n b i).isEmpty then s else s.contribute im b i)
          { s with gx := { s.gx with sentBuckets := s.gx.sentBuckets ++ [b] } }
    | _, _ => s)

/-- Elements land in slot q of a set, which closes when it is full (R348, R350); the errors are those of units written in part (R455). -/
def State.land (s : State) (im : Image) (g : ExGroup) (y : SlotSet) (q off : Nat) (bs : List Byte) (slot : SlotIn) (ecc : Ecc) : State :=
  let at0 := im.slotOff g s.gx.me y.step y.key q
  let y := { y with slots := y.slots.put q slot }
  let s := s.mergeRead im ((im.regPlaces im.bkt.slotRegion (at0 + off) bs.length).zip bs) ecc
  let s := { s with mem := im.regWrite s.mem im.bkt.slotRegion (at0 + off) bs, gx := s.gx.putSet y }
  if (List.range (g.slotCount s.gx.me y.key)).all fun k => slotFull im g y k then s.setGx (s.gx.close im g y) else s

/-- Data for a closed set is late (R350). -/
def State.lateFrom (s : State) (m : Nat) : State :=
  s.setGx { s.gx with late := true, mLate := s.gx.mLate.mod m fun c => satAdd c 1 }

/-- CONTRIB (R339, R346, R348, R350, R455). -/
def execContrib (i : Nat) (ecc : Ecc) (s : State) : Res :=
  .next (s.onMail i xContrib fun im m =>
    let s := s.drop i
    let cur := s.tmr.step.toNat
    let g := s.gx.groupFor cur m.step
    let key : SlotKey := { bucket := m.bucket, shard := m.shard, asPod := g.two }
    let mine := (if g.two then g.podOwner m.bucket m.shard (g.podOf s.gx.me) else g.owner m.bucket m.shard).id == s.gx.me
    let q := if g.two then indexOf (fun (x : Member) => x.id == m.member) (g.podMembers (g.podOf s.gx.me)) else g.rank? m.member
    let y := s.gx.getSet m.step key
    match q with
    | none => s.bad
    | some q =>
      let slot := y.slots.at q
      let r := (m.a, m.a + m.b)
      if !s.gx.tagOk im cur m || !mine || m.b = 0 || im.shardElems g.n m.bucket m.shard < r.2 || m.data.length ≠ 2 * m.b
        || slot.got.any (rangesMeet r) then s.bad
      else if y.closed then s.lateFrom m.member
      else s.land im g y q (2 * m.a) m.data { slot with got := slot.got ++ [r] } ecc)

/-- POD_SUM (R345, R346, R353, R455): a pod's sum lands in its slot, mask and count with it. -/
def execPodSum (i : Nat) (ecc : Ecc) (s : State) : Res :=
  .next (s.onMail i xPodSum fun im m =>
    let s := s.drop i
    let cur := s.tmr.step.toNat
    let g := s.gx.groupFor cur m.step
    let key : SlotKey := { bucket := m.bucket, shard := m.shard, asPod := false }
    let pod := g.podOf m.member
    let y := s.gx.getSet m.step key
    match indexOf (fun (p : Nat) => p == pod) g.pods with
    | none => s.bad
    | some q =>
      let slot := y.slots.at q
      let r := (m.a, m.a + m.b)
      let head := if m.a = 0 then 8 else 0
      if !s.gx.tagOk im cur m || !g.two || (g.owner m.bucket m.shard).id ≠ s.gx.me || (g.podOwner m.bucket m.shard pod).id ≠ m.member
        || m.b = 0 || im.shardElems g.n m.bucket m.shard < r.2 || m.data.length ≠ head + 4 * m.b || slot.got.any (rangesMeet r) then s.bad
      else if y.closed then s.lateFrom m.member
      else
        let off := if m.a = 0 then 0 else 8 + 4 * m.a
        s.land im g y q off m.data
          { got := slot.got ++ [r], count := m.c, mask := if m.a = 0 then some (fieldAt m.data 0 8) else slot.mask } ecc)

/-! Deadlines -/

/-- The sets of a bucket this device holds, as owner or as pod owner, close (R350, R353). -/
def State.closeBucket (s : State) (im : Image) (b : Nat) (asPod : Bool) : State :=
  let g := s.gx.group
  let keys := (im.slotKeys g s.gx.me).filter fun k => k.bucket == b && k.asPod == asPod
  keys.foldl (fun s k => s.setGx (s.gx.close im g (s.gx.getSet s.tmr.step.toNat k))) s

/-- BUCKET_DEADLINE_PASS (R349, R350). -/
def execBucketDeadlinePass (b : Nat) (s : State) : Res :=
  .next (match s.img with
    | some im => if s.adm.running && passedBy (s.gx.bucketDeadline im b) s.now then s.closeBucket im b false else s
    | none => s)

/-- POD_DEADLINE_PASS (R349, R353). -/
def execPodDeadlinePass (b : Nat) (s : State) : Res :=
  .next (match s.img with
    | some im => if s.adm.running && s.gx.group.two && passedBy (s.gx.podDeadline im b) s.now then s.closeBucket im b true else s
    | none => s)

/-- One shard's return has not come by its deadline (R355, R358, R359). -/
def State.staleShard (s : State) (im : Image) (b i : Nat) : State :=
  let step := s.tmr.step.toNat
  let r := s.gx.getRet step b i
  let y := s.gx.getSet step { bucket := b, shard := i, asPod := false }
  let g := s.gx.group
  let s := if (g.owner b i).id = s.gx.me && !([Stage.updating, .done, .gone].contains y.stage) && im.needsNorm && s.gx.norm.isNone then
      ({ s with gx := s.gx.setStage step b i .gone }).noteStep im
    else s
  if r.complete || r.stale then s else
  let blocks := im.shardBlocks g.n b i
  let x := s.gx.putRet { r with stale := true }
  s.setGx { x with staged := x.staged.filter fun p => !(p.step == step && blocks.contains p.block), staleFlag := true, staleCnt := satAdd x.staleCnt 1
                   stale := if x.stale.contains (b, i) then x.stale else x.stale ++ [(b, i)] }

/-- RETURN_DEADLINE_PASS (R349, R359). -/
def execReturnDeadlinePass (b : Nat) (s : State) : Res :=
  .next (match s.img with
    | some im =>
      if s.adm.running && passedBy (s.gx.returnDeadline im b) s.now then
        ((im.shards s.gx.group.n).filter fun x => x.1 == b).foldl (fun s x => s.staleShard im x.1 x.2) s
      else s
    | none => s)

/-! Reduction -/

/-- SHARD_REDUCE_START (R351): the next closed shard leaves the staging area. -/
def execShardReduceStart (s : State) : Res :=
  .next (match s.img with
    | none => s
    | some im =>
      if !s.stepping || s.flt.abandoning then s else
      match s.gx.nextAdd im s.tmr.step.toNat with
      | some y => { s with gx := s.gx.putSet { y with stage := .adding } }
      | none => s)

/-- A mismatch of the duplicated engines on a shard (R521, R523): masked by the repeat, or the shard gets no update. -/
def State.updateReport (s : State) (im : Image) (b i : Nat) (sev : Sev) : State :=
  let g := (im.shardBlocks s.gx.group.n b i).headD 0
  s.report { cls := .update, sev := sev, unit := (im.block g).ti, sub := b, detail := g }

/-- The collector of the norm (R355). -/
def ExGroup.collector (g : ExGroup) : Member := g.member 0

/-- Whether a set has something to update (R287, R288, R354). -/
def State.updates (s : State) (im : Image) (y : SlotSet) : Bool :=
  y.n ≠ 0 && (!im.needsNorm || match s.gx.norm with | some v => !(im.upd.nfSkip && !f32IsFinite v) | none => false)

/-- A reduced shard whose update may begin does so (R287, R292, R304). -/
def State.beginUpdate (s : State) (im : Image) (y : SlotSet) : State :=
  if s.updates im y then { s with gx := s.gx.putSet { y with stage := .updating }, adm := { s.adm with updStarted := true } }
  else { s with gx := s.gx.putSet y }

/-- A pod owner sends its sum to the shard's owner (R353). -/
def State.sendPodSum (s : State) (b i : Nat) (sum : List F32) (n mask : Nat) : State :=
  let to' := s.gx.group.owner b i
  let first := (s.gx.dataMax - 8) / 4
  let words := fun (l : List F32) => l.flatMap fun x => bytesOf 4 x.toNat
  let s := s.sendX to' (s.xmsg xPodSum b i 0 (min first sum.length) n (bytesOf 8 mask ++ words (sum.take first)))
  (elemPieces s.gx.dataMax 4 (words (sum.drop first))).foldl (fun s p => s.sendX to' (s.xmsg xPodSum b i (first + p.1) p.2.1 n p.2.2)) s

/-- SHARD_REDUCE_DONE (R286, R287, R352 to R355, R454, R455, R517, R523): with `pod` the sum of a pod owner. -/
def execShardReduceDone (b shard : Nat) (pod : Bool) (dup : Dup) (ecc : Ecc) (s : State) : Res :=
  .next (match s.img with
    | none => s
    | some im =>
      let step := s.tmr.step.toNat
      let g := s.gx.group
      let y := s.gx.getSet step { bucket := b, shard := shard, asPod := pod }
      if !s.stepping || s.flt.abandoning || y.stage ≠ (if pod then .waiting else .adding) then s else
      let read := s.stepRead im (im.sumPlaces g s.gx.me y) ecc
      if read.2 then read.1 else
      let s := read.1
      let s := if dup = .masked then s.updateReport im b shard .corrected else s
      if dup = .differ then ({ s.updateReport im b shard .contained with gx := s.gx.putSet { y with stage := .gone } }).noteStep im
      else
        let r := reduceSet im g s.gx.me s.mem y
        if pod then
          let mask := sumN (y.present.zipIdx.map fun p => if p.1 then 2 ^ p.2 else 0)
          let s := { s with gx := s.gx.putSet { y with stage := .done } }
          if r.2 = 0 then s else s.sendPodSum b shard r.1 r.2 mask
        else
          let y := { y with stage := .reduced, sum := r.1, n := r.2 }
          let s := if !im.needsNorm then s else
            let part := if r.2 = 0 then 0 else normPart (stepGrad r.1 r.2 s.adm.lossExp)
            s.sendX g.collector (s.xmsg xNormPart b shard part.toNat 0 0 [])
          s.beginUpdate im y)

/-! The norm -/

/-- The collector sends N over the parts present (R193, R355). -/
def State.sendNorm (s : State) (im : Image) : State :=
  let all := im.shards s.gx.group.n
  let parts := all.filterMap fun k => (s.gx.parts.find? fun p => p.1 == k).map (·.2)
  let n := match parts with | [] => (0 : F32) | p :: r => r.foldl f32Add p
  let s := { s with gx := { s.gx with normSent := true } }
  s.toAll (s.xmsg xNorm 0xFFFF 0xFFFF n.toNat parts.length (all.length - parts.length) [])

/-- NORM_PART (R346, R355): a part for the step above waits in the inbox. -/
def execNormPart (i : Nat) (s : State) : Res :=
  .next (s.onMail i xNormPart fun im m =>
    let cur := s.tmr.step.toNat
    let g := s.gx.groupFor cur m.step
    if !s.gx.tagOk im cur m || (g.owner m.bucket m.shard).id ≠ m.member || g.collector.id ≠ s.gx.me
      || (m.step == cur && s.gx.parts.any fun p => p.1 == (m.bucket, m.shard)) then (s.drop i).bad
    else if m.step ≠ cur then s
    else
      let s := s.drop i
      let s := { s with gx := { s.gx with parts := s.gx.parts ++ [((m.bucket, m.shard), BitVec.ofNat 32 m.a)] } }
      if !s.gx.normSent && (im.shards g.n).all (fun k => s.gx.parts.any fun p => p.1 == k) then s.sendNorm im else s)

/-- NORM_DEADLINE_PASS (R349, R355): parts still missing are omitted. -/
def execNormDeadlinePass (s : State) : Res :=
  .next (match s.img with
    | some im =>
      if s.adm.running && im.needsNorm && s.gx.group.collector.id == s.gx.me && !s.gx.normSent && passedBy (s.gx.normDeadline im) s.now then s.sendNorm im
      else s
    | none => s)

/-- What N leaves in the GX_UPD registers (R287, R288, R305). -/
def Upd.noteNorm (im : Image) (u : Upd) (v : F32) : Upd :=
  let cf := clipFactor im v
  let skip := im.upd.nfSkip && !f32IsFinite v
  let clipped := f32Lt cf f32One
  { u with norm2 := v, clip := cf, nfSkipped := u.nfSkipped || skip, skipCnt := if skip then satAdd u.skipCnt 1 else u.skipCnt
           clipped := u.clipped || clipped, clipCnt := if clipped then satAdd u.clipCnt 1 else u.clipCnt }

/-- NORM (R287, R288, R355, R536): the shards that waited for N begin their updates, while the step runs. -/
def execNorm (i : Nat) (s : State) : Res :=
  .next (s.onMail i xNorm fun im m =>
    let cur := s.tmr.step.toNat
    if !s.gx.headOk cur m || (s.gx.groupFor cur m.step).collector.id ≠ m.member || !im.needsNorm || (m.step == cur && s.gx.norm.isSome) then (s.drop i).bad
    else if m.step ≠ cur then s
    else
      let s := s.drop i
      let v : F32 := BitVec.ofNat 32 m.a
      let s := { s with gx := { s.gx with norm := some v }, upd := s.upd.noteNorm im v }
      if s.flt.abandoning || !s.ctl.state.running then s else
      (s.gx.sets.filter fun y => y.step == cur && !y.key.asPod && y.stage == .reduced).foldl (fun s y => s.beginUpdate im y) s)

/-! Update and return -/

/-- The applied gradients of a reduced shard (R286, R287). -/
def State.applied (s : State) (im : Image) (y : SlotSet) : List F32 :=
  let gs := stepGrad y.sum y.n s.adm.lossExp
  match s.gx.norm with
  | some v => if im.needsNorm then gs.map fun x => f32Mul x (clipFactor im v) else gs
  | none => gs

/-- A slow-tier block's applied gradients join its queue entry (R293); a sum with poisoned data is poisoned (R455). -/
def State.queueAdd (s : State) (im : Image) (g step : Nat) (gu : List F32) : State :=
  match s.upd.queue.at g with
  | some e =>
    let old := im.queueRead s.mem g
    let ks := im.queuePlaces g
    { s with mem := (im.queueWrite s.mem g (List.zipWith f32Add old gu)).carry s.mem ks ks, upd := { s.upd with queue := s.upd.queue.put g (some { e with last := step }) } }
  | none =>
    { s with mem := im.queueWrite s.mem g gu, upd := { s.upd with queue := s.upd.queue.put g (some { first := step, last := step }) } }

/-- Blocks of a shard with their slices of an element list (R336). -/
def Image.slices (im : Image) (blocks : List Nat) (xs : List F32) : List (Nat × List F32) :=
  (blocks.foldl (fun (a : List (Nat × List F32) × List F32) g =>
    (a.1 ++ [(g, a.2.take (im.blockElems g))], a.2.drop (im.blockElems g))) ([], xs)).1

/-- The end of a shard's return: the panels of blocks its fast-tier update gave a generation, then RETURN_END, which counts the swept blocks too and
has NOCHANGE where n is 0, the step is skipped or every block is deferred (R354, R356, R357). -/
def State.sendReturn (s : State) (im : Image) (b i : Nat) (fresh : List Nat) : State :=
  let g := s.gx.group
  let s := fresh.foldl (fun s k => s.sendPanel im k ((s.upd.gen.at k).next.getD 0)) s
  let n := ((im.shardBlocks g.n b i).filter fun k => (s.upd.gen.at k).next.isSome).length
  let digest := im.shardDigest s.mem s.upd g.n s.gx.epoch.toNat s.tmr.step.toNat b i true
  s.toAll (s.xmsg xReturnEnd b i n (if fresh.isEmpty then 1 else 0) 0 digest)

/-- One block of a shard takes its applied gradients: a slow-tier block into its queue entry (R293), a fast-tier block as an update (R290). -/
def State.applyTo (s : State) (im : Image) (silent : Bool) (step : Nat) (p : Nat × List F32) : State :=
  if im.isSlow p.1 && 0 < im.upd.k then s.queueAdd im p.1 step p.2
  else if silent then s.updateQuiet im p.1 step p.2
  else s.updateOne im p.1 step p.2

/-- SHARD_UPDATE_DONE (R290 to R293, R299, R343, R354 to R357, R523, R536): the shard is updated and returned. It waits for a sweep that runs, since its
RETURN_END counts the blocks swept (log entry 44). A block whose memory fails, or block `blk` of those to update when the engines differ on it,
stops, and an unseeded block takes no update; the shard is then not returned, and its other blocks make no generation (log entry 60). In FAULT only
the block in progress is updated, and its shard gets no return (R536). -/
def execShardUpdateDone (b shard blk : Nat) (dup : Dup) (ecc : Ecc) (s : State) : Res :=
  .next (match s.img with
    | none => s
    | some im =>
      let step := s.tmr.step.toNat
      let y := s.gx.getSet step { bucket := b, shard := shard, asPod := false }
      let fault := s.ctl.state == .fault
      let idle := y.stage == .reduced && (y.n == 0 || !im.needsNorm || s.gx.norm.isSome) && !fault
      if !s.adm.running || s.flt.abandoning || s.upd.sweep.isSome || !(y.stage == .updating || idle) then s else
      let blocks := im.shardBlocks s.gx.group.n b shard
      let todo := (if y.stage == .updating then im.slices blocks (s.applied im y) else []).filter fun p =>
        !s.gx.unseeded.contains p.1 && (!fault || s.midBlock == some p.1)
      let fast := (todo.map (·.1)).filter fun k => !(im.isSlow k && 0 < im.upd.k)
      let r := s.updateRead im fast ((todo.map (·.1)).filter fun k => im.isSlow k && 0 < im.upd.k && (s.upd.queue.at k).isSome) ecc
      let differ := if dup = .differ then ((todo[blk]?).map (·.1)).toList else []
      let s := differ.foldl (fun s g => s.updateFault im g) r.1
      let stop := r.2 ++ differ
      let s := { s with gx := s.gx.silence im stop }
      let silent := s.gx.isSilent im b shard || fault
      let s := (todo.filter fun p => !stop.contains p.1).foldl (fun s p => s.applyTo im silent step p) s
      let s := if silent then s else s.sendReturn im b shard fast
      ({ s with gx := s.gx.putSet { y with stage := if silent then .gone else .done } }).noteStep im)

/-! Returns at a member -/

/-- Whether a return has all it counts (R358). -/
def Image.retFull (im : Image) (r : Ret) : Bool :=
  match r.fin with
  | some (n, _) => (r.got.filter fun p => rangesLen p.2 == (im.block p.1).t.panel).length == n && r.got.length == n
  | none => false

/-- A return that is complete: the shard is returned, and its generations are made (R296, R358). -/
def State.putReturn (s : State) (im : Image) (r : Ret) : State :=
  let r := { r with complete := im.retFull r }
  ({ s with gx := s.gx.putRet r }).settleReturns

/-- RETURN (R297, R339, R346, R358, R455). -/
def execReturnMsg (i : Nat) (ecc : Ecc) (s : State) : Res :=
  .next (s.onMail i xReturn fun im m =>
    let s := s.drop i
    let cur := s.tmr.step.toNat
    let g := s.gx.groupFor cur m.step
    let r := s.gx.getRet m.step m.bucket m.shard
    let range := (m.b, m.b + m.data.length)
    let got := r.got.at m.a
    if !s.gx.tagOk im cur m || (g.owner m.bucket m.shard).id ≠ m.member || !(im.shardBlocks g.n m.bucket m.shard).contains m.a || m.data.isEmpty
      || (im.block m.a).t.panel < range.2 || got.any (rangesMeet range) || r.complete || r.stale || (!got.isEmpty && r.gens.at m.a ≠ m.c) then s.bad
    else
      let r := { r with got := r.got.put m.a (got ++ [range]), gens := r.gens.put m.a m.c }
      let b := im.block m.a
      let now := m.step = cur && s.upd.writable m.a m.c
      let at' := if now then im.regPlaces b.t.copy (b.copyOff m.c + m.b) m.data.length
        else im.regPlaces im.bkt.stageRegion (im.stageOff m.a + m.b) m.data.length
      let s := s.mergeRead im (at'.zip m.data) ecc
      let s := if now then { s with mem := im.regWrite s.mem b.t.copy (b.copyOff m.c + m.b) m.data }
        else s.stagePanel im m.step m.a m.c m.b m.data
      s.putReturn im r)

/-- RETURN_END (R346, R358). -/
def execReturnEnd (i : Nat) (s : State) : Res :=
  .next (s.onMail i xReturnEnd fun im m =>
    let s := s.drop i
    let cur := s.tmr.step.toNat
    let g := s.gx.groupFor cur m.step
    let r := s.gx.getRet m.step m.bucket m.shard
    if !s.gx.tagOk im cur m || (g.owner m.bucket m.shard).id ≠ m.member || r.fin.isSome || r.complete || r.stale then s.bad
    else s.putReturn im { r with fin := some (m.a, m.data) })

/-! Comparison rounds -/

/-- Places of a shard's current compute copies. -/
def State.shardPlaces (s : State) (im : Image) (k : Nat × Nat) : List Nat :=
  (im.shardBlocks s.gx.group.n k.1 k.2).flatMap fun g => (im.block g).copyPlaces im (s.upd.gen.at g).cur

/-- Places of the master weights of a shard this device owns. -/
def State.masterPlaces (s : State) (im : Image) (k : Nat × Nat) : List Nat :=
  (im.shardBlocks s.gx.group.n k.1 k.2).flatMap fun g => (im.block g).f32Places im (im.block g).t.master 0

/-- Whether a shard's stored copy has its reference digest (R357, R361); poisoned data never has (log entry 66). -/
def State.sameDigest (s : State) (im : Image) (k : Nat × Nat) (r : RefDigest) : Bool :=
  (s.mem.poison.isEmpty || !(s.shardPlaces im k).any s.mem.poisoned) && im.shardDigest s.mem s.upd s.gx.group.n r.epoch r.step k.1 k.2 false == r.digest

/-- The REPLICA fault (R361, R521, R540). -/
def State.diverge (s : State) (k : Nat × Nat) : State :=
  (s.setGx { s.gx with diverged := true }).report { cls := .replica, sev := .chip, sub := k.1, detail := k.2 + k.1 * 65536 }

/-- A round is over (R361). -/
def State.endRound (s : State) (m : Nat) : State :=
  let s := if 2 ≤ m || (1 ≤ m && s.gx.history.any id) then s.diverge (s.gx.lastBucket.toNat, s.gx.lastShard.toNat) else s
  { s with gx := { s.gx with round := none, rounded := true, history := lastN 15 (s.gx.history ++ [decide (1 ≤ m)]) } }

/-- FETCH goes to a shard's owner (R361). -/
def State.sendFetch (s : State) (k : Nat × Nat) : State := s.sendX (s.gx.group.owner k.1 k.2) (s.xmsg xFetch k.1 k.2 0 0 0 [])

/-- The shards of a round from a list on, up to the first that must be fetched (R361); the errors are those the reads meet in their order: the copies of
a shard, and for a rebuild its master weights (R454, R455). -/
def State.compareFrom (im : Image) : List (Nat × Nat) → Nat → Ecc → State → State
  | [], m, _, s => s.endRound m
  | k :: rest, m, e, s =>
    match s.gx.ref? k with
    | none => State.compareFrom im rest m e s
    | some r =>
      if s.gx.stale.contains k then State.compareFrom im rest m e s
      else
        let ks := s.shardPlaces im k
        let s := s.engineRead im ks e
        let e := if e.errs.isEmpty then e else e.after ks.length
        if s.sameDigest im k r then State.compareFrom im rest m e s
        else
          let s := s.setGx { s.gx with mismatch := true, lastBucket := BitVec.ofNat 12 k.1, lastShard := BitVec.ofNat 12 k.2 }
          if (s.gx.group.owner k.1 k.2).id = s.gx.me then
            let ws := s.masterPlaces im k
            let s := s.engineRead im ws e
            let s := (im.shardBlocks s.gx.group.n k.1 k.2).foldl (fun s g =>
              let b := im.rebuildCopy s.mem g (s.upd.gen.at g).cur
              ({ s with mem := b.1 }).countUnbound b.2) s
            State.compareFrom im rest (m + 1) (if e.errs.isEmpty then e else e.after ws.length) (if s.sameDigest im k r then s else s.diverge k)
          else
            { s.sendFetch k with gx := { (s.sendFetch k).gx with
                round := some { todo := rest, mismatches := m + 1, fetch := some { bucket := k.1, shard := k.2, attempt := 1 } } } }

/-- COMPARE_ROUND (R303, R360, R361, R454, R455): at a step boundary, for every case that is due. -/
def execCompareRound (ecc : Ecc) (s : State) : Res :=
  .next (match s.img with
    | none => s
    | some im =>
      let st := s.ctl.state
      if s.atBoundary && s.roundDue && s.gx.round.isNone && (st == .loaded || st == .armed || st.running) then
        State.compareFrom im (im.shards s.gx.group.n) 0 ecc
          { s with gx := { s.gx with compareNow := false, compareDue := false, round := some { todo := [] } }, tmr := { s.tmr with latchDigest := false } }
      else s)

/-- FETCH (R361, R362, R454, R455): answered from the stored current generation; the digest is over the epoch and step of this device's own reference. -/
def execFetch (i : Nat) (ecc : Ecc) (s : State) : Res :=
  .next (s.onMail i xFetch fun im m =>
    let s := s.drop i
    let cur := s.tmr.step.toNat
    let g := s.gx.group
    if !s.gx.tagOk im cur m || (g.owner m.bucket m.shard).id ≠ s.gx.me then s.bad
    else
      let s := s.engineRead im (s.shardPlaces im (m.bucket, m.shard)) ecc
      let to' := g.member ((g.rank? m.member).getD 0)
      let blocks := im.shardBlocks g.n m.bucket m.shard
      let r := (s.gx.ref? (m.bucket, m.shard)).getD { epoch := s.gx.epoch.toNat, step := (s.tmr.step - 1).toNat, digest := [] }
      let tag := fun (x : XMsg) => { x with step := m.step, epoch := m.epoch }
      let s := blocks.foldl (fun s k =>
        let gen := (s.upd.gen.at k).cur
        (pieces s.gx.dataMax ((im.block k).readPanel im s.mem gen)).foldl (fun s p =>
          s.sendX to' (tag (s.xmsg xFetchData m.bucket m.shard k p.1 gen p.2))) s) s
      let d := im.shardDigest s.mem s.upd g.n r.epoch r.step m.bucket m.shard false
      let s := { s with gx := { s.gx with mFetch := s.gx.mFetch.mod m.member fun c => satAdd c 1 } }
      s.sendX to' (tag (s.xmsg xFetchEnd m.bucket m.shard blocks.length 0 0 d)))

/-- The refetch a message belongs to (R346, R361). -/
def State.fetching (s : State) (im : Image) (m : XMsg) : Option (Round × Refetch) :=
  match s.gx.round with
  | some r => match r.fetch with
    | some f =>
      if s.gx.tagOk im s.tmr.step.toNat m && f.bucket == m.bucket && f.shard == m.shard && (s.gx.group.owner m.bucket m.shard).id == m.member then some (r, f)
      else none
    | none => none
  | none => none

/-- FETCH_DATA (R346, R361). -/
def execFetchData (i : Nat) (s : State) : Res :=
  .next (s.onMail i xFetchData fun im m =>
    let s := s.drop i
    match s.fetching im m with
    | none => s.bad
    | some (r, f) =>
      let range := (m.b, m.b + m.data.length)
      if !(im.shardBlocks s.gx.group.n m.bucket m.shard).contains m.a || (im.block m.a).t.panel < range.2
        || f.got.any (fun p => p.1 == m.a && rangesMeet range (p.2.1, p.2.1 + p.2.2.length)) then s.bad
      else { s with gx := { s.gx with round := some { r with fetch := some { f with got := f.got ++ [(m.a, m.b, m.data)] } } } })

/-- An attempt has failed (R361): a second is made, after which the shard is stale and the round goes on. -/
def State.fetchFailed (s : State) (im : Image) (r : Round) (f : Refetch) (e : Ecc) : State :=
  if f.attempt < 2 then
    { s.sendFetch (f.bucket, f.shard) with gx := { (s.sendFetch (f.bucket, f.shard)).gx with
        round := some { r with fetch := some { f with attempt := f.attempt + 1, got := [] } } } }
  else
    let k := (f.bucket, f.shard)
    let s := s.setGx { s.gx with staleFlag := true, staleCnt := satAdd s.gx.staleCnt 1
                                 stale := if s.gx.stale.contains k then s.gx.stale else s.gx.stale ++ [k] }
    State.compareFrom im r.todo r.mismatches e s

/-- FETCH_END (R361, R454, R455): the fetched panels replace the current slot when their digest is the reference. -/
def execFetchEnd (i : Nat) (ecc : Ecc) (s : State) : Res :=
  .next (s.onMail i xFetchEnd fun im m =>
    let s := s.drop i
    match s.fetching im m with
    | none => s.bad
    | some (r, f) =>
      if (s.gx.ref? (f.bucket, f.shard)).any fun d => d.digest == m.data then
        let mem := f.got.foldl (fun mem p =>
          let b := im.block p.1
          im.regWrite mem b.t.copy (b.copyOff (s.upd.gen.at p.1).cur + p.2.1) p.2.2) s.mem
        State.compareFrom im r.todo r.mismatches ecc { s with mem := mem, gx := { s.gx with refetchCnt := satAdd s.gx.refetchCnt 1 } }
      else s.fetchFailed im r f ecc)

/-- FETCH_TIMEOUT (R361, R454, R455): no FETCH_END within 50 ms. -/
def execFetchTimeout (ecc : Ecc) (s : State) : Res :=
  .next (match s.img, s.gx.round with
    | some im, some r => (match r.fetch with | some f => s.fetchFailed im r f ecc | none => s)
    | _, _ => s)

/-! State transfers and epochs -/

/-- Bytes received of a record, in order from its start. -/
def joinPieces (l : List (Nat × List Byte)) : List Byte :=
  (l.mergeSort fun a b => decide (a.1 ≤ b.1)).foldl (fun (acc : List Byte) p => if p.1 = acc.length then acc ++ p.2 else acc) []

/-- STATE_XFER (R343, R346, R455): a record that is whole, its padding with it, is written; a message for the step above waits in the inbox. -/
def execStateXfer (i : Nat) (ecc : Ecc) (s : State) : Res :=
  .next (s.onMail i xState fun im m =>
    let cur := s.tmr.step.toNat
    let staged := s.gx.pendingEpoch && m.step == s.gx.epochStep.toNat && m.epoch == s.gx.epochNext.toNat
    if staged && m.step == stepAbove cur then s
    else
      let s := s.drop i
      let old := s.gx.xfer.at m.a
      let meets := old.any fun p => rangesMeet (m.b, m.b + m.data.length) (p.1, p.1 + p.2.length)
      if !staged || m.step ≠ cur || !s.gx.awaited.contains m.a || m.data.isEmpty || meets || im.shardOf s.gx.nextGroup.n m.a ≠ some (m.bucket, m.shard)
        || !(im.shardOf s.gx.group.n m.a).any (fun k => (s.gx.group.owner k.1 k.2).id == m.member) then s.bad
      else
        let got := old ++ [(m.b, m.data)]
        let s := { s with gx := { s.gx with xfer := s.gx.xfer.put m.a got } }
        match im.parseBlock 11 (joinPieces got) with
        | none => s
        | some r =>
          if (joinPieces got).length < r.bytes then s else
          let s := s.mergeRead im (im.partPlaces s.upd 11 r.block) ecc
          let mu := im.importBlock 11 (s.mem, s.upd) r
          { s with mem := mu.1, upd := mu.2, gx := { s.gx with awaited := s.gx.awaited.filter (· != r.block), xfer := s.gx.xfer.put m.a [] } })

/-- XFER_END (R343, R345, R346): the sender has sent its blocks; those missing are waited for until the timeout. It names the step of the staged
epoch, or of that epoch once it is in force. -/
def execXferEnd (i : Nat) (s : State) : Res :=
  .next (s.onMail i xXferEnd fun _ m =>
    let cur := s.tmr.step.toNat
    let staged := s.gx.pendingEpoch && m.step == s.gx.epochStep.toNat && m.epoch == s.gx.epochNext.toNat
      && (m.step == cur || m.step == stepAbove cur) && (s.gx.group.rank? m.member).isSome
    if staged || s.gx.headOk cur m then s.drop i else (s.drop i).bad)

/-- XFER_WAIT_TIMEOUT (R343, R484): blocks that have not arrived are unseeded. -/
def execXferWaitTimeout (s : State) : Res :=
  .next (s.setGx { s.gx with unseeded := s.gx.unseeded ++ s.gx.awaited.filter fun g => !s.gx.unseeded.contains g, awaited := [], xfer := [] })

/-- ARM_EPOCH set (R342, R348): ignored while an epoch is pending. Armed after the end of the step before its own, the state goes out now (R343). -/
def State.armEpochNow (s : State) : State :=
  if s.gx.pendingEpoch then s else
  let need := match s.img with
    | some im => BitVec.ofNat 26 (slotNeed im s.gx.me s.gx.group s.gx.nextGroup)
    | none => s.gx.slotNeed
  let s := { s with gx := { s.gx with pendingEpoch := true, slotNeed := need } }
  match s.img with
  | some im => if !s.adm.running && s.gx.epochStep = s.tmr.step then s.sendState im else s
  | none => s

/-- A straggler cut-off of the current step (R349). -/
def State.cutOff (s : State) (time : Nat) : State :=
  if s.stepping then { s with gx := { s.gx with cut := some (s.gx.cut.getD time) } } else s

/-- A write of GX_CTRL (R363). -/
def State.writeGxCtrl (s : State) (v : W32) : State :=
  let s := { s with gx := s.gx.writeReg (s.ctl.state == .ready || s.ctl.state == .loaded) 4 v }
  let s := if bit v 1 then { s with gx := { s.gx with compareNow := true } } else s
  let s := if bit v 3 then s.armEpochNow else s
  if bit v 2 then s.cutOff s.now else s

/-- ARM_EPOCH (R342): a write of GX_CTRL with its bit. -/
def execArmEpoch (v : W32) (s : State) : Res := s.host fun s => if bit v 3 then s.writeGxCtrl v else s
/-- CUTOFF (R349): a write of GX_CTRL with its bit. -/
def execCutoff (v : W32) (s : State) : Res := s.host fun s => if bit v 2 then s.writeGxCtrl v else s
/-- COMPARE_NOW (R360): a write of GX_CTRL with its bit. -/
def execCompareNow (v : W32) (s : State) : Res := s.host fun s => if bit v 1 then s.writeGxCtrl v else s

end Sys2Proof.Machine
end

