-- ==== Sys2Proof/Machine/FaultsExec.lean ====
section
/-! DEFINITION. From detection to record, fence, abandonment and FAULT (R33, R34, R520 to R544). -/

namespace Sys2Proof.Machine

/-- FAULT_REPORT (R34, R527, R528): the oldest report reaches the region manager, or in crossed mode the chip controller. -/
def execFaultReport (s : State) : Res :=
  .next { s with flt := s.flt.report s.crossed s.now }

/-- Tiles of a fence that is ordered (R33, R130): a tile with its pair, or all of a region. -/
def fenceTiles (im : Option Image) (n : Nat) : List Nat :=
  if 256 ≤ n then (List.range 256).filter fun t => regionOf t == n - 256
  else n :: match im with
    | some im => (im.pairs.filter fun p => p.1 == n || p.2 == n).flatMap fun p => [p.1, p.2].filter (· != n)
    | none => []

/-- TILE_FENCE (R33, R118, R130, R525): pending writes of the tiles are dropped and counted in their region, SIGNALs among them; a pending TAKE
brings no data and waits for the fence to be lifted. A STEM firing in progress stops, its reads poisoned and its write dropped and counted (R231,
log entry 113). -/
def execTileFence (s : State) : Res :=
  .next (match s.flt.fences with
    | [] => s
    | n :: rest =>
      let ts := fenceTiles s.img n
      let cls := fun (x : Firing) => match s.img with | some im => (im.descAt x.desc).cls | none => 0
      let stems := s.fab.firings.filter fun x => ts.contains x.tile && cls x == 9 && !x.allSent (s.img.getD default)
      let hit := (s.fab.firings.filter fun x => ts.contains x.tile && cls x == 7 && !x.sram.isEmpty) ++ stems
      let fenced := s.fab.fenced ++ ts.filter fun t => !s.fab.fenced.contains t
      let firings := s.fab.firings.map fun (x : Firing) => if ts.contains x.tile && cls x == 7 then { x with sram := [] } else x
      let fab : Fab := { s.fab with fenced := fenced, firings := firings, readyLog := s.fab.readyLog.filter fun p => !ts.contains p.1 }
      let sent := fun (m : SyncMsg) => match m with | .signal _ _ t => ts.contains t | .take _ _ _ _ => false
      let cnt := (hit.map (·.tile) ++ (s.sync.msgs.filter sent).map (·.tile)).foldl (fun t x => t.mod (regionOf x) fun c => satAdd c 1) s.flt.regFence
      stems.foldl (fun s x => s.poisonStop x.tile x.slot false)
        { s with fab := fab, sync := { s.sync with msgs := s.sync.msgs.filter fun m => !sent m }, flt := { s.flt with fences := rest, regFence := cnt } })

/-- A written record's FAULT event (R484, R529): it waits where completion queue 0 is not enabled, as in RESET and BOOT. -/
def State.faultEvent (s : State) (r : Report) (seq : Nat) (partialUpd : Bool) : State :=
  if r.sev = .corrected && !s.flt.ceEvt then s
  else
    let bs := r.bytes seq partialUpd
    let w := fun (o : Nat) => BitVec.ofNat 64 (fieldAt bs o 8)
    s.event 0x02 0 (w 0) (w 16) (w 24)

/-- FAULT_RECORD_WRITE (R527, R529, R531, R536 to R541): the oldest record is written, its event posted, and its action begins. -/
def execFaultRecordWrite (s : State) : Res :=
  .next (match s.flt.toWrite with
    | [] => s
    | r :: rest =>
      if s.flt.fencePending s.crossed r then s else
      let updating := s.adm.running && s.adm.updStarted
      let partialUpd := r.sev == .chip && updating
      let r := { r with abandon := if r.sev = .chip then s.adm.running && !updating else r.abandon && !updating }
      let wants := r.abandon || (r.sev == .contained && updating && s.flt.toWrite.head?.any fun x => x.abandon)
      let seq := s.flt.seq.toNat
      let s := ({ s with flt := { s.flt with toWrite := rest }.writeRecord r partialUpd }).faultEvent r seq partialUpd
      match r.sev with
      | .corrected => s
      | .chip => s.enterFault r.imgLost
      | .contained => if wants && s.adm.running && r.cls ≠ .hostAbort then s.abandon else s)

/-- ABANDON_COMPLETE (R115, R532 to R534): once every record that abandons the step has been written (log entry 42). -/
def execAbandonComplete (s : State) : Res :=
  .next (if !s.flt.abandoning || (s.flt.reports ++ s.flt.toWrite).any (·.abandon) then s
    else match s.img with
    | some im => s.abandonDone im
    | none => s.abandonLost)

/-- A write of FLT_INJECT (R542, R544): with GO set an injected fault waits on the named tile, while an image is active. -/
def State.writeInject (s : State) (v : W32) : State :=
  if s.img.isNone then s else
  let f := s.flt.writeReg 0x20 v
  let k := f.injKind.toNat
  { s with flt := f
           fab := if bit v 31 && 1 ≤ k && k ≤ 5 then { s.fab with inject := s.fab.inject ++ [(f.injTile.toNat, k)] } else s.fab }

/-- FLT_INJECT (R542, R544). -/
def execFltInject (v : W32) (s : State) : Res := s.host fun s => s.writeInject v

end Sys2Proof.Machine
end

