-- ==== Sys2Proof/Machine/IntakeExec.lean ====
section
/-! DEFINITION. Samples, the Sieve, staging, decode engines, the Packer and micro-batches (R391 to R442). -/

namespace Sys2Proof.Machine

/-- What the input pipeline does needs an image and a firmware that runs. -/
def State.intake (s : State) (f : Image → State) : Res :=
  .next (match s.img with | none => s | some im => if s.ctl.state.live then f im else s)

/-- The intake state changes and completions are posted. -/
def State.setInp (s : State) (r : Inp × List SampleDone) : State := ({ s with inp := r.1 }).samplesDone r.2

/-- Whether a record in device memory may be read (R393). -/
def Image.recordMapped (im : Image) (ddr : Sparse DdrCh) (a n : Nat) : Bool :=
  spanMapped ddr a n && im.regions.any fun r => r.kind == 0 && (r.tier == 2 || r.tier == 3) && (spanPlaces a n).all (r.hasPlace im)

/-- Bytes of a sample's record, and whether they could not be read (R393, R403, R455). -/
def State.readRecord (s : State) (d : SampleDesc) (off n : Nat) (busErr : Bool) (ecc : Ecc) : State × List Byte × Bool :=
  if d.source = 1 then
    let ks := spanPlaces (d.addr + off) n
    let r := s.eccRead ks ecc 0 false false (addrIn (addrSpace d.addr))
    (r.1, s.mem.read ks, r.2)
  else (s, s.hif.readMem (d.addr + off) n, busErr || s.hif.busErr (d.addr + off) n)

/-- SAMPLE_ACCEPT (R392, R397, R404): the oldest descriptor takes a context and the next sequence number; the checks that need no byte of the
record come at once. -/
def execSampleAccept (s : State) : Res :=
  s.intake fun im =>
    match s.inp.queue with
    | [] => s
    | e :: rest =>
      if 262144 ≤ s.inp.ctx.length then s else
      let k := s.inp.nextSeq.toNat
      let d := parseSample e.data
      let x := { s.inp with queue := rest, nextSeq := s.inp.nextSeq + 1, ctx := s.inp.ctx.put k { st := .sieve, e := e, d := d } }
      let code := sieveFirst im d (im.recordMapped s.memr.ddr d.addr d.len)
      { s with inp := if code = 0 then x else x.void k code }

/-- HEADER_READ_RETURN (R397 to R402): the first 832 bytes at most have arrived. -/
def execHeaderReadReturn (seq : Nat) (busErr : Bool) (ecc : Ecc) (s : State) : Res :=
  s.intake fun im =>
    let c := s.inp.ctx.at seq
    if c.st ≠ .sieve || !s.inp.headerIssued seq then s else
    let r := s.readRecord c.d 0 (min c.d.len 832) busErr ecc
    { r.1 with inp := r.1.inp.sieve im seq r.2.1 r.2.2 }

/-- STAGING_RESERVE (R401): pages in sequence order; the rest of the record is read. -/
def execStagingReserve (s : State) : Res :=
  s.intake fun im =>
    match s.inp.reservable im with
    | none => s
    | some k => { s with inp := ({ s.inp with ctx := s.inp.ctx.mod k fun c => { c with reserved := true } }).settle k }

/-- After a field's change the context's state and a completion that is due follow (R404, R437). -/
def State.fieldDone (s : State) (im : Image) (x : Inp) (seq : Nat) : State := s.setInp ((x.settle seq).afterField im seq)

/-- RECORD_FETCH_COMPLETE (R393, R403): the bytes of the remainder up to the end of a field of the table have arrived, a dropped field's among
them; an error voids the sample with FETCH. -/
def execRecordFetchComplete (seq type : Nat) (busErr : Bool) (ecc : Ecc) (s : State) : Res :=
  s.intake fun im =>
    let c := s.inp.ctx.at seq
    match c.fields.find? fun f => f.type == type && !f.got with
    | none => s
    | some f =>
      if !c.reserved then s else
      let span := c.fetchSpan f
      let r := if span.1 < span.2 then s.readRecord c.d span.1 (span.2 - span.1) busErr ecc else (s, [], false)
      if r.2.2 then r.1.fieldDone im (r.1.inp.void seq 0x01) seq
      else r.1.fieldDone im (r.1.inp.fetched im seq type (c.payload f r.2.1)) seq

/-- ENGINE_ASSIGN (R405, R412): a text field that meets no tokeniser table fails with NO_TABLE. -/
def execEngineAssign (kind : BitVec 2) (s : State) : Res :=
  s.intake fun im =>
    match s.inp.assignable kind.toNat with
    | none => s
    | some k =>
      let t := kind.toNat + 1
      let x := if t = 4 && im.tok.isNone then s.inp.fieldFail im k t 0x18 else s.inp.setField k t fun f => { f with st := .engine }
      { s with inp := x.settle k }

/-- A field of a context that is on an engine. -/
def Inp.onEngine (x : Inp) (seq type : Nat) : Option Field := (x.ctx.at seq).fields.find? fun f => f.type == type && f.st == .engine

/-- Staging is read, with errors at offsets of its region (R401, R454, R455): the state after it, and whether data is lost. -/
def State.stagingRead (s : State) (im : Image) (e : Ecc) : State × Bool :=
  let r := (im.region? (match im.prof with | some p => p.stagingRegion | none => 0)).getD default
  let es := e.errs.filter fun x => decide (x.i / 65536 < im.stagingPages)
  s.meetErrs (es.map fun x => (im.regPlace r x.i, x.hits)) 0 false false im.addrOf

/-- Whether a field's decoding can come to its end: a video whose sample is not the head holds the pictures it is to hand on in its pages, 24 at
most (R401, R410, R413, R433; log entry 157). -/
def Inp.windowHolds (x : Inp) (im : Image) (seq : Nat) (f : Field) : Bool :=
  let p := (x.ctx.at seq).profile im
  let n := (p.pictures 1 f.codec f.decl f.data).out.length
  f.type != 1 || x.head? == some seq || (p.out.getD 0 default).region == none32
    || decide (min (p.keptFrames f.decl) ((n + p.vStride - 1) / p.vStride) ≤ 24)

/-- FIELD_DECODE_COMPLETE (R406 to R412, R416, R425, R454, R455): a decoder that has found no failure ends; an uncorrected error in staging voids the
sample with FETCH. -/
def execFieldDecodeComplete (seq type : Nat) (ecc : Ecc) (s : State) : Res :=
  s.intake fun im =>
    match s.inp.onEngine seq type with
    | none => s
    | some f =>
      if (s.inp.ctx.at seq).outcome im f ≠ 0 || !s.inp.windowHolds im seq f then s else
      let r := s.stagingRead im ecc
      let s := r.1
      if r.2 then s.fieldDone im (s.inp.void seq 0x01) seq
      else s.fieldDone im (s.inp.setField seq type fun f => { f with st := .decoded }) seq

/-- Reason codes of R416. -/
def DecodeErr.code : DecodeErr → Nat
  | .bitstream => 0x15 | .unsupported => 0x16 | .declMismatch => 0x17 | .tokens => 0x19 | .datapath | .staging _ => 0x01

/-- Whether a decoder meets a failure in the stream, not in the hardware. -/
def DecodeErr.ofStream : DecodeErr → Bool
  | .datapath | .staging _ => false
  | _ => true

/-- Whether a decoder meets a failure on a field (R407 to R412): what the stream is found to be, or an error of the hardware. -/
def Ctx.canFail (im : Image) (c : Ctx) (f : Field) : DecodeErr → Bool
  | .datapath => true
  | .staging off => decide (off / 65536 < im.stagingPages)
  | e => c.outcome im f == e.code

/-- The record of a datapath check that fails in the input pipeline (R521). -/
def State.datapathFault (s : State) : State := s.report { cls := .datapath, sev := .contained }

/-- FIELD_DECODE_ERROR (R407 to R412, R415, R521): a datapath check that fails voids the sample with FETCH and is recorded. -/
def execFieldDecodeError (seq type : Nat) (code : DecodeErr) (s : State) : Res :=
  s.intake fun im =>
    let c := s.inp.ctx.at seq
    match s.inp.onEngine seq type with
    | none => s
    | some f =>
      if !c.canFail im f code || (code.ofStream && !s.inp.windowHolds im seq f) then s
      else if code = .datapath then
        (s.fieldDone im (s.inp.void seq code.code) seq).datapathFault
      else match code with
        | .staging off =>
          let s := (s.stagingRead im (.uncorrected off)).1
          s.fieldDone im (s.inp.void seq code.code) seq
        | _ => s.fieldDone im (s.inp.fieldFail im seq type code.code) seq

/-- ENGINE_TIME_REPORT (R413, R414): `us` more microseconds of engine time. -/
def execEngineTimeReport (seq us : Nat) (s : State) : Res :=
  s.intake fun im =>
    let c := s.inp.ctx.at seq
    if !c.fields.any fun f => f.st == .engine then s
    else
      let x := { s.inp with ctx := s.inp.ctx.put seq { c with us := c.us + us } }
      if (c.profile im).budget < c.us + us then s.fieldDone im (x.void seq 0x14) seq else { s with inp := x }

/-- A sample is voided with FETCH, by a datapath check of the Packer or by lost data (R415, R416, R442, R521). -/
def State.voidFetch (s : State) (seq : Nat) : State := { s with inp := s.inp.void seq 0x01 }

/-- SAMPLE_EMIT (R433 to R436, R442, R454, R455, R481, R521, R536, R578): emission stands still in FAULT. The errors are those met while the head's
positions are written, its video's too as they arrive; an uncorrected one, or a check of the Packer that fails (`residue`), voids the head. -/
def execSampleEmit (residue : Bool) (ecc : Ecc) (s : State) : Res :=
  s.intake fun im =>
    if s.ctl.state = .fault then s else
    let r := s.inp.emitHead im
    let s := { s with inp := r.1 }
    match r.2.1 with
    | none => s
    | some k =>
      let going := (s.inp.ctx.at k).emitting && (s.inp.ctx.at k).st != .void
      let e := if going && !ecc.errs.isEmpty then s.meetErrs (ecc.units (s.inp.rowPlaces im k)) 0 false false im.addrOf else (s, false)
      let s := if residue && going then e.1.datapathFault else e.1
      let s := if going && (residue || e.2) then s.voidFetch k else s
      (s.setInp (s.inp.afterField im k)).countUnbound r.2.2

/-- ROW_SET_SEAL (R430 to R432, R437, R521): the row set is written to its slots with its report. A check of the Packer that fails voids the samples
that stand in it (log entry 145). -/
def execRowSetSeal (residue : Bool) (s : State) : Res :=
  s.intake fun im =>
    match s.inp.sealable with
    | none => s
    | some r =>
      let s := if residue then { s.datapathFault with inp := s.inp.voidRow r.g } else s
      let r := (s.inp.sealable).getD r
      { s with mem := r.write im s.mem, inp := s.inp.seal r.g }

/-- MB_COMPLETE (R432, R439, R440): the work counts go into the last row set's report and to the placement selector. -/
def execMbComplete (s : State) : Res :=
  s.intake fun im =>
    match s.inp.completeMb im with
    | none => s
    | some l =>
      let last := (l.getLast?).getD default
      { s with mem := im.regWrite s.mem im.reportRegion (last.g % max 1 im.ringSlots * 65536) (last.header im (some (workCounts im l)))
               inp := s.inp.mbComplete im l }

/-- A write of INP_CTRL (R438, R441 to R443): FLUSH goes before CLOSE_MB, and is rejected while a step runs. -/
def State.writeInpCtrl (s : State) (v : W32) : State :=
  if bit v 0 then
    if s.ctl.state.running || s.adm.running then { s with inp := { s.inp with flushRej := true } }
    else
      let s := { s with flt := { s.flt with needFlush := false } }
      s.setInp s.inp.flush
  else if bit v 1 then
    match s.img with
    | some im => { s with inp := ({ s.inp with closes := s.inp.closes ++ [s.inp.nextSeq.toNat] }).closeDue im }
    | none => s
  else s

/-- CLOSE_MB (R438). -/
def execCloseMb (v : W32) (s : State) : Res := s.host fun s => s.writeInpCtrl v
/-- FLUSH (R441). -/
def execFlush (v : W32) (s : State) : Res := s.host fun s => s.writeInpCtrl v

end Sys2Proof.Machine
end

