-- ==== Sys2Proof/Machine/LinkExec.lean ====
section
/-! DEFINITION. Evoad ports: training, negotiation, flits, retry, credits, the router, delivery, time transfer (R306 to R332). -/

namespace Sys2Proof.Machine

/-- What happens on a port of the link block: nothing in OFF and ALARM, where every port is idle (R331, R512), and nothing outside ports
0 to 11. -/
def State.onPort (s : State) (i : Nat) (f : Port → State) : Res :=
  .next (if s.ctl.state.awake && i < 12 then f (s.lnk.port.at i) else s)

/-- The flit layer of a port runs from phase 5 of training on (R309). -/
def Port.flits (p : Port) : Bool := p.state == .up || p.state == .negotiating || (p.state == .training && p.phase == 5)

/-! Training and negotiation -/

/-- PORT_ENABLE_WRITE (R308, R333): a write of LNK_PORT_CTRL. -/
def execPortEnableWrite (port : Nat) (v : W32) (s : State) : Res :=
  s.host fun s => if port < 12 then s.setLnk (s.lnk.writePortCtrl port v) else s

/-- TRAINING_PHASE_COMPLETE (R309 to R311). -/
def execTrainingPhaseComplete (port : Nat) (inv : List Bool) (reqs idx : List Nat) (skewNs : Nat) (s : State) : Res :=
  s.onPort port fun p => if p.state = .training then s.setLnk (s.lnk.phaseDone port inv reqs idx skewNs) else s

/-- TRAINING_PHASE_TIMEOUT (R309). -/
def execTrainingPhaseTimeout (port : Nat) (s : State) : Res :=
  s.onPort port fun p =>
    if p.state = .training || p.state = .negotiating then s.setLnk (s.lnk.toDown port (phaseReason p.phase)) else s

/-- CAP_SEND (R312). -/
def execCapSend (port : Nat) (s : State) : Res :=
  s.onPort port fun p => if p.state = .negotiating then s.setLnk (s.lnk.sendCtrl port 5 (s.lnk.capPayload port)) else s

/-- AUTO_RETRAIN (R308). -/
def execAutoRetrain (port : Nat) (s : State) : Res :=
  s.onPort port fun p => if p.state = .down && p.autoRetrain then s.setLnk (s.lnk.train port) else s

/-! Flits -/

/-- Whether a flit is an intact CTRL flit of a subtype (R314, R316, R317). -/
def isCtrl (sub : Nat) (bs : List Byte) : Bool :=
  flitCrcOk bs && flitType (flitHeader bs) == 5 && fieldAt (flitPayload bs) 0 1 == sub

/-- A CTRL flit is received (R307, R318): the codewords that end with it are counted, its ACK acts, then what it carries, where the port has come so
far that it acts on that. -/
def State.onCtrl (s : State) (i sub : Nat) (bs : List Byte) (fec : List Nat) (ok : Port → Bool) (f : Lnk → List Byte → Lnk) : Res :=
  s.onPort i fun p =>
    if isCtrl sub bs && p.flits then s.setLnk ((s.lnk.setPort i (p.countFec fec)).receive i bs (if ok p then f else fun l _ => l)) else s

/-- CAP (R312, R313). -/
def execCap (port : Nat) (flit : List Byte) (fec : List Nat) (s : State) : Res :=
  s.onCtrl port 5 flit fec Port.flits fun l pl => l.onCap port pl

/-- PROBE (R311): without a time it is the partner's and is echoed; with one it is the echo of an own probe. -/
def execProbe (port : Nat) (flit : List Byte) (fec : List Nat) (echoNs : Option Nat) (s : State) : Res :=
  s.onCtrl port 6 flit fec Port.flits fun l pl => l.onProbe port pl echoNs

/-- NAK (R318, R319). -/
def execNak (port : Nat) (flit : List Byte) (fec : List Nat) (s : State) : Res :=
  s.onCtrl port 1 flit fec (fun p => p.state == .up) fun l pl => l.onNak port pl

/-- CREDIT (R316, R321). -/
def execCredit (port : Nat) (flit : List Byte) (fec : List Nat) (s : State) : Res :=
  s.onCtrl port 2 flit fec (fun p => p.state == .up) fun l pl => l.onCredit port pl

/-- TIME_REQ (R328): any port in UP answers; the stamps are the cluster time of the command. -/
def execTimeReq (port : Nat) (flit : List Byte) (fec : List Nat) (s : State) : Res :=
  s.onCtrl port 3 flit fec (fun p => p.state == .up) fun l pl => l.onTimeReq port pl s.tmr.t64

/-- A jump of the count is allowed outside ARMED, STEPPING and DRAINING (R366). -/
def Dev.jumps (d : Dev) : Bool := d != .armed && d != .stepping && d != .draining

/-- TIME_RESP (R329, R370, R371): its results go to the port's registers and, on the source port, to the servo. -/
def execTimeResp (port : Nat) (flit : List Byte) (fec : List Nat) (s : State) : Res :=
  s.onPort port fun p =>
    if isCtrl 4 flit && p.flits then
      let s := s.setLnk ((s.lnk.setPort port (p.countFec fec)).receive port flit fun l _ => l)
      match (if p.state = .up then s.lnk.timeResult port (flitPayload flit) s.tmr.t64 else none) with
      | none => s
      | some (o, d) =>
        let off := halfReg true o s.freeW
        let s := (s.setLnk (s.lnk.onTimeResp port off (halfReg false d (Config.freeWord (s.free + 1))))).drawn 2
        if s.tmr.source = 2 && s.tmr.port.toNat = port then
          (s.setTmr (s.tmr.linkMeasure s.ctl.state.jumps p.period.toNat off.toInt s.freeW)).drawn
        else s
    else s

/-- LINK_FLIT_RECEIVE (R307, R315 to R318, R321): every flit but the CTRL flits that R316 lists and ABORT, which are commands of their own. A flit
whose CRC fails is recorded as a corrected LINK fault (R521, R524); what arrives before UP is only counted, and a CTRL flit of another subtype only
brings its ACK. -/
def execLinkFlitReceive (port : Nat) (flit : List Byte) (fec : List Nat) (s : State) : Res :=
  s.onPort port fun p =>
    let ok := flitCrcOk flit
    let t := flitType (flitHeader flit)
    let sub := fieldAt (flitPayload flit) 0 1
    if !p.flits || (ok && ((t == 5 && decide (1 ≤ sub ∧ sub ≤ 6)) || t == 6)) then s
    else
      let l := s.lnk.setPort port (p.countFec fec)
      if ok && isSequenced t && p.state != .up then s.setLnk l
      else
        let s := s.setLnk (l.receive port flit fun l _ => l)
        if ok then s else s.report { cls := .link, sev := .corrected, unit := port }

/-- ABORT (R307, R318, R331): a sequenced flit that ends the packet before it and is forwarded after it; before UP it is only counted. -/
def execAbort (port : Nat) (flit : List Byte) (fec : List Nat) (s : State) : Res :=
  s.onPort port fun p =>
    if flitCrcOk flit && flitType (flitHeader flit) == 6 && p.flits then
      let l := s.lnk.setPort port (p.countFec fec)
      s.setLnk (if p.state = .up then l.receive port flit fun l _ => l else l)
    else s

/-- RESEND_TIMER_EXPIRY (R318, R319). -/
def execResendTimerExpiry (port : Nat) (s : State) : Res := s.onPort port fun _ => s.setLnk (s.lnk.onResendTimer port)

/-- IDLE_FLIT_SEND (R318). -/
def execIdleFlitSend (port : Nat) (s : State) : Res :=
  s.onPort port fun p => if p.flits then s.setLnk (s.lnk.sendCtrl port 0 []) else s

/-- CREDIT_FLIT_SEND (R316). -/
def execCreditFlitSend (port : Nat) (s : State) : Res :=
  s.onPort port fun p => if p.state = .up then s.setLnk (s.lnk.sendCredit port) else s

/-- TIME_REQ_SEND (R328). -/
def execTimeReqSend (port : Nat) (s : State) : Res :=
  s.onPort port fun p => if p.state = .up && p.ttEn then s.setLnk (s.lnk.sendTimeReq port s.tmr.t64) else s

/-! Losses -/

/-- A lane of a port in UP fails and takes its port down (R330, R331); the record names physical lane 4p + i (R333, R540, log entry 146). -/
def State.laneFails (s : State) (port lane reason : Nat) : Res :=
  s.onPort port fun p => if p.state = .up then s.setLnk (s.lnk.toDown port reason) (4 * port + lane) else s

/-- LANE_SIGNAL_LOSS, ALIGNMENT_LOSS and LOCK_LOSS (R330) on a lane. -/
def execLaneSignalLoss (port : Nat) (lane : BitVec 2) (s : State) : Res := s.laneFails port lane.toNat 1
def execAlignmentLoss (port : Nat) (lane : BitVec 2) (s : State) : Res := s.laneFails port lane.toNat 2
def execLockLoss (port : Nat) (lane : BitVec 2) (s : State) : Res := s.laneFails port lane.toNat 3

/-- VC_STALL (R325, R521): the port is the one whose credits the head waits for, with the VC it is to leave on. -/
def execVcStall (port : Nat) (vc : BitVec 3) (s : State) : Res :=
  .next (if !s.ctl.state.awake || 13 ≤ port then s else
    match s.lnk.stalled port vc.toNat with
    | none => s
    | some (o, v) =>
      (s.setLnk (s.lnk.setPort o { s.lnk.port.at o with vcStall := true })).report
        { cls := .link, sev := .contained, unit := o, sub := v, detail := (s.lnk.port.at o).downReason.toNat })

/-! The router -/

/-- Whether the route table is read for the front head of an input (R324). -/
def Lnk.looks (l : Lnk) (i vc : Nat) : Bool :=
  (l.wanted i vc).isNone && (l.frontHead i vc).any fun h => headDst h != l.nodeId.toNat && decide (headHops h + 1 < 32)

/-- PACKET_ROUTE (R323, R324, R483, R521): port 12 is the local port. A MAIL_SEND completes when its head leaves, or with ADDRESS when it is dropped
here. A parity error of the route table, a table of the chip, is a CONTROL fault of the chip; the packet stays. -/
def execPacketRoute (port : Nat) (vc : BitVec 3) (parity : Bool) (s : State) : Res :=
  .next (if !s.ctl.state.awake then s
    else if parity && s.lnk.looks port vc.toNat then s.report { cls := .control, sev := .chip, detail := 1 }
    else if port < 12 then s.setLnk (s.lnk.routeRx port vc.toNat)
    else if port = 12 then
      let r := s.lnk.routeLocal vc.toNat
      let s := s.setLnk r.1
      match r.2 with
      | some (x, left) =>
        match x.entry with
        | some e => s.complete e (if left then .success else .address)
        | none => s
      | none => s
    else s)

/-- Message types the exchange and the shard transfer define (R345). -/
def xTypes : List Nat := [0x01, 0x02, 0x03, 0x04, 0x05, 0x06, 0x50, 0x51, 0x52, 0x53, 0x54]

/-- A packet is discarded at the local port (R327). -/
def State.badMsg (s : State) : State := s.setLnk { s.lnk with badMsg := true, dropCnt := satAdd s.lnk.dropCnt 1 }

/-- PACKET_DELIVER (R327, R345, R483): the oldest packet of the local port is delivered by its MSG. -/
def execPacketDeliver (s : State) : Res :=
  .next (match s.lnk.localQ with
    | [] => s
    | k :: rest =>
      if !s.ctl.state.live then s else
      let s := s.setLnk { s.lnk with localQ := rest }
      if xTypes.contains k.msg then { s with gx := { s.gx with inbox := s.gx.inbox ++ [parseX k.msg k.payload] } }
      else if k.msg = 0x40 then
        let o := fieldAt k.payload 0 2
        if 16384 ≤ o then s.badMsg else s.syncOp o (.signal (BitVec.ofNat 32 (fieldAt k.payload 4 4)))
      else if 0x80 ≤ k.msg then
        { s with hif := s.hif.mailbox s.hci { node := k.src, msg := k.msg, bytes := (k.flits.headD []).take 8 ++ k.payload } }
      else s.badMsg)

end Sys2Proof.Machine
end

