-- ==== Sys2Proof/Machine/MemoryExec.lean ====
section
/-! DEFINITION. Correction in place, patrol scrub and the check-value unit (R454 to R463). -/

namespace Sys2Proof.Machine

/-- ECC_WRITE_BACK (R454): the corrected unit is written back. The bytes of the model are the corrected ones, so none changes. -/
def execEccWriteBack (_place : Nat) (s : State) : Res := .next s

/-- The patrol scrubbers run while power is on, in a warm reset too, but not before the memory is zeroed (R456, R457, R565). -/
def State.scrubbing (s : State) (f : State → State) : Res := .next (if s.ctl.state.awake && !s.memr.initBusy then f s else s)

/-- PATROL_SCRUB_READ (R454, R455, R457): scrubber i reads its next unit. -/
def execPatrolScrubRead (i : BitVec 4) (ecc : Ecc) (s : State) : Res :=
  s.scrubbing fun s =>
    let n := i.toNat
    let pos := (s.memr.scrub.at n).pos
    if !s.memr.scrubOn n || s.memr.scrubBytes n ≤ pos then s
    else
      let k := s.memr.scrubPlace n
      let r := (s.eccRead ((List.range (eccBytes k)).map (· + k)) ecc 1 false false).1
      { r with memr := { r.memr with scrub := r.memr.scrub.put n { r.memr.scrub.at n with pos := pos + eccBytes k } } }

/-- SCRUB_PASS_COMPLETE (R457, R458): every unit of the stack or channel has been read. -/
def execScrubPassComplete (i : BitVec 4) (late : Bool) (s : State) : Res :=
  s.scrubbing fun s =>
    let n := i.toNat
    if s.memr.scrubOn n && s.memr.scrubBytes n ≤ (s.memr.scrub.at n).pos then { s with memr := s.memr.scrubPass n late } else s

/-- SUBMIT and POP (R462, R465): a write of MEM_CRC_CTRL. -/
def execSubmit (v : W32) (s : State) : Res := s.host fun s => { s with memr := s.memr.crcWrite v }
def execPop (v : W32) (s : State) : Res := s.host fun s => { s with memr := s.memr.crcWrite v }

/-- CRC_JOB_START (R462). -/
def execCrcJobStart (s : State) : Res := s.host fun s => { s with memr := s.memr.crcStart }

/-- CRC_JOB_COMPLETE (R460 to R463, R542): the scan reads what it has not yet passed, and the job ends. -/
def execCrcJobComplete (ecc : Ecc) (s : State) : Res :=
  s.host fun s =>
    match s.memr.running with
    | none => s
    | some j => s.crcScan j (j.len.toNat - s.memr.scanPos) ecc

end Sys2Proof.Machine
end

