-- ==== Sys2Proof/Machine/MeshExec.lean ====
section
/-! DEFINITION. Hops, ejection and edge credits of the mesh (R57 to R60, R119 to R127). -/

namespace Sys2Proof.Machine

/-- A MESH fault found at a tile (R521). -/
def meshReport (t : Nat) (sev : Sev) (injected : Bool) : Report :=
  { cls := .mesh, sev := sev, level := 1, unit := t, fenced := sev == .contained, abandon := sev == .contained, injected := injected, tile := some t }

/-- A flit or message is dropped at a tile's port and counted (R123). -/
def Fab.dropped (f : Fab) (t port : Nat) : Fab := f.modPort t port fun p => { p with dropped := satAdd p.dropped 1 }

/-- A header or message check that fails at a tile's port (R123): dropped, counted and recorded. -/
def State.dropAt (s : State) (t port : Nat) (injected : Bool) : State :=
  ({ s with fab := (s.fab.dropped t port).modTile t fun r => { r with hdrChk := true } }).report (meshReport t .contained injected)

/-- Words delivered poisoned through a port are counted (R123, R131). -/
def Fab.countWords (f : Fab) (t port : Nat) (ws : List (BitVec 4)) : Fab :=
  if 4 ≤ port then f else f.modPort t port fun e => { e with poisoned := satAdd e.poisoned ws.eraseDups.length }

/-- FLIT_HOP (R58, R119, R123, R126, R127, R542): the flit the neighbour sends through its facing port arrives at `tile` through `port`. A dropped
one gives its hop credit back; the words in error travel on to the ejection, which delivers them poisoned. `aged`: a VC 6 flit there has waited 64
ticks. -/
def execFlitHop (tile : BitVec 8) (port : BitVec 2) (fault : HopFault) (aged : Bool) (s : State) : Res :=
  .next (match s.img, neighbour tile.toNat port.toNat with
    | some im, some n =>
      let t := tile.toNat
      let p := port.toNat
      match s.fab.arbitrate im n (facing p) aged with
      | none => s
      | some (q, fl) =>
        let f := s.fab.depart im n (facing p) q fl
        let enter := fun (f : Fab) (fl : Flit) => { f with bufs := f.bufs.mod ((t * 4 + p) * 8 + fl.vc) fun l => l ++ [fl] }
        match f.takeInject n 5, fault with
        | some g, _ => { s with fab := g.returnHop t p fl.vc }.dropAt t p true
        | none, .header => { s with fab := f.returnHop t p fl.vc }.dropAt t p false
        | none, .kind => { s with fab := (f.returnHop t p fl.vc).dropped t p }
        | none, .payload ws =>
          ({ s with fab := enter f { fl with poison := true, words := fl.words ++ ws } }).report (meshReport t .contained false)
        | none, _ => { s with fab := enter f fl }
    | _, _ => s)

/-- The payload of an ejected flit lands (R121, R123): at the flit's place in its edge's buffer; a descriptor goes to its slot, not to SRAM. -/
def Fab.land (im : Image) (m : Mem) (t : Nat) (fl : Flit) (poison : Bool) : Mem :=
  if fl.use == .descriptor then m else
  let r := (im.edge? fl.edge).getD default
  let ks := (List.range fl.bytes.length).map fun i => im.sramPlace' t (r.placeOff fl.place + fl.index * 128 + i)
  if poison then m.writePoison ks else m.write (ks.zip fl.bytes)

/-- A device write has arrived at its slot (R56). -/
def Fab.loaded (im : Image) (f : Fab) (t : Nat) (fl : Flit) : Fab :=
  let k := if fl.use == .descriptor then fl.edge else ((im.edge? fl.edge).getD default).consSlot
  { f with loads := f.loads.mod (16 * t + k) (· - 1) }

/-- The flit of an image's block has arrived; the one that carries the token is checked (R124). -/
def State.arrive (s : State) (im : Image) (t : Nat) (fl : Flit) : State :=
  let r := (im.edge? fl.edge).getD default
  let x := s.fab.edge fl.edge
  let seen := if (x.arrived.at fl.place).contains fl.index then x.arrived.at fl.place else x.arrived.at fl.place ++ [fl.index]
  let s := { s with fab := s.fab.setEdge fl.edge { x with arrived := x.arrived.put fl.place seen } }
  if !fl.last then s
  else if fl.place = x.expect && seen.length = flitCount r.blockBytes then { s with fab := s.fab.token im fl.edge true }
  else ({ s with fab := (s.fab.token im fl.edge false).modTile t fun r => { r with placeMismatch := true } }).report (meshReport t .contained false)

/-- FLIT_EJECT (R97, R120, R123, R124): the flit the tile's ejection takes lands. -/
def execFlitEject (tile : BitVec 8) (fault : HopFault) (aged : Bool) (s : State) : Res :=
  .next (match s.img with
    | none => s
    | some im =>
      let t := tile.toNat
      match s.fab.arbitrate im t 4 aged with
      | none => s
      | some (q, fl) =>
        let f := s.fab.depart im t 4 q fl
        match fault with
        | .header => if q < 4 then { s with fab := f }.dropAt t q false else { s with fab := f }
        | .kind => { s with fab := if q < 4 then f.dropped t q else f }
        | _ =>
          let ws := match fault with | .payload ws => ws | _ => []
          let s := { s with mem := Fab.land im s.mem t fl (fl.poison || !ws.isEmpty), fab := f.countWords t q (fl.words ++ ws) }
          let s := match fault with
            | .single => s.report (meshReport t .corrected false)
            | .payload _ => s.report (meshReport t .contained false)
            | _ => s
          (if fl.use = .data then s.arrive im t fl else { s with fab := s.fab.loaded im t fl }).noteReady [t])

/-- The place a firing in progress has read for the last time is freed before its end, where no verdict holds it (R111). -/
def State.lastRead (s : State) (im : Image) (e : Nat) : State :=
  let r := (im.edge? e).getD default
  match s.fab.firing? r.consTile r.consSlot with
  | none => s
  | some x =>
    let d := im.descAt x.desc
    if x.freed.contains e || !d.inEdges.contains e || x.phase == .verdict then s
    else { s with fab := (s.fab.setFiring { x with freed := x.freed ++ [e] }).freeInput im e }

/-- TILE_CREDIT_SEND (R111, R122, R125): the credits queued for an edge are offered to the control lane in one message of up to 64, which those
queued while its output is busy join. With none queued, the command is the last read of the edge's place by a firing in progress; an edge within a
tile passes it internally. -/
def execTileCreditSend (tile : BitVec 8) (edge : BitVec 20) (s : State) : Res :=
  .next (match s.img with
    | none => s
    | some im =>
      match im.edge? edge.toNat with
      | none => s
      | some r =>
        if r.consTile ≠ tile.toNat then s else
        let s := if (s.fab.edge edge.toNat).queued = 0 then s.lastRead im edge.toNat else s
        let x := s.fab.edge edge.toNat
        let own := s.fab.ctl.at (5 * r.consTile + 4)
        if x.queued = 0 || own.any (fun m => m.edge == edge.toNat) then s.noteReady [tile.toNat] else
        let n := min 64 x.queued
        let m : CtlMsg := { edge := edge.toNat, count := n, src := r.consTile, dst := r.prodTile, yFirst := (im.routes.getD r.creditRoute default).yFirst }
        let f := s.fab.setEdge edge.toNat { x with queued := x.queued - n }
        { s with fab := { f with ctl := f.ctl.put (5 * r.consTile + 4) (own ++ [m]) } })

/-- TILE_CREDIT_MESSAGE (R60, R119, R122, R123, R126): the control message the neighbour sends through its facing port arrives at `tile` through
`port`: at its producer it adds its credits, elsewhere it enters the port's buffer of the control lane, or it fails a check and is dropped. -/
def execTileCreditMessage (tile : BitVec 8) (port : BitVec 2) (fault : HopFault) (s : State) : Res :=
  .next (match neighbour tile.toNat port.toNat with
    | none => s
    | some n =>
      let t := tile.toNat
      let p := port.toNat
      match s.fab.chooseCtl n (facing p) with
      | none => s
      | some (q, m) =>
        let f := s.fab.departCtl n (facing p) q m
        match fault with
        | .header => { s with fab := f.returnHop t p 8 }.dropAt t p false
        | .kind => { s with fab := (f.returnHop t p 8).dropped t p }
        | _ =>
          if m.dst = t then
            ({ s with fab := (f.returnHop t p 8).setEdge m.edge { f.edge m.edge with credits := (f.edge m.edge).credits + m.count } }).noteReady [t]
          else { s with fab := { f with ctl := f.ctl.mod (5 * t + p) fun l => l ++ [m] } })

end Sys2Proof.Machine
end

