-- ==== Sys2Proof/Machine/MonitorExec.lean ====
section
/-! DEFINITION. Watchdogs, heartbeat, lockstep and PLL faults (R521, R522); SIGNAL and TAKE of tiles at their objects' homes (R37, R116 to R118). -/

namespace Sys2Proof.Machine

/-- Whether what the watchdog found can stand on a tile (R522). -/
def State.watched (s : State) (im : Image) (t : Nat) : Watch → Bool
  | .firing => s.fab.firings.any fun x => x.tile == t
  | .place => s.fab.edges.any fun p => ((im.edge? p.1).getD default).consTile == t && !p.2.arrived.isEmpty
  | .drop => s.fab.firings.any fun x => x.tile == t && [6, 7, 9].contains (im.descAt x.desc).cls
  | .parity => true

/-- Detail of a CONTROL record (R540). -/
def Watch.detail : Watch → Nat
  | .parity => 1 | .firing => 2 | .place => 3 | .drop => 4

/-- TILE_WATCHDOG_EXPIRY (R521, R522): fenced and halted tiles are exempt from the watchdog, not from parity. -/
def execTileWatchdogExpiry (tile : BitVec 8) (detail : Watch) (s : State) : Res :=
  .next (match s.img with
    | none => s
    | some im =>
      let t := tile.toNat
      if (detail ≠ .parity && s.fab.held t) || !s.watched im t detail then s
      else s.report { cls := .control, sev := .contained, level := 1, unit := t, detail := detail.detail, fenced := true
                      abandon := s.adm.running, tile := some t })

/-- HEARTBEAT_TIMEOUT (R521, R522, R525): the chip controller misses a region manager's heartbeat, or the manager finds a parity error in itself. -/
def execHeartbeatTimeout (region : BitVec 4) (parity : Bool) (s : State) : Res :=
  .next (s.report { cls := .control, sev := .contained, level := 2, unit := region.toNat, detail := if parity then 1 else 5, fenced := true, abandon := s.adm.running })

/-- LOCKSTEP_MISMATCH (R521, R537): a MGMT fault, whose record carries IMG_LOST. -/
def execLockstepMismatch (s : State) : Res :=
  .next (s.report { cls := .mgmt, sev := .chip, imgLost := true })

/-- PLL_LOCK_LOSS (R521). -/
def execPllLockLoss (_pll : Nat) (s : State) : Res := .next (s.report { cls := .railClock, sev := .chip })

/-- SIGNAL (R33, R37, R116, R117, R521): message i reaches its object's home; a fenced tile's waits, since the arbiter grants it nothing. -/
def execSignal (i : Nat) (parity : Bool) (s : State) : Res :=
  .next (match s.sync.msgs[i]? with
    | some (.signal o n t) =>
      if s.fab.fenced.contains t then s else
      let s := { s with sync := { s.sync with msgs := s.sync.msgs.eraseIdx i } }
      (s.parityAt o parity).syncOp o (.signal (BitVec.ofNat 32 n))
    | _ => s)

/-- TAKE (R33, R116 to R118, R521): message i joins its object's FIFO; a fenced tile's waits. -/
def execTake (i : Nat) (parity : Bool) (s : State) : Res :=
  .next (match s.sync.msgs[i]? with
    | some (.take o v t k) =>
      if s.fab.fenced.contains t then s else
      (({ s with sync := { s.sync with msgs := s.sync.msgs.eraseIdx i } }).parityAt o parity).syncOp o (.take (.slot t k) (BitVec.ofNat 32 v))
    | _ => s)

end Sys2Proof.Machine
end

