-- ==== Sys2Proof/Machine/SecurityExec.lean ====
section
/-! DEFINITION. Provisioning, fuse blows, export keys, alarm sources and debug (R494 to R515). -/

namespace Sys2Proof.Machine

/-- A write of SEC_PROV_CTRL. -/
def State.writeProv (s : State) (v : W32) : State := { s with sec := s.sec.writeProvCtrl (s.ctl.state == .ready) v }
/-- PROV_GO (R499, R515). -/
def execProvGo (v : W32) (s : State) : Res := s.host fun s => s.writeProv v
/-- PROV_LOCK (R500). -/
def execProvLock (v : W32) (s : State) : Res := s.host fun s => s.writeProv v
/-- EXPORT_KEY_COMMIT (R506): a write of SEC_EXP_KEY7. -/
def execExportKeyCommit (v : W32) (s : State) : Res := s.host fun s => { s with sec := s.sec.writeExpKey 7 v }
/-- EXPORT_KEY_CLEAR (R506): a write of SEC_EXP_CTRL. -/
def execExportKeyClear (v : W32) (s : State) : Res := s.host fun s => { s with sec := s.sec.writeReg false 0x10 v }

/-- The security controller runs: it samples its sources and blows fuses outside OFF and RESET (R498, R511). -/
def Dev.guarded (d : Dev) : Bool := match d with | .off | .reset => false | _ => true

/-- A run of blows is over (R499, R503): in ALARM it only stops (R515). -/
def State.blowDone (s : State) (ok : Bool) : State :=
  if s.ctl.state = .alarm then s
  else match s.sec.blowFor with
  | .prov => { s with sec := if ok then { s.sec with provDone := true } else { s.sec with provErr := true, err := 4 } }
  | .rollback e c => if ok then s.complete e .success 0 (BitVec.ofNat 64 (arbValue s.sec.fuses c)) else s.complete e .fault

/-- FUSE_BIT_BLOW (R499, R503): `ok` says the bit read back as set; one that does not ends the run. -/
def execFuseBitBlow (ok : Bool) (s : State) : Res :=
  .next (match s.sec.blow with
    | [] => s
    | i :: rest =>
      if !s.ctl.state.guarded then s
      else if ok then
        let s := { s with sec := { s.sec.setFuse i with blow := rest } }
        if rest.isEmpty then s.blowDone true else s
      else ({ s with sec := { s.sec with blow := [] } }).blowDone false)

/-- FUSE_INTEGRITY_CHECK (R498, R511): the array is read with the bits `flips` inverted. -/
def execFuseIntegrityCheck (flips : List Nat) (s : State) : Res :=
  .next (if s.ctl.state.guarded
      && fuseFails s.sec.held (flips.foldl (fun (f : Sparse Bool) i => if i < 4096 then f.put i (!f.at i) else f) s.sec.fuses)
    then s.alarm .fuse else s)

/-- TAMPER (R511): TAMPER_N low for `ns`; `held`: it stays low. -/
def execTamper (ns : Nat) (held : Bool) (s : State) : Res :=
  let s := { s with pins := { s.pins with tamperLow := held && decide (100 ≤ ns) } }
  .next (if s.ctl.state.guarded && decide (100 ≤ ns) then s.alarm .tamper else s)

/-- ALARM_FUSE_BLOW (R512, R515). -/
def execAlarmFuseBlow (s : State) : Res := .next (if s.ctl.state = .alarm then { s with sec := s.sec.alarmBlow } else s)

/-- DEBUG_INTRUSION (R508, R511). -/
def execDebugIntrusion (s : State) : Res := .next (if s.ctl.state.guarded && debugDis s.sec.fuses then s.alarm .debug else s)

/-- DEBUG_SESSION (R509, R510). -/
def execDebugSession (s : State) : Res :=
  .next (if s.ctl.state.guarded && !debugDis s.sec.fuses && !s.sec.debugSeen then
      { s with sec := { s.sec.eraseKeys with debugSeen := true } } else s)

end Sys2Proof.Machine
end

