-- ==== Sys2Proof/Machine/PowerExec.lean ====
section
/-! DEFINITION. Power, temperature, rails and clocks (R545 to R555). -/

namespace Sys2Proof.Machine

/-- The monitors run while power is on (R545). -/
def State.powered (s : State) (f : State → State) : Res := .next (if s.ctl.state = .off then s else f s)

/-- POWER_SAMPLE (R549 to R552): a draw above 1,200 W for 1 ms is a RAIL_CLOCK fault. -/
def execPowerSample (w : Nat) (s : State) : Res :=
  s.powered fun s =>
    let p := s.pwr.sample w
    let s := { s with pwr := p }
    if p.overRated then s.report { cls := .railClock, sev := .chip } else s

/-- The 16 regions' process monitors are read (R28, R545): what a ring oscillator counts in 1 µs measures the silicon and is a FREE VALUE. -/
def State.sampleOscillators (s : State) : State :=
  { s with pwr := { s.pwr with pmon := (List.range 16).foldl (fun p g => p.put g ((Config.freeWord (s.free + g)).setWidth 24)) s.pwr.pmon }
           free := s.free + 16 }

/-- POWER_CONTROL_PERIOD (R549, R550); the period of 1 ms is also the process monitors' (R545, log entry 96). -/
def execPowerControlPeriod (p : Period) (s : State) : Res :=
  s.powered fun s =>
    let s := { s with pwr := s.pwr.period p }
    if p = .ms1 then s.sampleOscillators else s

/-- TEMP_SAMPLE (R511, R545, R553, R554): an alarm condition governs over a trip. -/
def execTempSample (sensor : BitVec 7) (valid : Bool) (t : BitVec 16) (s : State) : Res :=
  s.powered fun s =>
    let k := sensor.toNat
    if 77 ≤ k then s else
    let p := s.pwr.tempSample k valid t
    let s := { s with pwr := p }
    if tempAlarm k valid t && s.ctl.state.guarded then s.alarm .temp
    else if p.tripped k then s.enterReset Source.therm.mask
    else s

/-- THERMAL_THROTTLE_STEP (R553): the 1 ms step up or the 100 µs step down. -/
def execThermalThrottleStep (ms : Bool) (s : State) : Res := s.powered fun s => { s with pwr := s.pwr.thermalStep ms }

/-- DROOP_TRIP (R548): a rail of R546; on VDD_CMP, a region of that compute die. -/
def execDroopTrip (rail : BitVec 4) (region : BitVec 4) (s : State) : Res :=
  s.powered fun s =>
    let r := rail.toNat
    if 12 < r || (r ≤ 3 && region.toNat / 4 != r) then s else { s with pwr := s.pwr.droopTrip r region.toNat }

/-- DROOP_GATE_END (R548). -/
def execDroopGateEnd (region : BitVec 4) (s : State) : Res :=
  s.powered fun s => { s with pwr := { s.pwr with gate := s.pwr.gate.put region.toNat false } }

/-- RAIL_SAMPLE (R511, R521, R546): outside its glitch window the alarm governs. -/
def execRailSample (rail : BitVec 4) (mv : BitVec 16) (s : State) : Res :=
  s.powered fun s =>
    let r := rail.toNat
    if 12 < r then s else
    let s := { s with pwr := s.pwr.railSample r mv.toNat }
    if railGlitch r mv.toNat && s.ctl.state.guarded then s.alarm .vglitch
    else if railOut r mv.toNat then s.report { cls := .railClock, sev := .chip }
    else s

/-- CGLITCH (R511). -/
def execCglitch (s : State) : Res := .next (if s.ctl.state.guarded then s.alarm .cglitch else s)

end Sys2Proof.Machine
end

