-- ==== Sys2Proof/Machine/TileExec.lean ====
section
/-! DEFINITION. Firings of a tile: start, memory return, verdict, end, the stem engine, the sampler, slot loads (R56, R86 to R118, R128 to R130, R172 to R175, R231, R237 to R239, R263, R283). -/

namespace Sys2Proof.Machine

/-- Places of the block at the read place of an input edge (R110, R121). -/
def Image.readPlaces (im : Image) (f : Fab) (t e : Nat) : List Nat :=
  let r := (im.edge? e).getD default
  (List.range r.blockBytes).map fun i => im.sramPlace' t (r.placeOff (f.edge e).rd + i)

/-- Spans of tile SRAM a firing reads beside its edges: offset and bytes (R98, R212, R219, R229, R232). -/
def Image.sramSpans (im : Image) (d : Desc) : List (Nat × Nat) :=
  if isArray d.cls then
    let p := d.arr
    let k := im.pairKind d.tile
    let f := if d.hadamard then Fmt.b16 else (Fmt.ofCode? d.fmtIn).getD .f32
    let n := if chained k d.cls then 2 else 1
    let size := panelBytes f (escFmt d.fmtIn d.escapes && !d.hadamard) p.rows 128
    let st := panelBytes ((Fmt.ofCode? d.fmtSt).getD .f32) (escFmt d.fmtSt d.escapes) 128 128
    (if !p.opSram then [] else if f.blockScaled then [(p.opOff * 64, n * size)]
      else (List.range p.rows).map fun r => (p.opOff * 64 + r * p.opStride * 64, n * rowBytes f 128))
      ++ (if p.stSram then [(p.stOff * 64, (if chained k d.cls || widened k d.cls then 2 else 1) * st)] else [])
  else
    let g := d.geom
    if d.cls = 4 then
      if d.op < 0x20 then (if vecAux d.op then [(d.vec.auxOff, vecAuxBytes d.vec d.op)] else [])
      else if d.op < 0x22 then [(d.par 44 4, 4 * g.c * ((d.par 63 1 % 16 + 1) * g.kh * g.kw))] else []
    else if d.cls = 5 then [(d.par 44 4, g.inputBytes)]
    else if d.cls = 9 then [(d.par 44 4, 2 * d.par 48 2 * (g.c * g.kh * g.kw))] else []

/-- Every place of tile SRAM a firing reads. -/
def Image.firePlaces (im : Image) (f : Fab) (t : Nat) (d : Desc) : List Nat :=
  d.inEdges.flatMap (im.readPlaces f t) ++ (im.sramSpans d).flatMap fun r => (List.range r.2).map fun i => im.sramPlace' t (r.1 + i)

/-- How a port of a descriptor converts in a firing (R150, R153, R156, R157). -/
def State.portConv (s : State) (im : Image) (d : Desc) (port code : Nat) (c : RndCtx) : Conv :=
  let site := im.site? d port
  let r := site.bind fun k => im.num.sites[k]?
  { fmt := (Fmt.ofCode? code).getD .f32, escapes := d.escapes
    cap := ((site.bind fun k => r.bind fun x => siteCap x (s.sites.at k))).getD 254
    word := match site with
      | some k => if (r.map (·.grad)).getD false then some (c.siteWord k) else none
      | none => if code = 3 then some (c.siteWord 0xFFFF) else none }

/-- Reserved W2 codes a VECTOR firing reads, by the site of the tensor: that of the input's producer (R138). -/
def Image.w2Reads (im : Image) (d : Desc) (ins : List (List Byte)) : List (Nat × Nat) :=
  d.readShapes.filterMap fun x =>
    match im.producer? (d.inAt x.1) with
    | none => none
    | some i =>
      let p := im.descAt i
      if p.fmtOut ≠ 9 then none
      else some ((im.site? p 0).getD unboundSite, (w2Places p.escapes x.2.1 x.2.2 (ins.getD x.1 [])).length)

/-- Row r of a firing's first output decoded back to F32 (R174). -/
def Image.spoonRow (im : Image) (d : Desc) (o : FireOut) (r : SpoonRow) : List F32 :=
  let p := d.arr
  if !p.last then r.y else
  let n := if widened (im.pairKind d.tile) d.cls then 2 else 1
  let f := (Fmt.ofCode? d.fmtOut).getD .f32
  let esc := escFmt d.fmtOut d.escapes
  let bs := o.outs.headD []
  let size := bs.length / n
  (List.range n).flatMap fun h =>
    let b := (bs.drop (h * size)).take size
    if p.transpose.getD 0 false then (decodeRows f esc 128 p.rows b).map fun col => col.getD r.row 0
    else (decodeRows f esc p.rows 128 b).getD r.row []

/-- The reference stationary of a firing (R173, R215): the B16 panel of ref_region at the firing's number (log entry 37), else the decoded one. -/
def Image.spoonWeights (im : Image) (m : Mem) (d : Desc) (num : Nat) (o : FireOut) (ref' : Nat) : List (List F32) :=
  if ref' = none32 then o.stationary else
  let k := im.pairKind d.tile
  let panels := if chained k d.cls || widened k d.cls then 2 else 1
  let size := im.regionSize ref'
  o.stationary.zipIdx.map fun (row, c) => row.zipIdx.map fun (_, n) =>
    let j := if chained k d.cls then c / 128 else n / 128
    let pos := if d.cls = 1 then c % 128 * 128 + n % 128 else n % 128 * 128 + c % 128
    let off := ((num * panels + j) * 32768 + 2 * pos) % max size 1
    if d.arr.kValid ≤ c then 0 else f32Of (Fmt.b16.decode (leVal (im.regRead m ref' off 2)))

/-- Rows of a firing the sampler chooses (R172, R173). -/
def State.spoonJobs (s : State) (im : Image) (d : Desc) (c : RndCtx) (o : FireOut) : List SpoonJob :=
  match im.site? d 0 with
  | none => []
  | some k =>
    if !(isArray d.cls && d.spoon) then [] else
    let chosen := o.rows.filter fun r => c.spoonWord k r.row / 2 ^ (16 - im.num.spoonR) == 0
    let w := match chosen with | [] => [] | _ => im.spoonWeights s.mem d c.firing o (im.num.sites.getD k default).refRegion
    chosen.map fun r => { site := k, y := im.spoonRow d o r, x := r.x, w := w }

/-- One attempt of an array firing counts what it loads, stalls and streams (R93, R131), at the tile of its slot, a pair's lead, whichever array
of the pair they fall in (log entry 114). -/
def TileRegs.attempt (r : TileRegs) (x : Firing) : TileRegs :=
  { r with w2Rsv := satAdd r.w2Rsv x.w2, escStall := satAdd r.escStall x.stalls, busy := satAdd r.busy x.busy }

/-- The bytes of output block j: what the unit gives, else free values where the spec gives a unit's block no contents (log entry 39). -/
def State.outBlock (s : State) (im : Image) (d : Desc) (o : FireOut) (j e : Nat) : List Byte :=
  if d.cls = 6 then [] else
  match o.outs[j]? with
  | some bs => bs
  | none => freeBytes (s.free + j * 2 ^ 20) ((im.edge? e).getD default).blockBytes

/-- What a firing of a slot reads and how it converts (R110, R153). -/
def State.fireIn (s : State) (im : Image) (t k mb num : Nat) (d : Desc) (faults : List ArrayFault) : FireIn × RndCtx :=
  let c : RndCtx := { seed := im.num.seed, step := s.tmr.step.toNat, member := s.gx.rndMember, mb := mb, tile := t, slot := k, firing := num }
  ({ d := d, pair := im.pairKind t, ins := d.inEdges.map fun e => s.mem.read (im.readPlaces s.fab t e)
     inEsc := d.inEdges.map fun e => match im.producer? e with | some p => (im.descAt p).escapes | none => false
     sram := fun off n => s.mem.read ((List.range n).map fun b => im.sramPlace' t (off + b))
     port0 := s.portConv im d 0 d.fmtOut c, port1 := s.portConv im d 1 d.fmtIn c, faults := faults }, c)

/-- An attempt of a firing: what its unit gives goes into the firing's record (R110, R113). DESIGN CHOICE (log entry 37): the sampler's bytes of
ref_region are read here, at the attempt, not at the recomputation. -/
def State.attempt (s : State) (im : Image) (d : Desc) (x : Firing) (faults : List ArrayFault) : Firing × FireOut :=
  let i := s.fireIn im x.tile x.slot x.mb x.num d faults
  let o := fire i.1
  ({ x with outs := d.outEdges.zipIdx.map fun (e, j) => { edge := e, place := (s.fab.edge e).wr, bytes := s.outBlock im d o j e }
            counts0 := o.counts0, counts1 := o.counts1, reads := { o.reads with w2 := 0 }, w2s := im.w2Reads d i.1.ins
            w2 := o.w2, stalls := o.stalls, busy := o.busy, accLong := o.accLong, spoon := s.spoonJobs im d i.2 o, fail := o.fail
            sram := if d.cls = 7 then [(0, i.1.ins.headD [])] else o.sram.toList }, o)

/-- The array takes an attempt: its blocks are loaded, and its product streams or waits (R86, R87, R109); the tile counts it. -/
def Fab.takeAttempt (f : Fab) (d : Desc) (x : Firing) (o : FireOut) : Fab :=
  let f := f.modTile x.tile fun r => r.attempt x
  if isArray d.cls then f.modArray x.tile fun a => { a.accept x.slot o.banks with checks := o.checks } else f

/-- An injected flip that the next array firing meets in the array of its tile or of its pair's partner (R207, R542): the fabric without it, how many
attempts it fails, and whether it names the partner. -/
def State.injectFiring (s : State) (im : Image) (t : Nat) : Option (Fab × Nat × Bool) :=
  let tiles := (t, false) :: ((im.partner? t).map fun p => (p, true)).toList
  (tiles.flatMap fun u => [(u, 2), (u, 1)]).findSome? fun ((u, p), k) => (s.fab.takeInject u k).map fun f => (f, k, p)

/-- The start of a firing once its data is read clean (R109, R110, R113, R542); one with ABFT_OFF is counted, whatever its class (R113, R518). -/
def State.runFiring (s : State) (im : Image) (t k mb : Nat) (faults : List ArrayFault) : State :=
  let sl := s.fab.slot t k
  let d := im.descAt sl.desc
  let checked := isArray d.cls && !d.abftOff
  let inj := if checked then s.injectFiring im t else none
  let a := s.attempt im d
    { tile := t, slot := k, desc := sl.desc, mb := mb, num := sl.count
      q := if d.isMem && d.mem.perMb then sl.count else s.fab.q.at sl.desc
      phase := if checked then .verdict else if d.cls = 6 then .data else .send
      forced := match inj with | some y => y.2.1 | none => 0
      injected := inj.isSome, injPartner := match inj with | some y => y.2.2 | none => false } faults
  let off := d.abftOff
  let fab := (match inj with | some y => y.1 | none => s.fab).takeAttempt d a.1 a.2
  let fab := if off then fab.modTile t fun r => { r with abftOff := satAdd r.abftOff 1, abftOffSeen := true } else fab
  { s with fab := { fab with firings := fab.firings ++ [a.1] }, free := s.free + d.outEdges.length * 2 ^ 20
           flt := if off then { s.flt with abftOffStep := true } else s.flt }

/-- The reads of a firing meet an ECC outcome and poison marks: the state after them, and whether the firing stops (R114, R542). -/
def State.firingReads (s : State) (im : Image) (t : Nat) (d : Desc) (e : Ecc) : State × Bool :=
  let p := s.eccRead (im.firePlaces s.fab t d) e 0 true true placeAddr true
  (p.1, p.2 || d.inEdges.any (fun e => (s.fab.edge e).bad.contains (s.fab.edge e).rd))

/-- The start of a ready slot's firing (R109, R110): credits and the TAKE grant go, then its data is read. -/
def State.startFiring (s : State) (im : Image) (t k : Nat) (e : Ecc) (faults : List ArrayFault) : State :=
  let sl := s.fab.slot t k
  let d := im.descAt sl.desc
  let mb := (s.adm.nextMb im s.fab t k).getD 0
  let marked := (im.firePlaces s.fab t d).any s.mem.poisoned
  let fab := d.outEdges.foldl (fun (f : Fab) e => f.setEdge e { f.edge e with credits := (f.edge e).credits - 1 }) s.fab
  let s := { s with fab := fab.setSlot t k { sl with st := .running, taken := false } }
  let r := s.firingReads im t d e
  if r.2 then r.1.poisonStop t k marked else (r.1.runFiring im t k mb faults).noteUnit t d.cls

/-- Whether ready slot j of a tile goes before ready slot k on their unit: a higher priority, else ready earlier, else the lower number (R109). -/
def State.goesBefore (s : State) (im : Image) (t j k : Nat) : Bool :=
  let pr := fun (n : Nat) => (im.descAt (s.fab.slot t n).desc).priority
  let since := fun (n : Nat) => (indexOf (· == (t, n)) s.fab.readyLog).getD s.fab.readyLog.length
  decide (pr k < pr j) || (pr j == pr k && (decide (since j < since k) || (since j == since k && decide (j < k))))

/-- Whether a droop gate holds the issue of a class on a tile's region (R548, R555): array, vector, copier and stem; memory is not gated. -/
def State.gated (s : State) (t cls : Nat) : Bool := s.pwr.gate.at (regionOf t) && (isArray cls || cls == 4 || cls == 5 || cls == 9)

/-- FIRING_START (R109, R548): the ready slot of the unit that goes before all others. `streamed`: the last operand row of the product that streams
has entered before this tick (R95, R108). -/
def execFiringStart (tile : BitVec 8) (slot : BitVec 4) (e : Ecc) (streamed : Bool) (faults : List ArrayFault) (s : State) : Res :=
  .next (match s.img with
    | none => s
    | some im =>
      let t := tile.toNat
      let k := slot.toNat
      let d := im.descAt (s.fab.slot t k).desc
      let s' := if streamed && isArray d.cls then { s with fab := s.fab.modArray t ArrayRegs.streamed } else s
      let beaten := (List.range 16).any fun j =>
        unitOf (im.descAt (s.fab.slot t j).desc).cls == unitOf d.cls && s'.ready im t j && s'.goesBefore im t j k
      if d.cls ≠ 9 && !s.gated t d.cls && s'.ready im t k && !beaten then s'.startFiring im t k e faults else s)

/-- STEM_ENGINE_START (R109, R231, R548): the lowest tile id after the one served last, and of its ready STEM slots the one that goes before the others. -/
def execStemEngineStart (region : BitVec 4) (e : Ecc) (s : State) : Res :=
  .next (match s.img with
    | none => s
    | some im =>
      let g := region.toNat
      let tiles := (List.range 256).filter fun t => regionOf t == g
      let last := s.fab.stem.at g
      let order := (tiles.filter fun t => decide (last ≤ t)) ++ tiles.filter fun t => decide (t < last)
      let slots := fun (t : Nat) => (List.range 16).filter fun k => (im.descAt (s.fab.slot t k).desc).cls == 9 && s.ready im t k
      let best := fun (l : List Nat) (t : Nat) => l.find? fun k => l.all fun j => !s.goesBefore im t j k
      match if s.pwr.gate.at g then none else order.findSome? fun t => (best (slots t) t).map fun k => (t, k) with
      | some (t, k) => { s with fab := { s.fab with stem := s.fab.stem.put g (t + 1) } }.startFiring im t k e []
      | none => s)

/-! Memory classes -/

/-- Place of an offset of a region as a firing of micro-batch mb reads or writes it: stash pages (R256, R264), the bound generation of a compute
copy (R268), else the region itself. -/
def State.memPlace (s : State) (im : Image) (region mb : Nat) (restoring : Option Nat) (off : Nat) : Nat :=
  let r := (im.region? region).getD default
  if im.stashRegion? = some region then
    let p := s.adm.page im mb restoring (off / 65536)
    if p < im.stashPages then im.regPlace r (p * 65536 + off % 65536)
    else im.regPlace ((im.overflowRegion?.bind im.region?).getD default) ((p - im.stashPages) * 65536 + off % 65536)
  else if r.kind = 3 then
    match indexOf (fun (t : Tensor) => t.copy == region && decide (t.copyOff ≤ off) && decide (off < t.copyOff + 2 * t.slotBytes)) im.upd.tensors with
    | some ti =>
      let t := im.tensor ti
      let rel := (off - t.copyOff) % t.slotBytes
      let g := im.firstBlock ti + rel / t.panel
      im.regPlace r (t.copyOff + (s.upd.gen.at g).cur % 2 * t.slotBytes + rel)
    | none => im.regPlace r off
  else im.regPlace r off

/-- Every place of a memory firing, in block order (R238). -/
def State.memPlaces (s : State) (im : Image) (d : Desc) (x : Firing) : List Nat :=
  let m := d.mem
  let size := im.regionSize m.region
  let restoring := if im.isRestore x.desc then im.chainLayer? x.desc else none
  (List.range m.rows).flatMap fun i => (List.range (m.rowUnits * 64)).map fun b =>
    s.memPlace im m.region x.mb restoring (m.rowOff size x.q i + b)

/-- What a memory firing moves: the bytes given, but FREE VALUES where a host operation on a stash or trigger object has left the step's stash or
results undefined (R270, log entry 55): every block stored, and every block loaded from the stash. -/
def State.moved (s : State) (im : Image) (d : Desc) (bs : List Byte) : List Byte :=
  if s.adm.disturbed && (d.cls == 7 || im.namesStash d) then freeBytes s.free bs.length else bs

/-- Free values drawn for them. -/
def State.movedDraw (s : State) (n : Nat) : State := if s.adm.disturbed then s.drawn n else s

/-- MEMORY_DROP_RETURN (R33, R110, R114): the block of a MEM_LOAD has come back, poisoned where its tile is fenced. -/
def execMemoryDropReturn (tile : BitVec 8) (slot : BitVec 4) (e : Ecc) (s : State) : Res :=
  .next (match s.img, s.fab.firing? tile.toNat slot.toNat with
    | some im, some x =>
      if x.phase ≠ .data then s else
      let ks := s.memPlaces im (im.descAt x.desc) x
      let marked := ks.any s.mem.poisoned
      let p := s.eccRead ks e 0 true true im.addrOf
      if p.2 || s.fab.fenced.contains x.tile then p.1.poisonStop x.tile x.slot marked
      else
        let bs := s.moved im (im.descAt x.desc) (s.mem.read ks)
        State.movedDraw { p.1 with fab := p.1.fab.setFiring { x with phase := .send, outs := x.outs.map fun b => { b with bytes := bs } } } bs.length
    | _, _ => s)

/-- Whether the spec lets a MEM_STORE write nothing: a stash store of a layer dropped in its frame (R263). -/
def State.storeDropped (s : State) (im : Image) (d : Desc) (x : Firing) : Bool :=
  im.isStashStore x.desc && ((s.adm.frames.find? fun f => f.mb == x.mb).getD default).dropped.contains d.sigObj

/-- The result of a firing of a class that writes memory or its tile's SRAM (R98, R110, R238, R283). -/
def State.writeResult (s : State) (im : Image) (d : Desc) (x : Firing) : State :=
  match x.sram with
  | [] => s
  | (off, bs) :: _ =>
    if d.cls = 5 then { s with mem := s.mem.write (bs.zipIdx.map fun (b, i) => (im.sramPlace' x.tile (off + i), b)) }
    else
    let bs := s.moved im d bs
    let s := s.movedDraw bs.length
    if im.isAccStore d then
      { s with upd := { s.upd with contribs := s.upd.contribs ++ [{ mb := x.mb, tile := x.tile, items := im.accItems d x.q bs }] } }
    else if s.storeDropped im d x then s
    else { s with mem := s.mem.write ((s.memPlaces im d x).zip bs) }

/-! The verdict -/

/-- The check a verdict finds failed: one of the attempt's own, else, for an injected fault, a row and stage the spec does not name (R542,
log entry 115). -/
def State.verdictFail (s : State) (d : Desc) (x : Firing) : Option CheckFail :=
  match x.fail with
  | some f => some f
  | none => if x.forced = 0 then none else
    let w := (Config.freeWord s.free).toNat
    some { row := w % d.arr.rows, stage := w / 2 ^ 32 % 4, partner := x.injPartner }

/-- The tile of a pair, or the firing's own, whose check failed (R130, R207). -/
def Image.failTile (im : Image) (x : Firing) (f : CheckFail) : Nat := if f.partner then (im.partner? x.tile).getD x.tile else x.tile

/-- The MATRIX report of a failed check (R521, R540). -/
def matrixReport (d : Desc) (x : Firing) (f : CheckFail) : Report :=
  { cls := .matrix, sev := .corrected, level := 1, unit := x.tile, sub := x.slot, tile := some x.tile, injected := x.injected
    detail := f.row % 2 ^ 13 + f.stage % 8 * 2 ^ 13 + (if d.cls = 2 then 2 ^ 16 else 0) }

/-- The verdict passes: the token flit may leave, the input places are freed; of a repeat the first attempt's failure is recorded (R111, R113). -/
def State.verdictPass (s : State) (im : Image) (d : Desc) (x : Firing) : State :=
  let s := { s with fab := (s.fab.setFiring { x with phase := .send, freed := d.inEdges }).freeInputs im d x.freed }
  if !x.again then s else
  let f := x.first.getD default
  ({ s with fab := s.fab.modTile (im.failTile x f) fun r => { r with cksumRetry := true } }).report (matrixReport d x f)

/-- The repeat of a firing (R113): from the same places, with whatever befalls the arrays this time; its reads can meet errors as a start's can. -/
def State.repeatFiring (s : State) (im : Image) (d : Desc) (x : Firing) (f : CheckFail) (e : Ecc) (faults : List ArrayFault) : State :=
  let marked := (im.firePlaces s.fab x.tile d).any s.mem.poisoned
  let r := s.firingReads im x.tile d e
  let s := { r.1 with fab := r.1.fab.modTile (im.failTile x f) fun q => { q with retries := satAdd q.retries 1 } }
  if r.2 then s.poisonStop x.tile x.slot marked
  else
    let a := s.attempt im d { x with again := true, forced := x.forced - 1, first := some f } faults
    { s with fab := (s.fab.setFiring a.1).takeAttempt d a.1 a.2, free := s.free + d.outEdges.length * 2 ^ 20 }

/-- The repeat fails too: the slot stops (R113, R521). -/
def State.verdictStop (s : State) (im : Image) (d : Desc) (x : Firing) (f : CheckFail) : State :=
  ({ s with fab := (s.fab.stopSlot x.tile x.slot).modTile (im.failTile x f) fun r => { r with cksumFail := true, fails := satAdd r.fails 1 } }).report
    { matrixReport d x f with sev := .contained, stopped := true, fenced := true, abandon := true }

/-- CHECKSUM_VERDICT (R113, R130, R200 to R207): the verdict is what the attempt's checks found. `e` and `faults` are what a repeat meets; on a fenced
tile the repeat waits (R543). -/
def execChecksumVerdict (tile : BitVec 8) (slot : BitVec 4) (e : Ecc) (faults : List ArrayFault) (s : State) : Res :=
  .next (match s.img, s.fab.firing? tile.toNat slot.toNat with
    | some im, some x =>
      if x.phase ≠ .verdict then s else
      let d := im.descAt x.desc
      let s := { s with fab := s.fab.modArray x.tile fun a => a.past x.slot }
      (match s.verdictFail d x with
        | none => s.verdictPass im d x
        | some f =>
          if x.again then s.verdictStop im d x f
          else if s.fab.fenced.contains x.tile then s
          else s.repeatFiring im d x f e faults).noteReady [x.tile]
    | _, _ => s)

/-! The end -/

/-- An edge within one tile passes its block and token internally (R125). -/
def State.passLocal (s : State) (im : Image) (b : OutBlk) : State :=
  let e := (im.edge? b.edge).getD default
  if e.prodTile ≠ e.consTile then s else
  { s with mem := s.mem.write (b.bytes.zipIdx.map fun (v, i) => (im.sramPlace' e.consTile (e.placeOff b.place + i), v))
           fab := (s.fab.token im b.edge true).advanceWrite im b.edge }

/-- What a firing's conversions and reads counted goes to its sites or the unbound record (R138, R146, R155, R578). -/
def Sites.firing (im : Image) (d : Desc) (x : Firing) (t : Sites) : Sites :=
  let at0 := fun (port : Nat) => (im.site? d port).getD unboundSite
  let add := fun (t : Sites) (k : Nat) (c : Counts) => if c = {} then t else t.count k c
  let t := add (add (add t (at0 0) x.counts0) (at0 1) x.counts1) (at0 0) x.reads
  x.w2s.foldl (fun t p => add t p.1 { w2 := p.2 }) t

/-- The chosen rows wait for the sampler, at most four on a tile (R175). -/
def State.enqueueSpoon (s : State) (x : Firing) : State :=
  x.spoon.foldl (fun s j =>
    let l := s.fab.spoon.at x.tile
    if l.length < 4 then { s with fab := { s.fab with spoon := s.fab.spoon.put x.tile (l ++ [j]) } }
    else { s with sites := s.sites.skip j.site }) s

/-- The slot counts its firing, signals, returns to IDLE and sends its next TAKE (R112, R118, R257). -/
def State.countFiring (s : State) (im : Image) (d : Desc) (x : Firing) : State :=
  let sl := s.fab.slot x.tile x.slot
  let full := d.firesPerMb ≤ sl.count + 1
  let held := im.isStashStore x.desc || im.isRestore x.desc
  let sig := if d.sigObj ≠ none16 && !held && (!d.sigPerMb || full) then [SyncMsg.signal d.sigObj d.sigCount x.tile] else []
  let fab := s.fab.setSlot x.tile x.slot
    { sl with st := .idle, count := if full then 0 else sl.count + 1, done := if full then sl.done + 1 else sl.done }
  let fx := im.arm (fab, { s.sync with msgs := s.sync.msgs ++ sig }) x.tile x.slot
  { s with fab := fx.1, sync := fx.2 }

/-- FIRING_END (R98, R110 to R112, R114, R521): with `residue` a residue or parity check of its unit has failed. A MEM_STORE whose pending write a
fence dropped ends, counts and signals as one that wrote (log entry 116). -/
def execFiringEnd (tile : BitVec 8) (slot : BitVec 4) (residue : Bool) (s : State) : Res :=
  .next (match s.img, s.fab.firing? tile.toNat slot.toNat with
    | some im, some x =>
      let d := im.descAt x.desc
      if residue then
        if d.cls = 4 || d.cls = 5 || d.cls = 9 || (isArray d.cls && d.hadamard) then
          (({ s with fab := s.fab.stopSlot x.tile x.slot }).report
            { cls := .datapath, sev := .contained, level := 1, unit := x.tile, sub := x.slot, stopped := true, fenced := true, abandon := true
              tile := some x.tile }).noteUnit x.tile d.cls
        else s
      else if !x.allSent im then s
      else
        let s := x.outs.foldl (fun s b => s.passLocal im b) (s.writeResult im d x)
        let fab := d.inEdges.foldl (Fab.advanceRead im) (s.fab.freeInputs im d x.freed)
        let fab := fab.modArray x.tile fun a => if a.holds x.slot then a.past x.slot else a
        let fab := (fab.dropFiring x.tile x.slot).modTile x.tile fun r => { r with accLong := r.accLong || x.accLong }
        let s := { s with fab := { fab with q := fab.q.mod x.desc (· + 1) }, sites := s.sites.firing im d x }
        let s := (s.enqueueSpoon x).countFiring im d x
        ({ s with adm := s.adm.freeArea im s.fab }).noteUnit x.tile d.cls
    | _, _ => s)

/-- SPOON_RECOMPUTE (R33, R101, R173 to R175, R548): one waiting row is recomputed. The command is a tick in which the vector unit issues nothing, which a
VECTOR firing in progress does not exclude (log entry 117). A fenced tile's memory reads are not granted, and a droop gate holds the vector unit. -/
def execSpoonRecompute (tile : BitVec 8) (s : State) : Res :=
  .next (if s.fab.fenced.contains tile.toNat || s.gated tile.toNat 4 then s else match s.fab.spoon.at tile.toNat with
    | j :: r => { s with sites := s.sites.sample j.site j.bin, fab := { s.fab with spoon := s.fab.spoon.put tile.toNat r } }
    | [] => s)

/-! Slot loads, halts -/

/-- SWAPPED_SLOT_LOAD (R56, R247). -/
def execSwappedSlotLoad (tile : BitVec 8) (slot : BitVec 4) (s : State) : Res :=
  .next (match s.img with
    | none => s
    | some im =>
      let t := tile.toNat
      let k := slot.toNat
      let st := (s.fab.slot t k).st
      if im.swapped t k && (st == .idle || st == .empty) then
        match s.adm.swapTo im s.fab t k with | some i => s.loadSlot im t k i | none => s
      else s)

/-- DESCRIPTOR_LOAD_COMPLETE (R56, R118, R247): once every device write of the load has arrived, the slot is armed. -/
def execDescriptorLoadComplete (tile : BitVec 8) (slot : BitVec 4) (s : State) : Res :=
  .next (match s.img with
    | none => s
    | some im =>
      let t := tile.toNat
      let k := slot.toNat
      let sl := s.fab.slot t k
      if sl.st ≠ .loading || s.fab.loads.at (16 * t + k) ≠ 0 then s else
      let fx := im.arm (s.fab.setSlot t k { sl with st := .idle }, s.sync) t k
      ({ s with fab := fx.1, sync := fx.2 }).noteReady [t])

/-- TIL_HALT_WRITE (R115, R131). -/
def execTilHaltWrite (tile : BitVec 8) (v : W32) (s : State) : Res :=
  s.host fun s => ({ s with fab := s.fab.modTile tile.toNat fun r => r.writeReg 0x04 v }).noteReady [tile.toNat]

end Sys2Proof.Machine
end

