-- ==== Sys2Proof/Machine/Readback.lean ====
section
/-! DEFINITION. What a BAR0 read answers (R9, R13 to R15, R469, R513). The opcode table has no row for it; statements may speak of it. -/

namespace Sys2Proof.Machine

/-- What a CTL register reads as (R84, R272, R492). -/
def Ctl.readReg (c : Ctl) (fw : W32) (im : Option Image) (off : Nat) : W32 :=
  if off = 0 then at' 16 0x0F72 + Config.siRevision.setWidth 32
  else if off = 4 then fw
  else if off = 0x10 then at' 20 c.prev.code + at' 0 c.state.code
  else if off = 0x14 then c.stepsLeft
  else if off = 0x18 then c.rejCnt
  else if off = 0x1C then at' 24 c.rejOpcode.toNat + at' 20 c.rejState.toNat + at' 14 c.rejSq.toNat
  else if off = 0x20 then c.hciHost
  else if off = 0x24 then flag 31 c.hciValid + flag 30 c.hciNone + at' 8 c.hciMajor.toNat + at' 0 c.hciMinor.toNat
  else if off = 0x200 then
    at' 16 c.lastReject.toNat + at' 12 (match im with | some i => i.placements.length | none => 0) + at' 8 c.curPlacement.toNat
      + flag 3 c.loadBusy + flag 2 ((im.map (·.crossed)).getD false) + flag 1 c.rejected + flag 0 im.isSome
  else if off = 0x204 then at' 24 c.detailSection.toNat + at' 0 c.detailRecord.toNat
  else if off = 0x208 then (match im with | some i => loW i.buildId | none => 0)
  else if off = 0x20C then (match im with | some i => hiW i.buildId | none => 0)
  else if off = 0x210 then at' 0 c.sigFail.toNat
  else if off = 0x220 then flag 5 c.placeInvalid + flag 4 c.placeForce + at' 0 c.placement.toNat
  else if 0x240 ≤ off && off < 0x260 && off % 4 = 0 then c.placeMb.at ((off - 0x240) / 4)
  else 0

/-- MSI-X table and pending bits (R469). -/
def Hif.readMsix (h : Hif) (off : Nat) : W32 :=
  if off < 0x800 then
    let e := h.msix.at (off / 16)
    match off % 16 with
    | 0 => loW e.addr.toNat | 4 => hiW e.addr.toNat | 8 => e.data | 12 => flag 0 e.mask | _ => 0
  else if 0x1000 ≤ off && off < 0x1010 && off % 4 = 0 then
    (List.range 32).foldl (fun a i => a + flag i (h.pba.at ((off - 0x1000) * 8 + i))) 0
  else 0

/-- A disabled patrol scrub fails a condition of the guarantee (R518). -/
def MemRegs.condOff (m : MemRegs) : Bool := m.hbmDis || m.ddrDis

/-- The present value of the register at a BAR0 address (R469). -/
def State.readWord (s : State) (addr : Nat) : W32 :=
  let o := (regBlock addr).2
  match (regBlock addr).1 with
  | .ctl => s.ctl.readReg s.sec.fwVersion s.img o
  | .rst => s.rst.readReg o
  | .hif => s.hif.readReg o
  | .msix => s.hif.readMsix o
  | .tmr => s.tmr.readReg o
  | .lnk => s.lnk.readReg o
  | .gx => s.gx.readReg s.adm.running o
  | .upd => s.upd.readReg o (!s.gx.staged.isEmpty) s.adm.parkWait
      (((s.img.map (·.needsNorm)).getD false) && s.gx.norm.isNone && s.gx.sets.any fun y => y.stage == .reduced)
  | .inp => s.inp.readReg s.img o
  | .mem => s.memr.readReg o
  | .stash => s.adm.readReg s.img o
  | .sec => s.sec.readReg o
  | .flt => s.flt.readReg o s.crossed (s.memr.condOff || s.pwr.unrated)
  | .pwr => s.pwr.readReg o
  | .til t => s.fab.readReg s.img (fun k => match s.img with | some im => s.ready im t k | none => false) t s.ctl.curPlacement.toNat o
  | .none => 0

/-- Whether a value wider than 32 bits that the host does not write has its low word at a BAR0 address (R15). -/
def wideRo (a : Nat) : Bool :=
  [0x208, 0x100008, 0x300020, 0x400008, 0x400010, 0x500040, 0x500220, 0x800014].contains a
  || (decide (0x1000000 ≤ a ∧ a < 0x2000000) && a % 0x10000 == 0x28)

/-- The same for a value the host writes (R15): HIF bases, snapshot, TMR_SET, TMR_PULSE_NEXT, TMR_ENT_TIME, TMR_ENT_PERIOD, MEM_CRC. -/
def wideRw (a : Nat) : Bool :=
  [0x20000, 0x20010, 0x20018, 0x100018, 0x100020, 0x500208, 0x500210, 0x500218].contains a
  || (decide (0x21000 ≤ a ∧ a < 0x22000) && (a % 0x40 == 0 || a % 0x40 == 0x10))
  || (decide (0x101000 ≤ a ∧ a < 0x111000) && (a % 0x20 == 8 || a % 0x20 == 0x14))

/-- Whether the low word of a wide value lies at a BAR0 address. -/
def wideLow (a : Nat) : Bool := wideRo a || wideRw a

/-- A read of the register at a BAR0 address (R15): a low word latches its high word, and TMR_TIME_LO the fraction too; a high word reads as
latched. -/
def State.barWord (s : State) (a : Nat) : State × W32 :=
  let v := s.readWord a
  if wideLow a then
    ({ s with ctl := { s.ctl with latch := s.ctl.latch.put (a + 4) (s.readWord (a + 4)) }
              tmr := if a = 0x100008 then { s.tmr with fracLatch := s.tmr.frac } else s.tmr }, v)
  else if 4 ≤ a && wideLow (a - 4) then (s, s.ctl.latch.at a)
  else (s, v)

/-- A read of `size` bytes of BAR0 (R14): fewer than 4 are the addressed bytes of their register, 8 are two registers, the low one first (log
entry 24). What a read that is not naturally aligned, or of another size, returns is a FREE VALUE. -/
def State.barRead (s : State) (a size : Nat) : State × W64 :=
  if size = 8 && a % 8 = 0 then
    let l := s.barWord a
    let h := l.1.barWord (a + 4)
    (h.1, h.2.setWidth 64 <<< 32 ||| l.2.setWidth 64)
  else if [1, 2, 4].contains size && a % size = 0 then
    let r := s.barWord (a / 4 * 4)
    (r.1, BitVec.ofNat 64 (r.2.toNat / 2 ^ (8 * (a % 4)) % 2 ^ (8 * size)))
  else (s.drawn, s.freeW)

/-- Whether BAR0 answers a read with a value: from READY to FAULT all of it; in ALARM the registers but CTL_STATE and the SEC block read 0 (R513), so an
8-byte read at CTL_STATE has a high word of 0; otherwise none (R486, R565). -/
def State.barAnswer (s : State) (a size : Nat) : Option (State × W64) :=
  if s.ctl.state.live then some (s.barRead a size)
  else if s.ctl.state ≠ .alarm then none
  else if (regBlock a).1 = .sec then some (s.barRead a size)
  else if a / 4 * 4 = 0x10 then (let r := s.barRead a size; some (r.1, if size = 8 then r.2 % 2 ^ 32 else r.2))
  else some (s, 0)

/-! What the pins show (R569, R571, R572) -/

/-- The PCIe transmitters (R572). -/
inductive PcieTx where
  | off | fundamentalReset | training | l0
  deriving DecidableEq, Repr, Inhabited

/-- PCIe transmitters: as PERST# lays down in a cold reset, training until BOOT ends, then L0; a warm reset keeps L0 (R565, R572). -/
def State.pcieTx (s : State) : PcieTx :=
  match s.ctl.state with
  | .off => .off
  | .reset => if s.rst.cold then .fundamentalReset else .l0
  | .boot => if s.rst.cold then .training else .l0
  | _ => .l0

/-- Whether the strap inverts the transmit polarity of an Evoad lane (R569): in set 1, lanes 4p + 1 and 4p + 3. -/
def State.txInverted (s : State) (lane : Nat) : Bool := strapField s.rst.code 2 2 == 1 && lane % 2 == 1

end Sys2Proof.Machine
end

