-- ==== Sys2Proof/Machine/TimerExec.lean ====
section
/-! DEFINITION. The Timer's entries and actions, the host's set, the servo's sources (R365 to R383). -/

namespace Sys2Proof.Machine

/-- Sets of the count and the step number are ignored in ARMED, STEPPING and DRAINING (R367). -/
def Dev.timeHeld (d : Dev) : Bool := !d.jumps

/-! Entries -/

/-- TIMER_ENTRY_DUE (R377 to R379): a due entry is queued for issue; a parity error of the entry is a chip-level CONTROL fault (R521, R540) and
the entry does not fire. -/
def execTimerEntryDue (e : BitVec 11) (parity : Bool) (s : State) : Res :=
  .next (if !s.ctl.state.awake || !s.tmr.isDue (s.tmr.entries.at e.toNat) then s
    else if parity then s.report { cls := .control, sev := .chip, detail := 1 }
    else s.setTmr (s.tmr.fire e.toNat))

/-- The front of the issue queue is issued when it holds an action (R379, R380): it acts where `ok` holds, and is dropped and counted elsewhere. -/
def State.issue (s : State) (action : Nat) (ok : Bool) (f : Due → State → State) : Res :=
  .next (match s.tmr.issue with
    | [] => s
    | d :: rest =>
      if !s.ctl.state.awake || d.action != action then s
      else
        let t := { s.tmr with issue := rest }
        if ok then f d { s with tmr := t } else { s with tmr := { t with dropCnt := satAdd t.dropCnt 1 } })

/-- States in which an action on the image acts (R380). -/
def State.hasImage (s : State) : Bool := s.img.isSome

/-- TIMER_SIGNAL (R116, R380): an ARG of 0 issues nothing. -/
def execTimerSignal (parity : Bool) (s : State) : Res :=
  s.issue 0 s.hasImage fun d s => if d.arg = 0 then s else (s.parityAt d.object parity).syncOp d.object (.signal (BitVec.ofNat 32 d.arg))

/-- TIMER_SET (R116, R380). -/
def execTimerSet (parity : Bool) (s : State) : Res := s.issue 1 s.hasImage fun d s => (s.parityAt d.object parity).syncOp d.object (.set (BitVec.ofNat 32 d.arg))

/-- BUCKET_DEADLINE (R349, R379, R380): the base is the entry's due time. -/
def execBucketDeadline (s : State) : Res :=
  s.issue 2 s.ctl.state.running fun d s => { s with gx := { s.gx with base := some (s.gx.base.getD d.time) } }

/-- STRAGGLER_CUTOFF (R349, R379, R380): the cut-off carries the entry's due time. -/
def execStragglerCutoff (s : State) : Res := s.issue 3 s.ctl.state.running fun d s => s.cutOff d.time

/-- DIGEST_COMPARE (R360, R380). -/
def execDigestCompare (s : State) : Res := s.issue 4 s.hasImage fun _ s => { s with tmr := { s.tmr with latchDigest := true } }

/-- TIMER_SNAPSHOT (R303, R380). -/
def execTimerSnapshot (s : State) : Res := s.issue 5 s.hasImage fun _ s => { s with tmr := { s.tmr with latchSnap := true } }

/-- PLACEMENT_SWITCH (R248, R380). -/
def execPlacementSwitch (s : State) : Res :=
  s.issue 6 s.hasImage fun d s =>
    { s with ctl := { s.ctl with placeForce := d.arg / 16 % 2 == 1, placement := BitVec.ofNat 3 d.arg } }

/-- POWER_POLICY (R380). -/
def execPowerPolicy (s : State) : Res :=
  s.issue 7 (s.ctl.state != .reset) fun d s => { s with pwr := { s.pwr with polSel := BitVec.ofNat 4 d.arg } }

/-- TIMER_ENTRY_CTRL_WRITE (R378, R381). -/
def execTimerEntryCtrlWrite (e : BitVec 11) (v : W32) (s : State) : Res := s.host fun s => s.setTmr (s.tmr.writeEntCtrl e.toNat v)

/-! The count and its sources -/

/-- SET_NOW (R367): a write of TMR_CTRL with SET_NOW. -/
def execSetNow (v : W32) (s : State) : Res := s.host fun s => s.setTmr (s.tmr.writeCtrl s.ctl.state.timeHeld v)
/-- TMR_STEP_WRITE (R367). -/
def execTmrStepWrite (v : W32) (s : State) : Res := s.host fun s => s.setTmr (s.tmr.writeStep s.ctl.state.timeHeld v)
/-- SERVO_SOURCE_SELECT (R368, R372): a write of TMR_CTRL. -/
def execServoSourceSelect (v : W32) (s : State) : Res := s.host fun s => s.setTmr (s.tmr.writeCtrl s.ctl.state.timeHeld v)

/-- What concerns a source of discipline happens only while that source is selected (R368); the CT inputs are ignored in RESET (R571). -/
def State.ofSource (s : State) (src : Nat) (f : State → State) : Res :=
  .next (if s.ctl.state.awake && s.tmr.source = src && (src != 1 || s.ctl.state != .reset) then f s else s)

/-- CT_PULSE_EDGE (R365, R369, R371): captured at the count of the command. -/
def execCtPulseEdge (s : State) : Res :=
  s.ofSource 1 fun s => (s.setTmr (s.tmr.pulse s.ctl.state.jumps s.tmr.t64 s.freeW)).drawn
/-- CT_REF_LOSS (R373). -/
def execCtRefLoss (s : State) : Res := s.ofSource 1 fun s => (s.setTmr { s.tmr with refLoss := true }).loseSource
/-- PULSE_LOSS (R373). -/
def execPulseLoss (s : State) : Res := s.ofSource 1 State.loseSource
/-- TIME_RESP_LOSS (R373). -/
def execTimeRespLoss (s : State) : Res := s.ofSource 2 State.loseSource

/-- HOLDOVER_LIMIT_EXCEEDED (R374): e0 is the accuracy bound at the moment of loss. -/
def execHoldoverLimitExceeded (e0 : Nat) (s : State) : Res :=
  .next (if s.ctl.state.awake && s.tmr.servo = .holdover && s.tmr.boundExceeded e0 then s.setTmr { s.tmr with specExceeded := true } else s)

end Sys2Proof.Machine
end

