-- ==== Sys2Proof/Machine/RegisterExec.lean ====
section
/-! DEFINITION. A write to a register of BAR0 (R9 to R15, R469). -/

namespace Sys2Proof.Machine

/-- A write to a CTL register (R84, R272, R492). -/
def State.writeCtl (s : State) (off : Nat) (v : W32) : State :=
  match off with
  | 0x20 => s.writeHciHost v
  | 0x200 => { s with ctl := { s.ctl with rejected := w1c s.ctl.rejected v 1 } }
  | 0x220 => { s with ctl := { s.ctl with placeInvalid := w1c s.ctl.placeInvalid v 5, placeForce := bit v 4, placement := BitVec.ofNat 3 (fld v 2 0) } }
  | _ => s

/-- A write to a TIL register: a tile's window stays writable while it is fenced (R131, R132). -/
def State.writeTil (s : State) (t off : Nat) (v : W32) : State :=
  ({ s with fab := s.fab.modTile t fun r => r.writeReg off v }).noteReady [t]

/-- One word written to a BAR0 address (R9, R10, R469). -/
def State.writeWord (s : State) (addr : Nat) (v : W32) : State :=
  let o := (regBlock addr).2
  match (regBlock addr).1 with
  | .ctl => s.writeCtl o v
  | .rst => { s with rst := s.rst.writeReg o v }
  | .hif => { s with hif := s.hif.writeReg s.ctl.hciValid s.hci o v }
  | .msix => if o < 0x800 then { s with hif := s.hif.writeMsix o v } else s
  | .tmr => s.setTmr (s.tmr.writeReg s.ctl.state.timeHeld o v)
  | .lnk => s.setLnk (s.lnk.writeReg o v)
  | .gx => if o = 4 then s.writeGxCtrl v else { s with gx := s.gx.writeReg (s.ctl.state == .ready || s.ctl.state == .loaded) o v }
  | .upd => { s with upd := s.upd.writeReg o v }
  | .inp => if o = 0 then s.writeInpCtrl v else { s with inp := s.inp.writeReg o v }
  | .mem => { s with memr := s.memr.writeReg o v }
  | .stash => { s with adm := s.adm.writeReg o v }
  | .sec => { s with sec := s.sec.writeReg (s.ctl.state == .ready) o v }
  | .flt => if o = 0x20 then s.writeInject v else { s with flt := s.flt.writeReg o v }
  | .pwr => { s with pwr := s.pwr.writeReg o v }
  | .til t => s.writeTil t o v
  | .none => s

/-- A write to a BAR0 address: a high word the host writes reads as last written, whatever an earlier read of its low word latched (R9, R15). -/
def State.barWrite (s : State) (addr : Nat) (v : W32) : State :=
  let s := s.writeWord addr v
  if 4 ≤ addr && wideRw (addr - 4) then { s with ctl := { s.ctl with latch := s.ctl.latch.put addr (s.readWord addr) } } else s

/-- REGISTER_WRITE (R9 to R15): 4 or 8 naturally aligned bytes, the low word first; shorter writes are discarded (R14). -/
def execRegisterWrite (addr : BitVec 26) (size : Nat) (value : W64) (s : State) : Res :=
  s.host fun s =>
    let a := addr.toNat
    if size = 4 && a % 4 = 0 then s.barWrite a (value.setWidth 32)
    else if size = 8 && a % 8 = 0 then (s.barWrite a (value.setWidth 32)).barWrite (a + 4) (BitVec.ofNat 32 (value.toNat / 2 ^ 32))
    else s

end Sys2Proof.Machine
end

