-- ==== Sys2Proof/Machine/ResetExec.lean ====
section
/-! DEFINITION. Supplies, reset sources, release and boot (R498 to R504, R560 to R574), the management watchdog and the management path (R491). -/

namespace Sys2Proof.Machine

/-- POWER_APPLIED (R561, R487): P54V enters its window; OFF becomes RESET with the cold source POR. -/
def execPowerApplied (s : State) : Res :=
  let s := { s with pins := { s.pins with p54v := true } }
  .next (if s.ctl.state = .off then
    { s with ctl := { s.ctl with state := .reset }, rst := { s.rst with cause := s.rst.cause ||| Source.por.mask, active := Source.por.mask, cold := true } }
  else s)

/-- POWER_REMOVAL (R560, R572). -/
def execPowerRemoval (s : State) : Res :=
  .next { s.powerDown with pins := { s.pins with p54v := false, alarmN := false } }

/-- POWER_LOSS (R560, R574): the auxiliary domain takes its power-loss values. -/
def execPowerLoss (s : State) : Res :=
  .next { s with pins := { s.pins with p3v3 := false, alarmN := false }, rst := { s.rst with cause := 1, latched := 0 }
                 pwr := { s.pwr with res := 0 }, upd := { s.upd with torn := false, tornValid := false, tornTensor := 0 } }

/-- P3V3_AUX_IN_WINDOW (R560). -/
def execP3v3AuxInWindow (s : State) : Res := .next { s with pins := { s.pins with p3v3 := true } }

/-- PERST# low for `ns` (R561). -/
def execPerst (ns : Nat) (s : State) : Res := .next (if 100 ≤ ns then s.enterReset Source.perst.mask else s)

/-- RESET_N low for `ns` (R561): applied from 1 µs, ignored up to 100 ns; between them the rule leaves it open, and a free value tells. -/
def execResetN (ns : Nat) (s : State) : Res :=
  .next (if 1000 ≤ ns then s.enterReset Source.resetN.mask
    else if ns ≤ 100 then s
    else
      let t := { s with free := s.free + 1 }
      if (Config.freeWord s.free).getLsbD 0 then t.enterReset Source.resetN.mask else t)

/-- REFCLK_STOP (R563, R511). -/
def execRefclkStop (s : State) : Res :=
  let t := { s with pins := { s.pins with refclk := false } }
  .next (match s.ctl.state with | .off | .reset => t | _ => t.alarm .cglitch)

/-- A thermal trip holds RESET until every die sensor reads below 102 °C and every HBM sensor below 92 °C (R564). -/
def State.thermHold (s : State) : Bool :=
  s.rst.active.getLsbD 6 && (List.range 77).any fun i =>
    let t := s.pwr.temp.at i
    t.sampled && decide ((if dieSensor i then 816 else 736) ≤ t.reads (throttleAt i))

/-- Bytes of the firmware image in the flash (R501, R569). -/
def State.fwBytes (s : State) (o n : Nat) : List Byte :=
  let base := if strapField s.rst.code 3 3 = 0 then 0 else 2 ^ 25
  (List.range n).map fun i => s.flash.at (base + o + i)
def State.fwField (s : State) (o n : Nat) : Nat := leVal (s.fwBytes o n)

/-- Whether a firmware image can be read: its header, key block and signature block have the layout of R50 and R501. -/
def State.fwLayout (s : State) : Bool :=
  let len := s.fwField 0xC 4
  let key := s.fwField 0x80 4
  let sig := s.fwField 0x84 4
  let slen := s.fwField sig 2
  s.fwField 0 4 == 0x57465846 && decide (len ≤ 2 ^ 24) && len % 64 == 0 && key % 64 == 0 && decide (256 ≤ key) && sig == key + 1856
    && len == sig + 1344 && (s.fwBytes 0x10 0x30).all (· == 0) && (s.fwBytes 0x88 0x78).all (· == 0)
    && decide (1 ≤ slen) && decide (slen ≤ 1280)
    && (s.fwBytes (key + 1793) 63).all (· == 0) && (s.fwBytes (sig + 2 + slen) (1342 - slen)).all (· == 0)

/-- BOOT_ERR of steps 2 to 7 of R502; 0 when they pass. -/
def State.bootCheck (s : State) : Nat :=
  let key := s.fwField 0x80 4
  let sig := s.fwField 0x84 4
  let kb := s.fwBytes key 1793
  if keyState s.sec.held fwKeyLo != .complete then 1
  else if !s.fwLayout then 6
  else if shake256 32 kb != fuseBytes s.sec.held fwKeyLo 32 then 2
  else if s.fwBytes 0x40 64 != shake256 64 (s.fwBytes 256 (key - 256)) then 3
  else if !Config.falconVerify kb (shake256 64 (s.fwBytes 0 sig)) (s.fwBytes (sig + 2) (s.fwField sig 2)) then 4
  else if s.fwField 8 4 < arbValue s.sec.held 0 then 5 else 0

/-- Alarm sources already active at the end of step 1, in the order of their codes (R511): TAMPER_N, the rails and die sensors as they last read, the
fuses as step 1 read them. -/
def State.activeSources (s : State) : List AlarmSrc :=
  (if s.pins.tamperLow then [.tamper] else [])
    ++ (if s.pwr.rail.any fun r => railGlitch r.1 r.2.mv.toNat then [.vglitch] else [])
    ++ (if s.pwr.temp.any fun t => tempAlarm t.1 t.2.valid t.2.temp then [.temp] else [])
    ++ (if fuseFails s.sec.held s.sec.fuses then [.fuse] else [])

/-- Steps 1 to 8 of R502 in BOOT. -/
def State.boot (s : State) : State :=
  let s := { s with sec := { s.sec with held := s.sec.fuses } }
  if retired s.sec.held then
    ({ s with sec := { s.sec.setFuses ((List.range 288).map (· + idSeedLo)) with bootErr := 7 } }).goto .fault
  else if !s.activeSources.isEmpty then s.activeSources.foldl State.alarm s
  else
    let e := s.bootCheck
    if e ≠ 0 then ({ s with sec := { s.sec with bootErr := BitVec.ofNat 4 e } }).goto .fault
    else { s with sec := { s.sec with verified := true, idKeyReady := true, fwVersion := BitVec.ofNat 32 (s.fwField 4 4), fwSvn := BitVec.ofNat 32 (s.fwField 8 4)
                                      fwDigest := s.fwBytes 0x40 64 }
                  rst := { s.rst with wdtRunning := true, wdtElapsed := 0 } }

/-- RESET_RELEASE (R563, R564, R567 to R569): REFCLK has run for 100 µs and every source is inactive. A source latched meanwhile is applied first;
the sensors can hold the reset, and both inputs must be in window. -/
def execResetRelease (s : State) : Res :=
  .next (if s.ctl.state ≠ .reset then s else
    let s := { s with pins := { s.pins with refclk := true } }
    let m := s.rst.latched
    let s := if m = 0 then s else ({ s with rst := { s.rst with latched := 0 } }).enterReset m
    if s.thermHold || !s.pins.p3v3 || !s.pins.p54v then s else
    let s := if s.rst.cold then { s with rst := { s.rst with code := s.pins.strap } } else s
    (({ s with rst := { s.rst with active := 0 } }).goto .boot).boot)

/-- Why a DIMM is refused, or 0 (R459, R466). DESIGN CHOICE: package ranks or a device width that R459 does not list refuse it as a module type, and of
several reasons an unreadable SPD goes first, then the lowest code (log entry 143). -/
def dimmRefusal (d : Config.Dimm) : Nat :=
  if !d.spd then 2
  else if !d.rdimm || !([1, 2, 4].contains d.ranks && [4, 8].contains d.width) then 1
  else if d.gib < 16 || 256 < d.gib then 3
  else if d.speed < 5600 then 4
  else if !d.trains then 5 else 0

/-- A DDR5 channel as BOOT leaves it (R459, R466). -/
def trainCh (d : Config.Dimm) : DdrCh :=
  if !d.fitted then {} else if dimmRefusal d ≠ 0 then { refused := BitVec.ofNat 4 (dimmRefusal d) }
  else { x8 := d.width == 8, ranks := BitVec.ofNat 2 (d.ranks / 2), size := BitVec.ofNat 9 d.gib, present := true }

/-- BOOT_COMPLETE (R456, R459, R487, R502, R562, R568): step 8 ends, which only steps 1 to 7 passed have begun; the watchdog has run since its start. -/
def execBootComplete (s : State) : Res :=
  .next (if s.ctl.state ≠ .boot || !s.sec.verified then s else
    let s := if s.rst.cold then
      { s with mem := {}
               memr := { s.memr with initBusy := false
                                     ddr := (List.range 8).foldl (fun t i => t.put i (trainCh (Config.dimm i))) []
                                     ddr5600 := (List.range 8).any fun i => (trainCh (Config.dimm i)).present && decide ((Config.dimm i).speed < 6400) } }
      else s
    ({ s with rst := { s.rst with wdtRunning := true } }).goto .ready)

/-- MGMT_WATCHDOG_EXPIRY (R562): PERIOD_MS has passed since the last kick. -/
def execMgmtWatchdogExpiry (s : State) : Res :=
  .next (if s.rst.wdtRunning && decide (s.rst.wdtPeriod.toNat * 10 ^ 7 ≤ s.rst.wdtElapsed) then s.enterReset Source.wdt.mask else s)

/-- Whether the firmware can write its registers. -/
def Dev.running' (d : Dev) : Bool := match d with | .off | .reset | .alarm => false | _ => true

/-- WDT_KICK (R562, R574): a write of RST_WDT_CFG with KICK. -/
def execWdtKick (v : W32) (s : State) : Res :=
  .next (if s.ctl.state.running' then { s with rst := s.rst.writeWdt (v ||| flag 31 true) } else s)

/-- WDT_LOCK (R574): a write of RST_WDT_CFG with LOCK. -/
def execWdtLock (v : W32) (s : State) : Res :=
  .next (if s.ctl.state.running' then { s with rst := s.rst.writeWdt (v ||| flag 30 true) } else s)

/-! The management path -/

/-- The 7-bit address of the management path (R491, R569): the one an I3C controller has assigned, else 0x4C plus the strap's offset, on SMBus. -/
def State.mgmtAddr (s : State) : Nat :=
  match s.mgmt.i3c with
  | some a => a.toNat
  | none => 0x4C + strapField s.rst.code 1 0

/-- An answer on the management path, in every state but OFF (R491). -/
def State.answer (s : State) (layer command : Nat) (bytes : List Nat) : Res :=
  .next (if s.ctl.state = .off then s else { s with mgmt := { s.mgmt with out := s.mgmt.out ++ [{ addr := s.mgmtAddr, layer := layer, command := command, bytes := bytes }] } })

/-- I3C_ADDR_ASSIGN (R491). -/
def execI3cAddrAssign (addr : BitVec 7) (s : State) : Res :=
  .next (if s.ctl.state = .off then s else { s with mgmt := { s.mgmt with i3c := some addr } })

/-- Set Endpoint ID (R491): the endpoint keeps the id it is given. -/
def execSetEndpointId (eid : BitVec 8) (s : State) : Res :=
  ({ s with mgmt := { s.mgmt with eid := if s.ctl.state = .off then s.mgmt.eid else eid } } : State).answer 0 1 [0, eid.toNat]
def execGetEndpointId (s : State) : Res := s.answer 0 2 [0, s.mgmt.eid.toNat]
def execGetMctpVersionSupport (s : State) : Res := s.answer 0 4 (Config.mgmtAnswer 0 4 0)

/-- Get Message Type Support (R491): success, and one type beside MCTP control, PLDM. -/
def execGetMessageTypeSupport (s : State) : Res := s.answer 0 5 [0, 1, 1]
def execGetTid (s : State) : Res := s.answer 1 2 (Config.mgmtAnswer 1 2 0)
def execGetPldmVersion (s : State) : Res := s.answer 1 3 (Config.mgmtAnswer 1 3 0)

/-- GetPLDMTypes (R491): success, and the types base, 0, and monitoring, 2. -/
def execGetPldmTypes (s : State) : Res := s.answer 1 4 [0, 0, 2]

/-- GetPLDMCommands (R491): success, and each supported command behind its type. PRESUMED: the codes of DSP0240 and DSP0248 (log entry 158). -/
def execGetPldmCommands (s : State) : Res :=
  s.answer 1 5 [0, 0, 0x02, 0, 0x03, 0, 0x04, 0, 0x05, 2, 0x50, 2, 0x51, 2, 0x11, 2, 0x21]

/-- GetPDRRepositoryInfo (R491): success, and the number of records: 91 numeric sensors and 2 state sensors. -/
def execGetPdrRepositoryInfo (s : State) : Res := s.answer 2 0x50 [0, 93]

/-- What a sensor record holds (R491): numeric or state; for a temperature, in 1/8 °C, the throttle, release and trip points (R553); for a rail, in
mV, its nominal voltage and the bounds of its two windows (R546); for module power, in W, LIMIT_W of the policy in force and the limits of R551; for
the state sensors the number of states, the codes of R486 or the two levels of ALARM_N. The order is the model's (log entry 158). -/
def State.sensorRecord (s : State) (i : Nat) : List Nat :=
  let window := fun (n k : Nat) => [n * (1000 - k) / 1000, n * (1000 + k) / 1000]
  if i < 69 then [0, 840, 816, 920]
  else if i < 77 then [0, 760, 736, 840]
  else if i < 90 then
    let r := railSpec (i - 77)
    [0, r.1] ++ window r.1 r.2.1 ++ window r.1 r.2.2
  else if i = 90 then [0, s.pwr.pol.limit.toNat, 1150, 1200]
  else if i = 91 then [1, 9] else [1, 2]

/-- GetPDR (R491): success and the record, or a completion that there is none. -/
def execGetPdr (sensor : Nat) (s : State) : Res := s.answer 2 0x51 (if sensor < 93 then 0 :: sensor :: s.sensorRecord sensor else [0x82])

/-- A numeric sensor (R491): 77 temperatures, then 13 rail voltages, then module power. Its reading, and whether it is valid. -/
def State.sensor (s : State) (i : Nat) : List Nat :=
  if i < 77 then let t := s.pwr.temp.at i; [if t.valid then 1 else 0, t.temp.toNat]
  else if i < 90 then [1, (s.pwr.rail.at (i - 77)).mv.toNat]
  else if i = 90 then [1, s.pwr.p1ms] else [0, 0]
def execGetSensorReading (sensor : Nat) (s : State) : Res := s.answer 2 0x11 (s.sensor sensor)

/-- The state sensors (R491): device state and ALARM_N. -/
def execGetStateSensorReadings (s : State) : Res := s.answer 2 0x21 [s.ctl.state.code, if s.pins.alarmN then 0 else 1]

/-- Any other request: the standard unsupported-command completion, code 5 (R491). -/
def execMgmtUnsupportedRequest (layer command : BitVec 8) (s : State) : Res := s.answer layer.toNat command.toNat [5]

end Sys2Proof.Machine
end

