-- ==== Sys2Proof/Machine/Dispatch.lean ====
section
/-! DEFINITION. One arm per command. -/

namespace Sys2Proof.Machine

def exec (i : Instr) (s : State) : Host.Outcome State Fault Refusal :=
  match i with
  | .powerApplied => Sys2Proof.Machine.execPowerApplied s
  | .powerRemoval => Sys2Proof.Machine.execPowerRemoval s
  | .powerLoss => Sys2Proof.Machine.execPowerLoss s
  | .perst ns => Sys2Proof.Machine.execPerst ns s
  | .resetN ns => Sys2Proof.Machine.execResetN ns s
  | .refclkStop => Sys2Proof.Machine.execRefclkStop s
  | .resetRelease => Sys2Proof.Machine.execResetRelease s
  | .bootComplete => Sys2Proof.Machine.execBootComplete s
  | .mgmtWatchdogExpiry => Sys2Proof.Machine.execMgmtWatchdogExpiry s
  | .wdtKick v => Sys2Proof.Machine.execWdtKick v s
  | .wdtLock v => Sys2Proof.Machine.execWdtLock v s
  | .ctlHciHostWrite v => Sys2Proof.Machine.execCtlHciHostWrite v s
  | .sqTailDoorbell off size v => Sys2Proof.Machine.execSqTailDoorbell off size v s
  | .cqHeadDoorbell off size v => Sys2Proof.Machine.execCqHeadDoorbell off size v s
  | .sqEntryFetch busErr => Sys2Proof.Machine.execSqEntryFetch busErr s
  | .hifSqCfgWrite q v => Sys2Proof.Machine.execHifSqCfgWrite q v s
  | .hifCqCfgWrite q v => Sys2Proof.Machine.execHifCqCfgWrite q v s
  | .hifBar4BaseWrite hi v => Sys2Proof.Machine.execHifBar4BaseWrite hi v s
  | .bar4Read off len ecc => Sys2Proof.Machine.execBar4Read off len ecc s
  | .bar4Write off bytes ecc => Sys2Proof.Machine.execBar4Write off bytes ecc s
  | .msixCoalesceTimeout q => Sys2Proof.Machine.execMsixCoalesceTimeout q s
  | .nop ix => Sys2Proof.Machine.execNop ix s
  | .identify ix => Sys2Proof.Machine.execIdentify ix s
  | .imageLoad ix readErr fault ecc => Sys2Proof.Machine.execImageLoad ix readErr fault ecc s
  | .arm ix => Sys2Proof.Machine.execArm ix s
  | .disarm ix => Sys2Proof.Machine.execDisarm ix s
  | .run ix => Sys2Proof.Machine.execRun ix s
  | .drain ix => Sys2Proof.Machine.execDrain ix s
  | .stepAbort ix => Sys2Proof.Machine.execStepAbort ix s
  | .faultClear ix => Sys2Proof.Machine.execFaultClear ix s
  | .warmReset ix => Sys2Proof.Machine.execWarmReset ix s
  | .sample ix => Sys2Proof.Machine.execSample ix s
  | .syncSignal ix parity => Sys2Proof.Machine.execSyncSignal ix parity s
  | .syncTake ix parity => Sys2Proof.Machine.execSyncTake ix parity s
  | .syncSet ix parity => Sys2Proof.Machine.execSyncSet ix parity s
  | .syncArm ix parity => Sys2Proof.Machine.execSyncArm ix parity s
  | .syncRead ix parity => Sys2Proof.Machine.execSyncRead ix parity s
  | .syncNotify ix parity => Sys2Proof.Machine.execSyncNotify ix parity s
  | .exportCmd ix ecc => Sys2Proof.Machine.execExportCmd ix ecc s
  | .importCmd ix ecc => Sys2Proof.Machine.execImportCmd ix ecc s
  | .snapshot ix => Sys2Proof.Machine.execSnapshot ix s
  | .mailSend ix => Sys2Proof.Machine.execMailSend ix s
  | .mailRecv ix => Sys2Proof.Machine.execMailRecv ix s
  | .attest ix => Sys2Proof.Machine.execAttest ix s
  | .rollbackAdvance ix => Sys2Proof.Machine.execRollbackAdvance ix s
  | .i3cAddrAssign addr => Sys2Proof.Machine.execI3cAddrAssign addr s
  | .setEndpointId eid => Sys2Proof.Machine.execSetEndpointId eid s
  | .getEndpointId => Sys2Proof.Machine.execGetEndpointId s
  | .getMctpVersionSupport => Sys2Proof.Machine.execGetMctpVersionSupport s
  | .getMessageTypeSupport => Sys2Proof.Machine.execGetMessageTypeSupport s
  | .getTid => Sys2Proof.Machine.execGetTid s
  | .getPldmVersion => Sys2Proof.Machine.execGetPldmVersion s
  | .getPldmTypes => Sys2Proof.Machine.execGetPldmTypes s
  | .getPldmCommands => Sys2Proof.Machine.execGetPldmCommands s
  | .getPdrRepositoryInfo => Sys2Proof.Machine.execGetPdrRepositoryInfo s
  | .getPdr sensor => Sys2Proof.Machine.execGetPdr sensor s
  | .getSensorReading sensor => Sys2Proof.Machine.execGetSensorReading sensor s
  | .getStateSensorReadings => Sys2Proof.Machine.execGetStateSensorReadings s
  | .mgmtUnsupportedRequest layer command => Sys2Proof.Machine.execMgmtUnsupportedRequest layer command s
  | .firingStart tile slot ecc streamed faults => Sys2Proof.Machine.execFiringStart tile slot ecc streamed faults s
  | .firingEnd tile slot residue => Sys2Proof.Machine.execFiringEnd tile slot residue s
  | .checksumVerdict tile slot ecc faults => Sys2Proof.Machine.execChecksumVerdict tile slot ecc faults s
  | .memoryDropReturn tile slot ecc => Sys2Proof.Machine.execMemoryDropReturn tile slot ecc s
  | .eccWriteBack place => Sys2Proof.Machine.execEccWriteBack place s
  | .flitHop tile port fault aged => Sys2Proof.Machine.execFlitHop tile port fault aged s
  | .flitEject tile fault aged => Sys2Proof.Machine.execFlitEject tile fault aged s
  | .tileCreditMessage tile port fault => Sys2Proof.Machine.execTileCreditMessage tile port fault s
  | .tileCreditSend tile edge => Sys2Proof.Machine.execTileCreditSend tile edge s
  | .swappedSlotLoad tile slot => Sys2Proof.Machine.execSwappedSlotLoad tile slot s
  | .descriptorLoadComplete tile slot => Sys2Proof.Machine.execDescriptorLoadComplete tile slot s
  | .tilHaltWrite tile v => Sys2Proof.Machine.execTilHaltWrite tile v s
  | .stemEngineStart region ecc => Sys2Proof.Machine.execStemEngineStart region ecc s
  | .spoonRecompute tile => Sys2Proof.Machine.execSpoonRecompute tile s
  | .tileWatchdogExpiry tile detail => Sys2Proof.Machine.execTileWatchdogExpiry tile detail s
  | .heartbeatTimeout region parity => Sys2Proof.Machine.execHeartbeatTimeout region parity s
  | .lockstepMismatch => Sys2Proof.Machine.execLockstepMismatch s
  | .pllLockLoss pll => Sys2Proof.Machine.execPllLockLoss pll s
  | .signal ix parity => Sys2Proof.Machine.execSignal ix parity s
  | .take ix parity => Sys2Proof.Machine.execTake ix parity s
  | .mbComplete => Sys2Proof.Machine.execMbComplete s
  | .mbAdmission => Sys2Proof.Machine.execMbAdmission s
  | .stashSignalPass layer => Sys2Proof.Machine.execStashSignalPass layer s
  | .frameRelease mb => Sys2Proof.Machine.execFrameRelease mb s
  | .restoreServe => Sys2Proof.Machine.execRestoreServe s
  | .accumulatingStore ix ecc => Sys2Proof.Machine.execAccumulatingStore ix ecc s
  | .parkedAccumulate block ecc => Sys2Proof.Machine.execParkedAccumulate block ecc s
  | .stepStart => Sys2Proof.Machine.execStepStart s
  | .sweepComplete differ ecc => Sys2Proof.Machine.execSweepComplete differ ecc s
  | .stepEnd ecc => Sys2Proof.Machine.execStepEnd ecc s
  | .xferWaitTimeout => Sys2Proof.Machine.execXferWaitTimeout s
  | .bucketComplete b ecc => Sys2Proof.Machine.execBucketComplete b ecc s
  | .contrib ix ecc => Sys2Proof.Machine.execContrib ix ecc s
  | .podSum ix ecc => Sys2Proof.Machine.execPodSum ix ecc s
  | .bucketDeadlinePass b => Sys2Proof.Machine.execBucketDeadlinePass b s
  | .podDeadlinePass b => Sys2Proof.Machine.execPodDeadlinePass b s
  | .returnDeadlinePass b => Sys2Proof.Machine.execReturnDeadlinePass b s
  | .normDeadlinePass => Sys2Proof.Machine.execNormDeadlinePass s
  | .shardReduceStart => Sys2Proof.Machine.execShardReduceStart s
  | .shardReduceDone b shard pod dup ecc => Sys2Proof.Machine.execShardReduceDone b shard pod dup ecc s
  | .shardUpdateDone b shard blk dup ecc => Sys2Proof.Machine.execShardUpdateDone b shard blk dup ecc s
  | .normPart ix => Sys2Proof.Machine.execNormPart ix s
  | .norm ix => Sys2Proof.Machine.execNorm ix s
  | .returnMsg ix ecc => Sys2Proof.Machine.execReturnMsg ix ecc s
  | .returnEnd ix => Sys2Proof.Machine.execReturnEnd ix s
  | .fetch ix ecc => Sys2Proof.Machine.execFetch ix ecc s
  | .fetchData ix => Sys2Proof.Machine.execFetchData ix s
  | .fetchEnd ix ecc => Sys2Proof.Machine.execFetchEnd ix ecc s
  | .fetchTimeout ecc => Sys2Proof.Machine.execFetchTimeout ecc s
  | .stateXfer ix ecc => Sys2Proof.Machine.execStateXfer ix ecc s
  | .xferEnd ix => Sys2Proof.Machine.execXferEnd ix s
  | .compareRound ecc => Sys2Proof.Machine.execCompareRound ecc s
  | .snapshotCapture ecc => Sys2Proof.Machine.execSnapshotCapture ecc s
  | .armEpoch v => Sys2Proof.Machine.execArmEpoch v s
  | .cutoff v => Sys2Proof.Machine.execCutoff v s
  | .compareNow v => Sys2Proof.Machine.execCompareNow v s
  | .portEnableWrite port v => Sys2Proof.Machine.execPortEnableWrite port v s
  | .trainingPhaseComplete port inv reqs idx skewNs => Sys2Proof.Machine.execTrainingPhaseComplete port inv reqs idx skewNs s
  | .trainingPhaseTimeout port => Sys2Proof.Machine.execTrainingPhaseTimeout port s
  | .capSend port => Sys2Proof.Machine.execCapSend port s
  | .cap port flit fec => Sys2Proof.Machine.execCap port flit fec s
  | .probe port flit fec echoNs => Sys2Proof.Machine.execProbe port flit fec echoNs s
  | .linkFlitReceive port flit fec => Sys2Proof.Machine.execLinkFlitReceive port flit fec s
  | .nak port flit fec => Sys2Proof.Machine.execNak port flit fec s
  | .credit port flit fec => Sys2Proof.Machine.execCredit port flit fec s
  | .abort port flit fec => Sys2Proof.Machine.execAbort port flit fec s
  | .resendTimerExpiry port => Sys2Proof.Machine.execResendTimerExpiry port s
  | .idleFlitSend port => Sys2Proof.Machine.execIdleFlitSend port s
  | .creditFlitSend port => Sys2Proof.Machine.execCreditFlitSend port s
  | .timeReqSend port => Sys2Proof.Machine.execTimeReqSend port s
  | .timeReq port flit fec => Sys2Proof.Machine.execTimeReq port flit fec s
  | .timeResp port flit fec => Sys2Proof.Machine.execTimeResp port flit fec s
  | .packetRoute port vc parity => Sys2Proof.Machine.execPacketRoute port vc parity s
  | .packetDeliver => Sys2Proof.Machine.execPacketDeliver s
  | .laneSignalLoss port lane => Sys2Proof.Machine.execLaneSignalLoss port lane s
  | .alignmentLoss port lane => Sys2Proof.Machine.execAlignmentLoss port lane s
  | .lockLoss port lane => Sys2Proof.Machine.execLockLoss port lane s
  | .autoRetrain port => Sys2Proof.Machine.execAutoRetrain port s
  | .vcStall port vc => Sys2Proof.Machine.execVcStall port vc s
  | .timerEntryDue e parity => Sys2Proof.Machine.execTimerEntryDue e parity s
  | .timerSignal parity => Sys2Proof.Machine.execTimerSignal parity s
  | .timerSet parity => Sys2Proof.Machine.execTimerSet parity s
  | .bucketDeadline => Sys2Proof.Machine.execBucketDeadline s
  | .stragglerCutoff => Sys2Proof.Machine.execStragglerCutoff s
  | .digestCompare => Sys2Proof.Machine.execDigestCompare s
  | .timerSnapshot => Sys2Proof.Machine.execTimerSnapshot s
  | .placementSwitch => Sys2Proof.Machine.execPlacementSwitch s
  | .powerPolicy => Sys2Proof.Machine.execPowerPolicy s
  | .timerEntryCtrlWrite e v => Sys2Proof.Machine.execTimerEntryCtrlWrite e v s
  | .setNow v => Sys2Proof.Machine.execSetNow v s
  | .tmrStepWrite v => Sys2Proof.Machine.execTmrStepWrite v s
  | .servoSourceSelect v => Sys2Proof.Machine.execServoSourceSelect v s
  | .ctPulseEdge => Sys2Proof.Machine.execCtPulseEdge s
  | .ctRefLoss => Sys2Proof.Machine.execCtRefLoss s
  | .pulseLoss => Sys2Proof.Machine.execPulseLoss s
  | .timeRespLoss => Sys2Proof.Machine.execTimeRespLoss s
  | .sampleAccept => Sys2Proof.Machine.execSampleAccept s
  | .headerReadReturn seq busErr ecc => Sys2Proof.Machine.execHeaderReadReturn seq busErr ecc s
  | .stagingReserve => Sys2Proof.Machine.execStagingReserve s
  | .recordFetchComplete seq type busErr ecc => Sys2Proof.Machine.execRecordFetchComplete seq type busErr ecc s
  | .engineAssign kind => Sys2Proof.Machine.execEngineAssign kind s
  | .fieldDecodeComplete seq type ecc => Sys2Proof.Machine.execFieldDecodeComplete seq type ecc s
  | .fieldDecodeError seq type code => Sys2Proof.Machine.execFieldDecodeError seq type code s
  | .engineTimeReport seq us => Sys2Proof.Machine.execEngineTimeReport seq us s
  | .sampleEmit residue ecc => Sys2Proof.Machine.execSampleEmit residue ecc s
  | .rowSetSeal residue => Sys2Proof.Machine.execRowSetSeal residue s
  | .closeMb v => Sys2Proof.Machine.execCloseMb v s
  | .flush v => Sys2Proof.Machine.execFlush v s
  | .patrolScrubRead ix ecc => Sys2Proof.Machine.execPatrolScrubRead ix ecc s
  | .scrubPassComplete ix late => Sys2Proof.Machine.execScrubPassComplete ix late s
  | .submit v => Sys2Proof.Machine.execSubmit v s
  | .pop v => Sys2Proof.Machine.execPop v s
  | .crcJobStart => Sys2Proof.Machine.execCrcJobStart s
  | .crcJobComplete ecc => Sys2Proof.Machine.execCrcJobComplete ecc s
  | .provGo v => Sys2Proof.Machine.execProvGo v s
  | .provLock v => Sys2Proof.Machine.execProvLock v s
  | .fuseBitBlow ok => Sys2Proof.Machine.execFuseBitBlow ok s
  | .exportKeyCommit v => Sys2Proof.Machine.execExportKeyCommit v s
  | .exportKeyClear v => Sys2Proof.Machine.execExportKeyClear v s
  | .fuseIntegrityCheck flips => Sys2Proof.Machine.execFuseIntegrityCheck flips s
  | .tamper ns held => Sys2Proof.Machine.execTamper ns held s
  | .alarmFuseBlow => Sys2Proof.Machine.execAlarmFuseBlow s
  | .debugIntrusion => Sys2Proof.Machine.execDebugIntrusion s
  | .debugSession => Sys2Proof.Machine.execDebugSession s
  | .faultReport => Sys2Proof.Machine.execFaultReport s
  | .tileFence => Sys2Proof.Machine.execTileFence s
  | .faultRecordWrite => Sys2Proof.Machine.execFaultRecordWrite s
  | .abandonComplete => Sys2Proof.Machine.execAbandonComplete s
  | .fltInject v => Sys2Proof.Machine.execFltInject v s
  | .powerSample w => Sys2Proof.Machine.execPowerSample w s
  | .powerControlPeriod p => Sys2Proof.Machine.execPowerControlPeriod p s
  | .tempSample sensor valid t => Sys2Proof.Machine.execTempSample sensor valid t s
  | .thermalThrottleStep ms => Sys2Proof.Machine.execThermalThrottleStep ms s
  | .droopTrip rail region => Sys2Proof.Machine.execDroopTrip rail region s
  | .droopGateEnd region => Sys2Proof.Machine.execDroopGateEnd region s
  | .railSample rail mv => Sys2Proof.Machine.execRailSample rail mv s
  | .cglitch => Sys2Proof.Machine.execCglitch s
  | .registerWrite addr size value => Sys2Proof.Machine.execRegisterWrite addr size value s
  | .d3hotTransition on => Sys2Proof.Machine.execD3hotTransition on s
  | .p3v3AuxInWindow => Sys2Proof.Machine.execP3v3AuxInWindow s
  | .holdoverLimitExceeded e0 => Sys2Proof.Machine.execHoldoverLimitExceeded e0 s

end Sys2Proof.Machine
end

