-- ==== Sys2Proof/Machine/Step.lean ====
section
/-! DEFINITION. A step takes the command at the front of the queue; on an empty queue the block idles for one cycle of its time base. -/

namespace Sys2Proof.Machine

/-- A step of the block. On an empty queue one cycle of 1.25 GHz passes: cluster time and the watchdog's time base count (log entry 3). -/
def step (s : State) : Host.Outcome State Fault Refusal :=
  match s.pending with
  | [] => .next (idle s)
  | c :: r => exec c { s with pending := r }

/-- No row of spec/opcode_table.json gives bits, so no word spells a command: the state is unchanged. -/
def State.withFetchWord (s : State) (nbits w : Nat) : State :=
  match decodeTableWord nbits w with
  | some c => { s with pending := c :: s.pending }
  | none => s

end Sys2Proof.Machine
end

