-- ==== Sys2Proof/WellFormed.lean ====
section
/-! DEFINITION. Ranges of operands that their types do not fix. -/

namespace Sys2Proof

open Sys2Proof.Machine

/-- Link ports 0 to 11 (R306). -/
def okPort (p : Nat) : Bool := decide (p < 12)

/-- Inputs of the router: the ports and the local port 12 (R324). -/
def okInput (p : Nat) : Bool := decide (p ≤ 12)

/-- A link flit is 64 bytes (R314). -/
def okFlit (bs : List Byte) : Bool := bs.length == 64

/-- What training finds on the four lanes of a port (R309, R310). -/
def okLanes (inv : List Bool) (idx : List Nat) : Bool := inv.length == 4 && idx.length == 4 && idx.all fun k => decide (k < 4)

/-- Rails 0 to 12 (R546). -/
def okRail (r : BitVec 4) : Bool := decide (r.toNat ≤ 12)

/-- BAR0 writes of 1, 2, 4 or 8 naturally aligned bytes (R14). -/
def okAccess (a n : Nat) : Bool := (n == 1 || n == 2 || n == 4 || n == 8) && a % n == 0

/-- Whether a command's operands lie in their ranges. A command outside them has no effect. -/
def Instr.wf (i : Instr) : Bool :=
  match i with
  | .powerApplied => true
  | .powerRemoval => true
  | .powerLoss => true
  | .perst _ => true
  | .resetN _ => true
  | .refclkStop => true
  | .resetRelease => true
  | .bootComplete => true
  | .mgmtWatchdogExpiry => true
  | .wdtKick _ => true
  | .wdtLock _ => true
  | .ctlHciHostWrite _ => true
  | .sqTailDoorbell _ _ _ => true
  | .cqHeadDoorbell _ _ _ => true
  | .sqEntryFetch _ => true
  | .hifSqCfgWrite _ _ => true
  | .hifCqCfgWrite _ _ => true
  | .hifBar4BaseWrite _ _ => true
  | .bar4Read _ len _ => decide (1 ≤ len)
  | .bar4Write _ bytes _ => !bytes.isEmpty
  | .msixCoalesceTimeout _ => true
  | .nop _ => true
  | .identify _ => true
  | .imageLoad _ _ _ _ => true
  | .arm _ => true
  | .disarm _ => true
  | .run _ => true
  | .drain _ => true
  | .stepAbort _ => true
  | .faultClear _ => true
  | .warmReset _ => true
  | .sample _ => true
  | .syncSignal _ _ => true
  | .syncTake _ _ => true
  | .syncSet _ _ => true
  | .syncArm _ _ => true
  | .syncRead _ _ => true
  | .syncNotify _ _ => true
  | .exportCmd _ _ => true
  | .importCmd _ _ => true
  | .snapshot _ => true
  | .mailSend _ => true
  | .mailRecv _ => true
  | .attest _ => true
  | .rollbackAdvance _ => true
  | .i3cAddrAssign _ => true
  | .setEndpointId _ => true
  | .getEndpointId => true
  | .getMctpVersionSupport => true
  | .getMessageTypeSupport => true
  | .getTid => true
  | .getPldmVersion => true
  | .getPldmTypes => true
  | .getPldmCommands => true
  | .getPdrRepositoryInfo => true
  | .getPdr _ => true
  | .getSensorReading _ => true
  | .getStateSensorReadings => true
  | .mgmtUnsupportedRequest _ _ => true
  | .firingStart _ _ _ _ _ => true
  | .firingEnd _ _ _ => true
  | .checksumVerdict _ _ _ _ => true
  | .memoryDropReturn _ _ _ => true
  | .eccWriteBack _ => true
  | .flitHop _ _ _ _ => true
  | .flitEject _ _ _ => true
  | .tileCreditMessage _ _ _ => true
  | .tileCreditSend _ _ => true
  | .swappedSlotLoad _ _ => true
  | .descriptorLoadComplete _ _ => true
  | .tilHaltWrite _ _ => true
  | .stemEngineStart _ _ => true
  | .spoonRecompute _ => true
  | .tileWatchdogExpiry _ _ => true
  | .heartbeatTimeout _ _ => true
  | .lockstepMismatch => true
  | .pllLockLoss _ => true
  | .signal _ _ => true
  | .take _ _ => true
  | .mbComplete => true
  | .mbAdmission => true
  | .stashSignalPass _ => true
  | .frameRelease _ => true
  | .restoreServe => true
  | .accumulatingStore _ _ => true
  | .parkedAccumulate _ _ => true
  | .stepStart => true
  | .sweepComplete _ _ => true
  | .stepEnd _ => true
  | .xferWaitTimeout => true
  | .bucketComplete _ _ => true
  | .contrib _ _ => true
  | .podSum _ _ => true
  | .bucketDeadlinePass _ => true
  | .podDeadlinePass _ => true
  | .returnDeadlinePass _ => true
  | .normDeadlinePass => true
  | .shardReduceStart => true
  | .shardReduceDone _ _ _ _ _ => true
  | .shardUpdateDone _ _ _ _ _ => true
  | .normPart _ => true
  | .norm _ => true
  | .returnMsg _ _ => true
  | .returnEnd _ => true
  | .fetch _ _ => true
  | .fetchData _ => true
  | .fetchEnd _ _ => true
  | .fetchTimeout _ => true
  | .stateXfer _ _ => true
  | .xferEnd _ => true
  | .compareRound _ => true
  | .snapshotCapture _ => true
  | .armEpoch _ => true
  | .cutoff _ => true
  | .compareNow _ => true
  | .portEnableWrite port _ => okPort port
  | .trainingPhaseComplete port inv reqs idx _ => okPort port && okLanes inv idx && reqs.length == 4
  | .trainingPhaseTimeout port => okPort port
  | .capSend port => okPort port
  | .cap port flit _ => okPort port && okFlit flit
  | .probe port flit _ _ => okPort port && okFlit flit
  | .linkFlitReceive port flit _ => okPort port && okFlit flit
  | .nak port flit _ => okPort port && okFlit flit
  | .credit port flit _ => okPort port && okFlit flit
  | .abort port flit _ => okPort port && okFlit flit
  | .resendTimerExpiry port => okPort port
  | .idleFlitSend port => okPort port
  | .creditFlitSend port => okPort port
  | .timeReqSend port => okPort port
  | .timeReq port flit _ => okPort port && okFlit flit
  | .timeResp port flit _ => okPort port && okFlit flit
  | .packetRoute port _ _ => okInput port
  | .packetDeliver => true
  | .laneSignalLoss port _ => okPort port
  | .alignmentLoss port _ => okPort port
  | .lockLoss port _ => okPort port
  | .autoRetrain port => okPort port
  | .vcStall port _ => okInput port
  | .timerEntryDue _ _ => true
  | .timerSignal _ => true
  | .timerSet _ => true
  | .bucketDeadline => true
  | .stragglerCutoff => true
  | .digestCompare => true
  | .timerSnapshot => true
  | .placementSwitch => true
  | .powerPolicy => true
  | .timerEntryCtrlWrite _ _ => true
  | .setNow _ => true
  | .tmrStepWrite _ => true
  | .servoSourceSelect _ => true
  | .ctPulseEdge => true
  | .ctRefLoss => true
  | .pulseLoss => true
  | .timeRespLoss => true
  | .sampleAccept => true
  | .headerReadReturn _ _ _ => true
  | .stagingReserve => true
  | .recordFetchComplete _ _ _ _ => true
  | .engineAssign _ => true
  | .fieldDecodeComplete _ _ _ => true
  | .fieldDecodeError _ _ _ => true
  | .engineTimeReport _ _ => true
  | .sampleEmit _ _ => true
  | .rowSetSeal _ => true
  | .closeMb _ => true
  | .flush _ => true
  | .patrolScrubRead _ _ => true
  | .scrubPassComplete _ _ => true
  | .submit _ => true
  | .pop _ => true
  | .crcJobStart => true
  | .crcJobComplete _ => true
  | .provGo _ => true
  | .provLock _ => true
  | .fuseBitBlow _ => true
  | .exportKeyCommit _ => true
  | .exportKeyClear _ => true
  | .fuseIntegrityCheck flips => flips.all fun i => decide (i < 4096)
  | .tamper _ _ => true
  | .alarmFuseBlow => true
  | .debugIntrusion => true
  | .debugSession => true
  | .faultReport => true
  | .tileFence => true
  | .faultRecordWrite => true
  | .abandonComplete => true
  | .fltInject _ => true
  | .powerSample _ => true
  | .powerControlPeriod _ => true
  | .tempSample sensor _ _ => decide (sensor.toNat < 77)
  | .thermalThrottleStep _ => true
  | .droopTrip rail region => okRail rail && (decide (3 < rail.toNat) || region.toNat / 4 == rail.toNat)
  | .droopGateEnd _ => true
  | .railSample rail _ => okRail rail
  | .cglitch => true
  | .registerWrite addr size _ => okAccess addr.toNat size
  | .d3hotTransition _ => true
  | .p3v3AuxInWindow => true
  | .holdoverLimitExceeded _ => true

/-- The router input or link port a command names. -/
def Instr.port? (i : Instr) : Option Nat :=
  match i with
  | .powerApplied => none
  | .powerRemoval => none
  | .powerLoss => none
  | .perst _ => none
  | .resetN _ => none
  | .refclkStop => none
  | .resetRelease => none
  | .bootComplete => none
  | .mgmtWatchdogExpiry => none
  | .wdtKick _ => none
  | .wdtLock _ => none
  | .ctlHciHostWrite _ => none
  | .sqTailDoorbell _ _ _ => none
  | .cqHeadDoorbell _ _ _ => none
  | .sqEntryFetch _ => none
  | .hifSqCfgWrite _ _ => none
  | .hifCqCfgWrite _ _ => none
  | .hifBar4BaseWrite _ _ => none
  | .bar4Read _ _ _ => none
  | .bar4Write _ _ _ => none
  | .msixCoalesceTimeout _ => none
  | .nop _ => none
  | .identify _ => none
  | .imageLoad _ _ _ _ => none
  | .arm _ => none
  | .disarm _ => none
  | .run _ => none
  | .drain _ => none
  | .stepAbort _ => none
  | .faultClear _ => none
  | .warmReset _ => none
  | .sample _ => none
  | .syncSignal _ _ => none
  | .syncTake _ _ => none
  | .syncSet _ _ => none
  | .syncArm _ _ => none
  | .syncRead _ _ => none
  | .syncNotify _ _ => none
  | .exportCmd _ _ => none
  | .importCmd _ _ => none
  | .snapshot _ => none
  | .mailSend _ => none
  | .mailRecv _ => none
  | .attest _ => none
  | .rollbackAdvance _ => none
  | .i3cAddrAssign _ => none
  | .setEndpointId _ => none
  | .getEndpointId => none
  | .getMctpVersionSupport => none
  | .getMessageTypeSupport => none
  | .getTid => none
  | .getPldmVersion => none
  | .getPldmTypes => none
  | .getPldmCommands => none
  | .getPdrRepositoryInfo => none
  | .getPdr _ => none
  | .getSensorReading _ => none
  | .getStateSensorReadings => none
  | .mgmtUnsupportedRequest _ _ => none
  | .firingStart _ _ _ _ _ => none
  | .firingEnd _ _ _ => none
  | .checksumVerdict _ _ _ _ => none
  | .memoryDropReturn _ _ _ => none
  | .eccWriteBack _ => none
  | .flitHop _ _ _ _ => none
  | .flitEject _ _ _ => none
  | .tileCreditMessage _ _ _ => none
  | .tileCreditSend _ _ => none
  | .swappedSlotLoad _ _ => none
  | .descriptorLoadComplete _ _ => none
  | .tilHaltWrite _ _ => none
  | .stemEngineStart _ _ => none
  | .spoonRecompute _ => none
  | .tileWatchdogExpiry _ _ => none
  | .heartbeatTimeout _ _ => none
  | .lockstepMismatch => none
  | .pllLockLoss _ => none
  | .signal _ _ => none
  | .take _ _ => none
  | .mbComplete => none
  | .mbAdmission => none
  | .stashSignalPass _ => none
  | .frameRelease _ => none
  | .restoreServe => none
  | .accumulatingStore _ _ => none
  | .parkedAccumulate _ _ => none
  | .stepStart => none
  | .sweepComplete _ _ => none
  | .stepEnd _ => none
  | .xferWaitTimeout => none
  | .bucketComplete _ _ => none
  | .contrib _ _ => none
  | .podSum _ _ => none
  | .bucketDeadlinePass _ => none
  | .podDeadlinePass _ => none
  | .returnDeadlinePass _ => none
  | .normDeadlinePass => none
  | .shardReduceStart => none
  | .shardReduceDone _ _ _ _ _ => none
  | .shardUpdateDone _ _ _ _ _ => none
  | .normPart _ => none
  | .norm _ => none
  | .returnMsg _ _ => none
  | .returnEnd _ => none
  | .fetch _ _ => none
  | .fetchData _ => none
  | .fetchEnd _ _ => none
  | .fetchTimeout _ => none
  | .stateXfer _ _ => none
  | .xferEnd _ => none
  | .compareRound _ => none
  | .snapshotCapture _ => none
  | .armEpoch _ => none
  | .cutoff _ => none
  | .compareNow _ => none
  | .portEnableWrite port _ => some port
  | .trainingPhaseComplete port _ _ _ _ => some port
  | .trainingPhaseTimeout port => some port
  | .capSend port => some port
  | .cap port _ _ => some port
  | .probe port _ _ _ => some port
  | .linkFlitReceive port _ _ => some port
  | .nak port _ _ => some port
  | .credit port _ _ => some port
  | .abort port _ _ => some port
  | .resendTimerExpiry port => some port
  | .idleFlitSend port => some port
  | .creditFlitSend port => some port
  | .timeReqSend port => some port
  | .timeReq port _ _ => some port
  | .timeResp port _ _ => some port
  | .packetRoute port _ _ => some port
  | .packetDeliver => none
  | .laneSignalLoss port _ => some port
  | .alignmentLoss port _ => some port
  | .lockLoss port _ => some port
  | .autoRetrain port => some port
  | .vcStall port _ => some port
  | .timerEntryDue _ _ => none
  | .timerSignal _ => none
  | .timerSet _ => none
  | .bucketDeadline => none
  | .stragglerCutoff => none
  | .digestCompare => none
  | .timerSnapshot => none
  | .placementSwitch => none
  | .powerPolicy => none
  | .timerEntryCtrlWrite _ _ => none
  | .setNow _ => none
  | .tmrStepWrite _ => none
  | .servoSourceSelect _ => none
  | .ctPulseEdge => none
  | .ctRefLoss => none
  | .pulseLoss => none
  | .timeRespLoss => none
  | .sampleAccept => none
  | .headerReadReturn _ _ _ => none
  | .stagingReserve => none
  | .recordFetchComplete _ _ _ _ => none
  | .engineAssign _ => none
  | .fieldDecodeComplete _ _ _ => none
  | .fieldDecodeError _ _ _ => none
  | .engineTimeReport _ _ => none
  | .sampleEmit _ _ => none
  | .rowSetSeal _ => none
  | .closeMb _ => none
  | .flush _ => none
  | .patrolScrubRead _ _ => none
  | .scrubPassComplete _ _ => none
  | .submit _ => none
  | .pop _ => none
  | .crcJobStart => none
  | .crcJobComplete _ => none
  | .provGo _ => none
  | .provLock _ => none
  | .fuseBitBlow _ => none
  | .exportKeyCommit _ => none
  | .exportKeyClear _ => none
  | .fuseIntegrityCheck _ => none
  | .tamper _ _ => none
  | .alarmFuseBlow => none
  | .debugIntrusion => none
  | .debugSession => none
  | .faultReport => none
  | .tileFence => none
  | .faultRecordWrite => none
  | .abandonComplete => none
  | .fltInject _ => none
  | .powerSample _ => none
  | .powerControlPeriod _ => none
  | .tempSample _ _ _ => none
  | .thermalThrottleStep _ => none
  | .droopTrip _ _ => none
  | .droopGateEnd _ => none
  | .railSample _ _ => none
  | .cglitch => none
  | .registerWrite _ _ _ => none
  | .d3hotTransition _ => none
  | .p3v3AuxInWindow => none
  | .holdoverLimitExceeded _ => none

/-- The link flit a command brings. -/
def Instr.flit? (i : Instr) : Option (List Byte) :=
  match i with
  | .powerApplied => none
  | .powerRemoval => none
  | .powerLoss => none
  | .perst _ => none
  | .resetN _ => none
  | .refclkStop => none
  | .resetRelease => none
  | .bootComplete => none
  | .mgmtWatchdogExpiry => none
  | .wdtKick _ => none
  | .wdtLock _ => none
  | .ctlHciHostWrite _ => none
  | .sqTailDoorbell _ _ _ => none
  | .cqHeadDoorbell _ _ _ => none
  | .sqEntryFetch _ => none
  | .hifSqCfgWrite _ _ => none
  | .hifCqCfgWrite _ _ => none
  | .hifBar4BaseWrite _ _ => none
  | .bar4Read _ _ _ => none
  | .bar4Write _ _ _ => none
  | .msixCoalesceTimeout _ => none
  | .nop _ => none
  | .identify _ => none
  | .imageLoad _ _ _ _ => none
  | .arm _ => none
  | .disarm _ => none
  | .run _ => none
  | .drain _ => none
  | .stepAbort _ => none
  | .faultClear _ => none
  | .warmReset _ => none
  | .sample _ => none
  | .syncSignal _ _ => none
  | .syncTake _ _ => none
  | .syncSet _ _ => none
  | .syncArm _ _ => none
  | .syncRead _ _ => none
  | .syncNotify _ _ => none
  | .exportCmd _ _ => none
  | .importCmd _ _ => none
  | .snapshot _ => none
  | .mailSend _ => none
  | .mailRecv _ => none
  | .attest _ => none
  | .rollbackAdvance _ => none
  | .i3cAddrAssign _ => none
  | .setEndpointId _ => none
  | .getEndpointId => none
  | .getMctpVersionSupport => none
  | .getMessageTypeSupport => none
  | .getTid => none
  | .getPldmVersion => none
  | .getPldmTypes => none
  | .getPldmCommands => none
  | .getPdrRepositoryInfo => none
  | .getPdr _ => none
  | .getSensorReading _ => none
  | .getStateSensorReadings => none
  | .mgmtUnsupportedRequest _ _ => none
  | .firingStart _ _ _ _ _ => none
  | .firingEnd _ _ _ => none
  | .checksumVerdict _ _ _ _ => none
  | .memoryDropReturn _ _ _ => none
  | .eccWriteBack _ => none
  | .flitHop _ _ _ _ => none
  | .flitEject _ _ _ => none
  | .tileCreditMessage _ _ _ => none
  | .tileCreditSend _ _ => none
  | .swappedSlotLoad _ _ => none
  | .descriptorLoadComplete _ _ => none
  | .tilHaltWrite _ _ => none
  | .stemEngineStart _ _ => none
  | .spoonRecompute _ => none
  | .tileWatchdogExpiry _ _ => none
  | .heartbeatTimeout _ _ => none
  | .lockstepMismatch => none
  | .pllLockLoss _ => none
  | .signal _ _ => none
  | .take _ _ => none
  | .mbComplete => none
  | .mbAdmission => none
  | .stashSignalPass _ => none
  | .frameRelease _ => none
  | .restoreServe => none
  | .accumulatingStore _ _ => none
  | .parkedAccumulate _ _ => none
  | .stepStart => none
  | .sweepComplete _ _ => none
  | .stepEnd _ => none
  | .xferWaitTimeout => none
  | .bucketComplete _ _ => none
  | .contrib _ _ => none
  | .podSum _ _ => none
  | .bucketDeadlinePass _ => none
  | .podDeadlinePass _ => none
  | .returnDeadlinePass _ => none
  | .normDeadlinePass => none
  | .shardReduceStart => none
  | .shardReduceDone _ _ _ _ _ => none
  | .shardUpdateDone _ _ _ _ _ => none
  | .normPart _ => none
  | .norm _ => none
  | .returnMsg _ _ => none
  | .returnEnd _ => none
  | .fetch _ _ => none
  | .fetchData _ => none
  | .fetchEnd _ _ => none
  | .fetchTimeout _ => none
  | .stateXfer _ _ => none
  | .xferEnd _ => none
  | .compareRound _ => none
  | .snapshotCapture _ => none
  | .armEpoch _ => none
  | .cutoff _ => none
  | .compareNow _ => none
  | .portEnableWrite _ _ => none
  | .trainingPhaseComplete _ _ _ _ _ => none
  | .trainingPhaseTimeout _ => none
  | .capSend _ => none
  | .cap _ flit _ => some flit
  | .probe _ flit _ _ => some flit
  | .linkFlitReceive _ flit _ => some flit
  | .nak _ flit _ => some flit
  | .credit _ flit _ => some flit
  | .abort _ flit _ => some flit
  | .resendTimerExpiry _ => none
  | .idleFlitSend _ => none
  | .creditFlitSend _ => none
  | .timeReqSend _ => none
  | .timeReq _ flit _ => some flit
  | .timeResp _ flit _ => some flit
  | .packetRoute _ _ _ => none
  | .packetDeliver => none
  | .laneSignalLoss _ _ => none
  | .alignmentLoss _ _ => none
  | .lockLoss _ _ => none
  | .autoRetrain _ => none
  | .vcStall _ _ => none
  | .timerEntryDue _ _ => none
  | .timerSignal _ => none
  | .timerSet _ => none
  | .bucketDeadline => none
  | .stragglerCutoff => none
  | .digestCompare => none
  | .timerSnapshot => none
  | .placementSwitch => none
  | .powerPolicy => none
  | .timerEntryCtrlWrite _ _ => none
  | .setNow _ => none
  | .tmrStepWrite _ => none
  | .servoSourceSelect _ => none
  | .ctPulseEdge => none
  | .ctRefLoss => none
  | .pulseLoss => none
  | .timeRespLoss => none
  | .sampleAccept => none
  | .headerReadReturn _ _ _ => none
  | .stagingReserve => none
  | .recordFetchComplete _ _ _ _ => none
  | .engineAssign _ => none
  | .fieldDecodeComplete _ _ _ => none
  | .fieldDecodeError _ _ _ => none
  | .engineTimeReport _ _ => none
  | .sampleEmit _ _ => none
  | .rowSetSeal _ => none
  | .closeMb _ => none
  | .flush _ => none
  | .patrolScrubRead _ _ => none
  | .scrubPassComplete _ _ => none
  | .submit _ => none
  | .pop _ => none
  | .crcJobStart => none
  | .crcJobComplete _ => none
  | .provGo _ => none
  | .provLock _ => none
  | .fuseBitBlow _ => none
  | .exportKeyCommit _ => none
  | .exportKeyClear _ => none
  | .fuseIntegrityCheck _ => none
  | .tamper _ _ => none
  | .alarmFuseBlow => none
  | .debugIntrusion => none
  | .debugSession => none
  | .faultReport => none
  | .tileFence => none
  | .faultRecordWrite => none
  | .abandonComplete => none
  | .fltInject _ => none
  | .powerSample _ => none
  | .powerControlPeriod _ => none
  | .tempSample _ _ _ => none
  | .thermalThrottleStep _ => none
  | .droopTrip _ _ => none
  | .droopGateEnd _ => none
  | .railSample _ _ => none
  | .cglitch => none
  | .registerWrite _ _ _ => none
  | .d3hotTransition _ => none
  | .p3v3AuxInWindow => none
  | .holdoverLimitExceeded _ => none

end Sys2Proof
end

