-- ==== Sys2Proof/Laws/PerInstr.lean ====
section
/-! SUPPORT. Per command: a well-formed one names a port or router input that exists, and brings a flit of 64 bytes (R306, R314, R324). -/

namespace Sys2Proof.Laws.Sized

open Sys2Proof

/-- Of a well-formed command: the port it names is a router input, the flit it brings is whole. -/
def Statement (i : Instr) : Prop := i.wf = true → (∀ p, i.port? = some p → p ≤ 12) ∧ (∀ f, i.flit? = some f → f.length = 64)

/-- A command that names neither. -/
theorem of_none {i : Instr} (hp : i.port? = none) (hf : i.flit? = none) : Statement i :=
  fun _ => ⟨fun _ h => (by rw [hp] at h; cases h), fun _ h => (by rw [hf] at h; cases h)⟩

/-- A command that names a router input. -/
theorem of_input {i : Instr} {p : Nat} (hw : i.wf = okInput p) (hp : i.port? = some p) (hf : i.flit? = none) : Statement i :=
  fun h => ⟨fun q hq => (by rw [hp] at hq; cases hq; rw [hw] at h; exact of_decide_eq_true h), fun _ hq => (by rw [hf] at hq; cases hq)⟩

/-- A command that names a link port. -/
theorem of_port {i : Instr} {p : Nat} (hw : i.wf = true → okPort p = true) (hp : i.port? = some p) (hf : i.flit? = none) : Statement i :=
  fun h => ⟨fun q hq => (by rw [hp] at hq; cases hq; exact Nat.le_of_lt (of_decide_eq_true (hw h))), fun _ hq => (by rw [hf] at hq; cases hq)⟩

/-- A command that brings a flit on a link port. -/
theorem of_link {i : Instr} {p : Nat} {f : List Byte} (hw : i.wf = (okPort p && okFlit f)) (hp : i.port? = some p) (hf : i.flit? = some f) : Statement i :=
  fun h => by
    rw [hw, Bool.and_eq_true] at h
    exact ⟨fun q hq => (by rw [hp] at hq; cases hq; exact Nat.le_of_lt (of_decide_eq_true h.1)), fun g hg => (by rw [hf] at hg; cases hg; exact eq_of_beq h.2)⟩

theorem powerApplied : Statement (.powerApplied) := of_none rfl rfl
theorem powerRemoval : Statement (.powerRemoval) := of_none rfl rfl
theorem powerLoss : Statement (.powerLoss) := of_none rfl rfl
theorem perst : ∀ x0, Statement (.perst x0) := fun _ => of_none rfl rfl
theorem resetN : ∀ x0, Statement (.resetN x0) := fun _ => of_none rfl rfl
theorem refclkStop : Statement (.refclkStop) := of_none rfl rfl
theorem resetRelease : Statement (.resetRelease) := of_none rfl rfl
theorem bootComplete : Statement (.bootComplete) := of_none rfl rfl
theorem mgmtWatchdogExpiry : Statement (.mgmtWatchdogExpiry) := of_none rfl rfl
theorem wdtKick : ∀ x0, Statement (.wdtKick x0) := fun _ => of_none rfl rfl
theorem wdtLock : ∀ x0, Statement (.wdtLock x0) := fun _ => of_none rfl rfl
theorem ctlHciHostWrite : ∀ x0, Statement (.ctlHciHostWrite x0) := fun _ => of_none rfl rfl
theorem sqTailDoorbell : ∀ x0 x1 x2, Statement (.sqTailDoorbell x0 x1 x2) := fun _ _ _ => of_none rfl rfl
theorem cqHeadDoorbell : ∀ x0 x1 x2, Statement (.cqHeadDoorbell x0 x1 x2) := fun _ _ _ => of_none rfl rfl
theorem sqEntryFetch : ∀ x0, Statement (.sqEntryFetch x0) := fun _ => of_none rfl rfl
theorem hifSqCfgWrite : ∀ x0 x1, Statement (.hifSqCfgWrite x0 x1) := fun _ _ => of_none rfl rfl
theorem hifCqCfgWrite : ∀ x0 x1, Statement (.hifCqCfgWrite x0 x1) := fun _ _ => of_none rfl rfl
theorem hifBar4BaseWrite : ∀ x0 x1, Statement (.hifBar4BaseWrite x0 x1) := fun _ _ => of_none rfl rfl
theorem bar4Read : ∀ x0 x1 x2, Statement (.bar4Read x0 x1 x2) := fun _ _ _ => of_none rfl rfl
theorem bar4Write : ∀ x0 x1 x2, Statement (.bar4Write x0 x1 x2) := fun _ _ _ => of_none rfl rfl
theorem msixCoalesceTimeout : ∀ x0, Statement (.msixCoalesceTimeout x0) := fun _ => of_none rfl rfl
theorem nop : ∀ x0, Statement (.nop x0) := fun _ => of_none rfl rfl
theorem identify : ∀ x0, Statement (.identify x0) := fun _ => of_none rfl rfl
theorem imageLoad : ∀ x0 x1 x2 x3, Statement (.imageLoad x0 x1 x2 x3) := fun _ _ _ _ => of_none rfl rfl
theorem arm : ∀ x0, Statement (.arm x0) := fun _ => of_none rfl rfl
theorem disarm : ∀ x0, Statement (.disarm x0) := fun _ => of_none rfl rfl
theorem run : ∀ x0, Statement (.run x0) := fun _ => of_none rfl rfl
theorem drain : ∀ x0, Statement (.drain x0) := fun _ => of_none rfl rfl
theorem stepAbort : ∀ x0, Statement (.stepAbort x0) := fun _ => of_none rfl rfl
theorem faultClear : ∀ x0, Statement (.faultClear x0) := fun _ => of_none rfl rfl
theorem warmReset : ∀ x0, Statement (.warmReset x0) := fun _ => of_none rfl rfl
theorem sample : ∀ x0, Statement (.sample x0) := fun _ => of_none rfl rfl
theorem syncSignal : ∀ x0 x1, Statement (.syncSignal x0 x1) := fun _ _ => of_none rfl rfl
theorem syncTake : ∀ x0 x1, Statement (.syncTake x0 x1) := fun _ _ => of_none rfl rfl
theorem syncSet : ∀ x0 x1, Statement (.syncSet x0 x1) := fun _ _ => of_none rfl rfl
theorem syncArm : ∀ x0 x1, Statement (.syncArm x0 x1) := fun _ _ => of_none rfl rfl
theorem syncRead : ∀ x0 x1, Statement (.syncRead x0 x1) := fun _ _ => of_none rfl rfl
theorem syncNotify : ∀ x0 x1, Statement (.syncNotify x0 x1) := fun _ _ => of_none rfl rfl
theorem exportCmd : ∀ x0 x1, Statement (.exportCmd x0 x1) := fun _ _ => of_none rfl rfl
theorem importCmd : ∀ x0 x1, Statement (.importCmd x0 x1) := fun _ _ => of_none rfl rfl
theorem snapshot : ∀ x0, Statement (.snapshot x0) := fun _ => of_none rfl rfl
theorem mailSend : ∀ x0, Statement (.mailSend x0) := fun _ => of_none rfl rfl
theorem mailRecv : ∀ x0, Statement (.mailRecv x0) := fun _ => of_none rfl rfl
theorem attest : ∀ x0, Statement (.attest x0) := fun _ => of_none rfl rfl
theorem rollbackAdvance : ∀ x0, Statement (.rollbackAdvance x0) := fun _ => of_none rfl rfl
theorem i3cAddrAssign : ∀ x0, Statement (.i3cAddrAssign x0) := fun _ => of_none rfl rfl
theorem setEndpointId : ∀ x0, Statement (.setEndpointId x0) := fun _ => of_none rfl rfl
theorem getEndpointId : Statement (.getEndpointId) := of_none rfl rfl
theorem getMctpVersionSupport : Statement (.getMctpVersionSupport) := of_none rfl rfl
theorem getMessageTypeSupport : Statement (.getMessageTypeSupport) := of_none rfl rfl
theorem getTid : Statement (.getTid) := of_none rfl rfl
theorem getPldmVersion : Statement (.getPldmVersion) := of_none rfl rfl
theorem getPldmTypes : Statement (.getPldmTypes) := of_none rfl rfl
theorem getPldmCommands : Statement (.getPldmCommands) := of_none rfl rfl
theorem getPdrRepositoryInfo : Statement (.getPdrRepositoryInfo) := of_none rfl rfl
theorem getPdr : ∀ x0, Statement (.getPdr x0) := fun _ => of_none rfl rfl
theorem getSensorReading : ∀ x0, Statement (.getSensorReading x0) := fun _ => of_none rfl rfl
theorem getStateSensorReadings : Statement (.getStateSensorReadings) := of_none rfl rfl
theorem mgmtUnsupportedRequest : ∀ x0 x1, Statement (.mgmtUnsupportedRequest x0 x1) := fun _ _ => of_none rfl rfl
theorem firingStart : ∀ x0 x1 x2 x3 x4, Statement (.firingStart x0 x1 x2 x3 x4) := fun _ _ _ _ _ => of_none rfl rfl
theorem firingEnd : ∀ x0 x1 x2, Statement (.firingEnd x0 x1 x2) := fun _ _ _ => of_none rfl rfl
theorem checksumVerdict : ∀ x0 x1 x2 x3, Statement (.checksumVerdict x0 x1 x2 x3) := fun _ _ _ _ => of_none rfl rfl
theorem memoryDropReturn : ∀ x0 x1 x2, Statement (.memoryDropReturn x0 x1 x2) := fun _ _ _ => of_none rfl rfl
theorem eccWriteBack : ∀ x0, Statement (.eccWriteBack x0) := fun _ => of_none rfl rfl
theorem flitHop : ∀ x0 x1 x2 x3, Statement (.flitHop x0 x1 x2 x3) := fun _ _ _ _ => of_none rfl rfl
theorem flitEject : ∀ x0 x1 x2, Statement (.flitEject x0 x1 x2) := fun _ _ _ => of_none rfl rfl
theorem tileCreditMessage : ∀ x0 x1 x2, Statement (.tileCreditMessage x0 x1 x2) := fun _ _ _ => of_none rfl rfl
theorem tileCreditSend : ∀ x0 x1, Statement (.tileCreditSend x0 x1) := fun _ _ => of_none rfl rfl
theorem swappedSlotLoad : ∀ x0 x1, Statement (.swappedSlotLoad x0 x1) := fun _ _ => of_none rfl rfl
theorem descriptorLoadComplete : ∀ x0 x1, Statement (.descriptorLoadComplete x0 x1) := fun _ _ => of_none rfl rfl
theorem tilHaltWrite : ∀ x0 x1, Statement (.tilHaltWrite x0 x1) := fun _ _ => of_none rfl rfl
theorem stemEngineStart : ∀ x0 x1, Statement (.stemEngineStart x0 x1) := fun _ _ => of_none rfl rfl
theorem spoonRecompute : ∀ x0, Statement (.spoonRecompute x0) := fun _ => of_none rfl rfl
theorem tileWatchdogExpiry : ∀ x0 x1, Statement (.tileWatchdogExpiry x0 x1) := fun _ _ => of_none rfl rfl
theorem heartbeatTimeout : ∀ x0 x1, Statement (.heartbeatTimeout x0 x1) := fun _ _ => of_none rfl rfl
theorem lockstepMismatch : Statement (.lockstepMismatch) := of_none rfl rfl
theorem pllLockLoss : ∀ x0, Statement (.pllLockLoss x0) := fun _ => of_none rfl rfl
theorem signal : ∀ x0 x1, Statement (.signal x0 x1) := fun _ _ => of_none rfl rfl
theorem take : ∀ x0 x1, Statement (.take x0 x1) := fun _ _ => of_none rfl rfl
theorem mbComplete : Statement (.mbComplete) := of_none rfl rfl
theorem mbAdmission : Statement (.mbAdmission) := of_none rfl rfl
theorem stashSignalPass : ∀ x0, Statement (.stashSignalPass x0) := fun _ => of_none rfl rfl
theorem frameRelease : ∀ x0, Statement (.frameRelease x0) := fun _ => of_none rfl rfl
theorem restoreServe : Statement (.restoreServe) := of_none rfl rfl
theorem accumulatingStore : ∀ x0 x1, Statement (.accumulatingStore x0 x1) := fun _ _ => of_none rfl rfl
theorem parkedAccumulate : ∀ x0 x1, Statement (.parkedAccumulate x0 x1) := fun _ _ => of_none rfl rfl
theorem stepStart : Statement (.stepStart) := of_none rfl rfl
theorem sweepComplete : ∀ x0 x1, Statement (.sweepComplete x0 x1) := fun _ _ => of_none rfl rfl
theorem stepEnd : ∀ x0, Statement (.stepEnd x0) := fun _ => of_none rfl rfl
theorem xferWaitTimeout : Statement (.xferWaitTimeout) := of_none rfl rfl
theorem bucketComplete : ∀ x0 x1, Statement (.bucketComplete x0 x1) := fun _ _ => of_none rfl rfl
theorem contrib : ∀ x0 x1, Statement (.contrib x0 x1) := fun _ _ => of_none rfl rfl
theorem podSum : ∀ x0 x1, Statement (.podSum x0 x1) := fun _ _ => of_none rfl rfl
theorem bucketDeadlinePass : ∀ x0, Statement (.bucketDeadlinePass x0) := fun _ => of_none rfl rfl
theorem podDeadlinePass : ∀ x0, Statement (.podDeadlinePass x0) := fun _ => of_none rfl rfl
theorem returnDeadlinePass : ∀ x0, Statement (.returnDeadlinePass x0) := fun _ => of_none rfl rfl
theorem normDeadlinePass : Statement (.normDeadlinePass) := of_none rfl rfl
theorem shardReduceStart : Statement (.shardReduceStart) := of_none rfl rfl
theorem shardReduceDone : ∀ x0 x1 x2 x3 x4, Statement (.shardReduceDone x0 x1 x2 x3 x4) := fun _ _ _ _ _ => of_none rfl rfl
theorem shardUpdateDone : ∀ x0 x1 x2 x3 x4, Statement (.shardUpdateDone x0 x1 x2 x3 x4) := fun _ _ _ _ _ => of_none rfl rfl
theorem normPart : ∀ x0, Statement (.normPart x0) := fun _ => of_none rfl rfl
theorem norm : ∀ x0, Statement (.norm x0) := fun _ => of_none rfl rfl
theorem returnMsg : ∀ x0 x1, Statement (.returnMsg x0 x1) := fun _ _ => of_none rfl rfl
theorem returnEnd : ∀ x0, Statement (.returnEnd x0) := fun _ => of_none rfl rfl
theorem fetch : ∀ x0 x1, Statement (.fetch x0 x1) := fun _ _ => of_none rfl rfl
theorem fetchData : ∀ x0, Statement (.fetchData x0) := fun _ => of_none rfl rfl
theorem fetchEnd : ∀ x0 x1, Statement (.fetchEnd x0 x1) := fun _ _ => of_none rfl rfl
theorem fetchTimeout : ∀ x0, Statement (.fetchTimeout x0) := fun _ => of_none rfl rfl
theorem stateXfer : ∀ x0 x1, Statement (.stateXfer x0 x1) := fun _ _ => of_none rfl rfl
theorem xferEnd : ∀ x0, Statement (.xferEnd x0) := fun _ => of_none rfl rfl
theorem compareRound : ∀ x0, Statement (.compareRound x0) := fun _ => of_none rfl rfl
theorem snapshotCapture : ∀ x0, Statement (.snapshotCapture x0) := fun _ => of_none rfl rfl
theorem armEpoch : ∀ x0, Statement (.armEpoch x0) := fun _ => of_none rfl rfl
theorem cutoff : ∀ x0, Statement (.cutoff x0) := fun _ => of_none rfl rfl
theorem compareNow : ∀ x0, Statement (.compareNow x0) := fun _ => of_none rfl rfl
theorem portEnableWrite : ∀ x0 x1, Statement (.portEnableWrite x0 x1) := fun _ _ => of_port id rfl rfl
theorem trainingPhaseComplete : ∀ x0 x1 x2 x3 x4, Statement (.trainingPhaseComplete x0 x1 x2 x3 x4) := fun _ _ _ _ _ => of_port (fun h => ((Bool.and_eq_true _ _).mp ((Bool.and_eq_true _ _).mp h).1).1) rfl rfl
theorem trainingPhaseTimeout : ∀ x0, Statement (.trainingPhaseTimeout x0) := fun _ => of_port id rfl rfl
theorem capSend : ∀ x0, Statement (.capSend x0) := fun _ => of_port id rfl rfl
theorem cap : ∀ x0 x1 x2, Statement (.cap x0 x1 x2) := fun _ _ _ => of_link rfl rfl rfl
theorem probe : ∀ x0 x1 x2 x3, Statement (.probe x0 x1 x2 x3) := fun _ _ _ _ => of_link rfl rfl rfl
theorem linkFlitReceive : ∀ x0 x1 x2, Statement (.linkFlitReceive x0 x1 x2) := fun _ _ _ => of_link rfl rfl rfl
theorem nak : ∀ x0 x1 x2, Statement (.nak x0 x1 x2) := fun _ _ _ => of_link rfl rfl rfl
theorem credit : ∀ x0 x1 x2, Statement (.credit x0 x1 x2) := fun _ _ _ => of_link rfl rfl rfl
theorem abort : ∀ x0 x1 x2, Statement (.abort x0 x1 x2) := fun _ _ _ => of_link rfl rfl rfl
theorem resendTimerExpiry : ∀ x0, Statement (.resendTimerExpiry x0) := fun _ => of_port id rfl rfl
theorem idleFlitSend : ∀ x0, Statement (.idleFlitSend x0) := fun _ => of_port id rfl rfl
theorem creditFlitSend : ∀ x0, Statement (.creditFlitSend x0) := fun _ => of_port id rfl rfl
theorem timeReqSend : ∀ x0, Statement (.timeReqSend x0) := fun _ => of_port id rfl rfl
theorem timeReq : ∀ x0 x1 x2, Statement (.timeReq x0 x1 x2) := fun _ _ _ => of_link rfl rfl rfl
theorem timeResp : ∀ x0 x1 x2, Statement (.timeResp x0 x1 x2) := fun _ _ _ => of_link rfl rfl rfl
theorem packetRoute : ∀ x0 x1 x2, Statement (.packetRoute x0 x1 x2) := fun _ _ _ => of_input rfl rfl rfl
theorem packetDeliver : Statement (.packetDeliver) := of_none rfl rfl
theorem laneSignalLoss : ∀ x0 x1, Statement (.laneSignalLoss x0 x1) := fun _ _ => of_port id rfl rfl
theorem alignmentLoss : ∀ x0 x1, Statement (.alignmentLoss x0 x1) := fun _ _ => of_port id rfl rfl
theorem lockLoss : ∀ x0 x1, Statement (.lockLoss x0 x1) := fun _ _ => of_port id rfl rfl
theorem autoRetrain : ∀ x0, Statement (.autoRetrain x0) := fun _ => of_port id rfl rfl
theorem vcStall : ∀ x0 x1, Statement (.vcStall x0 x1) := fun _ _ => of_input rfl rfl rfl
theorem timerEntryDue : ∀ x0 x1, Statement (.timerEntryDue x0 x1) := fun _ _ => of_none rfl rfl
theorem timerSignal : ∀ x0, Statement (.timerSignal x0) := fun _ => of_none rfl rfl
theorem timerSet : ∀ x0, Statement (.timerSet x0) := fun _ => of_none rfl rfl
theorem bucketDeadline : Statement (.bucketDeadline) := of_none rfl rfl
theorem stragglerCutoff : Statement (.stragglerCutoff) := of_none rfl rfl
theorem digestCompare : Statement (.digestCompare) := of_none rfl rfl
theorem timerSnapshot : Statement (.timerSnapshot) := of_none rfl rfl
theorem placementSwitch : Statement (.placementSwitch) := of_none rfl rfl
theorem powerPolicy : Statement (.powerPolicy) := of_none rfl rfl
theorem timerEntryCtrlWrite : ∀ x0 x1, Statement (.timerEntryCtrlWrite x0 x1) := fun _ _ => of_none rfl rfl
theorem setNow : ∀ x0, Statement (.setNow x0) := fun _ => of_none rfl rfl
theorem tmrStepWrite : ∀ x0, Statement (.tmrStepWrite x0) := fun _ => of_none rfl rfl
theorem servoSourceSelect : ∀ x0, Statement (.servoSourceSelect x0) := fun _ => of_none rfl rfl
theorem ctPulseEdge : Statement (.ctPulseEdge) := of_none rfl rfl
theorem ctRefLoss : Statement (.ctRefLoss) := of_none rfl rfl
theorem pulseLoss : Statement (.pulseLoss) := of_none rfl rfl
theorem timeRespLoss : Statement (.timeRespLoss) := of_none rfl rfl
theorem sampleAccept : Statement (.sampleAccept) := of_none rfl rfl
theorem headerReadReturn : ∀ x0 x1 x2, Statement (.headerReadReturn x0 x1 x2) := fun _ _ _ => of_none rfl rfl
theorem stagingReserve : Statement (.stagingReserve) := of_none rfl rfl
theorem recordFetchComplete : ∀ x0 x1 x2 x3, Statement (.recordFetchComplete x0 x1 x2 x3) := fun _ _ _ _ => of_none rfl rfl
theorem engineAssign : ∀ x0, Statement (.engineAssign x0) := fun _ => of_none rfl rfl
theorem fieldDecodeComplete : ∀ x0 x1 x2, Statement (.fieldDecodeComplete x0 x1 x2) := fun _ _ _ => of_none rfl rfl
theorem fieldDecodeError : ∀ x0 x1 x2, Statement (.fieldDecodeError x0 x1 x2) := fun _ _ _ => of_none rfl rfl
theorem engineTimeReport : ∀ x0 x1, Statement (.engineTimeReport x0 x1) := fun _ _ => of_none rfl rfl
theorem sampleEmit : ∀ x0 x1, Statement (.sampleEmit x0 x1) := fun _ _ => of_none rfl rfl
theorem rowSetSeal : ∀ x0, Statement (.rowSetSeal x0) := fun _ => of_none rfl rfl
theorem closeMb : ∀ x0, Statement (.closeMb x0) := fun _ => of_none rfl rfl
theorem flush : ∀ x0, Statement (.flush x0) := fun _ => of_none rfl rfl
theorem patrolScrubRead : ∀ x0 x1, Statement (.patrolScrubRead x0 x1) := fun _ _ => of_none rfl rfl
theorem scrubPassComplete : ∀ x0 x1, Statement (.scrubPassComplete x0 x1) := fun _ _ => of_none rfl rfl
theorem submit : ∀ x0, Statement (.submit x0) := fun _ => of_none rfl rfl
theorem pop : ∀ x0, Statement (.pop x0) := fun _ => of_none rfl rfl
theorem crcJobStart : Statement (.crcJobStart) := of_none rfl rfl
theorem crcJobComplete : ∀ x0, Statement (.crcJobComplete x0) := fun _ => of_none rfl rfl
theorem provGo : ∀ x0, Statement (.provGo x0) := fun _ => of_none rfl rfl
theorem provLock : ∀ x0, Statement (.provLock x0) := fun _ => of_none rfl rfl
theorem fuseBitBlow : ∀ x0, Statement (.fuseBitBlow x0) := fun _ => of_none rfl rfl
theorem exportKeyCommit : ∀ x0, Statement (.exportKeyCommit x0) := fun _ => of_none rfl rfl
theorem exportKeyClear : ∀ x0, Statement (.exportKeyClear x0) := fun _ => of_none rfl rfl
theorem fuseIntegrityCheck : ∀ x0, Statement (.fuseIntegrityCheck x0) := fun _ => of_none rfl rfl
theorem tamper : ∀ x0 x1, Statement (.tamper x0 x1) := fun _ _ => of_none rfl rfl
theorem alarmFuseBlow : Statement (.alarmFuseBlow) := of_none rfl rfl
theorem debugIntrusion : Statement (.debugIntrusion) := of_none rfl rfl
theorem debugSession : Statement (.debugSession) := of_none rfl rfl
theorem faultReport : Statement (.faultReport) := of_none rfl rfl
theorem tileFence : Statement (.tileFence) := of_none rfl rfl
theorem faultRecordWrite : Statement (.faultRecordWrite) := of_none rfl rfl
theorem abandonComplete : Statement (.abandonComplete) := of_none rfl rfl
theorem fltInject : ∀ x0, Statement (.fltInject x0) := fun _ => of_none rfl rfl
theorem powerSample : ∀ x0, Statement (.powerSample x0) := fun _ => of_none rfl rfl
theorem powerControlPeriod : ∀ x0, Statement (.powerControlPeriod x0) := fun _ => of_none rfl rfl
theorem tempSample : ∀ x0 x1 x2, Statement (.tempSample x0 x1 x2) := fun _ _ _ => of_none rfl rfl
theorem thermalThrottleStep : ∀ x0, Statement (.thermalThrottleStep x0) := fun _ => of_none rfl rfl
theorem droopTrip : ∀ x0 x1, Statement (.droopTrip x0 x1) := fun _ _ => of_none rfl rfl
theorem droopGateEnd : ∀ x0, Statement (.droopGateEnd x0) := fun _ => of_none rfl rfl
theorem railSample : ∀ x0 x1, Statement (.railSample x0 x1) := fun _ _ => of_none rfl rfl
theorem cglitch : Statement (.cglitch) := of_none rfl rfl
theorem registerWrite : ∀ x0 x1 x2, Statement (.registerWrite x0 x1 x2) := fun _ _ _ => of_none rfl rfl
theorem d3hotTransition : ∀ x0, Statement (.d3hotTransition x0) := fun _ => of_none rfl rfl
theorem p3v3AuxInWindow : Statement (.p3v3AuxInWindow) := of_none rfl rfl
theorem holdoverLimitExceeded : ∀ x0, Statement (.holdoverLimitExceeded x0) := fun _ => of_none rfl rfl

end Sys2Proof.Laws.Sized
end

