-- ==== Sys2Proof/Safety.lean ====
section
/-! DEFINITION. What statements rely on of every state: tables that statements read hold their canonical form. -/

namespace Sys2Proof.Machine

/-- The memories are canonical: device memory, its poison marks and host memory hold places strictly rising and no entry equal to what an
unlisted one reads as, so that equal memories are equal data. -/
def State.Canonical (s : State) : Prop :=
  s.mem.wf = true ∧ Sparse.wf (default : Byte) s.hif.mem = true

/-- The changes of state one command can make, as the table of R487 lists them; a release passes through BOOT to what the boot steps find
(R502), and DRAIN between steps ends at once (log entry 35). -/
def Dev.moves : List (Dev × Dev) :=
  [(.off, .reset), (.reset, .boot), (.reset, .fault), (.reset, .alarm), (.boot, .ready), (.boot, .fault), (.boot, .reset), (.boot, .alarm),
   (.ready, .loaded), (.loaded, .ready), (.loaded, .armed), (.armed, .loaded), (.armed, .stepping), (.stepping, .draining), (.stepping, .armed),
   (.draining, .armed), (.fault, .loaded), (.fault, .ready)]
  ++ [.ready, .loaded, .armed, .stepping, .draining, .fault].flatMap fun d => [(d, .reset), (d, .fault), (d, .alarm)]

/-- A state may stay, turn off, or change as the table says. -/
def Dev.mayBecome (a b : Dev) : Prop := b = a ∨ b = .off ∨ (a, b) ∈ Dev.moves

/-- Fetched entry i is e, of this opcode, its turn has come (R474, R478) and the firmware runs. -/
def State.due (s : State) (i : Nat) (e : Entry) (op : Nat) : Prop :=
  s.hif.fetched[i]? = some e ∧ e.opcode.toNat = op ∧ s.turn i e = true ∧ s.ctl.state.live = true

/-- Whether a command of this opcode takes effect in a state: the table of R488, for the states from READY to FAULT. SYNC is told apart
by its operation: READ also takes effect in FAULT. -/
def legalIn (op : Nat) (read : Bool) (d : Dev) : Bool :=
  match op with
  | 0x10 => d == .ready || d == .loaded
  | 0x11 => d == .loaded
  | 0x12 => d == .armed
  | 0x13 => d == .armed
  | 0x14 => d == .stepping || d == .draining
  | 0x15 => d == .stepping || d == .draining
  | 0x18 => d == .fault
  | 0x20 => d == .loaded || d == .armed || d == .stepping || d == .draining
  | 0x30 => d == .loaded || d == .armed || d == .stepping || d == .draining || (read && d == .fault)
  | 0x40 => d == .loaded || d == .armed || d == .fault
  | 0x41 => d == .loaded || d == .armed
  | 0x42 => d == .loaded || d == .armed || d == .stepping || d == .draining
  | 0x62 => d == .ready || d == .loaded
  | _ => d.live

/-- A step answers a next state. -/
def Runs (s t : State) : Prop := step s = .next t

end Sys2Proof.Machine
end

