-- ==== Sys2Proof/Certificates/Slice0/Obligations.lean ====
section
/-! DEFINITION. The statements for the provers. Each says in its docstring which rules of spec/ it rests on. -/

open Sys2Proof Sys2Proof.Machine

/-! The queue, the memories, and what holds of every step -/

/-- A step runs the command at the front of the queue on the rest of the queue.
On an empty queue the block idles: outside OFF one cycle of its 1.25 GHz time base passes, in which cluster time, the watchdog's time base, the flit
slots of the links and a check-value scan go on (log entries 3, 94 and 147, the model's choice); no byte of memory changes. In OFF nothing does. -/
def Obligations.StepRunsFrontOrIdles : Prop :=
  (∀ (c : Instr) (s : State), step { s with pending := c :: s.pending } = exec c s) ∧
  (∀ s : State, s.pending = [] → ∃ t, step s = .next t ∧ t.pending = [] ∧ (∀ k, t.mem.byte k = s.mem.byte k) ∧
    (s.ctl.state = .off → t = s) ∧
    (s.ctl.state ≠ .off → s.memr.running = none → t = { s with
      tmr := s.tmr.cycle, lnk := s.lnk.cycle
      rst := { s.rst with wdtElapsed := if s.rst.wdtRunning then s.rst.wdtElapsed + 8 else s.rst.wdtElapsed } }))

/-- No command ends a run, and none touches the queue of waiting commands: in every state every command answers a next state with the same queue. -/
def Obligations.CommandsAnswerAndKeepQueue : Prop :=
  ∀ (c : Instr) (s : State), ∃ t, exec c s = .next t ∧ t.pending = s.pending

/-- R444, R455: every step keeps device memory, its poison marks and host memory in their canonical form. -/
def Obligations.StepKeepsMemoryCanonical : Prop :=
  ∀ s t : State, s.Canonical → step s = .next t → t.Canonical

/-- After reset the memories are canonical, and every byte reads as the zeros of R456, with no unit poisoned. -/
def Obligations.ResetMemoryZero : Prop :=
  State.reset.Canonical ∧ ∀ k, State.reset.mem.byte k = 0 ∧ State.reset.mem.poisoned k = false

/-- R487: the device state changes only along the table of R487; RESET_RELEASE passes BOOT's outcome in one command. -/
def Obligations.StateChangesAsTabled : Prop :=
  ∀ s t : State, step s = .next t → s.ctl.state.mayBecome t.ctl.state

/-- R513, R487: from ALARM a step leads to ALARM, or to OFF by removing power; every reset source is ignored. -/
def Obligations.AlarmLeftByPowerOnly : Prop :=
  ∀ (c : Instr) (s t : State), s.ctl.state = .alarm → exec c s = .next t →
    (t.ctl.state = .alarm ∧ c ≠ .powerRemoval) ∨ (t.ctl.state = .off ∧ c = .powerRemoval)

/-! Reset, boot, supplies and the management path -/

/-- R487, R561: power applied in OFF enters RESET with the cold source POR applied; elsewhere it only sets the pin.
R560, R574: power loss clears the auxiliary domain and nothing else; the auxiliary input back in its window only sets the pin.
R560, R487: power removal puts the device in OFF. The auxiliary domain keeps RST_CAUSE and the source latches, PWR_RES and the TORN
fields; the fuses and the flash keep; every other register is lost, memory contents included. What has left the device (outboxes, host
memory) is not the device's to lose. -/
def Obligations.PowerInputsAndRemoval : Prop :=
  ((∀ s : State,
    (s.ctl.state = .off → exec .powerApplied s = .next { s with
      pins := { s.pins with p54v := true }, ctl := { s.ctl with state := .reset }
      rst := { s.rst with cause := s.rst.cause ||| 1, active := 1, cold := true } }) ∧
    (s.ctl.state ≠ .off → exec .powerApplied s = .next { s with pins := { s.pins with p54v := true } })) ∧
  (∀ s : State,
    exec .powerLoss s = .next { s with
      pins := { s.pins with p3v3 := false, alarmN := false }, rst := { s.rst with cause := 1, latched := 0 }, pwr := { s.pwr with res := 0 }
      upd := { s.upd with torn := false, tornValid := false, tornTensor := 0 } } ∧
    exec .p3v3AuxInWindow s = .next { s with pins := { s.pins with p3v3 := true } })) ∧
  (∀ s : State, ∃ t, exec .powerRemoval s = .next t ∧ t.ctl.state = .off ∧ t.img = none ∧ t.mem = {} ∧ t.memr = {} ∧ t.tmr = {} ∧ t.gx = {} ∧
    t.fab = {} ∧ t.sync = {} ∧ t.inp = {} ∧ t.adm = {} ∧ t.sites = [] ∧ t.flt = {} ∧
    t.sec = { fuses := s.sec.fuses, verified := false } ∧ t.flash = s.flash ∧ t.pwr = { res := s.pwr.res } ∧ t.lnk = { out := s.lnk.out } ∧
    t.hif = { mem := s.hif.mem, holes := s.hif.holes, out := s.hif.out } ∧ t.mgmt = { out := s.mgmt.out } ∧ t.rst = { cause := s.rst.cause, latched := s.rst.latched } ∧
    t.upd = { torn := s.upd.torn, tornValid := s.upd.tornValid, tornTensor := s.upd.tornTensor } ∧
    t.pins = { s.pins with p54v := false, alarmN := false })

/-- R561, R565: PERST# low for 100 ns, or RESET_N for 1 µs, applies a cold reset while REFCLK runs: RESET is entered, the cause bit is set,
and the image, the queues, the timer, the links' state and the fault log are cleared; fuses, flash, memory (until BOOT zeroes it, outside a block an update engine was in the middle of) and PWR_RES are kept.
Shorter PERST# pulses, and RESET_N pulses of 100 ns or less, are ignored; a RESET_N pulse between 100 ns and 1 µs is either ignored or applied,
as a free value tells. R487: neither pin does anything in ALARM, nor in OFF while REFCLK runs.
R563, R511, R487: REFCLK stopping in RESET or OFF only stops it; at any other time it is the CGLITCH alarm source.
R560, R563: a reset source that becomes active while REFCLK does not run is latched, in OFF too while the auxiliary supply stands, and nothing
else happens yet. -/
def Obligations.ResetPinsAndRefclk : Prop :=
  (∀ (s : State) (ns : Nat), s.ctl.state ≠ .off → s.ctl.state ≠ .alarm → s.pins.refclk = true →
    let applied := fun (c : Instr) (bit : BitVec 7) => ∃ v, exec c s = .next v ∧ v.ctl = { state := .reset } ∧ v.rst.cause = s.rst.cause ||| bit ∧
      v.rst.active &&& bit = bit ∧ v.rst.cold = true ∧ v.img = none ∧ v.tmr = {} ∧ v.flt = {} ∧ v.memr = {} ∧ v.gx = {} ∧ v.inp = {} ∧
      v.adm = {} ∧ v.sync = {} ∧ v.fab = {} ∧ v.hif = { mem := s.hif.mem, holes := s.hif.holes, out := s.hif.out } ∧ v.lnk = { out := s.lnk.out } ∧
      v.sec.fuses = s.sec.fuses ∧ v.sec.verified = false ∧ v.flash = s.flash ∧ v.pins = { s.pins with coolHeld := s.coolReq } ∧
      v.pwr = { res := s.pwr.res } ∧ (s.midBlock = none → v.mem = s.mem)
    (100 ≤ ns → applied (.perst ns) 2) ∧ (1000 ≤ ns → applied (.resetN ns) 4)) ∧
  (∀ (s : State) (ns : Nat),
    (ns < 100 → exec (.perst ns) s = .next s) ∧ (ns ≤ 100 → exec (.resetN ns) s = .next s) ∧
    (100 < ns → ns < 1000 →
      exec (.resetN ns) s = .next { s with free := s.free + 1 } ∨ exec (.resetN ns) s = exec (.resetN 1000) { s with free := s.free + 1 }) ∧
    ((s.ctl.state = .alarm ∨ (s.ctl.state = .off ∧ (s.pins.refclk = true ∨ s.pins.p3v3 = false))) →
      (100 ≤ ns → exec (.perst ns) s = .next s) ∧ (1000 ≤ ns → exec (.resetN ns) s = .next s)) ∧
    (s.ctl.state ≠ .alarm → s.pins.refclk = false → (s.ctl.state = .off → s.pins.p3v3 = true) →
      (100 ≤ ns → exec (.perst ns) s = .next { s with rst := { s.rst with latched := s.rst.latched ||| 2 } }) ∧
      (1000 ≤ ns → exec (.resetN ns) s = .next { s with rst := { s.rst with latched := s.rst.latched ||| 4 } }))) ∧
  (∀ s : State,
    ((s.ctl.state = .off ∨ s.ctl.state = .reset) → exec .refclkStop s = .next { s with pins := { s.pins with refclk := false } }) ∧
    ((s.ctl.state ≠ .off ∧ s.ctl.state ≠ .reset) → ∃ t, exec .refclkStop s = .next t ∧ t.ctl.state = .alarm ∧
      t.sec.sources = s.sec.sources ||| 4 ∧ t.pins.refclk = false ∧ t.sec.fuses = s.sec.fuses))

/-- R487, R502, R567, R568: the release of a reset with no source latched, both inputs in window and no thermal hold enters BOOT. A retired device
ends in FAULT with BOOT_ERR 7; an alarm source active at the end of step 1 (a failing fuse check among them) raises the alarm (R511); a check of
steps 2 to 7 that fails ends in FAULT with its BOOT_ERR, and where all pass the device stays in BOOT with its firmware's version, security version
and identity key, and the watchdog runs from zero. A cold reset samples CFG_STRAP, a warm one keeps its code. The check of the layout, code 6, and
what it covers are log entry 79's. R563: sources latched while REFCLK was stopped are applied first.
R564: while a sensor holds a thermal reset, and while an input is out of its window (R567), RESET stays. -/
def Obligations.ReleaseBoots : Prop :=
  (∀ s : State, s.ctl.state = .reset → s.thermHold = false → s.rst.latched = 0 → s.pins.p3v3 = true → s.pins.p54v = true →
    let b := { s with rst := { s.rst with code := if s.rst.cold then s.pins.strap else s.rst.code }, sec := { s.sec with held := s.sec.fuses } }
    ∃ t, exec .resetRelease s = .next t ∧ t.pins.refclk = true ∧ t.rst.active = 0 ∧ t.rst.code = b.rst.code ∧ (s.img = none → t.mem = s.mem) ∧
      (retired s.sec.fuses = true → t.ctl.state = .fault ∧ t.sec.bootErr = 7) ∧
      (retired s.sec.fuses = false → b.activeSources ≠ [] → t.ctl.state = .alarm ∧
        ∀ a ∈ b.activeSources, t.sec.sources.getLsbD a.code = true) ∧
      (retired s.sec.fuses = false → fuseFails s.sec.fuses s.sec.fuses = true → t.ctl.state = .alarm ∧ t.sec.sources.getLsbD 4 = true) ∧
      (retired s.sec.fuses = false → b.activeSources = [] → b.bootCheck ≠ 0 →
        t.ctl.state = .fault ∧ t.sec.bootErr = BitVec.ofNat 4 b.bootCheck ∧ b.bootCheck ≤ 6) ∧
      (retired s.sec.fuses = false → b.activeSources = [] → b.bootCheck = 0 →
        t.ctl.state = .boot ∧ t.sec.bootErr = s.sec.bootErr ∧ t.sec.verified = true ∧ t.sec.idKeyReady = true ∧ t.rst.wdtRunning = true ∧
        t.rst.wdtElapsed = 0 ∧ t.sec.held = s.sec.fuses ∧ t.sec.fwVersion = BitVec.ofNat 32 (b.fwField 4 4) ∧
        t.sec.fwSvn = BitVec.ofNat 32 (b.fwField 8 4) ∧ t.sec.fwDigest = b.fwBytes 0x40 64)) ∧
  (∀ s : State, s.ctl.state = .reset →
    (s.rst.latched ≠ 0 → exec .resetRelease s = exec .resetRelease
      (({ s with pins := { s.pins with refclk := true }, rst := { s.rst with latched := 0 } } : State).enterReset s.rst.latched)) ∧
    (s.rst.latched = 0 → (s.thermHold = true ∨ s.pins.p3v3 = false ∨ s.pins.p54v = false) →
      exec .resetRelease s = .next { s with pins := { s.pins with refclk := true } }))

/-- R456, R459, R487, R502: boot complete leads to READY once steps 1 to 7 have passed (log entry 142), and the watchdog runs (R562). After a cold
reset memory reads 0 everywhere, each DDR5 channel is as training left it, the rate is 5600 when a module taken in is rated below 6400, and
INIT_BUSY is clear; after a warm reset memory is kept. -/
def Obligations.BootCompleteReadies : Prop :=
  ∀ s : State, s.ctl.state = .boot →
    (s.sec.verified = true → ∃ t, exec .bootComplete s = .next t ∧ t.ctl.state = .ready ∧ t.ctl.prev = .boot ∧
      (s.rst.cold = true → t.mem = {} ∧ t.memr.initBusy = false ∧ (∀ i < 8, t.memr.ddr.at i = trainCh (Config.dimm i)) ∧
        (t.memr.ddr5600 = true ↔ ∃ i < 8, (trainCh (Config.dimm i)).present = true ∧ (Config.dimm i).speed < 6400)) ∧
      (s.rst.cold = false → t.mem = s.mem ∧ t.memr = s.memr) ∧
      t = { s with ctl := t.ctl, hif := t.hif, mem := t.mem, memr := t.memr, rst := { s.rst with wdtRunning := true } }) ∧
    (s.sec.verified = false → exec .bootComplete s = .next s)

/-- R562, R574, R565: a kick restarts the watchdog and, while PERIOD_MS is unlocked, stores the period held within 100 to 10,000 ms; LOCK locks it.
PERIOD_MS after the last kick the watchdog applies a warm reset, which keeps memory, the links' ports, PWR_RES and the fault log.
R479, R490, R564, R565: WARM_RESET completes, then enters RESET with the warm source WARM_CMD: the image is given up, memory, the links' ports, the fault log and the
channels' training are kept. R476: while its completion queue has no room both wait. -/
def Obligations.WarmResetSources : Prop :=
  (∀ (s : State) (v : W32),
    (s.ctl.state.live = true →
      exec (.wdtKick v) s = .next { s with rst := { s.rst with
        wdtElapsed := 0, wdtLocked := s.rst.wdtLocked || v.getLsbD 30
        wdtPeriod := if s.rst.wdtLocked then s.rst.wdtPeriod else BitVec.ofNat 16 (max 100 (min 10000 (v.toNat % 65536))) } } ∧
      ∃ t, exec (.wdtLock v) s = .next t ∧ t.rst.wdtLocked = true ∧ t = { s with rst := t.rst }) ∧
    ((s.ctl.state.live = true ∧ s.pins.refclk = true ∧ s.rst.wdtRunning = true ∧ s.rst.wdtPeriod.toNat * 10 ^ 7 ≤ s.rst.wdtElapsed) →
      ∃ t, exec .mgmtWatchdogExpiry s = .next t ∧ t.ctl.state = .reset ∧ t.rst.cause = s.rst.cause ||| 16 ∧ t.rst.cold = false ∧
        t.rst.wdtRunning = false ∧ t.img = none ∧ t.lnk.port = s.lnk.port ∧ t.pwr.res = s.pwr.res ∧ t.flt.log = s.flt.log ∧
        t.memr.ddr = s.memr.ddr ∧ t.sec.fuses = s.sec.fuses ∧ (s.midBlock = none → t.mem = s.mem))) ∧
  (∀ (s : State) (i : Nat) (e : Entry), s.due i e 0x19 → s.cqBlocked e = true → exec (.warmReset i) s = .next s) ∧
  (∀ (s : State) (i : Nat) (e : Entry), s.due i e 0x19 → s.cqBlocked e = false → s.pins.refclk = true →
    ∃ t, exec (.warmReset i) s = .next t ∧ t.ctl = { state := .reset } ∧ t.rst.cause = s.rst.cause ||| 8 ∧ t.rst.cold = false ∧ t.img = none ∧
      t.lnk.port = s.lnk.port ∧ t.flt.log = s.flt.log ∧ t.memr.ddr = s.memr.ddr ∧ t.sec.fuses = s.sec.fuses ∧ t.pwr.res = s.pwr.res ∧
      t.hif.fetched = [] ∧ t.hif.mem = (s.finish i .success).hif.mem ∧ (s.midBlock = none → t.mem = s.mem))

/-- R491, R569: on the management path every request is answered in every state but OFF, at the address an I3C controller has assigned or else at
0x4C plus the strap's offset, and nothing else changes. GetPDR tells of 93 sensors and of no other. The contents of the other answers, whose
standards the spec names without giving bytes, and the codes are the model's (log entry 158).
R491: an I3C controller's address and a Set Endpoint ID are kept in every state but OFF; in OFF nothing answers. -/
def Obligations.ManagementPath : Prop :=
  (∀ (s : State) (n : Nat) (a b : BitVec 8), s.ctl.state ≠ .off →
    let tells := fun (c : Instr) (layer command : Nat) (bytes : List Nat) => exec c s = .next { s with
      mgmt := { s.mgmt with out := s.mgmt.out ++ [{
        addr := (match s.mgmt.i3c with | some x => x.toNat | none => 0x4C + (15 - s.rst.code.toNat) % 4)
        layer := layer, command := command, bytes := bytes }] } }
    tells .getEndpointId 0 2 [0, s.mgmt.eid.toNat] ∧ tells .getMctpVersionSupport 0 4 (Config.mgmtAnswer 0 4 0) ∧
    tells .getMessageTypeSupport 0 5 [0, 1, 1] ∧ tells .getTid 1 2 (Config.mgmtAnswer 1 2 0) ∧
    tells .getPldmVersion 1 3 (Config.mgmtAnswer 1 3 0) ∧ tells .getPldmTypes 1 4 [0, 0, 2] ∧
    tells .getPldmCommands 1 5 [0, 0, 0x02, 0, 0x03, 0, 0x04, 0, 0x05, 2, 0x50, 2, 0x51, 2, 0x11, 2, 0x21] ∧
    tells .getPdrRepositoryInfo 2 0x50 [0, 93] ∧
    (n < 93 → tells (.getPdr n) 2 0x51 (0 :: n :: s.sensorRecord n)) ∧ (93 ≤ n → tells (.getPdr n) 2 0x51 [0x82]) ∧
    (n < 77 → tells (.getSensorReading n) 2 0x11 [if (s.pwr.temp.at n).valid then 1 else 0, (s.pwr.temp.at n).temp.toNat]) ∧
    (77 ≤ n → n < 90 → tells (.getSensorReading n) 2 0x11 [1, (s.pwr.rail.at (n - 77)).mv.toNat]) ∧
    tells (.getSensorReading 90) 2 0x11 [1, s.pwr.p1ms] ∧ (90 < n → tells (.getSensorReading n) 2 0x11 [0, 0]) ∧
    tells .getStateSensorReadings 2 0x21 [s.ctl.state.code, if s.pins.alarmN then 0 else 1] ∧
    tells (.mgmtUnsupportedRequest a b) a.toNat b.toNat [5]) ∧
  (∀ (s : State) (a : BitVec 7) (e : BitVec 8),
    (s.ctl.state ≠ .off → exec (.i3cAddrAssign a) s = .next { s with mgmt := { s.mgmt with i3c := some a } } ∧
      exec (.setEndpointId e) s = .next { s with
        mgmt := { s.mgmt with eid := e, out := s.mgmt.out ++ [{ addr := s.mgmtAddr, layer := 0, command := 1, bytes := [0, e.toNat] }] } }) ∧
    (s.ctl.state = .off → exec (.i3cAddrAssign a) s = .next s ∧ exec (.setEndpointId e) s = .next s ∧ exec .getEndpointId s = .next s))

/-! Security and power -/

/-- R496: a triplicated bit reads as set when any copy is set; code 0b00 of ALARM_ACT is LOCK, 0b01 ERASE_KEYS, 0b11 ERASE_AND_RETIRE, and 0b10
reads as ERASE_AND_RETIRE; and since fuses only pass from 0 to 1, a setting only moves towards debug disabled, a stronger action, retirement. -/
def Obligations.TriplicatedFuseBits : Prop :=
  (∀ f : Sparse Bool,
    (debugDis f = true ↔ f.at 0xB60 = true ∨ f.at 0xB61 = true ∨ f.at 0xB62 = true) ∧
    (retired f = true ↔ f.at 0xB69 = true ∨ f.at 0xB6A = true ∨ f.at 0xB6B = true) ∧
    (let lo := f.at 0xB63 || f.at 0xB65 || f.at 0xB67
     let hi := f.at 0xB64 || f.at 0xB66 || f.at 0xB68
     alarmAct f = if hi then .eraseAndRetire else if lo then .eraseKeys else .lock)) ∧
  ∀ s t : State, step s = .next t →
    (∀ i, s.sec.fuses.at i = true → t.sec.fuses.at i = true) ∧
    (debugDis s.sec.fuses = true → debugDis t.sec.fuses = true) ∧ (retired s.sec.fuses = true → retired t.sec.fuses = true) ∧
    alarmCode s.sec.fuses ≤ alarmCode t.sec.fuses

/-- R497: the value of counter i is the number of consecutive set bits from its bit 0, from 0 to 32; its bits are blown in ascending order, each
read back before the next (a bit that does not read back ends the run); a set bit above a clear bit is a gap. -/
def Obligations.RollbackCounters : Prop :=
  (∀ (f : Sparse Bool) (i : Nat),
    arbValue f i ≤ 32 ∧ (∀ k < arbValue f i, f.at (0x360 + 32 * i + k) = true) ∧
    (arbValue f i < 32 → f.at (0x360 + 32 * i + arbValue f i) = false) ∧
    (hasGap f (0x360 + 32 * i) = true ↔ ∃ j k, j < k ∧ k < 32 ∧ f.at (0x360 + 32 * i + j) = false ∧ f.at (0x360 + 32 * i + k) = true)) ∧
  (∀ (s : State) (i : Nat) (e : Entry), s.hif.fetched[i]? = some e → e.opcode = 0x62 → s.turn i e = true →
    (s.ctl.state = .ready ∨ s.ctl.state = .loaded) → s.sec.blow = [] → e.p0.toNat < 64 → e.p1.toNat ≤ 32 →
    arbValue s.sec.fuses e.p0.toNat < e.p1.toNat → (e.p0 = 0 → e.p1.toNat ≤ s.sec.fwSvn.toNat) →
    (∀ im, s.img = some im → im.rollbackIndex = e.p0.toNat → e.p1.toNat ≤ im.rollbackValue) →
    ∃ t, exec (.rollbackAdvance i) s = .next t ∧ t.sec.fuses = s.sec.fuses ∧
      t.sec.blow = (List.range (e.p1.toNat - arbValue s.sec.fuses e.p0.toNat)).map
        fun k => 0x360 + 32 * e.p0.toNat + arbValue s.sec.fuses e.p0.toNat + k) ∧
  (∀ (s : State) (b : Nat) (rest : List Nat), s.ctl.state.guarded = true → s.sec.blow = b :: rest →
    (∃ t, exec (.fuseBitBlow true) s = .next t ∧ t.sec.fuses.at b = true ∧ t.sec.held.at b = true ∧ t.sec.blow = rest ∧
      ∀ j, j ≠ b → t.sec.fuses.at j = s.sec.fuses.at j) ∧
    (∃ t, exec (.fuseBitBlow false) s = .next t ∧ t.sec.fuses = s.sec.fuses ∧ t.sec.blow = []))

/-- R499, R500, R515: GO blows the field's bits in the order R499 gives when the device is in READY, the registers are not locked and the field
and its value are in order: of OWNER_KEY_HASH the set bits of the value, then of its check word, ascending, of ALARM_ACT the copies of the new
code, in each case the bits not yet set. Else it blows nothing, sets PROV_ERR and writes ERR: 1 outside READY, 3 while locked, 5 for a field or
value that is not in order, 2 where the fuses already hold what would not become the value. With nothing left to blow it completes at once.
LOCK stops FIELD and GO at once, with ERR 3.
A GO while an earlier run of blows is under way is turned away (log entry 49, the model's choice), and only what else the write says happens.
Of several conditions that fail, LOCKED goes first, then READY, then FIELD and value, then the contents (log entry 98, the model's choice).
R506: a write of SEC_EXP_KEY7 takes words 0 to 7 as the export key, marks it valid and restarts the export count; CLEAR erases it. -/
def Obligations.ProvisioningAndExportKey : Prop :=
  (∀ (s : State) (v : W32), s.ctl.state.live = true → s.sec.blow = [] → v.getLsbD 31 = true → v.getLsbD 30 = false →
    let f := v.toNat % 16
    let act := (s.sec.data.at 0).toNat % 4
    let value := s.sec.provBytes
    let bits := fun (lo n k : Nat) => ((List.range k).filter fun i => n / 2 ^ i % 2 == 1).map (· + lo)
    let clear := fun (l : List Nat) => l.filter fun i => !s.sec.fuses.at i
    let blows := fun (l : List Nat) => ∃ t, exec (.provGo v) s = .next t ∧ t = { s with sec := t.sec } ∧ t.sec.err = 0 ∧
      t.sec.fuses = s.sec.fuses ∧ t.sec.blow = l ∧ (l = [] → t.sec.provDone = true) ∧ t.sec.provErr = s.sec.provErr
    let refuses := fun (n : Nat) => ∃ t, exec (.provGo v) s = .next t ∧ t = { s with sec := t.sec } ∧ t.sec.err = BitVec.ofNat 4 n ∧
      t.sec.provErr = true ∧ t.sec.fuses = s.sec.fuses ∧ t.sec.blow = []
    (s.sec.locked = false → s.ctl.state ≠ .ready → refuses 1) ∧ (s.sec.locked = true → refuses 3) ∧
    (s.sec.locked = false → s.ctl.state = .ready →
      ((f = 0 ∨ 3 < f ∨ (f = 3 ∧ (act = 0 ∨ act = 2))) → refuses 5) ∧
      (f = 1 → keyState s.sec.fuses 0x120 = .unprogrammed →
        blows (clear (bits 0x120 (numOf value) 256 ++ bits 0x220 (crc32c value) 32))) ∧
      (f = 1 → keyState s.sec.fuses 0x120 = .incomplete →
        ((∀ i < 256, s.sec.fuses.at (0x120 + i) = true → numOf value / 2 ^ i % 2 = 1) →
          blows (clear (bits 0x120 (numOf value) 256 ++ bits 0x220 (crc32c value) 32))) ∧
        ((∃ i < 256, s.sec.fuses.at (0x120 + i) = true ∧ numOf value / 2 ^ i % 2 = 0) → refuses 2)) ∧
      (f = 1 → (keyState s.sec.fuses 0x120 = .complete ∨ keyState s.sec.fuses 0x120 = .corrupt) → refuses 2) ∧
      (f = 2 → blows (clear [0xB60, 0xB61, 0xB62])) ∧
      (f = 3 → act = 1 → alarmCode s.sec.fuses ≤ 1 → blows (clear [0xB63, 0xB65, 0xB67])) ∧
      (f = 3 → act = 3 → blows (clear [0xB63, 0xB64, 0xB65, 0xB66, 0xB67, 0xB68])) ∧
      (f = 3 → act = 1 → 1 < alarmCode s.sec.fuses → refuses 2))) ∧
  (∀ (s : State) (v : W32), s.ctl.state.live = true →
    (s.sec.blow ≠ [] → v.getLsbD 31 = true → ∃ t, exec (.provGo v) s = .next t ∧ t = { s with sec := { s.sec with
      field := t.sec.field, locked := s.sec.locked || v.getLsbD 30 } }) ∧
    (s.sec.blow = [] → v.getLsbD 31 = true → v.getLsbD 30 = true →
      ∃ t, exec (.provLock v) s = .next t ∧ t.sec.locked = true ∧ t.sec.blow = [] ∧ t.sec.provErr = true ∧ t.sec.err = 3 ∧ t.sec.fuses = s.sec.fuses) ∧
    (v.getLsbD 30 = true → v.getLsbD 31 = false →
      ∃ t, exec (.provLock v) s = .next t ∧ t.sec.locked = true ∧ t = { s with sec := { s.sec with locked := true, field := t.sec.field } } ∧
        (s.sec.locked = true → t.sec.field = s.sec.field))) ∧
  (∀ (s : State) (v : W32), s.ctl.state.live = true →
    (∃ t, exec (.exportKeyCommit v) s = .next t ∧ t.sec.expKeyValid = true ∧ t.sec.expCnt = 0 ∧
      t.sec.expKey = ((List.range 7).flatMap fun j => bytesOf 4 (s.sec.expStage.at j).toNat) ++ bytesOf 4 v.toNat ∧ t = { s with sec := t.sec }) ∧
    (v.getLsbD 0 = true → ∃ t, exec (.exportKeyClear v) s = .next t ∧ t.sec.expKeyValid = false ∧ t.sec.expKey = List.replicate 32 0 ∧
      t.sec.fuses = s.sec.fuses ∧ t = { s with sec := t.sec }) ∧
    (v.getLsbD 0 = false → exec (.exportKeyClear v) s = .next s))

/-- R498, R508, R511, R512, R515: each alarm source, met outside OFF, RESET and ALARM, enters ALARM: the cause is recorded with FIRST, which of two
sources of one cycle is the lower code, ALARM_N is pulled low, the keys are erased unless the action is LOCK, tiles are held, no entry, event,
sample or update is left waiting, and memory outside a block under update, the fuses, the image and the flash keep. A source not met (a short
TAMPER_N pulse, debug allowed, an array that passes) does nothing. -/
def Obligations.AlarmSourcesEnterAlarm : Prop :=
  ∀ (s : State) (ns : Nat) (held : Bool) (flips : List Nat), s.ctl.state.guarded = true → s.ctl.state ≠ .alarm →
    let enters := fun (c : Instr) (code : Nat) => ∃ t, exec c s = .next t ∧ t.ctl.state = .alarm ∧ t.ctl.prev = s.ctl.state ∧
      t.sec.sources = s.sec.sources ||| BitVec.ofNat 7 (2 ^ code) ∧ t.sec.valid = true ∧
      (s.sec.valid = false → t.sec.first = BitVec.ofNat 3 code) ∧
      (s.sec.valid = true → t.sec.first = if s.sec.firstCyc = s.tmr.age ∧ code < s.sec.first.toNat then BitVec.ofNat 3 code else s.sec.first) ∧
      t.pins.alarmN = true ∧ t.rst.cause = s.rst.cause ||| 32 ∧
      (alarmAct s.sec.fuses ≠ .lock → t.sec.idKeyReady = false ∧ t.sec.expKeyValid = false ∧ t.sec.keysErased = true) ∧
      t.fab.hold = true ∧ t.fab.firings = [] ∧ t.hif.fetched = [] ∧ t.hif.events = [] ∧ t.inp.queue = [] ∧ t.memr.running = none ∧
      t.gx.sets = [] ∧ t.gx.inbox = [] ∧ t.upd.sweep = none ∧ t.adm.running = false ∧
      t.sec.fuses = s.sec.fuses ∧ t.img = s.img ∧ t.flash = s.flash ∧ (s.midBlock = none → t.mem = s.mem)
    (100 ≤ ns → enters (.tamper ns held) 0) ∧
    (ns < 100 → exec (.tamper ns held) s = .next { s with pins := { s.pins with tamperLow := false } }) ∧
    enters .cglitch 2 ∧
    (debugDis s.sec.fuses = true → enters .debugIntrusion 5) ∧ (debugDis s.sec.fuses = false → exec .debugIntrusion s = .next s) ∧
    (fuseFails s.sec.held (flips.foldl (fun (f : Sparse Bool) i => if i < 4096 then f.put i (!f.at i) else f) s.sec.fuses) = true →
      enters (.fuseIntegrityCheck flips) 4) ∧
    (fuseFails s.sec.held s.sec.fuses = false → exec (.fuseIntegrityCheck []) s = .next s)

/-- R508: while DEBUG_DIS reads set the debug port is inert: a session does nothing, and any request on the port is a debug intrusion, which
is an alarm source.
R509, R510: while DEBUG_DIS is clear, the first debug session after a reset erases every key and sets DEBUG_SEEN; a later one does nothing;
only a reset or power removal clears DEBUG_SEEN, and the next boot derives the key again. -/
def Obligations.DebugPort : Prop :=
  (∀ s : State, debugDis s.sec.fuses = true →
    exec .debugSession s = .next s ∧
    (s.ctl.state.guarded = true → ∃ t, exec .debugIntrusion s = .next t ∧ t.ctl.state = .alarm ∧ t.sec.sources = s.sec.sources ||| 32 ∧
      t.sec.valid = true)) ∧
  ((∀ s : State, s.ctl.state.guarded = true → debugDis s.sec.fuses = false → s.sec.debugSeen = false →
    exec .debugSession s = .next { s with sec := { s.sec with
      debugSeen := true, idKeyReady := false, expKeyValid := false, expKey := List.replicate 32 0, expStage := [] } }) ∧
  (∀ s : State, s.sec.debugSeen = true → exec .debugSession s = .next s) ∧
  (∀ (c : Instr) (s t : State), exec c s = .next t → s.sec.debugSeen = true → t.ctl.state ≠ .off → t.ctl.state ≠ .reset →
    c ≠ .resetRelease → t.sec.debugSeen = true) ∧
  (∀ s : State, s.ctl.state = .reset → ∃ t, exec .resetRelease s = .next t ∧ (t.ctl.state = .boot → t.sec.idKeyReady = true)))

/-- R512, R515: after the first source the next ALARM_CNT bit is blown while fewer than 32 are set, once for each alarm; under ERASE_AND_RETIRE the RETIRED copies and
every bit of ID_SEED and its check word are blown too. -/
def Obligations.AlarmBlowsFuses : Prop :=
  ∀ s : State, s.ctl.state = .alarm →
    (s.sec.alarmBlown = true → exec .alarmFuseBlow s = .next s) ∧
    (s.sec.alarmBlown = false → ∃ t, exec .alarmFuseBlow s = .next t ∧ t = { s with sec := t.sec } ∧ t.sec.alarmBlown = true ∧
      (alarmCount s.sec.fuses < 32 → t.sec.fuses.at (0xB70 + alarmCount s.sec.fuses) = true) ∧
      (alarmAct s.sec.fuses = .eraseAndRetire → retired t.sec.fuses = true ∧ t.sec.retireBlown = true ∧
        ∀ k < 288, t.sec.fuses.at (0x240 + k) = true) ∧
      (alarmAct s.sec.fuses ≠ .eraseAndRetire → ∀ k, k ≠ 0xB70 + alarmCount s.sec.fuses → t.sec.fuses.at k = s.sec.fuses.at k))

/-- R552: a 1 µs sample above 1,000 W, and no other, adds 1 to the count of PWR_RES; the count survives every reset and is lost only at power loss. -/
def Obligations.ReserveCountSurvivesResets : Prop :=
  (∀ (s : State) (w : Nat), s.ctl.state ≠ .off →
    ∃ t, exec (.powerSample w) s = .next t ∧ t.pwr.res = if 1000 < w then satAdd s.pwr.res 1 else s.pwr.res) ∧
  (∀ (c : Instr) (s t : State), exec c s = .next t → (∀ w, c ≠ .powerSample w) → c ≠ .powerLoss → t.pwr.res = s.pwr.res) ∧
  (∀ s : State, ∃ t, exec .powerLoss s = .next t ∧ t.pwr.res = 0)

/-- R549, R551: a sample above 1,150 W limits n_power to 8, sets FAST_LIMIT and is counted; when the excess energy of the last 20 s reaches 360 J, or PEAK_EN
is 0, the allowance is exhausted, n_power is at most 8 and the exhaustion is counted. Nothing but the PWR block and a RAIL_CLOCK report changes.
R547, R550, R553, R556: the control periods and thermal steps keep n_power and n_thermal from 1 to 16, so the issue share is from 1 to 16; a step up or down is by 1.
R550, R551: while the allowance is exhausted or the fast limit acts, every 50 µs n_power steps down when p_1ms lies above LIMIT, and every 10 ms it
steps up when p_1ms stayed below LIMIT less 20 W for all of the 10 ms; otherwise it steps up every 1 ms; no other period steps it.
The 100 µs period takes the selected policy, under which the allowance may be exhausted. The 1 ms period also reads the 16 process monitors, whose
counts are free values (log entry 96). -/
def Obligations.PowerSamplesAndIssueShare : Prop :=
  (∀ (s : State) (w : Nat), s.ctl.state ≠ .off →
    ∃ t, exec (.powerSample w) s = .next t ∧ t = { s with pwr := t.pwr, flt := t.flt } ∧
      t.pwr.samples = (w :: s.pwr.samples).take 20000000 ∧
      (1150 < w → t.pwr.nPower ≤ 8 ∧ t.pwr.fastLimit = true ∧ t.pwr.fastCnt = satAdd s.pwr.fastCnt 1) ∧
      (w ≤ 1150 → t.pwr.fastCnt = s.pwr.fastCnt ∧ t.pwr.fastLimit = s.pwr.fastLimit) ∧
      (s.pwr.exhausted = false → (t.pwr.pol.peakEn = false ∨ 360000000 ≤ t.pwr.excess) →
        t.pwr.exhausted = true ∧ t.pwr.nPower ≤ 8 ∧ t.pwr.exhCnt = satAdd s.pwr.exhCnt 1) ∧
      (s.pwr.exhausted = true → t.pwr.pol.peakEn = true → t.pwr.excess < 324000000 → t.pwr.exhausted = false)) ∧
  (∀ (s : State) (p : Period) (ms : Bool), s.ctl.state ≠ .off → 1 ≤ s.pwr.nPower → s.pwr.nPower ≤ 16 → 1 ≤ s.pwr.nThermal → s.pwr.nThermal ≤ 16 →
    let limit := s.pwr.pol.limit.toNat
    let sum := fun (j : Nat) => ((s.pwr.samples.drop j).take 1000).foldl (· + ·) 0
    (∃ t, exec (.powerControlPeriod p) s = .next t ∧ t = { s with pwr := t.pwr, free := t.free } ∧ 1 ≤ t.pwr.nPower ∧ t.pwr.nPower ≤ 16 ∧
      (p ≠ .ms1 → t.free = s.free ∧ t.pwr.pmon = s.pwr.pmon) ∧
      (p = .ms1 → ∀ g < 16, t.pwr.pmon.at g = (Config.freeWord (s.free + g)).setWidth 24) ∧
      t.pwr.nThermal = s.pwr.nThermal ∧
      (p = .us100 → t.pwr.polInForce = s.pwr.polSel ∧
        (s.pwr.exhausted = false → ((s.pwr.policy.at s.pwr.polSel.toNat).peakEn = false ∨ 360000000 ≤ t.pwr.excess) →
          t.pwr.exhausted = true ∧ t.pwr.nPower = min s.pwr.nPower 8 ∧ t.pwr.exhCnt = satAdd s.pwr.exhCnt 1) ∧
        ((s.pwr.exhausted = true ∨ ((s.pwr.policy.at s.pwr.polSel.toNat).peakEn = true ∧ t.pwr.excess < 360000000)) →
          t.pwr.nPower = s.pwr.nPower)) ∧
      (p = .us50 → t.pwr.nPower =
        if (s.pwr.exhausted = true ∨ s.pwr.fastQuiet.isSome = true) ∧ 1000 * limit < sum 0 then max 1 (s.pwr.nPower - 1) else s.pwr.nPower) ∧
      (p = .ms1 → t.pwr.nPower =
        if s.pwr.exhausted = true ∨ s.pwr.fastQuiet.isSome = true then s.pwr.nPower else min 16 (s.pwr.nPower + 1)) ∧
      (p = .ms10 → (s.pwr.exhausted = true ∨ s.pwr.fastQuiet.isSome = true) → (∀ j < 10000, sum j + 20000 < 1000 * limit) →
        t.pwr.nPower = min 16 (s.pwr.nPower + 1)) ∧
      (p = .ms10 → ((s.pwr.exhausted = false ∧ s.pwr.fastQuiet = none) ∨ ∃ j < 10000, 1000 * limit ≤ sum j + 20000) →
        t.pwr.nPower = s.pwr.nPower)) ∧
    (∃ t, exec (.thermalThrottleStep ms) s = .next t ∧ t = { s with pwr := t.pwr } ∧ t.pwr.nPower = s.pwr.nPower ∧
      t.pwr.nThermal = (if ms then (if s.pwr.allCool then min 16 (s.pwr.nThermal + 1) else s.pwr.nThermal)
        else if s.pwr.anyHot then max 1 (s.pwr.nThermal - 1) else s.pwr.nThermal)))

/-- R511, R545, R553, R554: a die reading below −20 °C or above 125 °C enters ALARM, which governs over a trip; otherwise a second reading in a row at or above the
trip point applies the warm reset THERM; and any other reading only changes the PWR block.
R546, R511, R521: a rail outside its glitch window is the alarm source VGLITCH; outside its operating window alone it sets RAIL_WARN and is a
chip-level RAIL_CLOCK fault; inside it only the reading changes.
R548: a droop trip sets DROOP and counts on its rail; on VDD_CMP of a region's die it gates that region and no other; the end of the gate frees the region. -/
def Obligations.TemperaturesRailsDroops : Prop :=
  (∀ (s : State) (k : BitVec 7) (valid : Bool) (x : BitVec 16), s.ctl.state.live = true → s.pins.refclk = true → k.toNat < 77 →
    let hit := valid = true ∧ tripAt k.toNat ≤ x.toInt
    (k.toNat ≤ 68 → valid = true → (x.toInt < -160 ∨ 1000 < x.toInt) →
      ∃ t, exec (.tempSample k valid x) s = .next t ∧ t.ctl.state = .alarm ∧ t.sec.sources = s.sec.sources ||| 8) ∧
    ((68 < k.toNat ∨ valid = false ∨ (-160 ≤ x.toInt ∧ x.toInt ≤ 1000)) → hit → 1 ≤ (s.pwr.temp.at k.toNat).overs →
      ∃ t, exec (.tempSample k valid x) s = .next t ∧ t.ctl.state = .reset ∧ t.rst.cause = s.rst.cause ||| 64 ∧ t.rst.cold = false) ∧
    ((68 < k.toNat ∨ valid = false ∨ (-160 ≤ x.toInt ∧ x.toInt ≤ 1000)) → (¬ hit ∨ (s.pwr.temp.at k.toNat).overs = 0) →
      ∃ t, exec (.tempSample k valid x) s = .next t ∧ t = { s with pwr := t.pwr } ∧ (t.pwr.temp.at k.toNat).valid = valid ∧
        (t.pwr.temp.at k.toNat).temp = (if valid then x else (s.pwr.temp.at k.toNat).temp))) ∧
  ((∀ (s : State) (r : BitVec 4) (mv : BitVec 16), s.ctl.state.live = true → r.toNat ≤ 12 →
    (railGlitch r.toNat mv.toNat = true →
      ∃ t, exec (.railSample r mv) s = .next t ∧ t.ctl.state = .alarm ∧ t.sec.sources = s.sec.sources ||| 2) ∧
    (railGlitch r.toNat mv.toNat = false → railOut r.toNat mv.toNat = true →
      ∃ t q, exec (.railSample r mv) s = .next t ∧ t = { s with pwr := t.pwr, flt := t.flt } ∧ t.pwr.railWarn = true ∧
        t.flt.reports = Report.enter q s.flt.reports ∧ q.cls = .railClock ∧ q.sev = .chip) ∧
    (railGlitch r.toNat mv.toNat = false → railOut r.toNat mv.toNat = false →
      ∃ t, exec (.railSample r mv) s = .next t ∧ t = { s with pwr := t.pwr } ∧ (t.pwr.rail.at r.toNat).mv = mv ∧
        t.pwr.railWarn = s.pwr.railWarn)) ∧
  (∀ (s : State) (r g : BitVec 4), s.ctl.state ≠ .off →
    (r.toNat ≤ 3 → g.toNat / 4 = r.toNat → ∃ t, exec (.droopTrip r g) s = .next t ∧ t = { s with pwr := t.pwr } ∧ t.pwr.droop = true ∧
      t.pwr.droopCnt.at r.toNat = satAdd (s.pwr.droopCnt.at r.toNat) 1 ∧ t.pwr.gate.at g.toNat = true ∧
      ∀ h, h ≠ g.toNat → t.pwr.gate.at h = s.pwr.gate.at h) ∧
    (3 < r.toNat → r.toNat ≤ 12 → ∃ t, exec (.droopTrip r g) s = .next t ∧ t = { s with pwr := t.pwr } ∧ t.pwr.droop = true ∧
      t.pwr.droopCnt.at r.toNat = satAdd (s.pwr.droopCnt.at r.toNat) 1 ∧ t.pwr.gate = s.pwr.gate) ∧
    (∃ t, exec (.droopGateEnd g) s = .next t ∧ t = { s with pwr := t.pwr } ∧ t.pwr.gate.at g.toNat = false ∧
      ∀ h, h ≠ g.toNat → t.pwr.gate.at h = s.pwr.gate.at h)))

/-! The host interface -/

/-- R472: a write of CTL_HCI_HOST is ignored while any queue is enabled; otherwise the version in force is the highest of 1.0 to 1.3 that
lies in the host's range, NONE is set where there is none, and a version once chosen stays.
R470, R476: a 4-byte write at offset 8q of BAR2 is queue q's tail doorbell, at 8q + 4 its head doorbell, and any other write of BAR2 does nothing. A
tail doorbell with an index in range that does not overtake the head moves the tail; one out of range sets DB_ERR and moves nothing; on a
disabled queue it does nothing. A head doorbell behaves alike, with ADDR_ERR, and frees entries: as many held completions as there is room for
are written, in order, the first of them at the tail. No other submission queue's registers change. -/
def Obligations.VersionsAndDoorbells : Prop :=
  (∀ (s : State) (v : W32), s.ctl.state.live = true →
    ((∃ q, (q ∈ s.hif.sq ∧ q.2.enable = true)) → exec (.ctlHciHostWrite v) s = .next s) ∧
    ((∃ q, (q ∈ s.hif.cq ∧ q.2.enable = true)) → exec (.ctlHciHostWrite v) s = .next s) ∧
    ((∀ q ∈ s.hif.sq, q.2.enable = false) → (∀ q ∈ s.hif.cq, q.2.enable = false) →
      ∃ t, exec (.ctlHciHostWrite v) s = .next t ∧ t = { s with ctl := t.ctl } ∧ t.ctl.hciHost = v ∧ t.ctl.state = s.ctl.state ∧
        (s.ctl.hciValid = true → t.ctl.hciValid = true ∧ t.ctl.hciMinor = s.ctl.hciMinor ∧ t.ctl.hciMajor = s.ctl.hciMajor) ∧
        (s.ctl.hciValid = false →
          let lo := v.toNat % 65536
          let hi := v.toNat / 65536
          (∀ k < 4, lo ≤ 256 + k → 256 + k ≤ hi → t.ctl.hciValid = true ∧ t.ctl.hciMajor = 1 ∧ k ≤ t.ctl.hciMinor.toNat ∧
            lo ≤ 256 + t.ctl.hciMinor.toNat ∧ 256 + t.ctl.hciMinor.toNat ≤ hi ∧ t.ctl.hciMinor.toNat < 4) ∧
          ((∀ k < 4, ¬ (lo ≤ 256 + k ∧ 256 + k ≤ hi)) → t.ctl.hciValid = false ∧ t.ctl.hciNone = true)))) ∧
  (∀ (s : State) (q : BitVec 6) (v : W32), s.ctl.state.live = true →
    let x := s.hif.sq.at q.toNat
    let k := s.hif.cq.at q.toNat
    let n := x.size.toNat + 1
    let m := k.size.toNat + 1
    let i := v.toNat % 4096
    let dist := fun (n a b : Nat) => (b + n - a) % n
    let tail := Instr.sqTailDoorbell (BitVec.ofNat 12 (8 * q.toNat)) 4 v
    let head := Instr.cqHeadDoorbell (BitVec.ofNat 12 (8 * q.toNat + 4)) 4 v
    (x.enable = false → exec tail s = .next s) ∧
    (x.enable = true → i < n → dist n x.head.toNat x.tail.toNat + dist n x.tail.toNat i < n →
      exec tail s = .next { s with hif := { s.hif with sq := s.hif.sq.put q.toNat { x with tail := BitVec.ofNat 12 i } } }) ∧
    (x.enable = true → (n ≤ i ∨ n ≤ dist n x.head.toNat x.tail.toNat + dist n x.tail.toNat i) →
      exec tail s = .next { s with hif := { s.hif with sq := s.hif.sq.put q.toNat { x with dbErr := true } } }) ∧
    (k.enable = false → exec head s = .next s) ∧
    (k.enable = true → i < m → dist m k.head.toNat i ≤ dist m k.head.toNat k.tail.toNat →
      ∃ t, exec head s = .next t ∧ (t.hif.cq.at q.toNat).head = BitVec.ofNat 12 i ∧ t = { s with hif := t.hif } ∧
        t.hif.sq = s.hif.sq ∧ (∀ j, j ≠ q.toNat → t.hif.cq.at j = s.hif.cq.at j) ∧
        (k.held = [] → (s.hif.events = [] ∨ q ≠ 0) → t.hif.mem = s.hif.mem) ∧
        (k.tail.toNat < m →
          let room := (i + m - 1 - k.tail.toNat) % m
          (t.hif.cq.at q.toNat).held = k.held.drop room ∧
          ∀ c r, k.held = c :: r → room ≠ 0 → s.hif.holes = [] → t.hif.readMem (k.base.toNat + 32 * k.tail.toNat) 32 =
            c.bytes (if c.event then 0 else (s.hif.sq.at c.sqid.toNat).head.toNat) k.phase)) ∧
    (k.enable = true → (m ≤ i ∨ dist m k.head.toNat k.tail.toNat < dist m k.head.toNat i) →
      exec head s = .next { s with hif := { s.hif with cq := s.hif.cq.put q.toNat { k with addrErr := true } } })) ∧
  (∀ (s : State) (off : BitVec 12) (size : Nat) (v : W32), (size ≠ 4 ∨ off.toNat % 4 ≠ 0 ∨ 512 ≤ off.toNat) →
    exec (.sqTailDoorbell off size v) s = .next s ∧ exec (.cqHeadDoorbell off size v) s = .next s)

/-- R474, R476, R477, R479: with a queue to serve, the entry at its head is fetched and the head moves on. A listed opcode within the version, with its reserved
bytes 0, waits among the fetched entries; an unlisted one completes with INVALID_OPCODE, one above the version with VERSION, and one with a
reserved byte that is not 0 with INVALID_FIELD, and then nothing waits. A bus error stops the queue with FETCH_ERR. With no queue to serve, in D3hot
(R467), and after a boot failure or a fault met in BOOT (R502, R539), nothing is fetched. -/
def Obligations.EntryFetched : Prop :=
  ∀ (s : State) (q : Nat), s.ctl.state.live = true →
    (s.hif.d3hot = true → exec (.sqEntryFetch false) s = .next s) ∧
    (s.sec.bootErr ≠ 0 → exec (.sqEntryFetch false) s = .next s) ∧
    (s.ctl.state = .fault → s.ctl.prev = .boot → exec (.sqEntryFetch false) s = .next s) ∧
    (s.hif.nextQueue s.heldBack = none → exec (.sqEntryFetch false) s = .next s) ∧
    (s.hif.d3hot = false → s.sec.bootErr = 0 → (s.ctl.state ≠ .fault ∨ s.ctl.prev ≠ .boot) → s.hif.nextQueue s.heldBack = some q →
      let k := s.hif.sq.at q
      let bs := s.hif.entryBytes q
      let e := { parseEntry q bs with order := s.hif.received }
      let rr := Sparse.set 63 s.hif.rr k.prio.toNat q
      let moved := { s.hif with
        rr := rr, received := s.hif.received + 1, sq := s.hif.sq.put q { k with head := BitVec.ofNat 12 ((k.head.toNat + 1) % (k.size.toNat + 1)) } }
      let stopped := { s with hif := { s.hif with rr := rr, sq := s.hif.sq.put q { k with fetchErr := true, stopped := true } } }
      exec (.sqEntryFetch true) s = .next stopped ∧
      (s.hif.busErr (k.base.toNat + 128 * k.head.toNat) 128 = true → exec (.sqEntryFetch false) s = .next stopped) ∧
      (s.hif.busErr (k.base.toNat + 128 * k.head.toNat) 128 = false →
        (opcodeVersion e.opcode.toNat = none →
          exec (.sqEntryFetch false) s = .next { s with hif := moved.complete s.hci e .invalidOpcode }) ∧
        ∀ v, opcodeVersion e.opcode.toNat = some v →
          (s.hci < v → exec (.sqEntryFetch false) s = .next { s with hif := moved.complete s.hci e .version }) ∧
          (v ≤ s.hci → entryReservedOk bs = false →
            exec (.sqEntryFetch false) s = .next { s with hif := moved.complete s.hci e .invalidField }) ∧
          (v ≤ s.hci → entryReservedOk bs = true →
            exec (.sqEntryFetch false) s = .next { s with hif := { moved with fetched := s.hif.fetched ++ [e] } })))

/-- R473: a queue is enabled only once a version is chosen, a submission queue only onto an enabled completion queue; enabling starts its
indexes at 0, and a completion queue's phase at 1; a completion queue in use cannot be disabled.
R467, R485, R565: D3hot is entered and left with nothing else changed, and in BOOT and a warm reset the request is answered with retry; the coalescing timer sends the vector's message, or marks it pending while it is
masked, and starts its count again. -/
def Obligations.QueuesConfiguredAndSignalled : Prop :=
  (∀ (s : State) (q : BitVec 6) (v : W32), s.ctl.state.live = true →
    (∃ t, exec (.hifSqCfgWrite q v) s = .next t ∧ t = { s with hif := { s.hif with sq := t.hif.sq } } ∧
      (∀ j, j ≠ q.toNat → t.hif.sq.at j = s.hif.sq.at j) ∧
      ((s.hif.sq.at q.toNat).enable = false → v.getLsbD 31 = true → s.ctl.hciValid = true → (s.hif.cq.at (v.toNat / 65536 % 64)).enable = true →
        (t.hif.sq.at q.toNat).enable = true ∧ (t.hif.sq.at q.toNat).head = 0 ∧ (t.hif.sq.at q.toNat).tail = 0) ∧
      ((s.hif.sq.at q.toNat).enable = false → (s.ctl.hciValid = false ∨ (s.hif.cq.at (v.toNat / 65536 % 64)).enable = false) →
        (t.hif.sq.at q.toNat).enable = false) ∧
      (v.getLsbD 31 = false → (t.hif.sq.at q.toNat).enable = false)) ∧
    (∃ t, exec (.hifCqCfgWrite q v) s = .next t ∧ t = { s with hif := t.hif } ∧ t.hif.sq = s.hif.sq ∧
      ((s.hif.cq.at q.toNat).enable = false → v.getLsbD 31 = true → s.ctl.hciValid = true → s.hif.events = [] →
        (t.hif.cq.at q.toNat).enable = true ∧ (t.hif.cq.at q.toNat).head = 0 ∧ (t.hif.cq.at q.toNat).tail = 0 ∧ (t.hif.cq.at q.toNat).phase = true) ∧
      ((s.hif.cq.at q.toNat).enable = false → s.ctl.hciValid = false → (t.hif.cq.at q.toNat).enable = false) ∧
      ((s.hif.cq.at q.toNat).enable = true → s.hif.cqUsed q.toNat = true → t = s))) ∧
  (∀ (s : State) (q : BitVec 6) (on : Bool), s.ctl.state.live = true →
    exec (.d3hotTransition on) s = .next { s with hif := { s.hif with d3hot := on } } ∧
    (∀ r : State, (r.ctl.state = .boot ∨ (r.ctl.state = .reset ∧ r.rst.cold = false)) →
      exec (.d3hotTransition on) r = .next { r with hif := { r.hif with out := r.hif.out ++ [.retry] } }) ∧
    (let k := s.hif.cq.at q.toNat
     k.enable = true → k.intEn = true → k.coalUs ≠ 0 → 0 < k.unsig → 1 ≤ s.hci →
      ∃ t, exec (.msixCoalesceTimeout q) s = .next t ∧ t = { s with hif := t.hif } ∧ (t.hif.cq.at q.toNat).unsig = 0 ∧
        t.hif.mem = s.hif.mem ∧
        (if (s.hif.msix.at k.vector.toNat).mask then t.hif.pba.at k.vector.toNat = true ∧ t.hif.out = s.hif.out
         else t.hif.out = s.hif.out ++ [.msix k.vector.toNat (s.hif.msix.at k.vector.toNat).addr (s.hif.msix.at k.vector.toNat).data])))

/-- R464, R468, R471: a BAR4 access within the BAR to memory the image opens (any HBM while no image is active) reads or writes exactly its bytes; any other reads zeros, writes nothing and is counted as
refused. R455: a read that meets a poisoned unit completes with the EP bit, is reported through AER and sets POISON_RD; a write in part that meets a new uncorrectable error leaves the mark and loses the bytes of that unit. The base register keeps a
multiple of the BAR4 size. -/
def Obligations.Bar4Accesses : Prop :=
  ∀ (s : State) (off len : Nat) (bs : List Byte) (hi : Bool) (v : W32), s.ctl.state.live = true →
    let a := s.hif.bar4Base.toNat + off
    let inBar := off < 2 ^ s.hif.bar4Log
    let sent := fun (o : List HostOut) => { s.hif with out := s.hif.out ++ o }
    (inBar → bar4Ok s.img s.memr.ddr a len = true → ((spanPlaces a len).any s.mem.poisoned) = false → s.fab.inject = [] →
      exec (.bar4Read off len .clean) s = .next { s with hif := sent [.readData ((spanPlaces a len).map s.mem.byte)] }) ∧
    (inBar → bar4Ok s.img s.memr.ddr a len = true → ((spanPlaces a len).any s.mem.poisoned) = true →
      ∃ t, exec (.bar4Read off len .clean) s = .next t ∧ t.memr.poisonRd = true ∧ t.mem = s.mem ∧
        ∃ b : List Byte, b.length = len ∧ t.hif = { sent [.poisoned b, .aerReport] with aerPoisoned := true }) ∧
    (inBar → bar4Ok s.img s.memr.ddr a len = false →
      exec (.bar4Read off len .clean) s = .next { s with
        memr := { s.memr with bar4Rej := true, bar4RejCnt := satAdd s.memr.bar4RejCnt 1 }, hif := sent [.readData (List.replicate len 0)] }) ∧
    (inBar → bar4Ok s.img s.memr.ddr a bs.length = true →
      ∃ t, exec (.bar4Write off bs .clean) s = .next t ∧ t = { s with mem := t.mem, memr := { s.memr with poisonRd := t.memr.poisonRd } } ∧
        (∀ k, k ∉ spanPlaces a bs.length → t.mem.byte k = s.mem.byte k) ∧
        (((spanPlaces a bs.length).any s.mem.poisoned) = false → t.memr = s.memr ∧ ((spanPlaces a bs.length).Nodup →
          (spanPlaces a bs.length).map t.mem.byte = bs))) ∧
    (∀ (j k : Nat), inBar → bar4Ok s.img s.memr.ddr a bs.length = true → (spanPlaces a bs.length).any s.mem.poisoned = false →
      (mergedPlaces ((spanPlaces a bs.length).zip bs))[j]? = some k → s.inActiveStore k = false →
      ∃ t, exec (.bar4Write off bs (.uncorrected j)) s = .next t ∧ t.mem.poisoned k = true ∧ (∀ l, eccUnit l = eccUnit k → t.mem.byte l = s.mem.byte l) ∧
        ∃ q, t.flt.reports = Report.enter q s.flt.reports ∧ q.cls = tierCls k ∧ q.sev = .contained) ∧
    (inBar → bar4Ok s.img s.memr.ddr a bs.length = false → ∀ e, exec (.bar4Write off bs e) s = .next { s with
      memr := { s.memr with bar4Rej := true, bar4RejCnt := satAdd s.memr.bar4RejCnt 1 } }) ∧
    (¬ inBar → ∀ e, exec (.bar4Read off len e) s = .next s ∧ exec (.bar4Write off bs e) s = .next s) ∧
    (∃ t, exec (.hifBar4BaseWrite hi v) s = .next t ∧ t = { s with hif := { s.hif with bar4Base := t.hif.bar4Base } } ∧
      (s.hif.bar4Log ≤ 48 → t.hif.bar4Base.toNat % 2 ^ s.hif.bar4Log = 0))

/-- R488, R489: a command whose turn has come in a state in which it is not legal does nothing but count the rejection in the CTL block, with its
opcode, the state and its queue, and complete with STATE_REJECT. R304: so does an IMAGE_LOAD while a sweep runs. -/
def Obligations.IllegalCommandRejected : Prop :=
  ∀ (s : State) (i : Nat) (e : Entry),
    let no := fun (op : Nat) => s.due i e op ∧ legalIn op (fld64 e.p0 7 0 == 5) s.ctl.state = false
    let r := ({ s with ctl := { s.ctl with
      rejCnt := satAdd s.ctl.rejCnt 1, rejOpcode := e.opcode, rejState := BitVec.ofNat 4 s.ctl.state.code, rejSq := BitVec.ofNat 6 e.sq } } : State).finish i
        .stateReject s.ctl.state.code
    ((no 0x10 ∨ (s.due i e 0x10 ∧ s.upd.sweep.isSome = true)) → ∀ b k x, exec (.imageLoad i b k x) s = .next r) ∧
    (no 0x11 → exec (.arm i) s = .next r) ∧ (no 0x12 → exec (.disarm i) s = .next r) ∧
    (no 0x13 → exec (.run i) s = .next r) ∧ (no 0x14 → exec (.drain i) s = .next r) ∧ (no 0x15 → exec (.stepAbort i) s = .next r) ∧
    (no 0x18 → exec (.faultClear i) s = .next r) ∧ (no 0x20 → exec (.sample i) s = .next r) ∧
    (∀ b, no 0x30 →
      (e.p0.toNat % 256 = 1 → exec (.syncSignal i b) s = .next r) ∧ (e.p0.toNat % 256 = 2 → exec (.syncTake i b) s = .next r) ∧
      (e.p0.toNat % 256 = 3 → exec (.syncSet i b) s = .next r) ∧ (e.p0.toNat % 256 = 4 → exec (.syncArm i b) s = .next r) ∧
      (e.p0.toNat % 256 = 5 → exec (.syncRead i b) s = .next r) ∧
      (e.p0.toNat % 256 = 6 → 1 ≤ s.hci → exec (.syncNotify i b) s = .next r)) ∧
    (no 0x40 → ∀ x, exec (.exportCmd i x) s = .next r) ∧ (no 0x41 → ∀ x, exec (.importCmd i x) s = .next r) ∧
    (no 0x42 → exec (.snapshot i) s = .next r) ∧ (no 0x62 → s.sec.blow = [] → exec (.rollbackAdvance i) s = .next r)

/-- R479: NOP completes and does nothing else; IDENTIFY writes its 4,096 bytes to the host page p0 names and completes, or completes with ADDRESS on a page that is
not aligned or (R480) whose access ends in a bus error. Its bytes 64 to 127 tell the DDR5 capacities in a form that is open in the spec (log entry 34).
R505, R515: ATTEST checks its buffer's alignment and access, its room and the identity key, in that order; then it writes the report and its signature block
and completes. -/
def Obligations.IdentityCommands : Prop :=
  (∀ (s : State) (i : Nat) (e : Entry),
    (s.due i e 0x00 → exec (.nop i) s = .next (s.finish i .success)) ∧
    (s.due i e 0x01 → (e.p0.toNat % 4096 ≠ 0 ∨ s.hif.busErr e.p0.toNat 4096 = true) → exec (.identify i) s = .next (s.finish i .address)) ∧
    (s.due i e 0x01 → e.p0.toNat % 4096 = 0 → s.hif.busErr e.p0.toNat 4096 = false →
      exec (.identify i) s = .next (({ s with hif := s.hif.writeMem e.p0.toNat s.identity } : State).finish i .success) ∧
      (s.identity.length = 4096))) ∧
  (∀ (s : State) (i : Nat) (e : Entry), s.due i e 0x60 →
    let reached := e.p0.toNat % 64 = 0 ∧ s.hif.busErr e.p0.toNat 3584 = false
    (¬ reached → exec (.attest i) s = .next (s.finish i .address)) ∧
    (reached → e.p1.toNat < 3584 → exec (.attest i) s = .next (s.finish i .tooSmall 0 3584)) ∧
    (reached → 3584 ≤ e.p1.toNat → s.sec.idKeyReady = false → exec (.attest i) s = .next (s.finish i .precondition)) ∧
    (reached → 3584 ≤ e.p1.toNat → s.sec.idKeyReady = true →
      exec (.attest i) s = .next (({ s with
        hif := s.hif.writeMem e.p0.toNat (s.attestation e ++ s.sec.signBlock s.free (s.attestation e)), free := s.free + 1 } : State).finish i .success)))

/-- R487, R479, R492, R534: ARM leads from LOADED to ARMED while cluster time is valid, else completes with PRECONDITION; DISARM leads back; RUN, unless a flush is due, stores its steps and leads to STEPPING; DRAIN leads from
STEPPING to DRAINING while a step runs, and between steps to ARMED through DRAINING (log entry 35). Each completes with SUCCESS, posts a
STATE_CHANGE event with the new state and the one before (R484), and changes nothing but the CTL and HIF blocks. A RUN of more steps than
CTL_STEPS_LEFT holds is an invalid field (log entry 26, the model's choice). -/
def Obligations.ArmRunDrain : Prop :=
  ∀ (s : State) (i : Nat) (e : Entry),
    let done := { s.hif with fetched := s.hif.fetched.eraseIdx i }.complete s.hci e .success
    let told := fun (h : Hif) (b a : Dev) => h.event s.hci 0x01 0 (BitVec.ofNat 64 (a.code + 16 * b.code)) 0 0
    let moves := fun (c : Instr) (d : Dev) => ∃ t, exec c s = .next t ∧ t.ctl.state = d ∧ t.ctl.prev = s.ctl.state ∧
      t = { s with ctl := t.ctl, hif := told done s.ctl.state d }
    (s.due i e 0x11 → s.ctl.state = .loaded → s.tmr.timeValid = true → moves (.arm i) .armed) ∧
    (s.due i e 0x11 → s.ctl.state = .loaded → s.tmr.timeValid = false → exec (.arm i) s = .next (s.finish i .precondition)) ∧
    (s.due i e 0x12 → s.ctl.state = .armed → moves (.disarm i) .loaded) ∧
    (s.due i e 0x13 → s.ctl.state = .armed → s.flt.needFlush = false → e.p0.toNat < 2 ^ 32 → moves (.run i) .stepping ∧
      ∃ t, exec (.run i) s = .next t ∧ t.ctl.stepsLeft = (if e.p0 = 0 then 0xFFFFFFFF else e.p0.setWidth 32) ∧
        (t.ctl.untilDrain = true ↔ e.p0 = 0)) ∧
    (s.due i e 0x13 → s.ctl.state = .armed → s.flt.needFlush = true → e.p0.toNat < 2 ^ 32 → exec (.run i) s = .next (s.finish i .precondition)) ∧
    (s.due i e 0x13 → s.ctl.state = .armed → 2 ^ 32 ≤ e.p0.toNat → exec (.run i) s = .next (s.finish i .invalidField)) ∧
    (s.due i e 0x14 → s.ctl.state = .stepping → s.adm.running = true → moves (.drain i) .draining) ∧
    (s.due i e 0x14 → s.ctl.state = .stepping → s.adm.running = false → ∃ t, exec (.drain i) s = .next t ∧ t.ctl.state = .armed ∧
      t.ctl.prev = .draining ∧ t = { s with ctl := t.ctl, hif := told (told done .stepping .draining) .draining .armed }) ∧
    (s.due i e 0x14 → s.ctl.state = .draining → exec (.drain i) s = .next { s with hif := done })

/-- R479, R521, R532: STEP_ABORT of a running step whose update has not begun raises a HOST_ABORT report and starts the abandonment: tiles are held and no
further micro-batch is admitted; it completes with SUCCESS, and memory keeps.
R487, R536, R538, R115: FAULT_CLEAR, once no abandonment is under way, leads from FAULT to LOADED with an active image, the tiles free to issue and the image
kept, and to READY without one; what a step left unfinished is given up. It completes with SUCCESS and posts the STATE_CHANGE event. While an
abandonment is under way it waits. -/
def Obligations.AbortAndFaultClear : Prop :=
  (∀ (s : State) (i : Nat) (e : Entry), s.due i e 0x15 → (s.ctl.state = .stepping ∨ s.ctl.state = .draining) → s.adm.running = true →
    s.adm.updStarted = false → s.flt.abandoning = false →
    ∃ t r, exec (.stepAbort i) s = .next t ∧ t.flt.reports = Report.enter r s.flt.reports ∧ r.cls = .hostAbort ∧ r.sev = .contained ∧ r.abandon = true ∧
      t.flt.abandoning = true ∧ t.fab.hold = true ∧ t.adm.refused = true ∧ t.mem = s.mem ∧ t.ctl = s.ctl ∧
      t.hif = { s.hif with fetched := s.hif.fetched.eraseIdx i }.complete s.hci e .success) ∧
  (∀ (s : State) (i : Nat) (e : Entry), s.due i e 0x18 → s.ctl.state = .fault → s.flt.abandoning = true → exec (.faultClear i) s = .next s) ∧
  (∀ (s : State) (i : Nat) (e : Entry), s.due i e 0x18 → s.ctl.state = .fault → s.flt.abandoning = false →
    let done := fun (d : Dev) => ({ s.hif with fetched := s.hif.fetched.eraseIdx i }.complete s.hci e .success).event s.hci 0x01 0
      (BitVec.ofNat 64 (d.code + 16 * 8)) 0 0
    (s.adm.running = false → s.img.isSome = true → ∃ t, exec (.faultClear i) s = .next t ∧ t.ctl.state = .loaded ∧ t.img = s.img ∧
      t.fab.hold = false ∧ t.mem = s.mem ∧ t.hif = done .loaded ∧ t = { s with ctl := t.ctl, hif := t.hif, fab := t.fab, flt := t.flt }) ∧
    (s.adm.running = true → s.img.isSome = true → ∃ t, exec (.faultClear i) s = .next t ∧ t.ctl.state = .loaded ∧ t.img = s.img ∧
      t.fab.hold = false ∧ t.adm = s.adm.clear ∧ t.flt.needFlush = true ∧ t.hif.fetched = s.hif.fetched.eraseIdx i) ∧
    (s.img = none → ∃ t, exec (.faultClear i) s = .next t ∧ t.ctl.state = .ready ∧ t.img = none ∧ t.fab.hold = false ∧ t.mem = s.mem ∧
      t.hif = done .ready))

/-- R391, R404: a SAMPLE whose descriptor's fixed fields are in order leaves the fetched entries for the intake's waiting ones; else it completes with INVALID_FIELD.
R483: MAIL_SEND queues one packet of the bulk class with the payload read from host memory, and completes only when it leaves; an MSG below 0x80, a
payload too long and a bit outside its fields are INVALID_FIELD (the last by log entry 26, the model's choice), and R480: a bus error on the payload
is ADDRESS. MAIL_RECV with nothing held leaves its buffer outstanding; with a packet held it takes the oldest, whose bytes stand in the buffer, and
completes; with a bus error on the buffer it completes with ADDRESS and the packet stays held. -/
def Obligations.EntriesThatWait : Prop :=
  (∀ (s : State) (i : Nat) (e : Entry), s.due i e 0x20 → legalIn 0x20 false s.ctl.state = true →
    (sampleFieldsOk e.data = true → exec (.sample i) s = .next { s with
      hif := { s.hif with fetched := s.hif.fetched.eraseIdx i }, inp := { s.inp with queue := s.inp.queue ++ [e] } }) ∧
    (sampleFieldsOk e.data = false → exec (.sample i) s = .next (s.finish i .invalidField))) ∧
  (∀ (s : State) (i : Nat) (e : Entry), s.due i e 0x50 →
    let p := e.p0.toNat
    let node := p % 2 ^ 12
    let msg := p / 2 ^ 16 % 2 ^ 8
    let plen := p / 2 ^ 32 % 2 ^ 16
    let reserved := p / 2 ^ 12 % 2 ^ 4 ≠ 0 ∨ p / 2 ^ 24 % 2 ^ 8 ≠ 0 ∨ p / 2 ^ 48 ≠ 0
    (¬ reserved → 0x80 ≤ msg → plen ≤ 4096 → s.hif.busErr e.p1.toNat plen = false →
      exec (.mailSend i) s = .next { s with
        hif := { s.hif with fetched := s.hif.fetched.eraseIdx i }
        lnk := s.lnk.injectPkt { dst := node, src := s.lnk.nodeId.toNat, msg := msg, vc := 6, payload := s.hif.readMem e.p1.toNat plen } (some e) }) ∧
    (¬ reserved → 0x80 ≤ msg → plen ≤ 4096 → s.hif.busErr e.p1.toNat plen = true → exec (.mailSend i) s = .next (s.finish i .address)) ∧
    ((reserved ∨ msg < 0x80 ∨ 4096 < plen) → exec (.mailSend i) s = .next (s.finish i .invalidField))) ∧
  (∀ (s : State) (i : Nat) (e : Entry), s.due i e 0x51 →
    let rest := { s.hif with fetched := s.hif.fetched.eraseIdx i }
    (s.hif.mailHeld = [] → exec (.mailRecv i) s = .next { s with hif := { rest with mailRecv := s.hif.mailRecv ++ [e] } }) ∧
    (∀ m r, s.hif.mailHeld = m :: r →
      (s.hif.busErr e.p1.toNat m.bytes.length = true → exec (.mailRecv i) s = .next (s.finish i .address)) ∧
      (s.hif.busErr e.p1.toNat m.bytes.length = false → ∃ t, exec (.mailRecv i) s = .next t ∧ t = { s with hif := t.hif } ∧
        t.hif = { (({ rest with mailRecv := [], mailHeld := [] }.writeMem e.p1.toNat m.bytes).complete s.hci e .success 0 (BitVec.ofNat 64 m.node)
          (BitVec.ofNat 64 (m.msg + (m.bytes.length - 8) * 2 ^ 16))) with mailHeld := r, mailTold := s.hif.mailTold && !r.isEmpty })))

/-- R116, R117, R482: the host's operations on an object: SIGNAL adds, SET writes, ARM writes the threshold, READ answers the count and the event count, NOTIFY writes the
flag, and TAKE waits in the object's queue of takers or is granted. Each acts as R116 and R117 lay down (Sync.op) and completes, a TAKE when granted.
R270: a SIGNAL, TAKE or SET of a stash or trigger object while a step runs leaves the step's stash, restores and results undefined (`disturbed`).
R521: a parity error of the object's storage is reported, and the count the operation acts on is then a free value (log entry 41).
R116, R117: an operation at an object's home. SIGNAL adds and saturates at 2^32 − 1 with OVERFLOW; a threshold that is not 0 and that the count reaches is
taken off once and counted as an event; then takers are granted from the head of the queue while the count allows, and the first that
it does not allow keeps those behind it waiting. -/
def Obligations.SyncObjects : Prop :=
  (∀ (s : State) (i : Nat) (e : Entry) (o : Nat) (bad : Bool), s.due i e 0x30 → legalIn 0x30 false s.ctl.state = true → o < 16384 →
    let op := fun (k : Nat) => e.p0.toNat = k + o * 65536
    let met := fun (x : State) => x.parityAt o bad
    let at' := fun (x : State) => ({ x with
      adm := { x.adm with disturbed := x.adm.disturbed || (x.stepping && ((x.img.map fun im => im.stashObj o).getD false)) } } : State)
    (op 1 → e.p1 ≠ 0 → e.p1.toNat < 2 ^ 32 →
      exec (.syncSignal i bad) s = .next (((at' (met s)).syncOp o (.signal (e.p1.setWidth 32))).finish i .success)) ∧
    (op 1 → e.p1 = 0 → exec (.syncSignal i bad) s = .next (s.finish i .success)) ∧
    (op 2 → e.p1 ≠ 0 → e.p1.toNat < 2 ^ 32 → s.sync.hostTakes < 256 →
      exec (.syncTake i bad) s = .next ((at' (met { s with hif := { s.hif with fetched := s.hif.fetched.eraseIdx i } })).syncOp o
        (.take (.host e) (e.p1.setWidth 32)))) ∧
    (op 2 → e.p1 ≠ 0 → e.p1.toNat < 2 ^ 32 → 256 ≤ s.sync.hostTakes → exec (.syncTake i bad) s = .next (s.finish i .limit)) ∧
    (op 3 → e.p1.toNat < 2 ^ 32 → exec (.syncSet i bad) s = .next (((at' (met s)).syncOp o (.set (e.p1.setWidth 32))).finish i .success)) ∧
    (op 4 → e.p1.toNat < 2 ^ 16 → exec (.syncArm i bad) s = .next (((met s).syncOp o (.arm (e.p1.setWidth 16))).finish i .success)) ∧
    (op 5 → exec (.syncRead i bad) s = .next (((met s).syncOp o .read).finish i .success 0 (((met s).sync.objs.at o).count.setWidth 64)
      (((met s).sync.objs.at o).events.setWidth 64))) ∧
    (op 6 → e.p1.toNat < 2 → 1 ≤ s.hci → ∃ t, exec (.syncNotify i bad) s = .next t ∧ (t.sync.objs.at o).notify = (e.p1 == 1) ∧
      (t.sync.objs.at o).count = ((met s).sync.objs.at o).count ∧
      t = { s with sync := t.sync, hif := t.hif, flt := (met s).flt, free := (met s).free }) ∧
    (met s = if bad then { s with
        sync := { s.sync with objs := s.sync.objs.mod o fun x => { x with count := (Config.freeWord s.free).setWidth 32 } }
        free := s.free + 1, flt := (met s).flt } else s) ∧
    (bad = true → ∃ q, (met s).flt.reports = Report.enter q s.flt.reports ∧ q.cls = .control ∧ q.sev = .contained ∧ q.sub = o ∧ q.detail = 1)) ∧
  (∀ (x : Sync) (o : Nat) (p : SyncOp),
    let b := (x.objs.at o).apply p
    let y := (x.op o p).1.objs.at o
    (∀ j, j ≠ o → (x.op o p).1.objs.at j = x.objs.at j) ∧
    (∀ n, p = .signal n → b.1.count.toNat = min ((x.objs.at o).count.toNat + n.toNat) (2 ^ 32 - 1) ∧
      (2 ^ 32 ≤ (x.objs.at o).count.toNat + n.toNat → y.overflow = true ∧ .saturated o ∈ (x.op o p).2)) ∧
    (∀ w v, p = .take w v → b.1.fifo = (x.objs.at o).fifo ++ [(w, v)] ∧ b.1.count = (x.objs.at o).count) ∧
    (∀ c, p = .set c → b.1.count = c) ∧ (∀ t, p = .arm t → b.1.threshold = t) ∧
    (b.1.threshold ≠ 0 → b.1.threshold.toNat ≤ b.1.count.toNat → y.events = b.1.events + 1 ∧ .fired o y.events ∈ (x.op o p).2) ∧
    ((b.1.threshold = 0 ∨ b.1.count.toNat < b.1.threshold.toNat) → y.events = b.1.events) ∧
    (∀ w v r, y.fifo = (w, v) :: r → y.count.toNat < v.toNat) ∧
    (∃ g : List (Waiter × W32), b.1.fifo = g ++ y.fifo ∧ ∀ w, .granted w ∈ (x.op o p).2 ↔ w ∈ g.map (·.1)) ∧
    y.count.toNat + ((b.1.fifo.take (b.1.fifo.length - y.fifo.length)).map fun w => w.2.toNat).sum +
      (if b.1.threshold ≠ 0 ∧ b.1.threshold.toNat ≤ b.1.count.toNat then b.1.threshold.toNat else 0) = b.1.count.toNat)

/-- R300, R303, R479, R480, R506: with an image, export keys and blocks free of poison, an EXPORT whose destination is large enough writes a sealed file of the size it returns, advances SEC_EXP_CNT
and completes; without keys it completes with PRECONDITION, into too small a destination with TOO_SMALL, and with a bus error on it with ADDRESS; a poison mark in what it reads ends it with FAULT and no file. A SNAPSHOT waits for the boundary, where
its capture writes the same way.
R302, R507: an IMPORT whose sealed file does not open, or whose header is not an export's, completes with IMPORT_REJECT and detail 6 (the detail is
log entry 93's, the model's choice), one with a record that is not in order with the detail R302 gives it, and either changes no weight; one whose records are all in order writes every
block, leaves the other blocks' seed marks and completes. -/
def Obligations.ExportSnapshotImport : Prop :=
  (∀ (s : State) (i : Nat) (e : Entry) (im : Image), s.img = some im →
    let reads := fun (c : Nat) => (s.ownedBlocks im).flatMap (im.exportPlaces s.upd c)
    (s.due i e 0x40 → legalIn 0x40 false s.ctl.state = true → e.p0.toNat < 16 → e.p3 = BitVec.allOnes 64 →
      let plain := s.exportPlain im e.p0.toNat (s.ownedBlocks im)
      let n := sealedSize plain.length
      (s.sec.canSeal = false → ∀ x, exec (.exportCmd i x) s = .next (s.finish i .precondition)) ∧
      (s.sec.canSeal = true → ((reads e.p0.toNat).any s.mem.poisoned) = true →
        exec (.exportCmd i .clean) s = .next (({ s with memr := { s.memr with poisonRd := true } } : State).finish i .fault)) ∧
      (s.sec.canSeal = true → ((reads e.p0.toNat).any s.mem.poisoned) = false →
        (e.p2.toNat < n → exec (.exportCmd i .clean) s = .next (s.finish i .tooSmall 0 (BitVec.ofNat 64 n))) ∧
        (n ≤ e.p2.toNat → s.hif.busErr e.p1.toNat n = true → exec (.exportCmd i .clean) s = .next (s.finish i .address)) ∧
        (n ≤ e.p2.toNat → s.hif.busErr e.p1.toNat n = false → exec (.exportCmd i .clean) s = .next (({ s with
          hif := s.hif.writeMem e.p1.toNat (s.sealFile false plain), sec := { s.sec with expCnt := s.sec.expCnt + 1 }
          free := s.free + 5 } : State).finish i .success 0 (BitVec.ofNat 64 n))))) ∧
    (s.due i e 0x42 → legalIn 0x42 false s.ctl.state = true → exec (.snapshot i) s = .next { s with
      hif := { s.hif with fetched := s.hif.fetched.eraseIdx i }, gx := { s.gx with snapshots := s.gx.snapshots ++ [some e] } }) ∧
    (s.gx.snapshots = [some e] → s.ctl.state = .armed → s.atBoundary = true → s.gx.rounded = true → s.gx.round = none →
      let plain := s.exportPlain im 15 (s.ownedBlocks im)
      let n := sealedSize plain.length
      let left := { s.gx with snapshots := [] }
      (s.sec.canSeal = false → ∀ x, exec (.snapshotCapture x) s = .next { s with gx := left, hif := s.hif.complete s.hci e .precondition }) ∧
      (s.sec.canSeal = true → ((reads 15).any s.mem.poisoned) = false → n ≤ s.hif.snapLen.toNat → s.hif.busErr s.hif.snapAddr.toNat n = false →
        exec (.snapshotCapture .clean) s = .next { s with
          gx := left, sec := { s.sec with expCnt := s.sec.expCnt + 1 }, free := s.free + 5
          hif := (s.hif.writeMem s.hif.snapAddr.toNat (s.sealFile true plain)).complete s.hci e .success 0 (BitVec.ofNat 64 n) }))) ∧
  (∀ (s : State) (i : Nat) (e : Entry) (im : Image), s.img = some im → s.due i e 0x41 → legalIn 0x41 false s.ctl.state = true →
    let n := min e.p2.toNat (sealedSize (fieldAt (s.hif.readMem e.p1.toNat 40) 32 8))
    let file := s.hif.readMem e.p1.toNat n
    (s.hif.busErr e.p1.toNat n = true → ∀ x, exec (.importCmd i x) s = .next (s.finish i .address)) ∧
    (s.hif.busErr e.p1.toNat n = false →
      (s.openSealed file = none → ∀ x, exec (.importCmd i x) s = .next (s.finish i .importReject 6)) ∧
      ∀ plain, s.openSealed file = some plain →
        ((fieldAt plain 0 4 ≠ 0x44485346 ∨ fieldAt plain 4 2 ≠ 1) → ∀ x, exec (.importCmd i x) s = .next (s.finish i .importReject 6)) ∧
        (fieldAt plain 0 4 = 0x44485346 → fieldAt plain 4 2 = 1 →
          (∀ d, im.readRecords (fieldAt plain 6 2) (fieldAt plain 20 4) (plain.drop 128) [] = .inl d →
            ∀ x, exec (.importCmd i x) s = .next (s.finish i .importReject d)) ∧
          ∀ rs, im.readRecords (fieldAt plain 6 2) (fieldAt plain 20 4) (plain.drop 128) [] = .inr rs →
            ∃ t, exec (.importCmd i .clean) s = .next t ∧ (t.mem, t.upd) = rs.foldl (im.importBlock (fieldAt plain 6 2)) (s.mem, s.upd) ∧
              t.gx = { s.gx with unseeded := s.gx.unseeded.filter (fun g => !rs.any fun r => r.block == g) } ∧
              t.hif = { s.hif with fetched := s.hif.fetched.eraseIdx i }.complete s.hci e .success ∧
              t = { s with mem := t.mem, upd := t.upd, gx := t.gx, hif := t.hif, memr := { s.memr with poisonRd := t.memr.poisonRd } } ∧
              (s.mem.poison = [] → t.memr = s.memr))))

/-! Image load, faults, watchdogs, memory and the Timer -/

/-- R76, R77, R80 to R83, R487, R500: an image in host memory that passes validation is applied: LOADED, the image active, the other store active, every Timer entry disarmed, no
placement but the default, no load reject recorded, and the entry completed with SUCCESS. One that fails changes no image, no state and no tile: it
records its code, section and record and completes with IMAGE_REJECT; a failure before authenticity is passed that is a signature failure is
counted, one after it ends the count, and the ninth signature failure in a row raises the alarm SIGFAIL instead. A fault during application ends in READY without an image and a LOAD report with its step, and
completes with FAULT. While the owner key hash is not complete the load completes with PRECONDITION and does nothing else (R500); a bus error on its
data is ADDRESS (R479, R480). That CUR_PLACEMENT reads 0 after the load is log entry 139's, the model's choice. -/
def Obligations.ImageLoadOutcomes : Prop :=
  ∀ (s : State) (i : Nat) (e : Entry), s.due i e 0x10 → (s.ctl.state = .ready ∨ s.ctl.state = .loaded) → s.upd.sweep = none → e.p0 = 0 →
    let v := validate (s.loadBytes e) e.p2.toNat s.checkEnv
    let gone := { s.hif with fetched := s.hif.fetched.eraseIdx i }
    let key := keyState s.sec.held ownerKeyLo = .complete
    let reached := s.hif.busErr e.p1.toNat (s.loadBytes e).length = false
    (¬ key → ∀ b k x, exec (.imageLoad i b k x) s = .next (s.finish i .precondition)) ∧
    (key → (∀ k x, exec (.imageLoad i true k x) s = .next (s.finish i .address)) ∧
      (¬ reached → ∀ k x, exec (.imageLoad i false k x) s = .next (s.finish i .address))) ∧
    (key → reached → ∀ x, ∃ t, exec (.imageLoad i false 0 x) s = .next t ∧
      (v.2 = none → t.ctl.state = .loaded ∧ t.img = some v.1 ∧
        t.memr.activeStore = !s.memr.activeStore ∧ t.ctl.curPlacement = 0 ∧ t.ctl.loadBusy = false ∧ t.ctl.lastReject = s.ctl.lastReject ∧
        t.ctl.sigFail = 0 ∧
        (∀ j, (t.tmr.entries.at j).armed = false) ∧ t.tmr.issue = [] ∧ t.sites = [] ∧ t.gx.sets = [] ∧ t.sec = s.sec ∧ t.pwr = s.pwr ∧ t.lnk = s.lnk ∧
        ∃ h : Hif, h.fetched = gone.fetched ∧ h.sq = gone.sq ∧
          t.hif = if s.ctl.state = .loaded then h.complete s.hci e .success
            else (h.complete s.hci e .success).event s.hci 0x01 0 (BitVec.ofNat 64 (4 + 16 * 3)) 0 0) ∧
      (∀ r, v.2 = some r → (r.isSig = true → s.ctl.sigFail.toNat < 8) →
        t.ctl.state = s.ctl.state ∧ t.img = s.img ∧ t.ctl.lastReject = BitVec.ofNat 8 r.code ∧
        t.ctl.rejected = true ∧ t.ctl.detailSection = BitVec.ofNat 8 r.secIdx ∧ t.ctl.detailRecord = BitVec.ofNat 24 r.record ∧
        t.ctl.sigFail = (if r.isSig then s.ctl.sigFail + 1 else if passedAuth (some r) then 0 else s.ctl.sigFail) ∧ t.fab = s.fab ∧ t.sync = s.sync ∧
        t.tmr = s.tmr ∧ t.memr = s.memr ∧ t.gx = s.gx ∧
        t.hif = gone.complete s.hci e .imageReject r.code (BitVec.ofNat 64 (r.secIdx % 256 * 2 ^ 24 + r.record % 2 ^ 24))) ∧
      (∀ r, v.2 = some r → r.isSig = true → 8 ≤ s.ctl.sigFail.toNat →
        t.ctl.state = .alarm ∧ t.sec.sources = s.sec.sources ||| 64 ∧ t.img = s.img)) ∧
    (∀ k x, 3 ≤ k → k ≤ 8 → key → reached → v.2 = none → ∃ t, exec (.imageLoad i false k x) s = .next t ∧
      t.ctl.state = .ready ∧ t.img = none ∧ ∃ q, t.flt.reports = Report.enter q s.flt.reports ∧ q.cls = .load ∧ q.sev = .contained ∧ q.detail = k)

/-- R519, R524, R527 to R529, R538, R541: a report that is not an absorbed one joins the records to write, its fence ordered; a corrected fault of a tile in nested mode is absorbed, counted in its region. Reports and records of one cycle
stand by class, then unit (R543). In nested mode the record of a tile's report waits for its fence. A record is written
at the log's next index and numbered, or is counted as lost while 256 are unread; a CHIP record is copied and enters FAULT with the tiles held. The last two clauses
say that both commands complete in every state with a report, or a record, in front: a CHIP or a CONTAINED record of a running step whose update has begun does not abandon it. -/
def Obligations.FaultsReportedAndRecorded : Prop :=
  ∀ (s : State) (r : Report) (rest : List Report),
    (s.flt.reports = r :: rest → r.tile = none → ∃ t, exec .faultReport s = .next t ∧ t.flt.reports = rest ∧
      t.flt.toWrite = Report.enter r s.flt.toWrite ∧ t = { s with flt := t.flt } ∧
      t.flt.fences = s.flt.fences ++ (if r.fenced then [if r.level = 2 then 256 + r.unit else r.unit] else [])) ∧
    (∀ k, s.flt.reports = r :: rest → r.tile = some k → r.sev = .corrected → s.img = none → s.flt.ceThresh = 0 →
      ∃ t, exec .faultReport s = .next t ∧ t.flt.reports = rest ∧ t.flt.toWrite = s.flt.toWrite ∧
        t.flt.regCe.at (regionOf k) = satAdd (s.flt.regCe.at (regionOf k)) 1 ∧ t = { s with flt := t.flt }) ∧
    (s.flt.toWrite = r :: rest → r.sev ≠ .corrected → r.abandon = false → s.adm.running = false → s.flt.unread ≠ 256 →
      s.ctl.state.live = true → s.flt.abandoning = false → s.flt.fencePending s.crossed r = false →
      ∃ t, exec .faultRecordWrite s = .next t ∧ t.flt.toWrite = rest ∧ t.flt.seq = s.flt.seq + 1 ∧ t.flt.logWr = s.flt.logWr + 1 ∧
        t.flt.log.at (s.flt.logWr.toNat % 256) = r.bytes s.flt.seq.toNat false ∧
        (∀ k, k ≠ s.flt.logWr.toNat % 256 → t.flt.log.at k = s.flt.log.at k) ∧ t.mem = s.mem ∧
        (r.sev = .chip → t.ctl.state = .fault ∧ t.fab.hold = true ∧ t.flt.chipRec = r.bytes s.flt.seq.toNat false ∧
          t.img = if r.imgLost then none else s.img) ∧
        (r.sev = .contained → t.ctl = s.ctl ∧ t.img = s.img)) ∧
    (s.flt.toWrite = r :: rest → r.sev = .corrected → s.flt.unread = 256 → s.flt.fencePending s.crossed r = false →
      ∃ t, exec .faultRecordWrite s = .next t ∧ t.flt.toWrite = rest ∧ t.flt.log = s.flt.log ∧ t.flt.logWr = s.flt.logWr ∧
        t.flt.lostCnt = satAdd s.flt.lostCnt 1 ∧ t.flt.logFull = true) ∧
    (s.flt.reports = r :: rest →
      let crossed := (s.img.map (·.crossed)).getD false
      ∃ t, exec .faultReport s = .next t ∧ t = { s with flt := t.flt } ∧ t.flt.reports = rest ∧ t.flt.log = s.flt.log ∧
        (∀ k, r.tile = some k → (crossed = true ∨ r.sev ≠ .corrected) → t.flt.toWrite = Report.enter r s.flt.toWrite ∧
          t.flt.fences = s.flt.fences ++ (if r.fenced then [k] else [])) ∧
        (∀ k, r.tile = some k → crossed = false → r.sev = .corrected → t.flt.fences = s.flt.fences ∧
          t.flt.regCe.at (regionOf k) = satAdd (s.flt.regCe.at (regionOf k)) 1 ∧
          (t.flt.toWrite = s.flt.toWrite ∨ ∃ q, t.flt.toWrite = Report.enter q s.flt.toWrite ∧ q.sev = .corrected ∧ q.summary = true ∧ q.cls = r.cls ∧
            q.unit = regionOf k ∧ q.sub = s.flt.ceThresh.toNat)) ∧
        (r.tile = none → t.flt.toWrite = Report.enter r s.flt.toWrite ∧
          t.flt.fences = s.flt.fences ++ (if r.fenced then [if r.level = 2 then 256 + r.unit else r.unit] else []))) ∧
    (s.flt.toWrite = r :: rest → (∃ k, r.tile = some k ∧ r.fenced = true ∧ k ∈ s.flt.fences) → (s.img.map (·.crossed)).getD false = false →
      exec .faultRecordWrite s = .next s) ∧
    (s.flt.toWrite = r :: rest → s.flt.fencePending s.crossed r = false →
      let updating := s.adm.running && s.adm.updStarted
      let q := { r with abandon := if r.sev = Sev.chip then s.adm.running && !updating else r.abandon && !updating }
      ∃ t, exec .faultRecordWrite s = .next t ∧ t.flt.toWrite = rest ∧ t.flt.seq = s.flt.seq + 1 ∧ t.flt.logRd = s.flt.logRd ∧
        t.mem = s.mem ∧ t.memr = s.memr ∧ t.tmr = s.tmr ∧ (r.sev ≠ .chip → t.upd = s.upd) ∧ t.lnk = s.lnk ∧ t.inp = s.inp ∧ t.sync = s.sync ∧
        (s.flt.unread = 256 → t.flt.log = s.flt.log ∧ t.flt.logWr = s.flt.logWr ∧ t.flt.lostCnt = satAdd s.flt.lostCnt 1 ∧ t.flt.logFull = true) ∧
        (s.flt.unread ≠ 256 → t.flt.logWr = s.flt.logWr + 1 ∧
          t.flt.log.at (s.flt.logWr.toNat % 256) = q.bytes s.flt.seq.toNat (r.sev == Sev.chip && updating)) ∧
        (r.sev = .corrected → t = { s with flt := t.flt, hif := t.hif }))

/-- R33, R130, R542, R544, R532 to R534: a fence is in force on its tile and drops the SRAM writes of the tile's memory firings and its SIGNALs under way,
while its TAKEs under way stay (log entry 113, the model's choice); a STEM firing whose output is not yet sent stops. FLT_INJECT with GO waits on its tile while an
image is active and is ignored otherwise; an abandonment ends with the step's micro-batches given back, the row sets of each freed and counted
as not admitted, the fences lifted, its report written, RUN refused until a flush, and the state back in ARMED, or in FAULT where a chip-level fault came meanwhile. -/
def Obligations.FencesInjectionsAbandonments : Prop :=
  ∀ (s : State) (v : W32),
    (∀ n rest, n < 256 → s.flt.fences = n :: rest → ∃ t, exec .tileFence s = .next t ∧ t.flt.fences = rest ∧ n ∈ t.fab.fenced ∧
      (∀ k ∈ s.fab.fenced, k ∈ t.fab.fenced) ∧ (∀ im, s.img = some im → ∀ x ∈ t.fab.firings, x.tile = n → (im.descAt x.desc).cls = 7 → x.sram = []) ∧
      (∀ im, s.img = some im → ∀ x ∈ s.fab.firings, x.tile = n → (im.descAt x.desc).cls = 9 → x.allSent im = false →
        (t.fab.slot n x.slot).st = .stopped ∧ ∀ y ∈ t.fab.firings, y.tile = n → y.slot ≠ x.slot) ∧
      (∀ o m, .signal o m n ∉ t.sync.msgs) ∧ (∀ o v k x, .take o v k x ∈ t.sync.msgs ↔ .take o v k x ∈ s.sync.msgs) ∧
      t = { s with fab := t.fab, sync := { s.sync with msgs := t.sync.msgs }, flt := { s.flt with fences := rest, regFence := t.flt.regFence } }) ∧
    (s.ctl.state.live = true → s.img = none → exec (.fltInject v) s = .next s) ∧
    (s.ctl.state.live = true → s.img.isSome = true → v.getLsbD 31 = true → 1 ≤ v.toNat % 8 → v.toNat % 8 ≤ 5 →
      ∃ t, exec (.fltInject v) s = .next t ∧ t.fab = { s.fab with inject := s.fab.inject ++ [(v.toNat / 65536 % 256, v.toNat % 8)] } ∧
        t.flt.injTile = BitVec.ofNat 8 (v.toNat / 65536) ∧ t.flt.injKind = BitVec.ofNat 3 v.toNat) ∧
    (∀ im, s.img = some im → s.flt.abandoning = true → s.flt.reports = [] → s.flt.toWrite = [] → s.flt.chipAfter = false →
      (s.ctl.state = .stepping ∨ s.ctl.state = .draining) →
      ∃ t, exec .abandonComplete s = .next t ∧ t.ctl.state = .armed ∧ t.flt.abandoning = false ∧ t.flt.needFlush = true ∧ t.flt.abandoned = true ∧
        t.flt.abandonCnt = satAdd s.flt.abandonCnt 1 ∧ t.flt.lastAbandon = s.tmr.step ∧ t.tmr.step = s.tmr.step ∧ t.adm.running = false ∧
        t.adm.frames = [] ∧ t.fab.hold = false ∧ t.fab.firings = [] ∧ t.fab.fenced = [] ∧ t.flt.fences = [] ∧ t.img = s.img ∧
        (∀ g, g ∈ t.inp.live ↔ g ∈ s.inp.live ∧ ∀ f ∈ s.adm.frames, g / s.inp.mbRows ≠ f.inMb) ∧
        t.inp = { s.inp with live := t.inp.live, nextMb := s.inp.nextMb - s.adm.frames.length }) ∧
    (s.flt.abandoning = true → s.flt.reports = [] → s.flt.toWrite = [] → s.flt.chipAfter = true → (s.ctl.state = .stepping ∨ s.ctl.state = .draining) →
      ∃ t, exec .abandonComplete s = .next t ∧ t.ctl.state = .fault ∧ t.fab.hold = true ∧ t.flt.abandoning = false ∧ t.adm.running = false ∧
        (∀ g, g ∈ t.inp.live ↔ g ∈ s.inp.live ∧ ∀ f ∈ s.adm.frames, g / s.inp.mbRows ≠ f.inMb) ∧ t.img = s.img) ∧
    ((s.flt.abandoning = false ∨ ∃ r ∈ s.flt.reports ++ s.flt.toWrite, r.abandon = true) → exec .abandonComplete s = .next s)

/-- R521, R522, R525, R537: watchdogs, a missing heartbeat, a region manager's parity error, the lockstep comparison and the PLLs each make one report of the class, severity and unit their rule gives,
and change nothing else. A fenced, halted or held tile is exempt from its watchdog.
R33, R37, R116 to R118: a SIGNAL or TAKE of a tile leaves the messages under way and acts at its object's home; a fenced tile's is granted nothing and waits (log entry 113).
R521: where the object's storage fails parity a CONTROL report tells, and the operation acts on a count that is a free value (log entry 41). -/
def Obligations.WatchersAndTileSync : Prop :=
  (∀ (s : State) (tile : BitVec 8) (region : BitVec 4) (pll : Nat) (w : Watch), s.ctl.state.awake = true →
    let tells := fun (c : Instr) (cls : Cls) (sev : Sev) (level unit detail : Nat) => ∃ t q, exec c s = .next t ∧ t = { s with flt := t.flt } ∧
      t.flt.reports = Report.enter q s.flt.reports ∧ q.cls = cls ∧ q.sev = sev ∧ q.level = level ∧ q.unit = unit ∧ q.detail = detail ∧
      t.flt.classCnt.at cls.code = satAdd (s.flt.classCnt.at cls.code) 1
    tells (.heartbeatTimeout region false) .control .contained 2 region.toNat 5 ∧ tells (.heartbeatTimeout region true) .control .contained 2 region.toNat 1 ∧
    tells .lockstepMismatch .mgmt .chip 3 0xFFFF 0 ∧ tells (.pllLockLoss pll) .railClock .chip 3 0xFFFF 0 ∧
    (∀ im, s.img = some im → (w = .parity ∨ s.fab.held tile.toNat = false) → s.watched im tile.toNat w = true →
      tells (.tileWatchdogExpiry tile w) .control .contained 1 tile.toNat w.detail) ∧
    (w ≠ .parity → s.fab.held tile.toNat = true → exec (.tileWatchdogExpiry tile w) s = .next s)) ∧
  (∀ (s : State) (i o n v t k : Nat) (bad : Bool),
    let rest : State := { s with sync := { s.sync with msgs := s.sync.msgs.eraseIdx i } }
    (s.sync.msgs[i]? = some (.signal o n t) → s.fab.fenced.contains t = false →
      exec (.signal i bad) s = .next ((rest.parityAt o bad).syncOp o (.signal (BitVec.ofNat 32 n)))) ∧
    (s.sync.msgs[i]? = some (.take o v t k) → s.fab.fenced.contains t = false →
      exec (.take i bad) s = .next ((rest.parityAt o bad).syncOp o (.take (.slot t k) (BitVec.ofNat 32 v)))) ∧
    (s.sync.msgs[i]? = some (.signal o n t) → s.fab.fenced.contains t = true → exec (.signal i bad) s = .next s) ∧
    (s.sync.msgs[i]? = some (.take o v t k) → s.fab.fenced.contains t = true → exec (.take i bad) s = .next s) ∧
    rest.parityAt o false = rest ∧
    (s.ctl.state.awake = true → ∃ u q, rest.parityAt o true = u ∧ u.flt.reports = Report.enter q s.flt.reports ∧ q.cls = .control ∧ q.sub = o ∧
      (u.sync.objs.at o) = { s.sync.objs.at o with count := (Config.freeWord s.free).setWidth 32 } ∧
      (∀ j, j ≠ o → u.sync.objs.at j = s.sync.objs.at j) ∧ u = { rest with sync := u.sync, flt := u.flt, free := s.free + 1 }))

/-- R454 to R458: a clean scrub read moves its scrubber on by one unit; a correctable error met is counted and reported and no byte changes; an uncorrectable one
marks its unit, is recorded with source SCRUB and reported. A pass that has read every unit starts again, and BEHIND tells a late one.
R453: which errors a unit's code corrects: none or one symbol of a code word; with two it detects, and an x8 burst has two code words of 40 bits.
A write-back changes no byte: the model holds corrected data.
R460 to R463, R465: SUBMIT queues the job that the registers hold, or sets OVERFLOW while 64 wait; POP removes the head result, and in one write acts before SUBMIT; a job
starts when none runs and no result waits for the FIFO; its scan reads each byte once, in order, as it stands then, some of them in idle cycles
(how many is a free value, log entry 94), and its end gives the check value of the bytes read, ADDRESS for a span not mapped, or POISON with an undefined
value, with its tag, and signals its object by 1 if it is to. A scan in two parts gives the check value of the whole. -/
def Obligations.ScrubAndCheckValues : Prop :=
  (∀ (s : State) (n : BitVec 4) (late : Bool) (p : Nat),
    exec (.eccWriteBack p) s = .next s ∧
    (let k := s.memr.scrubPlace n.toNat
     let pos := (s.memr.scrub.at n.toNat).pos
     s.ctl.state.awake = true → s.memr.initBusy = false → s.memr.scrubOn n.toNat = true → pos < s.memr.scrubBytes n.toNat → s.mem.poisoned k = false →
      ((List.range (eccBytes k)).map (· + k)).any s.mem.poisoned = false →
      (∃ t, exec (.patrolScrubRead n .clean) s = .next t ∧ (t.memr.scrub.at n.toNat).pos = pos + eccBytes k ∧
        t = { s with memr := { s.memr with scrub := t.memr.scrub } }) ∧
      (∃ t q, exec (.patrolScrubRead n (.corrected 0)) s = .next t ∧ t.mem = s.mem ∧ t.flt.reports = Report.enter q s.flt.reports ∧ q.sev = .corrected ∧
        (t.memr.scrub.at n.toNat).pos = pos + eccBytes k) ∧
      (∃ t q, exec (.patrolScrubRead n (.uncorrected 0)) s = .next t ∧ t.mem.poisoned k = true ∧ (∀ j, t.mem.byte j = s.mem.byte j) ∧
        t.flt.reports = Report.enter q s.flt.reports ∧ q.sev ≠ .corrected ∧
        (s.memr.errValid = false → t.memr.errValid = true ∧ t.memr.errSource = 1) ∧ (s.memr.errValid = true → t.memr.errOverflow = true))) ∧
    (s.ctl.state.awake = true → s.memr.initBusy = false → s.memr.scrubOn n.toNat = true → s.memr.scrubBytes n.toNat ≤ (s.memr.scrub.at n.toNat).pos →
      ∃ t, exec (.scrubPassComplete n late) s = .next t ∧ (t.memr.scrub.at n.toNat).pos = 0 ∧ t = { s with memr := t.memr } ∧
        (n.toNat < 8 → t.memr.hbmBehind = (s.memr.hbmBehind || late) ∧ t.memr.ddrBehind = s.memr.ddrBehind) ∧
        (8 ≤ n.toNat → t.memr.ddrBehind = (s.memr.ddrBehind || late) ∧ t.memr.hbmBehind = s.memr.hbmBehind))) ∧
  (∀ (tier a b : Nat) (x8 : Bool),
    eccOut tier x8 [a] = .corrected ∧ eccOut tier x8 [] = (if tier = 2 then .corrected else .none) ∧
    (a ≠ b → (tier ≠ 3 ∨ x8 = false) → eccOut tier x8 [a, b] = .uncorrected) ∧
    (a ≠ b → eccOut 3 true [a, b] = if a / 40 = b / 40 then .uncorrected else .corrected)) ∧
  (∀ (s : State) (v : W32) (j : CrcJob) (rest : List CrcJob), s.ctl.state.live = true →
    (v.getLsbD 31 = true → v.getLsbD 30 = false →
      ∃ t, exec (.submit v) s = .next t ∧ t = { s with memr := t.memr } ∧ t.memr.results = s.memr.results ∧
        (s.memr.jobs.length < 64 → t.memr.jobs = s.memr.jobs ++ [t.memr.job] ∧ t.memr.job.tag = BitVec.ofNat 8 v.toNat ∧
          t.memr.job.addr = s.memr.job.addr ∧ t.memr.job.len = s.memr.job.len) ∧
        (64 ≤ s.memr.jobs.length → t.memr.jobs = s.memr.jobs ∧ t.memr.crcOverflow = true)) ∧
    (v.getLsbD 30 = true → ∃ t, exec (.pop v) s = .next t ∧ t = { s with memr := t.memr } ∧ t.memr.results = s.memr.results.drop 1) ∧
    (s.memr.running = none → s.memr.jobs = j :: rest → s.memr.results.length ≤ 64 →
      exec .crcJobStart s = .next { s with memr := { s.memr with
        running := some j, jobs := rest, scanPos := 0, scanCrc := if j.cont then j.seed.toNat else 0 } }) ∧
    (64 < s.memr.results.length → exec .crcJobStart s = .next s) ∧
    (s.memr.running.isSome = true → exec .crcJobStart s = .next s) ∧
    (s.memr.running = some j → s.fab.inject = [] →
      let p := s.memr.scanPos
      let ks := spanPlaces (j.addr.toNat + p) (j.len.toNat - p)
      let mapped := j.len = 0 ∨ spanMapped s.memr.ddr j.addr.toNat j.len.toNat = true
      let told := fun (x : State) => if j.sig then x.syncOp j.obj.toNat (.signal 1) else x
      let ends := fun (m : MemRegs) (value : W64) (status : BitVec 2) => { m with
        running := none, scanPos := 0, scanCrc := 0, results := m.results ++ [{ value := value, status := status, tag := j.tag }] }
      (¬ mapped → exec (.crcJobComplete .clean) s = .next (told { s with memr := ends s.memr 0 1 })) ∧
      (mapped → ks.any s.mem.poisoned = false → exec (.crcJobComplete .clean) s = .next (told { s with
        memr := ends s.memr (BitVec.ofNat 64 (crcContinue j.alg s.memr.scanCrc (ks.map s.mem.byte))) 0 })) ∧
      (mapped → ks.any s.mem.poisoned = true → ∃ x, exec (.crcJobComplete .clean) s = .next (told { s with
        memr := ends { s.memr with poisonRd := true } x 2, free := s.free + 1 })) ∧
      (mapped → p + 1 < j.len.toNat → s.pending = [] → (spanPlaces (j.addr.toNat + p) 51).any s.mem.poisoned = false →
        ∃ t n, step s = .next t ∧ n ≤ 51 ∧ p + n < j.len.toNat ∧ (n = 0 → t.memr = s.memr) ∧ (0 < n → t.memr = { s.memr with
          scanPos := p + n, scanCrc := crcContinue j.alg s.memr.scanCrc ((spanPlaces (j.addr.toNat + p) n).map s.mem.byte) })))) ∧
  (∀ (alg : Bool) (seed : Nat) (a b : List Byte), crcContinue alg (crcContinue alg seed a) b = crcContinue alg seed (a ++ b))

/-- R367: the count takes the set value, with fraction 0, at the write of SET_NOW; in ARMED, STEPPING or DRAINING the set is ignored and SET_REJ is set.
A write to TMR_STEP follows the same rule. -/
def Obligations.HostSetsTime : Prop :=
  ∀ (s : State) (v : W32),
    ((s.ctl.state = .ready ∨ s.ctl.state = .loaded ∨ s.ctl.state = .fault) →
      (v.getLsbD 4 = true → ∃ t, exec (.setNow v) s = .next t ∧ t.tmr.ns = s.tmr.setVal ∧ t.tmr.frac = 0 ∧ t.tmr.setRej = s.tmr.setRej ∧
        t = { s with tmr := t.tmr, hif := t.hif }) ∧
      (∃ t, exec (.tmrStepWrite v) s = .next t ∧ t.tmr = { s.tmr with step := v } ∧ t = { s with tmr := t.tmr, hif := t.hif })) ∧
    ((s.ctl.state = .armed ∨ s.ctl.state = .stepping ∨ s.ctl.state = .draining) →
      (v.getLsbD 4 = true → ∃ t, exec (.setNow v) s = .next t ∧ t.tmr.ns = s.tmr.ns ∧ t.tmr.frac = s.tmr.frac ∧ t.tmr.setRej = true) ∧
      (∃ t, exec (.tmrStepWrite v) s = .next t ∧ t.tmr = { s.tmr with setRej := true }))

/-- R368, R372 to R374: SRC written 0 or 3, or a port that does not exist, frees the servo. While a source is selected, its loss from ACQUIRING or LOCKED enters HOLDOVER with HOLDOVER_ENTERED and
the rate's mean, from FREE it changes no servo state; a CT pulse is measured against the expected second: far off without a fresh TMR_PULSE_NEXT it only sets PULSE_MISS, near it the
servo follows. R369, R384: TMR_PULSE_NEXT as a write of its high word took it names the next edge's second, and makes the time valid. A holdover past its limit sets SPEC_EXCEEDED.
The step number never changes. -/
def Obligations.ServoFollowsSource : Prop :=
  ∀ (s : State) (v : W32) (e0 : Nat),
    (s.ctl.state.live = true → v.getLsbD 4 = false → (v.toNat % 4 = 0 ∨ v.toNat % 4 = 3) →
      ∃ t, exec (.servoSourceSelect v) s = .next t ∧ t.tmr.servo = .free ∧ t.tmr.ns = s.tmr.ns ∧ t.tmr.step = s.tmr.step ∧
        t = { s with tmr := t.tmr, hif := t.hif }) ∧
    (s.ctl.state.live = true →
      let lost := fun (c : Instr) (ref : Bool) => ∃ t, exec c s = .next t ∧ t.tmr.ns = s.tmr.ns ∧ t.tmr.step = s.tmr.step ∧
        t.tmr.refLoss = (s.tmr.refLoss || ref) ∧
        ((s.tmr.servo = .acquiring ∨ s.tmr.servo = .locked) → t.tmr.servo = .holdover ∧ t.tmr.holdoverEntered = true) ∧
        ((s.tmr.servo = .free ∨ s.tmr.servo = .holdover) → t.tmr.servo = s.tmr.servo) ∧ t = { s with tmr := t.tmr, hif := t.hif, free := t.free }
      (s.tmr.source = 1 → lost .ctRefLoss true ∧ lost .pulseLoss false) ∧ (s.tmr.source = 2 → lost .timeRespLoss false)) ∧
    (s.ctl.state.live = true → s.tmr.source = 1 →
      let next := s.tmr.pulseExpected + 1000000000
      (s.tmr.pulseTaken = none → s.tmr.timeValid = true → 64000 < ((s.tmr.t64 : Int) - 64 * (next : Int)).natAbs →
        ∃ t, exec .ctPulseEdge s = .next t ∧ t.tmr.pulseMiss = true ∧ t.tmr.servo = s.tmr.servo ∧ t.tmr.rate = s.tmr.rate ∧ t.tmr.ns = s.tmr.ns) ∧
      (∀ x, s.tmr.pulseTaken = some x → ((s.tmr.t64 : Int) - 64 * (x : Int)).natAbs ≤ 64000000 →
        ∃ t, exec .ctPulseEdge s = .next t ∧ t.tmr.pulseExpected = x ∧ t.tmr.pulseTaken = none ∧ t.tmr.timeValid = true ∧
          t.tmr.offset = BitVec.ofInt 32 (64 * (x : Int) - s.tmr.t64) ∧ t.tmr.ns = s.tmr.ns ∧ t.tmr.step = s.tmr.step) ∧
      (s.tmr.pulseTaken = none → ((s.tmr.t64 : Int) - 64 * (next : Int)).natAbs ≤ 64000 →
        ∃ t, exec .ctPulseEdge s = .next t ∧ t.tmr.pulseExpected = next ∧ t.tmr.offset = BitVec.ofInt 32 (64 * (next : Int) - s.tmr.t64) ∧
          t.tmr.ns = s.tmr.ns ∧ t.tmr.step = s.tmr.step ∧ t.tmr.servo ≠ .free ∧ t.tmr.servo ≠ .holdover ∧
          (-rateClamp ≤ t.tmr.rate ∧ t.tmr.rate ≤ rateClamp) ∧ t = { s with tmr := t.tmr, hif := t.hif, free := t.free })) ∧
    (s.ctl.state.awake = true → s.tmr.servo = .holdover → s.tmr.boundExceeded e0 = true →
      ∃ t, exec (.holdoverLimitExceeded e0) s = .next t ∧ t.tmr = { s.tmr with specExceeded := true })

/-- R376 to R379, R381: arming through TMR_ENT_CTRL stores the entry's kind, action and object, and refuses a reserved action; an armed STEP entry of a step that has ended is missed; an armed entry changes only
by being disarmed, and one that is due then fires once first. A due entry fires: it is queued by due time, marked FIRED, counted, and disarmed when it does not repeat; a parity
error makes a CONTROL report instead. -/
def Obligations.TimerEntriesArmAndFire : Prop :=
  ∀ (s : State) (n : BitVec 11) (v : W32),
    let e := s.tmr.entries.at n.toNat
    let kind := v.toNat / 2 ^ 24 % 4
    let action := v.toNat / 2 ^ 20 % 16
    (s.ctl.state.live = true → e.armed = false → v.getLsbD 31 = true → kind = 0 → action < 8 →
      ∃ t, exec (.timerEntryCtrlWrite n v) s = .next t ∧ (t.tmr.entries.at n.toNat).armed = true ∧
        (t.tmr.entries.at n.toNat).action = BitVec.ofNat 4 action ∧ (t.tmr.entries.at n.toNat).object = BitVec.ofNat 14 v.toNat ∧
        (∀ j, j ≠ n.toNat → t.tmr.entries.at j = s.tmr.entries.at j) ∧ t.tmr.ns = s.tmr.ns ∧ t = { s with tmr := t.tmr, hif := t.hif }) ∧
    (s.ctl.state.live = true → e.armed = false → v.getLsbD 31 = true → 8 ≤ action →
      ∃ t, exec (.timerEntryCtrlWrite n v) s = .next t ∧ (t.tmr.entries.at n.toNat).armed = false) ∧
    (s.ctl.state.live = true → e.armed = false → v.getLsbD 31 = true → kind = 1 → action < 8 → v.getLsbD 28 = false → stepEnded e.step s.tmr.step = true →
      ∃ t, exec (.timerEntryCtrlWrite n v) s = .next t ∧ (t.tmr.entries.at n.toNat).armed = false ∧ (t.tmr.entries.at n.toNat).missed = true ∧
        t.tmr.missed = true ∧ t.tmr.missCnt = satAdd s.tmr.missCnt 1) ∧
    (s.ctl.state.live = true → e.armed = true → v.getLsbD 31 = true → ∃ t, exec (.timerEntryCtrlWrite n v) s = .next t ∧
      t.tmr.entries.at n.toNat = { e with missed := e.missed && !v.getLsbD 30, fired := e.fired && !v.getLsbD 29 } ∧ t.tmr.issue = s.tmr.issue) ∧
    (s.ctl.state.live = true → e.armed = true → v.getLsbD 31 = false → s.tmr.isDue e = false → ∃ t, exec (.timerEntryCtrlWrite n v) s = .next t ∧
      t.tmr.entries.at n.toNat = { e with armed := false, missed := e.missed && !v.getLsbD 30, fired := e.fired && !v.getLsbD 29 } ∧
      t.tmr.issue = s.tmr.issue ∧ t.tmr.fireCnt = s.tmr.fireCnt) ∧
    (s.ctl.state.live = true → v.getLsbD 31 = false → s.tmr.isDue e = true → ∃ t, exec (.timerEntryCtrlWrite n v) s = .next t ∧
      (t.tmr.entries.at n.toNat).armed = false ∧ (t.tmr.entries.at n.toNat).fired = true ∧ t.tmr.fireCnt = satAdd s.tmr.fireCnt 1 ∧
      t.tmr.issue.length = s.tmr.issue.length + 1) ∧
    (s.ctl.state.awake = true → s.tmr.isDue e = true → e.kind = 0 → e.period = 0 →
      ∃ t, exec (.timerEntryDue n false) s = .next t ∧ (t.tmr.entries.at n.toNat).armed = false ∧ (t.tmr.entries.at n.toNat).fired = true ∧
        t.tmr.fireCnt = satAdd s.tmr.fireCnt 1 ∧ t.tmr.issue.length = s.tmr.issue.length + 1 ∧
        { time := e.time.toNat, entry := n.toNat, action := e.action.toNat, object := e.object.toNat, arg := e.arg.toNat } ∈ t.tmr.issue ∧
        t = { s with tmr := t.tmr, hif := t.hif }) ∧
    (s.ctl.state.awake = true → s.tmr.isDue e = true →
      ∃ t q, exec (.timerEntryDue n true) s = .next t ∧ t.tmr = s.tmr ∧ t.flt.reports = Report.enter q s.flt.reports ∧ q.cls = .control ∧ q.sev = .chip ∧ q.detail = 1)

/-- R248, R349, R379, R380: the entry at the front of the issue queue acts as its action says where the table of R380 lets it act, and is dropped and counted elsewhere.
R521: an object whose storage fails parity is reported, and the operation acts on a count that is a free value (log entry 41). -/
def Obligations.TimerActionsIssue : Prop :=
  ∀ (s : State) (d : Due) (rest : List Due) (bad : Bool), s.ctl.state.awake = true → s.tmr.issue = d :: rest →
    let u : State := { s with tmr := { s.tmr with issue := rest } }
    let drops := fun (c : Instr) => exec c s = .next { s with tmr := { s.tmr with issue := rest, dropCnt := satAdd s.tmr.dropCnt 1 } }
    let image := s.img.isSome = true
    let steps := s.ctl.state = .stepping ∨ s.ctl.state = .draining
    (d.action = 0 → image → d.arg ≠ 0 → exec (.timerSignal bad) s = .next ((u.parityAt d.object bad).syncOp d.object (.signal (BitVec.ofNat 32 d.arg)))) ∧
    (d.action = 0 → image → d.arg = 0 → exec (.timerSignal bad) s = .next u) ∧ (d.action = 0 → ¬ image → drops (.timerSignal bad)) ∧
    (d.action = 1 → image → exec (.timerSet bad) s = .next ((u.parityAt d.object bad).syncOp d.object (.set (BitVec.ofNat 32 d.arg)))) ∧ (d.action = 1 → ¬ image → drops (.timerSet bad)) ∧
    (d.action = 2 → steps → exec .bucketDeadline s = .next { u with gx := { s.gx with base := some (s.gx.base.getD d.time) } }) ∧
    (d.action = 2 → ¬ steps → drops .bucketDeadline) ∧
    (d.action = 3 → steps → exec .stragglerCutoff s = .next (u.cutOff d.time)) ∧ (d.action = 3 → ¬ steps → drops .stragglerCutoff) ∧
    (d.action = 4 → image → exec .digestCompare s = .next { u with tmr := { u.tmr with latchDigest := true } }) ∧
    (d.action = 4 → ¬ image → drops .digestCompare) ∧
    (d.action = 5 → image → exec .timerSnapshot s = .next { u with tmr := { u.tmr with latchSnap := true } }) ∧ (d.action = 5 → ¬ image → drops .timerSnapshot) ∧
    (d.action = 6 → image → exec .placementSwitch s = .next { u with
      ctl := { s.ctl with placeForce := d.arg / 16 % 2 == 1, placement := BitVec.ofNat 3 d.arg } }) ∧ (d.action = 6 → ¬ image → drops .placementSwitch) ∧
    (d.action = 7 → s.ctl.state ≠ .reset → exec .powerPolicy s = .next { u with pwr := { s.pwr with polSel := BitVec.ofNat 4 d.arg } }) ∧
    (d.action = 7 → s.ctl.state = .reset → drops .powerPolicy)

/-! Tiles, the mesh and a step -/

/-- R108, R109, R110, R455, R548: the ready slot that goes before all other ready slots of its unit (by priority, then by how long it has been ready, then by number) starts its firing when FIRING_START comes, and in a region the
slot the stem engine is to serve when STEM_ENGINE_START does, the lowest tile after the one served last: the slot is RUNNING, one credit of each output edge is taken, the TAKE grant is used, and memory stays as it is. Data that
carries the poison mark stops the slot. A slot that is not ready does not start, nor one whose unit the droop
gate of its region holds. With `streamed` the product in front has streamed before (R86, R108). -/
def Obligations.FiringsStart : Prop :=
  ∀ (s : State) (im : Image), s.img = some im →
    let starts := fun (c : Ecc → Instr) (t k : Nat) =>
      let d := im.descAt (s.fab.slot t k).desc
      ((im.firePlaces s.fab t d).any s.mem.poisoned = false → (∀ a ∈ im.firePlaces s.fab t d, ∀ q, (placeUnit a, q) ∉ s.fab.inject) →
        (∀ e ∈ d.inEdges, (s.fab.edge e).bad = []) → d.outEdges.Nodup →
        ∃ u x, exec (c .clean) s = .next u ∧ (u.fab.slot t k).st = .running ∧ (u.fab.slot t k).taken = false ∧ u.fab.firings = s.fab.firings ++ [x] ∧
          x.tile = t ∧ x.slot = k ∧ x.num = (s.fab.slot t k).count ∧
          x.phase = (if isArray d.cls = true ∧ d.abftOff = false then .verdict else if d.cls = 6 then .data else .send) ∧
          x.outs.map (fun b => (b.edge, b.place)) = d.outEdges.map (fun e => (e, (s.fab.edge e).wr)) ∧
          (isArray d.cls = true → (u.fab.array t).holds k = true) ∧
          (∀ e ∈ d.outEdges, (u.fab.edge e).credits = (s.fab.edge e).credits - 1) ∧ (∀ e, e ∉ d.outEdges → u.fab.edge e = s.fab.edge e) ∧
          u = { s with fab := u.fab, free := u.free, flt := { s.flt with abftOffStep := u.flt.abftOffStep } }) ∧
      ((im.firePlaces s.fab t d).any s.mem.poisoned = true → ∀ e, ∃ u, exec (c e) s = .next u ∧ (u.fab.slot t k).st = .stopped ∧
        (u.fab.tiles.at t).poisonIn = true ∧ u.memr.poisonRd = true ∧ ∀ a, u.mem.byte a = s.mem.byte a)
    let before := fun (v : State) (t k j : Nat) =>
      let pr := fun (n : Nat) => (im.descAt (v.fab.slot t n).desc).priority
      let since := fun (n : Nat) => (indexOf (· == (t, n)) v.fab.readyLog).getD v.fab.readyLog.length
      pr j < pr k ∨ (pr j = pr k ∧ (since k < since j ∨ (since k = since j ∧ k < j)))
    (∀ (tile : BitVec 8) (slot : BitVec 4) (streamed : Bool) (faults : List ArrayFault),
      let t := tile.toNat
      let k := slot.toNat
      let d := im.descAt (s.fab.slot t k).desc
      let v := if streamed && isArray d.cls then { s with fab := s.fab.modArray t ArrayRegs.streamed } else s
      (d.cls ≠ 9 → s.gated t d.cls = false → v.ready im t k = true →
        (∀ j < 16, j ≠ k → unitOf (im.descAt (s.fab.slot t j).desc).cls = unitOf d.cls → v.ready im t j = true → before v t k j) →
        starts (fun e => .firingStart tile slot e streamed faults) t k) ∧
      (v.ready im t k = false ∨ s.gated t d.cls = true → ∀ e, exec (.firingStart tile slot e streamed faults) s = .next s)) ∧
    (∀ (g : BitVec 4) (t k : Nat),
      let waits := fun t' k' => regionOf t' = g.toNat ∧ t' < 256 ∧ k' < 16 ∧ (im.descAt (s.fab.slot t' k').desc).cls = 9 ∧ s.ready im t' k' = true
      let turn := fun (t' : Nat) => (t' + 256 - s.fab.stem.at g.toNat) % 256
      (waits t k → s.pwr.gate.at g.toNat = false → s.fab.stem.at g.toNat ≤ 256 → (∀ t' k', waits t' k' → t' ≠ t → turn t < turn t') →
        (∀ k', waits t k' → k' ≠ k → before s t k k') → starts (.stemEngineStart g) t k) ∧
      ((∀ t' k', ¬ waits t' k') ∨ s.pwr.gate.at g.toNat = true → ∀ e, exec (.stemEngineStart g e) s = .next s))

/-- R33, R110, R113, R114, R521: a MEM_LOAD's block comes back from the places of its descriptor, as free values where R270 leaves the stash undefined; poisoned data stops its slot, and on a fenced tile
the block arrives poisoned. A checked firing whose checks held frees
its input places and sends; the first attempt with a failed check is repeated with no report, the second stops the slot with a CONTAINED MATRIX report; a repeat that passes leaves CKSUM_RETRY and one corrected report; on a
fenced tile a repeat waits (R543).
R187, R200, R205: on an integer path a row of a product without faults passes its check, and any faults of one line that change the line's sum fail it. On a block-scaled path a stage any of whose scale bytes is 255 is
not compared, and one whose two computations of the block value or of the sum differ fails. -/
def Obligations.ReturnsAndVerdicts : Prop :=
  (∀ (s : State) (im : Image) (tile : BitVec 8) (slot : BitVec 4) (x : Firing), s.img = some im → s.fab.firing? tile.toNat slot.toNat = some x →
    let d := im.descAt x.desc
    let places := s.memPlaces im d x
    let sent := fun (bs : List Byte) => s.fab.setFiring { x with phase := .send, outs := x.outs.map fun b => { b with bytes := bs } }
    (x.phase = .data →
      (places.any s.mem.poisoned = false → s.fab.fenced.contains x.tile = false → (∀ a ∈ places, ∀ q, (placeUnit a, q) ∉ s.fab.inject) →
        (s.adm.disturbed = false → exec (.memoryDropReturn tile slot .clean) s = .next { s with fab := sent (s.mem.read places) }) ∧
        (s.adm.disturbed = true → ∃ bs, bs.length = places.length ∧ (d.cls ≠ 7 → im.namesStash d = false → bs = s.mem.read places) ∧
          exec (.memoryDropReturn tile slot .clean) s = .next { s with fab := sent bs, free := s.free + places.length })) ∧
      (places.any s.mem.poisoned = true ∨ s.fab.fenced.contains x.tile = true → ∀ e, ∃ u, exec (.memoryDropReturn tile slot e) s = .next u ∧ (u.fab.slot x.tile x.slot).st = .stopped ∧
        (u.fab.tiles.at x.tile).poisonIn = true ∧ ∀ a, u.mem.byte a = s.mem.byte a)) ∧
    (x.phase ≠ .data → ∀ e, exec (.memoryDropReturn tile slot e) s = .next s) ∧
    (x.phase = .verdict → ∀ faults,
      let part := match x.fail with | some f => f.partner | none => x.injPartner
      let who := if part then (im.partner? x.tile).getD x.tile else x.tile
      let fails := x.fail ≠ none ∨ x.forced ≠ 0
      let row := fun (f : CheckFail) => f.row % 2 ^ 13 + f.stage % 8 * 2 ^ 13 + (if d.cls = 2 then 2 ^ 16 else 0)
      (¬ fails → d.inEdges.Nodup → ∀ e, ∃ u, exec (.checksumVerdict tile slot e faults) s = .next u ∧
        u.fab.firings = s.fab.firings.map (fun y => if y.tile == x.tile && y.slot == x.slot then { x with phase := .send, freed := d.inEdges } else y) ∧
        (∀ a ∈ d.inEdges, a ∉ x.freed → ∀ r, im.edge? a = some r → (u.fab.edge a).tokens = (s.fab.edge a).tokens - 1 ∧
          (u.fab.edge a).rd = (s.fab.edge a).rd ∧
          (if r.prodTile = r.consTile then (u.fab.edge a).credits = (s.fab.edge a).credits + 1 ∧ (u.fab.edge a).queued = (s.fab.edge a).queued
            else (u.fab.edge a).credits = (s.fab.edge a).credits ∧ (u.fab.edge a).queued = (s.fab.edge a).queued + 1)) ∧
        (∀ a, (a ∉ d.inEdges ∨ a ∈ x.freed) → u.fab.edge a = s.fab.edge a) ∧ u.fab.slots = s.fab.slots ∧
        (x.again = false → u.fab.tiles = s.fab.tiles ∧ u = { s with fab := u.fab }) ∧
        (∀ f, x.again = true → x.first = some f → s.ctl.state.awake = true → ∃ q, u = { s with fab := u.fab, flt := u.flt } ∧
          (u.fab.tiles.at (im.failTile x f)).cksumRetry = true ∧ u.flt.reports = Report.enter q s.flt.reports ∧ q.cls = .matrix ∧ q.sev = .corrected ∧
          q.unit = x.tile ∧ q.sub = x.slot ∧ q.detail = row f)) ∧
      (x.again = false → fails → s.fab.fenced.contains x.tile = true → ∀ e, ∃ u, exec (.checksumVerdict tile slot e faults) s = .next u ∧
        u.fab.firings = s.fab.firings ∧ u.fab.slots = s.fab.slots ∧ u = { s with fab := { s.fab with arrays := u.fab.arrays, readyLog := u.fab.readyLog } }) ∧
      (x.again = false → fails → s.fab.fenced.contains x.tile = false → (im.firePlaces s.fab x.tile d).any s.mem.poisoned = false →
        (∀ a ∈ im.firePlaces s.fab x.tile d, ∀ q, (placeUnit a, q) ∉ s.fab.inject) →
        (∀ a ∈ d.inEdges, (s.fab.edge a).bad = []) → ∃ u y, exec (.checksumVerdict tile slot .clean faults) s = .next u ∧
        u.fab.firings = s.fab.firings.map (fun z => if z.tile == x.tile && z.slot == x.slot then y else z) ∧
        y.tile = x.tile ∧ y.slot = x.slot ∧ y.again = true ∧ y.phase = .verdict ∧ y.forced = x.forced - 1 ∧ (∀ f, x.fail = some f → y.first = some f) ∧
        y.outs.map (fun b => (b.edge, b.place, b.sent)) = d.outEdges.map (fun a => (a, (s.fab.edge a).wr, 0)) ∧
        (u.fab.tiles.at who).retries = satAdd (s.fab.tiles.at who).retries 1 ∧ (∀ t, t ≠ who → t ≠ x.tile → u.fab.tiles.at t = s.fab.tiles.at t) ∧
        u = { s with fab := u.fab, free := u.free }) ∧
      (x.again = true → s.ctl.state.awake = true → fails → ∀ e, ∃ u q,
        exec (.checksumVerdict tile slot e faults) s = .next u ∧ (u.fab.slot x.tile x.slot).st = .stopped ∧
        (u.fab.tiles.at who).cksumFail = true ∧ (u.fab.tiles.at who).fails = satAdd (s.fab.tiles.at who).fails 1 ∧
        u.flt.reports = Report.enter q s.flt.reports ∧ q.cls = .matrix ∧ q.sev = .contained ∧ q.fenced = true ∧ q.unit = x.tile ∧ q.sub = x.slot ∧
        (∀ f, x.fail = some f → q.detail = row f) ∧ u.mem = s.mem))) ∧
  (∀ (c : Column) (xs : List Fl), xs.length % 32 = 0 → c.sums.length = xs.length → (∀ l ∈ c.lines, l.1.length = xs.length) →
    (∀ k < xs.length, ((c.sums.getD k default).toInt - (c.lines.map fun l => (l.1.getD k default).toInt).sum) % 2 ^ 32 = 0) →
    (c.rowInt xs {}).fail = none ∧
    (∀ (f : RowFaults) (o : Nat), f.check = (fun _ => none) → (∀ j b, j ≠ o → f.sum j b = none) →
      (c.rowInt xs f).y.getD o 0 ≠ (c.rowInt xs {}).y.getD o 0 → (c.rowInt xs f).fail = some (xs.length / 32 - 1))) ∧
  (∀ (c : Column) (kv : Nat) (had : Bool) (xs : List Fl) (ex : List Nat) (f : RowFaults) (b : Nat), b < xs.length / 32 →
    (c.rowBlock kv had xs ex f).y.length = c.lines.length ∧
    (32 * b < kv → (ex.getD b 0 = 255 ∨ ∃ l ∈ c.lines, l.2.getD b 0 = 255) → (∀ o, f.stage o b = none ∧ f.added o b = none) → (c.rowBlock kv had xs ex f).fail ≠ some b) ∧
    (∀ o l v, c.lines[o]? = some l → f.stage o b = some v →
      v ≠ blockValue ((lineSums xs l.1 (f.sum o)).getD b (.fin false 0 0)) (ex.getD b 0) (l.2.getD b 0) had (decide (32 * b < kv)) →
      ∃ a ≤ b, (c.rowBlock kv had xs ex f).fail = some a) ∧
    (∀ o l v, c.lines[o]? = some l → f.added o b = some v → v ≠ stageSum (columnValues kv had (lineSums xs l.1 (f.sum o)) ex l.2) b →
      ∃ a ≤ b, (c.rowBlock kv had xs ex f).fail = some a))

/-- R98, R110 to R112, R114, R238, R521: FIRING_END waits for the last flit; then the firing is over: what its descriptor writes is stored at the places the descriptor gives and nowhere else, blocks for the
same tile pass internally, the read place of each input edge moves on, the slot is IDLE with its firing counted, and the descriptor's q is one more. A failed residue check of a VECTOR, SRAM, stem or Hadamard unit stops the slot with a CONTAINED DATAPATH report. -/
def Obligations.FiringsEnd : Prop :=
  ∀ (s : State) (im : Image) (tile : BitVec 8) (slot : BitVec 4) (x : Firing), s.img = some im → s.fab.firing? tile.toNat slot.toNat = some x →
    let d := im.descAt x.desc
    let sl := s.fab.slot x.tile x.slot
    let here := fun (b : OutBlk) => let e := (im.edge? b.edge).getD default; e.prodTile = e.consTile
    let stored := match x.sram with
      | [] => []
      | (off, bs) :: _ =>
        if d.cls = 5 then bs.zipIdx.map fun p => im.sramPlace' x.tile (off + p.2)
        else if im.isAccStore d || s.storeDropped im d x then [] else s.memPlaces im d x
    let passed := x.outs.flatMap fun b =>
      let e := (im.edge? b.edge).getD default
      if e.prodTile = e.consTile then b.bytes.zipIdx.map fun p => im.sramPlace' e.consTile (e.placeOff b.place + p.2) else []
    (x.allSent im = false → exec (.firingEnd tile slot false) s = .next s) ∧
    (x.allSent im = true → ∃ u, exec (.firingEnd tile slot false) s = .next u ∧ u.fab.firing? x.tile x.slot = none ∧
      (u.fab.slot x.tile x.slot).st = .idle ∧
      (u.fab.slot x.tile x.slot).count = (if d.firesPerMb ≤ sl.count + 1 then 0 else sl.count + 1) ∧
      (u.fab.slot x.tile x.slot).done = (if d.firesPerMb ≤ sl.count + 1 then sl.done + 1 else sl.done) ∧
      (u.fab.q.at x.desc) = s.fab.q.at x.desc + 1 ∧ (∀ i, i ≠ x.desc → u.fab.q.at i = s.fab.q.at i) ∧
      (d.inEdges.Nodup → ∀ a ∈ d.inEdges, ∀ r, im.edge? a = some r → (u.fab.edge a).rd = ((s.fab.edge a).rd + 1) % max r.capacity 1) ∧
      (∀ a, a ∉ d.inEdges → (u.fab.edge a).rd = (s.fab.edge a).rd) ∧
      (∀ a, a ∉ stored → a ∉ passed → u.mem.byte a = s.mem.byte a) ∧
      ((∀ b ∈ x.outs, ¬ here b) → ∀ off bs r, x.sram = (off, bs) :: r → s.adm.disturbed = false → stored.Nodup → stored.length = bs.length →
        stored.any s.mem.poisoned = false → u.mem.read stored = bs) ∧ (s.adm.disturbed = false → u.free = s.free) ∧
      u = { s with fab := u.fab, mem := u.mem, upd := u.upd, sites := u.sites, adm := { s.adm with area := u.adm.area }, sync := { s.sync with msgs := u.sync.msgs }
                   free := u.free }) ∧
    ((d.cls = 4 ∨ d.cls = 5 ∨ d.cls = 9 ∨ (isArray d.cls = true ∧ d.hadamard = true)) → s.ctl.state.awake = true →
      ∃ u q, exec (.firingEnd tile slot true) s = .next u ∧ (u.fab.slot x.tile x.slot).st = .stopped ∧ u.flt.reports = Report.enter q s.flt.reports ∧
        q.cls = .datapath ∧ q.sev = .contained ∧ q.tile = some x.tile ∧ u.mem = s.mem)

/-- R57 to R60, R111, R119 to R127, R455: a flit leaves its input for the neighbour's buffer on a hop credit, of which a lane of a hop has no more than its depth; a flit whose header check fails is dropped, counted and reported, one of a
KIND no flit has is dropped and counted; a payload error poisons it, and the port that delivers it counts its words. At its tile a flit's bytes go to its place and
nowhere else, and the flit that carries the token adds one, or marks the place when something is missing; a device
write tells its slot that it has arrived. Credits queued for an edge leave in one message of up to 64, which those queued until its output is free
join, go hop by hop, and are added at its producer. -/
def Obligations.MeshMoves : Prop :=
  ∀ (s : State) (im : Image) (tile : BitVec 8), s.img = some im →
    let t := tile.toNat
    let dropped := fun (u : State) (p : Nat) => ((u.fab.tiles.at t).port.at p).dropped = satAdd ((s.fab.tiles.at t).port.at p).dropped 1 ∧ u.mem = s.mem
    (∀ (port : BitVec 2) (n q : Nat) (fl : Flit) (aged : Bool), neighbour t port.toNat = some n →
      s.fab.arbitrate im n (facing port.toNat) aged = some (q, fl) → (n, 5) ∉ s.fab.inject →
      let f := s.fab.depart im n (facing port.toNat) q fl
      let back := f.returnHop t port.toNat fl.vc
      let key := (t * 4 + port.toNat) * 8 + fl.vc
      s.fab.hops.at (hopKey n (facing port.toNat) fl.vc) < hopDepth n t ∧
      (∀ h, (h = .none ∨ h = .single) → exec (.flitHop tile port h aged) s = .next { s with fab := { f with bufs := f.bufs.mod key fun l => l ++ [fl] } }) ∧
      (∃ u, exec (.flitHop tile port .header aged) s = .next u ∧ u.fab.bufs = f.bufs ∧ u.fab.hops = back.hops ∧ (u.fab.tiles.at t).hdrChk = true ∧
        dropped u port.toNat ∧ (s.ctl.state.awake = true → ∃ r, u.flt.reports = Report.enter r s.flt.reports ∧ r.cls = .mesh ∧ r.sev = .contained)) ∧
      (∃ u, exec (.flitHop tile port .kind aged) s = .next u ∧ u.fab.bufs = f.bufs ∧ u.fab.hops = back.hops ∧
        (u.fab.tiles.at t).hdrChk = (s.fab.tiles.at t).hdrChk ∧ dropped u port.toNat ∧ u.flt = s.flt) ∧
      (∀ ws, ∃ u, exec (.flitHop tile port (.payload ws) aged) s = .next u ∧
        u.fab = { f with bufs := f.bufs.mod key fun l => l ++ [{ fl with poison := true, words := fl.words ++ ws }] } ∧ u.mem = s.mem ∧
        (s.ctl.state.awake = true → ∃ r, u.flt.reports = Report.enter r s.flt.reports ∧ r.cls = .mesh ∧ r.sev = .contained))) ∧
    (∀ (q : Nat) (fl : Flit) (aged : Bool), s.fab.arbitrate im t 4 aged = some (q, fl) →
      let r := (im.edge? fl.edge).getD default
      let ks := (List.range fl.bytes.length).map fun i => im.sramPlace' t (r.placeOff fl.place + fl.index * 128 + i)
      let x := s.fab.edge fl.edge
      ∃ u, exec (.flitEject tile .none aged) s = .next u ∧
        (fl.use ≠ .descriptor → fl.poison = false → u.mem = s.mem.write (ks.zip fl.bytes)) ∧ (∀ a, a ∉ ks → u.mem.byte a = s.mem.byte a) ∧
        (fl.use ≠ .descriptor → fl.poison = true → ∀ a ∈ ks, u.mem.poisoned a = true) ∧ (∀ e, e ≠ fl.edge → u.fab.edge e = s.fab.edge e) ∧
        (q < 4 → ((u.fab.tiles.at t).port.at q).poisoned = satAdd ((s.fab.tiles.at t).port.at q).poisoned fl.words.eraseDups.length) ∧
        (fl.use = .descriptor → u.mem = s.mem ∧ u.fab.loads.at (16 * t + fl.edge) = s.fab.loads.at (16 * t + fl.edge) - 1) ∧
        (fl.use = .preload → u.fab.loads.at (16 * t + r.consSlot) = s.fab.loads.at (16 * t + r.consSlot) - 1) ∧
        (fl.use = .data → u.fab.loads = s.fab.loads ∧
          (u.fab.edge fl.edge).tokens = (if fl.last then x.tokens + 1 else x.tokens) ∧
          (fl.last = true → fl.place ≠ x.expect → (u.fab.edge fl.edge).bad = x.bad ++ [x.expect] ∧ (u.fab.tiles.at t).placeMismatch = true) ∧
          (fl.last = false → (u.fab.edge fl.edge).bad = x.bad))) ∧
    (∀ (edge : BitVec 20) (r : EdgeRec), im.edge? edge.toNat = some r → r.consTile = t →
      let x := s.fab.edge edge.toNat
      let own := s.fab.ctl.at (5 * t + 4)
      (x.queued ≠ 0 → (∀ o ∈ own, o.edge ≠ edge.toNat) →
        let n := min 64 x.queued
        ∃ u m, exec (.tileCreditSend tile edge) s = .next u ∧ u.fab.ctl = s.fab.ctl.put (5 * t + 4) (own ++ [m]) ∧ m.edge = edge.toNat ∧ m.count = n ∧ m.src = t ∧
          m.dst = r.prodTile ∧ u.fab.edge edge.toNat = { x with queued := x.queued - n } ∧
          (∀ e, e ≠ edge.toNat → u.fab.edge e = s.fab.edge e) ∧ u = { s with fab := { s.fab with ctl := u.fab.ctl, edges := u.fab.edges } }) ∧
      (x.queued ≠ 0 → (∃ o ∈ own, o.edge = edge.toNat) →
        ∃ u, exec (.tileCreditSend tile edge) s = .next u ∧ u = { s with fab := { s.fab with readyLog := u.fab.readyLog } }) ∧
      (∀ y, x.queued = 0 → s.fab.firing? t r.consSlot = some y → edge.toNat ∈ (im.descAt y.desc).inEdges → edge.toNat ∉ y.freed → y.phase ≠ .verdict →
        ∃ u, exec (.tileCreditSend tile edge) s = .next u ∧ (u.fab.edge edge.toNat).tokens = x.tokens - 1 ∧
          (u.fab.edge edge.toNat).rd = x.rd ∧ (∀ e, e ≠ edge.toNat → u.fab.edge e = s.fab.edge e) ∧
          u.fab.firing? t r.consSlot = some { y with freed := y.freed ++ [edge.toNat] } ∧ u.mem = s.mem ∧
          (r.prodTile = t → (u.fab.edge edge.toNat).credits = x.credits + 1))) ∧
    (∀ (port : BitVec 2) (n q : Nat) (m : CtlMsg), neighbour t port.toNat = some n → s.fab.chooseCtl n (facing port.toNat) = some (q, m) →
      let f := s.fab.departCtl n (facing port.toNat) q m
      let own := s.fab.ctl.at (5 * n + 4)
      let waits := (s.fab.edge m.edge).queued
      (q ≠ 4 → f.edges = s.fab.edges ∧ f.ctl = s.fab.ctl.put (5 * n + q) ((s.fab.ctl.at (5 * n + q)).drop 1)) ∧
      (q = 4 → (own.map (·.edge)).Nodup → ∃ o ∈ own, m = { o with count := min 64 (o.count + waits) } ∧
        f.ctl = s.fab.ctl.put (5 * n + 4) (own.eraseP fun y => y.edge == m.edge) ∧
        f.edge m.edge = { s.fab.edge m.edge with queued := waits - (m.count - o.count) }) ∧
      (m.dst = t → ∃ u, exec (.tileCreditMessage tile port .none) s = .next u ∧ u.fab.ctl = f.ctl ∧
        u.fab.edge m.edge = { f.edge m.edge with credits := (s.fab.edge m.edge).credits + m.count } ∧
        (∀ e, e ≠ m.edge → u.fab.edge e = s.fab.edge e) ∧
        u = { s with fab := { s.fab with ctl := u.fab.ctl, edges := u.fab.edges, hops := u.fab.hops, ctlLast := u.fab.ctlLast, readyLog := u.fab.readyLog } }) ∧
      (m.dst ≠ t → ∃ u, exec (.tileCreditMessage tile port .none) s = .next u ∧ u.fab.ctl = f.ctl.mod (5 * t + port.toNat) (fun l => l ++ [m]) ∧
        u.fab.edges = f.edges ∧ u = { s with fab := { s.fab with ctl := u.fab.ctl, edges := f.edges, hops := u.fab.hops, ctlLast := u.fab.ctlLast } }) ∧
      (∃ u, exec (.tileCreditMessage tile port .header) s = .next u ∧ u.fab.ctl = f.ctl ∧ u.fab.edges = f.edges ∧ (u.fab.tiles.at t).hdrChk = true ∧
        dropped u port.toNat))

/-- R56, R107, R115, R118, R131, R175, R247: a slot that switches between placements loads the descriptor of the next micro-batch's placement; its device writes
enter the mesh, and once the last has arrived the slot is IDLE and its first TAKE sent; TIL_HALT holds new firings of its tile; a waiting row is sampled, which a
fence of the tile or the droop gate of its region holds (R33, R548). -/
def Obligations.SlotLoadsAndHalts : Prop :=
  ∀ (s : State) (im : Image) (tile : BitVec 8) (slot : BitVec 4), s.img = some im →
    let t := tile.toNat
    let k := slot.toNat
    let sl := s.fab.slot t k
    (im.swapped t k = true → (sl.st = .idle ∨ sl.st = .empty) →
      (∀ i, s.adm.swapTo im s.fab t k = some i → ∃ u, exec (.swappedSlotLoad tile slot) s = .next u ∧
        u.fab.slot t k = { st := .loading, desc := i, raw := (im.descAt i).raw, done := sl.done } ∧ (∀ j, j ≠ 16 * t + k → u.fab.slots.at j = s.fab.slots.at j) ∧
        u.fab.loads.at (16 * t + k) = (im.loadFlits t k i).length ∧ (∀ j, j ≠ 16 * t + k → u.fab.loads.at j = s.fab.loads.at j) ∧
        u.fab.device.at (Config.deviceEntry t % 256) = s.fab.device.at (Config.deviceEntry t % 256) ++ im.loadFlits t k i ∧
        u = { s with fab := { s.fab with slots := u.fab.slots, device := u.fab.device, loads := u.fab.loads }, sync := u.sync }) ∧
      (s.adm.swapTo im s.fab t k = none → exec (.swappedSlotLoad tile slot) s = .next s)) ∧
    (sl.st = .loading → s.fab.loads.at (16 * t + k) = 0 → ∃ u, exec (.descriptorLoadComplete tile slot) s = .next u ∧
      (let d := im.descAt sl.desc
       let asks : Bool := d.waitObj != none16 && !sl.waiting && !sl.taken
       u.fab.slot t k = { sl with st := .idle, waiting := sl.waiting || asks } ∧
       u.sync.msgs = s.sync.msgs ++ (if asks then [.take d.waitObj d.waitCount t k] else [])) ∧
      (∀ j, j ≠ 16 * t + k → u.fab.slots.at j = s.fab.slots.at j) ∧
      u = { s with fab := { s.fab with slots := u.fab.slots, readyLog := u.fab.readyLog }, sync := { s.sync with msgs := u.sync.msgs } }) ∧
    ((sl.st ≠ .loading ∨ s.fab.loads.at (16 * t + k) ≠ 0) → exec (.descriptorLoadComplete tile slot) s = .next s) ∧
    (∀ v, s.ctl.state.live = true → ∃ u, exec (.tilHaltWrite tile v) s = .next u ∧ u.fab.tiles.at t = { s.fab.tiles.at t with halt := v.getLsbD 0 } ∧
      (∀ j, j ≠ t → u.fab.tiles.at j = s.fab.tiles.at j) ∧ u = { s with fab := { s.fab with tiles := u.fab.tiles, readyLog := u.fab.readyLog } } ∧
      (v.getLsbD 0 = true → ∀ j, u.ready im t j = false)) ∧
    (∀ (j : SpoonJob) (r : List SpoonJob), s.fab.spoon.at t = j :: r → s.fab.fenced.contains t = false → s.gated t 4 = false →
      exec (.spoonRecompute tile) s = .next { s with sites := s.sites.sample j.site j.bin, fab := { s.fab with spoon := s.fab.spoon.put t r } }) ∧
    (s.fab.spoon.at t = [] ∨ s.fab.fenced.contains t = true ∨ s.gated t 4 = true → exec (.spoonRecompute tile) s = .next s)

/-- R245 to R247, R257 to R259, R264, R266, R285, R431: an admission whose plan holds adds its frame, takes the oldest complete micro-batch and makes its placement the current one; slots its placement needs are loaded first, and
without parking pages it waits. A plan that fails admits nothing more and is a STASH fault. A layer's signals pass as one; a frame whose loads are over is released with its row sets; the first queued restore that may be served gets the restore area, which R270 leaves open after a
host operation on a stash or trigger object (log entry 55). A plan is counted once, also one that drops layers and then fails (R271). -/
def Obligations.MicroBatchFlow : Prop :=
  ∀ (s : State) (im : Image), s.img = some im →
    (∀ (mb : Nat) (counts : List Nat) (rest : List (Nat × List Nat)), s.inp.ready = (mb, counts) :: rest → s.stepping = true → s.adm.refused = false →
      s.flt.abandoning = false → s.adm.frames.length < im.upd.mbCount →
      let p := (s.adm.choose im counts).1
      (∀ fr, s.adm.plan im p mb = .ok fr →
        (s.toLoad im p = [] → s.loadingFor im p = false →
          (∀ u, s.upd.reserve im s.adm.frames.length p = some u → ∃ t, exec .mbAdmission s = .next t ∧ t.adm.frames = s.adm.frames ++ [fr] ∧
            t.adm.bound = true ∧ t.adm.parkWait = false ∧ t.ctl.curPlacement = BitVec.ofNat 4 p ∧ t.inp.ready = rest ∧ t.inp.nextMb = s.inp.nextMb + 1 ∧
            t.upd = u ∧ t.mem = s.mem ∧ t.ctl.state = s.ctl.state ∧
            (s.adm.planned = false → t.adm.spilled = (s.adm.spilled || decide (0 < fr.ddr)) ∧ t.adm.dropCnt = satAdd s.adm.dropCnt fr.dropped.length)) ∧
          (s.upd.reserve im s.adm.frames.length p = none → ∃ t, exec .mbAdmission s = .next t ∧ t.adm.frames = s.adm.frames ∧ t.adm.parkWait = true ∧
            t.adm.planned = true ∧ t.inp = s.inp ∧ t.upd = s.upd)) ∧
        (s.toLoad im p ≠ [] → ∃ t, exec .mbAdmission s = .next t ∧ t.adm.frames = s.adm.frames ∧ t.adm.planned = true ∧ t.inp = s.inp ∧
          ∀ y ∈ s.toLoad im p, (t.fab.slot y.1 y.2.1).st = .loading)) ∧
      (s.adm.plan im p mb = .wait → ∃ t, exec .mbAdmission s = .next t ∧ t.adm = s.adm ∧ t.inp = s.inp ∧ t.fab = s.fab) ∧
      (∀ need free drop, s.adm.plan im p mb = .fail need free drop → ∃ t r, exec .mbAdmission s = .next t ∧ t.adm.frames = s.adm.frames ∧ t.adm.refused = true ∧
        t.adm.exhausted = true ∧ t.adm.exhNeed = BitVec.ofNat 26 need ∧ t.adm.exhFree = BitVec.ofNat 26 free ∧ t.adm.exhStep = s.tmr.step ∧
        t.flt.reports = Report.enter r s.flt.reports ∧ r.cls = .stash ∧ r.sev = .contained ∧ r.abandon = true ∧ t.inp = s.inp ∧
        (s.adm.planned = false → t.adm.droppedFlag = (s.adm.droppedFlag || !drop.isEmpty) ∧ t.adm.dropCnt = satAdd s.adm.dropCnt drop.length))) ∧
    (∀ l, (∀ m, s.adm.passable im s.fab l = some m → exec (.stashSignalPass l) s =
        .next (State.syncOp { s with adm := { s.adm with passed := s.adm.passed.mod l (· + 1) } } l (.signal (BitVec.ofNat 32 (im.layerSignal l))))) ∧
      (s.adm.passable im s.fab l = none → exec (.stashSignalPass l) s = .next s)) ∧
    (∀ mb fr, s.adm.frames.find? (fun f => f.mb == mb) = some fr →
      (s.adm.releasable im s.fab fr = true → ∃ t, exec (.frameRelease mb) s = .next t ∧
        t.adm.frames = s.adm.frames.map (fun f => if f.mb == mb then { f with released := true } else f) ∧
        t.inp.live = s.inp.live.filter (fun g => g / im.mbRows != fr.inMb) ∧ t = { s with adm := t.adm, inp := { s.inp with live := t.inp.live } }) ∧
      (s.adm.releasable im s.fab fr = false → exec (.frameRelease mb) s = .next s)) ∧
    (∀ m l, s.adm.disturbed = false → s.adm.servable im s.fab = some (m, l) → ∃ t, exec .restoreServe s = .next t ∧ t.adm.area = some (m, l) ∧
      t.adm.restores = s.adm.restores.drop 1 ∧ t.adm.frames = s.adm.frames ∧ t.mem = s.mem) ∧
    (s.adm.disturbed = false → s.adm.servable im s.fab = none → exec .restoreServe s = .next s) ∧
    (s.adm.disturbed = true → ∃ t, exec .restoreServe s = .next t ∧ t.free = s.free + 1 ∧ t.mem = s.mem ∧ t.adm.frames = s.adm.frames ∧
      ((t.adm.area = s.adm.area ∧ t.adm.restores = s.adm.restores) ∨
        (s.adm.area = none ∧ ∃ x, s.adm.restores = x :: t.adm.restores ∧ t.adm.area = some x)))

/-- R191, R283 to R285, R304, R517: elements of the micro-batch a block expects are accumulated in the block's gradient buffer, and once all its elements are in, the block expects the next one; elements for a later micro-batch are parked in the
page reserved for them and are accumulated when their turn comes. What rests on poisoned data is not accumulated: the step is abandoned, or with an update begun the abandonment waits. -/
def Obligations.GradientsAccumulate : Prop :=
  ∀ (s : State) (im : Image), s.img = some im →
    let gives := fun (t : State) => t.adm.running = s.adm.running ∧ (if s.adm.running = true ∧ s.adm.updStarted = true then t.flt.deferred = true
      else t.flt.abandoning = true ∧ t.adm.refused = true ∧ t.fab.hold = true)
    (∀ (i : Nat) (c : Contribution), s.upd.contribs[i]? = some c →
      let mine := (c.items.filter fun x => s.upd.expect.at x.1 == c.mb).flatMap fun x => im.accPlaces c.mb x.1 [x.2.1]
      (mine.any s.mem.poisoned = true → s.flt.abandoning = false → ∀ x, ∃ t, exec (.accumulatingStore i x) s = .next t ∧ gives t ∧
        (s.adm.updStarted = false → t.upd = s.upd ∧ (∀ a, t.mem.byte a = s.mem.byte a) ∧ t.gx = s.gx)) ∧
      (mine.any s.mem.poisoned = false →
        (∃ t, exec (.accumulatingStore i .clean) s = .next t ∧ t.upd.contribs = s.upd.contribs.eraseIdx i ∧
          t = { s with mem := t.mem, upd := t.upd, sites := t.sites }) ∧
        (∀ g, (c.items.map (·.1)).eraseDups = [g] →
          let xs := c.items.map (·.2)
          (s.upd.expect.at g = c.mb → ∃ t, exec (.accumulatingStore i .clean) s = .next t ∧
            t.mem = (im.accumulate s.mem s.tmr.step.toNat s.gx.rndMember c.mb g xs).1 ∧ t.upd.parked = s.upd.parked ∧
            (im.blockElems g ≤ s.upd.filled.at g + xs.length → t.upd.expect.at g = c.mb + 1 ∧ t.upd.filled.at g = 0) ∧
            (s.upd.filled.at g + xs.length < im.blockElems g → t.upd.expect.at g = c.mb ∧ t.upd.filled.at g = s.upd.filled.at g + xs.length) ∧
            ∀ h, h ≠ g → t.upd.expect.at h = s.upd.expect.at h) ∧
          (s.upd.expect.at g ≠ c.mb → ∃ t page, exec (.accumulatingStore i .clean) s = .next t ∧ t.upd.expect = s.upd.expect ∧ t.upd.filled = s.upd.filled ∧
            t.upd.parked = s.upd.parked ++ [{ block := g, mb := c.mb, page := page, elems := xs.map (·.1) }] ∧
            (∀ r, s.upd.reserved.find? (fun r => r.1 == c.mb && r.2.1 == g) = some r → page = r.2.2) ∧
            ∀ a, a ∉ xs.flatMap (fun x => im.regPlaces im.upd.parkRegion (page * 65536 + 4 * BlockAt.pos x.1) 4) → t.mem.byte a = s.mem.byte a)))) ∧
    (∀ (g i : Nat), indexOf (fun (p : Parked) => p.block == g && p.mb == s.upd.expect.at g) s.upd.parked = some i →
      let p := s.upd.parked.getD i default
      let xs := p.elems.map fun rc =>
        (rc, (BitVec.ofNat 32 (numOf (im.regRead s.mem im.upd.parkRegion (p.page * 65536 + 4 * BlockAt.pos rc) 4)) : F32))
      let read := im.parkPlaces p.page p.elems ++ im.accPlaces p.mb g p.elems
      (read.any s.mem.poisoned = true → s.flt.abandoning = false → ∀ x, ∃ t, exec (.parkedAccumulate g x) s = .next t ∧ gives t ∧
        (s.adm.updStarted = false → t.upd = s.upd ∧ (∀ a, t.mem.byte a = s.mem.byte a) ∧ t.gx = s.gx)) ∧
      (read.any s.mem.poisoned = false → ∃ t, exec (.parkedAccumulate g .clean) s = .next t ∧ t.upd.parked = s.upd.parked.eraseIdx i ∧
        (∀ a, t.mem.byte a = (im.accumulate s.mem s.tmr.step.toNat s.gx.rndMember p.mb g xs).1.byte a) ∧
        t.upd.expect.at g = (if im.blockElems g ≤ s.upd.filled.at g + xs.length then s.upd.expect.at g + 1 else s.upd.expect.at g) ∧
        t = { s with mem := t.mem, upd := t.upd, sites := t.sites }))

/-- R39, R41, R160, R246, R259, R286, R289, R294, R295, R297, R359, R364, R376, R487, R523, R526: a step that nothing holds starts with the DEPTH, loss exponent, learning-rate scale and forced placement of its registers and no frame; a sweep that is over empties its entries and signals the
backlog object, but a block of a shard that gets no return makes no generation (R299, R343), and a block that is poisoned or on which the engines differ stops with a record; a step whose work is all done ends: the step number is one more, generations made become current unless their shard has not been
returned, every slot begins anew, no fence is left, and after the last step or a deferred fault the device is ARMED. A step not over does not end. -/
def Obligations.StepBoundaries : Prop :=
  ∀ (s : State) (im : Image), s.img = some im →
    (s.ctl.state = .stepping → s.adm.running = false → s.flt.abandoning = false →
      (s.startHeld = false → (im.upd.backlogObj = none16 ∨ s.adm.backlog = some true) →
        let counts := s.ctl.untilDrain = false ∧ s.ctl.stepsLeft ≠ 0
        ∃ t, exec .stepStart s = .next t ∧ t.adm.running = true ∧
        t.adm.frames = [] ∧ t.adm.refused = false ∧ t.adm.updStarted = false ∧ t.adm.depth = s.adm.cfgDepth.toNat ∧ t.adm.lossExp = s.upd.loss.toInt ∧
        t.adm.lrScale = s.upd.lrScale ∧ t.adm.force = (if s.ctl.placeForce then some s.ctl.placement.toNat else none) ∧
        t.ctl.state = (if counts ∧ s.ctl.stepsLeft = 1 then .draining else .stepping) ∧ t.ctl.stepsLeft = s.ctl.stepsLeft - (if counts then 1 else 0) ∧
        t.fab = { s.fab with qStart := s.fab.q, fenced := [] } ∧ t.tmr.step = s.tmr.step ∧ t.mem = s.mem ∧ t.upd.parked = [] ∧ t.upd.expect = []) ∧
      ((s.startHeld = true ∨ (im.upd.backlogObj ≠ none16 ∧ s.adm.backlog = some false)) → exec .stepStart s = .next s)) ∧
    (s.upd.sweep = none → ∀ ds e, exec (.sweepComplete ds e) s = .next s) ∧
    (∀ (st g : Nat) (ds : List Nat), s.upd.sweep = some (st, [g]) →
      let silent := (im.shardOf s.gx.group.n g).any fun k => s.gx.isSilent im k.1 k.2
      (im.updPoison s.mem true g = false → 0 ∉ ds →
        let e := (s.upd.queue.at g).getD default
        let gen := (s.upd.gen.at g).cur + 1
        ∃ t, exec (.sweepComplete ds .clean) s = .next t ∧ t.upd.sweep = none ∧ t.upd.queue.at g = none ∧
          (if silent then t.upd.gen = s.upd.gen else (t.upd.gen.at g).next = some gen) ∧
          t.mem = (im.updateBlock s.mem g gen e.last s.adm.lrScale (im.queueRead s.mem g)).1) ∧
      (im.updPoison s.mem true g = true ∨ 0 ∈ ds → s.ctl.state.awake = true → ∃ t q, exec (.sweepComplete ds .clean) s = .next t ∧
        t.upd = { s.upd with sweep := none } ∧ t.mem = s.mem ∧ q ∈ t.flt.reports ∧ (im.upd.backlogObj = none16 → t.flt.reports = Report.enter q s.flt.reports) ∧
        q.cls = .update ∧ q.sev = .contained ∧ q.detail = g)) ∧
    (s.stepOver im = false → ∀ e, exec (.stepEnd e) s = .next s) ∧
    (s.stepOver im = true → ∀ e, ∃ t, exec (.stepEnd e) s = .next t ∧ t.tmr.step = s.tmr.step + 1 ∧ t.adm.running = false ∧ t.adm.frames = [] ∧
      t.ctl.state = (if s.flt.deferred = true ∨ s.ctl.state = .draining then .armed else s.ctl.state) ∧ t.flt.deferred = false ∧
      (∀ a, (t.fab.slots.at a).done = 0 ∧ (s.flt.deferred = false → (t.fab.slots.at a).st = (s.fab.slots.at a).st)) ∧
      t.fab.fenced = [] ∧ t.flt.fences = [] ∧
      (∀ g, (t.upd.gen.at g).cur = (if s.returned im g then (s.upd.gen.at g).next.getD (s.upd.gen.at g).cur else (s.upd.gen.at g).cur)) ∧
      t.upd.parked = [] ∧ ∀ y ∈ t.gx.sets, y.step = stepAbove s.tmr.step.toNat)

/-! The exchange -/

/-- R339, R346: an exchange message whose epoch, step, sender or shard is not in order is discarded and counted, and has no other effect, whichever of these its type is; so is every message of another
device in a group of one, and every message while no image is loaded. -/
def Obligations.BadTagDiscards : Prop :=
  ∀ (s : State) (i : Nat) (m : XMsg) (x : Ecc),
    let shard := [(Instr.contrib i x, xContrib), (.podSum i x, xPodSum), (.normPart i, xNormPart), (.returnMsg i x, xReturn), (.returnEnd i, xReturnEnd),
      (.fetch i x, xFetch), (.fetchData i, xFetchData), (.fetchEnd i x, xFetchEnd)]
    let other := [(Instr.norm i, xNorm), (.stateXfer i x, xState), (.xferEnd i, xXferEnd)]
    let bad := fun (c : Instr × Nat) => s.gx.mail i c.2 = some m →
      exec c.1 s = .next { s with gx := { s.gx with inbox := s.gx.inbox.eraseIdx i, badTag := satAdd s.gx.badTag 1 } }
    (s.img = none → ∀ c ∈ shard ++ other, bad c) ∧
    (∀ im, s.img = some im → (m.remote = true → s.gx.solo = true → ∀ c ∈ shard ++ other, bad c) ∧
      (s.gx.tagOk im s.tmr.step.toNat m = false → ∀ c ∈ shard, bad c))

/-- R285, R337, R347 to R350, R353: once every block of a bucket holds the last micro-batch its contributions are sent, once in a step, in the order of
their owners' ranks from the sender's own on (R341), but not from poisoned gradients, for which the step is abandoned (R517); a contribution in order lands at its place in its slot and nowhere else, and the set closes when every slot is full;
data for a closed set is counted as late. A pod's sum lands with its mask and count. At its deadline a bucket's sets close, and not before. -/
def Obligations.ContributionsLand : Prop :=
  ∀ (s : State) (im : Image), s.img = some im →
    let cur := s.tmr.step.toNat
    (∀ (b : Nat) (k : Bucket), im.bkt.buckets[b]? = some k →
      let full := ∀ x < k.blockCount, s.upd.expect.at (k.firstBlock + x) = im.upd.mbCount
      let marked := ((List.range k.blockCount).flatMap fun x => (im.block (k.firstBlock + x)).gradPlaces im).any s.mem.poisoned
      (s.stepping = true → s.flt.abandoning = false → s.gx.sentBuckets.contains b = false → full → marked = false →
        ∃ t l, exec (.bucketComplete b .clean) s = .next t ∧ t.gx.sentBuckets = s.gx.sentBuckets ++ [b] ∧ t.gx.inbox = s.gx.inbox ++ l ∧
          (∀ m ∈ l, m.msg = xContrib ∧ m.bucket = b ∧ m.step = cur ∧ m.member = s.gx.me) ∧
          t = { s with gx := t.gx, lnk := t.lnk }) ∧
      (s.stepping = true → s.flt.abandoning = false → s.gx.sentBuckets.contains b = false → full → ∀ x, ∃ t, exec (.bucketComplete b x) s = .next t ∧
        (marked = true → s.adm.updStarted = false → t.gx = s.gx ∧ t.flt.abandoning = true) ∧
        (marked = true → s.adm.updStarted = true → t.gx.sentBuckets = s.gx.sentBuckets ++ [b] ∧ t.flt.deferred = true) ∧
        (∀ a, t.mem.byte a = s.mem.byte a) ∧ t.upd = s.upd) ∧
      ((s.gx.sentBuckets.contains b = true ∨ ¬ full) → ∀ x, exec (.bucketComplete b x) s = .next s)) ∧
    (∀ n r b j : Nat, r < n → j < n → ∃ k, (sendOrder n r b)[j]? = some k ∧ k < n ∧ (k + b) % n = (r + 1 + j) % n) ∧
    (∀ (i q : Nat) (m : XMsg), s.gx.mail i xContrib = some m → s.gx.tagOk im cur m = true → (m.remote = true → s.gx.solo = false) →
      let g := s.gx.groupFor cur m.step
      let key : SlotKey := { bucket := m.bucket, shard := m.shard, asPod := g.two }
      let y := s.gx.getSet m.step key
      let r := (m.a, m.a + m.b)
      ((if g.two then g.podOwner m.bucket m.shard (g.podOf s.gx.me) else g.owner m.bucket m.shard).id = s.gx.me) →
      (if g.two then indexOf (fun (x : Member) => x.id == m.member) (g.podMembers (g.podOf s.gx.me)) else g.rank? m.member) = some q →
      m.b ≠ 0 → r.2 ≤ im.shardElems g.n m.bucket m.shard → m.data.length = 2 * m.b → (y.slots.at q).got.any (rangesMeet r) = false →
      (y.closed = true → ∀ x, ∃ t, exec (.contrib i x) s = .next t ∧ t.gx.late = true ∧ t.gx.mLate.at m.member = satAdd (s.gx.mLate.at m.member) 1 ∧
        t.gx.sets = s.gx.sets ∧ t.gx.inbox = s.gx.inbox.eraseIdx i ∧ t = { s with gx := t.gx, hif := t.hif }) ∧
      (y.closed = false →
        let y' := { y with slots := y.slots.put q { y.slots.at q with got := (y.slots.at q).got ++ [r] } }
        ∃ t, exec (.contrib i .clean) s = .next t ∧
          t.mem = im.regWrite s.mem im.bkt.slotRegion (im.slotOff g s.gx.me m.step key q + 2 * m.a) m.data ∧
          (t.gx.getSet m.step key).slots = y'.slots ∧
          (t.gx.getSet m.step key).closed = ((List.range (g.slotCount s.gx.me key)).all fun k => slotFull im g y' k) ∧
          t.gx.inbox = s.gx.inbox.eraseIdx i ∧
          t = { s with mem := t.mem, gx := t.gx, hif := t.hif, memr := { s.memr with poisonRd := t.memr.poisonRd } })) ∧
    (∀ (i q : Nat) (m : XMsg), s.gx.mail i xPodSum = some m → s.gx.tagOk im cur m = true → (m.remote = true → s.gx.solo = false) →
      let g := s.gx.groupFor cur m.step
      let key : SlotKey := { bucket := m.bucket, shard := m.shard, asPod := false }
      let y := s.gx.getSet m.step key
      let r := (m.a, m.a + m.b)
      g.two = true → (g.owner m.bucket m.shard).id = s.gx.me → (g.podOwner m.bucket m.shard (g.podOf m.member)).id = m.member →
      indexOf (fun (p : Nat) => p == g.podOf m.member) g.pods = some q → m.b ≠ 0 → r.2 ≤ im.shardElems g.n m.bucket m.shard →
      m.data.length = (if m.a = 0 then 8 else 0) + 4 * m.b → (y.slots.at q).got.any (rangesMeet r) = false → y.closed = false →
      ∃ t, exec (.podSum i .clean) s = .next t ∧
        t.mem = im.regWrite s.mem im.bkt.slotRegion (im.slotOff g s.gx.me m.step key q + (if m.a = 0 then 0 else 8 + 4 * m.a)) m.data ∧
        ((t.gx.getSet m.step key).slots.at q) = { got := (y.slots.at q).got ++ [r], count := m.c
                                                  mask := if m.a = 0 then some (fieldAt m.data 0 8) else (y.slots.at q).mask }) ∧
    (∀ b : Nat, s.adm.running = true →
      let closes := fun (c : Instr) (asPod : Bool) => ∃ t, exec c s = .next t ∧ t = { s with gx := t.gx, hif := t.hif } ∧
        ∀ k ∈ im.slotKeys s.gx.group s.gx.me, k.bucket = b → k.asPod = asPod → (t.gx.getSet cur k).closed = true
      (passedBy (s.gx.bucketDeadline im b) s.now = true → closes (.bucketDeadlinePass b) false) ∧
      (passedBy (s.gx.bucketDeadline im b) s.now = false → exec (.bucketDeadlinePass b) s = .next s) ∧
      (s.gx.group.two = true → passedBy (s.gx.podDeadline im b) s.now = true → closes (.podDeadlinePass b) true) ∧
      (passedBy (s.gx.podDeadline im b) s.now = false → exec (.podDeadlinePass b) s = .next s))

/-- R286 to R288, R304, R349, R351 to R355, R523: the next closed shard is added; its sum is the reduction over the slots present, and without a norm its update begins at once unless nothing was present. Engines that
differ give the shard up with a CONTAINED UPDATE report, and poisoned slots abandon the step (R517). With a norm each shard sends its part to the collector; N goes out once every part is in or at the norm's deadline, is shown in the update registers, and a
non-finite N under NF_SKIP begins no update. -/
def Obligations.ReductionAndNorm : Prop :=
  ∀ (s : State) (im : Image), s.img = some im →
    let cur := s.tmr.step.toNat
    let g := s.gx.group
    (s.stepping = true → s.flt.abandoning = false →
      (∀ y, s.gx.nextAdd im cur = some y → exec .shardReduceStart s = .next { s with gx := s.gx.putSet { y with stage := .adding } }) ∧
      (s.gx.nextAdd im cur = none → exec .shardReduceStart s = .next s) ∧
      (∀ b i : Nat,
        let key : SlotKey := { bucket := b, shard := i, asPod := false }
        let y := s.gx.getSet cur key
        let r := reduceSet im g s.gx.me s.mem y
        let marked := fun (z : SlotSet) => (im.sumPlaces g s.gx.me z).any s.mem.poisoned
        (y.stage = .adding →
          (marked y = false → im.needsNorm = false →
            ∃ t, exec (.shardReduceDone b i false .agree .clean) s = .next t ∧
              t.gx.getSet cur key = { y with stage := if r.2 = 0 then .reduced else .updating, sum := r.1, n := r.2 } ∧
              t.adm.updStarted = (s.adm.updStarted || decide (r.2 ≠ 0)) ∧ t.mem = s.mem ∧
              t = { s with gx := t.gx, adm := t.adm }) ∧
          (marked y = false → im.needsNorm = true → s.gx.norm = none → g.collector.id = s.gx.me →
            ∃ t m, exec (.shardReduceDone b i false .agree .clean) s = .next t ∧
              t.gx.getSet cur key = { y with stage := .reduced, sum := r.1, n := r.2 } ∧ t.gx.inbox = s.gx.inbox ++ [m] ∧ m.msg = xNormPart ∧
              m.bucket = b ∧ m.shard = i ∧ m.a = (if r.2 = 0 then (0 : F32) else normPart (stepGrad r.1 r.2 s.adm.lossExp)).toNat ∧
              t.adm = s.adm ∧ t.mem = s.mem) ∧
          (marked y = false → s.ctl.state.awake = true → ∃ t q, exec (.shardReduceDone b i false .differ .clean) s = .next t ∧ (t.gx.getSet cur key).stage = .gone ∧
            t.flt.reports = Report.enter q s.flt.reports ∧ q.cls = .update ∧ q.sev = .contained ∧ q.sub = b ∧ t.mem = s.mem ∧
            t.upd = { s.upd with step := t.upd.step }) ∧
          (∀ dup x, ∃ t, exec (.shardReduceDone b i false dup x) s = .next t ∧
            ((t.gx.getSet cur key).stage ≠ .adding ∨ (s.adm.updStarted = false ∧ t.flt.abandoning = true ∧ t.gx = s.gx)) ∧ ∀ a, t.mem.byte a = s.mem.byte a) ∧
          (marked y = true → s.adm.updStarted = false → ∀ dup x, ∃ t, exec (.shardReduceDone b i false dup x) s = .next t ∧ t.gx = s.gx ∧
            t.flt.abandoning = true)) ∧
        (marked (s.gx.getSet cur { key with asPod := true }) = false → (s.gx.getSet cur { key with asPod := true }).stage = .waiting → ∃ t, exec (.shardReduceDone b i true .agree .clean) s = .next t ∧
          (t.gx.getSet cur { key with asPod := true }).stage = .done ∧ t.mem = s.mem ∧ t.adm = s.adm))) ∧
    (∀ (i : Nat) (m : XMsg), s.gx.mail i xNormPart = some m → s.gx.tagOk im cur m = true → (m.remote = true → s.gx.solo = false) → m.step = cur → (g.owner m.bucket m.shard).id = m.member →
      g.collector.id = s.gx.me → s.gx.parts.any (fun p => p.1 == (m.bucket, m.shard)) = false →
      ∃ t, exec (.normPart i) s = .next t ∧ t.gx.parts = s.gx.parts ++ [((m.bucket, m.shard), BitVec.ofNat 32 m.a)] ∧
        t.gx.normSent = (s.gx.normSent || (im.shards g.n).all fun k => t.gx.parts.any fun p => p.1 == k) ∧ t = { s with gx := t.gx, lnk := t.lnk }) ∧
    (s.adm.running = true → im.needsNorm = true → g.collector.id = s.gx.me → s.gx.normSent = false →
      (passedBy (s.gx.normDeadline im) s.now = true → ∃ t, exec .normDeadlinePass s = .next t ∧ t.gx.normSent = true ∧ t.gx.parts = s.gx.parts ∧
        t = { s with gx := t.gx, lnk := t.lnk }) ∧
      (passedBy (s.gx.normDeadline im) s.now = false → exec .normDeadlinePass s = .next s)) ∧
    (∀ (i : Nat) (m : XMsg), s.gx.mail i xNorm = some m → s.gx.headOk cur m = true → (m.remote = true → s.gx.solo = false) → m.step = cur → g.collector.id = m.member → im.needsNorm = true →
      s.gx.norm = none →
      let v : F32 := BitVec.ofNat 32 m.a
      ∃ t, exec (.norm i) s = .next t ∧ t.gx.norm = some v ∧ t.upd.norm2 = v ∧ t.upd.clip = clipFactor im v ∧ t.mem = s.mem ∧
        ((im.upd.nfSkip = true ∧ f32IsFinite v = false) → t.upd.nfSkipped = true ∧ t.upd.skipCnt = satAdd s.upd.skipCnt 1 ∧ t.adm.updStarted = s.adm.updStarted) ∧
        (f32Lt (clipFactor im v) f32One = true → t.upd.clipped = true ∧ t.upd.clipCnt = satAdd s.upd.clipCnt 1))

/-- R290, R291, R293, R296, R297, R299, R354 to R359, R523: an update writes its block's new weights, state and copy and makes the next generation; a slow-tier block's gradients go into its queue entry and make none; a poisoned or mismatching
update writes nothing and is reported, and its shard is not returned and makes no generation, while the shard's other blocks are updated (log entry 60); an unseeded block is not updated and its shard not returned (R343). Returned
panel bytes land in the slot of their generation, or in stage_region until it may be written; RETURN_END tells what the return counts, and at its deadline a return not complete makes its shard stale. -/
def Obligations.UpdatesAndReturns : Prop :=
  ∀ (s : State) (im : Image), s.img = some im →
    let cur := s.tmr.step.toNat
    (∀ (b i k : Nat), s.adm.running = true → s.ctl.state ≠ .fault → s.flt.abandoning = false → s.upd.sweep = none → im.shardBlocks s.gx.group.n b i = [k] →
      let key : SlotKey := { bucket := b, shard := i, asPod := false }
      let y := s.gx.getSet cur key
      let gu := (s.applied im y).take (im.blockElems k)
      let gen := (s.upd.gen.at k).cur + 1
      let slow := im.isSlow k = true ∧ 0 < im.upd.k
      im.shardOf s.gx.group.n k = some (b, i) → s.gx.silent.contains (b, i) = false →
      (s.gx.unseeded.contains k = true → ∀ d x, (y.stage = .updating ∨ (y.stage = .reduced ∧ y.n = 0)) → ∃ t, exec (.shardUpdateDone b i 0 d x) s = .next t ∧
        t.mem = s.mem ∧ t.upd.gen = s.upd.gen ∧ t.upd.queue = s.upd.queue ∧ (t.gx.getSet cur key).stage = .gone) ∧
      (s.gx.unseeded.contains k = false →
      (y.stage = .updating → ∀ d, (d = .agree ∨ d = .masked) →
        (¬ slow → im.updPoison s.mem false k = false → ∃ t, exec (.shardUpdateDone b i 0 d .clean) s = .next t ∧
          t.mem = (im.updateBlock s.mem k gen cur s.adm.lrScale gu).1 ∧ (t.upd.gen.at k).next = some gen ∧ (t.upd.gen.at k).cur = (s.upd.gen.at k).cur ∧
          (t.gx.getSet cur key).stage = .done) ∧
        (¬ slow → im.updPoison s.mem false k = true → s.ctl.state.awake = true → ∃ t q, exec (.shardUpdateDone b i 0 d .clean) s = .next t ∧ t.mem = s.mem ∧
          t.upd.gen = s.upd.gen ∧ (t.gx.getSet cur key).stage = .gone ∧ t.flt.reports = Report.enter q s.flt.reports ∧ q.cls = .update ∧ q.sev = .contained ∧ q.detail = k) ∧
        (∀ (j a : Nat), ¬ slow → im.updPoison s.mem false k = false → (im.updPlaces k)[j]? = some a → s.inActiveStore a = false → s.ctl.state.awake = true →
          ∃ t q, exec (.shardUpdateDone b i 0 d (.uncorrected j)) s = .next t ∧ t.mem = s.mem.setPoison a true ∧ t.upd.gen = s.upd.gen ∧
            (t.gx.getSet cur key).stage = .gone ∧ t.flt.reports = Report.enter q s.flt.reports ∧ q.cls = tierCls a ∧ q.sev = .contained) ∧
        (slow → ∃ t, exec (.shardUpdateDone b i 0 d .clean) s = .next t ∧ t.upd.gen = s.upd.gen ∧ (t.gx.getSet cur key).stage = .done ∧
          t.upd.queue.at k = some { first := ((s.upd.queue.at k).map (·.first)).getD cur, last := cur } ∧
          t.mem = (if (s.upd.queue.at k).isSome then
            (im.queueWrite s.mem k (List.zipWith f32Add (im.queueRead s.mem k) gu)).carry s.mem (im.queuePlaces k) (im.queuePlaces k)
            else im.queueWrite s.mem k gu))) ∧
      (y.stage = .updating → im.updPoison s.mem false k = false → s.ctl.state.awake = true → ∃ t q, exec (.shardUpdateDone b i 0 .differ .clean) s = .next t ∧ t.mem = s.mem ∧ t.upd.gen = s.upd.gen ∧
        (t.gx.getSet cur key).stage = .gone ∧ t.flt.reports = Report.enter q s.flt.reports ∧ q.cls = .update ∧ q.sev = .contained) ∧
      (y.stage = .reduced → y.n = 0 → ∃ t, exec (.shardUpdateDone b i 0 .agree .clean) s = .next t ∧ t.mem = s.mem ∧ t.upd.gen = s.upd.gen ∧
        (t.gx.getSet cur key).stage = .done))) ∧
    (∀ (b i k l : Nat), s.adm.running = true → s.ctl.state ≠ .fault → s.flt.abandoning = false → s.upd.sweep = none → im.shardBlocks s.gx.group.n b i = [k, l] → k ≠ l →
      im.shardOf s.gx.group.n k = some (b, i) → s.gx.unseeded.contains k = false → s.gx.unseeded.contains l = false →
      let key : SlotKey := { bucket := b, shard := i, asPod := false }
      let y := s.gx.getSet cur key
      let gu := ((s.applied im y).drop (im.blockElems k)).take (im.blockElems l)
      y.stage = .updating → im.upd.k = 0 → im.updPoison s.mem false k = true → im.updPoison s.mem false l = false →
      ∃ t, exec (.shardUpdateDone b i 0 .agree .clean) s = .next t ∧ t.mem = (im.updateBlock s.mem l ((s.upd.gen.at l).cur + 1) cur s.adm.lrScale gu).1 ∧
        t.upd.gen = s.upd.gen ∧ (t.gx.getSet cur key).stage = .gone) ∧
    (∀ (i : Nat) (m : XMsg), s.gx.tagOk im cur m = true → (m.remote = true → s.gx.solo = false) → ((s.gx.groupFor cur m.step).owner m.bucket m.shard).id = m.member →
      let r := s.gx.getRet m.step m.bucket m.shard
      r.complete = false → r.stale = false →
      (s.gx.mail i xReturn = some m → (im.shardBlocks (s.gx.groupFor cur m.step).n m.bucket m.shard).contains m.a = true → m.data ≠ [] →
        m.b + m.data.length ≤ (im.block m.a).t.panel → (r.got.at m.a).any (rangesMeet (m.b, m.b + m.data.length)) = false →
        (r.got.at m.a = [] ∨ r.gens.at m.a = m.c) →
        let now := m.step = cur ∧ s.upd.writable m.a m.c = true
        ∃ t, exec (.returnMsg i .clean) s = .next t ∧
          ((t.gx.getRet m.step m.bucket m.shard).got.at m.a) = r.got.at m.a ++ [(m.b, m.b + m.data.length)] ∧
          (now → t.mem = im.regWrite s.mem (im.block m.a).t.copy ((im.block m.a).copyOff m.c + m.b) m.data ∧ t.gx.staged = s.gx.staged) ∧
          (¬ now → t.mem = im.regWrite s.mem im.bkt.stageRegion (im.stageOff m.a + m.b) m.data ∧
            t.gx.staged = s.gx.staged ++ [{ step := m.step, block := m.a, gen := m.c, off := m.b, len := m.data.length }])) ∧
      (s.gx.mail i xReturnEnd = some m → r.fin = none → ∃ t, exec (.returnEnd i) s = .next t ∧
        t.gx.getRet m.step m.bucket m.shard = { r with fin := some (m.a, m.data), complete := im.retFull { r with fin := some (m.a, m.data) } } ∧ t.mem = s.mem)) ∧
    (∀ b : Nat, s.adm.running = true →
      (passedBy (s.gx.returnDeadline im b) s.now = true → ∃ t, exec (.returnDeadlinePass b) s = .next t ∧
        (∀ x ∈ im.shards s.gx.group.n, x.1 = b → (s.gx.getRet cur b x.2).complete = false → (t.gx.getRet cur b x.2).stale = true ∧
          ((s.gx.getRet cur b x.2).stale = false → (b, x.2) ∈ t.gx.stale)) ∧
        t = { s with gx := t.gx, hif := t.hif, upd := { s.upd with step := t.upd.step } }) ∧
      (passedBy (s.gx.returnDeadline im b) s.now = false → exec (.returnDeadlinePass b) s = .next s))

/-- R303, R342, R343, R345, R349, R360 to R363: a comparison round at a step boundary in which every shard held matches, is stale or has no reference ends with no mismatch; a first shard that differs is rebuilt by its owner from its master weights, and is fetched by any other member.
Fetched panels whose digest is the reference replace the copy; a failed attempt is made once more and then leaves the shard stale. State transfers write whole records and leave the others unseeded at the timeout. The bits of GX_CTRL arm the epoch once,
cut the running step off once, and ask for a comparison. -/
def Obligations.RoundsTransfersEpochs : Prop :=
  ∀ (s : State) (im : Image), s.img = some im →
    let cur := s.tmr.step.toNat
    let n := s.gx.group.n
    let ended := fun (t : State) => t.gx.round = none ∧ t.gx.rounded = true
    let same := fun (k : Nat × Nat) => s.gx.ref? k = none ∨ s.gx.stale.contains k = true ∨ ∀ r, s.gx.ref? k = some r → s.sameDigest im k r = true
    (s.atBoundary = true → s.roundDue = true → s.gx.round = none → (s.ctl.state = .loaded ∨ s.ctl.state = .armed ∨ s.ctl.state.running = true) →
      ((∀ k ∈ im.shards n, same k) → ∃ t, exec (.compareRound .clean) s = .next t ∧ ended t ∧ t.gx.history = lastN 15 (s.gx.history ++ [false]) ∧
        t.gx.mismatch = s.gx.mismatch ∧ t.mem = s.mem ∧ t.upd = s.upd ∧ t.flt = s.flt) ∧
      (∀ k, im.shards n = [k] → ¬ same k →
        ((s.gx.group.owner k.1 k.2).id = s.gx.me → ∃ t, exec (.compareRound .clean) s = .next t ∧ ended t ∧ t.gx.mismatch = true ∧
          t.gx.lastBucket = BitVec.ofNat 12 k.1 ∧ t.gx.lastShard = BitVec.ofNat 12 k.2 ∧
          t.mem = (im.shardBlocks n k.1 k.2).foldl (fun m g => (im.rebuildCopy m g (s.upd.gen.at g).cur).1) s.mem) ∧
        ((s.gx.group.owner k.1 k.2).id ≠ s.gx.me → ∃ t, exec (.compareRound .clean) s = .next t ∧ t.gx.mismatch = true ∧ t.mem = s.mem ∧
          t.gx.round = some { todo := [], mismatches := 1, fetch := some { bucket := k.1, shard := k.2, attempt := 1 } }))) ∧
    ((s.atBoundary = false ∨ s.roundDue = false) → ∀ x, exec (.compareRound x) s = .next s) ∧
    (∀ (i : Nat) (m : XMsg), s.gx.mail i xFetch = some m → s.gx.tagOk im cur m = true → (m.remote = true → s.gx.solo = false) → (s.gx.group.owner m.bucket m.shard).id = s.gx.me →
      (∀ x, ∃ t, exec (.fetch i x) s = .next t ∧ t.gx.mFetch.at m.member = satAdd (s.gx.mFetch.at m.member) 1 ∧ ∀ a, t.mem.byte a = s.mem.byte a) ∧
      ∃ t, exec (.fetch i .clean) s = .next t ∧ t = { s with gx := t.gx, lnk := t.lnk, memr := { s.memr with poisonRd := t.memr.poisonRd } }) ∧
    (∀ (i : Nat) (m : XMsg) (r : Round) (f : Refetch), s.fetching im m = some (r, f) → (m.remote = true → s.gx.solo = false) →
      (s.gx.mail i xFetchData = some m → (im.shardBlocks n m.bucket m.shard).contains m.a = true → m.b + m.data.length ≤ (im.block m.a).t.panel →
        f.got.any (fun p => p.1 == m.a && rangesMeet (m.b, m.b + m.data.length) (p.2.1, p.2.1 + p.2.2.length)) = false →
        exec (.fetchData i) s = .next { s with gx := { s.gx with
          inbox := s.gx.inbox.eraseIdx i, round := some { r with fetch := some { f with got := f.got ++ [(m.a, m.b, m.data)] } } } }) ∧
      (s.gx.mail i xFetchEnd = some m →
        (r.todo = [] → (s.gx.ref? (f.bucket, f.shard)).any (fun d => d.digest == m.data) = true → ∃ t, exec (.fetchEnd i .clean) s = .next t ∧ ended t ∧
          t.gx.refetchCnt = satAdd s.gx.refetchCnt 1 ∧ t.mem = f.got.foldl (fun mem p =>
            im.regWrite mem (im.block p.1).t.copy ((im.block p.1).copyOff (s.upd.gen.at p.1).cur + p.2.1) p.2.2) s.mem) ∧
        ((s.gx.ref? (f.bucket, f.shard)).any (fun d => d.digest == m.data) = false → f.attempt < 2 → ∃ t, exec (.fetchEnd i .clean) s = .next t ∧
          t.gx.round = some { r with fetch := some { f with attempt := f.attempt + 1, got := [] } } ∧ t.mem = s.mem))) ∧
    (∀ (r : Round) (f : Refetch), s.gx.round = some r → r.fetch = some f →
      (f.attempt < 2 → ∃ t, exec (.fetchTimeout .clean) s = .next t ∧ t.mem = s.mem ∧
        t.gx.round = some { r with fetch := some { f with attempt := f.attempt + 1, got := [] } }) ∧
      (2 ≤ f.attempt → r.todo = [] → ∃ t, exec (.fetchTimeout .clean) s = .next t ∧ ended t ∧ t.mem = s.mem ∧ (f.bucket, f.shard) ∈ t.gx.stale ∧
        t.gx.staleCnt = satAdd s.gx.staleCnt 1)) ∧
    (∀ (i : Nat) (m : XMsg), s.gx.mail i xState = some m → s.gx.pendingEpoch = true → m.step = s.gx.epochStep.toNat → m.epoch = s.gx.epochNext.toNat → m.step = cur → (m.remote = true → s.gx.solo = false) →
      s.gx.awaited.contains m.a = true → m.data ≠ [] → (s.gx.xfer.at m.a).any (fun p => rangesMeet (m.b, m.b + m.data.length) (p.1, p.1 + p.2.length)) = false →
      ((im.shardOf n m.a).any fun k => (s.gx.group.owner k.1 k.2).id == m.member) = true → im.shardOf s.gx.nextGroup.n m.a = some (m.bucket, m.shard) →
      let got := s.gx.xfer.at m.a ++ [(m.b, m.data)]
      ((im.parseBlock 11 (joinPieces got) = none ∨ ∃ r, im.parseBlock 11 (joinPieces got) = some r ∧ (joinPieces got).length < r.bytes) →
        ∀ x, ∃ t, exec (.stateXfer i x) s = .next t ∧ t.gx.xfer.at m.a = got ∧ t.mem = s.mem ∧ t.upd = s.upd ∧
        t.gx.awaited = s.gx.awaited) ∧
      (∀ r, im.parseBlock 11 (joinPieces got) = some r → r.bytes ≤ (joinPieces got).length → ∃ t, exec (.stateXfer i .clean) s = .next t ∧ t.gx.awaited = s.gx.awaited.filter (· != r.block) ∧
        (t.mem, t.upd) = im.importBlock 11 (s.mem, s.upd) r)) ∧
    (∀ (i : Nat) (m : XMsg), s.gx.mail i xState = some m → s.gx.pendingEpoch = true → m.step = s.gx.epochStep.toNat → m.epoch = s.gx.epochNext.toNat → m.step = stepAbove cur →
      (m.remote = true → s.gx.solo = false) → ∀ x, exec (.stateXfer i x) s = .next s) ∧
    (∀ (i : Nat) (m : XMsg), s.gx.mail i xXferEnd = some m → (m.remote = true → s.gx.solo = false) →
      let inOrder := s.gx.headOk cur m = true ∨ (s.gx.pendingEpoch = true ∧ m.step = s.gx.epochStep.toNat ∧ m.epoch = s.gx.epochNext.toNat ∧
        (m.step = cur ∨ m.step = stepAbove cur) ∧ (s.gx.group.rank? m.member).isSome = true)
      (inOrder → exec (.xferEnd i) s = .next { s with gx := { s.gx with inbox := s.gx.inbox.eraseIdx i } }) ∧
      (¬ inOrder → exec (.xferEnd i) s = .next { s with gx := { s.gx with inbox := s.gx.inbox.eraseIdx i, badTag := satAdd s.gx.badTag 1 } })) ∧
    (∃ t, exec .xferWaitTimeout s = .next t ∧ t.gx.awaited = [] ∧ t = { s with gx := t.gx, hif := t.hif } ∧
      ∀ g, g ∈ t.gx.unseeded ↔ g ∈ s.gx.unseeded ∨ g ∈ s.gx.awaited) ∧
    (∀ v : W32, s.ctl.state.live = true →
      (v.getLsbD 3 = true → ∃ t, exec (.armEpoch v) s = .next t ∧ t.gx.pendingEpoch = true ∧ (s.gx.pendingEpoch = true → t.gx.slotNeed = s.gx.slotNeed) ∧
        ((s.adm.running = true ∨ s.gx.epochStep ≠ s.tmr.step) → t = { s with gx := t.gx })) ∧
      (v.getLsbD 3 = false → exec (.armEpoch v) s = .next s) ∧
      (v.getLsbD 2 = true → ∃ t, exec (.cutoff v) s = .next t ∧ t.gx.cut = (if s.stepping then some (s.gx.cut.getD s.now) else s.gx.cut) ∧
        ((v.getLsbD 3 = false ∨ s.adm.running = true ∨ s.gx.epochStep ≠ s.tmr.step) → t = { s with gx := t.gx })) ∧
      (v.getLsbD 1 = true → ∃ t, exec (.compareNow v) s = .next t ∧ t.gx.compareNow = true ∧
        ((v.getLsbD 3 = false ∨ s.adm.running = true ∨ s.gx.epochStep ≠ s.tmr.step) → t = { s with gx := t.gx })))

/-! Links, the intake and register writes -/

/-- R308 to R313, R330, R331, R521: a write of LNK_PORT_CTRL with ENABLE 0 disables the port, and with ENABLE 1 starts training from DISABLED; the phases follow each other, a phase or a check that fails takes the port down with its reason and a CONTAINED LINK report,
negotiation takes the port up in the highest common version with its lanes as they are, and a lane's loss takes a port in UP down, its record naming the lane (log entry 146); a port that goes down has no lane locked or aligned. A lane that asks for more than 64
equalisation steps does not complete phase 3, and phase 5 begins with an IDLE flit. No other port changes its state. -/
def Obligations.LinksTrainAndFall : Prop :=
  ∀ (s : State) (i : Nat), i < 12 →
    let p := s.lnk.port.at i
    let others := fun (t : State) => (∀ j, j ≠ i → (t.lnk.port.at j).state = (s.lnk.port.at j).state) ∧ t.mem = s.mem
    let becomes := fun (c : Instr) (q : Port) => exec c s = .next { s with lnk := s.lnk.setPort i q }
    let falls := fun (c : Instr) (reason lane : Nat) => ∃ t q, exec c s = .next t ∧ (t.lnk.port.at i).state = .down ∧ (t.lnk.port.at i).down = true ∧
      (t.lnk.port.at i).downReason = BitVec.ofNat 4 reason ∧ t.flt.reports = Report.enter q s.flt.reports ∧ q.cls = .link ∧ q.sev = .contained ∧ q.unit = i ∧
      q.detail = reason ∧ q.sub = lane ∧ (∀ k, ((t.lnk.port.at i).lanes.at k).lock = false ∧ ((t.lnk.port.at i).lanes.at k).aligned = false) ∧ others t
    (∀ v, s.ctl.state.live = true → ∃ t, exec (.portEnableWrite i v) s = .next t ∧ others t ∧ (t.lnk.port.at i).enable = v.getLsbD 0 ∧
      (t.lnk.port.at i).autoRetrain = v.getLsbD 1 ∧ (t.lnk.port.at i).ttEn = v.getLsbD 4 ∧ (t.lnk.port.at i).verMask = BitVec.ofNat 2 (v.toNat / 4) ∧
      (t.lnk.port.at i).state = (if v.getLsbD 0 = false then .disabled else if p.state = .disabled then .training else p.state)) ∧
    (s.ctl.state.awake = true →
      (∀ inv reqs idx skew, p.state = .training →
        let c := Instr.trainingPhaseComplete i inv reqs idx skew
        (p.phase = 1 → becomes c { p with phase := 2 }) ∧
        (p.phase = 2 → ∃ t, exec c s = .next t ∧ others t ∧ (t.lnk.port.at i).phase = 3 ∧ (t.lnk.port.at i).state = .training ∧
          ∀ k < 4, ((t.lnk.port.at i).lanes.at k).inverted = inv.getD k false ∧ ((t.lnk.port.at i).lanes.at k).lock = true) ∧
        (p.phase = 3 → (∃ k < 4, 64 < reqs.getD k 0) → exec c s = .next s) ∧
        (p.phase = 3 → (∀ k < 4, reqs.getD k 0 ≤ 64) → ∃ t, exec c s = .next t ∧ others t ∧ (t.lnk.port.at i).phase = 4 ∧ (t.lnk.port.at i).state = .training ∧
          ∀ k < 4, ((t.lnk.port.at i).lanes.at k).requests = reqs.getD k 0 ∧ ((t.lnk.port.at i).lanes.at k).lock = (p.lanes.at k).lock) ∧
        (p.phase = 4 → (48 < skew ∨ ((List.range 4).map fun k => idx.getD k 0 % 4).eraseDups.length ≠ 4) → falls c 9 0) ∧
        (p.phase = 4 → skew ≤ 48 → ((List.range 4).map fun k => idx.getD k 0 % 4).eraseDups.length = 4 → ∃ t, exec c s = .next t ∧ others t ∧
          (t.lnk.port.at i).phase = 5 ∧ (∀ k < 4, ((t.lnk.port.at i).lanes.at k).aligned = true ∧ ((t.lnk.port.at i).lanes.at k).index = BitVec.ofNat 2 (idx.getD k 0)) ∧
          t.lnk.out = s.lnk.out ++ (i, p.flit 0 0 0 []) :: (List.range 16).map fun n => (i, p.flit 5 0 0 (bytesOf 1 6 ++ bytesOf 1 0 ++ bytesOf 2 n))) ∧
        (p.phase = 5 → p.echoes < 16 → exec c s = .next s) ∧
        (p.phase = 5 → 16 ≤ p.echoes → 224 < p.loopNs.toNat → falls c 6 0) ∧
        (p.phase = 5 → 16 ≤ p.echoes → p.loopNs.toNat ≤ 224 → becomes c { p with phase := 6, state := .negotiating, offer := p.verMask, seen := false })) ∧
      ((p.state = .training ∨ p.state = .negotiating) → falls (.trainingPhaseTimeout i) (phaseReason p.phase) 0) ∧
      (p.state = .down → (p.autoRetrain = true → becomes (.autoRetrain i) { p with state := .training, phase := 1, echoes := 0, seen := false, loopNs := 0, lanes := [] }) ∧
        (p.autoRetrain = false → exec (.autoRetrain i) s = .next s)) ∧
      (p.state = .negotiating → exec (.capSend i) s = .next { s with lnk := { s.lnk with out := s.lnk.out ++ [(i, p.flit 5 0 0 (s.lnk.capPayload i))] } }) ∧
      (∀ flit fec, isCtrl 5 flit = true → p.state = .negotiating →
        let pl := flitPayload flit
        let node := BitVec.ofNat 12 (fieldAt pl 2 2)
        let both := (BitVec.ofNat 2 (fieldAt pl 1 1) &&& p.offer).toNat
        (node = s.lnk.nodeId → falls (.cap i flit fec) 8 0) ∧ (node ≠ s.lnk.nodeId → both = 0 → falls (.cap i flit fec) 7 0) ∧
        (node ≠ s.lnk.nodeId → both ≠ 0 → ∃ t, exec (.cap i flit fec) s = .next t ∧ others t ∧ (t.lnk.port.at i).pNode = node ∧
          (t.lnk.port.at i).lanes = p.lanes ∧
          (fieldAt pl 5 1 % 2 = 1 → (t.lnk.port.at i).state = .up ∧ (t.lnk.port.at i).version = (if 2 ≤ both then 2 else 1)) ∧
          (fieldAt pl 5 1 % 2 = 0 → (t.lnk.port.at i).state = .negotiating ∧ (t.lnk.port.at i).seen = true))) ∧
      (∀ flit fec, isCtrl 6 flit = true → p.flits = true →
        (∃ t l, exec (.probe i flit fec none) s = .next t ∧ others t ∧ t.lnk.out = s.lnk.out ++ l ++ [(i, p.flit 5 0 0 (flitPayload flit))]) ∧
        (∀ ns, p.state = .training → p.phase = 5 → p.echoes < 16 → ∃ t, exec (.probe i flit fec (some ns)) s = .next t ∧ others t ∧
          (t.lnk.port.at i).echoes = p.echoes + 1 ∧ (t.lnk.port.at i).loopNs = BitVec.ofNat 9 (min 511 (max p.loopNs.toNat ns)))) ∧
      (∀ lane, let k := 4 * i + lane.toNat
        (p.state = .up → falls (.laneSignalLoss i lane) 1 k ∧ falls (.alignmentLoss i lane) 2 k ∧ falls (.lockLoss i lane) 3 k) ∧
        (p.state ≠ .up → exec (.laneSignalLoss i lane) s = .next s ∧ exec (.alignmentLoss i lane) s = .next s ∧ exec (.lockLoss i lane) s = .next s)))

/-- R307, R314 to R321, R328, R329, R331: a flit whose CRC fails is counted, answered by one NAK and recorded; a sequenced flit in order advances the receiver and reaches its buffer, one out of order only asks again. A NAK or the resend timer resends from the oldest, and the
fourth time takes the port down. Credits come back by what the partner's counters tell; IDLE, CREDIT and TIME_REQ flits go out, and a TIME_REQ is answered; a TIME_RESP that counts gives half its sums. Of the FEC
codewords that end with a flit, those with up to 15 wrong symbols count as corrected and those with more as uncorrectable, also before UP, when such flits do nothing else. -/
def Obligations.FlitsAndRetry : Prop :=
  ∀ (s : State) (i : Nat), i < 12 → s.ctl.state.awake = true →
    let p := s.lnk.port.at i
    let sends := fun (c : Instr) (bs : List Byte) (q : Port) => exec c s = .next { s with lnk := { s.lnk with out := s.lnk.out ++ [(i, bs)], port := s.lnk.port.put i q } }
    (∀ (q : Port) (n : Nat) (errs : List Nat),
      q.codeword n = (if n = 0 then q else if n ≤ 15 then { q with fecCorr := satAdd q.fecCorr 1 } else { q with fecUncorr := satAdd q.fecUncorr 1 }) ∧
      ∃ d k, (d = 1 ∨ d = 2) ∧ (q.countFec errs).rxBits + 5140 * k = q.rxBits + 512 * d ∧ (q.countFec errs).rxBits < 5140 ∧
        (q.countFec errs).fecCorr = satAdd q.fecCorr ((errs.take k).filter fun e => e != 0 && decide (e ≤ 15)).length ∧
        (q.countFec errs).fecUncorr = satAdd q.fecUncorr ((errs.take k).filter fun e => decide (15 < e)).length) ∧
    (∀ (flit : List Byte) (fec : List Nat), p.flits = true →
      let h := flitHeader flit
      let c := Instr.linkFlitReceive i flit fec
      (flitCrcOk flit = false → ∃ t r, exec c s = .next t ∧ (t.lnk.port.at i).crcErr = satAdd p.crcErr 1 ∧ (t.lnk.port.at i).nakPending = true ∧
        (t.lnk.port.at i).expected = p.expected ∧ (t.lnk.port.at i).rx = p.rx ∧ (p.nakPending = true → t.lnk.out = s.lnk.out) ∧
        (t.lnk.port.at i).fecCorr = (p.countFec fec).fecCorr ∧ (t.lnk.port.at i).fecUncorr = (p.countFec fec).fecUncorr ∧
        t.flt.reports = Report.enter r s.flt.reports ∧ r.cls = .link ∧ r.sev = .corrected ∧ r.unit = i ∧ t.mem = s.mem) ∧
      (flitCrcOk flit = true → p.state = .up → flitSeq h = p.expected.toNat → flitType h = 4 → ∃ t, exec c s = .next t ∧
        (t.lnk.port.at i).expected = p.expected + 1 ∧ (t.lnk.port.at i).nakPending = false ∧
        (t.lnk.port.at i).rx.at (flitVc h) = p.rx.at (flitVc h) ++ [{ flits := [flitPayload flit], done := true }] ∧ t.flt = s.flt ∧ t.mem = s.mem) ∧
      (flitCrcOk flit = true → p.state = .up → flitSeq h ≠ p.expected.toNat → isSequenced (flitType h) = true → flitType h ≠ 6 → ∃ t, exec c s = .next t ∧
        (t.lnk.port.at i).expected = p.expected ∧ (t.lnk.port.at i).nakPending = true ∧ (t.lnk.port.at i).rx = p.rx ∧ t.flt = s.flt)) ∧
    (p.flits = false → ∀ flit fec, exec (.linkFlitReceive i flit fec) s = .next s) ∧
    (∀ flit fec, flitCrcOk flit = true → flitType (flitHeader flit) = 6 → p.state = .up → flitSeq (flitHeader flit) = p.expected.toNat →
      ∃ t, exec (.abort i flit fec) s = .next t ∧ (t.lnk.port.at i).expected = p.expected + 1 ∧
        (∀ k, (p.rx.at (flitVc (flitHeader flit))).getLast? = some k → k.done = false → k.drop = false → k.out = none →
          (t.lnk.port.at i).rx.at (flitVc (flitHeader flit)) = (p.rx.at (flitVc (flitHeader flit))).dropLast)) ∧
    (∀ flit fec, p.state = .up →
      let h := flitHeader flit
      let c := p.countFec fec
      let a := if flitAckV h then c.ack (flitAck h) else c
      let l := (s.lnk.setPort i c).setPort i a
      let q := l.port.at i
      let pl := flitPayload flit
      (isCtrl 1 flit = true →
        let e := fieldAt pl 2 2 % 4096
        q.held.any (fun x => x.1.toNat == e) = true →
        let again := (q.held.head?.map fun x => x.1.toNat) = some e ∧ 3 ≤ q.resends
        (again → ∃ t, exec (.nak i flit fec) s = .next t ∧ (t.lnk.port.at i).state = .down ∧ (t.lnk.port.at i).downReason = 4) ∧
        (¬ again → ∃ t, exec (.nak i flit fec) s = .next t ∧ (t.lnk.port.at i).state = .up ∧ (t.lnk.port.at i).replay = satAdd q.replay 1 ∧
          (t.lnk.port.at i).held = q.held)) ∧
      (isCtrl 2 flit = true → ∃ t, exec (.credit i flit fec) s = .next t ∧ ∀ vc < 8,
        (t.lnk.port.at i).used.at vc = q.used.at vc - (BitVec.ofNat 16 (fieldAt pl (2 + 2 * vc) 2) - q.pFreed.at vc).toNat ∧
        (t.lnk.port.at i).pFreed.at vc = BitVec.ofNat 16 (fieldAt pl (2 + 2 * vc) 2)) ∧
      (isCtrl 3 flit = true → ∃ t, exec (.timeReq i flit fec) s = .next t ∧ t = { s with lnk := t.lnk } ∧ t.lnk.out = l.out ++
        [(i, q.flit 5 0 0 (bytesOf 1 4 ++ bytesOf 1 0 ++ bytesOf 2 (fieldAt pl 2 2) ++ stampBytes q.version s.tmr.t64 ++ stampBytes q.version s.tmr.t64))]) ∧
      (isCtrl 4 flit = true →
        (l.timeResult i pl s.tmr.t64 = none → exec (.timeResp i flit fec) s = .next { s with lnk := l }) ∧
        (∀ o d, l.timeResult i pl s.tmr.t64 = some (o, d) → ∃ t, exec (.timeResp i flit fec) s = .next t ∧ (t.lnk.port.at i).ttT1 = none ∧
          (o % 2 = 0 → -(2 ^ 31) ≤ o / 2 → o / 2 < 2 ^ 31 → (t.lnk.port.at i).ttOffset = BitVec.ofInt 32 (o / 2)) ∧
          (d % 2 = 0 → 0 ≤ d → d / 2 < 2 ^ 32 → (t.lnk.port.at i).ttDelay = BitVec.ofInt 32 (d / 2))))) ∧
    (∀ flit fec, p.flits = true → p.state ≠ .up →
      let c := p.countFec fec
      let l := (s.lnk.setPort i c).setPort i (if flitAckV (flitHeader flit) then c.ack (flitAck (flitHeader flit)) else c)
      (isCtrl 1 flit = true → exec (.nak i flit fec) s = .next { s with lnk := l }) ∧
      (isCtrl 2 flit = true → exec (.credit i flit fec) s = .next { s with lnk := l }) ∧
      (isCtrl 3 flit = true → exec (.timeReq i flit fec) s = .next { s with lnk := l }) ∧
      (isCtrl 4 flit = true → exec (.timeResp i flit fec) s = .next { s with lnk := l }) ∧
      (flitCrcOk flit = true → flitType (flitHeader flit) = 6 → exec (.abort i flit fec) s = .next { s with lnk := s.lnk.setPort i c }) ∧
      (flitCrcOk flit = true → flitType (flitHeader flit) ≠ 6 → isSequenced (flitType (flitHeader flit)) = true →
        exec (.linkFlitReceive i flit fec) s = .next { s with lnk := s.lnk.setPort i c })) ∧
    (∀ (q : BitVec 12) (f : TxFlit) (r : List (BitVec 12 × TxFlit)), p.state = .up → p.held = (q, f) :: r →
      (3 ≤ p.resends → ∃ t, exec (.resendTimerExpiry i) s = .next t ∧ (t.lnk.port.at i).state = .down ∧ (t.lnk.port.at i).downReason = 4) ∧
      (p.resends < 3 → ∃ t, exec (.resendTimerExpiry i) s = .next t ∧ (t.lnk.port.at i).resends = p.resends + 1 ∧
        (t.lnk.port.at i).replay = satAdd p.replay 1 ∧ t.lnk.out = s.lnk.out ++ p.held.map fun x => (i, p.flit x.2.type x.2.vc x.1.toNat x.2.payload))) ∧
    (p.flits = true → exec (.idleFlitSend i) s = .next { s with lnk := { s.lnk with out := s.lnk.out ++ [(i, p.flit 0 0 0 [])] } }) ∧
    (p.state = .up → sends (.creditFlitSend i) (p.flit 5 0 0 (bytesOf 1 2 ++ bytesOf 1 0 ++ (List.range 8).flatMap fun vc => bytesOf 2 (p.freed.at vc).toNat))
      { p with told := p.freed }) ∧
    (p.state = .up → p.ttEn = true → sends (.timeReqSend i) (p.flit 5 0 0 (bytesOf 1 3 ++ bytesOf 1 0 ++ bytesOf 2 (p.ttId + 1).toNat ++ stampBytes p.version s.tmr.t64))
      { p with ttId := p.ttId + 1, ttT1 := some (stampOf p.version s.tmr.t64) })

/-- R321 to R327, R345, R483, R521: a packet for this node goes to the local port; one with a route and credits leaves with its credits taken, at its input's turn; one without a route is dropped and counted; one that must wait keeps the port
and VC it was looked up for, and after the stall time is reported with them. A packet's flits wait on their output VC, and a slot of the port sends the next one in turn over the VCs while fewer than 1,024 are unacknowledged (R318, R322). A
parity error of the route table is a CONTROL fault of the chip, and the packet stays. With a packet's last flit the credits of flits it never sent come back.
The local port hands a packet on by its MSG: to the exchange, to a sync object, to the mailbox; any other is discarded. -/
def Obligations.RouterMoves : Prop :=
  ∀ s : State, s.ctl.state.awake = true →
    (∀ (i : Nat) (vc : BitVec 3) (k : RxPkt) (rest : List RxPkt), i < 12 → (s.lnk.port.at i).rx.at vc.toNat = k :: rest → k.out = none → k.drop = false →
      let head := k.flits.headD []
      let v := s.lnk.judge i head vc.toNat k.want
      ∀ pa : Bool, (pa = false ∨ s.lnk.looks i vc.toNat = false) →
      (v = .deliver → k.done = true → ∃ t, exec (.packetRoute i vc pa) s = .next t ∧ t.lnk.localQ = s.lnk.localQ ++ [packetOf vc.toNat k.flits] ∧
        (t.lnk.port.at i).rx.at vc.toNat = rest ∧ (t.lnk.port.at i).freed.at vc.toNat = (s.lnk.port.at i).freed.at vc.toNat + BitVec.ofNat 16 k.flits.length ∧
        t = { s with lnk := t.lnk }) ∧
      (∀ o ovc alt, v = .send o ovc alt → ∃ t, exec (.packetRoute i vc pa) s = .next t ∧ t.lnk.localQ = s.lnk.localQ ∧
        (t.lnk.port.at o).used.at ovc = (s.lnk.port.at o).used.at ovc +
          (if k.done then 1 + (k.flits.length - 1) else packetLen (headPlen (setHops head (headHops head + 1)))) ∧
        (t.lnk.port.at o).turn.at ovc = (i + 1) % 13 ∧ t.lnk.out = s.lnk.out ∧
        ((t.lnk.port.at o).txq.at ovc).map (·.payload) = setHops head (headHops head + 1) :: k.flits.drop 1 ∧
        t.lnk.altUsed = (s.lnk.altUsed || alt) ∧ t = { s with lnk := t.lnk }) ∧
      (v = .dropRoute → ∃ t, exec (.packetRoute i vc pa) s = .next t ∧ t.lnk.dropCnt = satAdd s.lnk.dropCnt 1 ∧ t.lnk.noRoute = true ∧ t.lnk.localQ = s.lnk.localQ) ∧
      (v = .dropHop → ∃ t, exec (.packetRoute i vc pa) s = .next t ∧ t.lnk.dropCnt = satAdd s.lnk.dropCnt 1 ∧ t.lnk.hopLimit = true ∧ t.lnk.localQ = s.lnk.localQ) ∧
      (∀ o ovc alt, (v = .wait o ovc alt ∨ v = .hold o ovc alt) → ∃ t, exec (.packetRoute i vc pa) s = .next t ∧
        (t.lnk.port.at i).rx.at vc.toNat = { k with want := some (o, ovc) } :: rest ∧ t.lnk.localQ = s.lnk.localQ ∧ t.lnk.out = s.lnk.out ∧
        t.lnk.dropCnt = s.lnk.dropCnt ∧ t = { s with lnk := t.lnk }) ∧
      (∀ o ovc, k.want = some (o, ovc) → v ≠ .dropRoute ∧ v ≠ .dropHop ∧
        ∀ o' v' alt, (v = .send o' v' alt ∨ v = .wait o' v' alt ∨ v = .hold o' v' alt) → o' = o ∧ v' = ovc) ∧
      (∀ o ovc alt, v = .send o ovc alt → ∀ j vj, j < 13 → vj < 8 → s.lnk.wanted j vj = some (o, ovc) →
        (i + 13 - (s.lnk.port.at o).turn.at ovc % 13) % 13 ≤ (j + 13 - (s.lnk.port.at o).turn.at ovc % 13) % 13)) ∧
    (∀ (i : Nat) (vc : BitVec 3), s.lnk.looks i vc.toNat = true → ∃ t r, exec (.packetRoute i vc true) s = .next t ∧
      t.flt.reports = Report.enter r s.flt.reports ∧ r.cls = .control ∧ r.sev = .chip ∧ r.detail = 1 ∧ t = { s with flt := t.flt }) ∧
    (∀ (o vc : Nat) (f : TxFlit) (r : List TxFlit), (s.lnk.port.at o).nextTx = some (vc, f, r) → (s.lnk.port.at o).state = .up →
      (s.lnk.port.at o).held.length < 1024 →
      let p := s.lnk.port.at o
      (s.lnk.serve o).out = s.lnk.out ++ [(o, p.flit f.type f.vc p.seqNext.toNat f.payload)] ∧
      ((s.lnk.serve o).port.at o).held = p.held ++ [(p.seqNext, f)] ∧ ((s.lnk.serve o).port.at o).seqNext = p.seqNext + 1 ∧
      p.txq.at vc = f :: r ∧ ((s.lnk.serve o).port.at o).txq.at vc = r ∧
      ∀ v < 8, p.txq.at v ≠ [] → (vc + 8 - p.txNext % 8) % 8 ≤ (v + 8 - p.txNext % 8) % 8) ∧
    (∀ (o pid : Nat) (x : OpenPkt), (s.lnk.port.at o).openPids.find? (fun y => y.pid == pid) = some x →
      ((s.lnk.endPacket o pid).port.at o).used.at x.vc = (s.lnk.port.at o).used.at x.vc - x.left) ∧
    (∀ (vc : BitVec 3) (x : Inject) (rest : List Inject), s.lnk.inject.at vc.toNat = x :: rest →
      let v := s.lnk.judge 12 (x.pkt.flits.headD []) vc.toNat x.want
      ∀ pa : Bool, (pa = false ∨ s.lnk.looks 12 vc.toNat = false) →
      let told := fun (u : State) (code : Code) => match x.entry with | some e => u.complete e code | none => u
      (v = .deliver → exec (.packetRoute 12 vc pa) s = .next (told { s with lnk := { s.lnk with
        inject := s.lnk.inject.put vc.toNat rest, localQ := s.lnk.localQ ++ [x.pkt] } } .success)) ∧
      (v = .dropRoute → exec (.packetRoute 12 vc pa) s = .next (told { s with lnk := { s.lnk with
        inject := s.lnk.inject.put vc.toNat rest, dropCnt := satAdd s.lnk.dropCnt 1, noRoute := true } } .address)) ∧
      (∀ o ovc alt, (v = .wait o ovc alt ∨ v = .hold o ovc alt) → exec (.packetRoute 12 vc pa) s = .next { s with lnk := { s.lnk with
        inject := s.lnk.inject.put vc.toNat ({ x with want := some (o, ovc) } :: rest), altUsed := s.lnk.altUsed || alt } })) ∧
    (∀ (i o v : Nat) (vc : BitVec 3), i < 13 →
      (s.lnk.stalled i vc.toNat = some (o, v) → ∃ t r, exec (.vcStall i vc) s = .next t ∧ (t.lnk.port.at o).vcStall = true ∧
        t.flt.reports = Report.enter r s.flt.reports ∧ r.cls = .link ∧ r.sev = .contained ∧ r.unit = o ∧ r.sub = v ∧ t = { s with lnk := t.lnk, flt := t.flt }) ∧
      (s.lnk.stalled i vc.toNat = none → exec (.vcStall i vc) s = .next s)) ∧
    (∀ (k : Packet) (rest : List Packet), s.lnk.localQ = k :: rest → s.ctl.state.live = true →
      let u : State := { s with lnk := { s.lnk with localQ := rest } }
      let o := fieldAt k.payload 0 2
      (xTypes.contains k.msg = true → exec .packetDeliver s = .next { u with gx := { s.gx with inbox := s.gx.inbox ++ [parseX k.msg k.payload] } }) ∧
      (k.msg = 0x40 → o < 16384 → exec .packetDeliver s = .next (u.syncOp o (.signal (BitVec.ofNat 32 (fieldAt k.payload 4 4))))) ∧
      (0x80 ≤ k.msg → exec .packetDeliver s = .next { u with
        hif := s.hif.mailbox s.hci { node := k.src, msg := k.msg, bytes := (k.flits.headD []).take 8 ++ k.payload } }) ∧
      ((k.msg = 0 ∨ k.msg = 0x7F ∨ (k.msg = 0x40 ∧ 16384 ≤ o)) → exec .packetDeliver s = .next { u with
        lnk := { u.lnk with badMsg := true, dropCnt := satAdd s.lnk.dropCnt 1 } }))

/-- R391 to R416, R433, R442, R481, R521, R536, R578: the oldest descriptor takes a context and the next sequence number; header reads return while fewer than 256 older ones are outstanding, and a check that fails voids the sample with its reason; pages are reserved in order;
each byte of the remainder is read once, a dropped field's too, and a field whose bytes arrive with their check value is kept and one without is a field failure; engines take waiting fields, which decode when the decoder finds no failure in them, else fail with what it finds, or exceed
the budget; the sample at the head is emitted, its conversions counted, and completes once all its fields have ended. An error while its positions are written, or a check of the Packer that fails, voids it with FETCH. A video's pictures
wait on its engine until its sample is the head where its pages do not hold them (log entry 157). Nothing is emitted in FAULT. -/
def Obligations.IntakeFlow : Prop :=
  ∀ (s : State) (im : Image), s.img = some im → s.ctl.state.live = true →
    let voids := fun (c : Instr) (seq code : Nat) => ∃ t, exec c s = .next t ∧ (t.inp.ctx.at seq).st = .void ∧ (t.inp.ctx.at seq).reason = code ∧
      (∀ j, j ≠ seq → t.inp.ctx.at j = s.inp.ctx.at j) ∧ t.mem = s.mem
    let fails := fun (c : Instr) (seq type code : Nat) (g : Field → Field) =>
      (((s.inp.ctx.at seq).profile im).required / 2 ^ (type - 1) % 2 = 1 → voids c seq code) ∧
      (((s.inp.ctx.at seq).profile im).required / 2 ^ (type - 1) % 2 ≠ 1 → ∃ t, exec c s = .next t ∧ (t.inp.ctx.at seq).drops.at type = code ∧
        (t.inp.ctx.at seq).fields = (s.inp.ctx.at seq).fields.map (fun f => if f.type == type then { g f with st := .dropped code, data := [] } else f) ∧
        (∀ j, j ≠ seq → t.inp.ctx.at j = s.inp.ctx.at j) ∧ t.mem = s.mem)
    let sets := fun (c : Instr) (seq type : Nat) (g : Field → Field) => ∃ t, exec c s = .next t ∧
      (t.inp.ctx.at seq).fields = (s.inp.ctx.at seq).fields.map (fun f => if f.type == type then g f else f) ∧
      (∀ j, j ≠ seq → t.inp.ctx.at j = s.inp.ctx.at j) ∧ t = { s with inp := t.inp }
    (∀ (e : Entry) (rest : List Entry), s.inp.queue = e :: rest → s.inp.ctx.length < 262144 →
      let k := s.inp.nextSeq.toNat
      let d := parseSample e.data
      let code := sieveFirst im d (im.recordMapped s.memr.ddr d.addr d.len)
      ∃ t, exec .sampleAccept s = .next t ∧ t.inp.queue = rest ∧ t.inp.nextSeq = s.inp.nextSeq + 1 ∧
        (code = 0 → t.inp.ctx.at k = { st := .sieve, e := e, d := d }) ∧ (code ≠ 0 → (t.inp.ctx.at k).st = .void ∧ (t.inp.ctx.at k).reason = code) ∧
        (∀ j, j ≠ k → t.inp.ctx.at j = s.inp.ctx.at j) ∧ t = { s with inp := t.inp }) ∧
    ((s.inp.queue = [] ∨ 262144 ≤ s.inp.ctx.length) → exec .sampleAccept s = .next s) ∧
    (∀ (seq : Nat),
      let c := s.inp.ctx.at seq
      let bs := s.hif.readMem c.d.addr (min c.d.len 832)
      (c.st = .sieve → c.d.source ≠ 1 → s.inp.headerIssued seq = true → voids (.headerReadReturn seq true .clean) seq 0x01 ∧
        (∀ code, sieveHead (c.profile im) c.d bs = .inl code → voids (.headerReadReturn seq false .clean) seq code) ∧
        (∀ v fs, sieveHead (c.profile im) c.d bs = .inr (v, fs) → (∀ f ∈ fs, (c.profile im).declCheck f = 0 ∧ (c.profile im).ratioOk f = true) →
          ({ c with version := v, head := bs, fields := fs } : Ctx).need ≤ im.stagingPages → ∃ t, exec (.headerReadReturn seq false .clean) s = .next t ∧
            t.inp.ctx.at seq = { c with version := v, head := bs, fields := fs, st := .waitPages } ∧ t = { s with inp := t.inp })) ∧
      (c.st = .sieve → c.d.source = 1 → s.inp.headerIssued seq = true → (spanPlaces c.d.addr (min c.d.len 832)).any s.mem.poisoned = true → ∀ b, voids (.headerReadReturn seq b .clean) seq 0x01) ∧
      ((c.st ≠ .sieve ∨ s.inp.headerIssued seq = false) → ∀ b e, exec (.headerReadReturn seq b e) s = .next s)) ∧
    (∀ k, s.inp.reservable im = some k → ∃ t, exec .stagingReserve s = .next t ∧ (t.inp.ctx.at k).reserved = true ∧
      (∀ j, j ≠ k → t.inp.ctx.at j = s.inp.ctx.at j) ∧ t = { s with inp := t.inp }) ∧
    (s.inp.reservable im = none → exec .stagingReserve s = .next s) ∧
    (∀ (seq type : Nat) (f : Field),
      let c := s.inp.ctx.at seq
      let span := c.fetchSpan f
      let bs := if span.1 < span.2 then s.hif.readMem (c.d.addr + span.1) (span.2 - span.1) else []
      let got := fun g : Field => { g with got := true }
      c.fields.find? (fun g => g.type == type) = some f → f.got = false → c.d.source ≠ 1 → c.st ≠ .void → c.emitting = false →
      (c.reserved = false → ∀ b e, exec (.recordFetchComplete seq type b e) s = .next s) ∧
      (c.reserved = true → span.1 < span.2 → voids (.recordFetchComplete seq type true .clean) seq 0x01) ∧
      (c.reserved = true → f.kept = true → recCheck c.version (c.payload f bs) = f.check → sets (.recordFetchComplete seq type false .clean) seq type fun g =>
        { got g with data := c.payload f bs, st := if 5 ≤ type then .decoded else .wait }) ∧
      (c.reserved = true → f.kept = true → recCheck c.version (c.payload f bs) ≠ f.check → fails (.recordFetchComplete seq type false .clean) seq type 0x13 got) ∧
      (c.reserved = true → f.kept = false → sets (.recordFetchComplete seq type false .clean) seq type got)) ∧
    (∀ (kind : BitVec 2) (k : Nat), s.inp.assignable kind.toNat = some k → (s.inp.ctx.at k).st ≠ .void →
      ((kind ≠ 3 ∨ im.tok.isSome = true) → sets (.engineAssign kind) k (kind.toNat + 1) fun f => { f with st := .engine }) ∧
      (kind = 3 → im.tok.isSome = false → fails (.engineAssign kind) k 4 0x18 id)) ∧
    (∀ kind : BitVec 2, s.inp.assignable kind.toNat = none → exec (.engineAssign kind) s = .next s) ∧
    (∀ (seq type : Nat) (f : Field),
      let c := s.inp.ctx.at seq
      s.inp.onEngine seq type = some f → c.emitting = false → c.st ≠ .void →
      let holds := s.inp.windowHolds im seq f
      (c.outcome im f = 0 → holds = true → sets (.fieldDecodeComplete seq type .clean) seq type fun g => { g with st := .decoded }) ∧
      (∀ x, c.outcome im f = 0 → holds = true → (s.stagingRead im x).2 = true → ∃ t, exec (.fieldDecodeComplete seq type x) s = .next t ∧
        (t.inp.ctx.at seq).st = .void ∧ (t.inp.ctx.at seq).reason = 0x01) ∧
      (∀ x, (c.outcome im f ≠ 0 ∨ holds = false) → exec (.fieldDecodeComplete seq type x) s = .next s) ∧
      (∀ code, [DecodeErr.bitstream, .unsupported, .declMismatch, .tokens].contains code = true →
        (c.outcome im f = code.code → holds = true → fails (.fieldDecodeError seq type code) seq type code.code id) ∧
        (c.outcome im f ≠ code.code ∨ holds = false → exec (.fieldDecodeError seq type code) s = .next s)) ∧
      (∀ off, off < im.stagingPages * 65536 → ∃ t, exec (.fieldDecodeError seq type (.staging off)) s = .next t ∧ (t.inp.ctx.at seq).st = .void ∧
        (t.inp.ctx.at seq).reason = 0x01) ∧
      (∃ r t, exec (.fieldDecodeError seq type .datapath) s = .next t ∧ (t.inp.ctx.at seq).st = .void ∧ (t.inp.ctx.at seq).reason = 0x01 ∧
        t.flt.reports = Report.enter r s.flt.reports ∧ r.cls = .datapath ∧ r.sev = .contained)) ∧
    (∀ seq us : Nat,
      let c := s.inp.ctx.at seq
      c.fields.any (fun f => f.st == .engine) = true →
      ((c.profile im).budget < c.us + us → c.emitting = false → voids (.engineTimeReport seq us) seq 0x14) ∧
      (c.us + us ≤ (c.profile im).budget → exec (.engineTimeReport seq us) s = .next { s with inp := { s.inp with ctx := s.inp.ctx.put seq { c with us := c.us + us } } })) ∧
    (s.ctl.state = .fault → ∀ bad x, exec (.sampleEmit bad x) s = .next s) ∧
    (∀ k, s.ctl.state ≠ .fault → s.inp.head? = some k → s.inp.closing = false → (s.inp.ctx.at k).emitting = false →
      let c := s.inp.ctx.at k
      let sites := if c.st = .void then s.sites else (s.countUnbound (c.counts im false)).sites
      (c.eligible = false → ∀ bad x, exec (.sampleEmit bad x) s = .next s) ∧
      (s.inp.isOpen = false → s.inp.slotFree im = false → im.prof.isSome = true → ∀ bad x, exec (.sampleEmit bad x) s = .next s) ∧
      (c.eligible = true → s.inp.slotFree im = true → (c.st = .void ∨ (c.cont im = false ∧ c.d.mbEnd = false)) → c.left = [] →
        ((c.st = .void ∨ c.fields.all Field.ended = true) → ∃ t, exec (.sampleEmit false .clean) s = .next t ∧ t.inp.ctx.at k = {} ∧
          (∀ j, j ≠ k → t.inp.ctx.at j = s.inp.ctx.at j) ∧ t = { s with inp := t.inp, hif := (s.sampleDone (c.completion k)).hif, sites := sites }) ∧
        (c.st ≠ .void → c.fields.all Field.ended = false → ∃ t, exec (.sampleEmit false .clean) s = .next t ∧ t.inp.ctx.at k = { c with emitting := true } ∧
          t = { s with inp := t.inp, sites := sites }) ∧
        (c.st ≠ .void → ∃ t q, exec (.sampleEmit true .clean) s = .next t ∧ t.inp.ctx.at k = {} ∧ t.inp.voidEmit = true ∧
          (∀ j, j ≠ k → t.inp.ctx.at j = s.inp.ctx.at j) ∧ t.flt.reports = Report.enter q s.flt.reports ∧ q.cls = .datapath ∧ q.sev = .contained ∧
          t = { s with inp := t.inp, hif := (s.sampleDone { c.completion k with reason := 0x01 }).hif, sites := sites, flt := t.flt }) ∧
        (∀ (j a : Nat), c.st ≠ .void → ((s.inp.emitHead im).1.rowPlaces im k)[j]? = some a → s.mem.poisoned a = false →
          ∃ t, exec (.sampleEmit false (.uncorrected j)) s = .next t ∧ t.inp.ctx.at k = {} ∧ t.inp.voidEmit = true ∧ t.mem.poisoned a = true ∧
            (∀ b, t.mem.byte b = s.mem.byte b) ∧ t.hif = (s.sampleDone { c.completion k with reason := 0x01 }).hif)))

/-- R430 to R432, R437 to R443: a row set that is closed, emitted and whose slot is free is written to its slots and sealed, a check that fails voiding the samples in it (log entry 145); once all row sets of a micro-batch are sealed its work counts are reported and it waits for admission; CLOSE_MB closes the micro-batch once every sample accepted before it
is emitted; FLUSH empties the intake while no step runs, and is only rejected while one does. -/
def Obligations.RowsAndMicroBatches : Prop :=
  ∀ s : State, s.ctl.state.live = true →
    (∀ im : Image, s.img = some im →
    (∀ r, s.inp.sealable = some r →
      (∃ t, exec (.rowSetSeal false) s = .next t ∧ t.mem = r.write im s.mem ∧
        t.inp.rows = s.inp.rows.map (fun x => if x.g == r.g then { x with sealed' := true } else x) ∧ t = { s with mem := t.mem, inp := { s.inp with rows := t.inp.rows } }) ∧
      ∃ t q, exec (.rowSetSeal true) s = .next t ∧ t.inp.rows.length = s.inp.rows.length ∧ (∀ x ∈ t.inp.rows, x.g ≠ r.g → x ∈ s.inp.rows) ∧
        (∀ x ∈ t.inp.rows, x.g = r.g → x.sealed' = true ∧ x.pieces = [] ∧ ∀ e ∈ x.entries, e.flags % 2 = 1) ∧
        t.flt.reports = Report.enter q s.flt.reports ∧ q.cls = .datapath ∧ q.sev = .contained ∧
        t = { s with mem := t.mem, flt := t.flt, inp := { s.inp with rows := t.inp.rows, reasonCnt := t.inp.reasonCnt } }) ∧
    (s.inp.sealable = none → ∀ bad, exec (.rowSetSeal bad) s = .next s) ∧
    (∀ l, s.inp.completeMb im = some l →
      let last := (l.getLast?).getD default
      let off := last.g % max 1 im.ringSlots * 65536
      ∃ t, exec .mbComplete s = .next t ∧ t.inp.rows = s.inp.rows.drop im.mbRows ∧ t.inp.mbDone = s.inp.mbDone + 1 ∧
        t.inp.ready = s.inp.ready ++ [((l.headD default).g / im.mbRows, workCounts im l)] ∧
        (∀ b < 16, t.inp.work.at b = BitVec.ofNat 32 ((workCounts im l).getD b 0)) ∧
        (∀ a, a ∉ im.regPlaces im.reportRegion off (last.header im (some (workCounts im l))).length → t.mem.byte a = s.mem.byte a) ∧
        t = { s with mem := t.mem, inp := t.inp }) ∧
    (s.inp.completeMb im = none → exec .mbComplete s = .next s) ∧
    (∀ v : W32, v.getLsbD 0 = false → v.getLsbD 1 = true →
      (s.inp.ctx = [] → ∃ t, exec (.closeMb v) s = .next t ∧ (∀ r, t.inp.rows.getLast? = some r → r.closed = true) ∧
        (t.inp.closing = false → t.inp.nextRow % im.mbRows = 0) ∧ (t.inp.closing = true → t.inp.nextRow % im.mbRows ≠ 0 ∧ t.inp.slotFree im = false) ∧
        t.inp.closes = s.inp.closes.filter (fun c => decide (s.inp.nextSeq.toNat < c)) ∧ t = { s with inp := t.inp }) ∧
      (∀ k, s.inp.head? = some k → k < s.inp.nextSeq.toNat → (∀ c ∈ s.inp.closes, k < c) →
        exec (.closeMb v) s = .next { s with inp := { s.inp with closes := s.inp.closes ++ [s.inp.nextSeq.toNat] } }))) ∧
    (∀ v : W32, v.getLsbD 0 = true →
      ((s.ctl.state.running = true ∨ s.adm.running = true) → exec (.flush v) s = .next { s with inp := { s.inp with flushRej := true } }) ∧
      (s.ctl.state.running = false → s.adm.running = false → ∃ t, exec (.flush v) s = .next t ∧ t.inp.ctx = [] ∧ t.inp.rows = [] ∧ t.inp.ready = [] ∧
        t.inp.closes = [] ∧ t.inp.nextRow = s.inp.nextMb * s.inp.mbRows ∧
        t.inp.live = s.inp.live.filter (fun g => decide (g < t.inp.nextRow)) ∧ t.inp.queue = s.inp.queue ∧ t.flt = { s.flt with needFlush := false } ∧
        t = { s with inp := t.inp, flt := t.flt, hif := t.hif }))

/-- R9, R10, R14, R469: a register write of 4 or 8 aligned bytes reaches the block of its address and changes nothing of the other blocks but a latched high word (R15) and the messages of an armed epoch, no byte of memory and no fuse; any other size or alignment, and every write before READY or in ALARM, is discarded. -/
def Obligations.RegisterWritesStayInTheirBlock : Prop :=
  ∀ (s : State) (a : BitVec 26) (v : W64),
    (∀ n, (s.ctl.state.live = false ∨ (n ≠ 4 ∧ n ≠ 8) ∨ a.toNat % n ≠ 0) → exec (.registerWrite a n v) s = .next s) ∧
    (s.ctl.state.live = true → a.toNat % 4 = 0 → ∃ t, exec (.registerWrite a 4 v) s = .next t ∧ t.mem = s.mem ∧ t.sec.fuses = s.sec.fuses ∧
      t.ctl.state = s.ctl.state ∧
      let u : State := { s with ctl := { s.ctl with latch := t.ctl.latch } }
      (∀ b, (b ≠ a.toNat ∨ wideRw (b - 4) = false) → t.ctl.latch.at b = s.ctl.latch.at b) ∧
      match (regBlock a.toNat).1 with
      | .ctl => t = { s with ctl := t.ctl }
      | .rst => t = { u with rst := t.rst }
      | .hif => t = { u with hif := t.hif }
      | .msix => t = { u with hif := t.hif }
      | .tmr => t = { u with tmr := t.tmr, hif := t.hif }
      | .lnk => t = { u with lnk := t.lnk, flt := t.flt, tmr := t.tmr, hif := t.hif, free := t.free }
      | .gx => t = { u with gx := t.gx, lnk := t.lnk } ∧
          (regBlock a.toNat).2 = 4 ∧ v.getLsbD 3 = true ∨ t = { u with gx := t.gx }
      | .upd => t = { u with upd := t.upd }
      | .inp => t = { u with inp := t.inp, flt := t.flt, hif := t.hif }
      | .mem => t = { u with memr := t.memr }
      | .stash => t = { u with adm := t.adm }
      | .sec => t = { u with sec := t.sec }
      | .flt => t = { u with flt := t.flt, fab := t.fab }
      | .pwr => t = { u with pwr := t.pwr }
      | .til n => n < 256 ∧ t = { u with fab := { s.fab with tiles := t.fab.tiles, readyLog := t.fab.readyLog } } ∧
          ∀ j, j ≠ n → t.fab.tiles.at j = s.fab.tiles.at j
      | .none => t = s) ∧
    (s.ctl.state.live = true → a.toNat % 8 = 0 → ∃ t, exec (.registerWrite a 4 (v.setWidth 32 |>.setWidth 64)) s = .next t ∧
      exec (.registerWrite a 8 v) s = .next (t.barWrite (a.toNat + 4) (BitVec.ofNat 32 (v.toNat / 2 ^ 32))))
end

