-- ==== Sys2Proof/Laws/Sparse.lean ====
section
/-! SUPPORT. Laws of the tables: a read after a write, and the canonical form, which every operation keeps. -/

namespace Sys2Proof.Machine

variable {α : Type}

theorem Sparse.get_insert_self (d : α) (m : Sparse α) (i : Nat) (a : α) : Sparse.get d (Sparse.insert m i a) i = a := by
  induction m with
  | nil => simp [Sparse.insert, Sparse.get]
  | cons p r ih =>
    obtain ⟨k, v⟩ := p
    unfold Sparse.insert
    split
    · simp [Sparse.get]
    · split
      · simp [Sparse.get]
      · simp [Sparse.get, *]

theorem Sparse.get_insert_ne (d : α) (m : Sparse α) {i j : Nat} (a : α) (h : j ≠ i) :
    Sparse.get d (Sparse.insert m i a) j = Sparse.get d m j := by
  induction m with
  | nil => simp [Sparse.insert, Sparse.get, h]
  | cons p r ih =>
    obtain ⟨k, v⟩ := p
    unfold Sparse.insert
    split
    · subst_vars; simp [Sparse.get, h]
    · split
      · simp [Sparse.get, h]
      · simp [Sparse.get, ih]

theorem Sparse.get_erase_self (d : α) (m : Sparse α) (i : Nat) : Sparse.get d (Sparse.erase m i) i = d := by
  induction m with
  | nil => rfl
  | cons p r ih =>
    obtain ⟨k, v⟩ := p
    by_cases hk : k = i
    · simpa [Sparse.erase, hk] using ih
    · have : i ≠ k := fun h => hk h.symm
      simpa [Sparse.erase, hk, Sparse.get, this] using ih

theorem Sparse.get_erase_ne (d : α) (m : Sparse α) {i j : Nat} (h : j ≠ i) : Sparse.get d (Sparse.erase m i) j = Sparse.get d m j := by
  induction m with
  | nil => rfl
  | cons p r ih =>
    obtain ⟨k, v⟩ := p
    by_cases hk : k = i
    · subst hk; simpa [Sparse.erase, Sparse.get, h] using ih
    · simp only [Sparse.erase, List.filter_cons, bne_iff_ne, ne_eq, hk, not_false_eq_true, if_true, Sparse.get]
      split
      · rfl
      · simpa [Sparse.erase] using ih

/-- A key reads as what was written there. -/
@[simp] theorem Sparse.get_set_self [DecidableEq α] (d : α) (m : Sparse α) (i : Nat) (a : α) : Sparse.get d (Sparse.set d m i a) i = a := by
  unfold Sparse.set
  split
  · rw [Sparse.get_erase_self]; exact (‹a = d›).symm
  · exact Sparse.get_insert_self d m i a

/-- Every other key reads as before. -/
theorem Sparse.get_set_ne [DecidableEq α] (d : α) (m : Sparse α) {i j : Nat} (a : α) (h : j ≠ i) :
    Sparse.get d (Sparse.set d m i a) j = Sparse.get d m j := by
  unfold Sparse.set
  split
  · exact Sparse.get_erase_ne d m h
  · exact Sparse.get_insert_ne d m a h

@[simp] theorem Sparse.at_put_self [Inhabited α] [DecidableEq α] (m : Sparse α) (i : Nat) (a : α) : (m.put i a).at i = a :=
  Sparse.get_set_self default m i a

theorem Sparse.at_put_ne [Inhabited α] [DecidableEq α] (m : Sparse α) {i j : Nat} (a : α) (h : j ≠ i) : (m.put i a).at j = m.at j :=
  Sparse.get_set_ne default m a h

theorem Sparse.at_put [Inhabited α] [DecidableEq α] (m : Sparse α) (i j : Nat) (a : α) :
    (m.put i a).at j = if j = i then a else m.at j := by
  split
  · subst_vars; simp
  · exact Sparse.at_put_ne m a ‹_›

@[simp] theorem Sparse.at_mod_self [Inhabited α] [DecidableEq α] (m : Sparse α) (i : Nat) (f : α → α) : (m.mod i f).at i = f (m.at i) :=
  Sparse.at_put_self m i _

theorem Sparse.at_mod_ne [Inhabited α] [DecidableEq α] (m : Sparse α) {i j : Nat} (f : α → α) (h : j ≠ i) : (m.mod i f).at j = m.at j :=
  Sparse.at_put_ne m _ h

@[simp] theorem Sparse.at_nil [Inhabited α] (i : Nat) : Sparse.at ([] : Sparse α) i = default := rfl

/-- Every key of a mapped table reads as the function of what it read, where the function keeps what an unlisted key reads as. -/
theorem Sparse.at_mapVals [Inhabited α] [DecidableEq α] (f : Nat → α → α) (hf : ∀ k, f k default = default) (m : Sparse α) (j : Nat) :
    (m.mapVals f).at j = f j (m.at j) := by
  induction m with
  | nil => exact (hf j).symm
  | cons p r ih =>
    obtain ⟨k, v⟩ := p
    rw [Sparse.mapVals, Sparse.at_put]
    by_cases h : j = k
    · subst h; simp [Sparse.at, Sparse.get]
    · rw [if_neg h, ih]; simp [Sparse.at, Sparse.get, h]

/-! The canonical form -/

section Canonical
variable [DecidableEq α]

theorem Sparse.wfFrom_mono {d : α} {b c : Nat} (h : c ≤ b) {m : Sparse α} (hm : Sparse.wfFrom d b m = true) : Sparse.wfFrom d c m = true := by
  cases m with
  | nil => rfl
  | cons p r =>
    obtain ⟨k, v⟩ := p
    simp only [Sparse.wfFrom, Bool.and_eq_true, decide_eq_true_eq] at hm ⊢
    exact ⟨⟨le_trans h hm.1.1, hm.1.2⟩, hm.2⟩

theorem Sparse.wfFrom_insert {d a : α} (ha : a ≠ d) {i : Nat} (m : Sparse α) {b : Nat} (hb : b ≤ i) (hm : Sparse.wfFrom d b m = true) :
    Sparse.wfFrom d b (Sparse.insert m i a) = true := by
  induction m generalizing b with
  | nil => simp [Sparse.insert, Sparse.wfFrom, hb, ha]
  | cons p r ih =>
    obtain ⟨k, v⟩ := p
    simp only [Sparse.wfFrom, Bool.and_eq_true, decide_eq_true_eq] at hm
    unfold Sparse.insert
    split
    · subst_vars; simp [Sparse.wfFrom, hb, ha, hm.2]
    · split
      · simp only [Sparse.wfFrom, Bool.and_eq_true, decide_eq_true_eq]
        exact ⟨⟨hb, ha⟩, ⟨by omega, hm.1.2⟩, hm.2⟩
      · simp only [Sparse.wfFrom, Bool.and_eq_true, decide_eq_true_eq]
        exact ⟨hm.1, ih (by omega) hm.2⟩

theorem Sparse.wfFrom_erase {d : α} (i : Nat) (m : Sparse α) {b : Nat} (hm : Sparse.wfFrom d b m = true) : Sparse.wfFrom d b (Sparse.erase m i) = true := by
  induction m generalizing b with
  | nil => rfl
  | cons p r ih =>
    obtain ⟨k, v⟩ := p
    simp only [Sparse.wfFrom, Bool.and_eq_true, decide_eq_true_eq] at hm
    by_cases hk : k = i
    · have : Sparse.erase ((k, v) :: r) i = Sparse.erase r i := by simp [Sparse.erase, hk]
      rw [this]
      exact ih (Sparse.wfFrom_mono (by omega) hm.2)
    · have : Sparse.erase ((k, v) :: r) i = (k, v) :: Sparse.erase r i := by simp [Sparse.erase, hk]
      rw [this]
      simp only [Sparse.wfFrom, Bool.and_eq_true, decide_eq_true_eq]
      exact ⟨hm.1, ih hm.2⟩

/-- A write keeps the canonical form. -/
theorem Sparse.wf_set {d : α} {m : Sparse α} (i : Nat) (a : α) (hm : Sparse.wf d m = true) : Sparse.wf d (Sparse.set d m i a) = true := by
  unfold Sparse.set
  split
  · exact Sparse.wfFrom_erase i m hm
  · exact Sparse.wfFrom_insert ‹_› m (Nat.zero_le i) hm

theorem Sparse.wf_put [Inhabited α] {m : Sparse α} (i : Nat) (a : α) (hm : Sparse.wf default m = true) : Sparse.wf default (m.put i a) = true :=
  Sparse.wf_set i a hm

/-- A mapped table is canonical. -/
theorem Sparse.wf_mapVals [Inhabited α] (f : Nat → α → α) (m : Sparse α) : Sparse.wf default (m.mapVals f) = true := by
  induction m with
  | nil => rfl
  | cons p r ih => exact Sparse.wf_put _ _ ih

end Canonical

end Sys2Proof.Machine
end

