-- ==== Sys2Proof/Laws/Memory.lean ====
section
/-! SUPPORT. Laws of the memory: reads after writes, poison marks, and the canonical form, which every memory operation keeps. -/

namespace Sys2Proof.Machine

/-! One byte, one mark -/

@[simp] theorem Mem.byte_setByte_self (m : Mem) (k : Nat) (b : Byte) : (m.setByte k b).byte k = b := by
  simp [Mem.byte, Mem.setByte]

theorem Mem.byte_setByte_ne (m : Mem) {k j : Nat} (b : Byte) (h : j ≠ k) : (m.setByte k b).byte j = m.byte j :=
  Sparse.get_set_ne _ _ _ h

@[simp] theorem Mem.byte_setPoison (m : Mem) (k j : Nat) (p : Bool) : (m.setPoison k p).byte j = m.byte j := rfl
@[simp] theorem Mem.poisoned_setByte (m : Mem) (k j : Nat) (b : Byte) : (m.setByte k b).poisoned j = m.poisoned j := rfl

theorem Mem.poisoned_setPoison (m : Mem) {k j : Nat} (p : Bool) (h : eccUnit j = eccUnit k) : (m.setPoison k p).poisoned j = p := by
  simp [Mem.poisoned, Mem.setPoison, h]

theorem Mem.poisoned_setPoison_ne (m : Mem) {k j : Nat} (p : Bool) (h : eccUnit j ≠ eccUnit k) :
    (m.setPoison k p).poisoned j = m.poisoned j :=
  Sparse.get_set_ne _ _ _ h

/-! Lists of cells -/

/-- A place no cell names keeps its byte. -/
theorem Mem.byte_setCells (cs : List (Nat × Byte)) (m : Mem) {j : Nat} (h : ∀ c ∈ cs, c.1 ≠ j) : (m.setCells cs).byte j = m.byte j := by
  induction cs generalizing m with
  | nil => rfl
  | cons c r ih =>
    have h1 : j ≠ c.1 := fun e => h c (by simp) e.symm
    exact (ih (m.setByte c.1 c.2) fun x hx => h x (by simp [hx])).trans (m.byte_setByte_ne c.2 h1)

theorem Mem.poisoned_setCells (cs : List (Nat × Byte)) (m : Mem) (j : Nat) : (m.setCells cs).poisoned j = m.poisoned j := by
  induction cs generalizing m with
  | nil => rfl
  | cons c r ih => exact (ih (m.setByte c.1 c.2)).trans (m.poisoned_setByte ..)

theorem Mem.byte_clear (us : List Nat) (m : Mem) (j : Nat) : (us.foldl (fun m u => m.setPoison u false) m).byte j = m.byte j := by
  induction us generalizing m with
  | nil => rfl
  | cons u r ih => exact ih (m.setPoison u false)

/-- A write changes no byte it does not name. -/
theorem Mem.byte_write (m : Mem) (cs : List (Nat × Byte)) {j : Nat} (h : ∀ c ∈ cs, c.1 ≠ j) : (m.write cs).byte j = m.byte j := by
  unfold Mem.write
  refine (Mem.byte_setCells _ _ fun c hc => h c (List.mem_filter.1 hc).1).trans (Mem.byte_clear _ _ _)

/-- Poison stored changes no byte. -/
theorem Mem.byte_writePoison (ks : List Nat) (m : Mem) (j : Nat) : (m.writePoison ks).byte j = m.byte j := by
  induction ks generalizing m with
  | nil => rfl
  | cons u r ih => exact ih (m.setPoison u true)

/-! The canonical form -/

theorem Mem.wf_empty : ({} : Mem).wf = true := rfl

theorem Mem.wf_setByte {m : Mem} (k : Nat) (b : Byte) (h : m.wf = true) : (m.setByte k b).wf = true := by
  simp only [Mem.wf, Mem.setByte, Bool.and_eq_true] at h ⊢
  exact ⟨Sparse.wf_set k b h.1, h.2⟩

theorem Mem.wf_setPoison {m : Mem} (k : Nat) (p : Bool) (h : m.wf = true) : (m.setPoison k p).wf = true := by
  simp only [Mem.wf, Mem.setPoison, Bool.and_eq_true] at h ⊢
  exact ⟨h.1, Sparse.wf_set _ p h.2⟩

/-- A fold of operations that keep a property keeps it. -/
theorem foldl_keeps {α β : Type} {P : α → Prop} {f : α → β → α} (hf : ∀ a b, P a → P (f a b)) (l : List β) {a : α} (h : P a) :
    P (l.foldl f a) := by
  induction l generalizing a with
  | nil => exact h
  | cons b r ih => exact ih (hf a b h)

/-- A fold keeps a projection that its operation keeps. -/
theorem foldl_proj {α β γ : Type} (p : α → γ) {f : α → β → α} (hf : ∀ a b, p (f a b) = p a) (l : List β) (a : α) : p (l.foldl f a) = p a := by
  induction l generalizing a with
  | nil => rfl
  | cons b r ih => exact (ih (f a b)).trans (hf a b)

theorem Mem.wf_setCells {m : Mem} (cs : List (Nat × Byte)) (h : m.wf = true) : (m.setCells cs).wf = true :=
  foldl_keeps (P := fun m : Mem => m.wf = true) (fun _ c hm => Mem.wf_setByte c.1 c.2 hm) cs h

theorem Mem.wf_writePoison {m : Mem} (ks : List Nat) (h : m.wf = true) : (m.writePoison ks).wf = true :=
  foldl_keeps (P := fun m : Mem => m.wf = true) (fun _ k hm => Mem.wf_setPoison k true hm) ks h

theorem Mem.wf_write {m : Mem} (cs : List (Nat × Byte)) (h : m.wf = true) : (m.write cs).wf = true :=
  Mem.wf_setCells _ (foldl_keeps (P := fun m : Mem => m.wf = true) (fun _ u hm => Mem.wf_setPoison u false hm) _ h)

theorem Mem.wf_carry {m : Mem} (old : Mem) (src dst : List Nat) (h : m.wf = true) : (m.carry old src dst).wf = true := by
  unfold Mem.carry
  split
  · exact h
  · exact Mem.wf_writePoison _ h

theorem Image.wf_regWrite (im : Image) {m : Mem} (i o : Nat) (bs : List Byte) (h : m.wf = true) : (im.regWrite m i o bs).wf = true :=
  Mem.wf_write _ h

theorem BlockAt.wf_writeF32 (im : Image) {m : Mem} (b : BlockAt) (region off : Nat) (xs : List F32) (h : m.wf = true) :
    (b.writeF32 im m region off xs).wf = true :=
  Mem.wf_write _ h

theorem RowSet.wf_write (im : Image) (r : RowSet) {m : Mem} (h : m.wf = true) : (r.write im m).wf = true := by
  unfold RowSet.write
  exact im.wf_regWrite _ _ _ (foldl_keeps (P := fun m : Mem => m.wf = true) (fun _ _ hm => im.wf_regWrite _ _ _ hm) _ h)

theorem Image.wf_queueWrite (im : Image) {m : Mem} (g : Nat) (xs : List F32) (h : m.wf = true) : (im.queueWrite m g xs).wf = true := by
  unfold Image.queueWrite; exact im.wf_regWrite _ _ _ h

theorem Image.wf_writePreloads (im : Image) {m : Mem} (p : Nat) (ok : EdgeRec → Bool) (h : m.wf = true) : (im.writePreloads m p ok).wf = true := by
  refine foldl_keeps (P := fun m : Mem => m.wf = true) (fun m r hm => ?_) _ h
  split
  · split
    · exact Mem.wf_write _ hm
    · exact hm
  · exact hm

theorem Image.wf_writeReports (im : Image) {m : Mem} (step : Nat) (ab : Bool) (t : Sites) (h : m.wf = true) :
    (im.writeReports m step ab t).wf = true := by
  unfold Image.writeReports
  split
  · exact h
  · exact foldl_keeps (P := fun m : Mem => m.wf = true) (fun _ _ hm => im.wf_regWrite _ _ _ hm) _ h

theorem Image.wf_accumulate (im : Image) {m : Mem} (step member mb g : Nat) (xs : List ((Nat × Nat) × F32)) (h : m.wf = true) :
    (im.accumulate m step member mb g xs).1.wf = true := by
  exact Mem.wf_write _ h

theorem Image.wf_rebuildCopy (im : Image) {m : Mem} (g gen : Nat) (h : m.wf = true) : (im.rebuildCopy m g gen).1.wf = true := by
  unfold Image.rebuildCopy
  dsimp only
  split
  · exact im.wf_regWrite _ _ _ h
  · exact Mem.wf_writePoison _ (im.wf_regWrite _ _ _ h)

theorem Mem.wf_ite {c : Prop} [Decidable c] {a b : Mem} (ha : a.wf = true) (hb : b.wf = true) : (if c then a else b).wf = true := by
  split
  · exact ha
  · exact hb

theorem Image.wf_updateBlock (im : Image) {m : Mem} (g gen st : Nat) (lr : F32) (gu : List F32) (h : m.wf = true) :
    (im.updateBlock m g gen st lr gu).1.wf = true := by
  have h1 := fun xs => (im.block g).wf_writeF32 im (im.block g).t.master 0 xs h
  have h2 := fun xs ys => (im.block g).wf_writeF32 im (im.block g).t.state (im.block g).t.stateOff ys (h1 xs)
  exact im.wf_regWrite _ _ _ (Mem.wf_ite ((im.block g).wf_writeF32 im _ _ _ (h2 _ _)) (h2 _ _))

/-- The memory of a conditional import. -/
theorem Mem.wf_fst_ite {c : Prop} [Decidable c] {a b : Mem × Upd} (ha : a.1.wf = true) (hb : b.1.wf = true) : (if c then a else b).1.wf = true := by
  split
  · exact ha
  · exact hb

theorem Image.wf_importBlock (im : Image) (contents : Nat) {mu : Mem × Upd} (r : BlockRec) (h : mu.1.wf = true) :
    (im.importBlock contents mu r).1.wf = true := by
  have h1 := fun (c : Bool) xs => Mem.wf_ite (c := c = true) ((im.block r.block).wf_writeF32 im (im.block r.block).t.master 0 xs h) h
  have h2 := fun (c d : Bool) xs (l : List Nat) (w : Nat → List F32) (o : Nat → Nat) =>
    Mem.wf_ite (c := d = true) (foldl_keeps (P := fun m : Mem => m.wf = true)
      (f := fun m a => (im.block r.block).writeF32 im m (im.block r.block).t.state (o a) (w a))
      (fun _ a hm => (im.block r.block).wf_writeF32 im _ _ _ hm) l (h1 c xs)) (h1 c xs)
  have h3 := fun (c d e : Bool) xs l w o (bs : List Byte) =>
    Mem.wf_ite (c := e = true) (im.wf_regWrite (im.block r.block).t.copy ((im.block r.block).copyOff r.gen) bs (h2 c d xs l w o)) (h2 c d xs l w o)
  have h4 := fun (x : Mem) xs (hx : x.wf = true) => im.wf_queueWrite r.block xs hx
  obtain ⟨m, u⟩ := mu
  simp only [Image.importBlock]
  generalize im.queueWrite = q at h4 ⊢
  refine Mem.wf_fst_ite ?_ ?_
  · exact h4 _ _ (h3 _ _ _ _ _ _ _ _)
  · exact h3 _ _ _ _ _ _ _ _

/-- A write to host memory keeps its canonical form. -/
theorem Hif.wf_writeMem (x : Hif) (a : Nat) (bs : List Byte) (h : Sparse.wf (0 : Byte) x.mem = true) :
    Sparse.wf (0 : Byte) (x.writeMem a bs).mem = true :=
  foldl_keeps (P := fun m : Sparse Byte => Sparse.wf (0 : Byte) m = true) (fun _ _ hm => Sparse.wf_set _ _ hm) _ h

end Sys2Proof.Machine
end

