-- ==== Sys2Proof/Laws/State.lean ====
section
/-! SUPPORT. What each named update of the state leaves in each field. -/

namespace Sys2Proof.Machine

/-- A draw only advances the counter of free values. -/
@[simp] theorem State.drawn_fields (s : State) (n : Nat) :
    (s.drawn n).pending = s.pending ∧ (s.drawn n).ctl = s.ctl ∧ (s.drawn n).rst = s.rst ∧ (s.drawn n).pins = s.pins ∧ (s.drawn n).mgmt = s.mgmt ∧
    (s.drawn n).hif = s.hif ∧ (s.drawn n).tmr = s.tmr ∧ (s.drawn n).lnk = s.lnk ∧ (s.drawn n).gx = s.gx ∧ (s.drawn n).upd = s.upd ∧
    (s.drawn n).sites = s.sites ∧ (s.drawn n).adm = s.adm ∧ (s.drawn n).fab = s.fab ∧ (s.drawn n).sync = s.sync ∧ (s.drawn n).inp = s.inp ∧
    (s.drawn n).mem = s.mem ∧ (s.drawn n).memr = s.memr ∧ (s.drawn n).sec = s.sec ∧ (s.drawn n).flt = s.flt ∧ (s.drawn n).pwr = s.pwr ∧
    (s.drawn n).img = s.img ∧ (s.drawn n).flash = s.flash ∧ (s.drawn n).free = s.free + n :=
  by and_intros <;> rfl

/-- What both kinds of reset clear. -/
@[simp] theorem State.clearCommon_fields (s : State) :
    s.clearCommon.pending = s.pending ∧ s.clearCommon.rst = s.rst ∧ s.clearCommon.pins = s.pins ∧ s.clearCommon.hif = s.hif ∧
    s.clearCommon.tmr = s.tmr ∧ s.clearCommon.lnk = s.lnk ∧ s.clearCommon.mem = s.mem ∧ s.clearCommon.memr = s.memr ∧ s.clearCommon.flt = s.flt ∧
    s.clearCommon.pwr = s.pwr ∧ s.clearCommon.flash = s.flash ∧ s.clearCommon.free = s.free ∧ s.clearCommon.ctl = { state := .reset } ∧
    s.clearCommon.inp = {} ∧ s.clearCommon.fab = {} ∧ s.clearCommon.gx = {} ∧ s.clearCommon.upd = s.upd.aux ∧ s.clearCommon.sites = [] ∧
    s.clearCommon.adm = {} ∧ s.clearCommon.sync = {} ∧ s.clearCommon.sec = s.sec.resetKeep ∧ s.clearCommon.img = none :=
  by and_intros <;> rfl

/-- A cold reset keeps the fuses, the reset causes, power accounting and what left the device. -/
@[simp] theorem State.clearCold_fields (s : State) :
    s.clearCold.pending = s.pending ∧ s.clearCold.pins = s.pins ∧ s.clearCold.mem = s.mem ∧ s.clearCold.flash = s.flash ∧ s.clearCold.free = s.free ∧
    s.clearCold.ctl = { state := .reset } ∧ s.clearCold.img = none ∧ s.clearCold.sec = s.sec.resetKeep ∧ s.clearCold.upd = s.upd.aux ∧
    s.clearCold.hif.mem = s.hif.mem ∧ s.clearCold.hif.out = s.hif.out ∧ s.clearCold.lnk.out = s.lnk.out ∧ s.clearCold.pwr.res = s.pwr.res ∧
    s.clearCold.rst.cause = s.rst.cause ∧ s.clearCold.rst.active = s.rst.active ∧ s.clearCold.rst.latched = s.rst.latched :=
  by and_intros <;> rfl

/-- A warm reset keeps the fuses, the reset causes, power accounting and what left the device. -/
@[simp] theorem State.clearWarm_fields (s : State) :
    s.clearWarm.pending = s.pending ∧ s.clearWarm.pins = s.pins ∧ s.clearWarm.mem = s.mem ∧ s.clearWarm.flash = s.flash ∧ s.clearWarm.free = s.free ∧
    s.clearWarm.ctl = { state := .reset } ∧ s.clearWarm.img = none ∧ s.clearWarm.sec = s.sec.resetKeep ∧ s.clearWarm.upd = s.upd.aux ∧
    s.clearWarm.hif.mem = s.hif.mem ∧ s.clearWarm.hif.out = s.hif.out ∧ s.clearWarm.lnk.out = s.lnk.out ∧ s.clearWarm.pwr.res = s.pwr.res ∧
    s.clearWarm.rst.cause = s.rst.cause ∧ s.clearWarm.rst.active = s.rst.active ∧ s.clearWarm.rst.latched = s.rst.latched :=
  by and_intros <;> rfl

/-- What either kind of reset keeps and clears. -/
@[simp] theorem State.clearFor_fields (s : State) :
    s.clearFor.pending = s.pending ∧ s.clearFor.pins = s.pins ∧ s.clearFor.mem = s.mem ∧ s.clearFor.flash = s.flash ∧ s.clearFor.free = s.free ∧
    s.clearFor.hif.mem = s.hif.mem ∧ s.clearFor.hif.out = s.hif.out ∧ s.clearFor.lnk.out = s.lnk.out ∧ s.clearFor.pwr.res = s.pwr.res ∧
    s.clearFor.rst.cause = s.rst.cause ∧ s.clearFor.rst.active = s.rst.active ∧ s.clearFor.rst.latched = s.rst.latched ∧
    s.clearFor.ctl = { state := .reset } ∧ s.clearFor.img = none ∧ s.clearFor.sec = s.sec.resetKeep ∧ s.clearFor.upd = s.upd.aux := by
  unfold State.clearFor; split <;> simp

/-- Power removal keeps the fuses, the flash and the auxiliary domain. -/
@[simp] theorem State.powerDown_fields (s : State) :
    s.powerDown.pending = s.pending ∧ s.powerDown.pins = s.pins ∧ s.powerDown.flash = s.flash ∧ s.powerDown.free = s.free ∧
    s.powerDown.ctl = { state := .off } ∧ s.powerDown.img = none ∧ s.powerDown.sec = { fuses := s.sec.fuses, verified := false } ∧ s.powerDown.mem = {} ∧
    s.powerDown.upd = s.upd.aux ∧ s.powerDown.hif.mem = s.hif.mem ∧ s.powerDown.pwr.res = s.pwr.res ∧ s.powerDown.rst.cause = s.rst.cause :=
  by and_intros <;> rfl

/-- A reset keeps what its source keeps: the fuses and the alarm record. -/
@[simp] theorem Sec.resetKeep_fields (x : Sec) :
    x.resetKeep.fuses = x.fuses ∧ x.resetKeep.valid = x.valid ∧ x.resetKeep.sources = x.sources ∧ x.resetKeep.first = x.first ∧
    x.resetKeep.blow = [] := ⟨rfl, rfl, rfl, rfl, rfl⟩

end Sys2Proof.Machine
end

