-- ==== Sys2Proof/Laws/Ops.lean ====
section
/-! SUPPORT. What each shared operation leaves alone, and that each keeps the memories canonical. -/

namespace Sys2Proof.Machine

set_option Elab.async false

/-- An event only writes the event queue. -/
@[simp] theorem State.event_keeps (s : State) (type detail : Nat) (r0 r1 r2 : W64) :
    (s.event type detail r0 r1 r2).pending = s.pending ∧ (s.event type detail r0 r1 r2).ctl = s.ctl ∧ (s.event type detail r0 r1 r2).rst = s.rst ∧
    (s.event type detail r0 r1 r2).pins = s.pins ∧ (s.event type detail r0 r1 r2).mgmt = s.mgmt ∧ (s.event type detail r0 r1 r2).tmr = s.tmr ∧
    (s.event type detail r0 r1 r2).lnk = s.lnk ∧ (s.event type detail r0 r1 r2).gx = s.gx ∧ (s.event type detail r0 r1 r2).upd = s.upd ∧
    (s.event type detail r0 r1 r2).sites = s.sites ∧ (s.event type detail r0 r1 r2).adm = s.adm ∧ (s.event type detail r0 r1 r2).fab = s.fab ∧
    (s.event type detail r0 r1 r2).sync = s.sync ∧ (s.event type detail r0 r1 r2).inp = s.inp ∧ (s.event type detail r0 r1 r2).mem = s.mem ∧
    (s.event type detail r0 r1 r2).memr = s.memr ∧ (s.event type detail r0 r1 r2).sec = s.sec ∧ (s.event type detail r0 r1 r2).flt = s.flt ∧
    (s.event type detail r0 r1 r2).pwr = s.pwr ∧ (s.event type detail r0 r1 r2).img = s.img ∧ (s.event type detail r0 r1 r2).flash = s.flash ∧
    (s.event type detail r0 r1 r2).free = s.free := by
  unfold State.event; split <;> simp

/-- A change of state only changes the CTL block and posts an event. -/
@[simp] theorem State.goto_keeps (s : State) (d : Dev) :
    (s.goto d).pending = s.pending ∧ (s.goto d).rst = s.rst ∧ (s.goto d).pins = s.pins ∧ (s.goto d).mgmt = s.mgmt ∧ (s.goto d).tmr = s.tmr ∧
    (s.goto d).lnk = s.lnk ∧ (s.goto d).gx = s.gx ∧ (s.goto d).upd = s.upd ∧ (s.goto d).sites = s.sites ∧ (s.goto d).adm = s.adm ∧
    (s.goto d).fab = s.fab ∧ (s.goto d).sync = s.sync ∧ (s.goto d).inp = s.inp ∧ (s.goto d).mem = s.mem ∧ (s.goto d).memr = s.memr ∧
    (s.goto d).sec = s.sec ∧ (s.goto d).flt = s.flt ∧ (s.goto d).pwr = s.pwr ∧ (s.goto d).img = s.img ∧ (s.goto d).flash = s.flash ∧
    (s.goto d).free = s.free := by
  unfold State.goto; dsimp only; split
  · simp
  · split <;> simp

/-- A completion only writes its queue. -/
@[simp] theorem State.complete_keeps (s : State) (e : Entry) (code : Code) (detail : Nat) (r0 r1 r2 : W64) :
    (s.complete e code detail r0 r1 r2).pending = s.pending ∧ (s.complete e code detail r0 r1 r2).ctl = s.ctl ∧
    (s.complete e code detail r0 r1 r2).rst = s.rst ∧ (s.complete e code detail r0 r1 r2).pins = s.pins ∧
    (s.complete e code detail r0 r1 r2).mgmt = s.mgmt ∧ (s.complete e code detail r0 r1 r2).tmr = s.tmr ∧
    (s.complete e code detail r0 r1 r2).lnk = s.lnk ∧ (s.complete e code detail r0 r1 r2).gx = s.gx ∧
    (s.complete e code detail r0 r1 r2).upd = s.upd ∧ (s.complete e code detail r0 r1 r2).sites = s.sites ∧
    (s.complete e code detail r0 r1 r2).adm = s.adm ∧ (s.complete e code detail r0 r1 r2).fab = s.fab ∧
    (s.complete e code detail r0 r1 r2).sync = s.sync ∧ (s.complete e code detail r0 r1 r2).inp = s.inp ∧
    (s.complete e code detail r0 r1 r2).mem = s.mem ∧ (s.complete e code detail r0 r1 r2).memr = s.memr ∧
    (s.complete e code detail r0 r1 r2).sec = s.sec ∧ (s.complete e code detail r0 r1 r2).flt = s.flt ∧
    (s.complete e code detail r0 r1 r2).pwr = s.pwr ∧ (s.complete e code detail r0 r1 r2).img = s.img ∧
    (s.complete e code detail r0 r1 r2).flash = s.flash ∧ (s.complete e code detail r0 r1 r2).free = s.free := by
  unfold State.complete; split <;> simp

/-- Entries that complete only write their queues. -/
@[simp] theorem State.completeAll_keeps (s : State) (l : List Entry) (code : Code) :
    (s.completeAll l code).pending = s.pending ∧ (s.completeAll l code).ctl = s.ctl ∧ (s.completeAll l code).rst = s.rst ∧
    (s.completeAll l code).pins = s.pins ∧ (s.completeAll l code).mgmt = s.mgmt ∧ (s.completeAll l code).tmr = s.tmr ∧
    (s.completeAll l code).lnk = s.lnk ∧ (s.completeAll l code).gx = s.gx ∧ (s.completeAll l code).upd = s.upd ∧
    (s.completeAll l code).sites = s.sites ∧ (s.completeAll l code).adm = s.adm ∧ (s.completeAll l code).fab = s.fab ∧
    (s.completeAll l code).sync = s.sync ∧ (s.completeAll l code).inp = s.inp ∧ (s.completeAll l code).mem = s.mem ∧
    (s.completeAll l code).memr = s.memr ∧ (s.completeAll l code).sec = s.sec ∧ (s.completeAll l code).flt = s.flt ∧
    (s.completeAll l code).pwr = s.pwr ∧ (s.completeAll l code).img = s.img ∧ (s.completeAll l code).flash = s.flash ∧
    (s.completeAll l code).free = s.free := by
  exact foldl_keeps (P := (fun t : State => t.pending = s.pending ∧ t.ctl = s.ctl ∧ t.rst = s.rst ∧ t.pins = s.pins ∧ t.mgmt = s.mgmt ∧ t.tmr = s.tmr ∧ t.lnk = s.lnk ∧ t.gx = s.gx ∧ t.upd = s.upd ∧ t.sites = s.sites ∧ t.adm = s.adm ∧ t.fab = s.fab ∧ t.sync = s.sync ∧ t.inp = s.inp ∧ t.mem = s.mem ∧ t.memr = s.memr ∧ t.sec = s.sec ∧ t.flt = s.flt ∧ t.pwr = s.pwr ∧ t.img = s.img ∧ t.flash = s.flash ∧ t.free = s.free))
    (fun t x ht => by simpa using ht) l (by simp)

/-- An entry that finishes only leaves its queue. -/
@[simp] theorem State.finish_keeps (s : State) (i : Nat) (code : Code) (detail : Nat) (r0 r1 r2 : W64) :
    (s.finish i code detail r0 r1 r2).pending = s.pending ∧ (s.finish i code detail r0 r1 r2).ctl = s.ctl ∧
    (s.finish i code detail r0 r1 r2).rst = s.rst ∧ (s.finish i code detail r0 r1 r2).pins = s.pins ∧
    (s.finish i code detail r0 r1 r2).mgmt = s.mgmt ∧ (s.finish i code detail r0 r1 r2).tmr = s.tmr ∧ (s.finish i code detail r0 r1 r2).lnk = s.lnk ∧
    (s.finish i code detail r0 r1 r2).gx = s.gx ∧ (s.finish i code detail r0 r1 r2).upd = s.upd ∧ (s.finish i code detail r0 r1 r2).sites = s.sites ∧
    (s.finish i code detail r0 r1 r2).adm = s.adm ∧ (s.finish i code detail r0 r1 r2).fab = s.fab ∧ (s.finish i code detail r0 r1 r2).sync = s.sync ∧
    (s.finish i code detail r0 r1 r2).inp = s.inp ∧ (s.finish i code detail r0 r1 r2).mem = s.mem ∧ (s.finish i code detail r0 r1 r2).memr = s.memr ∧
    (s.finish i code detail r0 r1 r2).sec = s.sec ∧ (s.finish i code detail r0 r1 r2).flt = s.flt ∧ (s.finish i code detail r0 r1 r2).pwr = s.pwr ∧
    (s.finish i code detail r0 r1 r2).img = s.img ∧ (s.finish i code detail r0 r1 r2).flash = s.flash ∧
    (s.finish i code detail r0 r1 r2).free = s.free := by
  unfold State.finish; split <;> simp

/-- A sample completion only writes its queue. -/
@[simp] theorem State.sampleDone_keeps (s : State) (d : SampleDone) :
    (s.sampleDone d).pending = s.pending ∧ (s.sampleDone d).ctl = s.ctl ∧ (s.sampleDone d).rst = s.rst ∧ (s.sampleDone d).pins = s.pins ∧
    (s.sampleDone d).mgmt = s.mgmt ∧ (s.sampleDone d).tmr = s.tmr ∧ (s.sampleDone d).lnk = s.lnk ∧ (s.sampleDone d).gx = s.gx ∧
    (s.sampleDone d).upd = s.upd ∧ (s.sampleDone d).sites = s.sites ∧ (s.sampleDone d).adm = s.adm ∧ (s.sampleDone d).fab = s.fab ∧
    (s.sampleDone d).sync = s.sync ∧ (s.sampleDone d).inp = s.inp ∧ (s.sampleDone d).mem = s.mem ∧ (s.sampleDone d).memr = s.memr ∧
    (s.sampleDone d).sec = s.sec ∧ (s.sampleDone d).flt = s.flt ∧ (s.sampleDone d).pwr = s.pwr ∧ (s.sampleDone d).img = s.img ∧
    (s.sampleDone d).flash = s.flash ∧ (s.sampleDone d).free = s.free := by
  simp [State.sampleDone]

/-- Sample completions only write their queue. -/
@[simp] theorem State.samplesDone_keeps (s : State) (l : List SampleDone) :
    (s.samplesDone l).pending = s.pending ∧ (s.samplesDone l).ctl = s.ctl ∧ (s.samplesDone l).rst = s.rst ∧ (s.samplesDone l).pins = s.pins ∧
    (s.samplesDone l).mgmt = s.mgmt ∧ (s.samplesDone l).tmr = s.tmr ∧ (s.samplesDone l).lnk = s.lnk ∧ (s.samplesDone l).gx = s.gx ∧
    (s.samplesDone l).upd = s.upd ∧ (s.samplesDone l).sites = s.sites ∧ (s.samplesDone l).adm = s.adm ∧ (s.samplesDone l).fab = s.fab ∧
    (s.samplesDone l).sync = s.sync ∧ (s.samplesDone l).inp = s.inp ∧ (s.samplesDone l).mem = s.mem ∧ (s.samplesDone l).memr = s.memr ∧
    (s.samplesDone l).sec = s.sec ∧ (s.samplesDone l).flt = s.flt ∧ (s.samplesDone l).pwr = s.pwr ∧ (s.samplesDone l).img = s.img ∧
    (s.samplesDone l).flash = s.flash ∧ (s.samplesDone l).free = s.free := by
  induction l generalizing s with
  | nil => simp [State.samplesDone]
  | cons d r ih => simpa [State.samplesDone] using ih (s.sampleDone d)

/-- A change of the TMR block only changes it and posts an event. -/
@[simp] theorem State.setTmr_keeps (s : State) (t : Tmr) :
    (s.setTmr t).pending = s.pending ∧ (s.setTmr t).ctl = s.ctl ∧ (s.setTmr t).rst = s.rst ∧ (s.setTmr t).pins = s.pins ∧
    (s.setTmr t).mgmt = s.mgmt ∧ (s.setTmr t).lnk = s.lnk ∧ (s.setTmr t).gx = s.gx ∧ (s.setTmr t).upd = s.upd ∧ (s.setTmr t).sites = s.sites ∧
    (s.setTmr t).adm = s.adm ∧ (s.setTmr t).fab = s.fab ∧ (s.setTmr t).sync = s.sync ∧ (s.setTmr t).inp = s.inp ∧ (s.setTmr t).mem = s.mem ∧
    (s.setTmr t).memr = s.memr ∧ (s.setTmr t).sec = s.sec ∧ (s.setTmr t).flt = s.flt ∧ (s.setTmr t).pwr = s.pwr ∧ (s.setTmr t).img = s.img ∧
    (s.setTmr t).flash = s.flash ∧ (s.setTmr t).free = s.free := by
  unfold State.setTmr; dsimp only; split <;> simp

/-- A change of the GX block only changes it and posts an event. -/
@[simp] theorem State.setGx_keeps (s : State) (x : Gx) :
    (s.setGx x).pending = s.pending ∧ (s.setGx x).ctl = s.ctl ∧ (s.setGx x).rst = s.rst ∧ (s.setGx x).pins = s.pins ∧ (s.setGx x).mgmt = s.mgmt ∧
    (s.setGx x).tmr = s.tmr ∧ (s.setGx x).lnk = s.lnk ∧ (s.setGx x).upd = s.upd ∧ (s.setGx x).sites = s.sites ∧ (s.setGx x).adm = s.adm ∧
    (s.setGx x).fab = s.fab ∧ (s.setGx x).sync = s.sync ∧ (s.setGx x).inp = s.inp ∧ (s.setGx x).mem = s.mem ∧ (s.setGx x).memr = s.memr ∧
    (s.setGx x).sec = s.sec ∧ (s.setGx x).flt = s.flt ∧ (s.setGx x).pwr = s.pwr ∧ (s.setGx x).img = s.img ∧ (s.setGx x).flash = s.flash ∧
    (s.setGx x).free = s.free := by
  unfold State.setGx; dsimp only; split <;> simp

/-- A report only changes the FLT block. -/
@[simp] theorem State.report_keeps (s : State) (r : Report) :
    (s.report r).pending = s.pending ∧ (s.report r).ctl = s.ctl ∧ (s.report r).rst = s.rst ∧ (s.report r).pins = s.pins ∧
    (s.report r).mgmt = s.mgmt ∧ (s.report r).hif = s.hif ∧ (s.report r).tmr = s.tmr ∧ (s.report r).lnk = s.lnk ∧ (s.report r).gx = s.gx ∧
    (s.report r).upd = s.upd ∧ (s.report r).sites = s.sites ∧ (s.report r).adm = s.adm ∧ (s.report r).fab = s.fab ∧ (s.report r).sync = s.sync ∧
    (s.report r).inp = s.inp ∧ (s.report r).mem = s.mem ∧ (s.report r).memr = s.memr ∧ (s.report r).sec = s.sec ∧ (s.report r).pwr = s.pwr ∧
    (s.report r).img = s.img ∧ (s.report r).flash = s.flash ∧ (s.report r).free = s.free := by
  unfold State.report; split <;> simp

/-- A servo that loses its source changes the TMR block, posts an event and draws one value. -/
@[simp] theorem State.loseSource_keeps (s : State) :
    s.loseSource.pending = s.pending ∧ s.loseSource.ctl = s.ctl ∧ s.loseSource.rst = s.rst ∧ s.loseSource.pins = s.pins ∧
    s.loseSource.mgmt = s.mgmt ∧ s.loseSource.lnk = s.lnk ∧ s.loseSource.gx = s.gx ∧ s.loseSource.upd = s.upd ∧ s.loseSource.sites = s.sites ∧
    s.loseSource.adm = s.adm ∧ s.loseSource.fab = s.fab ∧ s.loseSource.sync = s.sync ∧ s.loseSource.inp = s.inp ∧ s.loseSource.mem = s.mem ∧
    s.loseSource.memr = s.memr ∧ s.loseSource.sec = s.sec ∧ s.loseSource.flt = s.flt ∧ s.loseSource.pwr = s.pwr ∧ s.loseSource.img = s.img ∧
    s.loseSource.flash = s.flash := by
  simp [State.loseSource, State.drawn]

/-- A change of the LNK block changes it, reports ports that fell and may cost the servo its source. -/
@[simp] theorem State.setLnk_keeps (s : State) (l : Lnk) (lane : Nat) :
    (s.setLnk l lane).pending = s.pending ∧ (s.setLnk l lane).ctl = s.ctl ∧ (s.setLnk l lane).rst = s.rst ∧ (s.setLnk l lane).pins = s.pins ∧
    (s.setLnk l lane).mgmt = s.mgmt ∧ (s.setLnk l lane).gx = s.gx ∧ (s.setLnk l lane).upd = s.upd ∧ (s.setLnk l lane).sites = s.sites ∧ (s.setLnk l lane).adm = s.adm ∧
    (s.setLnk l lane).fab = s.fab ∧ (s.setLnk l lane).sync = s.sync ∧ (s.setLnk l lane).inp = s.inp ∧ (s.setLnk l lane).mem = s.mem ∧ (s.setLnk l lane).memr = s.memr ∧
    (s.setLnk l lane).sec = s.sec ∧ (s.setLnk l lane).pwr = s.pwr ∧ (s.setLnk l lane).img = s.img ∧ (s.setLnk l lane).flash = s.flash := by
  have h := fun (s : State) (l : Lnk) (is : List Nat) => foldl_keeps
    (f := fun (s : State) (i : Nat) => s.report { cls := .link, sev := .contained, unit := i, sub := lane, detail := (l.port.at i).downReason.toNat }) (a := s)
    (P := (fun t : State => t.pending = s.pending ∧ t.ctl = s.ctl ∧ t.rst = s.rst ∧ t.pins = s.pins ∧ t.mgmt = s.mgmt ∧ t.gx = s.gx ∧ t.upd = s.upd ∧ t.sites = s.sites ∧ t.adm = s.adm ∧ t.fab = s.fab ∧ t.sync = s.sync ∧ t.inp = s.inp ∧ t.mem = s.mem ∧ t.memr = s.memr ∧ t.sec = s.sec ∧ t.pwr = s.pwr ∧ t.img = s.img ∧ t.flash = s.flash))
    (fun t x ht => by simpa using ht) is (by simp)
  unfold State.setLnk; dsimp only
  split <;> simp [h]

/-- A corrected error counts in its tile or in the MEM block and is reported. -/
@[simp] theorem State.corrected_keeps (s : State) (k addr : Nat) (inj : Bool) :
    (s.corrected k addr inj).pending = s.pending ∧ (s.corrected k addr inj).ctl = s.ctl ∧ (s.corrected k addr inj).rst = s.rst ∧ (s.corrected k addr inj).pins = s.pins ∧
    (s.corrected k addr inj).mgmt = s.mgmt ∧ (s.corrected k addr inj).hif = s.hif ∧ (s.corrected k addr inj).tmr = s.tmr ∧ (s.corrected k addr inj).lnk = s.lnk ∧
    (s.corrected k addr inj).gx = s.gx ∧ (s.corrected k addr inj).upd = s.upd ∧ (s.corrected k addr inj).sites = s.sites ∧ (s.corrected k addr inj).adm = s.adm ∧
    (s.corrected k addr inj).sync = s.sync ∧ (s.corrected k addr inj).inp = s.inp ∧ (s.corrected k addr inj).mem = s.mem ∧ (s.corrected k addr inj).sec = s.sec ∧
    (s.corrected k addr inj).pwr = s.pwr ∧ (s.corrected k addr inj).img = s.img ∧ (s.corrected k addr inj).flash = s.flash ∧ (s.corrected k addr inj).free = s.free := by
  unfold State.corrected; dsimp only; split <;> simp

/-- An uncorrectable error is counted, marked, recorded and reported. -/
@[simp] theorem State.uncorrected_keeps (s : State) (k addr source : Nat) (stopped abandon inj : Bool) :
    (s.uncorrected k addr source stopped abandon inj).pending = s.pending ∧ (s.uncorrected k addr source stopped abandon inj).ctl = s.ctl ∧
    (s.uncorrected k addr source stopped abandon inj).rst = s.rst ∧ (s.uncorrected k addr source stopped abandon inj).pins = s.pins ∧
    (s.uncorrected k addr source stopped abandon inj).mgmt = s.mgmt ∧ (s.uncorrected k addr source stopped abandon inj).hif = s.hif ∧
    (s.uncorrected k addr source stopped abandon inj).tmr = s.tmr ∧ (s.uncorrected k addr source stopped abandon inj).lnk = s.lnk ∧
    (s.uncorrected k addr source stopped abandon inj).gx = s.gx ∧ (s.uncorrected k addr source stopped abandon inj).upd = s.upd ∧
    (s.uncorrected k addr source stopped abandon inj).sites = s.sites ∧ (s.uncorrected k addr source stopped abandon inj).adm = s.adm ∧
    (s.uncorrected k addr source stopped abandon inj).sync = s.sync ∧ (s.uncorrected k addr source stopped abandon inj).inp = s.inp ∧
    (s.uncorrected k addr source stopped abandon inj).sec = s.sec ∧ (s.uncorrected k addr source stopped abandon inj).pwr = s.pwr ∧
    (s.uncorrected k addr source stopped abandon inj).img = s.img ∧ (s.uncorrected k addr source stopped abandon inj).flash = s.flash ∧
    (s.uncorrected k addr source stopped abandon inj).free = s.free := by
  unfold State.uncorrected; dsimp only; split <;> split <;> simp

/-- A unit read with wrong symbols changes what the error changes. -/
@[simp] theorem State.meetErr_keeps (s : State) (k addr : Nat) (hits : List Nat) (source : Nat) (stopped abandon inj : Bool) :
    (s.meetErr k addr hits source stopped abandon inj).1.pending = s.pending ∧ (s.meetErr k addr hits source stopped abandon inj).1.ctl = s.ctl ∧ (s.meetErr k addr hits source stopped abandon inj).1.rst = s.rst ∧
    (s.meetErr k addr hits source stopped abandon inj).1.pins = s.pins ∧ (s.meetErr k addr hits source stopped abandon inj).1.mgmt = s.mgmt ∧ (s.meetErr k addr hits source stopped abandon inj).1.hif = s.hif ∧
    (s.meetErr k addr hits source stopped abandon inj).1.tmr = s.tmr ∧ (s.meetErr k addr hits source stopped abandon inj).1.lnk = s.lnk ∧ (s.meetErr k addr hits source stopped abandon inj).1.gx = s.gx ∧
    (s.meetErr k addr hits source stopped abandon inj).1.upd = s.upd ∧ (s.meetErr k addr hits source stopped abandon inj).1.sites = s.sites ∧ (s.meetErr k addr hits source stopped abandon inj).1.adm = s.adm ∧
    (s.meetErr k addr hits source stopped abandon inj).1.sync = s.sync ∧ (s.meetErr k addr hits source stopped abandon inj).1.inp = s.inp ∧ (s.meetErr k addr hits source stopped abandon inj).1.sec = s.sec ∧
    (s.meetErr k addr hits source stopped abandon inj).1.pwr = s.pwr ∧ (s.meetErr k addr hits source stopped abandon inj).1.img = s.img ∧ (s.meetErr k addr hits source stopped abandon inj).1.flash = s.flash ∧
    (s.meetErr k addr hits source stopped abandon inj).1.free = s.free := by
  unfold State.meetErr; split
  · simp
  · split <;> simp

/-- Errors of several units, in turn. -/
@[simp] theorem State.meetErrs_keeps (s : State) (us : List (Nat × List Nat)) (source : Nat) (stopped abandon : Bool) (via : Nat → Nat) (inj : Bool) :
    (s.meetErrs us source stopped abandon via inj).1.pending = s.pending ∧ (s.meetErrs us source stopped abandon via inj).1.ctl = s.ctl ∧ (s.meetErrs us source stopped abandon via inj).1.rst = s.rst ∧
    (s.meetErrs us source stopped abandon via inj).1.pins = s.pins ∧ (s.meetErrs us source stopped abandon via inj).1.mgmt = s.mgmt ∧ (s.meetErrs us source stopped abandon via inj).1.hif = s.hif ∧
    (s.meetErrs us source stopped abandon via inj).1.tmr = s.tmr ∧ (s.meetErrs us source stopped abandon via inj).1.lnk = s.lnk ∧ (s.meetErrs us source stopped abandon via inj).1.gx = s.gx ∧
    (s.meetErrs us source stopped abandon via inj).1.upd = s.upd ∧ (s.meetErrs us source stopped abandon via inj).1.sites = s.sites ∧ (s.meetErrs us source stopped abandon via inj).1.adm = s.adm ∧
    (s.meetErrs us source stopped abandon via inj).1.sync = s.sync ∧ (s.meetErrs us source stopped abandon via inj).1.inp = s.inp ∧ (s.meetErrs us source stopped abandon via inj).1.sec = s.sec ∧
    (s.meetErrs us source stopped abandon via inj).1.pwr = s.pwr ∧ (s.meetErrs us source stopped abandon via inj).1.img = s.img ∧ (s.meetErrs us source stopped abandon via inj).1.flash = s.flash ∧
    (s.meetErrs us source stopped abandon via inj).1.free = s.free :=
  foldl_keeps (f := fun (r : State × Bool) (u : Nat × List Nat) =>
      ((r.1.meetErr u.1 (via u.1) u.2 source stopped abandon inj).1, r.2 || (r.1.meetErr u.1 (via u.1) u.2 source stopped abandon inj).2)) (a := (s, false))
    (P := (fun r : State × Bool => r.1.pending = s.pending ∧ r.1.ctl = s.ctl ∧ r.1.rst = s.rst ∧ r.1.pins = s.pins ∧ r.1.mgmt = s.mgmt ∧ r.1.hif = s.hif ∧ r.1.tmr = s.tmr ∧ r.1.lnk = s.lnk ∧ r.1.gx = s.gx ∧ r.1.upd = s.upd ∧ r.1.sites = s.sites ∧ r.1.adm = s.adm ∧ r.1.sync = s.sync ∧ r.1.inp = s.inp ∧ r.1.sec = s.sec ∧ r.1.pwr = s.pwr ∧ r.1.img = s.img ∧ r.1.flash = s.flash ∧ r.1.free = s.free))
    (fun r u h => by simpa using h) us (by simp)

/-- A checked read changes what the errors it meets change. -/
@[simp] theorem State.eccRead_keeps (s : State) (ks : List Nat) (e : Ecc) (source : Nat) (stopped abandon : Bool) (via : Nat → Nat) (inject : Bool) :
    (s.eccRead ks e source stopped abandon via inject).1.pending = s.pending ∧ (s.eccRead ks e source stopped abandon via inject).1.ctl = s.ctl ∧ (s.eccRead ks e source stopped abandon via inject).1.rst = s.rst ∧
    (s.eccRead ks e source stopped abandon via inject).1.pins = s.pins ∧ (s.eccRead ks e source stopped abandon via inject).1.mgmt = s.mgmt ∧ (s.eccRead ks e source stopped abandon via inject).1.hif = s.hif ∧
    (s.eccRead ks e source stopped abandon via inject).1.tmr = s.tmr ∧ (s.eccRead ks e source stopped abandon via inject).1.lnk = s.lnk ∧ (s.eccRead ks e source stopped abandon via inject).1.gx = s.gx ∧
    (s.eccRead ks e source stopped abandon via inject).1.upd = s.upd ∧ (s.eccRead ks e source stopped abandon via inject).1.sites = s.sites ∧ (s.eccRead ks e source stopped abandon via inject).1.adm = s.adm ∧
    (s.eccRead ks e source stopped abandon via inject).1.sync = s.sync ∧ (s.eccRead ks e source stopped abandon via inject).1.inp = s.inp ∧ (s.eccRead ks e source stopped abandon via inject).1.sec = s.sec ∧
    (s.eccRead ks e source stopped abandon via inject).1.pwr = s.pwr ∧ (s.eccRead ks e source stopped abandon via inject).1.img = s.img ∧ (s.eccRead ks e source stopped abandon via inject).1.flash = s.flash ∧
    (s.eccRead ks e source stopped abandon via inject).1.free = s.free := by
  unfold State.eccRead; dsimp only
  split <;> split <;> (and_intros <;> simp only [State.meetErrs_keeps])

/-- An engine's read changes what the errors it meets change. -/
@[simp] theorem State.engineRead_keeps (s : State) (im : Image) (ks : List Nat) (e : Ecc) :
    (s.engineRead im ks e).pending = s.pending ∧ (s.engineRead im ks e).ctl = s.ctl ∧ (s.engineRead im ks e).rst = s.rst ∧
    (s.engineRead im ks e).pins = s.pins ∧ (s.engineRead im ks e).mgmt = s.mgmt ∧ (s.engineRead im ks e).hif = s.hif ∧
    (s.engineRead im ks e).tmr = s.tmr ∧ (s.engineRead im ks e).lnk = s.lnk ∧ (s.engineRead im ks e).gx = s.gx ∧
    (s.engineRead im ks e).upd = s.upd ∧ (s.engineRead im ks e).sites = s.sites ∧ (s.engineRead im ks e).adm = s.adm ∧
    (s.engineRead im ks e).sync = s.sync ∧ (s.engineRead im ks e).inp = s.inp ∧ (s.engineRead im ks e).sec = s.sec ∧
    (s.engineRead im ks e).pwr = s.pwr ∧ (s.engineRead im ks e).img = s.img ∧ (s.engineRead im ks e).flash = s.flash ∧
    (s.engineRead im ks e).free = s.free := by
  unfold State.engineRead; split <;> simp

/-- The order of readiness is kept in the FAB block. -/
@[simp] theorem State.noteReady_keeps (s : State) (ts : List Nat) :
    (s.noteReady ts).pending = s.pending ∧ (s.noteReady ts).ctl = s.ctl ∧ (s.noteReady ts).rst = s.rst ∧ (s.noteReady ts).pins = s.pins ∧
    (s.noteReady ts).mgmt = s.mgmt ∧ (s.noteReady ts).hif = s.hif ∧ (s.noteReady ts).tmr = s.tmr ∧ (s.noteReady ts).lnk = s.lnk ∧
    (s.noteReady ts).gx = s.gx ∧ (s.noteReady ts).upd = s.upd ∧ (s.noteReady ts).sites = s.sites ∧ (s.noteReady ts).adm = s.adm ∧
    (s.noteReady ts).sync = s.sync ∧ (s.noteReady ts).inp = s.inp ∧ (s.noteReady ts).mem = s.mem ∧ (s.noteReady ts).memr = s.memr ∧
    (s.noteReady ts).sec = s.sec ∧ (s.noteReady ts).flt = s.flt ∧ (s.noteReady ts).pwr = s.pwr ∧ (s.noteReady ts).img = s.img ∧
    (s.noteReady ts).flash = s.flash ∧ (s.noteReady ts).free = s.free := by
  unfold State.noteReady; split <;> simp

/-- The same for every tile. -/
@[simp] theorem State.noteAll_keeps (s : State) :
    s.noteAll.pending = s.pending ∧ s.noteAll.ctl = s.ctl ∧ s.noteAll.rst = s.rst ∧ s.noteAll.pins = s.pins ∧
    s.noteAll.mgmt = s.mgmt ∧ s.noteAll.hif = s.hif ∧ s.noteAll.tmr = s.tmr ∧ s.noteAll.lnk = s.lnk ∧
    s.noteAll.gx = s.gx ∧ s.noteAll.upd = s.upd ∧ s.noteAll.sites = s.sites ∧ s.noteAll.adm = s.adm ∧
    s.noteAll.sync = s.sync ∧ s.noteAll.inp = s.inp ∧ s.noteAll.mem = s.mem ∧ s.noteAll.memr = s.memr ∧
    s.noteAll.sec = s.sec ∧ s.noteAll.flt = s.flt ∧ s.noteAll.pwr = s.pwr ∧ s.noteAll.img = s.img ∧
    s.noteAll.flash = s.flash ∧ s.noteAll.free = s.free := by
  simp [State.noteAll]

/-- A consequence of a sync operation reaches slots, queues, the step and the FLT block. -/
@[simp] theorem State.syncEff_keeps (s : State) (x : SyncEff) :
    (s.syncEff x).pending = s.pending ∧ (s.syncEff x).ctl = s.ctl ∧ (s.syncEff x).rst = s.rst ∧ (s.syncEff x).pins = s.pins ∧
    (s.syncEff x).mgmt = s.mgmt ∧ (s.syncEff x).tmr = s.tmr ∧ (s.syncEff x).lnk = s.lnk ∧ (s.syncEff x).gx = s.gx ∧ (s.syncEff x).upd = s.upd ∧
    (s.syncEff x).sites = s.sites ∧ (s.syncEff x).sync = s.sync ∧ (s.syncEff x).inp = s.inp ∧ (s.syncEff x).mem = s.mem ∧
    (s.syncEff x).memr = s.memr ∧ (s.syncEff x).sec = s.sec ∧ (s.syncEff x).pwr = s.pwr ∧ (s.syncEff x).img = s.img ∧ (s.syncEff x).flash = s.flash ∧
    (s.syncEff x).free = s.free := by
  cases x with
  | granted w => cases w <;> simp [State.syncEff]
  | fired o n =>
    unfold State.syncEff; dsimp only
    split <;> split <;> (try split) <;> simp
  | saturated o => simp [State.syncEff]

/-- Consequences of a sync operation, in turn. -/
@[simp] theorem State.syncEffs_keeps (s : State) (l : List SyncEff) :
    (l.foldl State.syncEff s).pending = s.pending ∧ (l.foldl State.syncEff s).ctl = s.ctl ∧ (l.foldl State.syncEff s).rst = s.rst ∧
    (l.foldl State.syncEff s).pins = s.pins ∧ (l.foldl State.syncEff s).mgmt = s.mgmt ∧ (l.foldl State.syncEff s).tmr = s.tmr ∧
    (l.foldl State.syncEff s).lnk = s.lnk ∧ (l.foldl State.syncEff s).gx = s.gx ∧ (l.foldl State.syncEff s).upd = s.upd ∧
    (l.foldl State.syncEff s).sites = s.sites ∧ (l.foldl State.syncEff s).sync = s.sync ∧ (l.foldl State.syncEff s).inp = s.inp ∧
    (l.foldl State.syncEff s).mem = s.mem ∧ (l.foldl State.syncEff s).memr = s.memr ∧ (l.foldl State.syncEff s).sec = s.sec ∧
    (l.foldl State.syncEff s).pwr = s.pwr ∧ (l.foldl State.syncEff s).img = s.img ∧ (l.foldl State.syncEff s).flash = s.flash ∧
    (l.foldl State.syncEff s).free = s.free := by
  exact foldl_keeps (P := (fun t : State => t.pending = s.pending ∧ t.ctl = s.ctl ∧ t.rst = s.rst ∧ t.pins = s.pins ∧ t.mgmt = s.mgmt ∧ t.tmr = s.tmr ∧ t.lnk = s.lnk ∧ t.gx = s.gx ∧ t.upd = s.upd ∧ t.sites = s.sites ∧ t.sync = s.sync ∧ t.inp = s.inp ∧ t.mem = s.mem ∧ t.memr = s.memr ∧ t.sec = s.sec ∧ t.pwr = s.pwr ∧ t.img = s.img ∧ t.flash = s.flash ∧ t.free = s.free))
    (fun t x ht => by simpa using ht) l (by simp)

/-- A sync operation changes the objects and what their consequences reach. -/
@[simp] theorem State.syncOp_keeps (s : State) (o : Nat) (p : SyncOp) :
    (s.syncOp o p).pending = s.pending ∧ (s.syncOp o p).ctl = s.ctl ∧ (s.syncOp o p).rst = s.rst ∧ (s.syncOp o p).pins = s.pins ∧
    (s.syncOp o p).mgmt = s.mgmt ∧ (s.syncOp o p).tmr = s.tmr ∧ (s.syncOp o p).lnk = s.lnk ∧ (s.syncOp o p).gx = s.gx ∧ (s.syncOp o p).upd = s.upd ∧
    (s.syncOp o p).sites = s.sites ∧ (s.syncOp o p).inp = s.inp ∧ (s.syncOp o p).mem = s.mem ∧ (s.syncOp o p).memr = s.memr ∧
    (s.syncOp o p).sec = s.sec ∧ (s.syncOp o p).pwr = s.pwr ∧ (s.syncOp o p).img = s.img ∧ (s.syncOp o p).flash = s.flash ∧
    (s.syncOp o p).free = s.free := by
  simp [State.syncOp]

/-- A reset of objects changes them and completes pending TAKEs. -/
@[simp] theorem State.syncReset_keeps (s : State) (os : List Nat) (init : Nat → Nat × Nat) (keep : Bool) :
    (s.syncReset os init keep).pending = s.pending ∧ (s.syncReset os init keep).ctl = s.ctl ∧ (s.syncReset os init keep).rst = s.rst ∧
    (s.syncReset os init keep).pins = s.pins ∧ (s.syncReset os init keep).mgmt = s.mgmt ∧ (s.syncReset os init keep).tmr = s.tmr ∧
    (s.syncReset os init keep).lnk = s.lnk ∧ (s.syncReset os init keep).gx = s.gx ∧ (s.syncReset os init keep).upd = s.upd ∧
    (s.syncReset os init keep).sites = s.sites ∧ (s.syncReset os init keep).adm = s.adm ∧ (s.syncReset os init keep).fab = s.fab ∧
    (s.syncReset os init keep).inp = s.inp ∧ (s.syncReset os init keep).mem = s.mem ∧ (s.syncReset os init keep).memr = s.memr ∧
    (s.syncReset os init keep).sec = s.sec ∧ (s.syncReset os init keep).flt = s.flt ∧ (s.syncReset os init keep).pwr = s.pwr ∧
    (s.syncReset os init keep).img = s.img ∧ (s.syncReset os init keep).flash = s.flash ∧ (s.syncReset os init keep).free = s.free := by
  simp [State.syncReset]

/-- A torn block is memory, its drawn values and the TORN fields. -/
@[simp] theorem State.tear_keeps (s : State) :
    s.tear.pending = s.pending ∧ s.tear.ctl = s.ctl ∧ s.tear.rst = s.rst ∧ s.tear.pins = s.pins ∧ s.tear.mgmt = s.mgmt ∧ s.tear.hif = s.hif ∧
    s.tear.tmr = s.tmr ∧ s.tear.lnk = s.lnk ∧ s.tear.gx = s.gx ∧ s.tear.sites = s.sites ∧ s.tear.adm = s.adm ∧ s.tear.fab = s.fab ∧
    s.tear.sync = s.sync ∧ s.tear.inp = s.inp ∧ s.tear.memr = s.memr ∧ s.tear.sec = s.sec ∧ s.tear.flt = s.flt ∧ s.tear.pwr = s.pwr ∧
    s.tear.img = s.img ∧ s.tear.flash = s.flash := by
  unfold State.tear; split <;> simp

/-- An abandonment starts in admission, the tiles and the FLT block. -/
@[simp] theorem State.abandon_keeps (s : State) :
    s.abandon.pending = s.pending ∧ s.abandon.ctl = s.ctl ∧ s.abandon.rst = s.rst ∧ s.abandon.pins = s.pins ∧ s.abandon.mgmt = s.mgmt ∧
    s.abandon.hif = s.hif ∧ s.abandon.tmr = s.tmr ∧ s.abandon.lnk = s.lnk ∧ s.abandon.gx = s.gx ∧ s.abandon.upd = s.upd ∧ s.abandon.sites = s.sites ∧
    s.abandon.sync = s.sync ∧ s.abandon.inp = s.inp ∧ s.abandon.mem = s.mem ∧ s.abandon.memr = s.memr ∧ s.abandon.sec = s.sec ∧
    s.abandon.pwr = s.pwr ∧ s.abandon.img = s.img ∧ s.abandon.flash = s.flash ∧ s.abandon.free = s.free := by
  unfold State.abandon; repeat' split
  all_goals simp

/-- Serial commands that fail end in their blocks and complete. -/
@[simp] theorem State.failSerial_keeps (s : State) :
    s.failSerial.pending = s.pending ∧ s.failSerial.ctl = s.ctl ∧ s.failSerial.rst = s.rst ∧ s.failSerial.pins = s.pins ∧
    s.failSerial.mgmt = s.mgmt ∧ s.failSerial.tmr = s.tmr ∧ s.failSerial.lnk = s.lnk ∧ s.failSerial.upd = s.upd ∧ s.failSerial.sites = s.sites ∧
    s.failSerial.adm = s.adm ∧ s.failSerial.fab = s.fab ∧ s.failSerial.sync = s.sync ∧ s.failSerial.inp = s.inp ∧ s.failSerial.mem = s.mem ∧
    s.failSerial.memr = s.memr ∧ s.failSerial.flt = s.flt ∧ s.failSerial.pwr = s.pwr ∧ s.failSerial.img = s.img ∧ s.failSerial.flash = s.flash ∧
    s.failSerial.free = s.free := by
  unfold State.failSerial; dsimp only
  split <;> simp

/-- Update engines that stop change a sweep and the stages of shards, and nothing else. -/
theorem State.stopUpdates_changes (s : State) :
    s.stopUpdates.upd = { s.upd with sweep := s.stopUpdates.upd.sweep } ∧ s.stopUpdates.gx = { s.gx with sets := s.stopUpdates.gx.sets } :=
  ⟨rfl, rfl⟩
@[simp] theorem State.stopUpdates_keeps (s : State) :
    s.stopUpdates.pending = s.pending ∧ s.stopUpdates.ctl = s.ctl ∧ s.stopUpdates.rst = s.rst ∧ s.stopUpdates.pins = s.pins ∧
    s.stopUpdates.mgmt = s.mgmt ∧ s.stopUpdates.hif = s.hif ∧ s.stopUpdates.tmr = s.tmr ∧ s.stopUpdates.lnk = s.lnk ∧
    s.stopUpdates.sites = s.sites ∧ s.stopUpdates.adm = s.adm ∧ s.stopUpdates.fab = s.fab ∧ s.stopUpdates.sync = s.sync ∧
    s.stopUpdates.inp = s.inp ∧ s.stopUpdates.mem = s.mem ∧ s.stopUpdates.memr = s.memr ∧ s.stopUpdates.sec = s.sec ∧
    s.stopUpdates.flt = s.flt ∧ s.stopUpdates.pwr = s.pwr ∧ s.stopUpdates.img = s.img ∧ s.stopUpdates.flash = s.flash ∧ s.stopUpdates.free = s.free := by
  simp [State.stopUpdates]

/-- FAULT is entered without touching memory, links, clocks, fuses or power. -/
@[simp] theorem State.enterFault_keeps (s : State) (b : Bool) :
    (s.enterFault b).pending = s.pending ∧ (s.enterFault b).rst = s.rst ∧ (s.enterFault b).pins = s.pins ∧ (s.enterFault b).mgmt = s.mgmt ∧
    (s.enterFault b).tmr = s.tmr ∧ (s.enterFault b).lnk = s.lnk ∧ (s.enterFault b).sites = s.sites ∧
    (s.enterFault b).sync = s.sync ∧ (s.enterFault b).inp = s.inp ∧ (s.enterFault b).mem = s.mem ∧ (s.enterFault b).memr = s.memr ∧
    (s.enterFault b).pwr = s.pwr ∧ (s.enterFault b).flash = s.flash ∧ (s.enterFault b).free = s.free := by
  unfold State.enterFault; dsimp only; repeat' split
  all_goals simp

/-- The way out of a step changes CTL, tiles, the event queue and, into FAULT, what the update engines hold. -/
@[simp] theorem State.leaveStep_keeps (s : State) (hold : Bool) :
    (s.leaveStep hold).pending = s.pending ∧ (s.leaveStep hold).rst = s.rst ∧ (s.leaveStep hold).pins = s.pins ∧ (s.leaveStep hold).mgmt = s.mgmt ∧
    (s.leaveStep hold).tmr = s.tmr ∧ (s.leaveStep hold).lnk = s.lnk ∧ (s.leaveStep hold).sites = s.sites ∧ (s.leaveStep hold).adm = s.adm ∧
    (s.leaveStep hold).sync = s.sync ∧ (s.leaveStep hold).inp = s.inp ∧ (s.leaveStep hold).mem = s.mem ∧ (s.leaveStep hold).memr = s.memr ∧
    (s.leaveStep hold).sec = s.sec ∧ (s.leaveStep hold).flt = s.flt ∧ (s.leaveStep hold).pwr = s.pwr ∧ (s.leaveStep hold).img = s.img ∧
    (s.leaveStep hold).flash = s.flash ∧ (s.leaveStep hold).free = s.free := by
  unfold State.leaveStep; dsimp only
  split
  · split <;> simp
  · simp

/-- What every abandonment gives up lies in admission, the input pipeline and the update, site, time and fault blocks. -/
@[simp] theorem State.abandonStep_keeps (s : State) :
    s.abandonStep.pending = s.pending ∧ s.abandonStep.ctl = s.ctl ∧ s.abandonStep.rst = s.rst ∧ s.abandonStep.pins = s.pins ∧
    s.abandonStep.mgmt = s.mgmt ∧ s.abandonStep.hif = s.hif ∧ s.abandonStep.lnk = s.lnk ∧ s.abandonStep.gx = s.gx ∧ s.abandonStep.fab = s.fab ∧
    s.abandonStep.sync = s.sync ∧ s.abandonStep.mem = s.mem ∧ s.abandonStep.memr = s.memr ∧ s.abandonStep.sec = s.sec ∧
    s.abandonStep.pwr = s.pwr ∧ s.abandonStep.img = s.img ∧ s.abandonStep.flash = s.flash ∧ s.abandonStep.free = s.free :=
  by and_intros <;> rfl

/-- What the end of an abandonment leaves alone. -/
@[simp] theorem State.abandonDone_keeps (s : State) (im : Image) :
    (s.abandonDone im).pending = s.pending ∧ (s.abandonDone im).rst = s.rst ∧ (s.abandonDone im).pins = s.pins ∧ (s.abandonDone im).mgmt = s.mgmt ∧
    (s.abandonDone im).lnk = s.lnk ∧ (s.abandonDone im).memr = s.memr ∧ (s.abandonDone im).sec = s.sec ∧ (s.abandonDone im).pwr = s.pwr ∧
    (s.abandonDone im).img = s.img ∧ (s.abandonDone im).flash = s.flash ∧ (s.abandonDone im).free = s.free := by
  simp [State.abandonDone, State.reapply]

/-- What an image load leaves alone. -/
@[simp] theorem State.applyImage_keeps (s : State) (im : Image) :
    (s.applyImage im).pending = s.pending ∧ (s.applyImage im).rst = s.rst ∧ (s.applyImage im).pins = s.pins ∧ (s.applyImage im).mgmt = s.mgmt ∧
    (s.applyImage im).lnk = s.lnk ∧ (s.applyImage im).sec = s.sec ∧ (s.applyImage im).pwr = s.pwr ∧ (s.applyImage im).flash = s.flash ∧
    (s.applyImage im).free = s.free := by
  simp [State.applyImage]

/-- An exchange message goes to the inbox or to the links. -/
@[simp] theorem State.sendX_keeps (s : State) (m : Member) (x : XMsg) :
    (s.sendX m x).pending = s.pending ∧ (s.sendX m x).ctl = s.ctl ∧ (s.sendX m x).rst = s.rst ∧ (s.sendX m x).pins = s.pins ∧
    (s.sendX m x).mgmt = s.mgmt ∧ (s.sendX m x).hif = s.hif ∧ (s.sendX m x).tmr = s.tmr ∧ (s.sendX m x).upd = s.upd ∧ (s.sendX m x).sites = s.sites ∧
    (s.sendX m x).adm = s.adm ∧ (s.sendX m x).fab = s.fab ∧ (s.sendX m x).sync = s.sync ∧ (s.sendX m x).inp = s.inp ∧ (s.sendX m x).mem = s.mem ∧
    (s.sendX m x).memr = s.memr ∧ (s.sendX m x).sec = s.sec ∧ (s.sendX m x).flt = s.flt ∧ (s.sendX m x).pwr = s.pwr ∧ (s.sendX m x).img = s.img ∧
    (s.sendX m x).flash = s.flash ∧ (s.sendX m x).free = s.free := by
  unfold State.sendX; split <;> simp

/-! The canonical form of host memory under the queue operations -/

/-- Host memory keeps its canonical form. -/
def Hif.Canon (h : Hif) : Prop := Sparse.wf (0 : Byte) h.mem = true

theorem Hif.canon_writeMem {h : Hif} (a : Nat) (bs : List Byte) (hc : h.Canon) : (h.writeMem a bs).Canon := h.wf_writeMem a bs hc

@[simp] theorem Hif.sendMsix_mem (h : Hif) (v : Nat) : (h.sendMsix v).mem = h.mem := by
  unfold Hif.sendMsix; dsimp only; split <;> rfl

@[simp] theorem Hif.signalCq_mem (h : Hif) (m q : Nat) (e : Bool) : (h.signalCq m q e).mem = h.mem := by
  unfold Hif.signalCq; dsimp only; split
  · rfl
  · split <;> simp

theorem Hif.canon_writeEntry {h : Hif} (m q : Nat) (c : Compl) (hc : h.Canon) : (h.writeEntry m q c).Canon := by
  unfold Hif.Canon Hif.writeEntry
  rw [Hif.signalCq_mem]
  dsimp only
  split
  · exact hc
  · exact h.wf_writeMem _ _ hc

theorem Hif.canon_event {h : Hif} (m t d : Nat) (r0 r1 r2 : W64) (hc : h.Canon) : (h.event m t d r0 r1 r2).Canon := by
  unfold Hif.event; dsimp only
  split
  · exact Hif.canon_writeEntry _ _ _ hc
  · split <;> exact hc

theorem Hif.canon_post {h : Hif} (m q : Nat) (c : Compl) (hc : h.Canon) : (h.post m q c).Canon := by
  unfold Hif.post; dsimp only
  split
  · exact hc
  · split
    · exact hc
    · exact Hif.canon_writeEntry _ _ _ hc

theorem Hif.canon_complete {h : Hif} (m : Nat) (e : Entry) (c : Code) (d : Nat) (r0 r1 r2 : W64) (hc : h.Canon) :
    (h.complete m e c d r0 r1 r2).Canon := Hif.canon_post _ _ _ hc

theorem Hif.canon_release {h : Hif} (m q n : Nat) (hc : h.Canon) : (Hif.release m q n h).Canon := by
  induction n generalizing h with
  | zero => exact hc
  | succ n ih =>
    unfold Hif.release; dsimp only
    split
    · exact hc
    · split
      · exact ih (Hif.canon_writeEntry (h := { h with cq := _ }) _ _ _ hc)
      · split
        · split
          · exact ih (Hif.canon_writeEntry (h := { h with events := _ }) _ _ _ hc)
          · exact hc
        · exact hc

/-! The canonical form under the shared operations -/

theorem State.canonical_of {s t : State} (h : s.Canonical) (hm : t.mem = s.mem) (hh : t.hif.mem = s.hif.mem) : t.Canonical := by
  unfold State.Canonical; rw [hm, hh]; exact h

theorem State.canonical_event {s : State} (t d : Nat) (r0 r1 r2 : W64) (h : s.Canonical) : (s.event t d r0 r1 r2).Canonical := by
  unfold State.event; split
  · exact ⟨h.1, Hif.canon_event _ _ _ _ _ _ h.2⟩
  · exact h

theorem State.canonical_goto {s : State} (d : Dev) (h : s.Canonical) : (s.goto d).Canonical := by
  unfold State.goto; split
  · exact h
  · dsimp only
    split
    · exact State.canonical_event (s := { s with ctl := _ }) _ _ _ _ _ h
    · exact h

theorem State.canonical_complete {s : State} (e : Entry) (c : Code) (d : Nat) (r0 r1 r2 : W64) (h : s.Canonical) :
    (s.complete e c d r0 r1 r2).Canonical := by
  unfold State.complete; split
  · exact ⟨h.1, Hif.canon_complete _ _ _ _ _ _ _ h.2⟩
  · exact h

theorem State.canonical_completeAll {s : State} (l : List Entry) (c : Code) (h : s.Canonical) : (s.completeAll l c).Canonical :=
  foldl_keeps (P := State.Canonical) (fun _ e ht => State.canonical_complete e c 0 0 0 0 ht) l h

theorem State.canonical_finish {s : State} (i : Nat) (c : Code) (d : Nat) (r0 r1 r2 : W64) (h : s.Canonical) :
    (s.finish i c d r0 r1 r2).Canonical := by
  unfold State.finish; split
  · exact h
  · exact State.canonical_complete (s := { s with hif := _ }) _ _ _ _ _ _ h

theorem State.canonical_samplesDone {s : State} (l : List SampleDone) (h : s.Canonical) : (s.samplesDone l).Canonical :=
  foldl_keeps (P := State.Canonical) (fun _ _ ht => State.canonical_complete _ _ _ _ _ _ ht) l h

theorem State.canonical_setTmr {s : State} (t : Tmr) (h : s.Canonical) : (s.setTmr t).Canonical := by
  unfold State.setTmr; dsimp only; split
  · exact h
  · exact State.canonical_event (s := { s with tmr := t }) _ _ _ _ _ h

theorem State.canonical_setGx {s : State} (x : Gx) (h : s.Canonical) : (s.setGx x).Canonical := by
  unfold State.setGx; dsimp only; split
  · exact h
  · exact State.canonical_event (s := { s with gx := x }) _ _ _ _ _ h

theorem State.canonical_report {s : State} (r : Report) (h : s.Canonical) : (s.report r).Canonical :=
  State.canonical_of h (by simp) (by simp)

theorem State.canonical_loseSource {s : State} (h : s.Canonical) : s.loseSource.Canonical :=
  State.canonical_setTmr (s := s) _ h

theorem State.canonical_setLnk {s : State} (l : Lnk) (h : s.Canonical) : (s.setLnk l lane).Canonical := by
  have h1 := fun (is : List Nat) => foldl_keeps (P := State.Canonical)
    (f := fun (s : State) (i : Nat) => s.report { cls := .link, sev := .contained, unit := i, sub := lane, detail := (l.port.at i).downReason.toNat })
    (fun _ _ ht => State.canonical_report _ ht) is (a := { s with lnk := l }) h
  unfold State.setLnk; dsimp only
  split
  · exact State.canonical_loseSource (h1 _)
  · exact h1 _

theorem State.canonical_corrected {s : State} (k addr : Nat) (inj : Bool) (h : s.Canonical) : (s.corrected k addr inj).Canonical :=
  State.canonical_of h (by simp) (by simp)

theorem State.canonical_uncorrected {s : State} (k addr source : Nat) (a b inj : Bool) (h : s.Canonical) : (s.uncorrected k addr source a b inj).Canonical := by
  unfold State.uncorrected; dsimp only
  split <;> split <;> exact State.canonical_report _ ⟨Mem.wf_setPoison _ _ h.1, h.2⟩

theorem State.canonical_meetErrs {s : State} (us : List (Nat × List Nat)) (source : Nat) (a b : Bool) (via : Nat → Nat) (inj : Bool) (h : s.Canonical) :
    (s.meetErrs us source a b via inj).1.Canonical := by
  refine foldl_keeps (P := fun r : State × Bool => r.1.Canonical) (fun r u hr => ?_) us h
  dsimp only; unfold State.meetErr
  split
  · exact hr
  · split
    · exact hr
    · exact State.canonical_corrected (s := r.1) _ _ _ hr
    · exact State.canonical_uncorrected (s := r.1) _ _ _ _ _ _ hr

theorem State.canonical_eccRead {s : State} (ks : List Nat) (e : Ecc) (source : Nat) (a b : Bool) (via : Nat → Nat) (inject : Bool) (h : s.Canonical) :
    (s.eccRead ks e source a b via inject).1.Canonical := by
  unfold State.eccRead; dsimp only
  split
  · exact State.canonical_meetErrs _ _ _ _ _ _ (by split <;> exact h)
  · exact State.canonical_meetErrs _ _ _ _ _ _ (by split <;> exact h)

theorem State.canonical_engineRead {s : State} (im : Image) (ks : List Nat) (e : Ecc) (h : s.Canonical) : (s.engineRead im ks e).Canonical := by
  unfold State.engineRead; split
  · exact h
  · exact State.canonical_eccRead _ _ _ _ _ _ _ h

theorem State.canonical_noteReady {s : State} (ts : List Nat) (h : s.Canonical) : (s.noteReady ts).Canonical :=
  State.canonical_of h (by simp) (by simp)

theorem State.canonical_noteAll {s : State} (h : s.Canonical) : s.noteAll.Canonical := State.canonical_of h (by simp) (by simp)

theorem State.canonical_syncEff {s : State} (x : SyncEff) (h : s.Canonical) : (s.syncEff x).Canonical := by
  cases x with
  | granted w =>
    cases w with
    | slot => exact State.canonical_noteReady (s := { s with fab := _ }) _ h
    | host e => exact State.canonical_complete _ _ _ _ _ _ h
    | backlog => exact h
  | fired o n =>
    unfold State.syncEff; dsimp only
    have h1 := State.canonical_event (s := s) 0x04 0 (BitVec.ofNat 64 o) (n.setWidth 64) 0 h
    split <;> split <;> (try split) <;> first | exact h1 | exact h
  | saturated o => exact State.canonical_report _ h

theorem State.canonical_syncOp {s : State} (o : Nat) (p : SyncOp) (h : s.Canonical) : (s.syncOp o p).Canonical :=
  foldl_keeps (P := State.Canonical) (fun _ x ht => State.canonical_syncEff x ht) _ h

theorem State.canonical_syncReset {s : State} (os : List Nat) (init : Nat → Nat × Nat) (k : Bool) (h : s.Canonical) :
    (s.syncReset os init k).Canonical := State.canonical_completeAll (s := { s with sync := _ }) _ _ h

theorem State.canonical_tear {s : State} (h : s.Canonical) : s.tear.Canonical := by
  unfold State.tear
  split
  · exact ⟨Image.wf_regWrite _ _ _ _ (Mem.wf_ite (BlockAt.wf_writeF32 _ _ _ _ _ (BlockAt.wf_writeF32 _ _ _ _ _ (BlockAt.wf_writeF32 _ _ _ _ _ h.1)))
      (BlockAt.wf_writeF32 _ _ _ _ _ (BlockAt.wf_writeF32 _ _ _ _ _ h.1))), h.2⟩
  · exact h

theorem State.canonical_failSerial {s : State} (h : s.Canonical) : s.failSerial.Canonical := by
  have h1 := State.canonical_completeAll (s := { s with gx := { s.gx with snapshots := [] } }) (s.gx.snapshots.filterMap id) .fault h
  unfold State.failSerial; dsimp only
  split
  · exact State.canonical_complete (s := { State.completeAll _ _ _ with sec := _ }) _ _ _ _ _ _ h1
  · exact h1

/-! Entry to RESET and to ALARM -/

/-- Entry to RESET keeps the queue, the pins but for what COOL_REQ holds, the flash, the fuses, power accounting and what left the device. -/
theorem State.enterReset_keeps (s : State) (m : BitVec 7) :
    (s.enterReset m).pending = s.pending ∧ { (s.enterReset m).pins with coolHeld := s.pins.coolHeld } = s.pins ∧ (s.enterReset m).flash = s.flash ∧
    (s.enterReset m).sec.fuses = s.sec.fuses ∧ (s.enterReset m).pwr.res = s.pwr.res ∧ (s.enterReset m).hif.mem = s.hif.mem ∧
    (s.enterReset m).lnk.out = s.lnk.out := by
  unfold State.enterReset State.latchSource
  dsimp only
  split
  · simp
  · split <;> simp
  · split <;> simp

/-- Nothing enters RESET from OFF or ALARM; from any other state with REFCLK running the device is in RESET. -/
theorem State.enterReset_state (s : State) (m : BitVec 7) :
    (s.enterReset m).ctl.state = (if s.ctl.state = .off ∨ s.ctl.state = .alarm ∨ s.pins.refclk = false then s.ctl.state else .reset) := by
  unfold State.enterReset State.latchSource
  split
  · simp_all
  · split <;> simp_all
  · rename_i h1 h2
    dsimp only
    cases hp : s.pins.refclk
    · simp
    · have h3 : ¬ (s.ctl.state = .off ∨ s.ctl.state = .alarm ∨ true = false) := by
        simpa using And.intro h2 h1
      rw [if_neg h3]
      simp

theorem State.canonical_enterReset {s : State} (m : BitVec 7) (h : s.Canonical) : (s.enterReset m).Canonical := by
  have h1 := State.canonical_tear h
  unfold State.enterReset State.latchSource
  split
  · exact h
  · split <;> exact h
  · dsimp only
    split
    · exact h
    · exact State.canonical_of h1 (by simp) (by simp)

/-- An alarm ends in ALARM unless the device is off. -/
theorem State.alarm_state (s : State) (a : AlarmSrc) : (s.alarm a).ctl.state = if s.ctl.state = .off then .off else .alarm := by
  unfold State.alarm
  split
  · simp_all
  · simp_all
  · simp_all [Ctl.goto]

/-- An alarm keeps the queue, the flash, the fuses and host memory. -/
theorem State.alarm_keeps (s : State) (a : AlarmSrc) :
    (s.alarm a).pending = s.pending ∧ (s.alarm a).flash = s.flash ∧ (s.alarm a).sec.fuses = s.sec.fuses ∧ (s.alarm a).pwr = s.pwr ∧
    (s.alarm a).hif.mem = s.hif.mem := by
  have h1 : ∀ n, (s.sec.alarm a n).fuses = s.sec.fuses := by
    intro n
    unfold Sec.alarm; dsimp only; split <;> rfl
  unfold State.alarm
  split <;> simp [Sec.note, h1]

/-- Part of a read of host memory is the read of that part. -/
theorem Hif.readMem_slice (h : Hif) (a n k m : Nat) (hk : k + m ≤ n) : ((h.readMem a n).drop k).take m = h.readMem (a + k) m := by
  apply List.ext_getElem
  · simp [Hif.readMem]; omega
  · intro i h1 h2
    simp [Hif.readMem, Nat.add_assoc]

/-- A read of host memory in two parts. -/
theorem Hif.readMem_add (h : Hif) (a n m : Nat) : h.readMem a (n + m) = h.readMem a n ++ h.readMem (a + n) m := by
  simp [Hif.readMem, List.range_add, Nat.add_assoc]

/-- The end and the start of a read of host memory. -/
theorem Hif.readMem_drop (h : Hif) (a n k : Nat) : (h.readMem a n).drop k = h.readMem (a + k) (n - k) := by
  apply List.ext_getElem
  · simp [Hif.readMem]
  · intro i h1 h2
    simp [Hif.readMem, Nat.add_assoc]
theorem Hif.readMem_take (h : Hif) (a n k : Nat) : (h.readMem a n).take k = h.readMem a (min k n) := by
  simp [Hif.readMem, ← List.map_take, List.take_range]

/-- Where the next payload begins is past the end of a field, in a table whose payloads do not overlap. -/
theorem Ctx.fetchSpan_end (c : Ctx) (f : Field) (hend : f.off + f.len ≤ c.d.len)
    (hnext : ∀ g ∈ c.fields, f.off < g.off → f.off + f.len ≤ g.off) : f.off + f.len ≤ (c.fetchSpan f).2 := by
  have h : ∀ (l : List Nat) (d : Nat), f.off + f.len ≤ d → (∀ o ∈ l, f.off + f.len ≤ o) → f.off + f.len ≤ l.foldl min d := by
    intro l
    induction l with
    | nil => intro d hd _; simpa using hd
    | cons o r ih => intro d hd hl; exact ih _ (by have := hl o (by simp); omega) fun x hx => hl x (by simp [hx])
  have := h ((c.fields.map (·.off)).filter fun o => decide (f.off < o)) c.d.len hend (by
    intro o ho
    simp only [List.mem_filter, List.mem_map, decide_eq_true_eq] at ho
    obtain ⟨⟨g, hg, rfl⟩, h2⟩ := ho
    exact hnext g hg h2)
  unfold Ctx.fetchSpan
  dsimp only
  omega

/-- A field of a record in host memory gets its own bytes, the header read and the read of the remainder put together (R393, R403). -/
theorem Ctx.payload_host (h : Hif) (c : Ctx) (f : Field) (hd : c.head = h.readMem c.d.addr c.head.length) (hend : f.off + f.len ≤ c.d.len)
    (hnext : ∀ g ∈ c.fields, f.off < g.off → f.off + f.len ≤ g.off) :
    c.payload f (h.readMem (c.d.addr + (c.fetchSpan f).1) ((c.fetchSpan f).2 - (c.fetchSpan f).1)) = h.readMem (c.d.addr + f.off) f.len := by
  have he := c.fetchSpan_end f hend hnext
  have hs : (c.fetchSpan f).1 = c.head.length ∨ (c.fetchSpan f).1 = max c.head.length f.off := by
    unfold Ctx.fetchSpan; dsimp only; split <;> simp
  unfold Ctx.payload
  dsimp only
  generalize (c.fetchSpan f).1 = st at *
  generalize (c.fetchSpan f).2 = en at *
  by_cases hc : c.head.length ≤ f.off
  · have hp : (c.head.drop f.off).take f.len = [] := by simp [hc]
    rw [hp]
    simp only [List.nil_append, List.length_nil, Nat.sub_zero]
    rw [h.readMem_slice _ _ _ _ (by omega)]
    congr 1
    omega
  · have hst : st = c.head.length := by omega
    have hp : (c.head.drop f.off).take f.len = h.readMem (c.d.addr + f.off) (min f.len (c.head.length - f.off)) := by
      conv_lhs => rw [hd]
      rw [h.readMem_drop, h.readMem_take]
    rw [hp]
    have hl : (h.readMem (c.d.addr + f.off) (min f.len (c.head.length - f.off))).length = min f.len (c.head.length - f.off) := by simp [Hif.readMem]
    rw [hl, hst]
    have h0 : f.off - c.head.length = 0 := by omega
    rw [h0, h.readMem_slice _ _ _ _ (by omega)]
    by_cases hq : f.len ≤ c.head.length - f.off
    · simp [Nat.min_eq_left hq, Hif.readMem]
    · rw [Nat.min_eq_right (by omega)]
      have h4 := h.readMem_add (c.d.addr + f.off) (c.head.length - f.off) (f.len - (c.head.length - f.off))
      rw [show c.head.length - f.off + (f.len - (c.head.length - f.off)) = f.len by omega] at h4
      rw [h4]
      congr 2
      omega

/-- A digest is no longer than asked for. -/
theorem shake256_length_le (n : Nat) (bs : List Byte) : (shake256 n bs).length ≤ n := List.length_take_le _ _

end Sys2Proof.Machine
end

