-- ==== Sys2Proof/Laws/Links.lean ====
section
/-! SUPPORT. What the link operations do to the states of ports, and what a port that goes down reports. -/

namespace Sys2Proof.Machine

/-- A change of the LNK block that leaves every port's state is only that. -/
theorem State.setLnk_same (s : State) (l : Lnk) (lane : Nat) (h : ∀ j, (l.port.at j).state = (s.lnk.port.at j).state) :
    s.setLnk l lane = { s with lnk := l } := by
  unfold State.setLnk
  have h1 : ((List.range 12).filter fun i => (l.port.at i).state == .down && (s.lnk.port.at i).state != .down) = [] := by
    rw [List.filter_eq_nil_iff]; intro a _; rw [h]; simp
  rw [h1]
  rw [h]
  simp

/-- A port put back with the state it had changes no port's state. -/
theorem Lnk.setPort_state (l : Lnk) (i : Nat) (p : Port) (h : p.state = (l.port.at i).state) (j : Nat) :
    ((l.setPort i p).port.at j).state = (l.port.at j).state := by
  simp only [Lnk.setPort, Sparse.at_put]
  split
  · subst_vars; exact h
  · rfl

/-- A slot of a port changes no port's state. -/
theorem Lnk.serve_state (l : Lnk) (i j : Nat) : ((l.serve i).port.at j).state = (l.port.at j).state := by
  unfold Lnk.serve
  dsimp only
  split
  · rfl
  · split
    · rfl
    · simp only [Lnk.setPort, Sparse.at_put]
      split
      · subst_vars; rfl
      · rfl

/-- Nor does a slot of every port, nor a cycle. -/
theorem Lnk.slot_state (l : Lnk) (j : Nat) : (l.slot.port.at j).state = (l.port.at j).state :=
  foldl_proj (fun l : Lnk => (l.port.at j).state) (f := fun l (p : Nat × Port) => l.serve p.1) (fun l p => l.serve_state p.1 j) _ l

theorem Lnk.cycle_state (l : Lnk) (j : Nat) : (l.cycle.port.at j).state = (l.port.at j).state := by
  unfold Lnk.cycle
  dsimp only
  split
  · rfl
  · split
    · rw [Lnk.slot_state]; exact l.slot_state j
    · exact l.slot_state j

/-- Queuing flits changes no port's state. -/
theorem Lnk.sendFlits_state (i : Nat) (l : Lnk) (fs : List TxFlit) (j : Nat) : ((l.sendFlits i fs).port.at j).state = (l.port.at j).state := by
  unfold Lnk.sendFlits
  dsimp only
  rw [Lnk.setPort_state]
  rfl

/-- Nor does the end of a packet. -/
theorem Lnk.endPacket_state (l : Lnk) (o pid j : Nat) : ((l.endPacket o pid).port.at j).state = (l.port.at j).state := by
  unfold Lnk.endPacket; dsimp only
  split
  · simp only [Lnk.setPort, Sparse.at_put]
    split
    · subst_vars; rfl
    · rfl
  · rfl

/-- Nor does a later flit of one. -/
theorem Lnk.forward_state (l : Lnk) (o : Nat) (f : TxFlit) (j : Nat) : ((l.forward o f).port.at j).state = (l.port.at j).state := by
  unfold Lnk.forward
  simp only
  have h : ∀ q : Port, q.state = (l.port.at o).state → (((l.setPort o q).sendFlits o [f]).port.at j).state = (l.port.at j).state := by
    intro q hq
    rw [Lnk.sendFlits_state]
    simp only [Lnk.setPort, Sparse.at_put]
    split
    · subst_vars; exact hq
    · rfl
  split
  · exact h _ rfl
  · rw [Lnk.endPacket_state]; exact h _ rfl

/-- A port that leaves the link takes its new state, and no other port does. -/
theorem Lnk.leave_state (l : Lnk) (i : Nat) (st : PState) (j : Nat) :
    ((l.leave i st).port.at j).state = if j = i then st else (l.port.at j).state := by
  unfold Lnk.leave
  simp only
  rw [foldl_proj (fun l : Lnk => (l.port.at j).state)]
  · simp only [Lnk.setPort]
    rw [Sparse.at_mapVals _ (fun _ => rfl), Sparse.at_put]
    split <;> rfl
  · intro a b
    split
    · rfl
    · rw [Lnk.forward_state]

/-- A port that goes down is DOWN, and no other port changes its state. -/
theorem Lnk.toDown_state (l : Lnk) (i r : Nat) (j : Nat) :
    ((l.toDown i r).port.at j).state = if j = i then .down else (l.port.at j).state := by
  unfold Lnk.toDown
  simp only [Lnk.setPort, Sparse.at_put]
  by_cases h : j = i
  · subst h; simp [Lnk.leave_state]
  · simp [h, Lnk.leave_state]

/-- One port goes down: one LINK report. -/
theorem State.setLnk_down (s : State) (l : Lnk) (i lane : Nat) (hi : i < 12) (hs : (s.lnk.port.at i).state ≠ .down) (ha : s.ctl.state.awake = true)
    (h : ∀ j, (l.port.at j).state = if j = i then .down else (s.lnk.port.at j).state) :
    (s.setLnk l lane).lnk = l ∧ (s.setLnk l lane).mem = s.mem ∧ ∃ q, (s.setLnk l lane).flt.reports = Report.enter q s.flt.reports ∧ q.cls = .link ∧
      q.sev = .contained ∧ q.unit = i ∧ q.sub = lane ∧ q.detail = (l.port.at i).downReason.toNat := by
  unfold State.setLnk
  have h1 : ((List.range 12).filter fun i => (l.port.at i).state == .down && (s.lnk.port.at i).state != .down) = [i] := by
    have : (fun k => (l.port.at k).state == .down && (s.lnk.port.at k).state != .down) = fun k => k == i := by
      funext k; rw [h]
      by_cases hk : k = i
      · subst hk; simp [hs]
      · have : (k == i) = false := by simp [hk]
        rw [this, if_neg hk]; cases (s.lnk.port.at k).state <;> rfl
    rw [this]
    have : ∀ i < 12, (List.range 12).filter (fun k => k == i) = [i] := by decide
    exact this i hi
  rw [h1]
  simp only [List.foldl_cons, List.foldl_nil]
  have hr : ∀ r : Report, ({ s with lnk := l } : State).report r = { s with lnk := l, flt := s.flt.detect { r with abandon := r.abandon && s.adm.running, step := s.tmr.step.toNat, time := s.now, cyc := s.tmr.age } } := by
    intro r; simp [State.report, ha]; rfl
  rw [hr]
  split
  · exact ⟨by simp, by simp, _, by simp [Flt.detect]; rfl, rfl, rfl, rfl, rfl, rfl⟩
  · exact ⟨rfl, rfl, _, rfl, rfl, rfl, rfl, rfl, rfl⟩

/-- What a fall leaves of its port. -/
theorem Lnk.toDown_port (l : Lnk) (i r : Nat) :
    ((l.toDown i r).port.at i).down = true ∧ ((l.toDown i r).port.at i).downReason = BitVec.ofNat 4 r := by
  unfold Lnk.toDown; simp [Lnk.setPort]

end Sys2Proof.Machine
end

