-- ==== Sys2Proof/Tests/Slice0.lean ====
section
/-! SUPPORT. Tests: for each obligation with hypotheses a witness, clause by clause, that concrete states and operands meet them; the worked
examples of the spec; ill-formed operands. -/

set_option Elab.async false
namespace Sys2Proof.Tests
open Sys2Proof Sys2Proof.Machine

/-- A machine in device state d. -/
def at' (d : Dev) : State := { ctl := { state := d } }
/-- An entry of queue 0. -/
def ent (op : BitVec 8) (p0 p1 p2 p3 : W64) : Entry :=
  { sq := 0, opcode := op, fence := false, cid := 1, p0 := p0, p1 := p1, p2 := p2, p3 := p3, data := [] }
/-- A machine in state d with one fetched entry. -/
def withE (d : Dev) (e : Entry) : State := { at' d with hif := { fetched := [e] } }
/-- A fuse array with these bits set. -/
def fuses (l : List Nat) : Sparse Bool := l.map fun i => (i, true)
/-- An array whose key hash and seed are complete: both fields have bits 46, 87 and 130 set, and the check word 0x1808. -/
def goodFuses : Sparse Bool := fuses ([0, 576].flatMap fun lo =>
  [46, 87, 130, 259, 267, 268].map (lo + ·))

/-- An array whose owner key hash is complete, with the same bits. -/
def ownerFuses : Sparse Bool := fuses ([46, 87, 130, 259, 267, 268].map (ownerKeyLo + ·))

theorem test_good_fuses : fuseFails goodFuses goodFuses = false := by decide +kernel

theorem witness_StepRunsFrontOrIdles : State.reset.pending = [] ∧ State.reset.memr.running = none ∧ State.reset.ctl.state ≠ .off ∧
    (at' .off).pending = [] ∧ (at' .off).ctl.state = .off := by decide +kernel

theorem witness_StepKeepsMemoryCanonical : ({ mem := { bytes := [(5, 1)], poison := [(8, true)] }, hif := { mem := [(0, 9)] } } : State).Canonical ∧
    ∃ t, step { mem := { bytes := [(5, 1)], poison := [(8, true)] }, pending := [.powerApplied] } = .next t := ⟨by unfold State.Canonical; decide +kernel, _, rfl⟩

theorem witness_StateChangesAsTabled : ∃ t, step { at' .off with pending := [.powerApplied] } = .next t ∧ t.ctl.state = .reset := ⟨_, rfl, rfl⟩

theorem witness_AlarmLeftByPowerOnly : (at' .alarm).ctl.state = .alarm ∧ ∃ t, exec (.nop 0) (at' .alarm) = .next t :=
  ⟨rfl, _, rfl⟩

theorem witness_PowerInputsAndRemoval : (at' .off).ctl.state = .off ∧ (at' .ready).ctl.state ≠ .off := by decide +kernel

theorem witness_ResetPinsAndRefclk :
    99 < 100 ∧ 100 ≤ 100 ∧ 100 < 101 ∧ 101 < 1000 ∧
    (let s := at' .ready; s.ctl.state ≠ .off ∧ s.ctl.state ≠ .alarm ∧ s.pins.refclk = true ∧ 1000 ≤ 1000 ∧ s.midBlock = none ∧ s.ctl.state ≠ .reset) ∧
    ((at' .off).ctl.state = .off ∧ (at' .off).pins.refclk = true) ∧ (at' .alarm).ctl.state = .alarm ∧ (at' .reset).ctl.state = .reset ∧
    (let s : State := { at' .off with pins := { refclk := false, p3v3 := false } }; s.ctl.state = .off ∧ s.pins.p3v3 = false) ∧
    (let s : State := { at' .off with pins := { refclk := false } }; s.ctl.state ≠ .alarm ∧ s.pins.refclk = false ∧ s.pins.p3v3 = true) := by decide +kernel

theorem witness_ReleaseBoots :
    (let s : State := { at' .reset with sec := { fuses := goodFuses } }; let b : State := { s with sec := { s.sec with held := s.sec.fuses } };
      s.ctl.state = .reset ∧ s.thermHold = false ∧ s.rst.latched = 0 ∧ s.pins.p3v3 = true ∧ s.pins.p54v = true ∧ s.img = none ∧
        retired s.sec.fuses = false ∧ b.activeSources = [] ∧ b.bootCheck ≠ 0) ∧
    retired (fuses [0xB69]) = true ∧ (retired (fuses [0]) = false ∧ fuseFails (fuses [0]) (fuses [0]) = true) ∧
    (let s : State := { at' .reset with pins := { tamperLow := true } }; retired s.sec.fuses = false ∧ s.activeSources ≠ []) ∧
    ({ at' .reset with rst := { latched := 2 } } : State).rst.latched ≠ 0 ∧
    ({ at' .reset with rst := { active := 64 }, pwr := { temp := [(0, { sampled := true, valid := true, temp := 816 })] } } : State).thermHold = true ∧
    ({ at' .reset with pins := { p3v3 := false } } : State).pins.p3v3 = false ∧ ({ at' .reset with pins := { p54v := false } } : State).pins.p54v = false := by
  refine ⟨⟨rfl, by decide +kernel, rfl, rfl, rfl, rfl, by decide +kernel, ?_, by decide +kernel⟩, by decide +kernel⟩
  simp [State.activeSources, test_good_fuses]; exact ⟨rfl, nofun, nofun⟩

theorem witness_BootCompleteReadies : (let s := at' .boot; s.ctl.state = .boot ∧ s.rst.cold = true ∧ s.sec.verified = true) ∧
    (let s : State := { at' .boot with rst := { cold := false } }; s.ctl.state = .boot ∧ s.rst.cold = false) ∧
    ({ at' .boot with sec := { verified := false } } : State).sec.verified = false := by decide +kernel

theorem witness_WarmResetSources :
    (let s : State := { at' .fault with rst := { wdtRunning := true, wdtPeriod := 100, wdtElapsed := 1000000000 } };
      s.ctl.state.live = true ∧ s.pins.refclk = true ∧ s.rst.wdtRunning = true ∧ s.rst.wdtPeriod.toNat * 10 ^ 7 ≤ s.rst.wdtElapsed ∧ s.midBlock = none) ∧
    (let e := ent 0x19 0 0 0 0; (withE .ready e).due 0 e 0x19 ∧ (withE .ready e).cqBlocked e = false ∧ (withE .ready e).pins.refclk = true ∧
      (withE .ready e).midBlock = none) ∧
    (let e := ent 0x19 0 0 0 0; let s : State := { at' .ready with hif := { fetched := [e], cq := [(0, { enable := true, held := [{}] })] } };
      s.due 0 e 0x19 ∧ s.cqBlocked e = true) := by unfold State.due; decide +kernel

theorem witness_ManagementPath : (at' .alarm).ctl.state ≠ .off ∧ (at' .off).ctl.state = .off ∧ 92 < 93 ∧ 93 ≤ 93 ∧ 76 < 77 ∧ 77 ≤ 89 ∧ 89 < 90 ∧ 90 < 91 := by
  decide +kernel

theorem witness_TriplicatedFuseBits :
    (let s : State := { at' .ready with sec := { fuses := fuses [0xB62, 0xB63, 0xB6B] } };
      (s.sec.fuses.at 0xB62 = true ∧ debugDis s.sec.fuses = true ∧ retired s.sec.fuses = true) ∧ ∃ t, step s = .next t) := ⟨by decide +kernel, _, rfl⟩

theorem witness_RollbackCounters :
    arbValue (fuses (List.range 2 |>.map (0x360 + ·))) 0 = 2 ∧ (0 < 31 ∧ 31 < 32 ∧ (fuses [0x37F]).at 0x360 = false ∧ (fuses [0x37F]).at 0x37F = true) ∧
    (let e := ent 0x62 63 32 0 0; let s := withE .loaded e
      s.hif.fetched[0]? = some e ∧ e.opcode = 0x62 ∧ s.turn 0 e = true ∧ (s.ctl.state = .ready ∨ s.ctl.state = .loaded) ∧ s.sec.blow = [] ∧
      e.p0.toNat < 64 ∧ e.p1.toNat ≤ 32 ∧ arbValue s.sec.fuses e.p0.toNat < e.p1.toNat ∧ (e.p0 = 0 → e.p1.toNat ≤ s.sec.fwSvn.toNat) ∧ s.img = none) ∧
    (let s : State := { at' .ready with sec := { blow := [0x360, 0x361] } }; s.ctl.state.guarded = true ∧ s.sec.blow = 0x360 :: [0x361]) := by decide +kernel

theorem witness_ProvisioningAndExportKey :
    (let s := at' .ready; let v : W32 := 0x80000002; s.ctl.state.live = true ∧ s.sec.blow = [] ∧ v.getLsbD 31 = true ∧ v.getLsbD 30 = false ∧ s.sec.locked = false ∧
      v.toNat % 16 = 2 ∧ s.ctl.state = .ready) ∧
    ((at' .loaded).ctl.state ≠ .ready ∧ (at' .loaded).ctl.state.live = true) ∧ ({ locked := true } : Sec).locked = true ∧
    (let v : W32 := 0x80000004; v.getLsbD 31 = true ∧ v.getLsbD 30 = false ∧ 3 < v.toNat % 16) ∧ (0x80000000#32).toNat % 16 = 0 ∧
    ((0x80000001#32).toNat % 16 = 1 ∧ keyState (fuses []) 0x120 = .unprogrammed ∧ keyState (fuses [0x120]) 0x120 = .incomplete ∧
      keyState ownerFuses 0x120 = .complete ∧ keyState (fuses [0x120, 0x220]) 0x120 = .corrupt ∧
      (let s : State := { at' .ready with sec := { fuses := fuses [0x120], data := [(0, 1)] } };
        ∀ i < 256, s.sec.fuses.at (0x120 + i) = true → numOf s.sec.provBytes / 2 ^ i % 2 = 1) ∧
      (let s : State := { at' .ready with sec := { fuses := fuses [0x120] } };
        ∃ i < 256, s.sec.fuses.at (0x120 + i) = true ∧ numOf s.sec.provBytes / 2 ^ i % 2 = 0)) ∧
    (let act := fun (w : W32) => (({ data := [(0, w)] } : Sec).data.at 0).toNat % 4;
      (0x80000003#32).toNat % 16 = 3 ∧ act 0 = 0 ∧ act 2 = 2 ∧ act 1 = 1 ∧ act 3 = 3 ∧ alarmCode (fuses [0xB63]) ≤ 1 ∧ 1 < alarmCode (fuses [0xB64])) ∧
    (let v : W32 := 0xC0000000; v.getLsbD 31 = true ∧ v.getLsbD 30 = true) ∧ (let v : W32 := 0x40000000; v.getLsbD 30 = true ∧ v.getLsbD 31 = false) ∧
    ({ blow := [0] } : Sec).blow ≠ [] ∧ (1#32).getLsbD 0 = true ∧ (2#32).getLsbD 0 = false := by decide +kernel

theorem witness_AlarmSourcesEnterAlarm :
    (let s : State := { at' .boot with sec := { fuses := goodFuses, held := goodFuses } }; s.ctl.state.guarded = true ∧ s.ctl.state ≠ .alarm ∧ 100 ≤ 100 ∧ 99 < 100 ∧
      s.midBlock = none ∧ debugDis s.sec.fuses = false ∧ s.sec.valid = false ∧
      fuseFails s.sec.held ([0].foldl (fun (f : Sparse Bool) i => if i < 4096 then f.put i (!f.at i) else f) s.sec.fuses) = true) ∧
    debugDis (fuses [0xB61]) = true ∧ alarmAct (fuses [0xB63]) ≠ .lock ∧ ({ valid := true } : Sec).valid = true ∧ fuseFails goodFuses goodFuses = false :=
  ⟨by decide +kernel, by decide +kernel, by decide +kernel, rfl, test_good_fuses⟩

theorem witness_DebugPort :
    (let s : State := { at' .ready with sec := { fuses := fuses [0xB60] } }; debugDis s.sec.fuses = true ∧ s.ctl.state.guarded = true) ∧
    (let s := at' .ready; s.ctl.state.guarded = true ∧ debugDis s.sec.fuses = false ∧ s.sec.debugSeen = false) ∧
    (let s : State := { at' .ready with sec := { debugSeen := true } }; s.sec.debugSeen = true ∧ s.ctl.state ≠ .off ∧
      s.ctl.state ≠ .reset ∧ Instr.debugSession ≠ .resetRelease ∧ (at' .reset).ctl.state = .reset) ∧
    ∃ t, exec .debugSession { at' .ready with sec := { debugSeen := true } } = .next t := ⟨by decide +kernel, by decide +kernel, by decide +kernel, _, rfl⟩

theorem witness_AlarmBlowsFuses :
    (let s : State := { at' .alarm with sec := { alarmBlown := true } }; s.ctl.state = .alarm ∧ s.sec.alarmBlown = true) ∧
    (let s : State := { at' .alarm with sec := { fuses := fuses [0xB64, 0xB65] } }; s.ctl.state = .alarm ∧ s.sec.alarmBlown = false ∧
      alarmCount s.sec.fuses < 32 ∧ alarmAct s.sec.fuses = .eraseAndRetire) ∧ alarmAct (fuses []) ≠ .eraseAndRetire := by decide +kernel

theorem witness_ReserveCountSurvivesResets : (at' .alarm).ctl.state ≠ .off ∧ (∃ t, exec .cglitch (at' .off) = .next t) ∧
    (∀ w, Instr.cglitch ≠ .powerSample w) ∧ Instr.cglitch ≠ .powerLoss := by
  refine ⟨by decide +kernel, ⟨_, rfl⟩, ?_, by decide +kernel⟩
  intro w h; cases h

theorem witness_PowerSamplesAndIssueShare :
    (let s := at' .ready; s.ctl.state ≠ .off ∧ 1150 < 1151 ∧ 1150 ≤ 1150 ∧ s.pwr.exhausted = false ∧ 1 ≤ s.pwr.nPower ∧ s.pwr.nPower ≤ 16 ∧
      1 ≤ s.pwr.nThermal ∧ s.pwr.nThermal ≤ 16 ∧ s.pwr.fastQuiet = none) ∧
    (let p : Pwr := { exhausted := true }; p.exhausted = true ∧ p.pol.peakEn = true ∧ p.excess < 324000000) ∧
    ({ policy := [(0, { peakEn := false })] } : Pwr).pol.peakEn = false ∧ 360000000 ≤ ({ samples := [360000900] } : Pwr).excess ∧
    (let p : Pwr := { nPower := 1, fastLimit := true, fastQuiet := some 0, samples := [900001] };
      p.fastQuiet.isSome = true ∧ 1000 * p.pol.limit.toNat < ((p.samples.drop 0).take 1000).foldl (· + ·) 0 ∧
        1000 * p.pol.limit.toNat ≤ ((p.samples.drop 0).take 1000).foldl (· + ·) 0 + 20000) ∧
    (∀ j < 10000, (((({} : Pwr).samples.drop j).take 1000).foldl (· + ·) 0) + 20000 < 1000 * ({} : Pwr).pol.limit.toNat) := by
  refine ⟨by decide +kernel, by decide +kernel, by decide +kernel, by decide +kernel, by decide +kernel, fun j _ => ?_⟩
  simp; decide +kernel

theorem witness_TemperaturesRailsDroops :
    (let s := at' .ready; s.ctl.state.live = true ∧ s.pins.refclk = true ∧ (76#7).toNat < 77 ∧ (68#7).toNat ≤ 68 ∧ (1001#16).toInt > 1000 ∧
      ((0xFF5F#16).toInt < -160) ∧ 68 < (69#7).toNat ∧ (1000#16).toInt ≤ 1000 ∧ (s.pwr.temp.at 0).overs = 0) ∧
    (tripAt 0 ≤ (1000#16).toInt ∧ (({ at' .ready with pwr := { temp := [(0, { overs := 1 })] } } : State).pwr.temp.at 0).overs = 1) ∧
    (railGlitch 0 0 = true ∧ railGlitch 12 0 = true) ∧ (railGlitch 0 616 = false ∧ railOut 0 616 = true) ∧
    (railGlitch 0 735 = false ∧ railOut 0 735 = false) ∧
    ((3#4).toNat ≤ 3 ∧ (15#4).toNat / 4 = (3#4).toNat ∧ 3 < (4#4).toNat ∧ (12#4).toNat ≤ 12) := by
  decide +kernel

theorem witness_VersionsAndDoorbells :
    (let s : State := { at' .ready with hif := { sq := [(63, { enable := true })], cq := [(63, { enable := true })] } }; s.ctl.state.live = true ∧
      (63, ({ enable := true } : Sq)) ∈ s.hif.sq ∧ (63, ({ enable := true } : Cq)) ∈ s.hif.cq) ∧
    (let s := at' .ready; s.ctl.state.live = true ∧ (∀ q ∈ s.hif.sq, q.2.enable = false) ∧ (∀ q ∈ s.hif.cq, q.2.enable = false) ∧ s.ctl.hciValid = false) ∧
    ({ hciValid := true } : Ctl).hciValid = true ∧
    (let v : W32 := 0x01030103; 3 < 4 ∧ v.toNat % 65536 ≤ 256 + 3 ∧ 256 + 3 ≤ v.toNat / 65536) ∧
    (let v : W32 := 0x01040104; ∀ k < 4, ¬ (v.toNat % 65536 ≤ 256 + k ∧ 256 + k ≤ v.toNat / 65536)) ∧
    (let x : Sq := { enable := true, size := 1 }; let n := x.size.toNat + 1; let dist := fun (n a b : Nat) => (b + n - a) % n;
      x.enable = true ∧ 1 < n ∧ dist n x.head.toNat x.tail.toNat + dist n x.tail.toNat 1 < n ∧ n ≤ 2) ∧
    (let x : Sq := { enable := true, size := 1, head := 1 }; let n := x.size.toNat + 1; let dist := fun (n a b : Nat) => (b + n - a) % n;
      n ≤ dist n x.head.toNat x.tail.toNat + dist n x.tail.toNat 1) ∧
    (let k : Cq := { enable := true, size := 1, tail := 1, held := [{}, {}] }; let m := k.size.toNat + 1; let dist := fun (n a b : Nat) => (b + n - a) % n;
      k.enable = true ∧ 1 < m ∧ dist m k.head.toNat 1 ≤ dist m k.head.toNat k.tail.toNat ∧ k.tail.toNat < m ∧ (1 + m - 1 - k.tail.toNat) % m ≠ 0 ∧
        k.held = {} :: [{}] ∧ m ≤ 2) ∧
    (({} : Cq).held = [] ∧ ({} : Hif).events = [] ∧ (1#6) ≠ 0 ∧ ({} : Hif).holes = []) ∧
    (let k : Cq := { enable := true, size := 1 }; let m := k.size.toNat + 1; let dist := fun (n a b : Nat) => (b + n - a) % n;
      dist m k.head.toNat k.tail.toNat < dist m k.head.toNat 1) ∧ ({} : Sq).enable = false ∧ ({} : Cq).enable = false ∧
    (2 ≠ 4 ∧ (2#12).toNat % 4 ≠ 0 ∧ 512 ≤ (512#12).toNat) := by decide +kernel

/-- A machine with an entry waiting in queue 0 whose first byte is op. -/
def queued (op : Byte) (minor : BitVec 8) : State :=
  { at' .ready with
    ctl := { state := .ready, hciValid := true, hciMinor := minor }
    hif := { sq := [(0, { enable := true, size := 1, tail := 1 })], mem := if op = 0 then [] else [(0, op)] } }

theorem witness_EntryFetched :
    (let s : State := { at' .ready with hif := { d3hot := true } }; s.ctl.state.live = true ∧ s.hif.d3hot = true) ∧ ({ bootErr := 7 } : Sec).bootErr ≠ 0 ∧
    (let s : State := { at' .fault with ctl := { state := .fault, prev := .boot } }; s.ctl.state.live = true ∧ s.ctl.state = .fault ∧ s.ctl.prev = .boot) ∧
    (at' .ready).hif.nextQueue (at' .ready).heldBack = none ∧
    (let s := queued 0 0; s.ctl.state.live = true ∧ s.hif.d3hot = false ∧ s.sec.bootErr = 0 ∧ s.ctl.state ≠ .fault ∧ s.hif.nextQueue s.heldBack = some 0 ∧
      s.hif.busErr (128 * 0) 128 = false ∧ opcodeVersion (parseEntry 0 (s.hif.entryBytes 0)).opcode.toNat = some 0 ∧ 0 ≤ s.hci ∧
      entryReservedOk (s.hif.entryBytes 0) = true) ∧
    ({ (queued 0 0).hif with holes := [0] } : Hif).busErr (128 * 0) 128 = true ∧
    (let s := queued 0xFF 3; s.hif.nextQueue s.heldBack = some 0 ∧ opcodeVersion (parseEntry 0 (s.hif.entryBytes 0)).opcode.toNat = none) ∧
    (let s := queued 0x50 2; s.hif.nextQueue s.heldBack = some 0 ∧ opcodeVersion (parseEntry 0 (s.hif.entryBytes 0)).opcode.toNat = some 3 ∧ s.hci < 3) ∧
    (let s : State := { queued 0 0 with hif := { (queued 0 0).hif with mem := [(4, 1)] } }; s.hif.nextQueue s.heldBack = some 0 ∧
      opcodeVersion (parseEntry 0 (s.hif.entryBytes 0)).opcode.toNat = some 0 ∧ entryReservedOk (s.hif.entryBytes 0) = false) := by
  decide +kernel

theorem witness_QueuesConfiguredAndSignalled :
    (let s : State := { at' .ready with ctl := { state := .ready, hciValid := true }, hif := { cq := [(63, { enable := true })] } };
      let v : W32 := 0x803F0000
      s.ctl.state.live = true ∧ (s.hif.sq.at 63).enable = false ∧ v.getLsbD 31 = true ∧ s.ctl.hciValid = true ∧ (s.hif.cq.at (v.toNat / 65536 % 64)).enable = true ∧
        (s.hif.cq.at 0).enable = false ∧ s.hif.events = []) ∧
    ((at' .ready).ctl.hciValid = false ∧ (0#32).getLsbD 31 = false) ∧
    (let s : State := { at' .ready with hif := { sq := [(0, { enable := true, cq := 5 })], cq := [(5, { enable := true })] } };
      s.ctl.state.live = true ∧ (s.hif.cq.at 5).enable = true ∧ s.hif.cqUsed 5 = true) ∧
    ((at' .boot).ctl.state = .boot ∧ ({ at' .reset with rst := { cold := false } } : State).rst.cold = false) ∧
    (let s : State := { at' .ready with ctl := { state := .ready, hciMinor := 1 }, hif := { cq := [(0, { enable := true, intEn := true, coalUs := 1, unsig := 1 })] } };
      let k := s.hif.cq.at 0
      k.enable = true ∧ k.intEn = true ∧ k.coalUs ≠ 0 ∧ 0 < k.unsig ∧ 1 ≤ s.hci ∧ (s.hif.msix.at k.vector.toNat).mask = true) := by decide +kernel

theorem witness_Bar4Accesses :
    (let s := at' .ready; s.ctl.state.live = true ∧ 63 < 2 ^ s.hif.bar4Log ∧ bar4Ok s.img s.memr.ddr (s.hif.bar4Base.toNat + 63) 1 = true ∧
      ((spanPlaces (s.hif.bar4Base.toNat + 63) 1).any s.mem.poisoned) = false ∧ s.fab.inject = [] ∧
      bar4Ok s.img s.memr.ddr (s.hif.bar4Base.toNat + 63) 2 = false ∧ (spanPlaces (s.hif.bar4Base.toNat + 63) 1).Nodup ∧ s.hif.bar4Log ≤ 48 ∧
      (mergedPlaces ((spanPlaces (s.hif.bar4Base.toNat + 63) 1).zip [7]))[0]? = some (addrPlace 63) ∧ s.inActiveStore (addrPlace 63) = false ∧
      ¬ 2 ^ 34 < 2 ^ s.hif.bar4Log) ∧
    (let s : State := { at' .ready with mem := ({} : Mem).setPoison (addrPlace 0) true }; bar4Ok s.img s.memr.ddr 0 64 = true ∧
      ((spanPlaces 0 64).any s.mem.poisoned) = true) := by decide +kernel

theorem witness_IllegalCommandRejected :
    ([0x10, 0x11, 0x12, 0x13, 0x14, 0x15, 0x18].all fun op => let e := ent (BitVec.ofNat 8 op) 0 0 0 0;
      let d := if op = 0x18 then Dev.ready else .fault
      (withE d e).hif.fetched[0]? = some e && (withE d e).turn 0 e && (withE d e).ctl.state.live && !legalIn op (fld64 e.p0 7 0 == 5) d) = true ∧
    (let e := ent 0x10 0 0 0 0; let s : State := { withE .loaded e with upd := { sweep := some (0, []) } }; s.due 0 e 0x10 ∧ s.upd.sweep.isSome = true) ∧
    ([0x20, 0x40, 0x41, 0x42].all fun op => let e := ent (BitVec.ofNat 8 op) 0 0 0 0
      (withE .ready e).turn 0 e && !legalIn op (fld64 e.p0 7 0 == 5) .ready) = true ∧
    ([1, 2, 3, 4, 5].all fun k => let e := ent 0x30 k 0 0 0
      (withE .ready e).turn 0 e && !legalIn 0x30 (fld64 e.p0 7 0 == 5) .ready && e.p0.toNat % 256 == k.toNat) = true ∧
    (let e := ent 0x30 6 0 0 0; let s : State := { withE .ready e with ctl := { state := .ready, hciMinor := 1 } };
      s.due 0 e 0x30 ∧ legalIn 0x30 (fld64 e.p0 7 0 == 5) s.ctl.state = false ∧ e.p0.toNat % 256 = 6 ∧ 1 ≤ s.hci) ∧
    (let e := ent 0x62 0 0 0 0; (withE .armed e).turn 0 e = true ∧ legalIn 0x62 (fld64 e.p0 7 0 == 5) .armed = false ∧ (withE .armed e).sec.blow = []) := by
  unfold State.due; decide +kernel

theorem witness_IdentityCommands :
    (let e := ent 0 0 0 0 0; (withE .fault e).due 0 e 0) ∧ (let e := ent 1 4095 0 0 0; (withE .fault e).due 0 e 1 ∧ e.p0.toNat % 4096 ≠ 0) ∧
    (let e := ent 1 4096 0 0 0; let s := withE .fault e; s.due 0 e 1 ∧ e.p0.toNat % 4096 = 0 ∧ s.hif.busErr e.p0.toNat 4096 = false ∧
      ({ s.hif with holes := [1] } : Hif).busErr e.p0.toNat 4096 = true) ∧
    (let e := ent 0x60 63 0 0 0; (withE .ready e).due 0 e 0x60 ∧ ¬ (e.p0.toNat % 64 = 0 ∧ (withE .ready e).hif.busErr e.p0.toNat 3584 = false)) ∧
    (let e := ent 0x60 64 3583 0 0; let s := withE .ready e; s.due 0 e 0x60 ∧ (e.p0.toNat % 64 = 0 ∧ s.hif.busErr e.p0.toNat 3584 = false) ∧ e.p1.toNat < 3584) ∧
    (let e := ent 0x60 64 3584 0 0; let s := withE .ready e; s.due 0 e 0x60 ∧ s.hif.busErr e.p0.toNat 3584 = false ∧ 3584 ≤ e.p1.toNat ∧ s.sec.idKeyReady = false) ∧
    (let e := ent 0x60 64 3584 0 0; let s : State := { withE .ready e with sec := { idKeyReady := true } };
      s.due 0 e 0x60 ∧ s.hif.busErr e.p0.toNat 3584 = false ∧ s.sec.idKeyReady = true) := by unfold State.due; decide +kernel

theorem witness_ArmRunDrain :
    (let e := ent 0x11 0 0 0 0; let s : State := { withE .loaded e with tmr := { timeValid := true } }; s.due 0 e 0x11 ∧ s.ctl.state = .loaded ∧ s.tmr.timeValid = true) ∧
    (let e := ent 0x11 0 0 0 0; let s := withE .loaded e; s.due 0 e 0x11 ∧ s.ctl.state = .loaded ∧ s.tmr.timeValid = false) ∧
    (let e := ent 0x12 0 0 0 0; let s := withE .armed e; s.due 0 e 0x12 ∧ s.ctl.state = .armed) ∧
    (let e := ent 0x13 0xFFFFFFFF 0 0 0; let s := withE .armed e; s.due 0 e 0x13 ∧ s.ctl.state = .armed ∧ s.flt.needFlush = false ∧ e.p0.toNat < 2 ^ 32) ∧
    (let e := ent 0x13 0 0 0 0; let s : State := { withE .armed e with flt := { needFlush := true } }; s.due 0 e 0x13 ∧ s.flt.needFlush = true ∧ e.p0.toNat < 2 ^ 32) ∧
    (let e := ent 0x13 0x100000000 0 0 0; let s := withE .armed e; s.due 0 e 0x13 ∧ s.ctl.state = .armed ∧ 2 ^ 32 ≤ e.p0.toNat) ∧
    (let e := ent 0x14 0 0 0 0; let s : State := { withE .stepping e with adm := { running := true } }; s.due 0 e 0x14 ∧ s.ctl.state = .stepping ∧ s.adm.running = true) ∧
    (let e := ent 0x14 0 0 0 0; let s := withE .stepping e; s.due 0 e 0x14 ∧ s.ctl.state = .stepping ∧ s.adm.running = false) ∧
    (let e := ent 0x14 0 0 0 0; let s := withE .draining e; s.due 0 e 0x14 ∧ s.ctl.state = .draining) := by unfold State.due; decide +kernel

theorem witness_AbortAndFaultClear :
    (let e := ent 0x15 0 0 0 0; let s : State := { withE .draining e with adm := { running := true } };
      s.due 0 e 0x15 ∧ s.ctl.state = .draining ∧ s.adm.running = true ∧ s.adm.updStarted = false ∧ s.flt.abandoning = false) ∧
    (let e := ent 0x18 0 0 0 0; let s : State := { withE .fault e with flt := { abandoning := true } }; s.due 0 e 0x18 ∧ s.ctl.state = .fault ∧ s.flt.abandoning = true) ∧
    (let e := ent 0x18 0 0 0 0; let s : State := { withE .fault e with img := some {} };
      s.due 0 e 0x18 ∧ s.ctl.state = .fault ∧ s.flt.abandoning = false ∧ s.adm.running = false ∧ s.img.isSome = true ∧ ({ running := true } : Adm).running = true) ∧
    (let e := ent 0x18 0 0 0 0; let s := withE .fault e; s.due 0 e 0x18 ∧ s.ctl.state = .fault ∧ s.flt.abandoning = false ∧ s.img = none) := by
  unfold State.due; decide +kernel

theorem witness_EntriesThatWait :
    (let e := ent 0x20 0 0 0 0; let s := withE .loaded e; s.due 0 e 0x20 ∧ legalIn 0x20 false s.ctl.state = true ∧ sampleFieldsOk e.data = false) ∧
    (let e := { ent 0x20 0 0 0 0 with data := [1, 0, 0, 0, 64, 0, 0, 0] ++ List.replicate 56 0 }; let s := withE .draining e; s.due 0 e 0x20 ∧ legalIn 0x20 false s.ctl.state = true ∧ sampleFieldsOk e.data = true) ∧
    (let e := ent 0x50 0x100000800FFF 4096 0 0; let s := withE .ready e; let p := e.p0.toNat; s.due 0 e 0x50 ∧
      ¬ (p / 2 ^ 12 % 2 ^ 4 ≠ 0 ∨ p / 2 ^ 24 % 2 ^ 8 ≠ 0 ∨ p / 2 ^ 48 ≠ 0) ∧ 0x80 ≤ p / 2 ^ 16 % 2 ^ 8 ∧ p / 2 ^ 32 % 2 ^ 16 ≤ 4096 ∧
      s.hif.busErr e.p1.toNat (p / 2 ^ 32 % 2 ^ 16) = false ∧ ({ s.hif with holes := [1] } : Hif).busErr e.p1.toNat (p / 2 ^ 32 % 2 ^ 16) = true) ∧
    (let e := ent 0x50 0x1000000801000 0 0 0; (withE .ready e).due 0 e 0x50 ∧ e.p0.toNat / 2 ^ 12 % 2 ^ 4 ≠ 0 ∧ e.p0.toNat / 2 ^ 48 ≠ 0) ∧
    (let e := ent 0x50 0x1001007F0000 0 0 0; (withE .ready e).due 0 e 0x50 ∧ e.p0.toNat / 2 ^ 16 % 2 ^ 8 < 0x80 ∧ 4096 < e.p0.toNat / 2 ^ 32 % 2 ^ 16) ∧
    (let e := ent 0x51 0 0 0 0; (withE .ready e).due 0 e 0x51 ∧ (withE .ready e).hif.mailHeld = []) ∧
    (let e := ent 0x51 0 0 0 0; let m : Mail := { node := 1, msg := 0x80, bytes := List.replicate 8 0 }; let s : State := { at' .ready with hif := { fetched := [e], mailHeld := [m] } };
      s.due 0 e 0x51 ∧ s.hif.mailHeld = m :: [] ∧ s.hif.busErr e.p1.toNat m.bytes.length = false ∧
        ({ s.hif with holes := [0] } : Hif).busErr e.p1.toNat m.bytes.length = true) := by unfold State.due; decide +kernel

theorem witness_SyncObjects :
    (let e := ent 0x30 (BitVec.ofNat 64 (1 + 16383 * 65536)) 0xFFFFFFFF 0 0; let s := withE .loaded e; s.due 0 e 0x30 ∧ legalIn 0x30 false s.ctl.state = true ∧ 16383 < 16384 ∧
      e.p0.toNat = 1 + 16383 * 65536 ∧ e.p1 ≠ 0 ∧ e.p1.toNat < 2 ^ 32) ∧
    (let e := ent 0x30 1 0 0 0; e.p0.toNat = 1 + 0 * 65536 ∧ e.p1 = 0) ∧
    (let e := ent 0x30 2 1 0 0; let s := withE .loaded e; s.due 0 e 0x30 ∧ e.p0.toNat = 2 + 0 * 65536 ∧ e.p1 ≠ 0 ∧ s.sync.hostTakes < 256) ∧
    (let e := ent 0x30 2 1 0 0; let s : State := { withE .loaded e with sync := { objs := [(0, { fifo := List.replicate 256 (.host e, 1) })] } };
      s.due 0 e 0x30 ∧ 256 ≤ s.sync.hostTakes) ∧
    (let e := ent 0x30 3 0xFFFFFFFF 0 0; e.p0.toNat = 3 + 0 * 65536 ∧ e.p1.toNat < 2 ^ 32) ∧ (let e := ent 0x30 4 0xFFFF 0 0; e.p0.toNat = 4 + 0 * 65536 ∧ e.p1.toNat < 2 ^ 16) ∧
    (let e := ent 0x30 5 0 0 0; e.p0.toNat = 5 + 0 * 65536) ∧
    (let e := ent 0x30 6 1 0 0; let s : State := { withE .loaded e with ctl := { state := .loaded, hciMinor := 1 } };
      s.due 0 e 0x30 ∧ e.p0.toNat = 6 + 0 * 65536 ∧ e.p1.toNat < 2 ∧ 1 ≤ s.hci) ∧
    (let x : Sync := { objs := [(0, { count := 0xFFFFFFFF, threshold := 1, fifo := [(.backlog, 0xFFFFFFFF)] })] };
      let b := (x.objs.at 0).apply (.signal 1)
      2 ^ 32 ≤ (x.objs.at 0).count.toNat + (1#32).toNat ∧ b.1.threshold ≠ 0 ∧ b.1.threshold.toNat ≤ b.1.count.toNat ∧
        (∃ y, y = (x.op 0 (.signal 1)).1.objs.at 0 ∧ y.fifo = (.backlog, 0xFFFFFFFF) :: [])) ∧
    (let x : Sync := {}; ((x.objs.at 0).apply (.signal 1)).1.threshold = 0) := by
  unfold State.due
  refine ⟨?_, ?_, ?_, ?_, ?_, ?_, ?_, ?_, ⟨?_, ?_, ?_, _, rfl, ?_⟩, ?_⟩ <;> decide +kernel

theorem witness_ExportSnapshotImport :
    (let e := ent 0x40 15 0 0xFFFFFFFF (BitVec.allOnes 64); let s : State := { withE .loaded e with img := some {} };
      s.due 0 e 0x40 ∧ legalIn 0x40 false s.ctl.state = true ∧ e.p0.toNat < 16 ∧ e.p3 = BitVec.allOnes 64 ∧ s.sec.canSeal = false) ∧
    (let e := ent 0x40 15 0 0xFFFFFFFF (BitVec.allOnes 64);
      let s : State := { withE .loaded e with img := some {}, sec := { idKeyReady := true, expKeyValid := true } }
      let n := sealedSize (s.exportPlain {} 15 (s.ownedBlocks {})).length
      s.sec.canSeal = true ∧ ((s.ownedBlocks {}).flatMap (({} : Image).exportPlaces s.upd 15)).any s.mem.poisoned = false ∧ n ≤ e.p2.toNat ∧
        s.hif.busErr e.p1.toNat n = false ∧ ({ s.hif with holes := [0] } : Hif).busErr e.p1.toNat n = true ∧ 1 < n) ∧
    (let e := ent 0x42 0 0 0 0; let s : State := { withE .draining e with img := some {} }; s.due 0 e 0x42 ∧ legalIn 0x42 false s.ctl.state = true) ∧
    (let e := ent 0x42 0 0 0 0; let s : State := { at' .armed with img := some {}, gx := { snapshots := [some e], rounded := true } };
      s.gx.snapshots = [some e] ∧ s.ctl.state = .armed ∧ s.atBoundary = true ∧ s.gx.rounded = true ∧ s.gx.round = none ∧ s.sec.canSeal = false) ∧
    (let e := ent 0x42 0 0 0 0;
      let s : State := { at' .armed with img := some {}, gx := { snapshots := [some e], rounded := true }, sec := { idKeyReady := true, expKeyValid := true }, hif := { snapLen := 0xFFFFFFFF } }
      let n := sealedSize (s.exportPlain {} 15 (s.ownedBlocks {})).length
      s.atBoundary = true ∧ s.sec.canSeal = true ∧ ((s.ownedBlocks {}).flatMap (({} : Image).exportPlaces s.upd 15)).any s.mem.poisoned = false ∧
        n ≤ s.hif.snapLen.toNat ∧ s.hif.busErr s.hif.snapAddr.toNat n = false) ∧
    (let e := ent 0x41 0 0 0 0; let s : State := { withE .armed e with img := some {} }; s.due 0 e 0x41 ∧ legalIn 0x41 false s.ctl.state = true ∧
      s.openSealed [] = none) := by
  unfold State.due; decide +kernel

theorem witness_ImageLoadOutcomes :
    (let e := ent 0x10 0 0 0 0; let s := withE .ready e; s.due 0 e 0x10 ∧ s.ctl.state = .ready ∧ s.upd.sweep = none ∧ e.p0 = 0 ∧
      ¬ keyState s.sec.held ownerKeyLo = .complete) ∧
    (let e := ent 0x10 0 0 16 0; let s := { withE .ready e with sec := { held := ownerFuses } };
      s.due 0 e 0x10 ∧ s.ctl.state = .ready ∧ e.p0 = 0 ∧ 3 ≤ 8 ∧ 8 ≤ 8 ∧ keyState s.sec.held ownerKeyLo = .complete ∧
      s.hif.busErr e.p1.toNat (s.loadBytes e).length = false ∧
      (∃ r, (validate (s.loadBytes e) e.p2.toNat s.checkEnv).2 = some r ∧ passedAuth (some r) = false ∧ r.isSig = false)) ∧
    (let e := ent 0x10 0 0 16 0; let s : State := { withE .ready e with hif := { fetched := [e], mem := [(12, 1)], holes := [0] } };
      ¬ s.hif.busErr e.p1.toNat (s.loadBytes e).length = false) := by
  unfold State.due
  refine ⟨⟨by decide, rfl, rfl, rfl, by decide +kernel⟩, ⟨by decide, rfl, rfl, by decide, by decide, by decide +kernel, by decide +kernel, _, rfl, by decide +kernel, by decide +kernel⟩,
    by decide +kernel⟩

theorem witness_FaultsReportedAndRecorded :
    (let r : Report := { cls := .link, sev := .chip }; let s : State := { at' .fault with flt := { reports := [r], toWrite := [r] } };
      s.flt.reports = r :: [] ∧ r.tile = none ∧ s.flt.toWrite = r :: [] ∧ r.sev ≠ .corrected ∧ r.abandon = false ∧ s.adm.running = false ∧ s.flt.unread ≠ 256 ∧
        s.ctl.state.live = true ∧ s.flt.abandoning = false ∧ s.flt.fencePending s.crossed r = false ∧ r.sev = .chip) ∧
    (let r : Report := { cls := .sram, sev := .corrected, tile := some 255 }; let s : State := { at' .ready with flt := { reports := [r], ceThresh := 0 } };
      s.flt.reports = r :: [] ∧ r.tile = some 255 ∧ r.sev = .corrected ∧ s.img = none ∧ s.flt.ceThresh = 0) ∧
    ({ cls := .link, sev := .contained } : Report).sev = .contained ∧
    (let r : Report := { cls := .link, sev := .corrected }; let s : State := { at' .ready with flt := { toWrite := [r], logWr := 256 } };
      s.flt.toWrite = r :: [] ∧ r.sev = .corrected ∧ s.flt.unread = 256 ∧ s.flt.fencePending s.crossed r = false) ∧
    (let r : Report := { cls := .sram, sev := .contained, tile := some 0, fenced := true }; let s : State := { at' .stepping with flt := { reports := [r], toWrite := [r] }, adm := { running := true, updStarted := true } };
      s.flt.reports = r :: [] ∧ r.tile = some 0 ∧ (s.img.map (·.crossed)).getD false = false ∧ r.sev ≠ .corrected ∧ s.flt.toWrite = r :: [] ∧ s.flt.unread ≠ 256 ∧
        s.flt.fencePending s.crossed r = false ∧ 0 ∈ ({ s.flt with fences := [0] } : Flt).fences ∧ r.fenced = true) ∧
    (({ crossed := true } : Image).crossed = true) := by decide +kernel

theorem witness_FencesInjectionsAbandonments :
    (let im : Image := { descs := [{ (default : Desc) with cls := 9 }, { (default : Desc) with cls := 7 }], edges := [{ (default : EdgeRec) with consTile := 1, blockBytes := 8 }] };
      let x : Firing := { tile := 255, slot := 0, desc := 0, mb := 0, num := 0, q := 0, phase := .send, outs := [{ edge := 0, place := 0, bytes := List.replicate 8 7, sent := 0 }] };
      let y : Firing := { tile := 255, slot := 1, desc := 1, mb := 0, num := 0, q := 0, phase := .send };
      let s : State := { at' .stepping with img := some im, fab := { fenced := [0], firings := [x, y] }, flt := { fences := [255] } };
      255 < 256 ∧ s.flt.fences = 255 :: [] ∧ s.img = some im ∧ 0 ∈ s.fab.fenced ∧ x ∈ s.fab.firings ∧ x.tile = 255 ∧ (im.descAt x.desc).cls = 9 ∧ x.allSent im = false ∧
        (im.descAt y.desc).cls = 7) ∧
    ((at' .ready).ctl.state.live = true ∧ (at' .ready).img = none) ∧
    (let v : W32 := 0x80FF0005; v.getLsbD 31 = true ∧ 1 ≤ v.toNat % 8 ∧ v.toNat % 8 ≤ 5 ∧ ({ at' .loaded with img := some {} } : State).ctl.state.live = true) ∧
    (let s : State := { at' .draining with img := some {}, flt := { abandoning := true } };
      s.img = some {} ∧ s.flt.abandoning = true ∧ s.flt.reports = [] ∧ s.flt.toWrite = [] ∧ s.flt.chipAfter = false ∧ s.ctl.state = .draining) ∧
    (let s : State := { at' .stepping with flt := { abandoning := true, chipAfter := true } }; s.flt.abandoning = true ∧ s.flt.chipAfter = true ∧ s.ctl.state = .stepping) ∧
    (let r : Report := { cls := .hostAbort, sev := .contained, abandon := true }; let f : Flt := { toWrite := [r] }; r ∈ f.reports ++ f.toWrite ∧ r.abandon = true) := by
  refine ⟨⟨by decide, rfl, rfl, by decide, by decide, rfl, rfl, by decide +kernel, rfl⟩, by decide +kernel⟩

theorem witness_WatchersAndTileSync :
    (at' .boot).ctl.state.awake = true ∧
    (let s : State := { at' .stepping with img := some { edges := [{ (default : EdgeRec) with consTile := 255 }], descs := [{ (default : Desc) with tile := 255 }] }
                                           fab := { slots := [(16 * 255, { st := .running })] } };
      s.ctl.state.awake = true ∧ ∃ im, s.img = some im ∧ s.fab.held 255 = false ∧ s.watched im 255 .parity = true) ∧
    (let s : State := { at' .stepping with fab := { hold := true } }; Watch.firing ≠ .parity ∧ s.fab.held 255 = true) ∧
    (let s : State := { at' .ready with sync := { msgs := [.signal 16383 1 0, .take 0 1 255 15] }, fab := { fenced := [1] } };
      s.sync.msgs[0]? = some (.signal 16383 1 0) ∧ s.sync.msgs[1]? = some (.take 0 1 255 15) ∧ s.fab.fenced.contains 0 = false ∧ s.fab.fenced.contains 255 = false ∧ s.ctl.state.awake = true) ∧
    (let s : State := { at' .ready with sync := { msgs := [.signal 0 1 255, .take 0 1 255 15] }, fab := { fenced := [255] } };
      s.sync.msgs[0]? = some (.signal 0 1 255) ∧ s.sync.msgs[1]? = some (.take 0 1 255 15) ∧ s.fab.fenced.contains 255 = true) := by
  refine ⟨rfl, ⟨rfl, _, rfl, by decide +kernel, by decide +kernel⟩, by decide +kernel, by decide +kernel, by decide +kernel⟩

theorem witness_ScrubAndCheckValues :
    (let s : State := { at' .ready with memr := { initBusy := false } }; let k := s.memr.scrubPlace 7; s.ctl.state.live = true ∧ s.ctl.state.awake = true ∧ s.memr.initBusy = false ∧ s.memr.scrubOn 7 = true ∧ (s.memr.scrub.at 7).pos < s.memr.scrubBytes 7 ∧ s.mem.poisoned k = false ∧
      ((List.range (eccBytes k)).map (· + k)).any s.mem.poisoned = false ∧ s.memr.errValid = false ∧ (7#4).toNat < 8) ∧
    (let s : State := { at' .ready with memr := { initBusy := false, scrub := [(15, { pos := 2 ^ 30 })], ddr := [(7, { present := true, size := 1 })], errValid := true } };
      s.memr.scrubOn 15 = true ∧ s.memr.scrubBytes 15 ≤ (s.memr.scrub.at 15).pos ∧ 8 ≤ (15#4).toNat ∧ s.memr.errValid = true ∧ s.memr.initBusy = false ∧ s.ctl.state.awake = true) ∧
    ((1 : Nat) ≠ 0 ∧ (3 ≠ 3 ∨ false = false) ∧ 39 / 40 = 0 ∧ 40 / 40 = 1) ∧ (let v : W32 := 0x80000000; v.getLsbD 31 = true ∧ v.getLsbD 30 = false) ∧ (0x40000000#32).getLsbD 30 = true ∧
    ((List.replicate 63 ({} : CrcJob)).length < 64 ∧ 64 ≤ (List.replicate 64 ({} : CrcJob)).length) := by decide +kernel

/-- Check-value jobs that wait, run and end. -/
theorem witness_ScrubAndCheckValues_jobs :
    (let j : CrcJob := { len := 1 }; let s : State := { at' .fault with memr := { jobs := [j] } };
      s.ctl.state.live = true ∧ s.memr.running = none ∧ s.memr.jobs = j :: [] ∧ s.memr.results.length ≤ 64) ∧
    64 < (List.replicate 65 ({} : CrcRes)).length ∧ ({ running := some {} } : MemRegs).running.isSome = true ∧
    (let j : CrcJob := { addr := 0xFFFFFFFFFFFF, len := 1 }; let s : State := { at' .fault with memr := { running := some j } };
      s.memr.running = some j ∧ s.fab.inject = [] ∧ ¬ (j.len = 0 ∨ spanMapped s.memr.ddr j.addr.toNat j.len.toNat = true)) ∧
    (let j : CrcJob := { addr := 0, len := 8 }; let s : State := { at' .fault with memr := { running := some j, scanPos := 6 } };
      s.memr.running = some j ∧ spanMapped s.memr.ddr j.addr.toNat j.len.toNat = true ∧ (spanPlaces (j.addr.toNat + 6) (j.len.toNat - 6)).any s.mem.poisoned = false ∧
        6 + 1 < j.len.toNat ∧ s.pending = [] ∧ (spanPlaces (j.addr.toNat + 6) 51).any s.mem.poisoned = false) ∧
    (let j : CrcJob := { addr := 7, len := 1 }; let s : State := { at' .fault with memr := { running := some j }, mem := ({} : Mem).setPoison (addrPlace 0) true };
      spanMapped s.memr.ddr j.addr.toNat j.len.toNat = true ∧ (spanPlaces (j.addr.toNat + 0) (j.len.toNat - 0)).any s.mem.poisoned = true) := by decide +kernel

theorem witness_HostSetsTime : (at' .fault).ctl.state = .fault ∧ (at' .ready).ctl.state = .ready ∧ (at' .armed).ctl.state = .armed ∧ (at' .draining).ctl.state = .draining ∧
    (0x10#32).getLsbD 4 = true := by decide

theorem witness_ServoFollowsSource :
    ((at' .fault).ctl.state.live = true ∧ (3#32).getLsbD 4 = false ∧ (3#32).toNat % 4 = 3 ∧ (0#32).toNat % 4 = 0) ∧
    (let s : State := { at' .ready with tmr := { src := 1, servo := .locked } }; s.tmr.source = 1 ∧ s.tmr.servo = .locked) ∧
    (let s : State := { at' .ready with tmr := { src := 2, port := 11, servo := .acquiring } }; s.tmr.source = 2 ∧ s.tmr.servo = .acquiring) ∧
    (let s : State := { at' .ready with tmr := { src := 1, timeValid := true } }; let next := s.tmr.pulseExpected + 1000000000;
      s.tmr.source = 1 ∧ s.tmr.servo = .free ∧ s.tmr.pulseTaken = none ∧ s.tmr.timeValid = true ∧ 64000 < ((s.tmr.t64 : Int) - 64 * (next : Int)).natAbs) ∧
    (let s : State := { at' .ready with tmr := { src := 1, servo := .holdover, ns := 1000001000 } }; let next := s.tmr.pulseExpected + 1000000000;
      s.tmr.source = 1 ∧ s.tmr.servo = .holdover ∧ s.tmr.pulseTaken = none ∧ ((s.tmr.t64 : Int) - 64 * (next : Int)).natAbs ≤ 64000) ∧
    (let s : State := { at' .ready with tmr := { src := 1, pulseTaken := some 1000000, ns := 0 } }; s.tmr.source = 1 ∧ s.tmr.pulseTaken = some 1000000 ∧
      ((s.tmr.t64 : Int) - 64 * ((1000000 : Nat) : Int)).natAbs ≤ 64000000) ∧
    (let s : State := { at' .boot with tmr := { servo := .holdover } }; s.ctl.state.awake = true ∧ s.tmr.servo = .holdover ∧ s.tmr.boundExceeded 21 = true) := by decide +kernel

theorem witness_TimerEntriesArmAndFire :
    (let v : W32 := 0x80700000 + 16383; (at' .ready).ctl.state.live = true ∧ ((at' .ready).tmr.entries.at 2047).armed = false ∧ v.getLsbD 31 = true ∧
      v.toNat / 2 ^ 24 % 4 = 0 ∧ v.toNat / 2 ^ 20 % 16 < 8) ∧
    (let v : W32 := 0x80800000; v.getLsbD 31 = true ∧ 8 ≤ v.toNat / 2 ^ 20 % 16) ∧
    (let v : W32 := 0x81000000; let s : State := { at' .loaded with tmr := { step := 1 } }; v.getLsbD 31 = true ∧ v.toNat / 2 ^ 24 % 4 = 1 ∧ v.toNat / 2 ^ 20 % 16 < 8 ∧
      v.getLsbD 28 = false ∧ stepEnded (s.tmr.entries.at 0).step s.tmr.step = true) ∧
    (let s : State := { at' .loaded with tmr := { timeValid := true, ns := 5, entries := [(2047, { armed := true, time := 5 })] } }; let e := s.tmr.entries.at 2047;
      s.ctl.state.awake = true ∧ s.tmr.isDue e = true ∧ e.kind = 0 ∧ e.period = 0 ∧ s.ctl.state.live = true ∧ e.armed = true ∧ (0xE0000000#32).getLsbD 31 = true ∧
        (0#32).getLsbD 31 = false) ∧
    (let s : State := { at' .loaded with tmr := { timeValid := true, ns := 4, entries := [(2047, { armed := true, time := 5 })] } }; let e := s.tmr.entries.at 2047;
      e.armed = true ∧ s.tmr.isDue e = false) := by decide +kernel

theorem witness_TimerActionsIssue :
    (List.range 8).all (fun a => let d : Due := { time := 0, entry := 0, action := a, object := 16383, arg := 1 };
      let s : State := { at' .draining with tmr := { issue := [d] }, img := some {} };
      s.ctl.state.awake && s.tmr.issue == [d] && s.img.isSome && s.ctl.state == .draining && d.arg != 0) = true ∧
    (at' .ready).img = none ∧ ¬ ((at' .ready).ctl.state = .stepping ∨ (at' .ready).ctl.state = .draining) ∧ (at' .reset).ctl.state.awake = true ∧
    (at' .reset).ctl.state = .reset ∧ (at' .ready).ctl.state ≠ .reset := by decide +kernel

/-- One placement that marks slot 0 of tiles 0 and 1, a descriptor of class c on each, and an edge from tile 0 to tile 1. -/
def im1 (c : Nat) : Image :=
  { placements := [{ windows := [], tiles := [(0, 1), (0, 1)] }]
    descs := [{ (default : Desc) with cls := c, outEdges := [0], waitObj := none16, firesPerMb := 1 },
              { (default : Desc) with cls := c, tile := 1, inEdges := [0], waitObj := none16, firesPerMb := 1 }]
    edges := [{ (default : EdgeRec) with consTile := 1, capacity := 1, blockBytes := 8 }]
    routes := [{ (default : RouteRec) with dst := 1 }]
    regions := [{ (default : Region) with size := 65536 }] }

/-- A step with one frame, both slots idle, a credit on the edge and a token in it. -/
def run1 (c : Nat) : State :=
  { at' .stepping with
    img := some (im1 c)
    adm := { running := true, frames := [{ mb := 0, placement := 0 }] }
    fab := { slots := [(0, { st := .idle }), (16, { st := .idle, desc := 1 })], edges := [(0, { credits := 1, tokens := 1 })] } }

theorem witness_FiringsStart :
    (let s := run1 6; let im := im1 6; s.img = some im ∧ s.ready im 0 0 = true ∧ (im.descAt (s.fab.slot 0 0).desc).cls ≠ 9 ∧ s.gated 0 6 = false ∧
      (im.firePlaces s.fab 0 (im.descAt 0)).any s.mem.poisoned = false ∧ s.fab.inject = [] ∧ (im.descAt 0).inEdges = [] ∧ (im.descAt 0).outEdges.Nodup ∧
      (∀ j < 16, j ≠ 0 → s.ready im 0 j = false) ∧ s.ready im 255 15 = false) ∧
    (let s : State := { run1 1 with fab := (run1 1).fab.modArray 0 ArrayRegs.streamed }; let im := im1 1; isArray (im.descAt 0).cls = true ∧ s.ready im 0 0 = true ∧ (∀ j < 16, j ≠ 0 → s.ready im 0 j = false)) ∧
    (let s : State := { run1 1 with pwr := { gate := [(0, true)] } }; s.gated 0 1 = true ∧ s.pwr.gate.at 0 = true) ∧
    (let s : State := { run1 7 with mem := ({} : Mem).setPoison (tilePlace 1 0) true }; let im := im1 7;
      s.ready im 1 0 = true ∧ (im.firePlaces s.fab 1 (im.descAt 1)).any s.mem.poisoned = true) := by
  refine ⟨⟨rfl, by decide +kernel, by decide +kernel, by decide +kernel, by decide +kernel, rfl, rfl, by decide +kernel, by decide +kernel, by decide +kernel⟩, by decide +kernel⟩

theorem witness_FiringsStart_stem :
    (let s : State := { run1 9 with fab := { (run1 9).fab with edges := [(0, { credits := 1 })] } }; let im := im1 9;
      s.img = some im ∧ (regionOf 0 = 0 ∧ (im.descAt (s.fab.slot 0 0).desc).cls = 9 ∧ s.ready im 0 0 = true) ∧ s.pwr.gate.at 0 = false ∧
      s.fab.stem.at 0 ≤ 256 ∧ (∀ t < 256, ∀ k < 16, s.ready im t k = true → t = 0 ∧ k = 0) ∧ (∀ t < 256, ∀ k < 16, regionOf t = 15 → s.ready im t k = false)) := by decide +kernel

/-- That step with a firing of descriptor d of tile d in phase p. -/
def fire (c d : Nat) (p : Phase) (g : Firing → Firing) : State :=
  { run1 c with fab := { (run1 c).fab with firings := [g { tile := d, slot := 0, desc := d, mb := 0, num := 0, q := 0, phase := p }] } }

/-- The block of 8 bytes on edge 0. -/
def blk (sent : Nat) : OutBlk := { edge := 0, place := 0, bytes := List.replicate 8 7, sent := sent }

/-- Parameters of a memory descriptor: one row of one unit of a region. -/
def memRaw (region : Nat) : List Byte := [BitVec.ofNat 8 region, 0, 1, 0, 1, 0] ++ List.replicate 78 0

/-- A check of stage 3 of row 1 that has failed on the partner's array. -/
def bad1 : CheckFail := { partner := true, row := 1, stage := 3 }

theorem witness_ReturnsAndVerdicts :
    (let s := fire 6 0 .data id; let im := im1 6; let x : Firing := { tile := 0, slot := 0, desc := 0, mb := 0, num := 0, q := 0, phase := .data };
      s.img = some im ∧ s.fab.firing? 0 0 = some x ∧ x.phase = .data ∧ (s.memPlaces im (im.descAt x.desc) x).any s.mem.poisoned = false ∧ s.fab.fenced.contains x.tile = false ∧
        s.fab.inject = [] ∧ s.adm.disturbed = false ∧ (im.descAt x.desc).cls ≠ 7 ∧ im.namesStash (im.descAt x.desc) = false ∧
        ({ s.fab with fenced := [0] } : Fab).fenced.contains x.tile = true ∧ ({ s.adm with disturbed := true } : Adm).disturbed = true) ∧
    (let im : Image := { im1 6 with descs := [{ (default : Desc) with cls := 6, params := memRaw 0 }] };
      let s : State := { fire 6 0 .data id with img := some im, mem := ({} : Mem).setPoison 0 true }
      ∃ x, s.fab.firing? 0 0 = some x ∧ (s.memPlaces im (im.descAt x.desc) x).any s.mem.poisoned = true) ∧
    (∃ x, (fire 1 1 .verdict id).fab.firing? 1 0 = some x ∧ x.phase ≠ .data ∧ x.phase = .verdict ∧ x.fail = none ∧ x.forced = 0 ∧ x.again = false ∧ ((im1 1).descAt x.desc).inEdges.Nodup ∧
      ((im1 1).descAt x.desc).inEdges = [0] ∧ 0 ∉ x.freed) := by
  exact ⟨by decide +kernel, ⟨_, rfl, by decide +kernel⟩, _, rfl, by decide +kernel⟩

/-- A first failure and a repeat's end. -/
theorem witness_ReturnsAndVerdicts_repeats :
    let again := fun (x : Firing) => { x with again := true, first := some bad1 }
    let failed := fun (x : Firing) => { x with again := true, fail := some bad1 }
    (∃ x, (fire 1 1 .verdict again).fab.firing? 1 0 = some x ∧ x.again = true ∧ x.fail = none ∧ x.forced = 0 ∧ x.first = some bad1 ∧ (run1 1).ctl.state.awake = true) ∧
    (let s := fire 1 0 .verdict fun x => { x with forced := 2, fail := some bad1 }; ∃ x, s.fab.firing? 0 0 = some x ∧ x.again = false ∧ x.forced ≠ 0 ∧ x.fail = some bad1 ∧
      ((im1 1).firePlaces s.fab x.tile ((im1 1).descAt x.desc)).any s.mem.poisoned = false ∧ s.fab.inject = [] ∧ ((im1 1).descAt x.desc).inEdges = [] ∧
      s.fab.fenced.contains x.tile = false ∧ ({ s.fab with fenced := [0] } : Fab).fenced.contains x.tile = true) ∧
    (∃ x, (fire 1 0 .verdict failed).fab.firing? 0 0 = some x ∧ x.again = true ∧ x.fail ≠ none ∧ (fire 1 0 .verdict id).ctl.state.awake = true) := by
  refine ⟨?_, ?_, ?_⟩ <;> exact ⟨_, rfl, by decide +kernel⟩

/-- One line of 32 ones against itself: an integer column whose checksum cells hold 1 for each position. -/
def col1 : Column := { lines := [(List.replicate 32 (Fl.ofInt 1), [255])], sums := List.replicate 32 (Fl.ofInt 1) }

theorem witness_ReturnsAndVerdicts_columns :
    let xs := List.replicate 32 (Fl.ofInt 1)
    let f : RowFaults := { sum := fun o b => if o = 0 ∧ b = 0 then some 7 else none }
    (xs.length % 32 = 0 ∧ col1.sums.length = xs.length ∧ (∀ l ∈ col1.lines, l.1.length = xs.length) ∧
      (∀ k < xs.length, ((col1.sums.getD k default).toInt - (col1.lines.map fun l => (l.1.getD k default).toInt).sum) % 2 ^ 32 = 0)) ∧
    ((∀ b, f.check b = none) ∧ (∀ j b, j ≠ 0 → f.sum j b = none) ∧ (col1.rowInt xs f).y.getD 0 0 ≠ (col1.rowInt xs {}).y.getD 0 0) ∧
    (0 < xs.length / 32 ∧ 32 * 0 < 128 ∧ (∃ l ∈ col1.lines, l.2.getD 0 0 = 255) ∧ ∀ o, ({} : RowFaults).stage o 0 = none ∧ ({} : RowFaults).added o 0 = none) ∧
    (let g : RowFaults := { stage := fun o b => if o = 0 ∧ b = 0 then some 7 else none, added := fun o b => if o = 0 ∧ b = 0 then some 7 else none };
      col1.lines[0]? = some (xs, [255]) ∧ g.stage 0 0 = some 7 ∧ 7 ≠ blockValue ((lineSums xs xs (g.sum 0)).getD 0 (.fin false 0 0)) 127 255 false true ∧
        g.added 0 0 = some 7 ∧ 7 ≠ stageSum (columnValues 128 false (lineSums xs xs (g.sum 0)) [127] [255]) 0) := by
  refine ⟨by decide +kernel, ⟨fun _ => rfl, fun j b h => if_neg fun e => h e.1, by decide +kernel⟩, ⟨by decide, by decide, by decide, fun _ => ⟨rfl, rfl⟩⟩, by decide +kernel⟩

theorem witness_FiringsEnd :
    (∃ x, (fire 4 0 .send fun x => { x with outs := [blk 0] }).fab.firing? 0 0 = some x ∧ x.allSent (im1 4) = false) ∧
    (∃ x, (fire 5 0 .send fun x => { x with outs := [blk 1], sram := [(64, [1, 2])] }).fab.firing? 0 0 = some x ∧ x.allSent (im1 5) = true ∧
      (∀ b ∈ x.outs, ¬ (let e := ((im1 5).edge? b.edge).getD default; e.prodTile = e.consTile)) ∧ x.sram = (64, [1, 2]) :: [] ∧
      (let stored := ([1, 2] : List Byte).zipIdx.map fun p => (im1 5).sramPlace' x.tile (64 + p.2);
        stored.Nodup ∧ stored.length = 2 ∧ stored.any (run1 5).mem.poisoned = false)) ∧
    (run1 5).adm.disturbed = false ∧ ((im1 9).descAt 0).cls = 9 ∧ (run1 9).ctl.state.awake = true := by
  refine ⟨⟨_, rfl, by decide +kernel⟩, ⟨_, rfl, by decide +kernel, by decide +kernel, rfl, by decide +kernel⟩, rfl, rfl, rfl⟩

/-- A flit of edge 0 on its way to tile 1. -/
def flt1 (use : FlitUse) (place : Nat) (poison : Bool) : Flit :=
  { edge := 0, place := place, index := 0, dst := 1, vc := if use = .data then 0 else 6, yFirst := false, last := true, poison := poison, bytes := List.replicate 8 7, use := use }
/-- A mesh with that flit in the buffer of tile 1 on port W. -/
def in1W (fl : Flit) : Fab := { bufs := [((1 * 4 + 3) * 8 + fl.vc, [fl])] }

theorem witness_MeshMoves :
    (let s := fire 4 0 .send fun x => { x with outs := [blk 0] }; let im := im1 4;
      s.img = some im ∧ neighbour 1 3 = some 0 ∧ facing 3 = 1 ∧ (0, 5) ∉ s.fab.inject ∧ s.ctl.state.awake = true ∧
        ∃ q fl, s.fab.arbitrate im 0 (facing 3) false = some (q, fl)) ∧
    (let fl := flt1 .data 0 false; (in1W fl).arbitrate (im1 4) 1 4 false = some (3, fl) ∧ fl.use ≠ .descriptor ∧ fl.poison = false ∧ fl.use = .data ∧ fl.last = true ∧ 3 < 4) ∧
    (let fl := flt1 .data 1 true; let f := in1W fl; f.arbitrate (im1 4) 1 4 true = some (3, fl) ∧ fl.poison = true ∧ fl.last = true ∧ fl.place ≠ (f.edge 0).expect) ∧
    (let fl := { flt1 .data 0 false with last := false }; (in1W fl).arbitrate (im1 4) 1 4 false = some (3, fl) ∧ fl.last = false) ∧
    ((let fl := flt1 .preload 0 false; (in1W fl).arbitrate (im1 4) 1 4 true = some (3, fl) ∧ fl.use = .preload) ∧
      (let fl := flt1 .descriptor 0 false; (in1W fl).arbitrate (im1 4) 1 4 false = some (3, fl) ∧ fl.use = .descriptor)) ∧
    (let m : CtlMsg := { edge := 0, count := 64, src := 1, dst := 0, yFirst := false }; let f : Fab := { edges := [(0, { queued := 65 })] };
      ∃ r, (im1 4).edge? 0 = some r ∧ r.consTile = 1 ∧ (f.edge 0).queued ≠ 0 ∧ f.ctl.at (5 * 1 + 4) = [] ∧
        ∃ o ∈ ({ f with ctl := [(9, [m])] } : Fab).ctl.at (5 * 1 + 4), o.edge = 0) ∧
    (let m : CtlMsg := { edge := 0, count := 63, src := 1, dst := 0, yFirst := false }; let f : Fab := { ctl := [(9, [m])], edges := [(0, { queued := 65 })] };
      neighbour 0 1 = some 1 ∧ f.chooseCtl 1 (facing 1) = some (4, { m with count := 64 }) ∧ m.dst = 0 ∧ ((f.ctl.at (5 * 1 + 4)).map (·.edge)).Nodup) ∧
    (let m : CtlMsg := { edge := 0, count := 64, src := 2, dst := 0, yFirst := false }; let f : Fab := { ctl := [(11, [m])] };
      neighbour 1 1 = some 2 ∧ f.chooseCtl 2 (facing 1) = some (1, m) ∧ 1 ≠ 4 ∧ m.dst ≠ 1) ∧
    (let s := fire 4 1 .send id; let x : Firing := { tile := 1, slot := 0, desc := 1, mb := 0, num := 0, q := 0, phase := .send };
      ∃ r, (im1 4).edge? 0 = some r ∧ r.consTile = 1 ∧ (s.fab.edge 0).queued = 0 ∧ s.fab.firing? 1 r.consSlot = some x ∧ 0 ∈ ((im1 4).descAt x.desc).inEdges ∧ 0 ∉ x.freed ∧
        x.phase ≠ .verdict ∧ r.prodTile ≠ 1) := by
  refine ⟨⟨rfl, rfl, rfl, by decide, rfl, _, _, rfl⟩, by decide +kernel, by decide +kernel, by decide +kernel, by decide +kernel, ⟨_, rfl, by decide +kernel⟩, by decide +kernel,
    by decide +kernel, ⟨_, rfl, by decide +kernel⟩⟩

/-- Two placements that mark slot 0 of tile 0. -/
def im2 : Image :=
  { placements := List.replicate 2 { windows := [], tiles := [(0, 1)] }, descs := [default, { (default : Desc) with placement := 1 }] }

theorem witness_SlotLoadsAndHalts :
    (let s : State := { at' .stepping with img := some im2, adm := { frames := [{ mb := 0, placement := 1 }] }, fab := { slots := [(0, { st := .idle })] } };
      im2.swapped 0 0 = true ∧ (s.fab.slot 0 0).st = .idle ∧ s.adm.swapTo im2 s.fab 0 0 = some 1) ∧
    (let s : State := { at' .stepping with img := some im2 }; (s.fab.slot 0 0).st = .empty ∧ s.adm.swapTo im2 s.fab 0 0 = none) ∧
    (let s : State := { at' .stepping with img := some im2, fab := { slots := [(4095, { st := .loading })] } };
      (s.fab.slot 255 15).st = .loading ∧ s.fab.loads.at (16 * 255 + 15) = 0 ∧ ({ loads := [(4095, 1)] } : Fab).loads.at (16 * 255 + 15) ≠ 0 ∧ (s.fab.slot 0 0).st ≠ .loading ∧ s.ctl.state.live = true ∧ (1#32).getLsbD 0 = true) ∧
    (let j : SpoonJob := { site := 0, y := [], x := [], w := [] }; let s : State := { run1 4 with fab := { spoon := [(0, [j])] } };
      s.fab.spoon.at 0 = j :: [] ∧ s.fab.fenced.contains 0 = false ∧ s.gated 0 4 = false ∧ ({ s.fab with fenced := [0] } : Fab).fenced.contains 0 = true ∧
        ({ s with pwr := { gate := [(0, true)] } } : State).gated 0 4 = true) ∧ (run1 4).fab.spoon.at 0 = [] := by decide +kernel

/-- A stash store of one page (its object is 0) and an accumulating store, in the first of two placements; one tensor of one element. -/
def im3 : Image :=
  { placements := [{ windows := [], tiles := [(0, 1), (0, 1)] }, { windows := [], tiles := [] }]
    descs := [{ (default : Desc) with cls := 7, params := memRaw 0, firesPerMb := 1, waitObj := none16, sigObj := 0, sigCount := 1 },
              { (default : Desc) with cls := 7, tile := 1, params := memRaw 1, firesPerMb := 1, waitObj := none16, sigObj := none16 }]
    regions := [{ (default : Region) with kind := 5, size := 65536 }, { (default : Region) with kind := 4, size := 64 }, { (default : Region) with tier := 2, size := 4096 }]
    upd := { mbCount := 2, tensors := [{ (default : Tensor) with grad := 1, rows := 1, cols := 1, master := 2, state := 2, stateOff := 64, copy := 2, copyOff := 128 }], groups := [default] }
    bkt := { slotRegion := 2, buckets := [{ (default : Bucket) with blockCount := 1, deadlineOff := 100 }] } }

/-- A step of that image. -/
def run3 (fs : List Frame) : State :=
  { at' .stepping with
    img := some im3, inp := { ready := [(0, [])] }, adm := { running := true, frames := fs, depth := 2 }
    fab := { slots := [(0, { st := .idle, done := 1 }), (16, { st := .idle, desc := 1 })] } }

theorem test_im3_layers : im3.stashLayers 0 = [0] := by
  have h : ((im3.indices.filter fun i => im3.isStashStore i && (im3.descAt i).placement == 0).map fun i => (im3.descAt i).sigObj).eraseDups = [0] := by
    decide +kernel
  unfold Image.stashLayers; simp [h]

theorem test_im3_need : im3.need 0 = 1 := by unfold Image.need; rw [test_im3_layers]; decide +kernel

theorem witness_MicroBatchFlow :
    (let s := run1 4; let im := im1 4; let s : State := { s with inp := { ready := [(0, [])] }, adm := { running := true } };
      s.img = some im ∧ s.inp.ready = (0, []) :: [] ∧ s.stepping = true ∧ s.adm.refused = false ∧ s.flt.abandoning = false ∧ s.adm.frames.length < im.upd.mbCount ∧
        (s.adm.choose im []).1 = 0 ∧ (∃ fr, s.adm.plan im 0 0 = .ok fr) ∧ s.toLoad im 0 = [] ∧ s.loadingFor im 0 = false ∧ s.upd.reserve im s.adm.frames.length 0 = some s.upd) ∧
    (let s := run3 [{ mb := 0, placement := 1 }]; s.stepping = true ∧ s.adm.frames.length < im3.upd.mbCount ∧ (s.adm.choose im3 []).1 = 0 ∧
      (∃ fr, s.adm.plan im3 0 0 = .ok fr) ∧ s.toLoad im3 0 = [] ∧ s.loadingFor im3 0 = false ∧ s.upd.reserve im3 s.adm.frames.length 0 = none) ∧
    (let s : State := { run3 [] with fab := {} }; (∃ fr, s.adm.plan im3 0 0 = .ok fr) ∧ s.toLoad im3 0 ≠ []) ∧
    (let s := run3 [{ mb := 0, placement := 0 }]; ({ s.adm with depth := 1 } : Adm).plan im3 0 0 = .wait ∧ s.adm.planned = false ∧ s.adm.disturbed = false ∧ ({ disturbed := true } : Adm).disturbed = true) ∧
    (let s := run3 [{ mb := 0, placement := 0, hbm := 1 }]; s.adm.plan im3 0 0 = .fail 1 0 []) ∧
    (let s := run3 [{ mb := 0, placement := 0 }]; s.adm.passable im3 s.fab 0 = some 0 ∧ s.adm.passable im3 s.fab 1 = none) ∧
    (let s := run3 [{ mb := 0, placement := 0 }]; (∃ fr, s.adm.frames.find? (fun f => f.mb == 0) = some fr ∧ s.adm.releasable im3 s.fab fr = true) ∧
      s.adm.servable im3 s.fab = none) ∧
    (let s := run3 [{ mb := 0, placement := 0, released := true }]; ∃ fr, s.adm.frames.find? (fun f => f.mb == 0) = some fr ∧ s.adm.releasable im3 s.fab fr = false) ∧
    (let s := run3 [{ mb := 0, placement := 0 }]; ({ s.adm with restores := [(0, 0)] } : Adm).servable im3 s.fab = some (0, 0)) := by
  refine ⟨⟨rfl, rfl, rfl, rfl, rfl, by decide, by decide +kernel, ?a, by decide +kernel, by decide +kernel, rfl⟩,
    ⟨rfl, by decide, by decide +kernel, ?b, by decide +kernel, by decide +kernel, by decide +kernel⟩, ⟨?c, by decide +kernel⟩,
    ⟨by decide +kernel, by decide, by decide, by decide⟩, ?d, by decide +kernel, ⟨⟨_, rfl, ?e⟩, by decide +kernel⟩, ⟨_, rfl, by decide +kernel⟩, by decide +kernel⟩
  case a =>
    have h : (im1 4).need 0 = 0 := by
      have h : (((im1 4).indices.filter fun i => (im1 4).isStashStore i && ((im1 4).descAt i).placement == 0).map fun i => ((im1 4).descAt i).sigObj).eraseDups = [] := by
        decide +kernel
      unfold Image.need Image.stashLayers; simp [h]
    unfold Adm.plan; rw [h]; exact ⟨_, rfl⟩
  case b => unfold Adm.plan; rw [test_im3_need]; exact ⟨_, rfl⟩
  case c => unfold Adm.plan; rw [test_im3_need]; exact ⟨_, rfl⟩
  case d => unfold Adm.plan; rw [test_im3_need]; rfl
  case e => unfold Adm.releasable; rw [test_im3_layers]; decide +kernel

theorem witness_GradientsAccumulate :
    (let c : Contribution := { mb := 0, tile := 1, items := [(0, (0, 0), 0)] }; let s : State := { run3 [] with upd := { contribs := [c] } };
      let mine := (c.items.filter fun x => s.upd.expect.at x.1 == c.mb).flatMap fun x => im3.accPlaces c.mb x.1 [x.2.1];
      s.img = some im3 ∧ s.upd.contribs[0]? = some c ∧ (c.items.map (·.1)).eraseDups = [0] ∧ s.upd.expect.at 0 = c.mb ∧ s.flt.abandoning = false ∧
        mine.any s.mem.poisoned = false ∧ im3.blockElems 0 ≤ s.upd.filled.at 0 + (c.items.map (·.2)).length) ∧
    (let c : Contribution := { mb := 1, tile := 1, items := [(0, (0, 0), 0)] }; let u : Upd := { contribs := [c], reserved := [(1, 0, 5)], expect := [(0, 1)] };
      let mine := (c.items.filter fun x => u.expect.at x.1 == c.mb).flatMap fun x => im3.accPlaces c.mb x.1 [x.2.1];
      mine.any (({} : Mem).setPoison (im3.regPlace (im3.regions.getD 1 default) 0) true).poisoned = true ∧ ({} : Adm).updStarted = false ∧
        ({ running := true, updStarted := true } : Adm).running = true) ∧
    (let c : Contribution := { mb := 1, tile := 1, items := [(0, (0, 0), 0)] }; let u : Upd := { contribs := [c], reserved := [(1, 0, 5)] };
      u.expect.at 0 ≠ c.mb ∧ u.reserved.find? (fun r => r.1 == c.mb && r.2.1 == 0) = some (1, 0, 5)) ∧
    (let im : Image := { im3 with upd := { im3.upd with tensors := [{ (default : Tensor) with grad := 1, rows := 1, cols := 2, master := 2 }] } };
      ({} : Upd).filled.at 0 + 1 < im.blockElems 0) ∧
    (let p : Parked := { block := 0, mb := 1, page := 5, elems := [(0, 0)] }; let u : Upd := { expect := [(0, 1)], parked := [p] };
      let read := im3.parkPlaces p.page p.elems ++ im3.accPlaces p.mb 0 p.elems;
      indexOf (fun (p : Parked) => p.block == 0 && p.mb == u.expect.at 0) u.parked = some 0 ∧ read.any ({} : Mem).poisoned = false ∧
        read.any (({} : Mem).setPoison (im3.regPlace (im3.regions.getD 1 default) 0) true).poisoned = true) := by decide +kernel

theorem witness_StepBoundaries :
    (let s : State := { at' .stepping with img := some im3 }; s.ctl.state = .stepping ∧ s.adm.running = false ∧ s.flt.abandoning = false ∧ s.startHeld = false ∧
      im3.upd.backlogObj = none16 ∧ s.upd.sweep = none ∧ ((im3.shardOf s.gx.group.n 0).any fun k => s.gx.isSilent im3 k.1 k.2) = false ∧
      ((im3.shardOf s.gx.group.n 0).any fun k => ({ silent := [(0, 0)] } : Gx).isSilent im3 k.1 k.2) = true ∧ s.ctl.untilDrain = false ∧
      ({ untilDrain := true } : Ctl).untilDrain = true ∧ ({ stepsLeft := 1 } : Ctl).stepsLeft = 1) ∧
    (let im : Image := { im3 with upd := { im3.upd with backlogObj := 0 } }; im.upd.backlogObj ≠ none16 ∧ ({ backlog := some false } : Adm).backlog = some false ∧
      ({ backlog := some true } : Adm).backlog = some true) ∧
    (let s : State := { at' .stepping with img := some im3, gx := { awaited := [0] } }; s.startHeld = true) ∧
    (let s : State := { at' .stepping with img := some im3, upd := { sweep := some (0, [0]) } }; s.upd.sweep = some (0, [0]) ∧ im3.updPoison s.mem true 0 = false ∧
      0 ∉ ([] : List Nat) ∧ 0 ∈ [0]) ∧
    (let s : State := { at' .stepping with img := some im3, upd := { sweep := some (0, [0]) }, mem := ({} : Mem).setPoison (im3.regPlace (im3.regions.getD 2 default) 0) true };
      im3.updPoison s.mem true 0 = true ∧ s.ctl.state.awake = true) ∧
    (run3 []).stepOver im3 = false ∧
    (let s : State := { run3 [{ mb := 0, placement := 0, released := true }] with adm := { running := true, retired := true, frames := List.replicate 2 { mb := 0, placement := 0, released := true } }
                                                                                  gx := { sets := [{ step := 0, key := { bucket := 0, shard := 0, asPod := false }, stage := .done }]
                                                                                          rets := [{ step := 0, bucket := 0, shard := 0, complete := true }] } };
      s.stepOver im3 = true) := by decide +kernel

/-- An exchange message of type m from member 0 for shard 0 of bucket 0 in epoch 0 and step 0. -/
def xm (m a b c : Nat) (data : List Byte) : XMsg :=
  { msg := m, epoch := 0, step := 0, bucket := 0, shard := 0, member := 0, pod := 0, a := a, b := b, c := c, data := data }

/-- A step of the image of one block with exchange state x. -/
def gx3 (x : Gx) : State := { run3 [] with gx := x }

theorem witness_BadTagDiscards :
    (∀ t ∈ [xContrib, xPodSum, xNormPart, xReturn, xReturnEnd, xFetch, xFetchData, xFetchEnd, xNorm, xState, xXferEnd],
      let m := { xm t 0 0 0 [] with epoch := 1, remote := true }; (gx3 {}).img = some im3 ∧ (gx3 {}).gx.tagOk im3 0 m = false ∧ ({ inbox := [m] } : Gx).mail 0 t = some m ∧
        m.remote = true) ∧ (gx3 {}).gx.solo = true ∧ (at' .ready).img = none := by
  decide +kernel

theorem witness_ContributionsLand :
    (let s : State := { gx3 {} with upd := { expect := [(0, 2)] } };
      (∃ k, im3.bkt.buckets[0]? = some k ∧ (∀ x < k.blockCount, s.upd.expect.at (k.firstBlock + x) = im3.upd.mbCount) ∧ s.gx.sentBuckets.contains 0 = false ∧
        ((List.range k.blockCount).flatMap fun x => (im3.block (k.firstBlock + x)).gradPlaces im3).any s.mem.poisoned = false ∧
        ((List.range k.blockCount).flatMap fun x => (im3.block (k.firstBlock + x)).gradPlaces im3).any
          (({} : Mem).setPoison (im3.regPlace (im3.regions.getD 1 default) 0) true).poisoned = true) ∧ s.stepping = true ∧ s.flt.abandoning = false) ∧
    ((gx3 { sentBuckets := [0] }).gx.sentBuckets.contains 0 = true ∧ (xm xContrib 0 1 0 [1, 2]).remote = false) ∧
    (let m := xm xContrib 0 1 0 [1, 2]; let s := gx3 { inbox := [m] }; let g := s.gx.groupFor 0 0; let key : SlotKey := { bucket := 0, shard := 0, asPod := g.two };
      let y := s.gx.getSet 0 key;
      s.gx.mail 0 xContrib = some m ∧ s.gx.tagOk im3 0 m = true ∧ (g.owner m.bucket m.shard).id = s.gx.me ∧ g.two = false ∧ g.rank? m.member = some 0 ∧ m.b ≠ 0 ∧
        m.a + m.b ≤ im3.shardElems g.n 0 0 ∧ m.data.length = 2 * m.b ∧ (y.slots.at 0).got.any (rangesMeet (m.a, m.a + m.b)) = false ∧ y.closed = false) ∧
    (let s := gx3 { sets := [{ step := 0, key := { bucket := 0, shard := 0, asPod := false }, closed := true }] };
      (s.gx.getSet 0 { bucket := 0, shard := 0, asPod := false }).closed = true) ∧
    (let m := xm xPodSum 0 1 1 (List.replicate 12 0); let s := gx3 { inbox := [m], two := true, roster := [(0, { valid := true })] }; let g := s.gx.groupFor 0 0;
      let y := s.gx.getSet 0 { bucket := 0, shard := 0, asPod := false };
      s.gx.mail 0 xPodSum = some m ∧ s.gx.tagOk im3 0 m = true ∧ g.two = true ∧ (g.owner 0 0).id = s.gx.me ∧ (g.podOwner 0 0 (g.podOf m.member)).id = m.member ∧
        indexOf (fun (p : Nat) => p == g.podOf m.member) g.pods = some 0 ∧ m.b ≠ 0 ∧ m.a + m.b ≤ im3.shardElems g.n 0 0 ∧
        m.data.length = (if m.a = 0 then 8 else 0) + 4 * m.b ∧ (y.slots.at 0).got.any (rangesMeet (0, 1)) = false ∧ y.closed = false) ∧
    (let s : State := { gx3 { base := some 0 } with tmr := { ns := 100 } };
      s.adm.running = true ∧ passedBy (s.gx.bucketDeadline im3 0) s.now = true) ∧
    (let s : State := { gx3 { base := some 0 } with tmr := { ns := 99 } };
      passedBy (s.gx.bucketDeadline im3 0) s.now = false ∧ passedBy ((gx3 {}).gx.podDeadline im3 0) 0 = false) ∧
    (let s : State := { gx3 { base := some 0, two := true, roster := [(0, { valid := true })] } with tmr := { ns := 100 } };
      s.gx.group.two = true ∧ passedBy (s.gx.podDeadline im3 0) s.now = true) := by
  refine ⟨⟨⟨_, rfl, by decide +kernel, by decide +kernel⟩, by decide +kernel, by decide +kernel⟩, by decide +kernel, by decide +kernel, by decide +kernel, ?_, by decide +kernel,
    by decide +kernel, by decide +kernel⟩
  refine ⟨by decide +kernel, by decide +kernel, by decide +kernel, by decide +kernel, by decide +kernel, ?_, by decide +kernel⟩
  have h : ({ two := true, mem := [{ id := 0, pod := 0, node := 0 }] } : ExGroup).pods = [0] := by
    have h : ([0] : List Nat).eraseDups = [0] := by decide
    unfold ExGroup.pods; simp [h]
  exact congrArg (indexOf (fun (p : Nat) => p == 0)) h

theorem witness_ReductionAndNorm :
    (let y : SlotSet := { step := 0, key := { bucket := 0, shard := 0, asPod := false }, closed := true, stage := .waiting }; let s := gx3 { sets := [y] };
      s.stepping = true ∧ s.flt.abandoning = false ∧ s.gx.nextAdd im3 0 = some y) ∧
    (gx3 {}).gx.nextAdd im3 0 = none ∧
    (let y : SlotSet := { step := 0, key := { bucket := 0, shard := 0, asPod := false }, stage := .adding }; let s := gx3 { sets := [y] };
      (s.gx.getSet 0 { bucket := 0, shard := 0, asPod := false }).stage = .adding ∧ (im3.sumPlaces s.gx.group s.gx.me y).any s.mem.poisoned = false ∧
        s.ctl.state.awake = true ∧ (im3.shardBlocks s.gx.group.n 0 0).any s.gx.unseeded.contains = false ∧ im3.needsNorm = false) ∧
    (let im : Image := { im3 with upd := { im3.upd with clip := true } }; im.needsNorm = true ∧ (gx3 {}).gx.norm = none ∧ (gx3 {}).gx.group.collector.id = (gx3 {}).gx.me ∧
      (gx3 {}).gx.normSent = false ∧ (gx3 {}).adm.running = true ∧ passedBy ((gx3 { base := some 0 }).gx.normDeadline im) 0 = true ∧ passedBy ((gx3 {}).gx.normDeadline im) 0 = false) ∧
    (let s := gx3 { sets := [{ step := 0, key := { bucket := 0, shard := 0, asPod := true }, stage := .waiting }] };
      (s.gx.getSet 0 { bucket := 0, shard := 0, asPod := true }).stage = .waiting ∧
        (im3.sumPlaces s.gx.group s.gx.me (s.gx.getSet 0 { bucket := 0, shard := 0, asPod := true })).any s.mem.poisoned = false) ∧
    (let y : SlotSet := { step := 0, key := { bucket := 0, shard := 0, asPod := false }, stage := .adding, present := [true] }; let s := gx3 { sets := [y] };
      (im3.sumPlaces s.gx.group s.gx.me y).any (({} : Mem).setPoison (im3.regPlace (im3.regions.getD 2 default) 0) true).poisoned = true) ∧
    (let m := xm xNormPart 0 0 0 []; let s := gx3 { inbox := [m] };
      s.gx.mail 0 xNormPart = some m ∧ s.gx.tagOk im3 0 m = true ∧ m.step = 0 ∧ (s.gx.group.owner m.bucket m.shard).id = m.member ∧ s.gx.group.collector.id = s.gx.me ∧
        s.gx.parts.any (fun p => p.1 == (m.bucket, m.shard)) = false) ∧
    (let m := xm xNorm 0x7F800000 0 0 []; let s := gx3 { inbox := [m] }; let im : Image := { im3 with upd := { im3.upd with nfSkip := true, clip := true, clipMax := 1 } };
      s.gx.mail 0 xNorm = some m ∧ s.gx.headOk 0 m = true ∧ s.gx.group.collector.id = m.member ∧ im.needsNorm = true ∧ s.gx.norm = none ∧
        im.upd.nfSkip = true ∧ f32IsFinite (BitVec.ofNat 32 m.a) = false ∧ f32Lt (clipFactor im (BitVec.ofNat 32 0x40000000)) f32One = true) := by decide +kernel

theorem witness_UpdatesAndReturns :
    (let y : SlotSet := { step := 0, key := { bucket := 0, shard := 0, asPod := false }, stage := .updating, n := 1, sum := [0] }; let s := gx3 { sets := [y] };
      s.adm.running = true ∧ s.ctl.state ≠ .fault ∧ s.flt.abandoning = false ∧ s.upd.sweep = none ∧ im3.shardBlocks s.gx.group.n 0 0 = [0] ∧
        im3.shardOf s.gx.group.n 0 = some (0, 0) ∧ s.gx.silent.contains (0, 0) = false ∧ s.gx.unseeded.contains 0 = false ∧ ({ unseeded := [0] } : Gx).unseeded.contains 0 = true ∧ (s.gx.getSet 0 { bucket := 0, shard := 0, asPod := false }).stage = .updating ∧ ¬ (im3.isSlow 0 = true ∧ 0 < im3.upd.k) ∧ im3.updPoison s.mem false 0 = false ∧
        s.ctl.state.awake = true ∧ (im3.updPlaces 0)[0]? = some (im3.regPlace (im3.regions.getD 2 default) 0) ∧
        s.inActiveStore (im3.regPlace (im3.regions.getD 2 default) 0) = false) ∧
    (let y : SlotSet := { step := 0, key := { bucket := 0, shard := 0, asPod := false }, stage := .updating, n := 1, sum := [0, 0] };
      let im : Image := { im3 with upd := { im3.upd with tensors := [{ (default : Tensor) with grad := 1, rows := 1, cols := 1, master := 2, state := 2, stateOff := 64, copy := 2, copyOff := 128 },
                                                                    { (default : Tensor) with grad := 1, rows := 1, cols := 1, master := 1, state := 1, stateOff := 32 }] }
                                   bkt := { slotRegion := 2, buckets := [{ (default : Bucket) with blockCount := 2, deadlineOff := 100 }] } };
      let s := gx3 { sets := [y] };
      im.shardBlocks s.gx.group.n 0 0 = [0, 1] ∧ im.shardOf s.gx.group.n 0 = some (0, 0) ∧ s.gx.unseeded.contains 0 = false ∧ s.gx.unseeded.contains 1 = false ∧ (s.gx.getSet 0 { bucket := 0, shard := 0, asPod := false }).stage = .updating ∧ im.upd.k = 0 ∧
        im.updPoison (({} : Mem).setPoison (im.regPlace (im.regions.getD 2 default) 0) true) false 0 = true ∧ im.updPoison (({} : Mem).setPoison (im.regPlace (im.regions.getD 2 default) 0) true) false 1 = false) ∧
    (im3.updPoison (({} : Mem).setPoison (im3.regPlace (im3.regions.getD 2 default) 64) true) false 0 = true) ∧
    (let im : Image := { im3 with upd := { im3.upd with k := 1, tensors := [{ (default : Tensor) with grad := 1, rows := 1, cols := 1, master := 2 }] }
                                  regions := [default, default, { (default : Region) with tier := 3 }] };
      im.isSlow 0 = true ∧ 0 < im.upd.k) ∧
    (let y : SlotSet := { step := 0, key := { bucket := 0, shard := 0, asPod := false }, stage := .reduced }; y.stage = .reduced ∧ y.n = 0) ∧
    (let m := xm xReturn 0 16895 1 [9]; let s := gx3 { inbox := [m] }; let r := s.gx.getRet 0 0 0;
      s.gx.mail 0 xReturn = some m ∧ s.gx.tagOk im3 0 m = true ∧ ((s.gx.groupFor 0 0).owner 0 0).id = m.member ∧ r.complete = false ∧ r.stale = false ∧
        (im3.shardBlocks (s.gx.groupFor 0 0).n 0 0).contains m.a = true ∧ m.data ≠ [] ∧ m.b + m.data.length ≤ (im3.block m.a).t.panel ∧
        (r.got.at m.a).any (rangesMeet (m.b, m.b + m.data.length)) = false ∧ r.got.at m.a = [] ∧ m.step = s.tmr.step.toNat ∧ s.upd.writable m.a m.c = true ∧ s.upd.writable m.a 2 = false) ∧
    (let m := xm xReturnEnd 1 0 0 []; let s := gx3 { inbox := [m] }; s.gx.mail 0 xReturnEnd = some m ∧ s.gx.tagOk im3 0 m = true ∧ (s.gx.getRet 0 0 0).fin = none) ∧
    (let s := gx3 { base := some 0 }; let t : State := { s with tmr := { ns := 1000000 } };
      s.adm.running = true ∧ passedBy (t.gx.returnDeadline im3 0) t.now = true ∧ passedBy (s.gx.returnDeadline im3 0) s.now = false ∧ (0, 0) ∈ im3.shards s.gx.group.n ∧
        (s.gx.getRet 0 0 0).complete = false ∧ (s.gx.getRet 0 0 0).stale = false) := by decide +kernel

/-- A block record of master and state values, without a queue entry. -/
def rec3 : List Byte := List.replicate 20 0 ++ List.replicate 4 0xFF ++ List.replicate 4 0 ++ [8, 0, 0, 0] ++ List.replicate 32 0

theorem witness_RoundsTransfersEpochs :
    (let s : State := { at' .armed with img := some im3, gx := { compareNow := true } };
      s.atBoundary = true ∧ s.roundDue = true ∧ s.gx.round = none ∧ s.ctl.state = .armed ∧ (∀ k ∈ im3.shards s.gx.group.n, s.gx.ref? k = none) ∧ im3.shards s.gx.group.n = [(0, 0)] ∧
        (s.gx.group.owner 0 0).id = s.gx.me) ∧
    (let g : Gx := { member := 1, roster := [(0, { valid := true }), (1, { valid := true })] };
      ∃ b, (g.group.owner b 0).id ≠ g.me ∧ (gx3 {}).atBoundary = false) ∧
    ((at' .fault).ctl.state.live = true ∧ (8#32).getLsbD 3 = true ∧ (7#32).getLsbD 3 = false ∧ (4#32).getLsbD 2 = true ∧ (2#32).getLsbD 1 = true) :=
  ⟨by decide +kernel, ⟨0, by decide +kernel⟩, by decide +kernel⟩

/-- A shard whose reference is of another length than any digest differs. -/
theorem witness_RoundsTransfersEpochs_differs :
    let s : State := { at' .armed with img := some im3, gx := { refs := [((0, 0), { epoch := 0, step := 0, digest := List.replicate 65 0 })] } };
    ¬ (s.gx.ref? (0, 0) = none ∨ s.gx.stale.contains (0, 0) = true ∨ ∀ r, s.gx.ref? (0, 0) = some r → s.sameDigest im3 (0, 0) r = true) := by
  intro s
  rintro (h | h | h)
  · cases h
  · exact absurd h (by decide +kernel)
  · have h := h _ rfl
    simp only [State.sameDigest, Bool.and_eq_true] at h
    have h := congrArg List.length (eq_of_beq h.2)
    have := shake256_length_le 32 (bytesOf 4 0 ++ bytesOf 4 0 ++ bytesOf 2 0 ++ bytesOf 2 0 ++ (im3.shardBlocks s.gx.group.n 0 0).flatMap fun g =>
      bytesOf 4 g ++ bytesOf 4 (s.upd.gen.at g).cur ++ (im3.block g).readPanel im3 s.mem (s.upd.gen.at g).cur)
    simp [Image.shardDigest] at h this
    omega

/-- Fetches, their data, their ends and the timeout. -/
theorem witness_RoundsTransfersEpochs_fetches :
    (let m := xm xFetch 0 0 0 []; let s := gx3 { inbox := [m] }; s.gx.mail 0 xFetch = some m ∧ s.gx.tagOk im3 0 m = true ∧ m.remote = false ∧ (s.gx.group.owner 0 0).id = s.gx.me) ∧
    (let m := xm xFetchData 0 16895 0 [5]; let f : Refetch := { bucket := 0, shard := 0, attempt := 1 };
      let s : State := { gx3 { inbox := [m], round := some { todo := [], fetch := some f } } with adm := {} };
      s.fetching im3 m = some ({ todo := [], fetch := some f }, f) ∧ s.gx.mail 0 xFetchData = some m ∧ (im3.shardBlocks s.gx.group.n 0 0).contains m.a = true ∧
        m.b + m.data.length ≤ (im3.block m.a).t.panel ∧ f.got.any (fun p => p.1 == m.a && rangesMeet (m.b, m.b + m.data.length) (p.2.1, p.2.1 + p.2.2.length)) = false ∧ f.attempt < 2) ∧
    (let m := xm xFetchEnd 0 0 0 [1]; let f : Refetch := { bucket := 0, shard := 0, attempt := 2 };
      let s := gx3 { inbox := [m], refs := [((0, 0), { epoch := 0, step := 0, digest := [1] })], round := some { todo := [], fetch := some f } };
      s.fetching im3 m = some ({ todo := [], fetch := some f }, f) ∧ s.gx.mail 0 xFetchEnd = some m ∧ (s.gx.ref? (f.bucket, f.shard)).any (fun d => d.digest == m.data) = true ∧
        2 ≤ f.attempt) ∧
    ((({} : Gx).ref? (0, 0)).any (fun d => d.digest == []) = false) ∧
    (let f : Refetch := { bucket := 0, shard := 0, attempt := 2 }; let s := gx3 { round := some { todo := [], fetch := some f } };
      s.gx.round = some { todo := [], fetch := some f } ∧ 2 ≤ f.attempt ∧ ({ f with attempt := 1 } : Refetch).attempt < 2) :=
  ⟨by decide +kernel, by decide +kernel, by decide +kernel, by decide +kernel, by decide +kernel⟩

/-- State transfers and their ends. -/
theorem witness_RoundsTransfersEpochs_transfers :
    (let m := xm xState 0 0 0 [5]; let s := gx3 { inbox := [m], pendingEpoch := true, awaited := [0] };
      s.gx.mail 0 xState = some m ∧ s.gx.pendingEpoch = true ∧ m.step = s.gx.epochStep.toNat ∧ m.epoch = s.gx.epochNext.toNat ∧ m.step = s.tmr.step.toNat ∧ im3.shardOf s.gx.nextGroup.n m.a = some (m.bucket, m.shard) ∧ s.gx.awaited.contains m.a = true ∧ m.data ≠ [] ∧
        (s.gx.xfer.at m.a).any (fun p => rangesMeet (m.b, m.b + m.data.length) (p.1, p.1 + p.2.length)) = false ∧
        ((im3.shardOf s.gx.group.n m.a).any fun k => (s.gx.group.owner k.1 k.2).id == m.member) = true ∧ im3.parseBlock 11 (joinPieces [(m.b, m.data)]) = none) ∧
    (∃ r, im3.parseBlock 11 rec3 = some r ∧ r.bytes ≤ rec3.length) ∧
    (let m := { xm xState 0 0 0 [5] with step := 1 }; let s := gx3 { inbox := [m], pendingEpoch := true, epochStep := 1 };
      s.gx.mail 0 xState = some m ∧ m.step = s.gx.epochStep.toNat ∧ m.epoch = s.gx.epochNext.toNat ∧ m.step = stepAbove s.tmr.step.toNat) ∧
    (let m := xm xXferEnd 0 0 0 []; let s := gx3 { inbox := [m] }; s.gx.mail 0 xXferEnd = some m ∧ s.gx.headOk 0 m = true) ∧
    (let m := { xm xXferEnd 0 0 0 [] with epoch := 1 }; let s := gx3 { inbox := [m] }; s.gx.mail 0 xXferEnd = some m ∧ s.gx.headOk 0 m = false ∧ s.gx.pendingEpoch = false) :=
  ⟨by decide +kernel, ⟨_, rfl, by decide +kernel⟩, by decide +kernel, by decide +kernel, by decide +kernel⟩

/-- A machine in state d with port i (of 0 to 11) as p. -/
def onP (d : Dev) (i : Nat) (p : Port) : State := { at' d with lnk := { nodeId := 1, port := [(i, p)] } }

theorem witness_LinksTrainAndFall :
    (11 < 12 ∧ (at' .fault).ctl.state.live = true ∧ (at' .boot).ctl.state.awake = true) ∧
    ((List.range' 1 5).all fun k => let p := (onP .ready 11 { state := .training, phase := k }).lnk.port.at 11; p.state == .training && p.phase == k) = true ∧
    (1 < 4 ∧ 64 < [0, 65, 0, 0].getD 1 0 ∧ ∀ k < 4, [64, 0, 1, 2].getD k 0 ≤ 64) ∧ (48 < 49 ∧ 48 ≤ 48 ∧ ((List.range 4).map fun k => [0, 1, 2, 2].getD k 0 % 4).eraseDups.length ≠ 4 ∧
      ((List.range 4).map fun k => [3, 2, 1, 0].getD k 0 % 4).eraseDups.length = 4) ∧
    (let p : Port := { state := .training, phase := 5, echoes := 15 }; p.state = .training ∧ p.phase = 5 ∧ p.echoes < 16) ∧
    (let p : Port := { state := .training, phase := 5, echoes := 16, loopNs := 225 }; 16 ≤ p.echoes ∧ 224 < p.loopNs.toNat) ∧
    (let p : Port := { state := .training, phase := 5, echoes := 16, loopNs := 224 }; 16 ≤ p.echoes ∧ p.loopNs.toNat ≤ 224) ∧
    (let p : Port := { state := .down, autoRetrain := true }; p.state = .down ∧ p.autoRetrain = true) ∧ ({} : Port).autoRetrain = false ∧
    (let f := ({} : Port).flit 5 0 0 ([5, 3, 1, 0, 0, 1] : List Byte); isCtrl 5 f = true ∧ BitVec.ofNat 12 (fieldAt (flitPayload f) 2 2) = (1#12)) ∧
    (let f := ({} : Port).flit 5 0 0 ([5, 0, 2, 0, 0, 1] : List Byte); isCtrl 5 f = true ∧ BitVec.ofNat 12 (fieldAt (flitPayload f) 2 2) ≠ (1#12) ∧
      (BitVec.ofNat 2 (fieldAt (flitPayload f) 1 1) &&& 3#2).toNat = 0) ∧
    (let f := ({} : Port).flit 5 0 0 ([5, 3, 2, 0, 0, 1] : List Byte); isCtrl 5 f = true ∧ (BitVec.ofNat 2 (fieldAt (flitPayload f) 1 1) &&& 3#2).toNat ≠ 0 ∧
      fieldAt (flitPayload f) 5 1 % 2 = 1) ∧
    (let f := ({} : Port).flit 5 0 0 ([5, 3, 2, 0, 0, 0] : List Byte); isCtrl 5 f = true ∧ fieldAt (flitPayload f) 5 1 % 2 = 0) ∧
    (isCtrl 6 (({} : Port).flit 5 0 0 [6]) = true ∧ ({ state := .negotiating } : Port).flits = true) ∧ ({ state := .up } : Port).state ≠ .training ∧ ({} : Port).state ≠ .up := by
  decide +kernel

theorem witness_FlitsAndRetry :
    (let p : Port := { state := .up }; p.flits = true ∧ flitCrcOk (List.replicate 64 0) = false ∧ ({ p with nakPending := true } : Port).nakPending = true) ∧
    (let f := ({} : Port).flit 4 7 0 []; flitCrcOk f = true ∧ ({ state := .up } : Port).state = .up ∧ flitSeq (flitHeader f) = ({ state := .up } : Port).expected.toNat ∧ flitType (flitHeader f) = 4) ∧
    (let f := ({} : Port).flit 1 0 4095 []; flitCrcOk f = true ∧ flitSeq (flitHeader f) ≠ ({} : Port).expected.toNat ∧ isSequenced (flitType (flitHeader f)) = true ∧
      flitType (flitHeader f) ≠ 6) ∧
    (({} : Port).flits = false) ∧
    (let f := ({} : Port).flit 6 0 0 []; let k : RxPkt := { flits := [[]], done := false }; let p : Port := { state := .up, rx := [(0, [k])] };
      flitCrcOk f = true ∧ flitType (flitHeader f) = 6 ∧ flitSeq (flitHeader f) = p.expected.toNat ∧ (p.rx.at (flitVc (flitHeader f))).getLast? = some k ∧ k.done = false ∧
        k.drop = false ∧ k.out = none) ∧
    (let f := ({} : Port).flit 5 0 0 [1]; let x : TxFlit := { type := 4, vc := 0, payload := [], pid := 0 };
      let s := onP .ready 0 { state := .up, held := [(0, x)], resends := 3 }; let h := flitHeader f; let c := (s.lnk.port.at 0).countFec [];
      let a := if flitAckV h then c.ack (flitAck h) else c; let q := ((s.lnk.setPort 0 c).setPort 0 a).port.at 0;
      isCtrl 1 f = true ∧ q.held.any (fun x => x.1.toNat == fieldAt (flitPayload f) 2 2 % 4096) = true ∧
        (q.held.head?.map fun x => x.1.toNat) = some (fieldAt (flitPayload f) 2 2 % 4096) ∧ 3 ≤ q.resends) ∧
    (let x : TxFlit := { type := 4, vc := 0, payload := [], pid := 0 }; let p : Port := { state := .up, held := [(0, x)], resends := 2 }; p.held = (0, x) :: [] ∧ p.resends < 3) ∧
    (({ state := .negotiating } : Port).flits = true ∧ ({ state := .negotiating } : Port).state ≠ .up ∧ isCtrl 1 (({} : Port).flit 5 0 0 [1]) = true) ∧
    (isCtrl 2 (({} : Port).flit 5 0 0 [2]) = true ∧ isCtrl 3 (({} : Port).flit 5 0 0 [3]) = true ∧ isCtrl 4 (({} : Port).flit 5 0 0 [4]) = true) ∧
    (let l : Lnk := { port := [(0, { state := .up, ttT1 := some 0 })] }; l.timeResult 0 ([4] ++ List.replicate 55 0) 0 = some (0, 0)) ∧
    (({} : Lnk).timeResult 0 ([4] ++ List.replicate 55 0) 0 = none) ∧ ({ state := .up, ttEn := true } : Port).ttEn = true := by
  decide +kernel

/-- Head of a packet from node 2 to node dst with message type m and no payload. -/
def head (dst m hops : Nat) : List Byte := bytesOf 2 dst ++ bytesOf 2 2 ++ bytesOf 1 m ++ bytesOf 1 hops ++ bytesOf 2 0

/-- Links of node 1: port 0 holds a packet with this head on VC 0, port 1 is up, and node 5 is reached through it. -/
def lnk1 (h : List Byte) (used : Nat) : Lnk :=
  { nodeId := 1, port := [(0, { state := .up, rx := [(0, [{ flits := [h], done := true }])] }), (1, { state := .up, used := [(0, used)] })]
    route := [(5, { valid := true, primary := 1 })] }

theorem witness_RouterMoves :
    (let s : State := { at' .ready with lnk := lnk1 (head 1 0x80 0) 0 }; let k : RxPkt := { flits := [head 1 0x80 0], done := true };
      s.ctl.state.awake = true ∧ 0 < 12 ∧ (s.lnk.port.at 0).rx.at 0 = k :: [] ∧ k.out = none ∧ k.drop = false ∧ k.done = true ∧ s.lnk.looks 0 0 = false ∧ s.lnk.judge 0 (head 1 0x80 0) 0 k.want = .deliver) ∧
    ((lnk1 (head 5 0x80 0) 0).looks 0 0 = true ∧ (lnk1 (head 5 0x80 0) 0).judge 0 (head 5 0x80 0) 0 none = .send 1 0 false ∧ (lnk1 (head 5 0x80 0) 159).judge 0 (head 5 0x80 0) 0 none = .send 1 0 false ∧
      ({ port := [(0, { rx := [(0, [{ flits := [head 5 0x80 0], done := true, want := some (1, 0) }])] })] } : Lnk).wanted 0 0 = some (1, 0)) ∧
    (lnk1 (head 5 0x80 0) 160).judge 0 (head 5 0x80 0) 0 none = .wait 1 0 false ∧ (lnk1 [] 0).judge 0 (head 6 0x80 0) 0 none = .dropRoute ∧
    (lnk1 [] 0).judge 0 (head 5 0x80 31) 0 none = .dropHop ∧ (lnk1 (head 6 0x80 0) 0).judge 0 (head 6 0x80 0) 0 (some (1, 0)) = .send 1 0 false ∧
    (let f : TxFlit := { type := 1, vc := 7, payload := [], pid := 0 }; let l : Lnk := { port := [(1, { state := .up, txq := [(7, [f])] })] };
      (l.port.at 1).nextTx = some (7, f, []) ∧ (l.port.at 1).state = .up ∧ (l.port.at 1).held.length < 1024) ∧
    (let x : OpenPkt := { pid := 3, vc := 0, left := 2 }; let l : Lnk := { port := [(1, { used := [(0, 2)], openPids := [x] })] };
      (l.port.at 1).openPids.find? (fun y => y.pid == 3) = some x) ∧
    (let x : Inject := { pkt := { dst := 1, src := 1, msg := 0x80, vc := 0, payload := [] } }; let l : Lnk := { nodeId := 1, inject := [(0, [x])] };
      l.inject.at 0 = x :: [] ∧ l.looks 12 0 = false ∧ l.judge 12 (x.pkt.flits.headD []) 0 x.want = .deliver) ∧
    (let x : Inject := { pkt := { dst := 6, src := 1, msg := 0x80, vc := 0, payload := [] } }; let l : Lnk := { nodeId := 1, inject := [(0, [x])] };
      l.judge 12 (x.pkt.flits.headD []) 0 x.want = .dropRoute) ∧
    (let x : Inject := { pkt := { dst := 5, src := 1, msg := 0x80, vc := 0, payload := [] } }; let l : Lnk := { lnk1 [] 160 with inject := [(0, [x])] };
      l.judge 12 (x.pkt.flits.headD []) 0 x.want = .wait 1 0 false) ∧
    ((lnk1 (head 5 0x80 0) 160).stalled 0 0 = some (1, 0) ∧ (lnk1 (head 5 0x80 0) 0).stalled 12 0 = none ∧ 12 < 13) ∧
    (let k := fun (m : Nat) (pl : List Byte) => ({ dst := 1, src := 2, msg := m, vc := 0, payload := pl } : Packet);
      xTypes.contains (k 0x54 []).msg = true ∧ ((k 0x40 [0xFF, 0x3F]).msg = 0x40 ∧ fieldAt (k 0x40 [0xFF, 0x3F]).payload 0 2 < 16384) ∧
        0x80 ≤ (k 0x80 []).msg ∧ (k 0x7F []).msg = 0x7F ∧ 16384 ≤ fieldAt (k 0x40 [0, 0x40]).payload 0 2 ∧
        ({ at' .ready with lnk := { localQ := [k 0 []] } } : State).lnk.localQ = k 0 [] :: [] ∧ (at' .ready).ctl.state.live = true) := by decide +kernel

/-- A profile that permits every field of version 1, with room in the staging region. -/
def prof1 (required : Nat) : Profile := { (default : Profile) with v1 := true, permitted := 63, required := required, maxRecord := 2 ^ 30, nominalUs := 1, iMaxW := 64, iMaxH := 64, mbRows := 1 }

/-- An image with that profile and a staging region of 64 pages. -/
def imP (required : Nat) : Image :=
  { regions := [{ (default : Region) with size := 64 * 65536 }], prof := some { profiles := [prof1 required] } }

/-- A record of version 1 with one metadata field of 8 zero bytes at 64. -/
def rec1 : List Byte :=
  let e : List Byte := [6, 0, 0, 0] ++ bytesOf 4 64 ++ bytesOf 4 8 ++ bytesOf 4 (crc32c (List.replicate 8 0)) ++ List.replicate 16 0
  let h : List Byte := bytesOf 4 0x434E4954 ++ bytesOf 2 1 ++ bytesOf 2 1 ++ bytesOf 4 72 ++ List.replicate 16 0
  h ++ bytesOf 4 (crc32c (h ++ e)) ++ e ++ List.replicate 8 0

/-- A field of a type in a state. -/
def fld1 (type : Nat) (st : FieldSt) : Field := { type := type, codec := 1, off := 64, len := 8, check := crc32c (List.replicate 8 0), raw := List.replicate 16 0, st := st }

/-- Descriptor of a record of 72 bytes at address 0 of a source. -/
def sd (source : Nat) : SampleDesc := { profile := 0, source := source, mbEnd := false, len := 72, addr := 0, recId := 0, cookie := 0 }

/-- An intake with one context, number 0. -/
def in1 (required : Nat) (d : Dev) (c : Ctx) : State := { at' d with img := some (imP required), inp := { nextSeq := 1, ctx := [(0, c)] } }

/-- That profile with one output: labels, 4 positions a row set, in region 0. -/
def outP : Profile :=
  { prof1 0 with out := List.replicate 4 { (default : OutRec) with region := none32 } ++ [{ (default : OutRec) with region := 0, p := 4 }] }

theorem witness_IntakeFlow :
    (let e := ent 0x20 0 0 0 0; let s : State := { at' .loaded with img := some (imP 0), inp := { queue := [e] } };
      s.img = some (imP 0) ∧ s.ctl.state.live = true ∧ s.inp.queue = e :: [] ∧ s.inp.ctx.length < 262144 ∧ ({} : Inp).queue = []) ∧
    (let d := { parseSample [] with profile := 1 }; sieveFirst (imP 0) d true ≠ 0) ∧ (sieveFirst (imP 0) (sd 0) true = 0) ∧
    (let s := in1 0 .ready { st := .sieve, d := sd 0 }; let c := s.inp.ctx.at 0; c.st = .sieve ∧ c.d.source ≠ 1 ∧ s.inp.headerIssued 0 = true ∧
      sieveHead (c.profile (imP 0)) c.d (List.replicate 72 0) = .inl 0x03 ∧
      ({ ctx := (List.range 257).map fun k => (k, { st := .sieve }) } : Inp).headerIssued 256 = false) ∧
    (let c : Ctx := { st := .sieve, d := sd 0 }; let p := c.profile (imP 0);
      (∃ v fs, sieveHead p c.d rec1 = .inr (v, fs) ∧ (∀ f ∈ fs, p.declCheck f = 0 ∧ p.ratioOk f = true) ∧
        ({ c with version := v, head := rec1, fields := fs } : Ctx).need ≤ (imP 0).stagingPages)) ∧
    (let c : Ctx := { st := .sieve, d := sd 1 }; c.d.source = 1 ∧ (spanPlaces c.d.addr (min c.d.len 832)).any (({} : Mem).setPoison (addrPlace 0) true).poisoned = true ∧
      ({} : Ctx).st ≠ .sieve) := by
  exact ⟨by decide +kernel, by decide +kernel, by decide +kernel, by decide +kernel, ⟨1, recFields 1 1 rec1, by decide +kernel⟩, by decide +kernel⟩

/-- Pages reserved, remainders fetched. -/
theorem witness_IntakeFlow_fetches :
    (let s := in1 0 .ready { st := .waitPages, d := sd 0 }; s.inp.reservable (imP 0) = some 0 ∧ (in1 0 .ready {}).inp.reservable (imP 0) = none) ∧
    (let s := in1 0x10 .ready { st := .fetching, reserved := true, version := 1, d := sd 0, fields := [fld1 5 .fetch] }; let c := s.inp.ctx.at 0;
      let span := c.fetchSpan (fld1 5 .fetch);
      c.fields.find? (fun g => g.type == 5) = some (fld1 5 .fetch) ∧ (fld1 5 .fetch).got = false ∧ (fld1 5 .fetch).kept = true ∧ c.reserved = true ∧ c.d.source ≠ 1 ∧ c.st ≠ .void ∧
        c.emitting = false ∧ span.1 < span.2 ∧ span = (0, 72) ∧ recCheck c.version (c.payload (fld1 5 .fetch) (List.replicate 72 0)) = (fld1 5 .fetch).check ∧
        recCheck c.version (c.payload (fld1 5 .fetch) (List.replicate 72 1)) ≠ (fld1 5 .fetch).check ∧
        ((c.profile (imP 0x10)).required / 2 ^ (5 - 1) % 2 = 1) ∧ ((c.profile (imP 0)).required / 2 ^ (5 - 1) % 2 ≠ 1)) ∧
    ((fld1 5 (.dropped 0x10)).kept = false ∧ ({ d := sd 0 } : Ctx).reserved = false) := by decide +kernel

/-- Engines assigned, at work and done. -/
theorem witness_IntakeFlow_decodes :
    (let s := in1 0 .ready { st := .decoding, d := sd 0, fields := [fld1 2 .wait] };
      s.inp.assignable 1 = some 0 ∧ (s.inp.ctx.at 0).st ≠ .void ∧ (1#2) ≠ 3 ∧ s.inp.assignable 0 = none) ∧
    (let s := in1 0 .ready { st := .decoding, d := sd 0, fields := [fld1 4 .wait] }; s.inp.assignable 3 = some 0 ∧ (imP 0).tok.isSome = false) ∧
    (let f := { fld1 3 .engine with data := List.replicate 2 0, raw := bytesOf 4 8000 ++ [1, 0, 0, 0] ++ bytesOf 8 1 };
      let s := in1 0 .ready { st := .decoding, d := sd 0, fields := [f] }; let c := s.inp.ctx.at 0;
      s.inp.onEngine 0 3 = some f ∧ c.emitting = false ∧ c.st ≠ .void ∧ c.outcome (imP 0) f = 0 ∧ s.inp.windowHolds (imP 0) 0 f = true ∧
        (s.stagingRead (imP 0) (.uncorrected 0)).2 = true) ∧
    (let f := fld1 4 .engine; let s := in1 0 .ready { st := .decoding, d := sd 0, fields := [f] }; let c := s.inp.ctx.at 0;
      let im : Image := { imP 0 with tok := some { merges := [] } };
      s.inp.onEngine 0 4 = some f ∧ [DecodeErr.bitstream, .unsupported, .declMismatch, .tokens].contains .tokens = true ∧
        c.outcome im { f with data := [0x61] } = DecodeErr.tokens.code ∧ s.inp.windowHolds im 0 f = true ∧ 0 < (imP 0).stagingPages * 65536 ∧
        c.fields.any (fun f => f.st == .engine) = true ∧ (c.profile (imP 0)).budget < c.us + 41 ∧ c.us + 40 ≤ (c.profile (imP 0)).budget) := by decide +kernel

/-- The sample at the head. -/
theorem witness_IntakeFlow_emits :
    ((at' .fault).ctl.state = .fault) ∧
    (let s := in1 0 .ready { st := .decoding, d := sd 0, fields := [fld1 2 .wait] }; s.inp.head? = some 0 ∧ (s.inp.ctx.at 0).eligible = false ∧ (s.inp.ctx.at 0).emitting = false ∧ s.inp.closing = false) ∧
    (let s0 := in1 0 .ready { st := .void }; let s : State := { s0 with inp := { s0.inp with nextRow := (imP 0).ringSlots, live := [0] } }; s.inp.head? = some 0 ∧
      s.inp.isOpen = false ∧ s.inp.slotFree (imP 0) = false ∧ s.inp.closing = false ∧ (s.inp.ctx.at 0).emitting = false ∧ (imP 0).prof.isSome = true) ∧
    (let s := in1 0 .ready { st := .void }; s.inp.head? = some 0 ∧ (s.inp.ctx.at 0).eligible = true ∧ (s.inp.ctx.at 0).st = .void ∧ (s.inp.ctx.at 0).emitting = false ∧ s.inp.closing = false ∧
      s.inp.slotFree (imP 0) = true ∧ (s.inp.ctx.at 0).left = []) ∧
    (let s := in1 0 .ready { st := .decoding, fields := [fld1 1 .engine] }; s.inp.head? = some 0 ∧ (s.inp.ctx.at 0).eligible = true ∧ (s.inp.ctx.at 0).st ≠ .void ∧
      (s.inp.ctx.at 0).fields.all Field.ended = false ∧ (s.inp.ctx.at 0).cont (imP 0) = false ∧ (s.inp.ctx.at 0).d.mbEnd = false ∧ s.inp.slotFree (imP 0) = true) ∧
    (let s := in1 0 .ready { st := .done, d := sd 0, fields := [{ fld1 5 .decoded with data := List.replicate 8 3 }] }; let c := s.inp.ctx.at 0;
      let im : Image := { imP 0 with prof := some { profiles := [outP] } };
      s.inp.head? = some 0 ∧ c.eligible = true ∧ c.st ≠ .void ∧ s.inp.slotFree im = true ∧ c.cont im = false ∧ c.d.mbEnd = false ∧ c.left = [] ∧
        ∃ a ∈ ((s.inp.emitHead im).1.rowPlaces im 0)[0]?, s.mem.poisoned a = false) := by decide +kernel

theorem witness_RowsAndMicroBatches :
    (let r : RowSet := { g := 0, used := [], closed := true }; let s : State := { at' .stepping with img := some (imP 0), inp := { rows := [r] } };
      s.img = some (imP 0) ∧ s.ctl.state.live = true ∧ s.inp.sealable = some r) ∧
    (({ rows := [{ g := 0, used := [] }] } : Inp).sealable = none) ∧
    (let r : RowSet := { g := 0, used := [], closed := true, sealed' := true }; ({ rows := [r] } : Inp).completeMb (imP 0) = some [r]) ∧ (({} : Inp).completeMb (imP 0) = none) ∧
    (let v : W32 := 2; v.getLsbD 0 = false ∧ v.getLsbD 1 = true ∧ ({} : Inp).ctx = []) ∧
    (({ live := [0], rows := [{ g := 0, used := [] }], nextRow := 1 } : Inp).closeMb (imP 0)).closing = false ∧
    (let im : Image := { regions := [{ (default : Region) with size := 2 * 65536 }], prof := some { profiles := [{ prof1 0 with mbRows := 2, reportRegion := 0 }] } };
      (({ live := [0, 1, 2], rows := [{ g := 2, used := [] }], nextRow := 3 } : Inp).closeMb im).closing = true) ∧
    (let s := in1 0 .ready { st := .decoding }; s.inp.head? = some 0 ∧ 0 < s.inp.nextSeq.toNat ∧ (∀ c ∈ s.inp.closes, 0 < c)) ∧
    (let v : W32 := 1; v.getLsbD 0 = true ∧ (at' .draining).ctl.state.running = true ∧ (at' .fault).ctl.state.running = false ∧ (at' .fault).adm.running = false) := by decide +kernel

theorem witness_RegisterWritesStayInTheirBlock :
    ((at' .boot).ctl.state.live = false ∧ (2 ≠ 4 ∧ 2 ≠ 8) ∧ (2#26).toNat % 4 ≠ 0 ∧ (at' .fault).ctl.state.live = true ∧ (0x3FFFFF8#26).toNat % 8 = 0 ∧ (0x3FFFFF8#26).toNat % 4 = 0 ∧ wideRw (0x20010 + 4 - 4) = true) := by decide +kernel

/-! Worked examples of the spec; each expected value is the spec's own. -/

/-- Chapter 0, tile 150. -/
theorem test_tile_150 : regionOf 150 = 9 ∧ regBlock (0x0196_0000) = (.til 150, 0) := by decide +kernel
/-- Chapter 1, the route from tile 7 to tile 72. -/
theorem test_route_7_72 : nextPort 7 72 false = 1 ∧ neighbour 7 1 = some 64 ∧ nextPort 64 72 false = 2 ∧ neighbour 64 2 = some 72 ∧ nextPort 72 72 false = 4 := by decide
/-- After R150: 3.1415927 under scale 2 and word 0xF100, and the word below which it rounds down. -/
theorem test_g16 : toG16 2 0xF100 0x40490FDB = (0x3F4A, false) ∧ toG16 2 0xF024 0x40490FDB = (0x3F49, false) ∧ ofG16 2 0x3F4A = 0x404A0000 := by decide +kernel
/-- After R190: the sum tree of five segments. -/
theorem test_tree_sum : treeSum [0x3F800000, 0x33800000, 0x33800000, 0x33800000, 0x33800000] = 0x3F800002 := by decide +kernel
/-- After R291: the gradient 48 of three contributions under L = 3, clipped by 1 at N = 16. -/
theorem test_step_gradient : f32Rcp 0x41C00000 = 0x3D2AAAAB ∧ stepGrad [0x42400000] 3 3 = [0x40000000] ∧
    clipFactor { upd := { clip := true, clipMax := 0x3F800000 } } 0x41800000 = 0x3E800000 := by decide +kernel
/-- After R291: master, velocity of that update. -/
theorem test_update : ({ rule := 0, lr := 0x3D800000, beta1 := 0x3F600000, beta2 := 0, eps := 0, decay := 0x3F000000, tOrigin := 0 } : Group).apply
    0x3D800000 0 0x3FC00000 0x3E800000 0 0x3F000000 = (0x3FB44000, 0x3F380000, 0) := by decide +kernel
/-- After R329: the offset and delay of a time exchange with ASYM 0xFF80. -/
theorem test_time_transfer :
    let l : Lnk := { port := [(0, { state := .up, version := 2, asym := 0xFF80, ttT1 := some (1000000000 * 64) })] }
    l.timeResult 0 ([4, 0, 0, 0] ++ stampBytes 2 (1000000102 * 64 + 32) ++ stampBytes 2 (1000000602 * 64 + 32)) (1000000682 * 64) = some (2 * 800, 2 * 5824) := by decide +kernel
/-- After R375: the bound after 0.5 s and 0.6 s of holdover with e0 = 8. -/
theorem test_holdover : ({ age := 64 * 500000000 } : Tmr).boundExceeded 8 = false ∧ ({ age := 64 * 600000000 } : Tmr).boundExceeded 8 = true := by decide +kernel
/-- After R412: the tokens of "bcabc". -/
theorem test_tokens : ({ merges := [(0x61, 0x62), (256, 0x63), (0x62, 0x63)] } : TokSec).piece 5 [0x62, 0x63, 0x61, 0x62, 0x63] = [258, 257] := by decide +kernel
/-- After R449: the place of address 0x0002_3456_7A40. -/
theorem test_address : addrPlace 0x000234567A40 = hbmPlace 7 0x468ACA40 := by decide +kernel
/-- After R463: check values of "123456789". -/
theorem test_check_values : crc32c [0x31, 0x32, 0x33, 0x34, 0x35, 0x36, 0x37, 0x38, 0x39] = 0xE3069283 ∧
    crc64 [0x31, 0x32, 0x33, 0x34, 0x35, 0x36, 0x37, 0x38, 0x39] = 0x995DC9BBDF1939FA ∧
    crcContinue false (crc32c [0x31, 0x32, 0x33, 0x34]) [0x35, 0x36, 0x37, 0x38, 0x39] = 0xE3069283 := by decide +kernel
/-- After R341: shards of a bucket of 10 blocks among 4 members, and their owners. -/
theorem test_shards : (List.range 4).map (shardBounds 10 4) = [(0, 2), (2, 5), (5, 7), (7, 10)] ∧
    (List.range 4).map (fun i => ((groupOf ([0, 2, 5, 9].map fun k => (k, { valid := true })) false 0).owner 3 i).id) = [9, 0, 2, 5] := by decide +kernel

/-- R408, R389: a PNG of 2 × 1 pixels (8-bit truecolour, row filter Sub, a fixed DEFLATE block) made with zlib; a byte of its data changed fails its check. -/
theorem test_png : let bs : List Byte := [137, 80, 78, 71, 13, 10, 26, 10, 0, 0, 0, 13, 73, 72, 68, 82, 0, 0, 0, 2, 0, 0, 0, 1, 8, 2, 0, 0, 0, 123, 64, 232, 221,
      0, 0, 0, 15, 73, 68, 65, 84, 120, 1, 99, 228, 18, 145, 99, 100, 98, 6, 0, 1, 48, 0, 68, 92, 52, 120, 162, 0, 0, 0, 0, 73, 69, 78, 68, 174, 66, 96, 130]
    pngItems bs = [.png 2 1 8 2, .pixels [10, 20, 30, 11, 22, 33]] ∧ (pngItems (bs.set 45 19)).getLast? = some .bad := by decide +kernel

/-- R409: a FLAC frame of six 16-bit samples, a first-order predictor over residuals 3, 2, 1, 2, −1. -/
theorem test_flac : flacItems [128, 0, 0, 34, 0, 0, 0, 0, 0, 0, 0, 0, 0, 0, 11, 184, 0, 240, 0, 0, 0, 0, 0, 0, 0, 0, 0, 0, 0, 0, 0, 0, 0, 0, 0, 0, 0, 0,
      255, 248, 96, 8, 0, 5, 160, 18, 0, 100, 0, 68, 72, 176, 184, 60] =
    [.info 48000 1 16, .frame 48000 1 16 [100, 103, 105, 106, 108, 107]] := by decide +kernel

/-- R408: a baseline block whose DC word is 0 (category 3), its bits 101, and whose one AC word ends the block; T.81's zig-zag order begins 0, 1, 5, 6. -/
theorem test_jpeg : let comp : JpegComp := { id := 1, across := 1, down := 1, table := 0, wide := 1, blocks := [List.replicate 64 0] }
    let r : JpegRun := { quants := [(0, false, List.replicate 64 1)], codes := [(0, [(1, 0, 3)]), (16, [(1, 0, 0)])], framed := true, w := 8, h := 8, comps := [comp] }
    ((r.scan [1, 1, 0, 0, 63, 0] [0x57, 0xFF, 0xD9]).map fun x => (x.1.comps.map (·.blocks), x.2)) = some ([[5 :: List.replicate 63 0]], [0xFF, 0xD9]) ∧
    (List.range 4).map (zigzag 0) = [0, 1, 5, 6] ∧ (List.range 4).map (zigzag 7) = [35, 36, 48, 49] := by decide +kernel

/-! Operands outside their ranges -/

theorem test_wf_port : Instr.wf (.capSend 12) = false ∧ Instr.wf (.capSend 11) = true := by decide
theorem test_wf_input : Instr.wf (.packetRoute 13 0 false) = false ∧ Instr.wf (.packetRoute 12 0 false) = true := by decide
theorem test_wf_flit : Instr.wf (.nak 0 (List.replicate 63 0) []) = false := by decide
theorem test_wf_lanes : Instr.wf (.trainingPhaseComplete 0 [false, false, false] [0, 0, 0, 0] [0, 1, 2, 3] 0) = false ∧
    Instr.wf (.trainingPhaseComplete 0 [false, false, false, false] [0, 0, 0, 0] [0, 1, 2, 4] 0) = false ∧
    Instr.wf (.trainingPhaseComplete 0 [false, false, false, false] [0, 0, 0] [0, 1, 2, 3] 0) = false := by decide
theorem test_wf_bar4 : Instr.wf (.bar4Read 0 0 .clean) = false ∧ Instr.wf (.bar4Write 0 [] .clean) = false := by decide
theorem test_wf_fuses : Instr.wf (.fuseIntegrityCheck [4096]) = false := by decide
theorem test_wf_sensor : Instr.wf (.tempSample 77 true 0) = false := by decide
theorem test_wf_rail : Instr.wf (.railSample 13 0) = false ∧ Instr.wf (.droopTrip 0 4) = false := by decide
theorem test_wf_register : Instr.wf (.registerWrite 2 4 0) = false ∧ Instr.wf (.registerWrite 0 3 0) = false := by decide

end Sys2Proof.Tests
end

section
/-! SUPPORT. The host's set of cluster time and of the step number (R367). -/

namespace Sys2Proof.Machine

/-- A register's bit is the bit of its word. -/
theorem bit_eq_getLsbD (v : W32) (i : Nat) : bit v i = v.getLsbD i :=
  (Nat.testBit_eq_decide_div_mod_eq (x := v.toNat)).symm

/-- A change of the TMR block puts the new block in place. -/
@[simp] theorem State.setTmr_tmr (s : State) (t : Tmr) : (s.setTmr t).tmr = t := by
  unfold State.setTmr; dsimp only; split <;> simp

/-- A change of the TMR block touches nothing but it and, by the event it may post, the HIF block. -/
theorem State.setTmr_frame (s : State) (t : Tmr) :
    s.setTmr t = { s with tmr := (s.setTmr t).tmr, hif := (s.setTmr t).hif } := by
  unfold State.setTmr State.event; dsimp only
  split
  · rfl
  · split <;> rfl

/-- What the host's write does acts while the firmware runs. -/
theorem State.host_of_live {s : State} (f : State → State) (h : s.ctl.state.live = true) : s.host f = .next (f s) := by
  rw [State.host, if_pos h]

/-- A write of TMR_CTRL with the firmware running. -/
theorem exec_setNow {s : State} (v : W32) (h : s.ctl.state.live = true) :
    exec (.setNow v) s = .next (s.setTmr (s.tmr.writeCtrl s.ctl.state.timeHeld v)) :=
  State.host_of_live (fun s => s.setTmr (s.tmr.writeCtrl s.ctl.state.timeHeld v)) h

/-- A write of TMR_STEP with the firmware running. -/
theorem exec_tmrStepWrite {s : State} (v : W32) (h : s.ctl.state.live = true) :
    exec (.tmrStepWrite v) s = .next (s.setTmr (s.tmr.writeStep s.ctl.state.timeHeld v)) :=
  State.host_of_live (fun s => s.setTmr (s.tmr.writeStep s.ctl.state.timeHeld v)) h

/-- In READY, LOADED and FAULT the host's writes act and its sets are taken. -/
theorem Dev.live_and_not_timeHeld {d : Dev} (h : d = .ready ∨ d = .loaded ∨ d = .fault) : d.live = true ∧ d.timeHeld = false := by
  obtain rfl | rfl | rfl := h <;> exact ⟨rfl, rfl⟩

/-- In ARMED, STEPPING and DRAINING the host's writes act and its sets are ignored. -/
theorem Dev.live_and_timeHeld {d : Dev} (h : d = .armed ∨ d = .stepping ∨ d = .draining) : d.live = true ∧ d.timeHeld = true := by
  obtain rfl | rfl | rfl := h <;> exact ⟨rfl, rfl⟩

/-- The end of a holdover leaves the count, the set value and SET_REJ alone. -/
@[simp] theorem Tmr.endHold_keeps (t : Tmr) :
    t.endHold.ns = t.ns ∧ t.endHold.frac = t.frac ∧ t.endHold.setVal = t.setVal ∧ t.endHold.setRej = t.setRej := by
  unfold Tmr.endHold; split <;> simp

/-- SET_NOW outside the states that hold time: the count is the set value, with fraction 0, and nothing is rejected. -/
theorem Tmr.writeCtrl_setNow (t : Tmr) {v : W32} (hv : v.getLsbD 4 = true) :
    (t.writeCtrl false v).ns = t.setVal ∧ (t.writeCtrl false v).frac = 0 ∧ (t.writeCtrl false v).setRej = t.setRej := by
  simp only [Tmr.writeCtrl, bit_eq_getLsbD, hv, if_true, Bool.false_eq_true, if_false, true_and]
  split <;> simp

/-- SET_NOW in a state that holds time: the count goes on as it was and SET_REJ is set. -/
theorem Tmr.writeCtrl_setNow_held (t : Tmr) {v : W32} (hv : v.getLsbD 4 = true) :
    (t.writeCtrl true v).ns = t.ns ∧ (t.writeCtrl true v).frac = t.frac ∧ (t.writeCtrl true v).setRej = true := by
  simp only [Tmr.writeCtrl, bit_eq_getLsbD, hv, if_true, and_true]
  split <;> simp

/-- A write of TMR_STEP outside the states that hold time. -/
theorem Tmr.writeStep_taken (t : Tmr) (v : W32) : t.writeStep false v = { t with step := v } := rfl

/-- A write of TMR_STEP in a state that holds time. -/
theorem Tmr.writeStep_held (t : Tmr) (v : W32) : t.writeStep true v = { t with setRej := true } := rfl

/-- Settles O38: R367's two cases are what `Dev.timeHeld` says of the device state; each write is one change of the TMR block. -/
theorem hostSetsTime : Obligations.HostSetsTime := by
  unfold Obligations.HostSetsTime
  intro s v
  constructor
  · intro hs
    obtain ⟨hlive, hopen⟩ := Dev.live_and_not_timeHeld hs
    constructor
    · intro hv
      obtain ⟨hns, hfrac, hrej⟩ := s.tmr.writeCtrl_setNow hv
      refine ⟨_, exec_setNow v hlive, ?_, ?_, ?_, State.setTmr_frame ..⟩ <;>
        simp only [State.setTmr_tmr, hopen, hns, hfrac, hrej]
    · refine ⟨_, exec_tmrStepWrite v hlive, ?_, State.setTmr_frame ..⟩
      rw [State.setTmr_tmr, hopen, Tmr.writeStep_taken]
  · intro hs
    obtain ⟨hlive, hheld⟩ := Dev.live_and_timeHeld hs
    constructor
    · intro hv
      obtain ⟨hns, hfrac, hrej⟩ := s.tmr.writeCtrl_setNow_held hv
      refine ⟨_, exec_setNow v hlive, ?_, ?_, ?_⟩ <;>
        simp only [State.setTmr_tmr, hheld, hns, hfrac, hrej]
    · refine ⟨_, exec_tmrStepWrite v hlive, ?_⟩
      rw [State.setTmr_tmr, hheld, Tmr.writeStep_held]

end Sys2Proof.Machine
end

section
/-! SUPPORT. The fuse array: runs of set bits, gaps, and the settings that only move one way (R494, R496, R497). -/

namespace Sys2Proof.Machine

/-- A run of set bits is no longer than where it is looked for. -/
theorem runLength_le (f : Sparse Bool) (lo n : Nat) : runLength f lo n ≤ n := by
  induction n generalizing lo with
  | zero => simp [runLength]
  | succ n ih => have := ih (lo + 1); unfold runLength; split <;> omega

/-- Every bit of a run is set. -/
theorem at_of_lt_runLength {f : Sparse Bool} {lo n k : Nat} (h : k < runLength f lo n) : f.at (lo + k) = true := by
  induction n generalizing lo k with
  | zero => simp [runLength] at h
  | succ n ih =>
    unfold runLength at h
    split at h
    · cases k with
      | zero => assumption
      | succ k => have := ih (lo := lo + 1) (k := k) (by omega); rwa [show lo + (k + 1) = lo + 1 + k by omega]
    · omega

/-- The bit behind a run that ends early is clear. -/
theorem at_runLength {f : Sparse Bool} {lo n : Nat} (h : runLength f lo n < n) : f.at (lo + runLength f lo n) = false := by
  induction n generalizing lo with
  | zero => omega
  | succ n ih =>
    unfold runLength at h ⊢
    split at h
    · have := ih (lo := lo + 1) (by omega)
      rwa [if_pos ‹_›, show lo + (1 + runLength f (lo + 1) n) = lo + 1 + runLength f (lo + 1) n by omega]
    · rwa [if_neg ‹_›, Nat.add_zero, ← Bool.not_eq_true]

/-- Bit k of a field of fuses is fuse lo + k. -/
theorem testBit_fuseField (f : Sparse Bool) (lo n k : Nat) : (fuseField f lo n).testBit k = (decide (k < n) && f.at (lo + k)) := by
  induction n generalizing lo k with
  | zero => simp [fuseField]
  | succ n ih =>
    unfold fuseField
    cases k with
    | zero => cases f.at lo <;> simp [Nat.testBit_zero]
    | succ k =>
      have hdiv : ((if f.at lo then 1 else 0) + 2 * fuseField f (lo + 1) n) / 2 = fuseField f (lo + 1) n := by split <;> omega
      rw [Nat.testBit_succ, hdiv, ih, show lo + 1 + k = lo + (k + 1) by omega]
      simp

/-- A gap is a set bit above a clear one. -/
theorem hasGap_iff (f : Sparse Bool) (lo : Nat) :
    hasGap f lo = true ↔ ∃ j k, j < k ∧ k < 32 ∧ f.at (lo + j) = false ∧ f.at (lo + k) = true := by
  rw [hasGap, bne_iff_ne]
  constructor
  · intro hne
    obtain ⟨k, hk⟩ : ∃ k, (fuseField f lo 32).testBit k ≠ (2 ^ runLength f lo 32 - 1).testBit k := by
      by_contra hall
      exact hne (Nat.eq_of_testBit_eq fun k => not_not.mp fun hk => hall ⟨k, hk⟩)
    rw [testBit_fuseField, Nat.testBit_two_pow_sub_one] at hk
    by_cases hrun : k < runLength f lo 32
    · have := runLength_le f lo 32
      simp [hrun, at_of_lt_runLength hrun, show k < 32 by omega] at hk
    · obtain ⟨hk32, hset⟩ : k < 32 ∧ f.at (lo + k) = true := by simpa [hrun] using hk
      have hclear := at_runLength (f := f) (lo := lo) (n := 32) (by omega)
      have : k ≠ runLength f lo 32 := fun e => by rw [← e, hset] at hclear; cases hclear
      exact ⟨_, k, by omega, hk32, hclear, hset⟩
  · rintro ⟨j, k, hjk, hk, hclear, hset⟩ heq
    have hbit : (fuseField f lo 32).testBit k = true := by simp [testBit_fuseField, hk, hset]
    rw [heq, Nat.testBit_two_pow_sub_one, decide_eq_true_eq] at hbit
    rw [at_of_lt_runLength (by omega : j < runLength f lo 32)] at hclear
    cases hclear

/-- Every fuse set in one array is set in the other. -/
def FusesLe (f g : Sparse Bool) : Prop := ∀ i, f.at i = true → g.at i = true

theorem FusesLe.refl (f : Sparse Bool) : FusesLe f f := fun _ h => h
theorem FusesLe.trans {f g h : Sparse Bool} (hfg : FusesLe f g) (hgh : FusesLe g h) : FusesLe f h := fun i hi => hgh i (hfg i hi)

/-- A blow sets one fuse. -/
theorem FusesLe.put (f : Sparse Bool) (i : Nat) : FusesLe f (f.put i true) := by
  intro j hj
  rw [Sparse.at_put]
  split
  · rfl
  · exact hj

/-- A bit with copies reads set when a copy is set, and stays so. -/
theorem FusesLe.any {f g : Sparse Bool} (h : FusesLe f g) {l : List Nat} (hf : (l.any fun i => f.at i) = true) : (l.any fun i => g.at i) = true := by
  obtain ⟨i, hi, hset⟩ := List.any_eq_true.mp hf
  exact List.any_eq_true.mpr ⟨i, hi, h i hset⟩

theorem debugDis_iff (f : Sparse Bool) : debugDis f = true ↔ f.at 0xB60 = true ∨ f.at 0xB61 = true ∨ f.at 0xB62 = true := by
  simp [debugDis]

theorem retired_iff (f : Sparse Bool) : retired f = true ↔ f.at 0xB69 = true ∨ f.at 0xB6A = true ∨ f.at 0xB6B = true := by
  simp [retired]

theorem FusesLe.debugDis {f g : Sparse Bool} (h : FusesLe f g) : debugDis f = true → debugDis g = true := h.any
theorem FusesLe.retired {f g : Sparse Bool} (h : FusesLe f g) : retired f = true → retired g = true := h.any

/-- The low and the high bit of ALARM_ACT, each the or of its copies. -/
def alarmActLo (f : Sparse Bool) : Bool := [0xB63, 0xB65, 0xB67].any fun i => f.at i
def alarmActHi (f : Sparse Bool) : Bool := [0xB64, 0xB66, 0xB68].any fun i => f.at i

theorem alarmActRaw_eq (f : Sparse Bool) : alarmActRaw f = (if alarmActLo f then 1 else 0) + (if alarmActHi f then 2 else 0) := rfl

/-- The code an action reads as, from its two bits: 0b10 reads as 0b11. -/
theorem alarmCode_eq (f : Sparse Bool) : alarmCode f = if alarmActHi f then 3 else if alarmActLo f then 1 else 0 := by
  rw [alarmCode, alarmActRaw_eq]
  cases alarmActHi f <;> cases alarmActLo f <;> rfl

/-- The action, from its two bits. -/
theorem alarmAct_eq (f : Sparse Bool) : alarmAct f = if alarmActHi f then .eraseAndRetire else if alarmActLo f then .eraseKeys else .lock := by
  rw [alarmAct, alarmActRaw_eq]
  cases alarmActHi f <;> cases alarmActLo f <;> rfl

/-- Blows make the alarm action no weaker. -/
theorem FusesLe.alarmCode {f g : Sparse Bool} (h : FusesLe f g) : alarmCode f ≤ alarmCode g := by
  have hlo : alarmActLo f = true → alarmActLo g = true := h.any
  have hhi : alarmActHi f = true → alarmActHi g = true := h.any
  rw [alarmCode_eq, alarmCode_eq]
  by_cases hf : alarmActHi f = true
  · simp [hf, hhi hf]
  · by_cases hl : alarmActLo f = true
    · rw [if_neg hf, if_pos hl, if_pos (hlo hl)]; split <;> omega
    · simp [hf, hl]

end Sys2Proof.Machine
end

section
/-! SUPPORT. The anti-rollback counters: what ROLLBACK_ADVANCE queues, and one blow of a run (R497, R503). -/

namespace Sys2Proof.Machine

/-- A host command that is due and legal has its effect. -/
theorem State.command_of_due {s : State} {i op : Nat} {e : Entry} (legal : Dev → Bool) (k : Entry → State) (h : s.due i e op)
    (hl : legal s.ctl.state = true) : s.command i op legal k = k e := by
  obtain ⟨hf, hop, hturn, hlive⟩ := h
  simp [State.command, hf, hop, hturn, hlive, hl]

/-- A field that holds the whole number reads as it. -/
theorem fld64_of_lt {v : W64} {hi : Nat} (h : v.toNat < 2 ^ (hi + 1)) : fld64 v hi 0 = v.toNat := by
  simp [fld64, Nat.mod_eq_of_lt h]

/-- The bits that take a counter from where it stands to a value, in ascending order. -/
def arbBits (f : Sparse Bool) (i v : Nat) : List Nat := (List.range (v - arbValue f i)).map fun k => arbLo i + arbValue f i + k

/-- ROLLBACK_ADVANCE above the counter's value, with its preconditions met, queues the counter's next bits. -/
theorem exec_rollbackAdvance_queues {s : State} {i : Nat} {e : Entry} (hdue : s.due i e 0x62) (hst : s.ctl.state = .ready ∨ s.ctl.state = .loaded)
    (hb : s.sec.blow = []) (hc : e.p0.toNat < 64) (hv : e.p1.toNat ≤ 32) (hup : arbValue s.sec.fuses e.p0.toNat < e.p1.toNat)
    (hsvn : e.p0 = 0 → e.p1.toNat ≤ s.sec.fwSvn.toNat)
    (him : ∀ im, s.img = some im → im.rollbackIndex = e.p0.toNat → e.p1.toNat ≤ im.rollbackValue) :
    exec (.rollbackAdvance i) s = .next { s with
      hif := { s.hif with fetched := s.hif.fetched.eraseIdx i }
      sec := { s.sec with blow := arbBits s.sec.fuses e.p0.toNat e.p1.toNat, blowFor := .rollback e e.p0.toNat } } := by
  have hlegal : (s.ctl.state == .ready || s.ctl.state == .loaded) = true := by simpa using hst
  have hzero : ¬ (e.p0.toNat = 0 ∧ s.sec.fwSvn.toNat < e.p1.toNat) := fun ⟨h0, hlt⟩ => by
    have := hsvn (BitVec.eq_of_toNat_eq h0); omega
  show execRollbackAdvance i s = _
  simp only [execRollbackAdvance, hb, List.isEmpty_nil, Bool.not_true, Bool.false_eq_true, if_false]
  rw [State.command_of_due _ _ hdue hlegal]
  simp only [fld64_of_lt (v := e.p0) (hi := 5) hc]
  rw [if_neg (by simpa using hv), if_neg (by simpa using hzero), if_neg, if_neg (by omega)]
  · rfl
  · cases hi : s.img with
    | none => simp
    | some im => simpa using him im hi

/-- The end of a run of blows changes PROV_DONE, PROV_ERR and ERR, or completes a host command. -/
@[simp] theorem State.blowDone_keeps (s : State) (ok : Bool) :
    (s.blowDone ok).sec.fuses = s.sec.fuses ∧ (s.blowDone ok).sec.held = s.sec.held ∧ (s.blowDone ok).sec.blow = s.sec.blow ∧
    (s.blowDone ok).sec.debugSeen = s.sec.debugSeen := by
  unfold State.blowDone
  split
  · simp
  · split <;> split <;> simp

/-- A blow that reads back sets its bit in the array and in the held copy, and the run goes on. -/
theorem exec_fuseBitBlow_ok {s : State} {b : Nat} {rest : List Nat} (hg : s.ctl.state.guarded = true) (hb : s.sec.blow = b :: rest) :
    ∃ t, exec (.fuseBitBlow true) s = .next t ∧ t.sec.fuses = s.sec.fuses.put b true ∧ t.sec.held = s.sec.held.put b true ∧
      t.sec.blow = rest ∧ t.sec.debugSeen = s.sec.debugSeen := by
  refine ⟨_, rfl, ?_⟩
  simp only [hb, hg, Bool.not_true, Bool.false_eq_true, if_false, if_true]
  split <;> simp [Sec.setFuse]

/-- A blow that does not read back ends the run, with no fuse set. -/
theorem exec_fuseBitBlow_failed {s : State} {b : Nat} {rest : List Nat} (hg : s.ctl.state.guarded = true) (hb : s.sec.blow = b :: rest) :
    ∃ t, exec (.fuseBitBlow false) s = .next t ∧ t.sec.fuses = s.sec.fuses ∧ t.sec.blow = [] ∧ t.sec.debugSeen = s.sec.debugSeen := by
  refine ⟨_, rfl, ?_⟩
  simp [hb, hg]

/-- Settles O14: R497's value and gaps are what `runLength` says of a run of set bits; ROLLBACK_ADVANCE queues the bits behind the run in ascending
order (R503), and FUSE_BIT_BLOW takes the front one, or ends the run when it does not read back (log entry 72). -/
theorem rollbackCounters : Obligations.RollbackCounters := by
  unfold Obligations.RollbackCounters
  refine ⟨fun f i => ⟨runLength_le .., fun k => at_of_lt_runLength, at_runLength, hasGap_iff ..⟩, ?_, ?_⟩
  · intro s i e hf hop hturn hst hb hc hv hup hsvn him
    have hlive : s.ctl.state.live = true := by obtain h | h := hst <;> rw [h] <;> rfl
    have hdue : s.due i e 0x62 := ⟨hf, by rw [hop]; rfl, hturn, hlive⟩
    exact ⟨_, exec_rollbackAdvance_queues hdue hst hb hc hv hup hsvn him, rfl, rfl⟩
  · intro s b rest hg hb
    constructor
    · obtain ⟨t, ht, hfuses, hheld, hblow, -⟩ := exec_fuseBitBlow_ok hg hb
      exact ⟨t, ht, by simp [hfuses], by simp [hheld], hblow, fun j hj => by rw [hfuses, Sparse.at_put_ne _ _ hj]⟩
    · obtain ⟨t, ht, hfuses, hblow, -⟩ := exec_fuseBitBlow_failed hg hb
      exact ⟨t, ht, hfuses, hblow⟩

end Sys2Proof.Machine
end

section
/-! SUPPORT. What leaves the SEC block alone: the shared operations beside those of Laws/Ops, and every command that is none of the security
controller's, sets no reset or alarm off, and seals no file. -/

namespace Sys2Proof.Machine

@[simp] theorem State.sec_ite (c : Prop) [Decidable c] (a b : State) : (if c then a else b).sec = if c then a.sec else b.sec :=
  apply_ite State.sec c a b

/-- A fold of changes that leave the SEC block leaves it. -/
@[simp] theorem State.foldl_sec {β : Type} {f : State → β → State} (h : ∀ t x, (f t x).sec = t.sec) (l : List β) (s : State) :
    (l.foldl f s).sec = s.sec := foldl_proj State.sec h l s

/-! The shared operations -/

@[simp] theorem State.parityAt_sec (s : State) (o : Nat) (p : Bool) : (s.parityAt o p).sec = s.sec := by simp [State.parityAt]
@[simp] theorem State.hostSync_sec (s : State) (o : Nat) (p : SyncOp) : (s.hostSync o p).sec = s.sec := by simp [State.hostSync]
@[simp] theorem State.noteUnit_sec (s : State) (t c : Nat) : (s.noteUnit t c).sec = s.sec := by simp [State.noteUnit]
@[simp] theorem State.loadSlot_sec (s : State) (im : Image) (t k i : Nat) : (s.loadSlot im t k i).sec = s.sec := rfl
@[simp] theorem State.mergeRead_sec (s : State) (im : Image) (cs : List (Nat × Byte)) (e : Ecc) : (s.mergeRead im cs e).sec = s.sec := by
  simp [State.mergeRead]
@[simp] theorem State.poisonStop_sec (s : State) (t k : Nat) (m : Bool) : (s.poisonStop t k m).sec = s.sec := by simp [State.poisonStop]
@[simp] theorem State.abandonLost_sec (s : State) : s.abandonLost.sec = s.sec := by simp [State.abandonLost]
@[simp] theorem State.dropStep_sec (s : State) (im : Image) : (s.dropStep im).sec = s.sec := by simp [State.dropStep]
@[simp] theorem State.reapply_sec (s : State) (im : Image) (f : Fab) : (s.reapply im f).sec = s.sec := by simp [State.reapply]

@[simp] theorem State.stepRead_sec (s : State) (im : Image) (ks : List Nat) (e : Ecc) : (s.stepRead im ks e).1.sec = s.sec := by
  unfold State.stepRead; dsimp only; split
  · rfl
  · split <;> simp

/-! The check-value unit -/

@[simp] theorem State.crcEnd_sec (s : State) (j : CrcJob) (v : W64) (st : Nat) : (s.crcEnd j v st).sec = s.sec := by simp [State.crcEnd]

@[simp] theorem State.scanErrs_sec (source : Nat) (via : Nat → Nat) (inj : Bool) (us : List (Nat × List Nat)) (s : State) :
    (State.scanErrs source via inj us s).1.sec = s.sec := by
  induction us generalizing s with
  | nil => rfl
  | cons u r ih => unfold State.scanErrs; dsimp only; split <;> simp [ih]

@[simp] theorem State.scanRead_sec (s : State) (ks : List Nat) (e : Ecc) (source : Nat) (via : Nat → Nat) :
    (s.scanRead ks e source via).1.sec = s.sec := by
  unfold State.scanRead; dsimp only
  split <;> split <;> simp

@[simp] theorem State.crcScan_sec (s : State) (j : CrcJob) (n : Nat) (e : Ecc) : (s.crcScan j n e).sec = s.sec := by simp [State.crcScan]

@[simp] theorem State.crcCycle_sec (s : State) : s.crcCycle.sec = s.sec := by
  unfold State.crcCycle; split
  · rfl
  · simp

@[simp] theorem idle_sec (s : State) : (idle s).sec = s.sec := by simp [idle]

/-! The update and the exchange -/

@[simp] theorem State.toAll_sec (s : State) (m : XMsg) : (s.toAll m).sec = s.sec := by simp [State.toAll]
@[simp] theorem State.countUnbound_sec (s : State) (c : Counts) : (s.countUnbound c).sec = s.sec := by simp [State.countUnbound]
@[simp] theorem State.updateFault_sec (s : State) (im : Image) (g : Nat) : (s.updateFault im g).sec = s.sec := by simp [State.updateFault]
@[simp] theorem State.updateRead_sec (s : State) (im : Image) (gs q : List Nat) (e : Ecc) : (s.updateRead im gs q e).1.sec = s.sec := by
  simp [State.updateRead]
@[simp] theorem State.updateOne_sec (s : State) (im : Image) (g st : Nat) (gu : List F32) : (s.updateOne im g st gu).sec = s.sec := by
  simp [State.updateOne]
@[simp] theorem State.updateQuiet_sec (s : State) (im : Image) (g st : Nat) (gu : List F32) : (s.updateQuiet im g st gu).sec = s.sec := by
  simp [State.updateQuiet]
@[simp] theorem State.noteStep_sec (s : State) (im : Image) : (s.noteStep im).sec = s.sec := by simp [State.noteStep]
@[simp] theorem State.stagePanel_sec (s : State) (im : Image) (st g gen off : Nat) (bs : List Byte) : (s.stagePanel im st g gen off bs).sec = s.sec := rfl
@[simp] theorem State.writeStaged_sec (s : State) (im : Image) : (s.writeStaged im).sec = s.sec := rfl
@[simp] theorem State.settleReturns_sec (s : State) : s.settleReturns.sec = s.sec := rfl

@[simp] theorem State.sendPanel_sec (s : State) (im : Image) (g gen : Nat) : (s.sendPanel im g gen).sec = s.sec := by
  unfold State.sendPanel; split <;> simp

@[simp] theorem State.drop_sec (s : State) (i : Nat) : (s.drop i).sec = s.sec := rfl
@[simp] theorem State.bad_sec (s : State) : s.bad.sec = s.sec := rfl
@[simp] theorem State.contribute_sec (s : State) (im : Image) (b i : Nat) : (s.contribute im b i).sec = s.sec := by simp [State.contribute]
@[simp] theorem State.land_sec (s : State) (im : Image) (g : ExGroup) (y : SlotSet) (q off : Nat) (bs : List Byte) (sl : SlotIn) (e : Ecc) :
    (s.land im g y q off bs sl e).sec = s.sec := by simp [State.land]
@[simp] theorem State.lateFrom_sec (s : State) (m : Nat) : (s.lateFrom m).sec = s.sec := by simp [State.lateFrom]
@[simp] theorem State.closeBucket_sec (s : State) (im : Image) (b : Nat) (p : Bool) : (s.closeBucket im b p).sec = s.sec := by
  simp [State.closeBucket]
@[simp] theorem State.staleShard_sec (s : State) (im : Image) (b i : Nat) : (s.staleShard im b i).sec = s.sec := by simp [State.staleShard]
@[simp] theorem State.updateReport_sec (s : State) (im : Image) (b i : Nat) (v : Sev) : (s.updateReport im b i v).sec = s.sec := by
  simp [State.updateReport]
@[simp] theorem State.beginUpdate_sec (s : State) (im : Image) (y : SlotSet) : (s.beginUpdate im y).sec = s.sec := by simp [State.beginUpdate]
@[simp] theorem State.sendPodSum_sec (s : State) (b i : Nat) (sum : List F32) (n m : Nat) : (s.sendPodSum b i sum n m).sec = s.sec := by
  simp [State.sendPodSum]
@[simp] theorem State.sendNorm_sec (s : State) (im : Image) : (s.sendNorm im).sec = s.sec := by simp [State.sendNorm]
@[simp] theorem State.sendReturn_sec (s : State) (im : Image) (b i : Nat) (l : List Nat) : (s.sendReturn im b i l).sec = s.sec := by
  simp [State.sendReturn]
@[simp] theorem State.putReturn_sec (s : State) (im : Image) (r : Ret) : (s.putReturn im r).sec = s.sec := by simp [State.putReturn]
@[simp] theorem State.diverge_sec (s : State) (k : Nat × Nat) : (s.diverge k).sec = s.sec := by simp [State.diverge]
@[simp] theorem State.endRound_sec (s : State) (m : Nat) : (s.endRound m).sec = s.sec := by simp [State.endRound]
@[simp] theorem State.sendFetch_sec (s : State) (k : Nat × Nat) : (s.sendFetch k).sec = s.sec := by simp [State.sendFetch]
@[simp] theorem State.cutOff_sec (s : State) (t : Nat) : (s.cutOff t).sec = s.sec := by simp [State.cutOff]

@[simp] theorem State.queueAdd_sec (s : State) (im : Image) (g st : Nat) (gu : List F32) : (s.queueAdd im g st gu).sec = s.sec := by
  unfold State.queueAdd; split <;> rfl

@[simp] theorem State.applyTo_sec (s : State) (im : Image) (b : Bool) (st : Nat) (p : Nat × List F32) : (s.applyTo im b st p).sec = s.sec := by
  simp [State.applyTo]

@[simp] theorem State.compareFrom_sec (im : Image) (l : List (Nat × Nat)) (m : Nat) (e : Ecc) (s : State) :
    (State.compareFrom im l m e s).sec = s.sec := by
  induction l generalizing m e s with
  | nil => simp [State.compareFrom]
  | cons k r ih =>
    unfold State.compareFrom; split
    · exact ih ..
    · simp [ih]

@[simp] theorem State.fetchFailed_sec (s : State) (im : Image) (r : Round) (f : Refetch) (e : Ecc) : (s.fetchFailed im r f e).sec = s.sec := by
  simp [State.fetchFailed]

@[simp] theorem State.sendState_sec (s : State) (im : Image) : (s.sendState im).sec = s.sec := by simp [State.sendState]

@[simp] theorem State.armEpochNow_sec (s : State) : s.armEpochNow.sec = s.sec := by
  unfold State.armEpochNow; dsimp only; split
  · rfl
  · split <;> split <;> simp

@[simp] theorem State.writeGxCtrl_sec (s : State) (v : W32) : (s.writeGxCtrl v).sec = s.sec := by simp [State.writeGxCtrl]

/-! The step -/

@[simp] theorem State.stashFault_sec (s : State) (p n f d : Nat) : (s.stashFault p n f d).sec = s.sec := by simp [State.stashFault]
@[simp] theorem State.inputReady_sec (s : State) (im : Image) : (s.inputReady im).sec = s.sec := by
  unfold State.inputReady; split <;> simp
@[simp] theorem State.accumulate_sec (s : State) (im : Image) (m g : Nat) (xs : List ((Nat × Nat) × F32)) : (s.accumulate im m g xs).sec = s.sec := by
  simp [State.accumulate]
@[simp] theorem State.park_sec (s : State) (im : Image) (m g : Nat) (xs : List ((Nat × Nat) × F32)) : (s.park im m g xs).sec = s.sec := rfl
@[simp] theorem State.beginStep_sec (s : State) (im : Image) : (s.beginStep im).sec = s.sec := by simp [State.beginStep]
@[simp] theorem State.sweepBlock_sec (s : State) (im : Image) (g : Nat) : (s.sweepBlock im g).sec = s.sec := by simp [State.sweepBlock]
@[simp] theorem State.recoverStep_sec (s : State) (im : Image) (d : Bool) : (s.recoverStep im d).sec = s.sec := by simp [State.recoverStep]
@[simp] theorem State.exportRead_sec (s : State) (im : Image) (c : Nat) (bs : List Nat) (e : Ecc) : (s.exportRead im c bs e).1.sec = s.sec := by
  simp [State.exportRead]

/-! Tiles, intake, links, faults, registers -/

@[simp] theorem State.runFiring_sec (s : State) (im : Image) (t k mb : Nat) (fs : List ArrayFault) : (s.runFiring im t k mb fs).sec = s.sec := rfl
@[simp] theorem State.firingReads_sec (s : State) (im : Image) (t : Nat) (d : Desc) (e : Ecc) : (s.firingReads im t d e).1.sec = s.sec := by
  simp [State.firingReads]
@[simp] theorem State.startFiring_sec (s : State) (im : Image) (t k : Nat) (e : Ecc) (fs : List ArrayFault) :
    (s.startFiring im t k e fs).sec = s.sec := by simp [State.startFiring]
@[simp] theorem State.movedDraw_sec (s : State) (n : Nat) : (s.movedDraw n).sec = s.sec := by simp [State.movedDraw]
@[simp] theorem State.writeResult_sec (s : State) (im : Image) (d : Desc) (x : Firing) : (s.writeResult im d x).sec = s.sec := by
  unfold State.writeResult; split <;> simp
@[simp] theorem State.verdictPass_sec (s : State) (im : Image) (d : Desc) (x : Firing) : (s.verdictPass im d x).sec = s.sec := by
  simp [State.verdictPass]
@[simp] theorem State.repeatFiring_sec (s : State) (im : Image) (d : Desc) (x : Firing) (f : CheckFail) (e : Ecc) (fs : List ArrayFault) :
    (s.repeatFiring im d x f e fs).sec = s.sec := by simp [State.repeatFiring]
@[simp] theorem State.verdictStop_sec (s : State) (im : Image) (d : Desc) (x : Firing) (f : CheckFail) : (s.verdictStop im d x f).sec = s.sec := by
  simp [State.verdictStop]
@[simp] theorem State.passLocal_sec (s : State) (im : Image) (b : OutBlk) : (s.passLocal im b).sec = s.sec := by simp [State.passLocal]
@[simp] theorem State.enqueueSpoon_sec (s : State) (x : Firing) : (s.enqueueSpoon x).sec = s.sec := by simp [State.enqueueSpoon]
@[simp] theorem State.countFiring_sec (s : State) (im : Image) (d : Desc) (x : Firing) : (s.countFiring im d x).sec = s.sec := rfl
@[simp] theorem State.dropAt_sec (s : State) (t p : Nat) (i : Bool) : (s.dropAt t p i).sec = s.sec := by simp [State.dropAt]
@[simp] theorem State.arrive_sec (s : State) (im : Image) (t : Nat) (fl : Flit) : (s.arrive im t fl).sec = s.sec := by simp [State.arrive]
@[simp] theorem State.lastRead_sec (s : State) (im : Image) (e : Nat) : (s.lastRead im e).sec = s.sec := by
  unfold State.lastRead; dsimp only; split <;> simp
@[simp] theorem State.setInp_sec (s : State) (r : Inp × List SampleDone) : (s.setInp r).sec = s.sec := by simp [State.setInp]
@[simp] theorem State.readRecord_sec (s : State) (d : SampleDesc) (o n : Nat) (b : Bool) (e : Ecc) : (s.readRecord d o n b e).1.sec = s.sec := by
  unfold State.readRecord; split <;> simp
@[simp] theorem State.fieldDone_sec (s : State) (im : Image) (x : Inp) (k : Nat) : (s.fieldDone im x k).sec = s.sec := by simp [State.fieldDone]
@[simp] theorem State.stagingRead_sec (s : State) (im : Image) (e : Ecc) : (s.stagingRead im e).1.sec = s.sec := by simp [State.stagingRead]
@[simp] theorem State.datapathFault_sec (s : State) : s.datapathFault.sec = s.sec := by simp [State.datapathFault]
@[simp] theorem State.voidFetch_sec (s : State) (k : Nat) : (s.voidFetch k).sec = s.sec := rfl
@[simp] theorem State.writeInpCtrl_sec (s : State) (v : W32) : (s.writeInpCtrl v).sec = s.sec := by
  unfold State.writeInpCtrl; split
  · simp
  · split
    · split <;> rfl
    · rfl
@[simp] theorem State.badMsg_sec (s : State) : s.badMsg.sec = s.sec := by simp [State.badMsg]
@[simp] theorem State.faultEvent_sec (s : State) (r : Report) (n : Nat) (p : Bool) : (s.faultEvent r n p).sec = s.sec := by simp [State.faultEvent]
@[simp] theorem State.writeInject_sec (s : State) (v : W32) : (s.writeInject v).sec = s.sec := by simp [State.writeInject]
@[simp] theorem State.sampleOscillators_sec (s : State) : s.sampleOscillators.sec = s.sec := rfl
@[simp] theorem State.writeHciHost_sec (s : State) (v : W32) : (s.writeHciHost v).sec = s.sec := by simp [State.writeHciHost]
@[simp] theorem State.send_sec (s : State) (o : HostOut) : (s.send o).sec = s.sec := rfl
@[simp] theorem State.doorbell_sec (s : State) (o n : Nat) (v : W32) : (s.doorbell o n v).sec = s.sec := by
  unfold State.doorbell; split <;> rfl
@[simp] theorem State.rejected_sec (s : State) (r : Rej) : (s.rejected r).sec = s.sec := rfl
@[simp] theorem State.loadFault_sec (s : State) (n : Nat) : (s.loadFault n).sec = s.sec := by simp [State.loadFault]
@[simp] theorem State.writeCtl_sec (s : State) (o : Nat) (v : W32) : (s.writeCtl o v).sec = s.sec := by
  unfold State.writeCtl; split <;> simp
@[simp] theorem State.writeTil_sec (s : State) (t o : Nat) (v : W32) : (s.writeTil t o v).sec = s.sec := by simp [State.writeTil]

/-- A host command leaves the SEC block when its effect does. -/
@[simp] theorem State.command_sec {s : State} {i op : Nat} {legal : Dev → Bool} {k : Entry → State} (h : ∀ e, (k e).sec = s.sec) :
    (s.command i op legal k).sec = s.sec := by
  unfold State.command; split
  · rfl
  · simp [h]

@[simp] theorem State.syncCmd_sec {s : State} {i k : Nat} {ok : Nat → Bool} {f : Entry → Nat → State} (h : ∀ e o, (f e o).sec = s.sec) :
    (s.syncCmd i k ok f).sec = s.sec := by
  unfold State.syncCmd; split
  · rfl
  · simp [h]

/-- A message leaves the SEC block when its handling does. -/
@[simp] theorem State.onMail_sec {s : State} {i ty : Nat} {f : Image → XMsg → State} (h : ∀ im m, (f im m).sec = s.sec) :
    (s.onMail i ty f).sec = s.sec := by
  unfold State.onMail; split <;> simp [h]

end Sys2Proof.Machine
end

section
/-! SUPPORT. The commands that leave the SEC block alone. -/

namespace Sys2Proof.Machine

/-- What a meaning answers has the SEC block of the state. -/
structure State.SecKept (s : State) (r : Res) : Prop where
  eq : ∀ t, r = .next t → t.sec = s.sec

@[simp] theorem State.secKept_next {s t : State} : s.SecKept (.next t) ↔ t.sec = s.sec :=
  ⟨fun h => h.eq t rfl, fun h => ⟨fun _ e => by cases e; exact h⟩⟩

/-! What a command is wrapped in keeps the SEC block when its effect does -/

namespace State.SecKept

variable {s : State}

theorem next {t : State} (h : t.sec = s.sec) : s.SecKept (.next t) := secKept_next.mpr h

theorem host {f : State → State} (h : (f s).sec = s.sec) : s.SecKept (s.host f) := by simp [State.host, h]
theorem powered {f : State → State} (h : (f s).sec = s.sec) : s.SecKept (s.powered f) := by simp [State.powered, h]
theorem scrubbing {f : State → State} (h : (f s).sec = s.sec) : s.SecKept (s.scrubbing f) := by simp [State.scrubbing, h]
theorem answered {o : HostOut} {f : State → State} (h : (f s).sec = s.sec) : s.SecKept (s.answered o f) := by simp [State.answered, h]
theorem ofSource {n : Nat} {f : State → State} (h : (f s).sec = s.sec) : s.SecKept (s.ofSource n f) := by simp [State.ofSource, h]

theorem onPort {i : Nat} {f : Port → State} (h : ∀ p, (f p).sec = s.sec) : s.SecKept (s.onPort i f) := by simp [State.onPort, h]

theorem onCtrl (s : State) (i sub : Nat) (bs : List Byte) (fec : List Nat) (ok : Port → Bool) (f : Lnk → List Byte → Lnk) :
    s.SecKept (s.onCtrl i sub bs fec ok f) := onPort fun _ => by simp

theorem laneFails (s : State) (i lane r : Nat) : s.SecKept (s.laneFails i lane r) := onPort fun _ => by simp

theorem answer (s : State) (l c : Nat) (bs : List Nat) : s.SecKept (s.answer l c bs) := next (by simp)

theorem intake {f : Image → State} (h : ∀ im, (f im).sec = s.sec) : s.SecKept (s.intake f) := next (by split <;> simp [h])

theorem issue {n : Nat} {ok : Bool} {f : Due → State → State} (h : ∀ d t, (f d t).sec = t.sec) : s.SecKept (s.issue n ok f) :=
  next (by split <;> simp [h])

theorem command {i op : Nat} {legal : Dev → Bool} {k : Entry → State} (h : ∀ e, (k e).sec = s.sec) :
    s.SecKept (.next (s.command i op legal k)) := next (State.command_sec h)

theorem syncCmd {i k : Nat} {ok : Nat → Bool} {f : Entry → Nat → State} (h : ∀ e o, (f e o).sec = s.sec) :
    s.SecKept (.next (s.syncCmd i k ok f)) := next (State.syncCmd_sec h)

theorem onMail {i ty : Nat} {f : Image → XMsg → State} (h : ∀ im m, (f im m).sec = s.sec) : s.SecKept (.next (s.onMail i ty f)) :=
  next (State.onMail_sec h)

end State.SecKept

/-! Commands with a longer split of cases -/

theorem execSqEntryFetch_secKept (busErr : Bool) (s : State) : s.SecKept (execSqEntryFetch busErr s) := .host (by
  split
  · rfl
  · split
    · rfl
    · dsimp only; split
      · rfl
      · split <;> simp)

theorem execImportCmd_secKept (i : Nat) (ecc : Ecc) (s : State) : s.SecKept (execImportCmd i ecc s) := .command fun e => by
  split
  · simp
  · dsimp only; split
    · simp
    · split
      · simp
      · split
        · simp
        · split <;> simp

theorem execMbAdmission_secKept (s : State) : s.SecKept (execMbAdmission s) := .next (by
  split
  · dsimp only; split
    · rfl
    · generalize hr : (if (s.adm.choose _ _).2 then { s with ctl := { s.ctl with placeInvalid := true } } else s) = r
      have hsec : r.sec = s.sec := by rw [← hr]; simp
      split
      · exact hsec
      · simp [hsec]
      · split
        · rw [State.foldl_sec fun _ _ => State.loadSlot_sec ..]; exact hsec
        · split
          · exact hsec
          · split <;> simp [hsec]
  · rfl)

theorem execFlitEject_secKept (tile : BitVec 8) (fault : HopFault) (aged : Bool) (s : State) :
    s.SecKept (execFlitEject tile fault aged s) := .next (by
  split
  · rfl
  · dsimp only; split
    · rfl
    · cases fault <;> simp)

theorem execPacketRoute_secKept (port : Nat) (vc : BitVec 3) (parity : Bool) (s : State) : s.SecKept (execPacketRoute port vc parity s) := .next (by
  simp only [State.sec_ite]
  split
  · rfl
  · split
    · simp
    · split
      · simp
      · split
        · split
          · split <;> simp
          · simp
        · rfl)

theorem execFieldDecodeError_secKept (seq type : Nat) (code : DecodeErr) (s : State) :
    s.SecKept (execFieldDecodeError seq type code s) := .intake fun im => by
  dsimp only; split
  · rfl
  · split
    · rfl
    · split
      · simp
      · split <;> simp

theorem execStemEngineStart_secKept (region : BitVec 4) (ecc : Ecc) (s : State) : s.SecKept (execStemEngineStart region ecc s) := .next (by
  split
  · rfl
  · dsimp only
    generalize (if s.pwr.gate.at region.toNat then none else _) = o
    cases o <;> simp)

theorem execD3hotTransition_secKept (on : Bool) (s : State) : s.SecKept (execD3hotTransition on s) := by
  unfold execD3hotTransition
  split
  · exact .next rfl
  · exact .answered rfl

/-- The commands that reset, remove power, sound an alarm, enter FAULT, blow or check fuses, write SEC registers, seal a file or load an image. -/
def reachesSec : Instr → Bool
  | .powerRemoval | .perst _ | .resetN _ | .refclkStop | .resetRelease | .mgmtWatchdogExpiry | .imageLoad _ _ _ _ | .warmReset _
  | .exportCmd _ _ | .rollbackAdvance _ | .snapshotCapture _ | .provGo _ | .provLock _ | .fuseBitBlow _ | .exportKeyCommit _
  | .exportKeyClear _ | .fuseIntegrityCheck _ | .tamper _ _ | .alarmFuseBlow | .debugIntrusion | .debugSession | .faultRecordWrite
  | .tempSample _ _ _ | .railSample _ _ | .cglitch | .registerWrite _ _ _ => true
  | _ => false

/-- Every other command leaves the SEC block as it is. -/
theorem exec_secKept {c : Instr} (hc : reachesSec c = false) (s : State) : s.SecKept (exec c s) := by
  cases c <;> dsimp only [exec]
  case powerRemoval | perst | resetN | refclkStop | resetRelease | mgmtWatchdogExpiry | imageLoad | warmReset | exportCmd | rollbackAdvance
      | snapshotCapture | provGo | provLock | fuseBitBlow | exportKeyCommit | exportKeyClear | fuseIntegrityCheck | tamper | alarmFuseBlow
      | debugIntrusion | debugSession | faultRecordWrite | tempSample | railSample | cglitch | registerWrite => cases hc
  case syncSignal | setEndpointId | firingStart | firingEnd | memoryDropReturn | descriptorLoadComplete | tileWatchdogExpiry | signal | take
      | frameRelease | accumulatingStore | parkedAccumulate | stepStart | sweepComplete | stepEnd | bucketComplete | bucketDeadlinePass
      | podDeadlinePass | returnDeadlinePass | normDeadlinePass | shardReduceDone | shardUpdateDone | compareRound | packetDeliver
      | tileFence => exact .next (by split <;> simp)
  case ctlHciHostWrite | sqTailDoorbell | cqHeadDoorbell | bar4Write | tilHaltWrite | armEpoch | cutoff | compareNow | portEnableWrite
      | timerEntryCtrlWrite | setNow | tmrStepWrite | servoSourceSelect | closeMb | flush | fltInject => exact .host (by simp)
  case powerApplied | bootComplete | wdtKick | wdtLock | syncNotify | i3cAddrAssign | heartbeatTimeout | lockstepMismatch | pllLockLoss
      | xferWaitTimeout | timerEntryDue | holdoverLimitExceeded => exact .next (by simp)
  case getEndpointId | getMctpVersionSupport | getMessageTypeSupport | getTid | getPldmVersion | getPldmTypes | getPldmCommands
      | getPdrRepositoryInfo | getPdr | getSensorReading | getStateSensorReadings | mgmtUnsupportedRequest => exact .answer ..
  case nop | identify | arm | disarm | run | drain | stepAbort | sample | mailSend | attest => exact .command fun _ => by simp
  case trainingPhaseComplete | trainingPhaseTimeout | capSend | linkFlitReceive | abort | resendTimerExpiry | idleFlitSend | creditFlitSend
      | timeReqSend | autoRetrain => exact .onPort fun _ => by simp
  case hifSqCfgWrite | hifCqCfgWrite | hifBar4BaseWrite | msixCoalesceTimeout | submit | pop | crcJobStart => exact .host rfl
  case mbComplete | sampleAccept | stagingReserve | engineAssign | fieldDecodeComplete | rowSetSeal => exact .intake fun _ => by split <;> simp
  case normPart | norm | returnMsg | returnEnd | fetch | xferEnd => exact .onMail fun _ _ => by simp
  case cap | probe | nak | credit | timeReq => exact .onCtrl ..
  case bucketDeadline | digestCompare | timerSnapshot | placementSwitch | powerPolicy => exact .issue fun _ _ => rfl
  case powerLoss | eccWriteBack | faultReport | p3v3AuxInWindow => exact .next rfl
  case syncTake | syncSet | syncArm | syncRead => exact .syncCmd fun _ _ => by simp
  case contrib | podSum | fetchData | fetchEnd => exact .onMail fun _ _ => by dsimp only; split <;> simp
  case ctPulseEdge | ctRefLoss | pulseLoss | timeRespLoss => exact .ofSource (by simp)
  case laneSignalLoss | alignmentLoss | lockLoss => exact .laneFails ..
  case timerSignal | timerSet | stragglerCutoff => exact .issue fun _ _ => by simp
  case powerSample | powerControlPeriod | droopTrip => exact .powered (by simp)
  case headerReadReturn | engineTimeReport => exact .intake fun _ => by simp
  case patrolScrubRead | scrubPassComplete => exact .scrubbing (by simp)
  case thermalThrottleStep | droopGateEnd => exact .powered rfl
  case bar4Read => exact .answered (by simp)
  case snapshot => exact .command fun _ => rfl
  case crcJobComplete => exact .host (by split <;> simp)
  case faultClear | tileCreditSend | spoonRecompute | stashSignalPass | vcStall | abandonComplete =>
    exact .next (by
      split
      · rfl
      · split <;> simp)
  case recordFetchComplete | sampleEmit =>
    exact .intake fun _ => by
      dsimp only; split
      · rfl
      · split
        · rfl
        · split <;> simp
  case sqEntryFetch => exact execSqEntryFetch_secKept ..
  case importCmd => exact execImportCmd_secKept ..
  case mailRecv => exact .command fun _ => by dsimp only; split <;> simp
  case checksumVerdict =>
    exact .next (by
      split
      · split
        · rfl
        · dsimp only; split <;> simp
      · rfl)
  case flitHop =>
    exact .next (by
      split
      · dsimp only; split
        · rfl
        · split <;> simp
      · rfl)
  case flitEject => exact execFlitEject_secKept ..
  case tileCreditMessage =>
    exact .next (by
      split
      · rfl
      · dsimp only; split
        · rfl
        · split <;> simp)
  case swappedSlotLoad =>
    exact .next (by
      split
      · rfl
      · dsimp only; split
        · split <;> simp
        · rfl)
  case stemEngineStart => exact execStemEngineStart_secKept ..
  case mbAdmission => exact execMbAdmission_secKept ..
  case restoreServe =>
    exact .next (by
      split
      · rfl
      · dsimp only; split <;> simp)
  case shardReduceStart =>
    exact .next (by
      split
      · rfl
      · split
        · rfl
        · split <;> simp)
  case fetchTimeout =>
    exact .next (by
      split
      · split <;> simp
      · rfl)
  case stateXfer =>
    exact .onMail fun _ _ => by
      dsimp only; split
      · rfl
      · split
        · simp
        · split <;> simp
  case timeResp =>
    exact .onPort fun _ => by
      split
      · dsimp only; split <;> simp
      · rfl
  case packetRoute => exact execPacketRoute_secKept ..
  case fieldDecodeError => exact execFieldDecodeError_secKept ..
  case d3hotTransition => exact execD3hotTransition_secKept ..

end Sys2Proof.Machine
end

section
/-! SUPPORT. The SEC block under every step: a blown fuse stays blown, and DEBUG_SEEN stays set short of a reset or power removal
(R494, R496, R510). -/

namespace Sys2Proof.Machine

/-- A state follows a SEC block: no fuse is cleared, and DEBUG_SEEN is cleared on the way to OFF and RESET only. -/
structure Sec.Follows (x : Sec) (t : State) : Prop where
  fuses : FusesLe x.fuses t.sec.fuses
  seen : x.debugSeen = true → t.ctl.state ≠ .off → t.ctl.state ≠ .reset → t.sec.debugSeen = true

theorem Sec.Follows.of_le {x : Sec} {t : State} (hf : FusesLe x.fuses t.sec.fuses) (hd : t.sec.debugSeen = x.debugSeen) : x.Follows t :=
  ⟨hf, fun h _ _ => hd.trans h⟩

theorem Sec.Follows.of_eq {x : Sec} {t : State} (hf : t.sec.fuses = x.fuses) (hd : t.sec.debugSeen = x.debugSeen) : x.Follows t :=
  .of_le (hf ▸ FusesLe.refl _) hd

theorem Sec.Follows.of_sec {x : Sec} {t : State} (h : t.sec = x) : x.Follows t := .of_eq (by rw [h]) (by rw [h])

theorem Sec.Follows.after {x : Sec} {s t : State} (h : s.sec = x) (hf : s.sec.Follows t) : x.Follows t := h ▸ hf

theorem Sec.Follows.ite {x : Sec} {c : Prop} [Decidable c] {a b : State} (ha : x.Follows a) (hb : x.Follows b) : x.Follows (if c then a else b) := by
  split
  · exact ha
  · exact hb

/-! The SEC block's own operations -/

theorem Sec.setFuses_le (x : Sec) (l : List Nat) : FusesLe x.fuses (x.setFuses l).fuses :=
  foldl_keeps (P := fun y : Sec => FusesLe x.fuses y.fuses) (fun _ i h => h.trans (FusesLe.put _ i)) l (FusesLe.refl _)

@[simp] theorem Sec.setFuses_debugSeen (x : Sec) (l : List Nat) : (x.setFuses l).debugSeen = x.debugSeen :=
  foldl_proj Sec.debugSeen (f := Sec.setFuse) (fun _ _ => rfl) l x

/-- The blows that follow an alarm: of an ALARM_CNT bit where one is left, then those of the retirement. -/
theorem Sec.alarmBlow_keeps (x : Sec) : FusesLe x.fuses x.alarmBlow.fuses ∧ x.alarmBlow.debugSeen = x.debugSeen := by
  unfold Sec.alarmBlow
  split
  · exact ⟨FusesLe.refl _, rfl⟩
  · extract_lets n y z w
    obtain ⟨hfuses, hseen⟩ : FusesLe x.fuses y.fuses ∧ y.debugSeen = x.debugSeen := by
      unfold y
      split
      · exact ⟨FusesLe.put _ _, rfl⟩
      · exact ⟨FusesLe.refl _, rfl⟩
    split
    · have hblow : FusesLe z.fuses w.fuses := z.setFuses_le _
      have hsame : w.debugSeen = z.debugSeen := z.setFuses_debugSeen _
      clear_value w
      exact ⟨FusesLe.trans (g := z.fuses) hfuses hblow, hsame.trans hseen⟩
    · exact ⟨hfuses, hseen⟩

@[simp] theorem Sec.provGo_keeps (x : Sec) (r : Bool) : (x.provGo r).fuses = x.fuses ∧ (x.provGo r).debugSeen = x.debugSeen := by
  unfold Sec.provGo
  split
  · split <;> exact ⟨rfl, rfl⟩
  · exact ⟨rfl, rfl⟩

@[simp] theorem Sec.writeProvCtrl_keeps (x : Sec) (r : Bool) (v : W32) :
    (x.writeProvCtrl r v).fuses = x.fuses ∧ (x.writeProvCtrl r v).debugSeen = x.debugSeen := by
  unfold Sec.writeProvCtrl; dsimp only
  split <;> split <;> simp

@[simp] theorem Sec.writeExpKey_keeps (x : Sec) (i : Nat) (v : W32) :
    (x.writeExpKey i v).fuses = x.fuses ∧ (x.writeExpKey i v).debugSeen = x.debugSeen := by
  unfold Sec.writeExpKey; dsimp only; split <;> exact ⟨rfl, rfl⟩

@[simp] theorem Sec.clearExpKey_keeps (x : Sec) : x.clearExpKey.fuses = x.fuses ∧ x.clearExpKey.debugSeen = x.debugSeen := ⟨rfl, rfl⟩

/-- No register write reaches a fuse or DEBUG_SEEN. -/
@[simp] theorem Sec.writeReg_keeps (x : Sec) (r : Bool) (o : Nat) (v : W32) :
    (x.writeReg r o v).fuses = x.fuses ∧ (x.writeReg r o v).debugSeen = x.debugSeen := by
  unfold Sec.writeReg
  repeat' split
  all_goals simp

@[simp] theorem Sec.alarm_debugSeen (x : Sec) (a : AlarmSrc) (cyc : Nat) : (x.alarm a cyc).debugSeen = x.debugSeen := by
  unfold Sec.alarm; dsimp only; split <;> rfl

/-! Shared operations that reach the SEC block -/

theorem State.alarm_debugSeen (s : State) (a : AlarmSrc) : (s.alarm a).sec.debugSeen = s.sec.debugSeen := by
  unfold State.alarm
  split <;> simp [Sec.note]

theorem State.alarm_follows (s : State) (a : AlarmSrc) : s.sec.Follows (s.alarm a) :=
  .of_eq (s.alarm_keeps a).2.2.1 (s.alarm_debugSeen a)

theorem State.enterReset_follows (s : State) (m : BitVec 7) : s.sec.Follows (s.enterReset m) := by
  obtain ⟨-, -, -, hfuses, -⟩ := s.enterReset_keeps m
  refine ⟨hfuses ▸ FusesLe.refl _, fun hd hoff hreset => ?_⟩
  unfold State.enterReset at hreset ⊢
  split
  · exact hd
  · split <;> exact hd
  · split
    · exact hd
    · simp_all

theorem State.powerDown_follows (s : State) : s.sec.Follows s.powerDown :=
  ⟨by simp [FusesLe.refl], fun _ hoff _ => absurd (by simp) hoff⟩

@[simp] theorem State.failSerial_sec_keeps (s : State) :
    s.failSerial.sec.fuses = s.sec.fuses ∧ s.failSerial.sec.debugSeen = s.sec.debugSeen := by
  unfold State.failSerial; dsimp only
  split <;> simp

theorem State.enterFault_follows (s : State) (l : Bool) : s.sec.Follows (s.enterFault l) := by
  unfold State.enterFault
  split
  · exact .of_sec rfl
  · exact .of_sec rfl
  · exact .of_sec rfl
  · exact .of_eq (by simp) (by simp)

/-- Entry of a write to BAR0 into the SEC block: through its registers only. -/
theorem State.writeWord_keeps (s : State) (a : Nat) (v : W32) :
    (s.writeWord a v).sec.fuses = s.sec.fuses ∧ (s.writeWord a v).sec.debugSeen = s.sec.debugSeen := by
  unfold State.writeWord; dsimp only
  split <;> simp

@[simp] theorem State.barWrite_keeps (s : State) (a : Nat) (v : W32) :
    (s.barWrite a v).sec.fuses = s.sec.fuses ∧ (s.barWrite a v).sec.debugSeen = s.sec.debugSeen := by
  unfold State.barWrite; dsimp only
  split <;> exact s.writeWord_keeps a v

/-- Sources one after the other leave the fuses. -/
theorem State.foldl_alarm_fuses (l : List AlarmSrc) (s : State) : (l.foldl State.alarm s).sec.fuses = s.sec.fuses :=
  foldl_proj (fun s : State => s.sec.fuses) (fun s a => (s.alarm_keeps a).2.2.1) l s

/-- Steps 1 to 8 of R502 clear no fuse: those of a retired device blow ID_SEED. -/
theorem State.boot_fusesLe (s : State) : FusesLe s.sec.fuses s.boot.sec.fuses := by
  unfold State.boot; dsimp only
  split
  · simp only [State.goto_keeps]
    exact Sec.setFuses_le { s.sec with held := s.sec.fuses } _
  · split
    · rw [State.foldl_alarm_fuses]; exact FusesLe.refl _
    · split
      · simp [FusesLe.refl]
      · exact FusesLe.refl _

/-- A release from RESET either leaves the device there or boots it, with the fuses as they were. -/
theorem exec_resetRelease_cases {s t : State} (hs : s.ctl.state = .reset) (h : exec .resetRelease s = .next t) :
    (t.ctl.state = .reset ∧ t.sec.fuses = s.sec.fuses) ∨ ∃ x : State, x.sec.fuses = s.sec.fuses ∧ t = x.boot := by
  obtain rfl : _ = t := Host.Outcome.next.inj h
  rw [if_neg (by simp [hs])]
  extract_lets pins u m rst v code w
  have hstate : v.ctl.state = .reset := by
    have hu : u.ctl.state = .reset := hs
    unfold v
    split
    · exact hu
    · rw [State.enterReset_state]; simp [hu]
  have hv : v.sec.fuses = s.sec.fuses := by
    unfold v
    split
    · rfl
    · exact (State.enterReset_keeps _ m).2.2.2.1
  have hw : w.sec = v.sec := by unfold w; split <;> rfl
  clear_value v w
  split
  · exact .inl ⟨hstate, hv⟩
  · exact .inr ⟨_, by simp [hw, hv], rfl⟩

/-- A release clears no fuse. -/
theorem exec_resetRelease_fusesLe {s t : State} (h : exec .resetRelease s = .next t) : FusesLe s.sec.fuses t.sec.fuses := by
  by_cases hs : s.ctl.state = .reset
  · obtain ⟨-, hkept⟩ | ⟨x, hx, rfl⟩ := exec_resetRelease_cases hs h
    · exact hkept ▸ FusesLe.refl _
    · exact hx ▸ x.boot_fusesLe
  · obtain rfl : s = t := by simpa [exec, execResetRelease, hs] using h
    exact FusesLe.refl _

/-! The commands that reach the SEC block -/

/-- What a meaning answers follows the SEC block of the state. -/
structure State.SecFollows (s : State) (r : Res) : Prop where
  follows : ∀ t, r = .next t → s.sec.Follows t

namespace State.SecFollows

variable {s : State}

theorem next {t : State} (h : s.sec.Follows t) : s.SecFollows (.next t) := ⟨fun _ e => by cases e; exact h⟩

theorem of_secKept {r : Res} (h : s.SecKept r) : s.SecFollows r := ⟨fun t e => .of_sec (h.eq t e)⟩

theorem host {f : State → State} (h : s.sec.Follows (f s)) : s.SecFollows (s.host f) := next (.ite h (.of_sec rfl))

theorem powered {f : State → State} (h : s.sec.Follows (f s)) : s.SecFollows (s.powered f) := next (.ite (.of_sec rfl) h)

theorem command {i op : Nat} {legal : Dev → Bool} {k : Entry → State} (h : ∀ e, s.sec.Follows (k e)) :
    s.SecFollows (.next (s.command i op legal k)) := by
  refine next ?_
  unfold State.command
  split
  · exact .of_sec rfl
  · exact .ite (.of_sec rfl) (.ite (h _) (.of_sec (by simp)))

end State.SecFollows

theorem execFuseBitBlow_secFollows (ok : Bool) (s : State) : s.SecFollows (execFuseBitBlow ok s) := .next (by
  split
  · exact .of_sec rfl
  case h_2 i rest _ =>
    refine .ite (.of_sec rfl) (.ite ?_ (.of_eq (by simp) (by simp)))
    have hput : FusesLe s.sec.fuses (s.sec.fuses.put i true) := FusesLe.put _ _
    exact .ite (.of_le (by simpa [Sec.setFuse] using hput) (by simp [Sec.setFuse])) (.of_le hput rfl))

theorem execFaultRecordWrite_secFollows (s : State) : s.SecFollows (execFaultRecordWrite s) := .next (by
  split
  · exact .of_sec rfl
  · refine .ite (.of_sec rfl) ?_
    dsimp only
    split
    · exact .of_sec (by simp)
    · exact .after (by simp) (State.enterFault_follows _ _)
    · exact .of_sec (by simp))

theorem execImageLoad_secFollows (i : Nat) (re : Bool) (n : Nat) (ecc : Ecc) (s : State) : s.SecFollows (execImageLoad i re n ecc s) :=
  .command fun e => by
    refine .ite (.of_sec (by simp)) (.ite (.of_sec (by simp)) (.ite (.of_sec (by simp)) ?_))
    extract_lets r u bs v w c x
    have hu : u.sec = s.sec := by unfold u r; split <;> simp
    have hx : x.sec = s.sec := by unfold x; split <;> exact hu
    clear_value u x
    refine .ite (.of_sec (by simp [hu])) ?_
    split
    · extract_lets y
      have hy : y.sec = s.sec := hx
      exact .ite (.after hy (y.alarm_follows _)) (.of_sec (by simp [hy]))
    · exact .ite (.of_sec (by simp [hx])) (.of_sec (by simpa using hx))

/-- A sealed file moves the counter of sealed files, and nothing else of the SEC block. -/
@[simp] theorem State.writeSealed_keeps (s : State) (a : Nat) (b : Bool) (l : List Byte) :
    (s.writeSealed a b l).sec.fuses = s.sec.fuses ∧ (s.writeSealed a b l).sec.debugSeen = s.sec.debugSeen := ⟨rfl, rfl⟩

theorem execExportCmd_secFollows (i : Nat) (ecc : Ecc) (s : State) : s.SecFollows (execExportCmd i ecc s) :=
  .command fun e => by
    split
    · exact .of_sec (by simp)
    · refine .ite (.of_sec (by simp)) (.ite (.of_sec (by simp)) (.ite (.of_sec (by simp)) ?_))
      exact .ite (.of_sec (by simp)) (.ite (.of_sec (by simp)) (.of_eq (by simp) (by simp)))

theorem State.capture_follows (s : State) (im : Image) (e : Option Entry) (ecc : Ecc) : s.sec.Follows (s.capture im e ecc) := by
  unfold State.capture
  extract_lets bs done r u plain n
  have hdone : ∀ t code d k, (done t code d k).sec = t.sec := by
    intro t code d k
    unfold done
    split <;> simp
  have hu : u.sec = s.sec := by simp [u, r]
  clear_value done u
  refine .ite (.of_sec (hdone ..)) (.ite (.of_sec ?_) (.ite (.of_sec ?_) (.ite (.of_sec ?_) (.of_eq ?_ ?_))))
  all_goals simp [hdone, hu]

theorem execSnapshotCapture_secFollows (ecc : Ecc) (s : State) : s.SecFollows (execSnapshotCapture ecc s) := .next (by
  split
  · exact .ite (.after (by rfl) (State.capture_follows ..)) (.of_sec rfl)
  · exact .of_sec rfl)

theorem execRollbackAdvance_secFollows (i : Nat) (s : State) : s.SecFollows (execRollbackAdvance i s) := .next (by
  refine .ite (.of_sec rfl) ?_
  refine (State.SecFollows.command fun e => ?_ : s.SecFollows _).follows _ rfl
  exact .ite (.of_sec (by simp)) (.ite (.of_sec (by simp)) (.ite (.of_sec (by simp)) (.ite (.of_sec (by simp)) (.of_eq rfl rfl)))))

theorem execRefclkStop_secFollows (s : State) : s.SecFollows (execRefclkStop s) := .next (by
  split
  · exact .of_sec rfl
  · exact .of_sec rfl
  · exact State.alarm_follows { s with pins := { s.pins with refclk := false } } .cglitch)

theorem execTempSample_secFollows (k : BitVec 7) (v : Bool) (c : BitVec 16) (s : State) : s.SecFollows (execTempSample k v c s) :=
  .powered (.ite (.of_sec rfl) (.ite (State.alarm_follows { s with pwr := s.pwr.tempSample k.toNat v c } .temp)
    (.ite (State.enterReset_follows { s with pwr := s.pwr.tempSample k.toNat v c } _) (.of_sec rfl))))

theorem execRailSample_secFollows (r : BitVec 4) (mv : BitVec 16) (s : State) : s.SecFollows (execRailSample r mv s) :=
  .powered (.ite (.of_sec rfl) (.ite (State.alarm_follows { s with pwr := s.pwr.railSample r.toNat mv.toNat } .vglitch)
    (.ite (.of_sec (by simp)) (.of_sec rfl))))

theorem execRegisterWrite_secFollows (a : BitVec 26) (n : Nat) (v : W64) (s : State) : s.SecFollows (execRegisterWrite a n v s) :=
  .host (.ite (.of_eq (by simp) (by simp)) (.ite (.of_eq (by simp) (by simp)) (.of_sec rfl)))

theorem execResetN_secFollows (ns : Nat) (s : State) : s.SecFollows (execResetN ns s) :=
  .next (.ite (s.enterReset_follows _) (.ite (.of_sec rfl) (.ite (State.enterReset_follows { s with free := s.free + 1 } _) (.of_sec rfl))))

theorem execDebugSession_secFollows (s : State) : s.SecFollows (execDebugSession s) :=
  .next (.ite ⟨FusesLe.refl _, fun _ _ _ => rfl⟩ (.of_sec rfl))

theorem State.writeProv_follows (s : State) (v : W32) : s.sec.Follows (s.writeProv v) :=
  .of_eq (s.sec.writeProvCtrl_keeps _ v).1 (s.sec.writeProvCtrl_keeps _ v).2

/-- Every command but a release keeps blown fuses blown and DEBUG_SEEN set, short of OFF and RESET. -/
theorem exec_secFollows {c : Instr} (hc : c ≠ .resetRelease) (s : State) : s.SecFollows (exec c s) := by
  by_cases hr : reachesSec c = false
  · exact .of_secKept (exec_secKept hr s)
  · cases c <;> dsimp only [exec]
    case powerRemoval => exact .next ⟨s.powerDown_follows.fuses, s.powerDown_follows.seen⟩
    case perst => exact .next (.ite (s.enterReset_follows _) (.of_sec rfl))
    case resetN ns => exact execResetN_secFollows ns s
    case refclkStop => exact execRefclkStop_secFollows s
    case mgmtWatchdogExpiry => exact .next (.ite (s.enterReset_follows _) (.of_sec rfl))
    case resetRelease => exact absurd rfl hc
    case imageLoad i re n ecc => exact execImageLoad_secFollows i re n ecc s
    case warmReset i => exact .command fun e => .ite (.of_sec rfl) (.after (by simp) (State.enterReset_follows _ _))
    case exportCmd i ecc => exact execExportCmd_secFollows i ecc s
    case rollbackAdvance i => exact execRollbackAdvance_secFollows i s
    case snapshotCapture ecc => exact execSnapshotCapture_secFollows ecc s
    case provGo v | provLock v => exact .host (s.writeProv_follows v)
    case exportKeyCommit v => exact .host (.of_eq (by simp) (by simp))
    case exportKeyClear v => exact .host (.of_eq (by simp) (by simp))
    case fuseIntegrityCheck flips => exact .next (.ite (s.alarm_follows .fuse) (.of_sec rfl))
    case tamper ns held =>
      exact .next (.ite (State.alarm_follows { s with pins := { s.pins with tamperLow := held && decide (100 ≤ ns) } } .tamper) (.of_sec rfl))
    case cglitch => exact .next (.ite (s.alarm_follows .cglitch) (.of_sec rfl))
    case debugIntrusion => exact .next (.ite (s.alarm_follows .debug) (.of_sec rfl))
    case debugSession => exact execDebugSession_secFollows s
    case alarmFuseBlow => exact .next (.ite (.of_le s.sec.alarmBlow_keeps.1 s.sec.alarmBlow_keeps.2) (.of_sec rfl))
    case fuseBitBlow ok => exact execFuseBitBlow_secFollows ok s
    case faultRecordWrite => exact execFaultRecordWrite_secFollows s
    case tempSample k v c => exact execTempSample_secFollows k v c s
    case railSample r mv => exact execRailSample_secFollows r mv s
    case registerWrite a n v => exact execRegisterWrite_secFollows a n v s
    all_goals exact absurd rfl hr

end Sys2Proof.Machine
end

section
/-! The fuses under every step; settles O13 (R496). -/

namespace Sys2Proof.Machine

/-- No command clears a fuse. -/
theorem exec_fusesLe {c : Instr} {s t : State} (h : exec c s = .next t) : FusesLe s.sec.fuses t.sec.fuses := by
  by_cases hc : c = .resetRelease
  · subst hc; exact exec_resetRelease_fusesLe h
  · exact ((exec_secFollows hc s).follows t h).fuses

/-- No step clears a fuse. -/
theorem step_fusesLe {s t : State} (h : step s = .next t) : FusesLe s.sec.fuses t.sec.fuses := by
  unfold step at h
  split at h
  · obtain rfl := Host.Outcome.next.inj h
    simp [FusesLe.refl]
  case h_2 c rest _ => exact exec_fusesLe (s := { s with pending := rest }) h

/-- Settles O13: each setting is an or of its copies, and no command of the model clears a fuse. -/
theorem triplicatedFuseBits : Obligations.TriplicatedFuseBits := by
  unfold Obligations.TriplicatedFuseBits
  refine ⟨fun f => ⟨debugDis_iff f, retired_iff f, ?_⟩, fun s t h => ?_⟩
  · rw [alarmAct_eq]; simp [alarmActLo, alarmActHi, or_assoc]
  · have hle : FusesLe s.sec.fuses t.sec.fuses := step_fusesLe h
    exact ⟨hle, hle.debugDis, hle.retired, hle.alarmCode⟩

end Sys2Proof.Machine
end

section
/-! Settles O17: the debug port (R508 to R510). -/

namespace Sys2Proof.Machine

/-- An alarm is recorded in SEC_ALARM_CAUSE. -/
theorem State.alarm_noted {s : State} (a : AlarmSrc) (h : s.ctl.state ≠ .off) :
    (s.alarm a).sec.sources = s.sec.sources ||| BitVec.ofNat 7 (2 ^ a.code) ∧ (s.alarm a).sec.valid = true := by
  have hsec : ∀ n, (s.sec.alarm a n).sources = s.sec.sources ||| BitVec.ofNat 7 (2 ^ a.code) ∧ (s.sec.alarm a n).valid = true := by
    intro n
    unfold Sec.alarm; dsimp only
    split <;> exact ⟨rfl, rfl⟩
  unfold State.alarm
  split
  · contradiction
  · exact ⟨rfl, rfl⟩
  · simpa using hsec _

/-- Sources one after the other leave ALARM only for OFF. -/
theorem State.foldl_alarm_state {l : List AlarmSrc} (hl : l ≠ []) (s : State) :
    (l.foldl State.alarm s).ctl.state = .alarm ∨ (l.foldl State.alarm s).ctl.state = .off := by
  induction l generalizing s with
  | nil => contradiction
  | cons a l ih =>
    cases l with
    | nil => rw [List.foldl_cons, List.foldl_nil, State.alarm_state]; split <;> simp
    | cons b l => exact ih (by simp) _

/-- A change of state reaches it. -/
theorem State.goto_state (s : State) (d : Dev) : (s.goto d).ctl.state = d := by
  unfold State.goto
  split
  · assumption
  · dsimp only
    split <;> simp_all [Ctl.goto]

/-- A boot that does not stop has derived the identity key: every other end leaves BOOT. -/
theorem State.boot_idKeyReady (s : State) : s.boot.ctl.state = .boot → s.boot.sec.idKeyReady = true := by
  have hfault : ∀ {t : State}, (t.goto .fault).ctl.state ≠ .boot := fun {t} => by rw [State.goto_state]; exact Dev.noConfusion
  unfold State.boot
  dsimp only
  split
  · exact fun h => absurd h hfault
  · split
    next hsrc =>
      intro h
      obtain halarm | hoff := State.foldl_alarm_state (by simpa using hsrc) _
      · rw [halarm] at h; cases h
      · rw [hoff] at h; cases h
    · split
      · exact fun h => absurd h hfault
      · exact fun _ => rfl

/-- A release from RESET that reaches BOOT and stays there has derived the identity key. -/
theorem exec_resetRelease_idKeyReady {s t : State} (hs : s.ctl.state = .reset) (h : exec .resetRelease s = .next t) (ht : t.ctl.state = .boot) :
    t.sec.idKeyReady = true := by
  obtain ⟨hstay, -⟩ | ⟨x, -, rfl⟩ := exec_resetRelease_cases hs h
  · rw [hstay] at ht; cases ht
  · exact x.boot_idKeyReady ht

/-- A request at the port while DEBUG_DIS reads set: an alarm with the debug source. -/
theorem exec_debugIntrusion {s : State} (hg : s.ctl.state.guarded = true) (hd : debugDis s.sec.fuses = true) :
    exec .debugIntrusion s = .next (s.alarm .debug) := by
  simp [exec, execDebugIntrusion, hg, hd]

/-- Settles O17: the session and the request by their guards, DEBUG_SEEN by what every command keeps, the key by the ends of the boot. -/
theorem debugPort : Obligations.DebugPort := by
  unfold Obligations.DebugPort
  refine ⟨fun s hd => ⟨?_, fun hg => ?_⟩, fun s hg hd hseen => ?_, fun s hseen => ?_, fun c s t h hseen hoff hreset hc => ?_, fun s hs => ?_⟩
  · simp [exec, execDebugSession, hd]
  · have hoff : s.ctl.state ≠ .off := by rintro h; rw [h] at hg; cases hg
    obtain ⟨hsources, hvalid⟩ := s.alarm_noted .debug hoff
    exact ⟨_, exec_debugIntrusion hg hd, by rw [State.alarm_state, if_neg hoff], hsources, hvalid⟩
  · simp [exec, execDebugSession, Sec.eraseKeys, hg, hd, hseen]
  · simp [exec, execDebugSession, hseen]
  · exact ((exec_secFollows hc s).follows t h).seen hseen hoff hreset
  · exact ⟨_, rfl, exec_resetRelease_idKeyReady hs rfl⟩

end Sys2Proof.Machine
end

section
/-! SUPPORT. What leaves the PWR block alone: the shared operations beside those of Laws/Ops. -/

namespace Sys2Proof.Machine
namespace State

variable (s : State) (im : Image)

@[simp] theorem pwr_ite (c : Prop) [Decidable c] (a b : State) : (if c then a else b).pwr = if c then a.pwr else b.pwr :=
  apply_ite pwr c a b

/-- A fold of changes that leave the PWR block leaves it. -/
@[simp] theorem foldl_pwr {β : Type} {f : State → β → State} (h : ∀ t x, (f t x).pwr = t.pwr) (l : List β) :
    (l.foldl f s).pwr = s.pwr := foldl_proj pwr h l s

/-! The shared operations -/

@[simp] theorem parityAt_pwr (o p) : (s.parityAt o p).pwr = s.pwr := by simp [parityAt]
@[simp] theorem hostSync_pwr (o p) : (s.hostSync o p).pwr = s.pwr := by simp [hostSync]
@[simp] theorem noteUnit_pwr (t c) : (s.noteUnit t c).pwr = s.pwr := by simp [noteUnit]
@[simp] theorem loadSlot_pwr (t k i) : (s.loadSlot im t k i).pwr = s.pwr := rfl
@[simp] theorem mergeRead_pwr (cs e) : (s.mergeRead im cs e).pwr = s.pwr := by simp [mergeRead]
@[simp] theorem poisonStop_pwr (t k m) : (s.poisonStop t k m).pwr = s.pwr := by simp [poisonStop]
@[simp] theorem abandonLost_pwr : s.abandonLost.pwr = s.pwr := by simp [abandonLost]
@[simp] theorem dropStep_pwr : (s.dropStep im).pwr = s.pwr := by simp [dropStep]
@[simp] theorem reapply_pwr (f) : (s.reapply im f).pwr = s.pwr := by simp [reapply]

@[simp] theorem stepRead_pwr (ks e) : (s.stepRead im ks e).1.pwr = s.pwr := by
  unfold stepRead; dsimp only; split
  · rfl
  · split <;> simp

/-! The check-value unit -/

@[simp] theorem crcEnd_pwr (j v st) : (s.crcEnd j v st).pwr = s.pwr := by simp [crcEnd]

@[simp] theorem scanErrs_pwr (source via inj us) : (scanErrs source via inj us s).1.pwr = s.pwr := by
  induction us generalizing s with
  | nil => rfl
  | cons u r ih => unfold scanErrs; dsimp only; split <;> simp [ih]

@[simp] theorem scanRead_pwr (ks e source via) : (s.scanRead ks e source via).1.pwr = s.pwr := by
  unfold scanRead; dsimp only
  split <;> split <;> simp

@[simp] theorem crcScan_pwr (j n e) : (s.crcScan j n e).pwr = s.pwr := by simp [crcScan]

/-! The update and the exchange -/

@[simp] theorem toAll_pwr (m) : (s.toAll m).pwr = s.pwr := by simp [toAll]
@[simp] theorem countUnbound_pwr (c) : (s.countUnbound c).pwr = s.pwr := by simp [countUnbound]
@[simp] theorem updateFault_pwr (g) : (s.updateFault im g).pwr = s.pwr := by simp [updateFault]
@[simp] theorem updateRead_pwr (gs q e) : (s.updateRead im gs q e).1.pwr = s.pwr := by simp [updateRead]
@[simp] theorem updateOne_pwr (g st gu) : (s.updateOne im g st gu).pwr = s.pwr := by simp [updateOne]
@[simp] theorem updateQuiet_pwr (g st gu) : (s.updateQuiet im g st gu).pwr = s.pwr := by simp [updateQuiet]
@[simp] theorem noteStep_pwr : (s.noteStep im).pwr = s.pwr := by simp [noteStep]
@[simp] theorem stagePanel_pwr (st g gen off bs) : (s.stagePanel im st g gen off bs).pwr = s.pwr := rfl
@[simp] theorem writeStaged_pwr : (s.writeStaged im).pwr = s.pwr := rfl
@[simp] theorem settleReturns_pwr : s.settleReturns.pwr = s.pwr := rfl

@[simp] theorem sendPanel_pwr (g gen) : (s.sendPanel im g gen).pwr = s.pwr := by
  unfold sendPanel; split <;> simp

@[simp] theorem drop_pwr (i) : (s.drop i).pwr = s.pwr := rfl
@[simp] theorem bad_pwr : s.bad.pwr = s.pwr := rfl
@[simp] theorem contribute_pwr (b i) : (s.contribute im b i).pwr = s.pwr := by simp [contribute]
@[simp] theorem land_pwr (g y q off bs sl e) : (s.land im g y q off bs sl e).pwr = s.pwr := by simp [land]
@[simp] theorem lateFrom_pwr (m) : (s.lateFrom m).pwr = s.pwr := by simp [lateFrom]
@[simp] theorem closeBucket_pwr (b p) : (s.closeBucket im b p).pwr = s.pwr := by simp [closeBucket]
@[simp] theorem staleShard_pwr (b i) : (s.staleShard im b i).pwr = s.pwr := by simp [staleShard]
@[simp] theorem updateReport_pwr (b i v) : (s.updateReport im b i v).pwr = s.pwr := by simp [updateReport]
@[simp] theorem beginUpdate_pwr (y) : (s.beginUpdate im y).pwr = s.pwr := by simp [beginUpdate]
@[simp] theorem sendPodSum_pwr (b i sum n m) : (s.sendPodSum b i sum n m).pwr = s.pwr := by simp [sendPodSum]
@[simp] theorem sendNorm_pwr : (s.sendNorm im).pwr = s.pwr := by simp [sendNorm]
@[simp] theorem sendReturn_pwr (b i l) : (s.sendReturn im b i l).pwr = s.pwr := by simp [sendReturn]
@[simp] theorem putReturn_pwr (r) : (s.putReturn im r).pwr = s.pwr := by simp [putReturn]
@[simp] theorem diverge_pwr (k) : (s.diverge k).pwr = s.pwr := by simp [diverge]
@[simp] theorem endRound_pwr (m) : (s.endRound m).pwr = s.pwr := by simp [endRound]
@[simp] theorem sendFetch_pwr (k) : (s.sendFetch k).pwr = s.pwr := by simp [sendFetch]
@[simp] theorem cutOff_pwr (t) : (s.cutOff t).pwr = s.pwr := by simp [cutOff]

@[simp] theorem queueAdd_pwr (g st gu) : (s.queueAdd im g st gu).pwr = s.pwr := by
  unfold queueAdd; split <;> rfl

@[simp] theorem applyTo_pwr (b st p) : (s.applyTo im b st p).pwr = s.pwr := by simp [applyTo]

@[simp] theorem compareFrom_pwr (l m e) : (compareFrom im l m e s).pwr = s.pwr := by
  induction l generalizing m e s with
  | nil => simp [compareFrom]
  | cons k r ih =>
    unfold compareFrom; split
    · exact ih ..
    · simp [ih]

@[simp] theorem fetchFailed_pwr (r f e) : (s.fetchFailed im r f e).pwr = s.pwr := by simp [fetchFailed]

@[simp] theorem sendState_pwr : (s.sendState im).pwr = s.pwr := by simp [sendState]

@[simp] theorem armEpochNow_pwr : s.armEpochNow.pwr = s.pwr := by
  unfold armEpochNow; dsimp only; split
  · rfl
  · split <;> split <;> simp

@[simp] theorem writeGxCtrl_pwr (v) : (s.writeGxCtrl v).pwr = s.pwr := by simp [writeGxCtrl]

/-! The step -/

@[simp] theorem stashFault_pwr (p n f d) : (s.stashFault p n f d).pwr = s.pwr := by simp [stashFault]
@[simp] theorem inputReady_pwr : (s.inputReady im).pwr = s.pwr := by
  unfold inputReady; split <;> simp
@[simp] theorem accumulate_pwr (m g xs) : (s.accumulate im m g xs).pwr = s.pwr := by simp [accumulate]
@[simp] theorem park_pwr (m g xs) : (s.park im m g xs).pwr = s.pwr := rfl
@[simp] theorem beginStep_pwr : (s.beginStep im).pwr = s.pwr := by simp [beginStep]
@[simp] theorem sweepBlock_pwr (g) : (s.sweepBlock im g).pwr = s.pwr := by simp [sweepBlock]
@[simp] theorem recoverStep_pwr (d) : (s.recoverStep im d).pwr = s.pwr := by simp [recoverStep]
@[simp] theorem exportRead_pwr (c bs e) : (s.exportRead im c bs e).1.pwr = s.pwr := by simp [exportRead]

/-! Tiles, intake, links, faults, registers -/

@[simp] theorem runFiring_pwr (t k mb fs) : (s.runFiring im t k mb fs).pwr = s.pwr := rfl
@[simp] theorem firingReads_pwr (t d e) : (s.firingReads im t d e).1.pwr = s.pwr := by simp [firingReads]
@[simp] theorem startFiring_pwr (t k e fs) : (s.startFiring im t k e fs).pwr = s.pwr := by simp [startFiring]
@[simp] theorem movedDraw_pwr (n) : (s.movedDraw n).pwr = s.pwr := by simp [movedDraw]
@[simp] theorem writeResult_pwr (d x) : (s.writeResult im d x).pwr = s.pwr := by
  unfold writeResult; split <;> simp
@[simp] theorem verdictPass_pwr (d x) : (s.verdictPass im d x).pwr = s.pwr := by simp [verdictPass]
@[simp] theorem repeatFiring_pwr (d x f e fs) : (s.repeatFiring im d x f e fs).pwr = s.pwr := by simp [repeatFiring]
@[simp] theorem verdictStop_pwr (d x f) : (s.verdictStop im d x f).pwr = s.pwr := by simp [verdictStop]
@[simp] theorem passLocal_pwr (b) : (s.passLocal im b).pwr = s.pwr := by simp [passLocal]
@[simp] theorem enqueueSpoon_pwr (x) : (s.enqueueSpoon x).pwr = s.pwr := by simp [enqueueSpoon]
@[simp] theorem countFiring_pwr (d x) : (s.countFiring im d x).pwr = s.pwr := rfl
@[simp] theorem dropAt_pwr (t p i) : (s.dropAt t p i).pwr = s.pwr := by simp [dropAt]
@[simp] theorem arrive_pwr (t fl) : (s.arrive im t fl).pwr = s.pwr := by simp [arrive]
@[simp] theorem lastRead_pwr (e) : (s.lastRead im e).pwr = s.pwr := by
  unfold lastRead; dsimp only; split <;> simp
@[simp] theorem setInp_pwr (r) : (s.setInp r).pwr = s.pwr := by simp [setInp]
@[simp] theorem readRecord_pwr (d o n b e) : (s.readRecord d o n b e).1.pwr = s.pwr := by
  unfold readRecord; split <;> simp
@[simp] theorem fieldDone_pwr (x k) : (s.fieldDone im x k).pwr = s.pwr := by simp [fieldDone]
@[simp] theorem stagingRead_pwr (e) : (s.stagingRead im e).1.pwr = s.pwr := by simp [stagingRead]
@[simp] theorem datapathFault_pwr : s.datapathFault.pwr = s.pwr := by simp [datapathFault]
@[simp] theorem voidFetch_pwr (k) : (s.voidFetch k).pwr = s.pwr := rfl
@[simp] theorem writeInpCtrl_pwr (v) : (s.writeInpCtrl v).pwr = s.pwr := by
  unfold writeInpCtrl; split
  · simp
  · split
    · split <;> rfl
    · rfl
@[simp] theorem badMsg_pwr : s.badMsg.pwr = s.pwr := by simp [badMsg]
@[simp] theorem faultEvent_pwr (r n p) : (s.faultEvent r n p).pwr = s.pwr := by simp [faultEvent]
@[simp] theorem writeInject_pwr (v) : (s.writeInject v).pwr = s.pwr := by simp [writeInject]
@[simp] theorem writeHciHost_pwr (v) : (s.writeHciHost v).pwr = s.pwr := by simp [writeHciHost]
@[simp] theorem send_pwr (o) : (s.send o).pwr = s.pwr := rfl
@[simp] theorem doorbell_pwr (o n v) : (s.doorbell o n v).pwr = s.pwr := by
  unfold doorbell; split <;> rfl
@[simp] theorem rejected_pwr (r) : (s.rejected r).pwr = s.pwr := rfl
@[simp] theorem loadFault_pwr (n) : (s.loadFault n).pwr = s.pwr := by simp [loadFault]
@[simp] theorem writeCtl_pwr (o v) : (s.writeCtl o v).pwr = s.pwr := by
  unfold writeCtl; split <;> simp
@[simp] theorem writeTil_pwr (t o v) : (s.writeTil t o v).pwr = s.pwr := by simp [writeTil]

end State
end Sys2Proof.Machine
end

section
/-! SUPPORT. The count of PWR_RES: a power sample moves it, and no other operation on the PWR block does, nor a reset, an alarm or a register write
(R552, R556, R565). -/

namespace Sys2Proof.Machine

namespace Pwr

variable (p : Pwr)

@[simp] theorem res_ite (c : Prop) [Decidable c] (p q : Pwr) : (if c then p else q).res = if c then p.res else q.res := apply_ite res c p q

/-- The allowance's judgement does not count a sample. -/
@[simp] theorem judge_res : p.judge.res = p.res := by
  unfold judge; dsimp only
  split
  · rfl
  · split <;> rfl

/-- A sample above 1,000 W is counted, and no other. -/
theorem sample_res (w : Nat) : (p.sample w).res = if 1000 < w then satAdd p.res 1 else p.res := by
  unfold sample; dsimp only
  rw [judge_res, res_ite, ite_self]

@[simp] theorem period_res (q : Period) : (p.period q).res = p.res := by
  cases q <;> simp [period]

@[simp] theorem tempSample_res (k : Nat) (v : Bool) (t : BitVec 16) : (p.tempSample k v t).res = p.res := rfl
@[simp] theorem railSample_res (r mv : Nat) : (p.railSample r mv).res = p.res := rfl
@[simp] theorem droopTrip_res (r g : Nat) : (p.droopTrip r g).res = p.res := rfl
@[simp] theorem thermalStep_res (ms : Bool) : (p.thermalStep ms).res = p.res := by simp [thermalStep]

/-- PWR_RES is read only: no register write reaches the count. -/
@[simp] theorem writeReg_res (o : Nat) (v : W32) : (p.writeReg o v).res = p.res := by simp [writeReg]

end Pwr

namespace State

variable (s : State)

@[simp] theorem alarm_pwr (a : AlarmSrc) : (s.alarm a).pwr = s.pwr := by
  obtain ⟨-, -, -, hpwr, -⟩ := s.alarm_keeps a
  exact hpwr

/-- Entry to RESET, cold or warm, keeps the count. -/
@[simp] theorem enterReset_res (m : BitVec 7) : (s.enterReset m).pwr.res = s.pwr.res := by
  obtain ⟨-, -, -, -, hres, -⟩ := s.enterReset_keeps m
  exact hres

@[simp] theorem boot_pwr : s.boot.pwr = s.pwr := by
  unfold boot; dsimp only
  split
  · simp
  · split
    · simp
    · split <;> simp

@[simp] theorem sampleOscillators_res : s.sampleOscillators.pwr.res = s.pwr.res := rfl

@[simp] theorem writeWord_res (a : Nat) (v : W32) : (s.writeWord a v).pwr.res = s.pwr.res := by
  unfold writeWord; dsimp only; split <;> simp

@[simp] theorem barWrite_res (a : Nat) (v : W32) : (s.barWrite a v).pwr.res = s.pwr.res := by
  unfold barWrite; dsimp only; split <;> simp

@[simp] theorem capture_pwr (im : Image) (e : Option Entry) (ecc : Ecc) : (s.capture im e ecc).pwr = s.pwr := by
  cases e <;> simp [capture, writeSealed]

@[simp] theorem writeProv_pwr (v : W32) : (s.writeProv v).pwr = s.pwr := rfl

@[simp] theorem blowDone_pwr (ok : Bool) : (s.blowDone ok).pwr = s.pwr := by
  unfold blowDone
  split
  · rfl
  · split <;> simp

/-- A host command keeps the count when its effect does. -/
@[simp] theorem command_res {s : State} {i op : Nat} {legal : Dev → Bool} {k : Entry → State} (h : ∀ e, (k e).pwr.res = s.pwr.res) :
    (s.command i op legal k).pwr.res = s.pwr.res := by
  unfold command; split
  · rfl
  · simp [h]

@[simp] theorem syncCmd_res {s : State} {i k : Nat} {ok : Nat → Bool} {f : Entry → Nat → State} (h : ∀ e o, (f e o).pwr.res = s.pwr.res) :
    (s.syncCmd i k ok f).pwr.res = s.pwr.res := by
  unfold syncCmd; split
  · rfl
  · simp [h]

/-- A message keeps the count when its handling does. -/
@[simp] theorem onMail_res {s : State} {i ty : Nat} {f : Image → XMsg → State} (h : ∀ im m, (f im m).pwr.res = s.pwr.res) :
    (s.onMail i ty f).pwr.res = s.pwr.res := by
  unfold onMail; split <;> simp [h]

end State

end Sys2Proof.Machine
end

section
/-! The count of PWR_RES under every command; settles O19 (R552). -/

namespace Sys2Proof.Machine

/-- What a meaning answers has the state's count of microseconds above 1,000 W. -/
structure State.ResKept (s : State) (r : Res) : Prop where
  eq : ∀ t, r = .next t → t.pwr.res = s.pwr.res

theorem State.ResKept.next {s t : State} (h : t.pwr.res = s.pwr.res) : s.ResKept (.next t) := ⟨fun _ e => by cases e; exact h⟩

/-! Commands whose effect takes several steps -/

theorem execImageLoad_resKept (i : Nat) (re : Bool) (n : Nat) (ecc : Ecc) (s : State) : s.ResKept (execImageLoad i re n ecc s) :=
  .next (State.command_res fun e => by
    split
    · simp
    · split
      · simp
      · split
        · simp
        · generalize hr : (if e.p0 = 1 then _ else (s, false)) = r
          have hpwr : r.1.pwr = s.pwr := by rw [← hr]; split <;> simp
          dsimp only
          split
          · simp [hpwr]
          · generalize validate _ _ _ = v
            split
            · split <;> simp [hpwr]
            · split <;> simp [hpwr])

theorem execExportCmd_resKept (i : Nat) (ecc : Ecc) (s : State) : s.ResKept (execExportCmd i ecc s) :=
  .next (State.command_res fun e => by
    split
    · simp
    · simp [State.writeSealed])

theorem execMbAdmission_resKept (s : State) : s.ResKept (execMbAdmission s) := .next (by
  split
  · dsimp only; split
    · rfl
    · generalize hr : (if (s.adm.choose _ _).2 then { s with ctl := { s.ctl with placeInvalid := true } } else s) = r
      have hpwr : r.pwr = s.pwr := by rw [← hr]; simp
      split
      · rw [hpwr]
      · simp [hpwr]
      · split
        · rw [State.foldl_pwr _ fun _ _ => State.loadSlot_pwr .., hpwr]
        · split
          · rw [hpwr]
          · split <;> simp [hpwr]
  · rfl)

theorem execD3hotTransition_resKept (on : Bool) (s : State) : s.ResKept (execD3hotTransition on s) := by
  unfold execD3hotTransition
  split
  · exact .next rfl
  · exact .next (by simp)

/-- Every command but a power sample and a loss of power leaves the count of PWR_RES. -/
theorem exec_resKept {c : Instr} (hsample : ∀ w, c ≠ .powerSample w) (hloss : c ≠ .powerLoss) (s : State) : s.ResKept (exec c s) := by
  cases c <;> dsimp only [exec]
  case powerSample w => exact absurd rfl (hsample w)
  case powerLoss => exact absurd rfl hloss
  -- resets, alarms and power: `enterReset_res`, `alarm_pwr`, `boot_pwr`
  case perst | resetN | resetRelease | mgmtWatchdogExpiry | warmReset | powerApplied | powerRemoval | bootComplete | fuseIntegrityCheck
      | tamper | debugIntrusion | cglitch => exact .next (by simp)
  case refclkStop => exact .next (by split <;> simp)
  -- the PWR block's own commands, and its registers and policy
  case powerControlPeriod | tempSample | thermalThrottleStep | droopTrip | droopGateEnd | railSample | registerWrite => exact .next (by simp)
  case powerPolicy => exact .next (by (repeat' split) <;> simp)
  -- effects that depend on an entry, the image or what is waiting
  case faultClear | syncSignal | firingStart | firingEnd | memoryDropReturn | tileCreditSend | descriptorLoadComplete | spoonRecompute
      | tileWatchdogExpiry | signal | take | stashSignalPass | frameRelease | accumulatingStore | parkedAccumulate | stepStart | sweepComplete
      | stepEnd | bucketComplete | bucketDeadlinePass | podDeadlinePass | returnDeadlinePass | normDeadlinePass | shardReduceStart
      | shardReduceDone | fetchTimeout | compareRound | snapshotCapture | packetDeliver | vcStall | timerSignal | timerSet | bucketDeadline
      | stragglerCutoff | digestCompare | timerSnapshot | placementSwitch | sampleAccept | headerReadReturn | engineAssign | fieldDecodeComplete
      | fieldDecodeError | engineTimeReport | rowSetSeal | tileFence | abandonComplete => exact .next (by (repeat' split) <;> simp)
  case sqEntryFetch | mailRecv | checksumVerdict | flitHop | flitEject | tileCreditMessage | swappedSlotLoad | stemEngineStart | mbComplete
      | restoreServe | timeResp | packetRoute | stagingReserve | recordFetchComplete | sampleEmit | crcJobComplete | faultRecordWrite =>
    exact .next (by dsimp only; (repeat' split) <;> simp)
  case contrib | podSum | fetchData | fetchEnd | stateXfer => exact .next (State.onMail_res fun _ _ => by dsimp only; (repeat' split) <;> simp)
  case imageLoad => exact execImageLoad_resKept ..
  case exportCmd => exact execExportCmd_resKept ..
  case importCmd => exact .next (State.command_res fun _ => by dsimp only; (repeat' split) <;> simp)
  case mbAdmission => exact execMbAdmission_resKept ..
  case shardUpdateDone => exact .next (by split <;> simp)
  case fuseBitBlow => exact .next (by split <;> simp)
  case d3hotTransition => exact execD3hotTransition_resKept ..
  -- effects made of the shared operations alone
  all_goals exact .next (by simp)

/-- A sample while the device has power moves the count as the PWR block's own rule says. -/
theorem exec_powerSample_res {s : State} (w : Nat) (h : s.ctl.state ≠ .off) :
    ∃ t, exec (.powerSample w) s = .next t ∧ t.pwr.res = (s.pwr.sample w).res := by
  refine ⟨_, rfl, ?_⟩
  rw [if_neg h]
  simp

/-- Settles O19: `Pwr.sample` counts what lies above 1,000 W, POWER_LOSS clears the count, and every other command keeps it. -/
theorem reserveCountSurvivesResets : Obligations.ReserveCountSurvivesResets := by
  unfold Obligations.ReserveCountSurvivesResets
  refine ⟨fun s w h => ?_, fun c s t h hsample hloss => (exec_resKept hsample hloss s).eq t h, fun s => ⟨_, rfl, rfl⟩⟩
  obtain ⟨t, ht, hres⟩ := exec_powerSample_res w h
  exact ⟨t, ht, hres.trans (s.pwr.sample_res w)⟩

end Sys2Proof.Machine
end

section
/-! SUPPORT. Tidy operations leave the queue of commands alone and keep the memories canonical (R444, R455); quiet ones leave the device state alone
as well (R487). -/

namespace Sys2Proof.Machine

/-- Host memory is in its canonical form: what `Hif.Canon` says of a HIF block. -/
def HostWf (m : Sparse Byte) : Prop := Sparse.wf (0 : Byte) m = true

/-- A state follows another tidily: with the same queue, and with canonical memories where they were. -/
abbrev State.Tidy (s t : State) : Prop :=
  t.pending = s.pending ∧ (s.mem.wf = true → t.mem.wf = true) ∧ (HostWf s.hif.mem → HostWf t.hif.mem)

/-- A state follows another quietly: tidily and in the same device state. -/
abbrev State.Quiet (s t : State) : Prop := t.ctl.state = s.ctl.state ∧ s.Tidy t

@[simp] theorem State.tidy_iff {s t : State} :
    s.Tidy t ↔ t.pending = s.pending ∧ (s.mem.wf = true → t.mem.wf = true) ∧ (HostWf s.hif.mem → HostWf t.hif.mem) := Iff.rfl

@[simp] theorem State.quiet_iff {s t : State} : s.Quiet t ↔ t.ctl.state = s.ctl.state ∧ s.Tidy t := Iff.rfl

theorem State.Tidy.trans {s t u : State} (h : s.Tidy t) (k : t.Tidy u) : s.Tidy u := ⟨k.1.trans h.1, k.2.1 ∘ h.2.1, k.2.2 ∘ h.2.2⟩

theorem State.Quiet.refl (s : State) : s.Quiet s := ⟨rfl, rfl, id, id⟩

theorem State.Quiet.trans {s t u : State} (h : s.Quiet t) (k : t.Quiet u) : s.Quiet u := ⟨k.1.trans h.1, h.2.trans k.2⟩

theorem State.Quiet.ite {s a b : State} {c : Prop} [Decidable c] (ha : s.Quiet a) (hb : s.Quiet b) : s.Quiet (if c then a else b) := by
  split
  · exact ha
  · exact hb

@[simp] theorem Ctl.state_ite (c : Prop) [Decidable c] (a b : Ctl) : (if c then a else b).state = if c then a.state else b.state :=
  apply_ite Ctl.state c a b
@[simp] theorem Mem.ite_wf (c : Prop) [Decidable c] (a b : Mem) : (if c then a else b).wf = if c then a.wf else b.wf := apply_ite Mem.wf c a b
@[simp] theorem Hif.ite_mem (c : Prop) [Decidable c] (a b : Hif) : (if c then a else b).mem = if c then a.mem else b.mem := apply_ite Hif.mem c a b
@[simp] theorem HostWf.ite_iff (c : Prop) [Decidable c] (a b : Sparse Byte) : HostWf (if c then a else b) ↔ if c then HostWf a else HostWf b :=
  iff_of_eq (apply_ite HostWf c a b)

/-- Host memory is canonical whatever the rest of the HIF block. -/
theorem Hif.canon_of_mem {h k : Hif} (e : k.mem = h.mem) (hc : h.Canon) : k.Canon := by rwa [Hif.Canon, e]

theorem Hif.Canon.ite {a b : Hif} {c : Prop} [Decidable c] (ha : a.Canon) (hb : b.Canon) : (if c then a else b).Canon := by
  split
  · exact ha
  · exact hb

/-! Canonical host memory under the HIF block's operations -/

@[simp] theorem Hif.tailDoorbell_mem (h : Hif) (q v) : (h.tailDoorbell q v).mem = h.mem := by
  unfold Hif.tailDoorbell; dsimp only; split
  · rfl
  · split <;> rfl

theorem Hif.canon_headDoorbell {h : Hif} (m q v : Nat) (hc : h.Canon) : (h.headDoorbell m q v).Canon := by
  unfold Hif.headDoorbell; dsimp only
  split
  · exact hc
  · split
    · exact hc
    · exact Hif.canon_release _ _ _ hc

@[simp] theorem Hif.writeSqCfg_mem (h : Hif) (b q v) : (h.writeSqCfg b q v).mem = h.mem := by
  unfold Hif.writeSqCfg; dsimp only; split
  · split <;> rfl
  · rfl

theorem Hif.canon_writeCqCfg {h : Hif} (b : Bool) (m q : Nat) (v : W32) (hc : h.Canon) : (h.writeCqCfg b m q v).Canon := by
  unfold Hif.writeCqCfg; dsimp only
  split
  · split <;> exact hc
  · split
    · exact Hif.canon_release _ _ _ hc
    · exact hc

@[simp] theorem Hif.writeBar4Base_mem (h : Hif) (b v) : (h.writeBar4Base b v).mem = h.mem := rfl

@[simp] theorem Hif.coalesceTimeout_mem (h : Hif) (m q) : (h.coalesceTimeout m q).mem = h.mem := by
  unfold Hif.coalesceTimeout; dsimp only; split <;> simp

@[simp] theorem Hif.writeMsix_mem (h : Hif) (o v) : (h.writeMsix o v).mem = h.mem := by
  unfold Hif.writeMsix; dsimp only
  split <;> (try split) <;> simp

theorem Hif.canon_writeReg {h : Hif} (b : Bool) (m o : Nat) (v : W32) (hc : h.Canon) : (h.writeReg b m o v).Canon := by
  unfold Hif.writeReg
  refine .ite (Hif.canon_of_mem (Hif.writeBar4Base_mem ..) hc) (.ite (Hif.canon_of_mem (Hif.writeBar4Base_mem ..) hc) ?_)
  have hk : ∀ {k : Hif}, k.mem = h.mem → k.Canon := fun e => Hif.canon_of_mem e hc
  refine .ite (hk rfl) (.ite (hk rfl) (.ite (hk rfl) (.ite (hk rfl) (.ite ?_ hc))))
  dsimp only
  generalize (o - 4096) % 64 = k
  split
  case h_3 => exact hk (Hif.writeSqCfg_mem ..)
  case h_7 => exact Hif.canon_writeCqCfg _ _ _ _ hc
  case h_1 | h_2 | h_5 | h_6 => exact .ite hc (hk rfl)
  all_goals exact hk rfl

theorem Hif.canon_mailbox {h : Hif} (m : Nat) (x : Mail) (hc : h.Canon) : (h.mailbox m x).Canon := by
  unfold Hif.mailbox
  extract_lets bad k
  have hk : k.Canon := foldl_keeps (P := Hif.Canon) (fun a e ha => Hif.canon_complete (h := { a with mailRecv := a.mailRecv.drop 1 }) _ _ _ _ _ _ _ ha) _ hc
  clear_value k
  split
  · exact Hif.canon_complete _ _ _ _ _ _ _ (Hif.canon_writeMem (h := { k with mailRecv := _ }) _ _ hk)
  · exact .ite hk (.ite hk (Hif.canon_event (h := { k with mailHeld := _, mailTold := true }) _ _ _ _ _ _ hk))

@[simp] theorem HostWf.headDoorbell {h : Hif} (m q v : Nat) (hc : HostWf h.mem) : HostWf (h.headDoorbell m q v).mem := Hif.canon_headDoorbell m q v hc
@[simp] theorem HostWf.writeCqCfg {h : Hif} (b : Bool) (m q : Nat) (v : W32) (hc : HostWf h.mem) : HostWf (h.writeCqCfg b m q v).mem :=
  Hif.canon_writeCqCfg b m q v hc
@[simp] theorem HostWf.writeReg {h : Hif} (b : Bool) (m o : Nat) (v : W32) (hc : HostWf h.mem) : HostWf (h.writeReg b m o v).mem :=
  Hif.canon_writeReg b m o v hc
@[simp] theorem HostWf.mailbox {h : Hif} (m : Nat) (x : Mail) (hc : HostWf h.mem) : HostWf (h.mailbox m x).mem := Hif.canon_mailbox m x hc
@[simp] theorem HostWf.writeMem {h : Hif} (a : Nat) (bs : List Byte) (hc : HostWf h.mem) : HostWf (h.writeMem a bs).mem := Hif.canon_writeMem a bs hc

@[simp] theorem Ctl.writeHci_state (c : Ctl) (v : W32) : (c.writeHci v).state = c.state := by
  unfold Ctl.writeHci; dsimp only
  split
  · rfl
  · split <;> rfl

namespace State

variable (s : State) (im : Image)

@[simp] theorem pending_ite (c : Prop) [Decidable c] (a b : State) : (if c then a else b).pending = if c then a.pending else b.pending :=
  apply_ite pending c a b
@[simp] theorem ctl_ite (c : Prop) [Decidable c] (a b : State) : (if c then a else b).ctl = if c then a.ctl else b.ctl := apply_ite ctl c a b
@[simp] theorem mem_ite (c : Prop) [Decidable c] (a b : State) : (if c then a else b).mem = if c then a.mem else b.mem := apply_ite mem c a b
@[simp] theorem hif_ite (c : Prop) [Decidable c] (a b : State) : (if c then a else b).hif = if c then a.hif else b.hif := apply_ite hif c a b

/-- A fold of quiet changes is quiet. -/
@[simp] theorem quiet_foldl {β : Type} {f : State → β → State} (h : ∀ (t : State) (x : β), t.Quiet (f t x)) (l : List β) : s.Quiet (l.foldl f s) :=
  foldl_keeps (P := s.Quiet) (fun t x ht => Quiet.trans ht (h t x)) l (Quiet.refl s)

/-! Events, completions, reports -/

@[simp] theorem quiet_event (t d r0 r1 r2) : s.Quiet (s.event t d r0 r1 r2) := by
  refine ⟨by simp, by simp, by simp, fun h => ?_⟩
  unfold event
  split
  · exact Hif.canon_event _ _ _ _ _ _ h
  · exact h

@[simp] theorem quiet_complete (e c d r0 r1 r2) : s.Quiet (s.complete e c d r0 r1 r2) := by
  refine ⟨by simp, by simp, by simp, fun h => ?_⟩
  unfold complete
  split
  · exact Hif.canon_complete _ _ _ _ _ _ _ h
  · exact h

@[simp] theorem tidy_goto (d) : s.Tidy (s.goto d) := by
  unfold goto; split
  · simp
  · dsimp only; split <;> simp +contextual

@[simp] theorem quiet_completeAll (l c) : s.Quiet (s.completeAll l c) := quiet_foldl _ (fun _ _ => quiet_complete ..) l

@[simp] theorem quiet_finish (i c d r0 r1 r2) : s.Quiet (s.finish i c d r0 r1 r2) := by
  unfold finish; split
  · exact Quiet.refl s
  · exact quiet_complete { s with hif := _ } ..

@[simp] theorem quiet_samplesDone (l) : s.Quiet (s.samplesDone l) := quiet_foldl _ (fun _ _ => quiet_complete ..) l
@[simp] theorem quiet_setTmr (t) : s.Quiet (s.setTmr t) := by
  unfold setTmr; dsimp only; split
  · exact Quiet.refl s
  · exact quiet_event { s with tmr := t } ..
@[simp] theorem quiet_setGx (x) : s.Quiet (s.setGx x) := by
  unfold setGx; dsimp only; split
  · exact Quiet.refl s
  · exact quiet_event { s with gx := x } ..
@[simp] theorem quiet_report (r) : s.Quiet (s.report r) := by simp
@[simp] theorem quiet_loseSource : s.Quiet s.loseSource := by simp +contextual [loseSource]
@[simp] theorem quiet_setLnk (l lane) : s.Quiet (s.setLnk l lane) := by
  refine ⟨by simp, by simp, by simp, ?_⟩
  unfold setLnk; dsimp only; split <;> simp +contextual

/-! Reads that meet errors -/

@[simp] theorem quiet_corrected (k a i) : s.Quiet (s.corrected k a i) := by simp
@[simp] theorem quiet_uncorrected (k a so st ab i) : s.Quiet (s.uncorrected k a so st ab i) := by
  refine ⟨by simp, by simp, fun h => ?_, by simp⟩
  simp [uncorrected, Mem.wf_setPoison, h]
@[simp] theorem quiet_meetErr (k a h so st ab i) : s.Quiet (s.meetErr k a h so st ab i).1 := by
  unfold meetErr; split
  · exact Quiet.refl s
  · split
    · exact Quiet.refl s
    · exact quiet_corrected ..
    · exact quiet_uncorrected ..
@[simp] theorem quiet_meetErrs (us so st ab via i) : s.Quiet (s.meetErrs us so st ab via i).1 :=
  by
  refine foldl_keeps (P := fun r : State × Bool => s.Quiet r.1) (a := (s, false)) (fun r u h => ?_) us (Quiet.refl s)
  exact Quiet.trans h (quiet_meetErr ..)
@[simp] theorem quiet_eccRead (ks e so st ab via i) : s.Quiet (s.eccRead ks e so st ab via i).1 := by
  unfold eccRead; dsimp only; split <;> simp +contextual
@[simp] theorem quiet_engineRead (ks e) : s.Quiet (s.engineRead im ks e) := by simp +contextual [engineRead]

/-! Readiness, sync objects -/

@[simp] theorem quiet_noteReady (ts) : s.Quiet (s.noteReady ts) := by simp
@[simp] theorem quiet_noteAll : s.Quiet s.noteAll := by simp
@[simp] theorem quiet_syncEff (x) : s.Quiet (s.syncEff x) := by
  unfold syncEff; split <;> (try dsimp only) <;> (try split) <;> (try split) <;> simp +contextual
@[simp] theorem quiet_syncOp (o p) : s.Quiet (s.syncOp o p) := by simp +contextual [syncOp]
@[simp] theorem quiet_syncReset (os init k) : s.Quiet (s.syncReset os init k) := quiet_completeAll { s with sync := _ } ..

@[simp] theorem quiet_sendX (m x) : s.Quiet (s.sendX m x) := by simp

/-! Resets, alarm, FAULT -/

@[simp] theorem quiet_tear : s.Quiet s.tear := by
  refine ⟨by simp, by simp, fun h => ?_, by simp⟩
  unfold tear
  split
  · exact Image.wf_regWrite _ _ _ _ (Mem.wf_ite (BlockAt.wf_writeF32 _ _ _ _ _ (BlockAt.wf_writeF32 _ _ _ _ _ (BlockAt.wf_writeF32 _ _ _ _ _ h)))
      (BlockAt.wf_writeF32 _ _ _ _ _ (BlockAt.wf_writeF32 _ _ _ _ _ h)))
  · exact h
@[simp] theorem quiet_abandon : s.Quiet s.abandon := by simp
@[simp] theorem quiet_failSerial : s.Quiet s.failSerial := by
  unfold failSerial; dsimp only; split <;> simp +contextual
@[simp] theorem quiet_stopUpdates : s.Quiet s.stopUpdates := by simp
@[simp] theorem tidy_clearFor : s.Tidy s.clearFor := by simp 
@[simp] theorem quiet_parityAt (o p) : s.Quiet (s.parityAt o p) := by simp +contextual [parityAt]
@[simp] theorem quiet_hostSync (o p) : s.Quiet (s.hostSync o p) := by simp +contextual [hostSync]
@[simp] theorem quiet_noteUnit (t c) : s.Quiet (s.noteUnit t c) := by simp +contextual [noteUnit]
@[simp] theorem quiet_loadSlot (t k i) : s.Quiet (s.loadSlot im t k i) := Quiet.refl s
@[simp] theorem quiet_mergeRead (cs e) : s.Quiet (s.mergeRead im cs e) := by simp +contextual [mergeRead]
@[simp] theorem quiet_poisonStop (t k m) : s.Quiet (s.poisonStop t k m) := by simp +contextual [poisonStop]
@[simp] theorem quiet_reapply (f) : s.Quiet (s.reapply im f) := by simp +contextual [reapply, Image.wf_writePreloads]
@[simp] theorem quiet_stepRead (ks e) : s.Quiet (s.stepRead im ks e).1 := by
  unfold stepRead; dsimp only; split
  · exact Quiet.refl s
  · split
    · exact Quiet.trans (quiet_eccRead ..) (quiet_abandon _)
    · exact quiet_eccRead ..
@[simp] theorem quiet_crcEnd (j v st) : s.Quiet (s.crcEnd j v st) := by simp +contextual [crcEnd]
@[simp] theorem quiet_scanErrs (source via inj us) : s.Quiet (scanErrs source via inj us s).1 := by
  induction us generalizing s with
  | nil => exact Quiet.refl s
  | cons u r ih =>
    unfold scanErrs; dsimp only; split
    · exact quiet_meetErr ..
    · exact Quiet.trans (quiet_meetErr ..) (ih _)
@[simp] theorem quiet_scanRead (ks e source via) : s.Quiet (s.scanRead ks e source via).1 := by
  unfold scanRead; dsimp only; split <;> split <;> simp +contextual
@[simp] theorem quiet_crcScan (j n e) : s.Quiet (s.crcScan j n e) := by simp +contextual [crcScan]
@[simp] theorem quiet_toAll (m) : s.Quiet (s.toAll m) := by simp +contextual [toAll]
@[simp] theorem quiet_countUnbound (c) : s.Quiet (s.countUnbound c) := by simp +contextual [countUnbound]
@[simp] theorem quiet_updateFault (g) : s.Quiet (s.updateFault im g) := by simp +contextual [updateFault]
@[simp] theorem quiet_updateRead (gs q e) : s.Quiet (s.updateRead im gs q e).1 := by simp +contextual [updateRead]
@[simp] theorem quiet_updateOne (g st gu) : s.Quiet (s.updateOne im g st gu) := by simp +contextual [updateOne, Image.wf_updateBlock]
@[simp] theorem quiet_updateQuiet (g st gu) : s.Quiet (s.updateQuiet im g st gu) := by simp +contextual [updateQuiet]
@[simp] theorem quiet_noteStep : s.Quiet (s.noteStep im) := by simp +contextual [noteStep]
@[simp] theorem quiet_stagePanel (st g gen off bs) : s.Quiet (s.stagePanel im st g gen off bs) := by simp +contextual [stagePanel, Image.wf_regWrite]
@[simp] theorem quiet_writeStaged : s.Quiet (s.writeStaged im) := by
  refine ⟨rfl, rfl, fun h => ?_, id⟩
  exact foldl_keeps (P := fun m : Mem => m.wf = true) (fun m p hm => Mem.wf_carry _ _ _ (Mem.wf_write _ hm)) _ h
@[simp] theorem quiet_settleReturns : s.Quiet s.settleReturns := Quiet.refl s
@[simp] theorem quiet_sendPanel (g gen) : s.Quiet (s.sendPanel im g gen) := by
  unfold sendPanel; split <;> simp +contextual
@[simp] theorem quiet_drop (i) : s.Quiet (s.drop i) := Quiet.refl s
@[simp] theorem quiet_bad : s.Quiet s.bad := Quiet.refl s
@[simp] theorem quiet_contribute (b i) : s.Quiet (s.contribute im b i) := by simp +contextual [contribute]
@[simp] theorem quiet_land (g y q off bs sl e) : s.Quiet (s.land im g y q off bs sl e) := by simp +contextual [land, Image.wf_regWrite]
@[simp] theorem quiet_lateFrom (m) : s.Quiet (s.lateFrom m) := by simp +contextual [lateFrom]
@[simp] theorem quiet_closeBucket (b p) : s.Quiet (s.closeBucket im b p) := by simp +contextual [closeBucket]
@[simp] theorem quiet_staleShard (b i) : s.Quiet (s.staleShard im b i) := by simp +contextual [staleShard]
@[simp] theorem quiet_updateReport (b i v) : s.Quiet (s.updateReport im b i v) := by simp +contextual [updateReport]
@[simp] theorem quiet_beginUpdate (y) : s.Quiet (s.beginUpdate im y) := by simp +contextual [beginUpdate]
@[simp] theorem quiet_sendPodSum (b i sum n m) : s.Quiet (s.sendPodSum b i sum n m) := by simp +contextual [sendPodSum]
@[simp] theorem quiet_sendNorm : s.Quiet (s.sendNorm im) := by simp +contextual [sendNorm]
@[simp] theorem quiet_sendReturn (b i l) : s.Quiet (s.sendReturn im b i l) :=
  Quiet.trans (quiet_foldl _ (fun _ _ => quiet_sendPanel ..) l) (quiet_toAll ..)
@[simp] theorem quiet_putReturn (r) : s.Quiet (s.putReturn im r) := by simp +contextual [putReturn]
@[simp] theorem quiet_diverge (k) : s.Quiet (s.diverge k) := by simp +contextual [diverge]
@[simp] theorem quiet_endRound (m) : s.Quiet (s.endRound m) := by simp +contextual [endRound]
@[simp] theorem quiet_sendFetch (k) : s.Quiet (s.sendFetch k) := by simp +contextual [sendFetch]
@[simp] theorem quiet_cutOff (t) : s.Quiet (s.cutOff t) := by simp +contextual [cutOff]
@[simp] theorem quiet_queueAdd (g st gu) : s.Quiet (s.queueAdd im g st gu) := by
  unfold queueAdd; split <;> simp +contextual [Mem.wf_carry, Image.wf_queueWrite]
@[simp] theorem quiet_applyTo (b st p) : s.Quiet (s.applyTo im b st p) := by simp +contextual [applyTo]
@[simp] theorem quiet_compareFrom (l m e) : s.Quiet (compareFrom im l m e s) := by
  induction l generalizing m e s with
  | nil => exact quiet_endRound ..
  | cons k r ih =>
    unfold compareFrom; split
    · exact ih ..
    · refine Quiet.ite (ih ..) ?_
      extract_lets ks t e' gx x ws v z
      have ht : s.Quiet t := quiet_engineRead ..
      have hx : s.Quiet x := Quiet.trans ht (quiet_setGx ..)
      have hz : s.Quiet z := by
        refine Quiet.trans (Quiet.trans hx (quiet_engineRead ..)) (quiet_foldl _ (fun u g => ?_) _)
        simp +contextual [Image.wf_rebuildCopy]
      refine Quiet.ite (Quiet.trans ht (ih ..)) (Quiet.ite ?_ ?_)
      · exact Quiet.trans (Quiet.ite hz (Quiet.trans hz (quiet_diverge ..))) (ih ..)
      · exact Quiet.trans hx (quiet_sendFetch ..)
@[simp] theorem quiet_fetchFailed (r f e) : s.Quiet (s.fetchFailed im r f e) := by simp +contextual [fetchFailed]
@[simp] theorem quiet_sendState : s.Quiet (s.sendState im) := by
  unfold sendState
  refine Quiet.ite (Quiet.refl s) ?_
  extract_lets mine come t u
  have ht : s.Quiet t := quiet_foldl _ (fun _ _ => quiet_foldl _ (fun _ _ => quiet_sendX ..) _) _
  exact Quiet.trans ht (quiet_foldl _ (fun _ _ => quiet_sendX ..) _)
@[simp] theorem quiet_armEpochNow : s.Quiet s.armEpochNow := by
  unfold armEpochNow; dsimp only; split
  · exact Quiet.refl s
  · split <;> split <;> simp +contextual
@[simp] theorem quiet_writeGxCtrl (v) : s.Quiet (s.writeGxCtrl v) := by simp +contextual [writeGxCtrl]
@[simp] theorem quiet_stashFault (p n f d) : s.Quiet (s.stashFault p n f d) := by simp +contextual [stashFault]
@[simp] theorem quiet_inputReady : s.Quiet (s.inputReady im) := by
  unfold inputReady; split <;> simp +contextual
@[simp] theorem quiet_accumulate (m g xs) : s.Quiet (s.accumulate im m g xs) := by simp +contextual [accumulate, Image.wf_accumulate]
@[simp] theorem quiet_park (m g xs) : s.Quiet (s.park im m g xs) := by
  refine ⟨rfl, rfl, fun h => ?_, id⟩
  exact foldl_keeps (P := fun m : Mem => m.wf = true) (fun m x hm => im.wf_regWrite _ _ _ hm) _ h
@[simp] theorem quiet_sweepBlock (g) : s.Quiet (s.sweepBlock im g) := by simp +contextual [sweepBlock]
@[simp] theorem quiet_recoverStep (d) : s.Quiet (s.recoverStep im d) := by simp +contextual [recoverStep]
@[simp] theorem quiet_exportRead (c bs e) : s.Quiet (s.exportRead im c bs e).1 := by simp +contextual [exportRead]
@[simp] theorem quiet_runFiring (t k mb fs) : s.Quiet (s.runFiring im t k mb fs) := Quiet.refl s
@[simp] theorem quiet_firingReads (t d e) : s.Quiet (s.firingReads im t d e).1 := by simp +contextual [firingReads]
@[simp] theorem quiet_startFiring (t k e fs) : s.Quiet (s.startFiring im t k e fs) := by
  unfold startFiring
  extract_lets sl d mb marked fab t r
  have hr : s.Quiet r.1 := quiet_firingReads t im ..
  exact Quiet.ite (Quiet.trans hr (quiet_poisonStop ..)) (Quiet.trans hr (Quiet.trans (quiet_runFiring ..) (quiet_noteUnit ..)))
@[simp] theorem quiet_movedDraw (n) : s.Quiet (s.movedDraw n) := by simp +contextual [movedDraw]
@[simp] theorem quiet_writeResult (d x) : s.Quiet (s.writeResult im d x) := by
  unfold writeResult; split
  · exact Quiet.refl s
  · simp +contextual [Mem.wf_write]
@[simp] theorem quiet_verdictPass (d x) : s.Quiet (s.verdictPass im d x) := by simp +contextual [verdictPass]
@[simp] theorem quiet_repeatFiring (d x f e fs) : s.Quiet (s.repeatFiring im d x f e fs) := by simp +contextual [repeatFiring]
@[simp] theorem quiet_verdictStop (d x f) : s.Quiet (s.verdictStop im d x f) := by simp +contextual [verdictStop]
@[simp] theorem quiet_passLocal (b) : s.Quiet (s.passLocal im b) := by simp +contextual [passLocal, Mem.wf_write]
@[simp] theorem quiet_enqueueSpoon (x) : s.Quiet (s.enqueueSpoon x) := by simp +contextual [enqueueSpoon]
@[simp] theorem quiet_countFiring (d x) : s.Quiet (s.countFiring im d x) := Quiet.refl s
@[simp] theorem quiet_dropAt (t p i) : s.Quiet (s.dropAt t p i) := by simp +contextual [dropAt]
@[simp] theorem quiet_arrive (t fl) : s.Quiet (s.arrive im t fl) := by simp +contextual [arrive]
@[simp] theorem quiet_lastRead (e) : s.Quiet (s.lastRead im e) := by
  unfold lastRead; dsimp only; split <;> simp +contextual
@[simp] theorem quiet_setInp (r) : s.Quiet (s.setInp r) := by simp +contextual [setInp]
@[simp] theorem quiet_readRecord (d o n b e) : s.Quiet (s.readRecord d o n b e).1 := by
  unfold readRecord; split <;> simp +contextual
@[simp] theorem quiet_fieldDone (x k) : s.Quiet (s.fieldDone im x k) := by simp +contextual [fieldDone]
@[simp] theorem quiet_stagingRead (e) : s.Quiet (s.stagingRead im e).1 := by simp +contextual [stagingRead]
@[simp] theorem quiet_datapathFault : s.Quiet s.datapathFault := by simp +contextual [datapathFault]
@[simp] theorem quiet_voidFetch (k) : s.Quiet (s.voidFetch k) := Quiet.refl s
@[simp] theorem quiet_writeInpCtrl (v) : s.Quiet (s.writeInpCtrl v) := by
  unfold writeInpCtrl; split
  · simp +contextual
  · split
    · split <;> exact Quiet.refl _
    · exact Quiet.refl s
@[simp] theorem quiet_badMsg : s.Quiet s.badMsg := by simp +contextual [badMsg]
@[simp] theorem quiet_faultEvent (r n p) : s.Quiet (s.faultEvent r n p) := by simp +contextual [faultEvent]

/-! Host interface, image load, sealing, registers -/

@[simp] theorem quiet_send (o) : s.Quiet (s.send o) := Quiet.refl s
@[simp] theorem quiet_rejected (r) : s.Quiet (s.rejected r) := Quiet.refl s
@[simp] theorem quiet_writeHciHost (v) : s.Quiet (s.writeHciHost v) := by
  unfold writeHciHost; split
  · exact Quiet.refl s
  · simp
@[simp] theorem quiet_doorbell (o n v) : s.Quiet (s.doorbell o n v) := by
  unfold doorbell; split <;> simp +contextual
@[simp] theorem quiet_writeCtl (o v) : s.Quiet (s.writeCtl o v) := by
  unfold writeCtl; split <;> simp +contextual
@[simp] theorem quiet_writeTil (t o v) : s.Quiet (s.writeTil t o v) := by simp +contextual [writeTil]
@[simp] theorem quiet_writeInject (v) : s.Quiet (s.writeInject v) := by simp +contextual [writeInject]
@[simp] theorem quiet_writeWord (a v) : s.Quiet (s.writeWord a v) := by
  unfold writeWord; dsimp only; split <;> simp +contextual
@[simp] theorem quiet_barWrite (a v) : s.Quiet (s.barWrite a v) := by simp +contextual [barWrite]
@[simp] theorem quiet_writeSealed (a b l) : s.Quiet (s.writeSealed a b l) := by simp +contextual [writeSealed]
@[simp] theorem quiet_capture (e c) : s.Quiet (s.capture im e c) := by
  unfold capture
  extract_lets bs done r u plain n
  have hdone : ∀ (t : State) (code : Code) (d k : Nat), t.Quiet (done t code d k) := fun t code d k => by
    unfold done; split <;> simp +contextual
  have hu : s.Quiet u := quiet_exportRead ..
  clear_value done u
  refine Quiet.ite (hdone ..) (Quiet.ite (Quiet.trans hu (hdone ..)) (Quiet.ite (Quiet.trans hu (hdone ..)) (Quiet.ite (Quiet.trans hu (hdone ..)) ?_)))
  exact Quiet.trans hu (Quiet.trans (quiet_writeSealed ..) (hdone ..))
@[simp] theorem quiet_applyImage : s.Quiet (s.applyImage im) := by simp +contextual [applyImage, Image.wf_writePreloads]
@[simp] theorem quiet_blowDone (ok) : s.Quiet (s.blowDone ok) := by
  unfold blowDone; split
  · exact Quiet.refl s
  · split <;> split <;> simp +contextual
@[simp] theorem quiet_crcCycle : s.Quiet s.crcCycle := by
  unfold crcCycle; split
  · exact Quiet.refl s
  · simp +contextual
@[simp] theorem quiet_idle : s.Quiet (idle s) := by simp +contextual [idle]

end State

/-! Operations that move the device state -/

/-- The device state stays, or moves as the table of R487 says without a removal of power. -/
abbrev Dev.turns (a b : Dev) : Prop := b = a ∨ (a, b) ∈ Dev.moves

/-- Every state in which the device runs turns to FAULT. -/
theorem Dev.turns_fault {d : Dev} (hoff : d ≠ .off) (hreset : d ≠ .reset) (halarm : d ≠ .alarm) : d.turns .fault := by
  cases d <;> first | contradiction | decide

/-- A state follows another in one command: tidily, and with the device state as the table allows. -/
abbrev State.Moves (s t : State) : Prop := s.ctl.state.turns t.ctl.state ∧ s.Tidy t

theorem State.Quiet.moves {s t : State} (h : s.Quiet t) : s.Moves t := ⟨.inl h.1, h.2⟩

/-- A quiet change before a move, or behind it, joins it. -/
theorem State.Quiet.then {s t u : State} (h : s.Quiet t) (k : t.Moves u) : s.Moves u := ⟨h.1 ▸ k.1, h.2.trans k.2⟩
theorem State.Moves.then {s t u : State} (h : s.Moves t) (k : t.Quiet u) : s.Moves u := ⟨k.1 ▸ h.1, h.2.trans k.2⟩

theorem State.Moves.ite {s a b : State} {c : Prop} [Decidable c] (ha : c → s.Moves a) (hb : ¬ c → s.Moves b) : s.Moves (if c then a else b) := by
  split
  · exact ha ‹_›
  · exact hb ‹_›

namespace State
variable (s : State) (im : Image)

theorem Tidy.ite {s a b : State} {c : Prop} [Decidable c] (ha : s.Tidy a) (hb : s.Tidy b) : s.Tidy (if c then a else b) := by
  split
  · exact ha
  · exact hb

theorem moves_goto {d : Dev} (h : s.ctl.state.turns d) : s.Moves (s.goto d) := ⟨by rwa [goto_state], tidy_goto s d⟩

theorem moves_alarm (a) : s.Moves (s.alarm a) := by
  refine ⟨?_, ?_⟩
  · rw [alarm_state]
    cases s.ctl.state <;> decide
  · unfold alarm; split
    · exact (Quiet.refl s).2
    · exact (Quiet.refl s).2
    · exact (quiet_tear s).2

theorem moves_enterReset (m) : s.Moves (s.enterReset m) := by
  refine ⟨?_, ?_⟩
  · rw [enterReset_state]
    split
    · exact .inl rfl
    · next hstate =>
      cases hs : s.ctl.state <;> simp [hs] at hstate <;> decide
  · unfold enterReset latchSource; split
    · exact (Quiet.refl s).2
    · exact Tidy.ite ⟨rfl, id, id⟩ (Quiet.refl s).2
    · exact Tidy.ite ⟨rfl, id, id⟩ (Tidy.trans (quiet_tear s).2 (tidy_clearFor _))

theorem moves_enterFault (l) : s.Moves (s.enterFault l) := by
  unfold enterFault
  split
  · exact (Quiet.refl s).moves
  · exact (Quiet.refl s).moves
  · exact (Quiet.refl s).moves
  next hoff hreset halarm =>
    extract_lets t u v w x y
    have hv : s.Quiet v := Quiet.trans (Quiet.ite ⟨rfl, rfl, id, id⟩ (Quiet.refl s) : s.Quiet u) (quiet_failSerial u)
    have hx : v.Quiet x := Quiet.ite (Quiet.refl v) (Quiet.ite ⟨rfl, rfl, id, id⟩ (quiet_abandon v))
    have hy : s.Quiet y := Quiet.trans (Quiet.trans hv hx) (quiet_stopUpdates x)
    clear_value v y
    refine .ite (fun _ => Quiet.moves hv) fun _ => ⟨?_, Tidy.trans hy.2 (tidy_goto { y with fab := _, gx := _, flt := _ } _)⟩
    rw [goto_state]
    exact Dev.turns_fault hoff hreset halarm

theorem moves_leaveStep (hold) : s.Moves (s.leaveStep hold) := by
  unfold leaveStep
  extract_lets f t
  have ht : s.Quiet t := quiet_noteAll { s with fab := { s.fab with hold := hold } }
  clear_value t
  refine .ite (fun hr => ?_) fun _ => ht.moves
  have hrun : t.ctl.state = .stepping ∨ t.ctl.state = .draining := by cases hs : t.ctl.state <;> simp_all [Dev.running]
  refine .ite (fun _ => ?_) fun _ => ?_
  · refine (ht.trans (quiet_stopUpdates t)).then (moves_goto _ ?_)
    rw [(quiet_stopUpdates t).1]
    obtain h | h := hrun <;> rw [h] <;> decide
  · refine ht.then (moves_goto _ ?_)
    obtain h | h := hrun <;> rw [h] <;> decide

@[simp] theorem quiet_abandonStep : s.Quiet s.abandonStep := by simp

theorem moves_abandonDone : s.Moves (s.abandonDone im) := by
  unfold abandonDone
  extract_lets step t fab
  have ht : s.Quiet t := ⟨rfl, rfl, Image.wf_writeReports im _ _ _, id⟩
  exact Quiet.then (Quiet.trans ht (Quiet.trans (quiet_reapply ..) (quiet_abandonStep _))) (moves_leaveStep _ _)

theorem moves_abandonLost : s.Moves s.abandonLost := by
  unfold abandonLost
  extract_lets keep gx fab t
  have ht : s.Quiet t := ⟨rfl, rfl, id, id⟩
  exact Quiet.then (Quiet.trans ht (quiet_abandonStep _)) (moves_leaveStep _ _)

/-- Outside a running state the end of an abandonment is quiet. -/
theorem quiet_leaveStep (hold) (h : s.ctl.state.running = false) : s.Quiet (s.leaveStep hold) := by
  unfold leaveStep
  extract_lets f t
  have ht : s.Quiet t := quiet_noteAll { s with fab := { s.fab with hold := hold } }
  clear_value t
  rwa [if_neg (by rw [ht.1, h]; exact Bool.false_ne_true)]

theorem quiet_abandonLost (h : s.ctl.state.running = false) : s.Quiet s.abandonLost := by
  unfold abandonLost
  extract_lets keep gx fab t
  have ht : s.Quiet t := ⟨rfl, rfl, id, id⟩
  exact Quiet.trans (Quiet.trans ht (quiet_abandonStep _)) (quiet_leaveStep _ _ h)

theorem quiet_dropStep (h : s.ctl.state.running = false) : s.Quiet (s.dropStep im) := by
  unfold dropStep abandonDone
  extract_lets gx t step u fab
  have hu : s.Quiet u := ⟨rfl, rfl, Image.wf_writeReports im _ _ _, id⟩
  have hv := Quiet.trans hu (Quiet.trans (quiet_reapply u im { t.fab with q := t.fab.qStart }) (quiet_abandonStep _))
  exact Quiet.trans hv (quiet_leaveStep _ _ (by rw [hv.1]; exact h))

theorem moves_beginStep (h : s.ctl.state = .stepping) : s.Moves (s.beginStep im) := by
  unfold beginStep
  extract_lets step gx t sweep counted last ctl upd adm fab u
  have hu : s.Quiet u := Quiet.trans (quiet_setGx ..) (⟨rfl, rfl, id, id⟩ : t.Quiet u)
  clear_value u
  exact .ite (fun _ => hu.then (moves_goto _ (by rw [hu.1, h]; decide))) fun _ => hu.moves

theorem tidy_foldl_alarm (l : List AlarmSrc) : s.Tidy (l.foldl alarm s) :=
  foldl_keeps (P := s.Tidy) (fun t a ht => Tidy.trans ht (moves_alarm t a).2) l (Quiet.refl s).2

/-- Alarm sources one after the other leave the device in ALARM. -/
theorem foldl_alarm_of_ne_off {l : List AlarmSrc} (hl : l ≠ []) (h : s.ctl.state ≠ .off) : (l.foldl alarm s).ctl.state = .alarm := by
  have hkeep : ∀ (l : List AlarmSrc) (t : State), t.ctl.state = .alarm → (l.foldl alarm t).ctl.state = .alarm := fun l t ht =>
    foldl_keeps (P := fun t : State => t.ctl.state = .alarm) (fun t a ht => by rw [alarm_state, ht]; decide) l ht
  cases l with
  | nil => exact absurd rfl hl
  | cons a l => exact hkeep l _ (by rw [alarm_state, if_neg h])

/-- The boot ends in FAULT, in ALARM or in BOOT. -/
theorem boot_state (h : s.ctl.state = .boot) : s.boot.ctl.state = .fault ∨ s.boot.ctl.state = .alarm ∨ s.boot.ctl.state = .boot := by
  unfold boot
  extract_lets sec t e u
  clear_value e
  split
  · exact .inl (goto_state ..)
  · split
    next hsrc => exact .inr (.inl (foldl_alarm_of_ne_off _ (by simpa using hsrc) (by rw [show t.ctl.state = .boot from h]; decide)))
    · split
      · exact .inl (goto_state ..)
      · exact .inr (.inr h)

theorem tidy_boot : s.Tidy s.boot := by
  unfold boot
  extract_lets sec t e u
  have ht : s.Tidy t := by simp [t]
  have hg : ∀ x d, s.Tidy (({ t with sec := x } : State).goto d) := fun x d => ht.trans (tidy_goto { t with sec := x } d)
  clear_value e
  split
  · exact hg _ _
  · split
    · exact ht.trans (tidy_foldl_alarm t _)
    · split
      · exact hg _ _
      · exact ht.trans (by simp)

end State
end Sys2Proof.Machine
end

section
/-! SUPPORT. What every command answers: a next state with the same queue, canonical memories, and a device state the table of R487 allows. -/

namespace Sys2Proof.Machine

/-- A meaning answers a next state, of which P holds. -/
def Answers (r : Res) (P : State → Prop) : Prop := ∃ t, r = .next t ∧ P t

theorem Answers.next {t : State} {P : State → Prop} (h : P t) : Answers (.next t) P := ⟨t, rfl, h⟩

theorem Answers.imp {r : Res} {P Q : State → Prop} (h : Answers r P) (k : ∀ t, P t → Q t) : Answers r Q := by
  obtain ⟨t, ht, hp⟩ := h
  exact ⟨t, ht, k t hp⟩

theorem Answers.of_next {r : Res} {P : State → Prop} {t : State} (h : Answers r P) (ht : r = .next t) : P t := by
  obtain ⟨u, hu, hp⟩ := h
  rw [hu] at ht
  cases ht
  exact hp

namespace State
variable (s : State)

/-- A host command is quiet when its effect is. -/
@[simp] theorem quiet_command {i op : Nat} {legal : Dev → Bool} {k : Entry → State} (h : ∀ e, s.Quiet (k e)) : s.Quiet (s.command i op legal k) := by
  unfold command; split
  · exact Quiet.refl s
  · exact Quiet.ite (Quiet.refl s) (Quiet.ite (h _) (quiet_finish { s with ctl := _ } ..))

@[simp] theorem quiet_syncCmd {i k : Nat} {ok : Nat → Bool} {f : Entry → Nat → State} (h : ∀ e o, s.Quiet (f e o)) : s.Quiet (s.syncCmd i k ok f) := by
  unfold syncCmd; split
  · exact Quiet.refl s
  · exact Quiet.ite (Quiet.refl s) (quiet_command s fun e => Quiet.ite (quiet_finish ..) (h ..))

/-- A message is quiet when its handling is. -/
@[simp] theorem quiet_onMail {i ty : Nat} {f : Image → XMsg → State} (h : ∀ im m, s.Quiet (f im m)) : s.Quiet (s.onMail i ty f) := by
  unfold onMail; split
  · exact Quiet.refl s
  · exact Quiet.ite (Quiet.refl s) (h ..)
  · exact Quiet.refl s

end State

/-! What a command is wrapped in is quiet when its effect is -/

namespace Answers
variable {s : State}

theorem host {f : State → State} (h : s.Quiet (f s)) : Answers (s.host f) s.Quiet := next (h.ite (.refl s))
theorem powered {f : State → State} (h : s.Quiet (f s)) : Answers (s.powered f) s.Quiet := next (.ite (.refl s) h)
theorem scrubbing {f : State → State} (h : s.Quiet (f s)) : Answers (s.scrubbing f) s.Quiet := next (h.ite (.refl s))
theorem answered {o : HostOut} {f : State → State} (h : s.Quiet (f s)) : Answers (s.answered o f) s.Quiet :=
  next (h.ite (.ite (State.quiet_send s o) (.refl s)))
theorem ofSource {n : Nat} {f : State → State} (h : s.Quiet (f s)) : Answers (s.ofSource n f) s.Quiet := next (h.ite (.refl s))
theorem onPort {i : Nat} {f : Port → State} (h : ∀ p, s.Quiet (f p)) : Answers (s.onPort i f) s.Quiet := next ((h _).ite (.refl s))
theorem onCtrl (s : State) (i sub : Nat) (bs : List Byte) (fec : List Nat) (ok : Port → Bool) (f : Lnk → List Byte → Lnk) :
    Answers (s.onCtrl i sub bs fec ok f) s.Quiet := onPort fun _ => .ite (State.quiet_setLnk ..) (.refl s)
theorem laneFails (s : State) (i lane r : Nat) : Answers (s.laneFails i lane r) s.Quiet := onPort fun _ => .ite (State.quiet_setLnk ..) (.refl s)
theorem answer (s : State) (l c : Nat) (bs : List Nat) : Answers (s.answer l c bs) s.Quiet := next (.ite (.refl s) (.refl s))

theorem intake {f : Image → State} (h : ∀ im, s.Quiet (f im)) : Answers (s.intake f) s.Quiet := next (by
  split
  · exact .refl s
  · exact (h _).ite (.refl s))

theorem issue {n : Nat} {ok : Bool} {f : Due → State → State} (h : ∀ (d : Due) (t : State), t.Quiet (f d t)) : Answers (s.issue n ok f) s.Quiet := next (by
  split
  · exact .refl s
  · exact .ite (.refl s) (.ite (h _ { s with tmr := _ }) (.refl s)))

theorem command {i op : Nat} {legal : Dev → Bool} {k : Entry → State} (h : ∀ e, s.Quiet (k e)) : Answers (.next (s.command i op legal k)) s.Quiet :=
  next (s.quiet_command h)

theorem syncCmd {i k : Nat} {ok : Nat → Bool} {f : Entry → Nat → State} (h : ∀ e o, s.Quiet (f e o)) :
    Answers (.next (s.syncCmd i k ok f)) s.Quiet := next (s.quiet_syncCmd h)

theorem onMail {i ty : Nat} {f : Image → XMsg → State} (h : ∀ im m, s.Quiet (f im m)) : Answers (.next (s.onMail i ty f)) s.Quiet :=
  next (s.quiet_onMail h)

end Answers

/-- The commands that can move the device state. -/
def movesState : Instr → Bool
  | .powerApplied | .powerRemoval | .perst _ | .resetN _ | .refclkStop | .resetRelease | .bootComplete | .mgmtWatchdogExpiry
  | .imageLoad _ _ _ _ | .arm _ | .disarm _ | .run _ | .drain _ | .faultClear _ | .warmReset _ | .stepStart | .stepEnd _
  | .fuseIntegrityCheck _ | .tamper _ _ | .debugIntrusion | .faultRecordWrite | .abandonComplete | .tempSample _ _ _ | .railSample _ _
  | .cglitch => true
  | _ => false

/-! Commands with a longer chain of effects -/

section
open State
variable (s : State)

theorem execBar4Read_quiet (off len : Nat) (ecc : Ecc) : Answers (execBar4Read off len ecc s) s.Quiet := .answered (by
  refine .ite (.refl s) ?_
  extract_lets a ks r memr
  have hr : s.Quiet r.1 := quiet_eccRead ..
  exact .ite (.ite hr hr) ⟨rfl, rfl, id, id⟩)

theorem execBar4Write_quiet (off : Nat) (bs : List Byte) (ecc : Ecc) : Answers (execBar4Write off bs ecc s) s.Quiet := .host (by
  refine .ite (.refl s) ?_
  extract_lets a cs r
  have hr : s.Quiet r.1 := quiet_eccRead ..
  exact .ite ⟨hr.1, hr.2.1, fun h => Mem.wf_write _ (hr.2.2.1 h), hr.2.2.2⟩ ⟨rfl, rfl, id, id⟩)

theorem execSqEntryFetch_quiet (busErr : Bool) : Answers (execSqEntryFetch busErr s) s.Quiet := .host (by
  refine .ite (.refl s) ?_
  split
  · exact .refl s
  · refine .ite (by simp) ?_
    dsimp only; split
    · exact quiet_complete { s with hif := _ } ..
    · refine .ite (quiet_complete { s with hif := _ } ..) (.ite (quiet_complete { s with hif := _ } ..) (by simp)))

theorem execSyncSignal_quiet (i : Nat) (parity : Bool) : Answers (execSyncSignal i parity s) s.Quiet := .next (by
  split
  · exact .refl s
  · refine .ite (quiet_command s fun _ => quiet_finish ..) (quiet_syncCmd s fun e o => ?_)
    exact .trans (.ite (.refl s) ((quiet_parityAt ..).trans (quiet_hostSync ..))) (quiet_finish ..))

theorem execSyncSet_quiet (i : Nat) (parity : Bool) : Answers (execSyncSet i parity s) s.Quiet :=
  .syncCmd fun _ _ => .trans (.trans (quiet_parityAt ..) (quiet_hostSync ..)) (quiet_finish ..)

theorem execSyncArm_quiet (i : Nat) (parity : Bool) : Answers (execSyncArm i parity s) s.Quiet :=
  .syncCmd fun _ _ => .trans (.trans (quiet_parityAt ..) (quiet_syncOp ..)) (quiet_finish ..)

theorem execSyncRead_quiet (i : Nat) (parity : Bool) : Answers (execSyncRead i parity s) s.Quiet :=
  .syncCmd fun _ _ => .trans (.trans (quiet_parityAt ..) (quiet_syncOp ..)) (quiet_finish ..)

theorem execSyncNotify_quiet (i : Nat) (parity : Bool) : Answers (execSyncNotify i parity s) s.Quiet :=
  .next (.ite (.refl s) (quiet_syncCmd s fun _ o => .trans (quiet_parityAt ..) (quiet_finish { s.parityAt o parity with sync := _ } ..)))

theorem execExportCmd_quiet (i : Nat) (ecc : Ecc) : Answers (execExportCmd i ecc s) s.Quiet := .command fun _ => by
  split
  · exact quiet_finish ..
  · refine .ite (quiet_finish ..) (.ite (quiet_finish ..) ?_)
    extract_lets bs r u plain n
    have hu : s.Quiet u := quiet_exportRead ..
    have hfin : ∀ code d r0, s.Quiet (u.finish i code d r0) := fun _ _ _ => hu.trans (quiet_finish ..)
    exact .ite (hfin ..) (.ite (hfin ..) (.ite (hfin ..) (.trans (.trans hu (quiet_writeSealed ..)) (quiet_finish ..))))

theorem execImportCmd_quiet (i : Nat) (ecc : Ecc) : Answers (execImportCmd i ecc s) s.Quiet := .command fun _ => by
  split
  · exact quiet_finish ..
  next im _ =>
    refine .ite (quiet_finish ..) ?_
    split
    · exact quiet_finish ..
    · refine .ite (quiet_finish ..) ?_
      split
      · exact quiet_finish ..
      next rs _ =>
        extract_lets u mu
        have hu : s.Quiet u := quiet_mergeRead ..
        have hmu : u.mem.wf = true → mu.1.wf = true := fun h =>
          foldl_keeps (P := fun p : Mem × Upd => p.1.wf = true) (fun _ r hp => im.wf_importBlock _ r hp) rs (a := (u.mem, u.upd)) h
        exact .trans (.trans hu (⟨rfl, rfl, hmu, id⟩ : u.Quiet { u with mem := mu.1, upd := mu.2 })) (quiet_finish ..)

theorem execMailRecv_quiet (i : Nat) : Answers (execMailRecv i s) s.Quiet := .command fun _ => by
  dsimp only; split
  · exact ⟨rfl, rfl, id, id⟩
  · exact .ite (quiet_finish ..) ⟨rfl, rfl, id, fun h => HostWf.mailbox (h := { s.hif with fetched := _, mailRecv := _, mailHeld := _ }) _ _ h⟩

theorem execRollbackAdvance_quiet (i : Nat) : Answers (execRollbackAdvance i s) s.Quiet :=
  .next (.ite (.refl s) (quiet_command s fun _ =>
    .ite (quiet_finish ..) (.ite (quiet_finish ..) (.ite (quiet_finish ..) (.ite (quiet_finish ..) ⟨rfl, rfl, id, id⟩)))))

theorem execD3hotTransition_quiet (on : Bool) : Answers (execD3hotTransition on s) s.Quiet := by
  unfold execD3hotTransition
  split
  · exact .next ⟨rfl, rfl, id, id⟩
  · exact .answered ⟨rfl, rfl, id, id⟩

end

section
open State
variable (s : State)

theorem execChecksumVerdict_quiet (tile : BitVec 8) (slot : BitVec 4) (e : Ecc) (fs : List ArrayFault) :
    Answers (execChecksumVerdict tile slot e fs s) s.Quiet := .next (by
  split
  next im x _ _ =>
    refine .ite (.refl s) ?_
    extract_lets d t
    have ht : s.Quiet t := ⟨rfl, rfl, id, id⟩
    refine .trans (ht.trans ?_) (quiet_noteReady ..)
    split
    · exact quiet_verdictPass ..
    · exact .ite (quiet_verdictStop ..) (.ite (.refl t) (quiet_repeatFiring ..))
  · exact .refl s)

theorem execFiringEnd_quiet (tile : BitVec 8) (slot : BitVec 4) (residue : Bool) : Answers (execFiringEnd tile slot residue s) s.Quiet := .next (by
  split
  next im x _ _ =>
    extract_lets d t f f1 f2 u v
    have ht : s.Quiet t := .trans (quiet_writeResult ..) (quiet_foldl _ (fun u b => quiet_passLocal u im b) x.outs)
    have hu : t.Quiet u := ⟨rfl, rfl, id, id⟩
    have hv : u.Quiet v := .trans (quiet_enqueueSpoon ..) (quiet_countFiring ..)
    refine .ite (.ite ?_ (.refl s)) (.ite (.refl s) ?_)
    · refine .trans ?_ (quiet_noteUnit ..)
      exact quiet_report { s with fab := _ } ..
    · exact .trans (ht.trans (hu.trans hv)) (quiet_noteUnit { v with adm := _ } ..)
  · exact .refl s)

theorem execFlitHop_quiet (tile : BitVec 8) (port : BitVec 2) (fault : HopFault) (aged : Bool) : Answers (execFlitHop tile port fault aged s) s.Quiet :=
  .next (by
  split
  · dsimp only; split
    · exact .refl s
    · split
      · exact quiet_dropAt { s with fab := _ } ..
      · exact quiet_dropAt { s with fab := _ } ..
      · exact ⟨rfl, rfl, id, id⟩
      · exact quiet_report { s with fab := _ } ..
      · exact ⟨rfl, rfl, id, id⟩
  · exact .refl s)

/-- What lands of an ejected flit keeps the memory canonical. -/
theorem Fab.wf_land (im : Image) {m : Mem} (t : Nat) (fl : Flit) (p : Bool) (h : m.wf = true) : (Fab.land im m t fl p).wf = true := by
  unfold Fab.land
  split
  · exact h
  · exact Mem.wf_ite (Mem.wf_writePoison _ h) (Mem.wf_write _ h)

theorem execFlitEject_quiet (tile : BitVec 8) (fault : HopFault) (aged : Bool) : Answers (execFlitEject tile fault aged s) s.Quiet := .next (by
  split
  · exact .refl s
  next im _ =>
    extract_lets n
    split
    · exact .refl s
    · extract_lets f
      split
      · exact .ite (quiet_dropAt { s with fab := _ } ..) ⟨rfl, rfl, id, id⟩
      · exact ⟨rfl, rfl, id, id⟩
      next t u _ _ _ =>
        have ht : s.Quiet t := ⟨rfl, rfl, Fab.wf_land im _ _ _, id⟩
        have hu : t.Quiet u := by
          unfold u
          split
          · exact quiet_report ..
          · exact quiet_report ..
          · exact .refl t
        clear_value t u
        refine .trans (ht.trans hu) (.trans (.ite (quiet_arrive ..) ?_) (quiet_noteReady ..))
        exact ⟨rfl, rfl, id, id⟩)

theorem execTileCreditMessage_quiet (tile : BitVec 8) (port : BitVec 2) (fault : HopFault) : Answers (execTileCreditMessage tile port fault s) s.Quiet :=
  .next (by
  split
  · exact .refl s
  · dsimp only; split
    · exact .refl s
    · split
      · exact quiet_dropAt { s with fab := _ } ..
      · exact ⟨rfl, rfl, id, id⟩
      · exact .ite (quiet_noteReady { s with fab := _ } _) ⟨rfl, rfl, id, id⟩)

theorem execSwappedSlotLoad_quiet (tile : BitVec 8) (slot : BitVec 4) : Answers (execSwappedSlotLoad tile slot s) s.Quiet := .next (by
  split
  · exact .refl s
  · refine .ite ?_ (.refl s)
    split
    · exact quiet_loadSlot ..
    · exact .refl s)

theorem execStemEngineStart_quiet (region : BitVec 4) (ecc : Ecc) : Answers (execStemEngineStart region ecc s) s.Quiet := .next (by
  split
  · exact .refl s
  next im _ =>
    extract_lets g tiles last order slots best
    clear_value best slots order
    split
    · refine .trans ?_ (quiet_startFiring _ im ..)
      exact ⟨rfl, rfl, id, id⟩
    · exact .refl s)

theorem execMbAdmission_quiet : Answers (execMbAdmission s) s.Quiet := .next (by
  split
  next im mb counts rest _ _ =>
    refine .ite (.refl s) ?_
    extract_lets m c p t
    have ht : s.Quiet t := .ite ⟨rfl, rfl, id, id⟩ (.refl s)
    clear_value t
    split
    · exact ht
    · exact ht.trans (quiet_stashFault ..)
    next fr _ =>
      extract_lets u
      have hu : s.Quiet u := ht.trans ⟨rfl, rfl, id, id⟩
      clear_value u
      clear ht
      split
      · exact hu.trans (quiet_foldl _ (fun v y => quiet_loadSlot v im ..) _)
      · refine .ite hu ?_
        split
        · exact hu
        · refine .trans (hu.trans ?_) (quiet_noteAll _)
          refine .trans ?_ (quiet_inputReady _ im)
          exact ⟨rfl, rfl, id, id⟩
  · exact .refl s)

theorem execRestoreServe_quiet : Answers (execRestoreServe s) s.Quiet := .next (by
  split
  · exact .refl s
  next im _ =>
    extract_lets next t
    have ht : s.Quiet t := .ite ⟨rfl, rfl, id, id⟩ (.refl s)
    clear_value next t
    split
    · exact ht
    · refine .trans (ht.trans ?_) (quiet_noteAll _)
      refine .trans ?_ (quiet_foldl _ (fun u i => quiet_syncOp ..) _)
      exact ⟨rfl, rfl, id, id⟩)

theorem execParkedAccumulate_quiet (block : Nat) (ecc : Ecc) : Answers (execParkedAccumulate block ecc s) s.Quiet := .next (by
  split
  next im i _ _ =>
    extract_lets p r t xs u0 u dst
    have ht : s.Quiet t := quiet_stepRead ..
    have hu : t.Quiet u := quiet_accumulate { t with upd := _ } ..
    exact .ite ht (.trans ht (hu.trans ⟨rfl, rfl, fun h => Mem.wf_carry _ _ _ h, id⟩))
  · exact .refl s)

theorem execSweepComplete_quiet (differ : List Nat) (ecc : Ecc) : Answers (execSweepComplete differ ecc s) s.Quiet := .next (by
  split
  next im n bs _ _ =>
    extract_lets r bad t stop u upd v
    have ht : s.Quiet t := .trans (quiet_updateRead ..) (quiet_foldl _ (fun u g => quiet_updateFault u im g) bad)
    have hu : t.Quiet u := by
      refine .trans ?_ (quiet_foldl _ (fun w g => quiet_sweepBlock w im g) _)
      exact ⟨rfl, rfl, id, id⟩
    have hv : s.Quiet v := ht.trans hu
    exact .ite hv (hv.trans (quiet_syncOp ..))
  · exact .refl s)

theorem execNormPart_quiet (i : Nat) : Answers (execNormPart i s) s.Quiet := .onMail fun im m => by
  dsimp only
  exact .ite ⟨rfl, rfl, id, id⟩ (.ite (.refl s) (.ite (quiet_sendNorm { s.drop i with gx := _ } im) ⟨rfl, rfl, id, id⟩))

theorem execReturnMsg_quiet (i : Nat) (ecc : Ecc) : Answers (execReturnMsg i ecc s) s.Quiet := .onMail fun im m => by
  extract_lets t cur g r range got r' b now at' u v
  have ht : s.Quiet t := quiet_drop ..
  have hu : s.Quiet u := ht.trans (quiet_mergeRead ..)
  have hv : u.Quiet v := .ite ⟨rfl, rfl, im.wf_regWrite _ _ _, id⟩ (quiet_stagePanel ..)
  exact .ite (ht.trans (quiet_bad t)) (hu.trans (hv.trans (quiet_putReturn ..)))

theorem execFetch_quiet (i : Nat) (ecc : Ecc) : Answers (execFetch i ecc s) s.Quiet := .onMail fun im m => by
  extract_lets t cur g u to' blocks r tag v d gx w
  have ht : s.Quiet t := quiet_drop ..
  have hu : s.Quiet u := ht.trans (quiet_engineRead ..)
  have hv : u.Quiet v := quiet_foldl _ (fun x k => quiet_foldl _ (fun y p => quiet_sendX ..) _) _
  have hw : s.Quiet w := hu.trans hv
  exact .ite (ht.trans (quiet_bad t)) (hw.trans (quiet_sendX ..))

theorem execFetchEnd_quiet (i : Nat) (ecc : Ecc) : Answers (execFetchEnd i ecc s) s.Quiet := .onMail fun im m => by
  extract_lets t
  split
  · exact ⟨rfl, rfl, id, id⟩
  next r f _ =>
    extract_lets mem
    have hm : s.mem.wf = true → mem.wf = true := fun h => foldl_keeps (P := fun m : Mem => m.wf = true) (fun _ _ hm => im.wf_regWrite _ _ _ hm) _ h
    clear_value mem
    refine .ite (.trans ?_ (quiet_compareFrom _ im ..)) (.trans (quiet_drop s i) (quiet_fetchFailed ..))
    exact ⟨rfl, rfl, hm, id⟩

theorem execStateXfer_quiet (i : Nat) (ecc : Ecc) : Answers (execStateXfer i ecc s) s.Quiet := .onMail fun im m => by
  extract_lets cur staged t old meets got gx u
  have hu : s.Quiet u := ⟨rfl, rfl, id, id⟩
  clear_value u
  refine .ite (.refl s) (.ite ⟨rfl, rfl, id, id⟩ ?_)
  split
  · exact hu
  next r _ =>
    extract_lets v mu
    have hv : u.Quiet v := quiet_mergeRead ..
    exact .ite hu (hu.trans (hv.trans ⟨rfl, rfl, fun h => im.wf_importBlock 11 r h, id⟩))

theorem execMbComplete_quiet : Answers (execMbComplete s) s.Quiet := .intake fun im => by
  split
  · exact .refl s
  · extract_lets last
    clear_value last
    refine ⟨rfl, rfl, fun h => ?_, id⟩
    generalize last.header im _ = bs, last.g % _ * 65536 = off
    exact im.wf_regWrite _ _ _ h

theorem execRowSetSeal_quiet (residue : Bool) : Answers (execRowSetSeal residue s) s.Quiet := .intake fun im => by
  split
  · exact .refl s
  next r _ =>
    extract_lets faulted t r'
    have ht : s.Quiet t := by
      refine .ite (.trans (quiet_datapathFault s) ?_) (.refl s)
      exact ⟨rfl, rfl, id, id⟩
    clear_value t r'
    refine ht.trans ⟨rfl, rfl, fun h => ?_, id⟩
    clear_value faulted
    dsimp only
    exact r'.wf_write im h

theorem execShardReduceDone_quiet (b shard : Nat) (pod : Bool) (dup : Dup) (ecc : Ecc) :
    Answers (execShardReduceDone b shard pod dup ecc s) s.Quiet := .next (by
  split
  · exact .refl s
  next im _ =>
    extract_lets step g y read t u faulted r mask v y' part w
    have ht : s.Quiet t := quiet_stepRead ..
    have hu : t.Quiet u := .ite (quiet_updateReport ..) (.refl t)
    have hw : u.Quiet w := .ite (.refl u) (quiet_sendX ..)
    refine .ite (.refl s) (.ite ht (ht.trans (hu.trans (.ite ?_ (.ite (.ite ?_ ?_) (hw.trans (quiet_beginUpdate ..)))))))
    · refine .trans ?_ (quiet_noteStep _ im)
      exact .trans (quiet_updateReport u im b shard .contained) ⟨rfl, rfl, id, id⟩
    · exact ⟨rfl, rfl, id, id⟩
    · exact quiet_sendPodSum v ..)

theorem execShardUpdateDone_quiet (b shard blk : Nat) (dup : Dup) (ecc : Ecc) : Answers (execShardUpdateDone b shard blk dup ecc s) s.Quiet :=
  .next (by
  split
  · exact .refl s
  next im _ =>
    extract_lets step y fault idle blocks todo fast r differ t stop u silent v w
    have ht : s.Quiet t := .trans (quiet_updateRead ..) (quiet_foldl _ (fun x g => quiet_updateFault x im g) differ)
    have hu : t.Quiet u := ⟨rfl, rfl, id, id⟩
    have hv : u.Quiet v := quiet_foldl _ (fun x p => quiet_applyTo x im ..) _
    have hw : v.Quiet w := .ite (.refl v) (quiet_sendReturn ..)
    refine .ite (.refl s) (.trans (((ht.trans hu).trans hv).trans hw) (.trans ?_ (quiet_noteStep _ im)))
    exact ⟨rfl, rfl, id, id⟩)

theorem execTimeResp_quiet (port : Nat) (flit : List Byte) (fec : List Nat) : Answers (execTimeResp port flit fec s) s.Quiet := .onPort fun p => by
  refine .ite ?_ (.refl s)
  extract_lets t
  split
  · exact quiet_setLnk ..
  next o d _ =>
    extract_lets off u
    have ht : s.Quiet t := quiet_setLnk ..
    clear_value t off
    have hu : s.Quiet u := ht.trans (.trans (quiet_setLnk t _ _) (⟨rfl, rfl, id, id⟩ : Quiet _ (State.drawn _ 2)))
    clear_value u
    exact .ite (hu.trans (.trans (quiet_setTmr u _) (⟨rfl, rfl, id, id⟩ : Quiet _ (State.drawn _ 1)))) hu

theorem execPacketRoute_quiet (port : Nat) (vc : BitVec 3) (parity : Bool) : Answers (execPacketRoute port vc parity s) s.Quiet := .next (by
  refine .ite (.refl s) (.ite (quiet_report ..) (.ite (quiet_setLnk ..) (.ite ?_ (.refl s))))
  extract_lets r t
  split
  · split
    · exact .trans (quiet_setLnk ..) (quiet_complete ..)
    · exact quiet_setLnk ..
  · exact quiet_setLnk ..)

theorem execRecordFetchComplete_quiet (seq type : Nat) (busErr : Bool) (ecc : Ecc) :
    Answers (execRecordFetchComplete seq type busErr ecc s) s.Quiet := .intake fun im => by
  extract_lets c
  split
  · exact .refl s
  next f _ =>
    extract_lets span r
    have hr : s.Quiet r.1 := by
      unfold r
      split
      · exact quiet_readRecord ..
      · exact .refl s
    exact .ite (.refl s) (.ite (hr.trans (quiet_fieldDone ..)) (hr.trans (quiet_fieldDone ..)))

theorem execSampleEmit_quiet (residue : Bool) (ecc : Ecc) : Answers (execSampleEmit residue ecc s) s.Quiet := .intake fun im => by
  extract_lets r t
  have ht : s.Quiet t := ⟨rfl, rfl, id, id⟩
  clear_value t
  refine .ite (.refl s) ?_
  split
  · exact ht
  next k _ =>
    extract_lets going e u v
    have he : t.Quiet e.1 := by
      unfold e
      split
      · exact quiet_meetErrs ..
      · exact .refl t
    have hu : e.1.Quiet u := .ite (quiet_datapathFault ..) (.refl _)
    have hv : u.Quiet v := .ite (quiet_voidFetch ..) (.refl u)
    exact ht.trans (he.trans (hu.trans (hv.trans (.trans (quiet_setInp ..) (quiet_countUnbound ..)))))

end

section
open State
variable (s : State)

theorem execAccumulatingStore_quiet (i : Nat) (ecc : Ecc) : Answers (execAccumulatingStore i ecc s) s.Quiet := .next (by
  split
  next im c _ _ =>
    extract_lets turn r t upd u
    have ht : s.Quiet t := quiet_stepRead ..
    have hu : s.Quiet u := ht.trans ⟨rfl, rfl, id, id⟩
    clear_value u
    refine .ite ht (hu.trans (quiet_foldl _ (fun v g => ?_) _))
    exact .ite (quiet_accumulate ..) (quiet_park ..)
  · exact .refl s)

theorem execPacketDeliver_quiet : Answers (execPacketDeliver s) s.Quiet := .next (by
  split
  · exact .refl s
  next k rest _ =>
    extract_lets l t o
    have ht : s.Quiet t := quiet_setLnk ..
    clear_value t
    refine .ite (.refl s) (.ite ?_ (.ite (.ite ?_ ?_) (.ite ?_ ?_)))
    · exact ht.trans ⟨rfl, rfl, id, id⟩
    · exact ht.trans (quiet_badMsg t)
    · exact ht.trans (quiet_syncOp ..)
    · exact ht.trans ⟨rfl, rfl, id, HostWf.mailbox _ _⟩
    · exact ht.trans (quiet_badMsg t))

theorem execContrib_quiet (i : Nat) (ecc : Ecc) : Answers (execContrib i ecc s) s.Quiet := .onMail fun im m => by
  extract_lets t cur g key mine q y
  have ht : s.Quiet t := quiet_drop ..
  clear_value t q
  split
  · exact ht.trans (quiet_bad t)
  next q _ =>
    extract_lets
    exact .ite (ht.trans (quiet_bad t)) (.ite (ht.trans (quiet_lateFrom t _)) (ht.trans (quiet_land t ..)))
theorem execPodSum_quiet (i : Nat) (ecc : Ecc) : Answers (execPodSum i ecc s) s.Quiet := .onMail fun im m => by
  extract_lets t cur g key pod y
  have ht : s.Quiet t := quiet_drop ..
  clear_value t
  split
  · exact ht.trans (quiet_bad t)
  next q _ =>
    extract_lets
    exact .ite (ht.trans (quiet_bad t)) (.ite (ht.trans (quiet_lateFrom t _)) (ht.trans (quiet_land t ..)))

theorem execFetchData_quiet (i : Nat) : Answers (execFetchData i s) s.Quiet := .onMail fun im m => by
  extract_lets t
  have ht : s.Quiet t := quiet_drop ..
  clear_value t
  split
  · exact ht.trans (quiet_bad t)
  · exact .ite (ht.trans (quiet_bad t)) (ht.trans ⟨rfl, rfl, id, id⟩)

theorem execNorm_quiet (i : Nat) : Answers (execNorm i s) s.Quiet := .onMail fun im m => by
  extract_lets cur t v gx u
  have ht : s.Quiet t := quiet_drop ..
  have hu : s.Quiet u := ht.trans ⟨rfl, rfl, id, id⟩
  clear_value u
  refine .ite (ht.trans (quiet_bad t)) (.ite (.refl s) (.ite hu ?_))
  exact hu.trans (quiet_foldl _ (fun w y => quiet_beginUpdate w im y) _)

theorem execCompareRound_quiet (ecc : Ecc) : Answers (execCompareRound ecc s) s.Quiet := .next (by
  split
  · exact .refl s
  next im _ =>
    refine .ite (.trans ?_ (quiet_compareFrom _ im ..)) (.refl s)
    exact ⟨rfl, rfl, id, id⟩)

theorem execHeaderReadReturn_quiet (seq : Nat) (busErr : Bool) (ecc : Ecc) : Answers (execHeaderReadReturn seq busErr ecc s) s.Quiet :=
  .intake fun im => by
  extract_lets c r
  exact .ite (.refl s) (.trans (quiet_readRecord s ..) ⟨rfl, rfl, id, id⟩)

theorem execEngineTimeReport_quiet (seq us : Nat) : Answers (execEngineTimeReport seq us s) s.Quiet := .intake fun im => by
  extract_lets c x
  exact .ite (.refl s) (.ite (quiet_fieldDone ..) ⟨rfl, rfl, id, id⟩)

end

/-- A command outside these leaves the device state alone. -/
theorem exec_quiet {c : Instr} (hc : movesState c = false) (s : State) : Answers (exec c s) s.Quiet := by
  cases c <;> dsimp only [exec]
  case powerApplied | powerRemoval | perst | resetN | refclkStop | resetRelease | bootComplete | mgmtWatchdogExpiry | imageLoad
      | arm | disarm | run | drain | faultClear | warmReset | stepStart | stepEnd | fuseIntegrityCheck | tamper | debugIntrusion
      | faultRecordWrite | abandonComplete | tempSample | railSample | cglitch => cases hc
  case setEndpointId | firingStart | memoryDropReturn | descriptorLoadComplete | tileWatchdogExpiry | signal | take | frameRelease
      | bucketComplete | bucketDeadlinePass | podDeadlinePass | returnDeadlinePass | normDeadlinePass | tileFence => exact .next (by split <;> simp +contextual)
  case ctlHciHostWrite | sqTailDoorbell | cqHeadDoorbell | tilHaltWrite | armEpoch | cutoff | compareNow | portEnableWrite
      | timerEntryCtrlWrite | setNow | tmrStepWrite | servoSourceSelect | closeMb | flush | fltInject => exact .host (by simp +contextual)
  case wdtKick | wdtLock | i3cAddrAssign | heartbeatTimeout | lockstepMismatch | pllLockLoss | xferWaitTimeout | timerEntryDue
      | holdoverLimitExceeded => exact .next (by simp +contextual)
  case getEndpointId | getMctpVersionSupport | getMessageTypeSupport | getTid | getPldmVersion | getPldmTypes | getPldmCommands
      | getPdrRepositoryInfo | getPdr | getSensorReading | getStateSensorReadings | mgmtUnsupportedRequest => exact .answer ..
  case nop | identify | stepAbort | sample | mailSend | attest => exact .command fun _ => by simp +contextual
  case trainingPhaseComplete | trainingPhaseTimeout | capSend | linkFlitReceive | abort | resendTimerExpiry | idleFlitSend
      | creditFlitSend | timeReqSend | autoRetrain => exact .onPort fun _ => by simp +contextual
  case hifSqCfgWrite | hifCqCfgWrite | hifBar4BaseWrite | msixCoalesceTimeout | submit | pop | crcJobStart => exact .host (by simp +contextual)
  case sampleAccept | stagingReserve | engineAssign | fieldDecodeComplete => exact .intake fun _ => by split <;> simp +contextual
  case returnEnd | xferEnd => exact .onMail fun _ _ => by simp +contextual
  case cap | probe | nak | credit | timeReq => exact .onCtrl ..
  case bucketDeadline | digestCompare | timerSnapshot | placementSwitch | powerPolicy => exact .issue fun _ _ => .refl _
  case powerLoss | eccWriteBack | faultReport | p3v3AuxInWindow => exact .next (.refl _)
  case syncTake => exact .syncCmd fun _ _ => by simp +contextual
  case ctPulseEdge | ctRefLoss | pulseLoss | timeRespLoss => exact .ofSource (by simp +contextual)
  case laneSignalLoss | alignmentLoss | lockLoss => exact .laneFails ..
  case timerSignal | timerSet | stragglerCutoff => exact .issue fun _ _ => by simp +contextual
  case powerSample | droopTrip => exact .powered (by simp +contextual)
  case patrolScrubRead | scrubPassComplete => exact .scrubbing (by simp +contextual)
  case thermalThrottleStep | droopGateEnd => exact .powered (.refl _)
  case snapshot => exact .command fun _ => .refl _
  case crcJobComplete => exact .host (by split <;> simp +contextual)
  case bar4Read => exact execBar4Read_quiet ..
  case bar4Write => exact execBar4Write_quiet ..
  case sqEntryFetch => exact execSqEntryFetch_quiet ..
  case syncSignal => exact execSyncSignal_quiet ..
  case syncSet => exact execSyncSet_quiet ..
  case syncArm => exact execSyncArm_quiet ..
  case syncRead => exact execSyncRead_quiet ..
  case syncNotify => exact execSyncNotify_quiet ..
  case exportCmd => exact execExportCmd_quiet ..
  case importCmd => exact execImportCmd_quiet ..
  case mailRecv => exact execMailRecv_quiet ..
  case rollbackAdvance => exact execRollbackAdvance_quiet ..
  case d3hotTransition => exact execD3hotTransition_quiet ..
  case checksumVerdict => exact execChecksumVerdict_quiet ..
  case firingEnd => exact execFiringEnd_quiet ..
  case flitHop => exact execFlitHop_quiet ..
  case flitEject => exact execFlitEject_quiet ..
  case tileCreditMessage => exact execTileCreditMessage_quiet ..
  case swappedSlotLoad => exact execSwappedSlotLoad_quiet ..
  case stemEngineStart => exact execStemEngineStart_quiet ..
  case mbAdmission => exact execMbAdmission_quiet ..
  case restoreServe => exact execRestoreServe_quiet ..
  case parkedAccumulate => exact execParkedAccumulate_quiet ..
  case sweepComplete => exact execSweepComplete_quiet ..
  case normPart => exact execNormPart_quiet ..
  case returnMsg => exact execReturnMsg_quiet ..
  case fetch => exact execFetch_quiet ..
  case fetchEnd => exact execFetchEnd_quiet ..
  case stateXfer => exact execStateXfer_quiet ..
  case mbComplete => exact execMbComplete_quiet ..
  case rowSetSeal => exact execRowSetSeal_quiet ..
  case shardReduceDone => exact execShardReduceDone_quiet ..
  case shardUpdateDone => exact execShardUpdateDone_quiet ..
  case timeResp => exact execTimeResp_quiet ..
  case packetRoute => exact execPacketRoute_quiet ..
  case recordFetchComplete => exact execRecordFetchComplete_quiet ..
  case sampleEmit => exact execSampleEmit_quiet ..
  case accumulatingStore => exact execAccumulatingStore_quiet ..
  case packetDeliver => exact execPacketDeliver_quiet ..
  case contrib => exact execContrib_quiet ..
  case podSum => exact execPodSum_quiet ..
  case fetchData => exact execFetchData_quiet ..
  case norm => exact execNorm_quiet ..
  case compareRound => exact execCompareRound_quiet ..
  case headerReadReturn => exact execHeaderReadReturn_quiet ..
  case engineTimeReport => exact execEngineTimeReport_quiet ..
  case powerControlPeriod => exact .powered (.ite ⟨rfl, rfl, id, id⟩ ⟨rfl, rfl, id, id⟩)
  case provGo | provLock => exact .host ⟨rfl, rfl, id, id⟩
  all_goals exact .next (by (repeat' split) <;> simp +contextual)

end Sys2Proof.Machine
end

section
/-! SUPPORT. The commands that move the device state, and every step. -/

namespace Sys2Proof.Machine

section
open State
variable (s : State)

/-- A host command moves the state where it is legal and its effect does. -/
theorem State.moves_command {i op : Nat} {legal : Dev → Bool} {k : Entry → State} (h : ∀ e, legal s.ctl.state = true → s.Moves (k e)) :
    s.Moves (s.command i op legal k) := by
  unfold State.command
  split
  · exact (Quiet.refl s).moves
  · exact .ite (fun _ => (Quiet.refl s).moves) fun _ =>
      .ite (fun hl => h _ hl) fun _ => (quiet_finish { s with ctl := _ } ..).moves

/-- A command completes and moves the state. -/
theorem State.moves_finish_goto (i : Nat) (code : Code) {d : Dev} (h : s.ctl.state.turns d) : s.Moves ((s.finish i code).goto d) :=
  (quiet_finish ..).then (moves_goto _ (by rwa [(quiet_finish s i code 0 0 0 0).1]))

theorem execPowerApplied_moves : Answers (execPowerApplied s) s.Moves := .next (.ite (fun h => ⟨by rw [show s.ctl.state = .off from h]; exact .inr (by decide : (Dev.off, Dev.reset) ∈ Dev.moves), rfl, id, id⟩)
  fun _ => ⟨.inl rfl, rfl, id, id⟩)

theorem execResetN_moves (ns : Nat) : Answers (execResetN ns s) s.Moves := .next (by
  refine .ite (fun _ => moves_enterReset ..) fun _ => .ite (fun _ => (Quiet.refl s).moves) fun _ => ?_
  extract_lets t
  have ht : s.Quiet t := ⟨rfl, rfl, id, id⟩
  exact .ite (fun _ => ht.then (moves_enterReset ..)) fun _ => ht.moves)

theorem execRefclkStop_moves : Answers (execRefclkStop s) s.Moves := .next (by
  have ht : s.Quiet { s with pins := { s.pins with refclk := false } } := ⟨rfl, rfl, id, id⟩
  dsimp only
  split
  · exact ht.moves
  · exact ht.moves
  · exact ht.then (moves_alarm ..))

/-- A release leaves the device in RESET or passes BOOT's outcome. -/
theorem execResetRelease_moves : Answers (execResetRelease s) s.Moves := .next (by
  refine .ite (fun _ => (Quiet.refl s).moves) fun hs => ?_
  have hs : s.ctl.state = .reset := by simpa using hs
  extract_lets pins t m rst u code v
  have ht : s.Quiet t := ⟨rfl, rfl, id, id⟩
  have hu : t.Moves u := by
    unfold u
    split
    · exact (Quiet.refl t).moves
    · exact Quiet.then (⟨rfl, rfl, id, id⟩ : t.Quiet { t with rst := rst }) (moves_enterReset ..)
  have hu' : u.ctl.state = .reset := by
    unfold u
    split
    · exact hs
    · rw [enterReset_state]; simp [t, hs]
  have hv : u.Quiet v := .ite ⟨rfl, rfl, id, id⟩ (.refl u)
  clear_value u v
  refine .ite (fun _ => ht.then hu) fun _ => ?_
  have hb : v.Tidy (({ v with rst := { v.rst with active := 0 } } : State).goto .boot) := tidy_goto { v with rst := _ } _
  have hst : (({ v with rst := { v.rst with active := 0 } } : State).goto .boot).ctl.state = .boot := goto_state ..
  generalize ({ v with rst := { v.rst with active := 0 } } : State).goto .boot = w at hb hst
  refine ⟨?_, (ht.then hu).2.trans (hv.2.trans (hb.trans (tidy_boot w)))⟩
  rw [hs]
  obtain h | h | h := boot_state w hst <;> rw [h] <;> decide)

theorem execBootComplete_moves : Answers (execBootComplete s) s.Moves := .next (by
  refine .ite (fun _ => (Quiet.refl s).moves) fun h => ?_
  have hs : s.ctl.state = .boot := by
    cases hs : s.ctl.state <;> simp [hs] at h
    rfl
  extract_lets memr t
  have ht : s.Quiet t := .ite ⟨rfl, rfl, fun _ => (by decide : ({} : Mem).wf = true), id⟩ (.refl s)
  clear_value t
  refine ht.then (Quiet.then (⟨rfl, rfl, id, id⟩ : t.Quiet { t with rst := { t.rst with wdtRunning := true } }) (moves_goto _ ?_))
  rw [show t.ctl.state = .boot from ht.1.trans hs]
  decide)

theorem State.moves_loadFault (step : Nat) (h : s.ctl.state = .ready ∨ s.ctl.state = .loaded) : s.Moves (s.loadFault step) := by
  unfold loadFault
  extract_lets ld tmr adm fab memr t
  have ht : s.Quiet t := ⟨rfl, rfl, id, id⟩
  clear_value t
  have hq : s.Quiet ((t.samplesDone ld.2).report { cls := .load, sev := .contained, detail := step }) :=
    ht.trans (.trans (quiet_samplesDone ..) (quiet_report ..))
  refine hq.then (moves_goto _ ?_)
  rw [hq.1]
  obtain h | h := h <;> rw [h] <;> decide

/-- The store an image is staged in keeps the memory canonical. -/
theorem State.wf_stage (bs : List Byte) (h : s.mem.wf = true) : (s.stage bs).wf = true := Mem.wf_write _ h

theorem execImageLoad_moves (i : Nat) (readErr : Bool) (fault : Nat) (ecc : Ecc) : Answers (execImageLoad i readErr fault ecc s) s.Moves :=
  .next (moves_command s fun e hl => by
  have hs : s.ctl.state = .ready ∨ s.ctl.state = .loaded := by
    cases hs : s.ctl.state <;> simp [hs] at hl <;> simp
  have hfin : ∀ (t : State) code d r, s.Quiet t → s.Moves (t.finish i code d r) := fun t _ _ _ ht => (ht.trans (quiet_finish ..)).moves
  extract_lets r t bs v u ctl w gx y _ hif
  have ht : s.Quiet t := by
    unfold t r
    split
    · exact quiet_eccRead ..
    · exact .refl s
  have hu : t.Quiet u := ⟨rfl, rfl, t.wf_stage bs, id⟩
  have hw : s.Quiet w := (ht.trans hu).trans (.ite ⟨rfl, rfl, id, id⟩ (.refl u))
  clear_value w t u
  refine .ite (fun _ => hfin s _ _ _ (.refl s)) fun _ => .ite (fun _ => hfin s _ _ _ (.refl s)) fun _ => .ite (fun _ => hfin s _ _ _ (.refl s)) fun _ =>
    .ite (fun _ => hfin t _ _ _ ht) fun _ => ?_
  split
  next rej _ =>
    have hx : s.Quiet (w.rejected rej) := hw.trans (quiet_rejected ..)
    exact .ite (fun _ => hx.then (moves_alarm ..)) fun _ => hfin _ _ _ _ hx
  · refine .ite (fun _ => ?_) fun _ => ?_
    · have hf : s.Quiet (w.finish i .fault) := hw.trans (quiet_finish ..)
      exact hf.then (moves_loadFault _ _ (by rw [hf.1]; exact hs))
    · have hy : s.Quiet { y with hif := { hif with fetched := hif.fetched.eraseIdx i } } := hw.trans ⟨rfl, rfl, id, id⟩
      have hq := hy.trans (.trans (quiet_applyImage _ v.1) (quiet_complete _ e .success 0 0 0 0))
      refine hq.then (moves_goto _ ?_)
      rw [hq.1]
      obtain h | h := hs <;> rw [h] <;> decide)

theorem execArm_moves (i : Nat) : Answers (execArm i s) s.Moves := .next (moves_command s fun _ hl => .ite
  (fun _ => moves_finish_goto s i _ (by rw [eq_of_beq hl]; decide)) fun _ => (quiet_finish ..).moves)

theorem execDisarm_moves (i : Nat) : Answers (execDisarm i s) s.Moves := .next (moves_command s fun _ hl =>
  moves_finish_goto s i _ (by rw [eq_of_beq hl]; decide))

theorem execRun_moves (i : Nat) : Answers (execRun i s) s.Moves := .next (moves_command s fun _ hl =>
  .ite (fun _ => (quiet_finish ..).moves) fun _ => .ite (fun _ => (quiet_finish ..).moves) fun _ => by
  refine Quiet.then ?_ (moves_finish_goto _ i _ ?_)
  · exact ⟨rfl, rfl, id, id⟩
  · rw [show s.ctl.state = .armed from eq_of_beq hl]; decide)

theorem execDrain_moves (i : Nat) : Answers (execDrain i s) s.Moves := .next (moves_command s fun _ hl => by
  refine .ite (fun hs => .ite (fun _ => ?_) fun _ => ?_) fun _ => (quiet_finish ..).moves
  · exact moves_finish_goto s i _ (by rw [hs]; decide)
  · refine ⟨by rw [goto_state, hs]; decide, Tidy.trans (quiet_finish s i .success 0 0 0 0).2 (.trans (tidy_goto ..) (tidy_goto ..))⟩)

theorem execFaultClear_moves (i : Nat) : Answers (execFaultClear i s) s.Moves := .next (by
  refine .ite (fun _ => (Quiet.refl s).moves) fun _ => moves_command s fun _ hl => ?_
  have hs : s.ctl.state = .fault := eq_of_beq hl
  extract_lets t fab flt u
  have ht : s.Quiet t := by
    unfold t
    split
    · exact quiet_dropStep _ _ (by rw [hs]; rfl)
    · exact .refl s
    · exact quiet_abandonLost _ (by rw [hs]; rfl)
    · exact ⟨rfl, rfl, id, id⟩
  clear_value t
  have hu : s.Quiet u := ht.trans (.trans (⟨rfl, rfl, id, id⟩ : t.Quiet { t with fab := _, flt := _ }) (quiet_noteAll _))
  refine hu.then (moves_finish_goto _ i _ ?_)
  rw [hu.1, hs]
  split <;> decide)

theorem execWarmReset_moves (i : Nat) : Answers (execWarmReset i s) s.Moves := .next (moves_command s fun _ _ =>
  .ite (fun _ => (Quiet.refl s).moves) fun _ => (quiet_finish ..).then (moves_enterReset ..))

theorem execStepStart_moves : Answers (execStepStart s) s.Moves := .next (by
  split
  · exact (Quiet.refl s).moves
  next im _ =>
    extract_lets adm t
    refine .ite (fun _ => (Quiet.refl s).moves) fun h => ?_
    have hs : s.ctl.state = .stepping := by
      cases hs : s.ctl.state <;> simp [hs] at h
      rfl
    have ht : s.Quiet t := .ite (.trans (⟨rfl, rfl, id, id⟩ : s.Quiet { s with adm := _ }) (quiet_syncOp ..)) (.refl s)
    exact .ite (fun _ => moves_beginStep s im hs) fun _ =>
      .ite (fun _ => ht.then (moves_beginStep t im (ht.1.trans hs))) fun _ => ht.moves)

/-- A step that is over is a step that ran. -/
theorem State.stepping_of_stepOver (im : Image) (h : s.stepOver im = true) : s.stepping = true := by
  unfold stepOver at h
  simp only [Bool.and_eq_true] at h
  tauto

/-- Out of a running state the device turns to ARMED. -/
theorem Dev.turns_armed {d : Dev} (h : d.running = true) : d.turns .armed := by
  cases d <;> first | contradiction | decide

theorem execStepEnd_moves (ecc : Ecc) : Answers (execStepEnd ecc s) s.Moves := .next (by
  split
  · exact (Quiet.refl s).moves
  next im _ =>
    extract_lets step mem deferred ctl upd fab flt t u snap tmr gx v w x y
    have ht : s.Quiet t := ⟨rfl, rfl, fun h => Image.wf_writeReports im _ _ _ h, id⟩
    have hv : s.Quiet v := ht.trans (.trans (quiet_setTmr ..) ⟨rfl, rfl, id, id⟩)
    clear_value v
    have hx : s.Quiet x := hv.trans (.trans (quiet_engineRead ..)
      (.trans (quiet_writeStaged ..) (.trans (quiet_settleReturns ..) (quiet_sendState ..))))
    clear_value x
    have hy : s.Quiet y := hx.trans (quiet_recoverStep ..)
    clear_value y
    refine .ite (fun _ => (Quiet.refl s).moves) fun h => .ite (fun _ => hy.then (moves_goto _ ?_)) fun _ => hy.moves
    rw [hy.1]
    have hrun : s.ctl.state.running = true := (Bool.and_eq_true_iff.mp (stepping_of_stepOver s im (by simpa using h))).1
    exact Dev.turns_armed hrun)

theorem execFuseIntegrityCheck_moves (flips : List Nat) : Answers (execFuseIntegrityCheck flips s) s.Moves :=
  .next (.ite (fun _ => moves_alarm ..) fun _ => (Quiet.refl s).moves)

theorem execTamper_moves (ns : Nat) (held : Bool) : Answers (execTamper ns held s) s.Moves := .next (by
  have ht : s.Quiet { s with pins := { s.pins with tamperLow := held && decide (100 ≤ ns) } } := ⟨rfl, rfl, id, id⟩
  exact .ite (fun _ => ht.then (moves_alarm ..)) fun _ => ht.moves)

theorem execFaultRecordWrite_moves : Answers (execFaultRecordWrite s) s.Moves := .next (by
  split
  · exact (Quiet.refl s).moves
  next r rest _ =>
    extract_lets updating part r' wants seq flt t
    have ht : s.Quiet t := by
      unfold t
      refine .trans ?_ (quiet_faultEvent ..)
      exact ⟨rfl, rfl, id, id⟩
    clear_value t
    refine .ite (fun _ => (Quiet.refl s).moves) fun _ => ?_
    split
    · exact ht.moves
    · exact ht.then (moves_enterFault ..)
    · exact (ht.trans (.ite (quiet_abandon ..) (.refl t))).moves)

theorem execAbandonComplete_moves : Answers (execAbandonComplete s) s.Moves := .next (by
  refine .ite (fun _ => (Quiet.refl s).moves) fun _ => ?_
  split
  · exact moves_abandonDone ..
  · exact moves_abandonLost ..)

/-- A sample outside OFF moves the state as its effect does. -/
theorem Answers.powered_moves {f : State → State} (h : s.Moves (f s)) : Answers (s.powered f) s.Moves :=
  .next (.ite (fun _ => (Quiet.refl s).moves) fun _ => h)

theorem execTempSample_moves (sensor : BitVec 7) (valid : Bool) (t : BitVec 16) : Answers (execTempSample sensor valid t s) s.Moves :=
  .powered_moves s (by
  extract_lets k p u
  have hu : s.Quiet u := ⟨rfl, rfl, id, id⟩
  exact .ite (fun _ => (Quiet.refl s).moves) fun _ => .ite (fun _ => hu.then (moves_alarm ..)) fun _ =>
    .ite (fun _ => hu.then (moves_enterReset ..)) fun _ => hu.moves)

theorem execRailSample_moves (rail : BitVec 4) (mv : BitVec 16) : Answers (execRailSample rail mv s) s.Moves := .powered_moves s (by
  extract_lets r u
  have hu : s.Quiet u := ⟨rfl, rfl, id, id⟩
  exact .ite (fun _ => (Quiet.refl s).moves) fun _ => .ite (fun _ => hu.then (moves_alarm ..)) fun _ =>
    .ite (fun _ => (hu.trans (quiet_report ..)).moves) fun _ => hu.moves)

end

/-- Every command but the removal of power moves the state along the table, and tidily. -/
theorem exec_moves {c : Instr} (hc : c ≠ .powerRemoval) (s : State) : Answers (exec c s) s.Moves := by
  by_cases hm : movesState c = false
  · exact (exec_quiet hm s).imp fun _ h => h.moves
  cases c
  case powerRemoval => exact absurd rfl hc
  case powerApplied => exact execPowerApplied_moves s
  case perst ns => exact .next (.ite (fun _ => s.moves_enterReset _) fun _ => (State.Quiet.refl s).moves)
  case resetN ns => exact execResetN_moves s ns
  case refclkStop => exact execRefclkStop_moves s
  case resetRelease => exact execResetRelease_moves s
  case bootComplete => exact execBootComplete_moves s
  case mgmtWatchdogExpiry => exact .next (.ite (fun _ => s.moves_enterReset _) fun _ => (State.Quiet.refl s).moves)
  case imageLoad i r f e => exact execImageLoad_moves s i r f e
  case arm i => exact execArm_moves s i
  case disarm i => exact execDisarm_moves s i
  case run i => exact execRun_moves s i
  case drain i => exact execDrain_moves s i
  case faultClear i => exact execFaultClear_moves s i
  case warmReset i => exact execWarmReset_moves s i
  case stepStart => exact execStepStart_moves s
  case stepEnd e => exact execStepEnd_moves s e
  case fuseIntegrityCheck l => exact execFuseIntegrityCheck_moves s l
  case tamper ns h => exact execTamper_moves s ns h
  case debugIntrusion => exact .next (.ite (fun _ => s.moves_alarm _) fun _ => (State.Quiet.refl s).moves)
  case faultRecordWrite => exact execFaultRecordWrite_moves s
  case abandonComplete => exact execAbandonComplete_moves s
  case tempSample k v t => exact execTempSample_moves s k v t
  case railSample r mv => exact execRailSample_moves s r mv
  case cglitch => exact .next (.ite (fun _ => s.moves_alarm _) fun _ => (State.Quiet.refl s).moves)
  all_goals exact absurd rfl hm

/-- The removal of power puts the device in OFF, tidily. -/
theorem exec_powerRemoval (s : State) : Answers (exec .powerRemoval s) fun t => t.ctl.state = .off ∧ s.Tidy t :=
  .next ⟨rfl, rfl, fun _ => (by decide : ({} : Mem).wf = true), id⟩

/-! The queue, the memories, and what holds of every step -/

/-! What a read meets changes no byte -/

namespace State
variable (s : State)

@[simp] theorem report_bytes (r : Report) : (s.report r).mem.bytes = s.mem.bytes := by simp

@[simp] theorem uncorrected_bytes (k addr source : Nat) (a b inj : Bool) : (s.uncorrected k addr source a b inj).mem.bytes = s.mem.bytes := by
  unfold uncorrected; dsimp only; split <;> split <;> simp [Mem.setPoison]

@[simp] theorem meetErr_bytes (k addr : Nat) (hits : List Nat) (source : Nat) (a b inj : Bool) :
    (s.meetErr k addr hits source a b inj).1.mem.bytes = s.mem.bytes := by
  unfold meetErr; split
  · rfl
  · split <;> simp

@[simp] theorem meetErrs_bytes (us : List (Nat × List Nat)) (source : Nat) (a b : Bool) (via : Nat → Nat) (inj : Bool) :
    (s.meetErrs us source a b via inj).1.mem.bytes = s.mem.bytes :=
  foldl_keeps (f := fun (r : State × Bool) (u : Nat × List Nat) =>
      ((r.1.meetErr u.1 (via u.1) u.2 source a b inj).1, r.2 || (r.1.meetErr u.1 (via u.1) u.2 source a b inj).2)) (a := (s, false))
    (P := fun r : State × Bool => r.1.mem.bytes = s.mem.bytes) (fun _ _ h => (meetErr_bytes ..).trans h) us rfl

@[simp] theorem eccRead_bytes (ks : List Nat) (e : Ecc) (source : Nat) (a b : Bool) (via : Nat → Nat) (inject : Bool) :
    (s.eccRead ks e source a b via inject).1.mem.bytes = s.mem.bytes := by
  unfold eccRead; dsimp only
  split <;> split <;> simp only [meetErrs_bytes]

@[simp] theorem engineRead_bytes (im : Image) (ks : List Nat) (e : Ecc) : (s.engineRead im ks e).mem.bytes = s.mem.bytes := by
  unfold engineRead; split <;> simp

@[simp] theorem scanErrs_bytes (source : Nat) (via : Nat → Nat) (inj : Bool) (us : List (Nat × List Nat)) :
    (scanErrs source via inj us s).1.mem.bytes = s.mem.bytes := by
  induction us generalizing s with
  | nil => rfl
  | cons u us ih =>
    unfold scanErrs; dsimp only; split
    · exact meetErr_bytes ..
    · rw [ih, meetErr_bytes]

@[simp] theorem scanRead_bytes (ks : List Nat) (e : Ecc) (source : Nat) (via : Nat → Nat) :
    (s.scanRead ks e source via).1.mem.bytes = s.mem.bytes := by
  unfold scanRead; dsimp only; split <;> split <;> simp

@[simp] theorem crcEnd_bytes (j : CrcJob) (v : W64) (n : Nat) : (s.crcEnd j v n).mem.bytes = s.mem.bytes := by
  unfold crcEnd; split <;> simp

@[simp] theorem crcScan_bytes (j : CrcJob) (n : Nat) (e : Ecc) : (s.crcScan j n e).mem.bytes = s.mem.bytes := by
  unfold crcScan; dsimp only
  split
  · simp
  · split
    · simp
    · split <;> simp

@[simp] theorem crcCycle_bytes : s.crcCycle.mem.bytes = s.mem.bytes := by
  unfold crcCycle; split
  · rfl
  · dsimp only; split <;> simp

/-- Nothing that idles changes a byte of memory. -/
@[simp] theorem idle_bytes : (idle s).mem.bytes = s.mem.bytes := by
  unfold idle; split <;> simp

end State

/-- What a step answers: an idling state, or what the command at the front answers on the rest of the queue. -/
theorem step_cases {s t : State} (h : step s = .next t) :
    (s.pending = [] ∧ t = idle s) ∨ ∃ c r, s.pending = c :: r ∧ exec c { s with pending := r } = .next t := by
  unfold step at h
  split at h
  next hp => exact .inl ⟨hp, (Host.Outcome.next.inj h).symm⟩
  next c r hp => exact .inr ⟨c, r, hp, h⟩

/-- Every command answers a next state, tidily. -/
theorem exec_tidy (c : Instr) (s : State) : Answers (exec c s) s.Tidy := by
  by_cases hc : c = .powerRemoval
  · exact hc ▸ (exec_powerRemoval s).imp fun _ h => h.2
  · exact (exec_moves hc s).imp fun _ h => h.2

/-- Settles O3: idling and each command keep the canonical form, the commands by `exec_tidy`. -/
theorem stepKeepsMemoryCanonical : Obligations.StepKeepsMemoryCanonical := by
  intro s t ⟨hmem, hhost⟩ h
  obtain ⟨-, rfl⟩ | ⟨c, r, -, h⟩ := step_cases h
  · have hidle : s.Tidy (idle s) := (State.quiet_idle s).2
    exact ⟨hidle.2.1 hmem, hidle.2.2 hhost⟩
  · have ht := (exec_tidy c _).of_next h
    exact ⟨ht.2.1 hmem, ht.2.2 hhost⟩

/-- Settles O5: a quiet command keeps the device state, each of the others moves it along the table, and the removal of power turns it off. -/
theorem stateChangesAsTabled : Obligations.StateChangesAsTabled := by
  intro s t h
  obtain ⟨-, rfl⟩ | ⟨c, r, -, h⟩ := step_cases h
  · exact .inl (State.quiet_idle s).1
  · by_cases hc : c = .powerRemoval
    · exact .inr (.inl ((exec_powerRemoval _).of_next (hc ▸ h)).1)
    · exact ((exec_moves hc _).of_next h).1.imp id .inr

/-- ALARM turns to no other state of the table. -/
theorem Dev.turns_of_alarm {d : Dev} (h : Dev.alarm.turns d) : d = .alarm := by
  cases d <;> revert h <;> decide

/-- Settles O6: the table leads from ALARM nowhere, so only the removal of power leaves it. -/
theorem alarmLeftByPowerOnly : Obligations.AlarmLeftByPowerOnly := by
  intro c s t hs h
  by_cases hc : c = .powerRemoval
  · exact .inr ⟨((exec_powerRemoval s).of_next (hc ▸ h)).1, hc⟩
  · have hmove : s.ctl.state.turns t.ctl.state := ((exec_moves hc s).of_next h).1
    exact .inl ⟨Dev.turns_of_alarm (hs ▸ hmove), hc⟩

/-- Settles O2: every command answers a next state, by `exec_tidy`, whose queue is the same. -/
theorem commandsAnswerAndKeepQueue : Obligations.CommandsAnswerAndKeepQueue := by
  intro c s
  obtain ⟨t, ht, hp, -⟩ := exec_tidy c s
  exact ⟨t, ht, hp⟩

/-- A cycle without a running check-value scan advances the time bases and nothing else. -/
theorem idle_of_not_scanning {s : State} (hs : s.ctl.state ≠ .off) (hr : s.memr.running = none) : idle s = { s with
    tmr := s.tmr.cycle, lnk := s.lnk.cycle
    rst := { s.rst with wdtElapsed := if s.rst.wdtRunning then s.rst.wdtElapsed + 8 else s.rst.wdtElapsed } } := by
  unfold idle State.crcCycle
  rw [if_neg hs]
  simp only [hr]
  split <;> rfl

/-- Settles O1: a step is the front command on the rest of the queue, or a cycle of the time base. -/
theorem stepRunsFrontOrIdles : Obligations.StepRunsFrontOrIdles := by
  refine ⟨fun c s => rfl, fun s hp => ⟨idle s, by unfold step; rw [hp], (State.quiet_idle s).2.1.trans hp, fun k => ?_, fun h => ?_, idle_of_not_scanning⟩⟩
  · rw [Mem.byte, State.idle_bytes, ← Mem.byte]
  · unfold idle; rw [if_pos h]

/-- Settles O4: the memories of the initial state hold no entry. -/
theorem resetMemoryZero : Obligations.ResetMemoryZero :=
  ⟨⟨rfl, rfl⟩, fun _ => ⟨rfl, rfl⟩⟩

end Sys2Proof.Machine
end

section
/-! SUPPORT. Supplies, resets and the management path. -/

namespace Sys2Proof.Machine

/-- Settles O7: each meaning as it is written. -/
theorem powerInputsAndRemoval : Obligations.PowerInputsAndRemoval := by
  refine ⟨⟨fun s => ⟨fun h => ?_, fun h => ?_⟩, fun s => ⟨rfl, rfl⟩⟩, fun s => ⟨_, rfl, ?_⟩⟩
  · exact congrArg Host.Outcome.next (if_pos h)
  · exact congrArg Host.Outcome.next (if_neg h)
  · and_intros <;> rfl

/-! Entry to RESET -/

/-- Outside a block under update nothing is torn. -/
theorem State.tear_of_midBlock_none {s : State} (h : s.midBlock = none) : s.tear = s := by
  unfold State.tear
  rw [h]
  cases s.img <;> rfl

/-- The state as a reset finds it: an interrupted update torn, the cause and the active sources noted, COOL_REQ held. -/
def State.underReset (s : State) (m act : BitVec 7) : State :=
  { s.tear with rst := { s.rst with cause := s.rst.cause ||| m, active := act }, pins := { s.pins with coolHeld := s.coolReq } }

/-- A reset source in a state that takes it, with REFCLK running. -/
theorem State.enterReset_of_running {s : State} {m : BitVec 7} (hoff : s.ctl.state ≠ .off) (halarm : s.ctl.state ≠ .alarm)
    (href : s.pins.refclk = true) : s.enterReset m = (s.underReset m ((if s.ctl.state = .reset then s.rst.active else 0) ||| m)).clearFor := by
  unfold State.enterReset State.underReset
  split
  · contradiction
  · contradiction
  · simp [href]

/-- A cold source clears what a cold reset clears. -/
theorem State.enterReset_cold {s : State} {m : BitVec 7} (hoff : s.ctl.state ≠ .off) (halarm : s.ctl.state ≠ .alarm)
    (href : s.pins.refclk = true) (hm : ∀ a : BitVec 7, (a ||| m) &&& coldMask ≠ 0) :
    s.enterReset m = (s.underReset m ((if s.ctl.state = .reset then s.rst.active else 0) ||| m)).clearCold := by
  rw [State.enterReset_of_running hoff halarm href]
  exact if_neg (hm _)

/-- A warm source outside RESET clears what a warm reset clears. -/
theorem State.enterReset_warm {s : State} {m : BitVec 7} (hoff : s.ctl.state ≠ .off) (halarm : s.ctl.state ≠ .alarm)
    (hreset : s.ctl.state ≠ .reset) (href : s.pins.refclk = true) (hm : m &&& coldMask = 0) :
    s.enterReset m = (s.underReset m m).clearWarm := by
  rw [State.enterReset_of_running hoff halarm href, if_neg hreset, show 0 ||| m = m from BitVec.zero_or]
  exact if_pos hm

/-- In ALARM, and in OFF with REFCLK running or without the auxiliary supply, no reset source acts. -/
theorem State.enterReset_ignored {s : State} {m : BitVec 7}
    (h : s.ctl.state = .alarm ∨ (s.ctl.state = .off ∧ (s.pins.refclk = true ∨ s.pins.p3v3 = false))) : s.enterReset m = s := by
  unfold State.enterReset
  obtain h | ⟨h, hp⟩ := h
  · rw [h]
  · rw [h]
    refine if_neg ?_
    obtain hp | hp := hp <;> simp [hp]

/-- While REFCLK does not run a reset source is latched. -/
theorem State.enterReset_latched {s : State} {m : BitVec 7} (halarm : s.ctl.state ≠ .alarm) (href : s.pins.refclk = false)
    (hoff : s.ctl.state = .off → s.pins.p3v3 = true) : s.enterReset m = { s with rst := { s.rst with latched := s.rst.latched ||| m } } := by
  unfold State.enterReset
  split
  · contradiction
  next h => simp [href, hoff h, State.latchSource]
  · simp [href, State.latchSource]

/-- What a cold reset leaves. -/
theorem State.enterReset_cold_fields {s : State} {m : BitVec 7} (hoff : s.ctl.state ≠ .off) (halarm : s.ctl.state ≠ .alarm)
    (href : s.pins.refclk = true) (hm : ∀ a : BitVec 7, (a ||| m) &&& coldMask ≠ 0) (hbit : ∀ a : BitVec 7, (a ||| m) &&& m = m) :
    let v := s.enterReset m
    v.ctl = { state := .reset } ∧ v.rst.cause = s.rst.cause ||| m ∧
      v.rst.active &&& m = m ∧ v.rst.cold = true ∧ v.img = none ∧ v.tmr = {} ∧ v.flt = {} ∧ v.memr = {} ∧ v.gx = {} ∧ v.inp = {} ∧
      v.adm = {} ∧ v.sync = {} ∧ v.fab = {} ∧ v.hif = { mem := s.hif.mem, holes := s.hif.holes, out := s.hif.out } ∧ v.lnk = { out := s.lnk.out } ∧
      v.sec.fuses = s.sec.fuses ∧ v.sec.verified = false ∧ v.flash = s.flash ∧ v.pins = { s.pins with coolHeld := s.coolReq } ∧
      v.pwr = { res := s.pwr.res } ∧ (s.midBlock = none → v.mem = s.mem) := by
  intro v
  have hv : v = _ := State.enterReset_cold hoff halarm href hm
  clear_value v
  subst hv
  refine ⟨rfl, rfl, hbit _, rfl, rfl, rfl, rfl, rfl, rfl, rfl, rfl, rfl, rfl, ?_, ?_, ?_, rfl, ?_, rfl, ?_, fun hb => ?_⟩
  · simp [State.clearCold, State.underReset]
  · simp [State.clearCold, State.underReset]
  · simp [State.underReset]
  · simp [State.underReset]
  · simp [State.clearCold, State.underReset]
  · simp [State.underReset, State.tear_of_midBlock_none hb]

/-- A pulse of RESET_N between its bounds is ignored or applied, as a free value tells. -/
theorem exec_resetN_between (s : State) {ns : Nat} (hlo : 100 < ns) (hhi : ns < 1000) :
    exec (.resetN ns) s = .next { s with free := s.free + 1 } ∨ exec (.resetN ns) s = exec (.resetN 1000) { s with free := s.free + 1 } := by
  have hval : ∀ t, exec (.resetN 1000) t = .next (t.enterReset Source.resetN.mask) := fun t => rfl
  show execResetN ns s = _ ∨ execResetN ns s = _
  rw [hval]
  unfold execResetN
  rw [if_neg (by omega), if_neg (by omega)]
  dsimp only
  split
  · exact .inr rfl
  · exact .inl rfl

theorem exec_perst_of_ge (s : State) {ns : Nat} (h : 100 ≤ ns) : exec (.perst ns) s = .next (s.enterReset 2) := by
  show execPerst ns s = _
  unfold execPerst
  rw [if_pos h]
  rfl

theorem exec_resetN_of_ge (s : State) {ns : Nat} (h : 1000 ≤ ns) : exec (.resetN ns) s = .next (s.enterReset 4) := by
  show execResetN ns s = _
  unfold execResetN
  rw [if_pos h]
  rfl

/-- REFCLK stopping where it must run is an alarm source. -/
theorem exec_refclkStop_of_on {s : State} (hoff : s.ctl.state ≠ .off) (hreset : s.ctl.state ≠ .reset) :
    exec .refclkStop s = .next (({ s with pins := { s.pins with refclk := false } } : State).alarm .cglitch) := by
  show execRefclkStop s = _
  unfold execRefclkStop
  dsimp only
  split
  · contradiction
  · contradiction
  · rfl

/-- An alarm leaves the clock input alone. -/
theorem State.alarm_keeps_refclk (s : State) (a : AlarmSrc) : (s.alarm a).pins.refclk = s.pins.refclk := by
  unfold State.alarm
  split <;> simp

/-- Settles O8: long pulses enter RESET by `State.enterReset_cold_fields` or are latched, short ones do nothing, and REFCLK stopping where it must
run is the alarm source CGLITCH. -/
theorem resetPinsAndRefclk : Obligations.ResetPinsAndRefclk := by
  refine ⟨fun s ns hoff halarm href => ⟨fun h => ⟨_, exec_perst_of_ge s h, ?_⟩, fun h => ⟨_, exec_resetN_of_ge s h, ?_⟩⟩,
    fun s ns => ⟨fun h => ?_, fun h => ?_, exec_resetN_between s, fun hs => ⟨fun h => ?_, fun h => ?_⟩,
      fun halarm href hoff => ⟨fun h => ?_, fun h => ?_⟩⟩, fun s => ⟨fun hs => ?_, fun ⟨hoff, hreset⟩ => ?_⟩⟩
  · exact State.enterReset_cold_fields hoff halarm href (by decide) (by decide)
  · exact State.enterReset_cold_fields hoff halarm href (by decide) (by decide)
  · exact congrArg Host.Outcome.next (if_neg (by omega))
  · show execResetN ns s = _
    unfold execResetN
    rw [if_neg (by omega), if_pos h]
  · rw [exec_perst_of_ge s h, State.enterReset_ignored hs]
  · rw [exec_resetN_of_ge s h, State.enterReset_ignored hs]
  · rw [exec_perst_of_ge s h, State.enterReset_latched halarm href hoff]
  · rw [exec_resetN_of_ge s h, State.enterReset_latched halarm href hoff]
  · show execRefclkStop s = _
    unfold execRefclkStop
    obtain hs | hs := hs <;> rw [hs]
  · have href := exec_refclkStop_of_on hoff hreset
    refine ⟨_, href, ?_, (State.alarm_noted _ ?_).1, (State.alarm_keeps_refclk ..), ?_⟩
    · rw [State.alarm_state]
      exact if_neg hoff
    · exact hoff
    · exact (State.alarm_keeps ..).2.2.1

/-! The end of BOOT -/

/-- A list of eight, put in turn, reads as put. -/
theorem Sparse.at_foldl_put_range {α : Type} [Inhabited α] [DecidableEq α] (f : Nat → α) (n : Nat) {i : Nat} (h : i < n) :
    ((List.range n).foldl (fun (t : Sparse α) i => t.put i (f i)) []).at i = f i := by
  induction n with
  | zero => omega
  | succ n ih =>
    rw [List.range_succ, List.foldl_append, List.foldl_cons, List.foldl_nil, Sparse.at_put]
    split
    · next hi => rw [hi]
    · exact ih (by omega)

/-- A move to another state notes the one before, and touches nothing else but the HIF block. -/
theorem State.goto_eq (s : State) {d : Dev} (h : s.ctl.state ≠ d) : s.goto d = { s with ctl := s.ctl.goto d, hif := (s.goto d).hif } := by
  unfold State.goto State.event
  rw [if_neg h]
  dsimp only
  split
  · split <;> rfl
  · rfl

/-- The MEM block as the end of a cold boot leaves it. -/
def MemRegs.trained (x : MemRegs) : MemRegs :=
  { x with initBusy := false, ddr := (List.range 8).foldl (fun t i => t.put i (trainCh (Config.dimm i))) []
           ddr5600 := (List.range 8).any fun i => (trainCh (Config.dimm i)).present && decide ((Config.dimm i).speed < 6400) }

theorem MemRegs.trained_ddr (x : MemRegs) {i : Nat} (h : i < 8) : x.trained.ddr.at i = trainCh (Config.dimm i) :=
  Sparse.at_foldl_put_range (fun i => trainCh (Config.dimm i)) 8 h

theorem MemRegs.trained_ddr5600 (x : MemRegs) :
    x.trained.ddr5600 = true ↔ ∃ i < 8, (trainCh (Config.dimm i)).present = true ∧ (Config.dimm i).speed < 6400 := by
  simp [MemRegs.trained]

/-- The end of BOOT. -/
theorem exec_bootComplete {s : State} (h : s.ctl.state = .boot) (hv : s.sec.verified = true) :
    exec .bootComplete s = .next (({ s with
      mem := if s.rst.cold then {} else s.mem, memr := if s.rst.cold then s.memr.trained else s.memr
      rst := { s.rst with wdtRunning := true } } : State).goto .ready) := by
  show execBootComplete s = _
  unfold execBootComplete
  rw [if_neg (by simp [h, hv])]
  cases s.rst.cold <;> rfl

/-- Settles O10: the end of BOOT by `exec_bootComplete`, the channels by `Sparse.at_foldl_put_range`. -/
theorem bootCompleteReadies : Obligations.BootCompleteReadies := by
  intro s h
  refine ⟨fun hv => ⟨_, exec_bootComplete h hv, State.goto_state .., ?_, fun hc => ?_, fun hc => ?_, ?_⟩, fun hv => ?_⟩
  · rw [State.goto_eq _ (by simp [h])]
    simp [Ctl.goto, h]
  · simp only [hc, if_true, State.goto_keeps]
    exact ⟨trivial, rfl, fun i hi => s.memr.trained_ddr hi, s.memr.trained_ddr5600⟩
  · simp [hc]
  · rw [State.goto_eq _ (by simp [h])]
  · show execBootComplete s = _
    unfold execBootComplete
    rw [if_pos (by simp [hv])]

/-! The management path -/

/-- An answer on the management path outside OFF. -/
theorem State.answer_of_on {s : State} (layer command : Nat) (bytes : List Nat) (h : s.ctl.state ≠ .off) :
    s.answer layer command bytes = .next { s with mgmt := { s.mgmt with out := s.mgmt.out ++ [{
      addr := (match s.mgmt.i3c with | some x => x.toNat | none => 0x4C + (15 - s.rst.code.toNat) % 4)
      layer := layer, command := command, bytes := bytes }] } } := by
  have haddr : s.mgmtAddr = match s.mgmt.i3c with | some x => x.toNat | none => 0x4C + (15 - s.rst.code.toNat) % 4 := by
    unfold State.mgmtAddr strapField
    cases s.mgmt.i3c <;> simp
  unfold State.answer
  rw [if_neg h, haddr]

/-- In OFF nothing answers. -/
theorem State.answer_of_off {s : State} (layer command : Nat) (bytes : List Nat) (h : s.ctl.state = .off) :
    s.answer layer command bytes = .next s := by
  unfold State.answer
  rw [if_pos h]

/-- The sensors: 77 temperatures, 13 rails, module power, and nothing behind them. -/
theorem State.sensor_temp (s : State) {n : Nat} (h : n < 77) :
    s.sensor n = [if (s.pwr.temp.at n).valid then 1 else 0, (s.pwr.temp.at n).temp.toNat] := by
  simp [State.sensor, h]

theorem State.sensor_rail (s : State) {n : Nat} (hlo : 77 ≤ n) (hhi : n < 90) : s.sensor n = [1, (s.pwr.rail.at (n - 77)).mv.toNat] := by
  simp [State.sensor, hhi, Nat.not_lt.mpr hlo]

theorem State.sensor_none (s : State) {n : Nat} (h : 90 < n) : s.sensor n = [0, 0] := by
  simp [State.sensor, show ¬ n < 77 by omega, show ¬ n < 90 by omega, show n ≠ 90 by omega]

/-- An endpoint id is kept, and told in the answer. -/
theorem exec_setEndpointId_of_on {s : State} (e : BitVec 8) (h : s.ctl.state ≠ .off) :
    exec (.setEndpointId e) s = .next { s with
        mgmt := { s.mgmt with eid := e, out := s.mgmt.out ++ [{ addr := s.mgmtAddr, layer := 0, command := 1, bytes := [0, e.toNat] }] } } := by
  show execSetEndpointId e s = _
  unfold execSetEndpointId State.answer
  simp only [h, if_false]
  rfl

theorem exec_setEndpointId_of_off {s : State} (e : BitVec 8) (h : s.ctl.state = .off) : exec (.setEndpointId e) s = .next s := by
  show execSetEndpointId e s = _
  unfold execSetEndpointId State.answer
  simp only [h, if_true]

/-- Settles O12: every request is `State.answer` with its own bytes. -/
theorem managementPath : Obligations.ManagementPath := by
  refine ⟨fun s n a b hon => ?_, fun s a e => ⟨fun hon => ⟨?_, ?_⟩, fun hoff => ⟨?_, ?_, ?_⟩⟩⟩
  · have hall := fun l c bs => State.answer_of_on (s := s) l c bs hon
    intro tells
    refine ⟨hall .., hall .., hall .., hall .., hall .., hall .., hall .., hall .., fun hn => ?_, fun hn => ?_, fun hn => ?_, fun hlo hhi => ?_,
      ?_, fun hn => ?_, hall .., hall ..⟩
    · exact (congrArg (s.answer 2 0x51) (if_pos hn)).trans (hall ..)
    · exact (congrArg (s.answer 2 0x51) (if_neg (by omega))).trans (hall ..)
    · exact (congrArg (s.answer 2 0x11) (s.sensor_temp hn)).trans (hall ..)
    · exact (congrArg (s.answer 2 0x11) (s.sensor_rail hlo hhi)).trans (hall ..)
    · exact hall ..
    · exact (congrArg (s.answer 2 0x11) (s.sensor_none hn)).trans (hall ..)
  · exact congrArg Host.Outcome.next (if_neg hon)
  · exact exec_setEndpointId_of_on e hon
  · exact congrArg Host.Outcome.next (if_pos hoff)
  · exact exec_setEndpointId_of_off e hoff
  · exact State.answer_of_off _ _ _ hoff

/-! The release of a reset -/

/-- A cold reset samples CFG_STRAP. -/
def State.strapped (s : State) : State := if s.rst.cold then { s with rst := { s.rst with code := s.pins.strap } } else s

/-- The release of a reset once the latched sources are applied: it waits for the sensors and both inputs, then boots. -/
def State.released (s : State) : State :=
  if s.thermHold || !s.pins.p3v3 || !s.pins.p54v then s else
  (({ s.strapped with rst := { s.strapped.rst with active := 0 } } : State).goto .boot).boot

/-- The state with REFCLK running again. -/
def State.clocked (s : State) : State := { s with pins := { s.pins with refclk := true } }

theorem exec_resetRelease_of_none {s : State} (hs : s.ctl.state = .reset) (hl : s.rst.latched = 0) :
    exec .resetRelease s = .next s.clocked.released := by
  have h : execResetRelease s = .next (if s.ctl.state ≠ .reset then s else
      (if s.rst.latched = 0 then s.clocked else ({ s.clocked with rst := { s.rst with latched := 0 } } : State).enterReset s.rst.latched).released) := rfl
  show execResetRelease s = _
  rw [h, if_neg (by simp [hs]), if_pos hl]

/-- A source latched while REFCLK was stopped is applied first. -/
theorem exec_resetRelease_of_latched {s : State} (hs : s.ctl.state = .reset) (hl : s.rst.latched ≠ 0) :
    exec .resetRelease s = .next (({ s.clocked with rst := { s.rst with latched := 0 } } : State).enterReset s.rst.latched).released := by
  have h : execResetRelease s = .next (if s.ctl.state ≠ .reset then s else
      (if s.rst.latched = 0 then s.clocked else ({ s.clocked with rst := { s.rst with latched := 0 } } : State).enterReset s.rst.latched).released) := rfl
  show execResetRelease s = _
  rw [h, if_neg (by simp [hs]), if_neg hl]

theorem State.clocked_of_running {s : State} (h : s.pins.refclk = true) : s.clocked = s := by
  unfold State.clocked
  rw [← h]

/-- The state BOOT begins in: no source active, CFG_STRAP sampled at a cold reset. -/
def State.atBoot (s : State) : State :=
  { s with ctl := s.ctl.goto .boot, rst := { s.rst with active := 0, code := if s.rst.cold then s.pins.strap else s.rst.code } }

/-- Without a hold and with both inputs in window the release boots. -/
theorem State.released_of_ready {s : State} (hs : s.ctl.state = .reset) (hheld : s.thermHold = false) (haux : s.pins.p3v3 = true)
    (hmain : s.pins.p54v = true) : s.released = s.atBoot.boot := by
  have hgo : ∀ x : State, x.ctl.state = .reset → x.goto .boot = { x with ctl := x.ctl.goto .boot } := fun x hx => by
    unfold State.goto
    rw [if_neg (by simp [hx])]
    rfl
  refine (if_neg (by simp [hheld, haux, hmain])).trans (congrArg State.boot ?_)
  refine (hgo _ (by unfold State.strapped; split <;> exact hs)).trans ?_
  unfold State.atBoot State.strapped
  cases s.rst.cold <;> rfl

theorem State.released_of_waiting {s : State} (h : s.thermHold = true ∨ s.pins.p3v3 = false ∨ s.pins.p54v = false) : s.released = s :=
  if_pos (by simpa [or_assoc] using h)

/-- Alarm sources one after the other are all recorded. -/
theorem State.foldl_alarm_sources {l : List AlarmSrc} {s : State} (h : s.ctl.state ≠ .off) {a : AlarmSrc}
    (ha : a ∈ l ∨ s.sec.sources.getLsbD a.code = true) : (l.foldl State.alarm s).sec.sources.getLsbD a.code = true := by
  induction l generalizing s with
  | nil => simpa using ha
  | cons b l ih =>
    refine ih ?_ ?_
    · rw [State.alarm_state, if_neg h]
      decide
    · rw [(State.alarm_noted b h).1]
      have hbit : (BitVec.ofNat 7 (2 ^ a.code)).getLsbD a.code = true := by cases a <;> decide
      obtain ha | ha := ha
      · obtain rfl | ha := List.mem_cons.mp ha
        · exact .inr (by rw [BitVec.getLsbD_or, hbit, Bool.or_true])
        · exact .inl ha
      · exact .inr (by rw [BitVec.getLsbD_or, ha, Bool.true_or])

/-- Without an image an alarm tears nothing. -/
theorem State.alarm_of_no_image {s : State} (a : AlarmSrc) (h : s.img = none) : (s.alarm a).img = none ∧ (s.alarm a).mem = s.mem := by
  have ht : s.tear = s := by unfold State.tear; rw [h]
  unfold State.alarm
  split
  · exact ⟨h, rfl⟩
  · exact ⟨h, rfl⟩
  · rw [ht]; exact ⟨h, rfl⟩

theorem State.foldl_alarm_mem {l : List AlarmSrc} {s : State} (h : s.img = none) : (l.foldl State.alarm s).mem = s.mem :=
  (foldl_keeps (P := fun t : State => t.img = none ∧ t.mem = s.mem)
    (fun _ a ht => ⟨(State.alarm_of_no_image a ht.1).1, (State.alarm_of_no_image a ht.1).2.trans ht.2⟩) l ⟨h, rfl⟩).2

/-- An alarm touches of the reset registers only the cause. -/
theorem State.alarm_rst (s : State) (a : AlarmSrc) :
    (s.alarm a).rst.active = s.rst.active ∧ (s.alarm a).rst.code = s.rst.code ∧ (s.alarm a).pins.refclk = s.pins.refclk := by
  unfold State.alarm
  split <;> simp

theorem State.foldl_alarm_rst (l : List AlarmSrc) (s : State) : (l.foldl State.alarm s).rst.active = s.rst.active ∧
    (l.foldl State.alarm s).rst.code = s.rst.code ∧ (l.foldl State.alarm s).pins.refclk = s.pins.refclk :=
  foldl_keeps (P := fun t : State => t.rst.active = s.rst.active ∧ t.rst.code = s.rst.code ∧ t.pins.refclk = s.pins.refclk)
    (fun _ _ ht => by simpa [State.alarm_rst] using ht) l ⟨rfl, rfl, rfl⟩

/-! The boot, by what its first step finds -/

section
variable {s : State}

/-- The state once step 1 has read the fuses. -/
def State.fusesRead (s : State) : State := { s with sec := { s.sec with held := s.sec.fuses } }

theorem State.boot_of_retired (h : retired s.sec.fuses = true) :
    s.boot = ({ s with sec := { s.fusesRead.sec.setFuses ((List.range 288).map (· + idSeedLo)) with bootErr := 7 } } : State).goto .fault := if_pos h

theorem State.boot_of_sources (hr : retired s.sec.fuses = false) (ha : s.fusesRead.activeSources ≠ []) :
    s.boot = s.fusesRead.activeSources.foldl State.alarm s.fusesRead := by
  unfold State.boot
  rw [if_neg (by simp [hr])]
  exact if_pos (by simpa [State.fusesRead] using ha)

theorem State.boot_of_failed (hr : retired s.sec.fuses = false) (ha : s.fusesRead.activeSources = []) (hc : s.fusesRead.bootCheck ≠ 0) :
    s.boot = ({ s with sec := { s.fusesRead.sec with bootErr := BitVec.ofNat 4 s.fusesRead.bootCheck } } : State).goto .fault := by
  unfold State.boot
  rw [if_neg (by simp [hr])]
  exact (if_neg (by simpa [State.fusesRead] using ha)).trans (if_pos hc)

theorem State.boot_of_passed (hr : retired s.sec.fuses = false) (ha : s.fusesRead.activeSources = []) (hc : s.fusesRead.bootCheck = 0) :
    s.boot = { s.fusesRead with
      sec := { s.fusesRead.sec with verified := true, idKeyReady := true, fwVersion := BitVec.ofNat 32 (s.fwField 4 4)
                                    fwSvn := BitVec.ofNat 32 (s.fwField 8 4), fwDigest := s.fwBytes 0x40 64 }
      rst := { s.rst with wdtRunning := true, wdtElapsed := 0 } } := by
  unfold State.boot
  rw [if_neg (by simp [hr])]
  exact (if_neg (by simpa [State.fusesRead] using ha)).trans (if_neg (by simpa [State.fusesRead] using hc))

/-- A failing fuse check is a source active at the end of step 1. -/
theorem State.fuse_mem_activeSources (h : fuseFails s.sec.held s.sec.fuses = true) : AlarmSrc.fuse ∈ s.activeSources := by
  simp [State.activeSources, h]

/-- The codes of BOOT_ERR that a check can give. -/
theorem State.bootCheck_le (s : State) : s.bootCheck ≤ 6 := by
  unfold State.bootCheck
  extract_lets key sig kb
  repeat' split
  all_goals omega

/-- What every boot leaves of the reset registers and the memory. -/
theorem State.boot_keeps (s : State) : s.boot.pins.refclk = s.pins.refclk ∧ s.boot.rst.active = s.rst.active ∧ s.boot.rst.code = s.rst.code ∧
    (s.img = none → s.boot.mem = s.mem) := by
  unfold State.boot
  extract_lets sec t e
  split
  · simp [t]
  · split
    · have h := State.foldl_alarm_rst t.activeSources t
      exact ⟨h.2.2, h.1, h.2.1, fun hi => State.foldl_alarm_mem (s := t) hi⟩
    · split
      · simp [t]
      · exact ⟨rfl, rfl, rfl, fun _ => rfl⟩

end

/-- The state a release starts from when sources were latched: RESET entered from them. -/
def State.underRelease (s : State) : State :=
  ({ s with pins := { s.pins with refclk := true }, rst := { s.rst with latched := 0 } } : State).enterReset s.rst.latched

/-- A source latched while REFCLK was stopped is applied first, and the release goes on from there. -/
theorem exec_resetRelease_latched {s : State} (hs : s.ctl.state = .reset) (hl : s.rst.latched ≠ 0) :
    exec .resetRelease s = exec .resetRelease
      (({ s with pins := { s.pins with refclk := true }, rst := { s.rst with latched := 0 } } : State).enterReset s.rst.latched) := by
  have hreset : (s.underRelease).ctl.state = .reset := by
    rw [State.underRelease, State.enterReset_of_running] <;> simp [hs]
  have hclock : s.underRelease.pins.refclk = true := by
    rw [State.underRelease, State.enterReset_of_running] <;> simp [hs, State.underReset]
  have hlatch : s.underRelease.rst.latched = 0 := by
    rw [State.underRelease, State.enterReset_of_running] <;> simp [hs, State.underReset]
  have h := exec_resetRelease_of_none hreset hlatch
  rw [State.clocked_of_running hclock] at h
  exact (exec_resetRelease_of_latched hs hl).trans h.symm

/-- Settles O9: the release by `State.released_of_ready`, and the boot by what its first step finds. -/
theorem releaseBoots : Obligations.ReleaseBoots := by
  refine ⟨fun s hs hheld hlatched haux hmain => ?_, fun s hs => ⟨exec_resetRelease_latched hs, fun hlatched hwait => ?_⟩⟩
  · intro b
    refine ⟨_, (exec_resetRelease_of_none hs hlatched).trans (congrArg Host.Outcome.next (State.released_of_ready hs hheld haux hmain)), ?_⟩
    have hkeep := s.clocked.atBoot.boot_keeps
    have hsrc : s.clocked.atBoot.fusesRead.activeSources = b.activeSources := rfl
    have hcheck : s.clocked.atBoot.fusesRead.bootCheck = b.bootCheck := rfl
    have hon : s.clocked.atBoot.fusesRead.ctl.state ≠ .off := by
      show (s.ctl.goto .boot).state ≠ .off
      simp [Ctl.goto, hs]
    have hstate : s.clocked.atBoot.ctl.state = .boot := by
      show (s.ctl.goto .boot).state = .boot
      simp [Ctl.goto, hs]
    have halarm : b.activeSources ≠ [] → retired s.sec.fuses = false → s.clocked.atBoot.boot.ctl.state = .alarm ∧
        ∀ a ∈ b.activeSources, s.clocked.atBoot.boot.sec.sources.getLsbD a.code = true := fun ha hr => by
      rw [State.boot_of_sources (s := s.clocked.atBoot) hr ha]
      exact ⟨State.foldl_alarm_of_ne_off _ ha hon, fun a ha => State.foldl_alarm_sources hon (.inl ha)⟩
    refine ⟨hkeep.1, hkeep.2.1, hkeep.2.2.1, hkeep.2.2.2, fun hr => ?_, fun hr ha => halarm ha hr, fun hr hf => ?_, fun hr ha hc => ?_,
      fun hr ha hc => ?_⟩
    · rw [State.boot_of_retired (s := s.clocked.atBoot) hr]
      simp [State.goto_state]
    · have hmem : AlarmSrc.fuse ∈ b.activeSources := State.fuse_mem_activeSources (s := b) hf
      have := halarm (List.ne_nil_of_mem hmem) hr
      exact ⟨this.1, this.2 _ hmem⟩
    · rw [State.boot_of_failed (s := s.clocked.atBoot) hr ha hc]
      exact ⟨State.goto_state .., by simp [hcheck], State.bootCheck_le b⟩
    · rw [State.boot_of_passed (s := s.clocked.atBoot) hr ha hc]
      exact ⟨hstate, rfl, rfl, rfl, rfl, rfl, rfl, rfl, rfl, rfl⟩
  · exact (exec_resetRelease_of_none hs hlatched).trans (congrArg Host.Outcome.next (State.released_of_waiting hwait))

/-! Warm resets -/

/-- A field of a write is not touched by a flag above it. -/
theorem or_flag_mod (v : W32) {i : Nat} (h : i = 30 ∨ i = 31) : (v ||| flag i true).toNat % 65536 = v.toNat % 65536 := by
  have : ((v ||| flag i true).setWidth 16) = v.setWidth 16 := by
    obtain rfl | rfl := h <;> simp [flag, at']
  simpa only [BitVec.toNat_setWidth] using congrArg BitVec.toNat this

theorem bit_or_flag (v : W32) {i j : Nat} (h : i = 30 ∨ i = 31) (hj : j = 30 ∨ j = 31) :
    bit (v ||| flag i true) j = (bit v j || i == j) := by
  simp only [bit_eq_getLsbD, BitVec.getLsbD_or]
  obtain rfl | rfl := h <;> obtain rfl | rfl := hj <;> rfl

/-- The firmware runs, so it can write its registers. -/
theorem Dev.running'_of_live {d : Dev} (h : d.live = true) : d.running' = true := by cases d <;> first | contradiction | rfl

theorem exec_wdtKick {s : State} (v : W32) (h : s.ctl.state.live = true) :
    exec (.wdtKick v) s = .next { s with rst := s.rst.writeWdt (v ||| flag 31 true) } :=
  congrArg Host.Outcome.next (if_pos (Dev.running'_of_live h))

theorem exec_wdtLock {s : State} (v : W32) (h : s.ctl.state.live = true) :
    exec (.wdtLock v) s = .next { s with rst := s.rst.writeWdt (v ||| flag 30 true) } :=
  congrArg Host.Outcome.next (if_pos (Dev.running'_of_live h))

/-- A kick stores the period held within its bounds, unless it is locked, and restarts the watchdog. -/
theorem Rst.writeWdt_kick (r : Rst) (v : W32) : r.writeWdt (v ||| flag 31 true) = { r with
    wdtElapsed := 0, wdtLocked := r.wdtLocked || v.getLsbD 30
    wdtPeriod := if r.wdtLocked then r.wdtPeriod else BitVec.ofNat 16 (max 100 (min 10000 (v.toNat % 65536))) } := by
  have hfld : fld (v ||| flag 31 true) 15 0 = v.toNat % 65536 := by simpa [fld] using or_flag_mod v (.inr rfl)
  unfold Rst.writeWdt
  rw [hfld, bit_or_flag v (.inr rfl) (.inl rfl), bit_or_flag v (.inr rfl) (.inr rfl)]
  simp [bit_eq_getLsbD]

theorem Rst.writeWdt_lock (r : Rst) (v : W32) : (r.writeWdt (v ||| flag 30 true)).wdtLocked = true := by
  simp [Rst.writeWdt, bit_or_flag v (.inl rfl) (.inl rfl)]

/-- While the firmware runs the device is not in OFF, RESET or ALARM. -/
theorem Dev.ne_of_live {d : Dev} (h : d.live = true) : d ≠ .off ∧ d ≠ .reset ∧ d ≠ .alarm := by cases d <;> first | contradiction | decide

/-- What a warm reset keeps and clears. -/
theorem State.enterReset_warm_fields {s : State} {m : BitVec 7} (h : s.ctl.state.live = true) (href : s.pins.refclk = true) (hm : m &&& coldMask = 0) :
    let v := s.enterReset m
    v.ctl = { state := .reset } ∧ v.rst.cause = s.rst.cause ||| m ∧ v.rst.cold = false ∧ v.rst.wdtRunning = false ∧ v.img = none ∧
      v.lnk.port = s.lnk.port ∧ v.pwr.res = s.pwr.res ∧ v.flt.log = s.flt.log ∧ v.memr.ddr = s.memr.ddr ∧ v.sec.fuses = s.sec.fuses ∧
      v.hif.fetched = [] ∧ v.hif.mem = s.hif.mem ∧ (s.midBlock = none → v.mem = s.mem) := by
  intro v
  obtain ⟨hoff, hreset, halarm⟩ := Dev.ne_of_live h
  have hv : v = _ := State.enterReset_warm hoff halarm hreset href hm
  clear_value v
  subst hv
  refine ⟨rfl, rfl, rfl, rfl, rfl, ?_, ?_, ?_, ?_, ?_, rfl, ?_, fun hb => ?_⟩
  · simp [State.clearWarm, State.underReset]
  · simp [State.underReset]
  · simp [State.clearWarm, State.underReset]
  · simp [State.clearWarm, State.underReset]
  · simp [State.underReset]
  · simp [State.underReset]
  · simp [State.underReset, State.tear_of_midBlock_none hb]

/-- A completion touches the HIF block alone. -/
theorem State.complete_eq (s : State) (e : Entry) (code : Code) (detail : Nat) (r0 r1 r2 : W64) :
    s.complete e code detail r0 r1 r2 = { s with hif := (s.complete e code detail r0 r1 r2).hif } := by
  unfold State.complete; split <;> rfl

theorem State.finish_eq (s : State) (i : Nat) (code : Code) (detail : Nat) (r0 r1 r2 : W64) :
    s.finish i code detail r0 r1 r2 = { s with hif := (s.finish i code detail r0 r1 r2).hif } := by
  unfold State.finish
  split
  · rfl
  · rw [State.complete_eq]

/-- A completion leaves the update engines where they are. -/
@[simp] theorem State.finish_midBlock (s : State) (i : Nat) (code : Code) (detail : Nat) (r0 r1 r2 : W64) :
    (s.finish i code detail r0 r1 r2).midBlock = s.midBlock := by
  rw [State.finish_eq]; rfl

/-- Settles O11: the kick and the lock by what a write of RST_WDT_CFG does, the two warm sources by `State.enterReset_warm_fields`. -/
theorem warmResetSources : Obligations.WarmResetSources := by
  refine ⟨fun s v => ⟨fun h => ⟨?_, _, exec_wdtLock v h, s.rst.writeWdt_lock v, rfl⟩, fun ⟨hlive, href, hrun, helapsed⟩ => ?_⟩,
    fun s i e hdue hblocked => ?_, fun s i e hdue hroom href => ?_⟩
  · rw [exec_wdtKick v h, Rst.writeWdt_kick]
  · obtain ⟨hctl, hcause, hcold, hwdt, himg, hport, hres, hlog, hddr, hfuses, -, -, hmem⟩ :=
      State.enterReset_warm_fields (m := 16) hlive href (by decide)
    exact ⟨_, congrArg Host.Outcome.next (if_pos (by simpa [hrun] using helapsed)), congrArg Ctl.state hctl, hcause, hcold, hwdt, himg, hport, hres, hlog,
      hddr, hfuses, hmem⟩
  · show Host.Outcome.next (s.command i 0x19 Dev.live _) = _
    rw [State.command_of_due _ _ hdue hdue.2.2.2, if_pos hblocked]
  · have hexec : exec (.warmReset i) s = .next ((s.finish i .success).enterReset 8) := by
      show Host.Outcome.next (s.command i 0x19 Dev.live _) = _
      rw [State.command_of_due _ _ hdue hdue.2.2.2, if_neg (by simp [hroom])]
      rfl
    obtain ⟨hctl, hcause, hcold, -, himg, hport, hres, hlog, hddr, hfuses, hfetched, hhost, hmem⟩ :=
      State.enterReset_warm_fields (s := s.finish i .success) (m := 8) (by simpa using hdue.2.2.2) (by simpa using href) (by decide)
    refine ⟨_, hexec, hctl, ?_, hcold, himg, ?_, ?_, ?_, ?_, ?_, hfetched, hhost, fun hb => ?_⟩
    · exact hcause.trans (by simp)
    · simpa using hport
    · simpa using hlog
    · simpa using hddr
    · simpa using hfuses
    · exact hres.trans (by simp)
    · simpa using hmem (by simpa using hb)

end Sys2Proof.Machine
end

section
/-! SUPPORT. Provisioning and the export key (R499, R500, R506). -/

namespace Sys2Proof.Machine

/-! What a GO does -/

/-- The registers once a write of SEC_PROV_CTRL has stored FIELD and LOCK. -/
def Sec.fieldStored (x : Sec) (v : W32) : Sec :=
  { (if x.locked then x else { x with field := BitVec.ofNat 4 (fld v 3 0) }) with locked := x.locked || bit v 30 }

theorem Sec.writeProvCtrl_eq (x : Sec) (ready : Bool) (v : W32) :
    x.writeProvCtrl ready v = if v.getLsbD 31 && x.blow.isEmpty then (x.fieldStored v).provGo ready else x.fieldStored v := by
  rw [← bit_eq_getLsbD]
  unfold Sec.writeProvCtrl Sec.fieldStored
  cases h : x.locked <;> simp [h]

/-- FIELD and LOCK touch nothing else. -/
theorem Sec.fieldStored_eq (x : Sec) (v : W32) :
    x.fieldStored v = { x with field := (x.fieldStored v).field, locked := x.locked || v.getLsbD 30 } := by
  unfold Sec.fieldStored
  rw [bit_eq_getLsbD]
  split <;> rfl

theorem Sec.fieldStored_field {x : Sec} (h : x.locked = false) (v : W32) : (x.fieldStored v).field.toNat = v.toNat % 16 := by
  simp [Sec.fieldStored, h, fld]

theorem Sec.fieldStored_locked (x : Sec) {v : W32} (h : v.getLsbD 30 = true) : (x.fieldStored v).locked = true := by
  show (x.locked || bit v 30) = true
  rw [bit_eq_getLsbD, h, Bool.or_true]

theorem Sec.fieldStored_field_of_locked {x : Sec} (h : x.locked = true) (v : W32) : (x.fieldStored v).field = x.field := by
  simp [Sec.fieldStored, h]

theorem Sec.provGo_of_refused {x : Sec} {ready : Bool} {n : Nat} (h : x.provRefusal ready = n) (hn : n ≠ 0) :
    x.provGo ready = { x with provErr := true, err := BitVec.ofNat 4 n } := by
  unfold Sec.provGo
  split
  next h0 => exact absurd (h.symm.trans h0) hn
  · rw [h]

theorem Sec.provGo_of_taken {x : Sec} {ready : Bool} (h : x.provRefusal ready = 0) : x.provGo ready =
    if x.provBits.isEmpty then { x with provDone := true, err := 0 } else { x with blow := x.provBits, blowFor := .prov, err := 0 } := by
  unfold Sec.provGo
  simp only [h]

section
variable {x : Sec} {ready : Bool}

/-! Why a GO is refused, in the order of the checks (log entry 98) -/

theorem Sec.provRefusal_of_locked (h : x.locked = true) : x.provRefusal ready = 3 := by
  simp [Sec.provRefusal, h]

theorem Sec.provRefusal_of_state (h : x.locked = false) : x.provRefusal false = 1 := by
  simp [Sec.provRefusal, h]

theorem Sec.provRefusal_of_field (h : x.locked = false)
    (hf : x.field.toNat = 0 ∨ 3 < x.field.toNat ∨ (x.field.toNat = 3 ∧ ((x.data.at 0).toNat % 4 = 0 ∨ (x.data.at 0).toNat % 4 = 2))) :
    x.provRefusal true = 5 := by
  unfold Sec.provRefusal
  dsimp only
  rw [if_neg (by simp [h]), if_neg (by simp), if_pos (by simpa [or_assoc] using hf)]

/-- OWNER_KEY_HASH is taken while its fuses are unprogrammed, -/
theorem Sec.provRefusal_of_unprogrammed (h : x.locked = false) (hf : x.field.toNat = 1) (hk : keyState x.fuses ownerKeyLo = .unprogrammed) :
    x.provRefusal true = 0 := by
  simp [Sec.provRefusal, h, hf, hk]

/-- where they are incomplete, if every set bit becomes the value's, -/
theorem Sec.provRefusal_of_incomplete (h : x.locked = false) (hf : x.field.toNat = 1) (hk : keyState x.fuses ownerKeyLo = .incomplete) :
    ((∀ i < 256, x.fuses.at (ownerKeyLo + i) = true → numOf x.provBytes / 2 ^ i % 2 = 1) → x.provRefusal true = 0) ∧
      (∀ i < 256, x.fuses.at (ownerKeyLo + i) = true → numOf x.provBytes / 2 ^ i % 2 = 0 → x.provRefusal true = 2) := by
  have heq : x.provRefusal true =
      if (List.range 256).all fun i => !x.fuses.at (ownerKeyLo + i) || numOf x.provBytes / 2 ^ i % 2 == 1 then 0 else 2 := by
    unfold Sec.provRefusal
    dsimp only
    rw [if_neg (by simp [h]), if_neg (by simp), if_neg (by simp [hf]), if_pos hf]
    simp only [hk]
  rw [heq]
  refine ⟨fun hall => if_pos (List.all_eq_true.mpr fun i hi => ?_), fun i hi hset hclr => if_neg fun hall => ?_⟩
  · cases hset : x.fuses.at (ownerKeyLo + i) with
    | false => rfl
    | true => simpa using hall i (List.mem_range.mp hi) hset
  · have := List.all_eq_true.mp hall i (List.mem_range.mpr hi)
    simp [hset, hclr] at this

/-- and where they hold a whole or a corrupt value, never. -/
theorem Sec.provRefusal_of_programmed (h : x.locked = false) (hf : x.field.toNat = 1)
    (hk : keyState x.fuses ownerKeyLo = .complete ∨ keyState x.fuses ownerKeyLo = .corrupt) : x.provRefusal true = 2 := by
  obtain hk | hk := hk <;> simp [Sec.provRefusal, h, hf, hk]

theorem Sec.provRefusal_of_debug (h : x.locked = false) (hf : x.field.toNat = 2) : x.provRefusal true = 0 := by
  simp [Sec.provRefusal, h, hf]

theorem Sec.provRefusal_of_act (h : x.locked = false) (hf : x.field.toNat = 3) (ha : (x.data.at 0).toNat % 4 = 1 ∨ (x.data.at 0).toNat % 4 = 3) :
    x.provRefusal true = if (x.data.at 0).toNat % 4 < alarmCode x.fuses then 2 else 0 := by
  unfold Sec.provRefusal
  dsimp only
  rw [if_neg (by simp [h]), if_neg (by simp), if_neg (by obtain ha | ha := ha <;> simp [hf, ha]), if_neg (by simp [hf])]
  simp [hf]

/-! The bits a GO blows -/

theorem Sec.provBits_of_key (hf : x.field.toNat = 1) : x.provBits =
    (((List.range 256).filter fun i => numOf x.provBytes / 2 ^ i % 2 == 1).map (· + ownerKeyLo)
      ++ ((List.range 32).filter fun i => crc32c x.provBytes / 2 ^ i % 2 == 1).map (· + (ownerKeyLo + 256))).filter fun i => !x.fuses.at i := by
  unfold Sec.provBits
  simp only [hf]

theorem Sec.provBits_of_debug (hf : x.field.toNat = 2) : x.provBits = [0xB60, 0xB61, 0xB62].filter fun i => !x.fuses.at i := by
  unfold Sec.provBits
  simp only [hf]

theorem Sec.provBits_of_act {l : List Nat} (hf : x.field.toNat = 3)
    (hl : ([0xB63, 0xB64, 0xB65, 0xB66, 0xB67, 0xB68].filter fun i =>
      if (i - 0xB63) % 2 = 0 then (x.data.at 0).toNat % 4 % 2 == 1 else (x.data.at 0).toNat % 4 / 2 == 1) = l) :
    x.provBits = l.filter fun i => !x.fuses.at i := by
  unfold Sec.provBits
  simp only [hf, ← hl]

end

/-! A GO as a command -/

theorem exec_provGo {s : State} (v : W32) (h : s.ctl.state.live = true) :
    exec (.provGo v) s = .next { s with sec := s.sec.writeProvCtrl (s.ctl.state == .ready) v } :=
  congrArg Host.Outcome.next (if_pos h)

/-- Of no run under way, a GO reaches `Sec.provGo`. -/
theorem Sec.writeProvCtrl_go {x : Sec} {v : W32} (ready : Bool) (hblow : x.blow = []) (hgo : v.getLsbD 31 = true) :
    x.writeProvCtrl ready v = (x.fieldStored v).provGo ready := by
  rw [Sec.writeProvCtrl_eq, hgo, hblow]
  rfl

/-- A GO that is refused blows nothing. -/
theorem exec_provGo_of_refused {s : State} {v : W32} {n : Nat} (hlive : s.ctl.state.live = true) (hblow : s.sec.blow = []) (hgo : v.getLsbD 31 = true)
    (h : (s.sec.fieldStored v).provRefusal (s.ctl.state == .ready) = n) (hn : n ≠ 0) :
    ∃ t, exec (.provGo v) s = .next t ∧ t = { s with sec := t.sec } ∧ t.sec.err = BitVec.ofNat 4 n ∧
      t.sec.provErr = true ∧ t.sec.fuses = s.sec.fuses ∧ t.sec.blow = [] := by
  refine ⟨_, exec_provGo v hlive, rfl, ?_⟩
  dsimp only
  rw [Sec.writeProvCtrl_go _ hblow hgo, Sec.provGo_of_refused h hn, Sec.fieldStored_eq]
  exact ⟨rfl, rfl, rfl, hblow⟩

/-- A GO that is taken blows the field's bits, in order. -/
theorem exec_provGo_of_taken {s : State} {v : W32} {l : List Nat} (hlive : s.ctl.state.live = true) (hblow : s.sec.blow = [])
    (hgo : v.getLsbD 31 = true) (h : (s.sec.fieldStored v).provRefusal (s.ctl.state == .ready) = 0) (hl : (s.sec.fieldStored v).provBits = l) :
    ∃ t, exec (.provGo v) s = .next t ∧ t = { s with sec := t.sec } ∧ t.sec.err = 0 ∧
      t.sec.fuses = s.sec.fuses ∧ t.sec.blow = l ∧ (l = [] → t.sec.provDone = true) ∧ t.sec.provErr = s.sec.provErr := by
  refine ⟨_, exec_provGo v hlive, rfl, ?_⟩
  dsimp only
  rw [Sec.writeProvCtrl_go _ hblow hgo, Sec.provGo_of_taken h, hl, Sec.fieldStored_eq]
  cases l with
  | nil => exact ⟨rfl, rfl, hblow, fun _ => rfl, rfl⟩
  | cons a l => exact ⟨rfl, rfl, rfl, fun h => absurd h (List.cons_ne_nil a l), rfl⟩

/-- Word 7 commits the key of the staged words and itself. -/
theorem Sec.writeExpKey_commit (x : Sec) (v : W32) : (x.writeExpKey 7 v).expKeyValid = true ∧ (x.writeExpKey 7 v).expCnt = 0 ∧
    (x.writeExpKey 7 v).expKey = ((List.range 7).flatMap fun j => bytesOf 4 (x.expStage.at j).toNat) ++ bytesOf 4 v.toNat := by
  refine ⟨rfl, rfl, ?_⟩
  show (List.range (7 + 1)).flatMap (fun j => bytesOf 4 ((x.expStage.put 7 v).at j).toNat) = _
  rw [List.range_succ, List.flatMap_append]
  congr 1
  · refine List.flatMap_congr fun j hj => ?_
    rw [Sparse.at_put_ne _ _ (by have := List.mem_range.mp hj; omega)]
  · simp

/-- A write of SEC_EXP_CTRL clears the export key or does nothing. -/
theorem exec_exportKeyClear {s : State} (v : W32) (h : s.ctl.state.live = true) :
    exec (.exportKeyClear v) s = .next { s with sec := if v.getLsbD 0 then s.sec.clearExpKey else s.sec } := by
  rw [← bit_eq_getLsbD]
  exact congrArg Host.Outcome.next (if_pos h)

theorem alarmCode_le (f : Sparse Bool) : alarmCode f ≤ 3 := by
  rw [alarmCode_eq]
  split
  · exact Nat.le_refl 3
  · split <;> decide

/-- Settles O15: a GO by its refusals and bits, a write of SEC_PROV_CTRL without one, and the export key registers. -/
theorem provisioningAndExportKey : Obligations.ProvisioningAndExportKey := by
  refine ⟨fun s v hlive hblow hgo hlock => ?_, fun s v hlive => ⟨fun hblow hgo => ?_, fun hblow hgo hlock => ?_, fun hlock hgo => ?_⟩,
    fun s v hlive => ⟨?_, fun hclear => ?_, fun hclear => ?_⟩⟩
  · intro f act value bits clear blows refuses
    have hrefuses : ∀ {n}, (s.sec.fieldStored v).provRefusal (s.ctl.state == .ready) = n → n ≠ 0 → refuses n :=
      fun h hn => exec_provGo_of_refused hlive hblow hgo h hn
    have hlocked : (s.sec.fieldStored v).locked = s.sec.locked := by
      show (s.sec.locked || bit v 30) = _
      rw [bit_eq_getLsbD, hlock, Bool.or_false]
    refine ⟨fun hl hs => hrefuses ?_ (by decide), fun hl => hrefuses ?_ (by decide), fun hl hs => ?_⟩
    · rw [beq_false_of_ne hs]
      exact Sec.provRefusal_of_state (hlocked.trans hl)
    · exact Sec.provRefusal_of_locked (hlocked.trans hl)
    · have hready : (s.ctl.state == .ready) = true := by simp [hs]
      have hy := hlocked.trans hl
      have hf : (s.sec.fieldStored v).field.toNat = f := Sec.fieldStored_field hl v
      have hdata : ((s.sec.fieldStored v).data.at 0).toNat % 4 = act := by rw [Sec.fieldStored_eq]
      have hfuses : (s.sec.fieldStored v).fuses = s.sec.fuses := by rw [Sec.fieldStored_eq]
      have hbytes : (s.sec.fieldStored v).provBytes = s.sec.provBytes := by rw [Sec.fieldStored_eq]; rfl
      rw [hready] at hrefuses
      have hblows : ∀ {l}, (s.sec.fieldStored v).provRefusal true = 0 → (s.sec.fieldStored v).provBits = l → blows l :=
        fun h hl => exec_provGo_of_taken hlive hblow hgo (by rwa [hready]) hl
      have hkeybits : f = 1 → (s.sec.fieldStored v).provBits = clear (bits 0x120 (numOf value) 256 ++ bits 0x220 (crc32c value) 32) := fun h1 => by
        rw [Sec.provBits_of_key (hf.trans h1), hbytes, hfuses]
        rfl
      have hinc : f = 1 → keyState s.sec.fuses ownerKeyLo = .incomplete → _ := fun h1 hk =>
        Sec.provRefusal_of_incomplete hy (hf.trans h1) (by rwa [hfuses])
      rw [hfuses, hbytes] at hinc
      refine ⟨fun h => hrefuses (Sec.provRefusal_of_field hy (by rwa [hf, hdata])) (by decide), fun h1 hk => hblows ?_ (hkeybits h1),
        fun h1 hk => ⟨fun hall => hblows ?_ (hkeybits h1), fun ⟨i, hi, hset, hclr⟩ => hrefuses (n := 2) ?_ (by decide)⟩,
        fun h1 hk => hrefuses (n := 2) ?_ (by decide), fun h2 => hblows (Sec.provRefusal_of_debug hy (hf.trans h2)) ?_,
        fun h3 ha hc => hblows ?_ ?_, fun h3 ha => hblows ?_ ?_, fun h3 ha hc => hrefuses (n := 2) ?_ (by decide)⟩
      · exact Sec.provRefusal_of_unprogrammed hy (hf.trans h1) (by rwa [hfuses])
      · exact (hinc h1 hk).1 hall
      · exact (hinc h1 hk).2 i hi hset hclr
      · exact Sec.provRefusal_of_programmed hy (hf.trans h1) (by rwa [hfuses])
      · rw [Sec.provBits_of_debug (hf.trans h2), hfuses]
      · rw [Sec.provRefusal_of_act hy (hf.trans h3) (.inl (hdata.trans ha)), hfuses, hdata, ha, if_neg (by omega)]
      · rw [Sec.provBits_of_act (l := [0xB63, 0xB65, 0xB67]) (hf.trans h3) (by rw [hdata, ha]; rfl), hfuses]
      · have := alarmCode_le s.sec.fuses
        rw [Sec.provRefusal_of_act hy (hf.trans h3) (.inr (hdata.trans ha)), hfuses, hdata, ha, if_neg (by omega)]
      · rw [Sec.provBits_of_act (l := [0xB63, 0xB64, 0xB65, 0xB66, 0xB67, 0xB68]) (hf.trans h3) (by rw [hdata, ha]; rfl), hfuses]
      · rw [Sec.provRefusal_of_act hy (hf.trans h3) (.inl (hdata.trans ha)), hfuses, hdata, ha, if_pos (by omega)]
  · refine ⟨_, exec_provGo v hlive, ?_⟩
    dsimp only
    have hbusy : s.sec.blow.isEmpty = false := by simpa using hblow
    rw [Sec.writeProvCtrl_eq, hbusy, Bool.and_false]
    exact congrArg (fun x => { s with sec := x }) (s.sec.fieldStored_eq v)
  · refine ⟨_, exec_provGo v hlive, ?_⟩
    dsimp only
    have hl := Sec.fieldStored_locked s.sec hlock
    rw [Sec.writeProvCtrl_go _ hblow hgo, Sec.provGo_of_refused (Sec.provRefusal_of_locked hl) (by decide)]
    refine ⟨hl, ?_, rfl, rfl, ?_⟩ <;> rw [Sec.fieldStored_eq]
    exact hblow
  · refine ⟨_, exec_provGo v hlive, ?_⟩
    dsimp only
    have hl := Sec.fieldStored_locked s.sec hlock
    have heq := s.sec.fieldStored_eq v
    rw [hlock, Bool.or_true] at heq
    rw [Sec.writeProvCtrl_eq, hgo, Bool.false_and]
    exact ⟨hl, congrArg (fun x => { s with sec := x }) heq, fun h => congrArg id (Sec.fieldStored_field_of_locked h v)⟩
  · have := s.sec.writeExpKey_commit v
    exact ⟨_, congrArg Host.Outcome.next (if_pos hlive), this.1, this.2.1, this.2.2, rfl⟩
  · have hexec := exec_exportKeyClear v hlive
    rw [hclear] at hexec
    exact ⟨_, hexec, rfl, rfl, rfl, rfl⟩
  · have hexec := exec_exportKeyClear v hlive
    rw [hclear] at hexec
    exact hexec

end Sys2Proof.Machine
end

section
/-! SUPPORT. The alarm: its sources, what it leaves, and the fuses it blows (R511, R512, R515). -/

namespace Sys2Proof.Machine

/-- What SEC_ALARM_CAUSE and the keys hold after the first part of an alarm. -/
theorem Sec.alarm_fields (x : Sec) (a : AlarmSrc) (n : Nat) :
    (x.alarm a n).sources = x.sources ||| BitVec.ofNat 7 (2 ^ a.code) ∧ (x.alarm a n).valid = true ∧
      (x.alarm a n).first = (if x.valid && !(x.firstCyc == n && decide (a.code < x.first.toNat)) then x.first else BitVec.ofNat 3 a.code) ∧
      (alarmAct x.fuses ≠ .lock → (x.alarm a n).idKeyReady = false ∧ (x.alarm a n).expKeyValid = false ∧ (x.alarm a n).keysErased = true) := by
  unfold Sec.alarm
  dsimp only
  split
  next h => exact ⟨rfl, rfl, rfl, fun hne => absurd h hne⟩
  · exact ⟨rfl, rfl, rfl, fun _ => ⟨rfl, rfl, rfl⟩⟩

/-- What an alarm from a state it can be entered from leaves. -/
def State.AlarmEntered (s : State) (code : Nat) (t : State) : Prop :=
  t.ctl.state = .alarm ∧ t.ctl.prev = s.ctl.state ∧
  t.sec.sources = s.sec.sources ||| BitVec.ofNat 7 (2 ^ code) ∧ t.sec.valid = true ∧
  (s.sec.valid = false → t.sec.first = BitVec.ofNat 3 code) ∧
  (s.sec.valid = true → t.sec.first = if s.sec.firstCyc = s.tmr.age ∧ code < s.sec.first.toNat then BitVec.ofNat 3 code else s.sec.first) ∧
  t.pins.alarmN = true ∧ t.rst.cause = s.rst.cause ||| 32 ∧
  (alarmAct s.sec.fuses ≠ .lock → t.sec.idKeyReady = false ∧ t.sec.expKeyValid = false ∧ t.sec.keysErased = true) ∧
  t.fab.hold = true ∧ t.fab.firings = [] ∧ t.hif.fetched = [] ∧ t.hif.events = [] ∧ t.inp.queue = [] ∧ t.memr.running = none ∧
  t.gx.sets = [] ∧ t.gx.inbox = [] ∧ t.upd.sweep = none ∧ t.adm.running = false ∧
  t.sec.fuses = s.sec.fuses ∧ t.img = s.img ∧ t.flash = s.flash ∧ (s.midBlock = none → t.mem = s.mem)

/-- The state an alarm leaves. -/
theorem State.alarm_entered {s : State} (a : AlarmSrc) (hoff : s.ctl.state ≠ .off) (halarm : s.ctl.state ≠ .alarm) :
    s.AlarmEntered a.code (s.alarm a) := by
  obtain ⟨hsrc, hvalid, hfirst, hkeys⟩ := Sec.alarm_fields s.sec a s.tmr.age
  have heq : s.alarm a = { s.tear with
      ctl := { s.ctl.goto .alarm with loadBusy := false }, sec := s.sec.alarm a s.tmr.age, pins := { s.pins with alarmN := true }
      rst := { s.rst with cause := s.rst.cause ||| Source.alarm.mask }
      lnk := s.lnk.allIdle 0, fab := { s.fab.noFirings with hold := true, readyLog := [] }
      inp := { s.inp with queue := [], ctx := [] }, hif := { s.hif with fetched := [], events := [], mailRecv := [] }
      memr := { s.memr with jobs := [], running := none }, tmr := { s.tmr with issue := [] }
      flt := { s.flt with reports := [], toWrite := [], fences := [], abandoning := false, chipAfter := false, deferred := false }
      adm := { s.adm with running := false }, upd := { s.tear.upd.restart with sweep := none }
      gx := { s.gx with sets := [], inbox := [], round := none } } := by
    unfold State.alarm
    split
    · contradiction
    · contradiction
    · simp
  have hfuses := (s.alarm_keeps a).2.2.1
  refine ⟨?_, ?_, ?_⟩
  · rw [State.alarm_state, if_neg hoff]
  · rw [heq]
    simp [Ctl.goto, halarm]
  · rw [heq] at hfuses ⊢
    refine ⟨hsrc, hvalid, fun hv => ?_, fun hv => ?_, rfl, rfl, hkeys, rfl, rfl, rfl, rfl, rfl, rfl, rfl, rfl, rfl, rfl, hfuses, ?_, ?_, fun hb => ?_⟩
    · exact hfirst.trans (by simp [hv])
    · refine hfirst.trans ?_
      by_cases h : s.sec.firstCyc = s.tmr.age ∧ a.code < s.sec.first.toNat <;> simp [hv, h]
    · simp
    · simp
    · simp [State.tear_of_midBlock_none hb]

/-- Settles O16: each source met is an alarm, by `State.alarm_entered`. -/
theorem alarmSourcesEnterAlarm : Obligations.AlarmSourcesEnterAlarm := by
  intro s ns held flips hg halarm enters
  have hoff : s.ctl.state ≠ .off := fun h => by rw [h] at hg; cases hg
  have henters : ∀ {c : Instr} (a : AlarmSrc), exec c s = .next (s.alarm a) → enters c a.code := fun a h =>
    ⟨_, h, State.alarm_entered a hoff halarm⟩
  refine ⟨fun hns => ?_, fun hns => ?_, ?_, fun hd => ?_, fun hd => ?_, fun hf => ?_, fun hf => ?_⟩
  · have hexec : exec (.tamper ns held) s = .next (({ s with pins := { s.pins with tamperLow := held && decide (100 ≤ ns) } } : State).alarm .tamper) :=
      congrArg Host.Outcome.next (if_pos (by simpa [hg] using hns))
    exact ⟨_, hexec, State.alarm_entered (s := { s with pins := { s.pins with tamperLow := held && decide (100 ≤ ns) } }) .tamper hoff halarm⟩
  · refine (congrArg Host.Outcome.next (if_neg (by simp; omega))).trans ?_
    simp [show ¬ 100 ≤ ns by omega]
  · exact henters .cglitch (congrArg Host.Outcome.next (if_pos hg))
  · exact henters .debug (exec_debugIntrusion hg hd)
  · exact congrArg Host.Outcome.next (if_neg (by simp [hd]))
  · exact henters .fuse (congrArg Host.Outcome.next (if_pos (by simp [hg, hf])))
  · exact congrArg Host.Outcome.next (if_neg (by simp [hf]))

/-! The fuses an alarm blows -/

@[simp] theorem Sec.setFuses_at (x : Sec) (l : List Nat) (k : Nat) : (x.setFuses l).fuses.at k = (x.fuses.at k || l.contains k) := by
  induction l generalizing x with
  | nil => simp [Sec.setFuses]
  | cons i l ih =>
    show ((x.setFuse i).setFuses l).fuses.at k = _
    rw [ih]
    show ((x.fuses.put i true).at k || _) = _
    rw [Sparse.at_put]
    by_cases h : k = i <;> simp [h]

@[simp] theorem Sec.setFuses_alarmBlown (x : Sec) (l : List Nat) : (x.setFuses l).alarmBlown = x.alarmBlown :=
  foldl_proj Sec.alarmBlown (f := Sec.setFuse) (fun _ _ => rfl) l x

/-- The retirement's bits set, the device is retired. -/
theorem Sec.retired_setFuses (x : Sec) : retired (x.setFuses retireBits).fuses = true := by
  have hmem : retireBits.contains 0xB69 = true := List.contains_iff_mem.mpr (List.mem_append_left _ List.mem_cons_self)
  exact (retired_iff _).mpr (.inl (by rw [Sec.setFuses_at, hmem, Bool.or_true]))

/-- The fuses of the alarm action are none of the count's. -/
theorem alarmAct_put (f : Sparse Bool) {i : Nat} (h : 0xB70 ≤ i) : alarmAct (f.put i true) = alarmAct f := by
  have hne : ∀ j < 0xB70, (f.put i true).at j = f.at j := fun j hj => Sparse.at_put_ne _ _ (by omega)
  have hhi : alarmActHi (f.put i true) = alarmActHi f := by simp [alarmActHi, hne]
  have hlo : alarmActLo (f.put i true) = alarmActLo f := by simp [alarmActLo, hne]
  rw [alarmAct_eq, alarmAct_eq, hhi, hlo]

/-- The fuses with the next bit of the alarm count blown. -/
def Sec.counted (x : Sec) : Sec := { (if alarmCount x.fuses < 32 then x.setFuse (0xB70 + alarmCount x.fuses) else x) with alarmBlown := true }

theorem Sec.alarmAct_counted (x : Sec) : alarmAct x.counted.fuses = alarmAct x.fuses := by
  unfold Sec.counted
  split
  · exact alarmAct_put _ (by omega)
  · rfl

theorem Sec.counted_at (x : Sec) (k : Nat) :
    x.counted.fuses.at k = (x.fuses.at k || (decide (alarmCount x.fuses < 32) && k == 0xB70 + alarmCount x.fuses)) := by
  unfold Sec.counted
  split
  next h =>
    show (x.fuses.put _ true).at k = _
    rw [Sparse.at_put]
    by_cases hk : k = 0xB70 + alarmCount x.fuses <;> simp [h, hk]
  next h => simp [h]

theorem Sec.alarmBlow_of_retiring {x : Sec} (hb : x.alarmBlown = false) (ha : alarmAct x.fuses = .eraseAndRetire) :
    x.alarmBlow = { x.counted.setFuses retireBits with retireBlown := true } := by
  have hc := x.alarmAct_counted.trans ha
  unfold Sec.counted at hc
  unfold Sec.alarmBlow
  rw [if_neg (by simp [hb])]
  dsimp only at hc ⊢
  rw [hc]
  rfl

theorem Sec.alarmBlow_of_not_retiring {x : Sec} (hb : x.alarmBlown = false) (ha : alarmAct x.fuses ≠ .eraseAndRetire) : x.alarmBlow = x.counted := by
  have hc : alarmAct x.counted.fuses ≠ .eraseAndRetire := x.alarmAct_counted ▸ ha
  unfold Sec.counted at hc
  unfold Sec.alarmBlow
  rw [if_neg (by simp [hb])]
  dsimp only at hc ⊢
  split
  next h => exact absurd h hc
  · rfl

/-- Settles O18: the count's next bit, and under ERASE_AND_RETIRE the bits of the retirement. -/
theorem alarmBlowsFuses : Obligations.AlarmBlowsFuses := by
  intro s hs
  have hexec : exec .alarmFuseBlow s = .next { s with sec := s.sec.alarmBlow } := congrArg Host.Outcome.next (if_pos hs)
  refine ⟨fun hb => ?_, fun hb => ⟨_, hexec, rfl, ?_⟩⟩
  · rw [hexec]
    unfold Sec.alarmBlow
    rw [if_pos hb]
  · dsimp only
    by_cases ha : alarmAct s.sec.fuses = .eraseAndRetire
    · rw [Sec.alarmBlow_of_retiring hb ha]
      dsimp only
      refine ⟨?_, fun hn => ?_, fun _ => ⟨?_, rfl, fun k hk => ?_⟩, fun hne => absurd ha hne⟩
      · simp only [Sec.setFuses_alarmBlown]
        rfl
      · simp only [Sec.setFuses_at, Sec.counted_at, hn, decide_true, Bool.true_and, beq_self_eq_true, Bool.or_true, Bool.true_or]
      · exact s.sec.counted.retired_setFuses
      · have hmem : retireBits.contains (0x240 + k) = true :=
          List.contains_iff_mem.mpr (List.mem_append_right _ (List.mem_map.mpr ⟨k, List.mem_range.mpr hk, Nat.add_comm ..⟩))
        simp only [Sec.setFuses_at, hmem, Bool.or_true]
    · rw [Sec.alarmBlow_of_not_retiring hb ha]
      refine ⟨rfl, fun hn => ?_, fun h => absurd h ha, fun _ k hk => ?_⟩
      · simp [Sec.counted_at, hn]
      · simp [Sec.counted_at, hk]

end Sys2Proof.Machine
end

section
/-! SUPPORT. Power samples, the control periods and the issue share (R547 to R553). -/

namespace Sys2Proof.Machine

section
variable (p : Pwr)

/-! The judgement of the allowance -/

/-- The allowance is used up under the policy in force (R549). -/
abbrev Pwr.spent : Prop := p.pol.peakEn = false ∨ 360000000 ≤ p.excess

theorem Pwr.judge_of_spent {p : Pwr} (he : p.exhausted = false) (h : p.spent) :
    p.judge = { p with exhausted := true, exhCnt := satAdd p.exhCnt 1, nPower := min p.nPower 8 } := by
  unfold Pwr.judge
  dsimp only
  rw [if_pos (by obtain h | h := h <;> simp [he, h])]

theorem Pwr.judge_of_restored {p : Pwr} (he : p.exhausted = true) (hp : p.pol.peakEn = true) (h : p.excess < 324000000) :
    p.judge = { p with exhausted := false } := by
  unfold Pwr.judge
  dsimp only
  rw [if_neg (by simp [he]), if_pos (by simp [he, hp, h])]

/-- A judgement changes the exhaustion and what it limits, and nothing else. -/
theorem Pwr.judge_eq : p.judge = { p with exhausted := p.judge.exhausted, exhCnt := p.judge.exhCnt, nPower := p.judge.nPower } := by
  unfold Pwr.judge
  dsimp only
  split
  · rfl
  · split <;> rfl

theorem Pwr.judge_nPower : p.judge.nPower = if p.exhausted = false ∧ p.spent then min p.nPower 8 else p.nPower := by
  unfold Pwr.judge Pwr.spent
  dsimp only
  by_cases he : p.exhausted = false
  · by_cases hs : p.pol.peakEn = false ∨ 360000000 ≤ p.excess
    · rw [if_pos (by obtain h | h := hs <;> simp [he, h]), if_pos ⟨he, hs⟩]
    · obtain ⟨hp, hx⟩ := not_or.mp hs
      rw [if_neg (by simp [he, hp, hx]), if_neg (by simp [he]), if_neg (fun h => hs h.2)]
  · refine Eq.trans ?_ (if_neg fun h => he h.1).symm
    rw [if_neg (by simp [he])]
    split <;> rfl

theorem Pwr.judge_nPower_le : p.judge.nPower ≤ p.nPower := by
  rw [Pwr.judge_nPower]
  split
  · exact Nat.min_le_left ..
  · exact Nat.le_refl _

/-! A sample before the judgement -/

/-- A sample stored, counted, and limited where it is above 1,150 W. -/
def Pwr.stored (w : Nat) : Pwr :=
  let q := { p with samples := (w :: p.samples).take 20000000, res := if 1000 < w then satAdd p.res 1 else p.res
                    fastQuiet := p.fastQuiet.bind fun n => if p.pol.limit.toNat < w then some 0 else if 10000 ≤ n + 1 then none else some (n + 1) }
  if 1150 < w then { q with nPower := min p.nPower 8, fastLimit := true, fastCnt := satAdd p.fastCnt 1, fastQuiet := some 0 } else q

theorem Pwr.sample_eq (w : Nat) : p.sample w = (p.stored w).judge := rfl

theorem Pwr.stored_keeps (w : Nat) : (p.stored w).samples = (w :: p.samples).take 20000000 ∧ (p.stored w).exhausted = p.exhausted ∧
    (p.stored w).exhCnt = p.exhCnt := by
  unfold Pwr.stored
  dsimp only
  split <;> exact ⟨rfl, rfl, rfl⟩

theorem Pwr.stored_of_fast {w : Nat} (h : 1150 < w) : (p.stored w).nPower = min p.nPower 8 ∧ (p.stored w).fastLimit = true ∧
    (p.stored w).fastCnt = satAdd p.fastCnt 1 := by
  unfold Pwr.stored
  rw [if_pos h]
  exact ⟨rfl, rfl, rfl⟩

theorem Pwr.stored_of_slow {w : Nat} (h : w ≤ 1150) : (p.stored w).fastCnt = p.fastCnt ∧ (p.stored w).fastLimit = p.fastLimit := by
  unfold Pwr.stored
  rw [if_neg (by omega)]
  exact ⟨rfl, rfl⟩

/-- The policy and the excess are as before the judgement. -/
theorem Pwr.judge_spent : p.judge.spent ↔ p.spent := by rw [Pwr.judge_eq]; rfl

/-! The periods -/

theorem Pwr.throttling_iff : p.throttling = true ↔ p.exhausted = true ∨ p.fastQuiet.isSome = true := by
  simp [Pwr.throttling]

/-- The sum of the 1,000 samples from the j-th newest on. -/
def Pwr.sumAt (j : Nat) : Nat := ((p.samples.drop j).take 1000).foldl (· + ·) 0

theorem Pwr.overLimit_iff : p.overLimit = true ↔ 1000 * p.pol.limit.toNat < p.sumAt 0 := by
  rw [Pwr.overLimit, decide_eq_true_eq]
  rfl

theorem Pwr.quiet10ms_iff : p.quiet10ms = true ↔ ∀ j < 10000, p.sumAt j + 20000 < 1000 * p.pol.limit.toNat := by
  simp only [Pwr.quiet10ms, Pwr.sumAt, List.all_eq_true, List.mem_range, decide_eq_true_eq]

theorem Pwr.period_us50 : (p.period .us50).nPower =
    if (p.exhausted = true ∨ p.fastQuiet.isSome = true) ∧ 1000 * p.pol.limit.toNat < p.sumAt 0 then max 1 (p.nPower - 1) else p.nPower := by
  have h : (p.throttling && p.overLimit) = true ↔
      (p.exhausted = true ∨ p.fastQuiet.isSome = true) ∧ 1000 * p.pol.limit.toNat < p.sumAt 0 := by
    rw [Bool.and_eq_true, p.throttling_iff, p.overLimit_iff]
  exact (apply_ite Pwr.nPower ..).trans (if_congr h rfl rfl)

theorem Pwr.period_ms1 : (p.period .ms1).nPower =
    if p.exhausted = true ∨ p.fastQuiet.isSome = true then p.nPower else min 16 (p.nPower + 1) :=
  (apply_ite Pwr.nPower ..).trans (if_congr p.throttling_iff rfl rfl)

theorem Pwr.period_ms10_of_quiet {p : Pwr} (ht : p.exhausted = true ∨ p.fastQuiet.isSome = true)
    (hq : ∀ j < 10000, p.sumAt j + 20000 < 1000 * p.pol.limit.toNat) : (p.period .ms10).nPower = min 16 (p.nPower + 1) :=
  (apply_ite Pwr.nPower ..).trans (if_pos (Bool.and_eq_true_iff.mpr ⟨p.throttling_iff.mpr ht, p.quiet10ms_iff.mpr hq⟩))

theorem Pwr.period_ms10_of_not_quiet {p : Pwr}
    (h : ¬ ((p.exhausted = true ∨ p.fastQuiet.isSome = true) ∧ ∀ j < 10000, p.sumAt j + 20000 < 1000 * p.pol.limit.toNat)) :
    (p.period .ms10).nPower = p.nPower :=
  (apply_ite Pwr.nPower ..).trans (if_neg fun hq => h
    ⟨p.throttling_iff.mp (Bool.and_eq_true_iff.mp hq).1, p.quiet10ms_iff.mp (Bool.and_eq_true_iff.mp hq).2⟩)

/-- The 100 µs period takes the selected policy and judges under it. -/
theorem Pwr.period_us100 : (p.period .us100).polInForce = p.polSel ∧
    (p.exhausted = false → ((p.policy.at p.polSel.toNat).peakEn = false ∨ 360000000 ≤ (p.period .us100).excess) →
      (p.period .us100).exhausted = true ∧ (p.period .us100).nPower = min p.nPower 8 ∧ (p.period .us100).exhCnt = satAdd p.exhCnt 1) ∧
    ((p.exhausted = true ∨ ((p.policy.at p.polSel.toNat).peakEn = true ∧ (p.period .us100).excess < 360000000)) →
      (p.period .us100).nPower = p.nPower) := by
  have heq : p.period .us100 = ({ p with polInForce := p.polSel } : Pwr).judge := rfl
  have hpol : (p.period .us100).polInForce = p.polSel := by rw [heq, Pwr.judge_eq]
  have hexcess : (p.period .us100).excess = ({ p with polInForce := p.polSel } : Pwr).excess := by rw [heq, Pwr.judge_eq]; rfl
  refine ⟨hpol, fun he hs => ?_, fun hs => ?_⟩
  · rw [hexcess] at hs
    rw [heq, Pwr.judge_of_spent (p := { p with polInForce := p.polSel }) he hs]
    exact ⟨rfl, rfl, rfl⟩
  · rw [hexcess] at hs
    rw [heq, Pwr.judge_nPower]
    refine if_neg fun ⟨he, hspent⟩ => ?_
    obtain hs | ⟨hp, hx⟩ := hs
    · exact absurd (he.symm.trans hs) Bool.false_ne_true
    · obtain h | h := hspent
      · exact absurd (h.symm.trans hp) Bool.false_ne_true
      · omega

/-- A period steps the share of the power controller and judges; the temperatures, samples and monitors are not its. -/
theorem Pwr.period_keeps (q : Period) : (p.period q).nThermal = p.nThermal ∧ (p.period q).pmon = p.pmon := by
  cases q
  case us100 =>
    show ({ p with polInForce := p.polSel } : Pwr).judge.nThermal = _ ∧ ({ p with polInForce := p.polSel } : Pwr).judge.pmon = _
    rw [Pwr.judge_eq]
    exact ⟨rfl, rfl⟩
  all_goals refine ⟨(apply_ite Pwr.nThermal ..).trans (ite_self _), (apply_ite Pwr.pmon ..).trans (ite_self _)⟩

/-- A period keeps the share from 1 to 16. -/
theorem Pwr.period_bounds {p : Pwr} (q : Period) (hlo : 1 ≤ p.nPower) (hhi : p.nPower ≤ 16) :
    1 ≤ (p.period q).nPower ∧ (p.period q).nPower ≤ 16 := by
  cases q
  case us50 => rw [Pwr.period_us50]; split <;> omega
  case us100 =>
    show 1 ≤ ({ p with polInForce := p.polSel } : Pwr).judge.nPower ∧ ({ p with polInForce := p.polSel } : Pwr).judge.nPower ≤ 16
    rw [Pwr.judge_nPower]
    dsimp only
    split <;> omega
  case ms1 => rw [Pwr.period_ms1]; split <;> omega
  case ms10 =>
    have h : (p.period .ms10).nPower = if p.throttling && p.quiet10ms then min 16 (p.nPower + 1) else p.nPower := apply_ite Pwr.nPower ..
    rw [h]
    split <;> omega

/-- A thermal step moves its own share by at most one. -/
theorem Pwr.thermalStep_nThermal (ms : Bool) : (p.thermalStep ms).nThermal =
    if ms then (if p.allCool then min 16 (p.nThermal + 1) else p.nThermal) else if p.anyHot then max 1 (p.nThermal - 1) else p.nThermal := by
  unfold Pwr.thermalStep
  split
  · split <;> rfl
  · split <;> rfl

theorem Pwr.thermalStep_nPower (ms : Bool) : (p.thermalStep ms).nPower = p.nPower := by
  unfold Pwr.thermalStep
  split
  · split <;> rfl
  · split <;> rfl

end

/-! The commands -/

/-- A report touches the FLT block alone. -/
theorem State.report_eq (s : State) (r : Report) : s.report r = { s with flt := (s.report r).flt } := by
  unfold State.report; split <;> rfl

/-- What a sample reports of a draw above the rating. -/
def State.ratingReport (s : State) (p : Pwr) : State :=
  if p.overRated then ({ s with pwr := p } : State).report { cls := .railClock, sev := .chip } else { s with pwr := p }

theorem exec_powerSample {s : State} (w : Nat) (h : s.ctl.state ≠ .off) :
    exec (.powerSample w) s = .next { s with pwr := s.pwr.sample w, flt := (s.ratingReport (s.pwr.sample w)).flt } := by
  refine (congrArg Host.Outcome.next (if_neg h)).trans (congrArg Host.Outcome.next ?_)
  show s.ratingReport (s.pwr.sample w) = _
  unfold State.ratingReport
  split
  · exact State.report_eq ..
  · rfl

theorem exec_powerControlPeriod {s : State} {p : Period} (h : s.ctl.state ≠ .off) (hp : p ≠ .ms1) :
    exec (.powerControlPeriod p) s = .next { s with pwr := s.pwr.period p } :=
  (congrArg Host.Outcome.next (if_neg h)).trans (congrArg Host.Outcome.next (if_neg hp))

theorem exec_powerControlPeriod_ms1 {s : State} (h : s.ctl.state ≠ .off) :
    exec (.powerControlPeriod .ms1) s = .next ({ s with pwr := s.pwr.period .ms1 } : State).sampleOscillators :=
  (congrArg Host.Outcome.next (if_neg h)).trans (congrArg Host.Outcome.next (if_pos rfl))

/-- Values put at the first places, in turn, read as put over whatever stood there. -/
theorem Sparse.at_foldl_put {α : Type} [Inhabited α] [DecidableEq α] (f : Nat → α) (n : Nat) (m : Sparse α) {i : Nat} (h : i < n) :
    ((List.range n).foldl (fun (t : Sparse α) i => t.put i (f i)) m).at i = f i := by
  induction n with
  | zero => omega
  | succ n ih =>
    rw [List.range_succ, List.foldl_append, List.foldl_cons, List.foldl_nil, Sparse.at_put]
    split
    · next hi => rw [hi]
    · exact ih (by omega)

/-- Settles O20: a sample by what is stored and judged, a period by the share it leaves. -/
theorem powerSamplesAndIssueShare : Obligations.PowerSamplesAndIssueShare := by
  refine ⟨fun s w hon => ⟨_, exec_powerSample w hon, rfl, ?_⟩, fun s p ms hon hlo hhi _ _ => ?_⟩
  · dsimp only
    obtain ⟨hsamples, hexh, hcnt⟩ := s.pwr.stored_keeps w
    rw [Pwr.sample_eq]
    refine ⟨?_, fun hw => ?_, fun hw => ?_, fun he hs => ?_, fun he hp hx => ?_⟩
    · rw [Pwr.judge_eq]
      exact hsamples
    · obtain ⟨hn, hl, hc⟩ := s.pwr.stored_of_fast hw
      refine ⟨(Pwr.judge_nPower_le _).trans (by omega), ?_, ?_⟩ <;> rw [Pwr.judge_eq]
      · exact hl
      · exact hc
    · rw [Pwr.judge_eq]
      exact s.pwr.stored_of_slow hw
    · rw [Pwr.judge_of_spent (hexh.trans he) ((Pwr.judge_spent _).mp hs)]
      exact ⟨rfl, Nat.min_le_right .., by rw [← hcnt]⟩
    · rw [Pwr.judge_eq] at hp hx
      rw [Pwr.judge_of_restored (hexh.trans he) hp hx]
  · intro limit sum
    refine ⟨?_, _, congrArg Host.Outcome.next (if_neg hon), rfl, Pwr.thermalStep_nPower .., Pwr.thermalStep_nThermal ..⟩
    obtain ⟨hblo, hbhi⟩ := Pwr.period_bounds p hlo hhi
    obtain ⟨hth, hmon⟩ := s.pwr.period_keeps p
    by_cases hp : p = .ms1
    · subst hp
      refine ⟨_, exec_powerControlPeriod_ms1 hon, rfl, hblo, hbhi, fun h => absurd rfl h, fun _ g hg => ?_, hth, fun h => ?_, fun h => ?_,
        fun _ => s.pwr.period_ms1, fun h => ?_, fun h => ?_⟩
      · exact Sparse.at_foldl_put (fun g => (Config.freeWord (s.free + g)).setWidth 24) 16 _ hg
      all_goals cases h
    · refine ⟨_, exec_powerControlPeriod hon hp, rfl, hblo, hbhi, fun _ => ⟨rfl, hmon⟩, fun h => absurd h hp, hth, fun h => ?_, fun h => ?_,
        fun h => absurd h hp, fun h ht hq => ?_, fun h hq => ?_⟩
      · subst h
        exact s.pwr.period_us100
      · subst h
        exact s.pwr.period_us50
      · subst h
        exact Pwr.period_ms10_of_quiet ht hq
      · subst h
        refine Pwr.period_ms10_of_not_quiet fun ⟨ht, hall⟩ => ?_
        obtain ⟨he, hf⟩ | ⟨j, hj, hle⟩ := hq
        · simp [he, hf] at ht
        · have := hall j hj
          exact absurd (this.trans_le hle) (Nat.lt_irrefl _)

end Sys2Proof.Machine
end

section
/-! SUPPORT. Temperature, rail and droop samples (R545, R546, R548, R553). -/

namespace Sys2Proof.Machine

/-- The firmware runs, so the controller samples its sources. -/
theorem Dev.guarded_of_live {d : Dev} (h : d.live = true) : d.guarded = true := by cases d <;> first | contradiction | rfl

/-- What a temperature sample leaves of its sensor. -/
theorem Pwr.tempSample_temp (p : Pwr) (k : Nat) (valid : Bool) (x : BitVec 16) : (p.tempSample k valid x).temp.at k =
    { sampled := true, valid := valid, temp := if valid then x else (p.temp.at k).temp
      overs := if valid && decide (tripAt k ≤ x.toInt) then (p.temp.at k).overs + 1 else 0 } := by
  unfold Pwr.tempSample
  dsimp only
  rw [Sparse.at_put_self]
/-- A sensor trips on its second reading in a row at or above the trip point. -/
theorem Pwr.tripped_tempSample (p : Pwr) (k : Nat) (valid : Bool) (x : BitVec 16) : (p.tempSample k valid x).tripped k =
    (valid && decide (tripAt k ≤ x.toInt) && decide (1 ≤ (p.temp.at k).overs)) := by
  unfold Pwr.tripped
  rw [Pwr.tempSample_temp]
  dsimp only
  cases valid <;> by_cases h : tripAt k ≤ x.toInt <;> simp [h]

theorem tempAlarm_eq (k : Nat) (valid : Bool) (x : BitVec 16) :
    tempAlarm k valid x = true ↔ k ≤ 68 ∧ valid = true ∧ (x.toInt < -160 ∨ 1000 < x.toInt) := by
  simp [tempAlarm, dieSensor, and_assoc]

/-- A new measurement in the PWR block. -/
def State.measured (s : State) (p : Pwr) : State := { s with pwr := p }

/-- A temperature sample with power on. -/
theorem exec_tempSample {s : State} {k : BitVec 7} (valid : Bool) (x : BitVec 16) (hlive : s.ctl.state.live = true) (hk : k.toNat < 77) :
    exec (.tempSample k valid x) s = .next
      (if tempAlarm k.toNat valid x then (s.measured (s.pwr.tempSample k.toNat valid x)).alarm .temp
      else if (s.pwr.tempSample k.toNat valid x).tripped k.toNat then (s.measured (s.pwr.tempSample k.toNat valid x)).enterReset 64
      else s.measured (s.pwr.tempSample k.toNat valid x)) := by
  refine (congrArg Host.Outcome.next (if_neg (Dev.ne_of_live hlive).1)).trans (congrArg Host.Outcome.next ?_)
  dsimp only
  rw [if_neg (by omega), Dev.guarded_of_live hlive, Bool.and_true]
  rfl

/-- A rail sample with power on. -/
theorem exec_railSample {s : State} {r : BitVec 4} (mv : BitVec 16) (hlive : s.ctl.state.live = true) (hr : r.toNat ≤ 12) :
    exec (.railSample r mv) s = .next
      (if railGlitch r.toNat mv.toNat then (s.measured (s.pwr.railSample r.toNat mv.toNat)).alarm .vglitch
      else if railOut r.toNat mv.toNat then (s.measured (s.pwr.railSample r.toNat mv.toNat)).report { cls := .railClock, sev := .chip }
      else s.measured (s.pwr.railSample r.toNat mv.toNat)) := by
  refine (congrArg Host.Outcome.next (if_neg (Dev.ne_of_live hlive).1)).trans (congrArg Host.Outcome.next ?_)
  dsimp only
  rw [if_neg (by omega), Dev.guarded_of_live hlive, Bool.and_true]
  rfl

/-- A report enters its place among those to record. -/
theorem State.report_of_awake {s : State} (r : Report) (h : s.ctl.state.awake = true) :
    s.report r = { s with flt := s.flt.detect { r with abandon := r.abandon && s.adm.running, step := s.tmr.step.toNat, time := s.now, cyc := s.tmr.age } } :=
  if_pos h

theorem Dev.awake_of_live {d : Dev} (h : d.live = true) : d.awake = true := by cases d <;> first | contradiction | rfl

theorem exec_droopTrip {s : State} {r g : BitVec 4} (hon : s.ctl.state ≠ .off) (h : r.toNat ≤ 12) (hg : r.toNat ≤ 3 → g.toNat / 4 = r.toNat) :
    exec (.droopTrip r g) s = .next { s with pwr := s.pwr.droopTrip r.toNat g.toNat } := by
  refine (congrArg Host.Outcome.next (if_neg hon)).trans (congrArg Host.Outcome.next (if_neg ?_))
  simp only [Bool.or_eq_true, Bool.and_eq_true, decide_eq_true_eq, bne_iff_ne]
  omega

/-- Settles O21: each sample by its outcome, an alarm, a reset, a report or the new reading. -/
theorem temperaturesRailsDroops : Obligations.TemperaturesRailsDroops := by
  refine ⟨fun s k valid x hlive href hk => ?_, fun s r mv hlive hr => ?_, fun s r g hon => ⟨fun hr hg => ?_, fun hlo hr => ?_, ?_⟩⟩
  · intro hit
    have hexec := exec_tempSample valid x hlive hk
    have hoff := (Dev.ne_of_live hlive).1
    have htrip := s.pwr.tripped_tempSample k.toNat valid x
    have hnone : (68 < k.toNat ∨ valid = false ∨ (-160 ≤ x.toInt ∧ x.toInt ≤ 1000)) → tempAlarm k.toNat valid x = false := fun h => by
      refine Bool.eq_false_iff.mpr fun ha => ?_
      obtain ⟨hdie, hv, hx⟩ := (tempAlarm_eq ..).mp ha
      obtain h | h | h := h
      · omega
      · simp [h] at hv
      · omega
    refine ⟨fun hdie hv hx => ?_, fun hq hhit hover => ?_, fun hq hno => ?_⟩
    · rw [if_pos ((tempAlarm_eq ..).mpr ⟨hdie, hv, hx⟩)] at hexec
      exact ⟨_, hexec, (State.alarm_state ..).trans (if_neg hoff),
        (State.alarm_noted (s := s.measured (s.pwr.tempSample k.toNat valid x)) .temp hoff).1⟩
    · rw [hnone hq, htrip, if_neg Bool.false_ne_true, if_pos (by simp [hhit.1, hhit.2, hover])] at hexec
      obtain ⟨hctl, hcause, hcold, -⟩ := State.enterReset_warm_fields (s := s.measured (s.pwr.tempSample k.toNat valid x)) (m := 64) hlive href
        (by decide)
      exact ⟨_, hexec, congrArg Ctl.state hctl, hcause, hcold⟩
    · rw [hnone hq, htrip, if_neg Bool.false_ne_true, if_neg] at hexec
      · refine ⟨_, hexec, rfl, ?_⟩
        exact ⟨congrArg Temp.valid (s.pwr.tempSample_temp ..), congrArg Temp.temp (s.pwr.tempSample_temp ..)⟩
      · simp only [Bool.and_eq_true, decide_eq_true_eq]
        exact fun ⟨h, hover⟩ => hno.elim (fun hn => hn h) fun h0 => by omega
  · have hexec := exec_railSample mv hlive hr
    have hoff := (Dev.ne_of_live hlive).1
    refine ⟨fun hg => ?_, fun hg ho => ?_, fun hg ho => ?_⟩
    · rw [if_pos hg] at hexec
      exact ⟨_, hexec, (State.alarm_state ..).trans (if_neg hoff),
        (State.alarm_noted (s := s.measured (s.pwr.railSample r.toNat mv.toNat)) .vglitch hoff).1⟩
    · rw [hg, if_neg Bool.false_ne_true, if_pos ho, State.report_of_awake (s := s.measured (s.pwr.railSample r.toNat mv.toNat)) _ (Dev.awake_of_live hlive)] at hexec
      exact ⟨_, _, hexec, rfl, by simp [State.measured, Pwr.railSample, ho], rfl, rfl, rfl⟩
    · rw [hg, ho, if_neg Bool.false_ne_true, if_neg Bool.false_ne_true] at hexec
      exact ⟨_, hexec, rfl, by simp [State.measured, Pwr.railSample], by simp [State.measured, Pwr.railSample, ho]⟩
  · refine ⟨_, exec_droopTrip hon (by omega) fun _ => hg, rfl, rfl, Sparse.at_mod_self s.pwr.droopCnt r.toNat (satAdd · 1), ?_, fun h hh => ?_⟩
    · simp [Pwr.droopTrip, hr]
    · simp only [Pwr.droopTrip, if_pos hr]
      exact Sparse.at_put_ne _ _ hh
  · refine ⟨_, exec_droopTrip hon hr fun h => by omega, rfl, rfl, Sparse.at_mod_self s.pwr.droopCnt r.toNat (satAdd · 1), ?_⟩
    simp [Pwr.droopTrip, Nat.not_le.mpr hlo]
  · exact ⟨_, congrArg Host.Outcome.next (if_neg hon), rfl, Sparse.at_put_self s.pwr.gate g.toNat false, fun h hh => Sparse.at_put_ne s.pwr.gate false hh⟩

end Sys2Proof.Machine
end

section
/-! SUPPORT. What an entry written to a completion queue leaves of the HIF block (R475, R476, R484, R485). -/

namespace Sys2Proof.Machine

theorem Hif.sendMsix_eq (h : Hif) (v : Nat) : h.sendMsix v = { h with pba := (h.sendMsix v).pba, out := (h.sendMsix v).out } := by
  unfold Hif.sendMsix
  dsimp only
  split <;> rfl

theorem Hif.signalCq_eq (h : Hif) (v q : Nat) (b : Bool) : h.signalCq v q b =
    { h with cq := (h.signalCq v q b).cq, pba := (h.signalCq v q b).pba, out := (h.signalCq v q b).out } := by
  unfold Hif.signalCq
  dsimp only
  repeat' split
  · rfl
  · rw [Hif.sendMsix_eq]
  · rfl

/-- An entry written changes host memory, its queue, and what the interrupts leave. -/
theorem Hif.writeEntry_eq (h : Hif) (v q : Nat) (c : Compl) : h.writeEntry v q c =
    { h with mem := (h.writeEntry v q c).mem, cq := (h.writeEntry v q c).cq, pba := (h.writeEntry v q c).pba, out := (h.writeEntry v q c).out } := by
  unfold Hif.writeEntry
  dsimp only
  rw [Hif.signalCq_eq]
  split <;> rfl

theorem Hif.post_eq (h : Hif) (v q : Nat) (c : Compl) : h.post v q c =
    { h with mem := (h.post v q c).mem, cq := (h.post v q c).cq, pba := (h.post v q c).pba, out := (h.post v q c).out } := by
  unfold Hif.post
  dsimp only
  repeat' split
  · rfl
  · rfl
  · exact Hif.writeEntry_eq ..

/-- A completion is a posted entry. -/
theorem Hif.complete_eq (h : Hif) (v : Nat) (e : Entry) (code : Code) (detail : Nat) (r0 r1 r2 : W64) :
    h.complete v e code detail r0 r1 r2 = { h with
      mem := (h.complete v e code detail r0 r1 r2).mem, cq := (h.complete v e code detail r0 r1 r2).cq
      pba := (h.complete v e code detail r0 r1 r2).pba, out := (h.complete v e code detail r0 r1 r2).out } := Hif.post_eq ..

/-- An event is a posted entry, waits, or is lost. -/
theorem Hif.event_eq (h : Hif) (v type detail : Nat) (r0 r1 r2 : W64) : h.event v type detail r0 r1 r2 = { h with
    mem := (h.event v type detail r0 r1 r2).mem, cq := (h.event v type detail r0 r1 r2).cq, pba := (h.event v type detail r0 r1 r2).pba
    out := (h.event v type detail r0 r1 r2).out, events := (h.event v type detail r0 r1 r2).events
    evtLost := (h.event v type detail r0 r1 r2).evtLost } := by
  unfold Hif.event
  dsimp only
  repeat' split
  · rw [Hif.writeEntry_eq]
  · rfl
  · rfl

theorem Hif.release_eq (v q n : Nat) (h : Hif) : Hif.release v q n h = { h with
    mem := (Hif.release v q n h).mem, cq := (Hif.release v q n h).cq, pba := (Hif.release v q n h).pba, out := (Hif.release v q n h).out
    events := (Hif.release v q n h).events } := by
  induction n generalizing h with
  | zero => rfl
  | succ n ih =>
    unfold Hif.release
    dsimp only
    repeat' split
    · rfl
    · rw [ih, Hif.writeEntry_eq]
    · rw [ih, Hif.writeEntry_eq]
    · rfl
    · rfl

end Sys2Proof.Machine
end

section
/-! SUPPORT. Host commands: rejected by state, completed, and moves of the device state (R475, R484, R487 to R489). -/

namespace Sys2Proof.Machine

/-! What a command that is due does -/

/-- A host command that its state forbids: counted, logged, and completed with STATE_REJECT (R488, R489). -/
def State.refused (s : State) (i : Nat) (e : Entry) : State :=
  ({ s with ctl := s.ctl.reject e.opcode e.sq } : State).finish i .stateReject s.ctl.state.code

theorem State.command_of_illegal {s : State} {i op : Nat} {e : Entry} (legal : Dev → Bool) (k : Entry → State) (h : s.due i e op)
    (hl : legal s.ctl.state = false) : s.command i op legal k = s.refused i e := by
  obtain ⟨hf, hop, hturn, hlive⟩ := h
  simp [State.command, hf, hop, hturn, hlive, hl, State.refused]

/-- An entry that completes leaves the fetched ones. -/
theorem State.finish_of_fetched {s : State} {i : Nat} {e : Entry} (hf : s.hif.fetched[i]? = some e) (hlive : s.ctl.state.live = true) (code : Code)
    (detail : Nat := 0) (r0 r1 r2 : W64 := 0) : s.finish i code detail r0 r1 r2 =
      { s with hif := { s.hif with fetched := s.hif.fetched.eraseIdx i }.complete s.hci e code detail r0 r1 r2 } := by
  simp only [State.finish, hf, State.complete]
  exact if_pos hlive

theorem State.finish_of_due {s : State} {i op : Nat} {e : Entry} (h : s.due i e op) (code : Code) (detail : Nat := 0) (r0 r1 r2 : W64 := 0) :
    s.finish i code detail r0 r1 r2 =
      { s with hif := { s.hif with fetched := s.hif.fetched.eraseIdx i }.complete s.hci e code detail r0 r1 r2 } :=
  State.finish_of_fetched h.1 h.2.2.2 code detail r0 r1 r2

/-- A move of the device state while the firmware runs posts its event (R484, R492). -/
theorem State.goto_live {s : State} {d : Dev} (h : s.ctl.state ≠ d) (hd : d.live = true) : s.goto d =
    { s with ctl := { s.ctl with state := d, prev := s.ctl.state }
             hif := s.hif.event s.hci 0x01 0 (BitVec.ofNat 64 (d.code + 16 * s.ctl.state.code)) 0 0 } := by
  have hctl : s.ctl.goto d = { s.ctl with state := d, prev := s.ctl.state } := if_neg h
  unfold State.goto State.event
  dsimp only
  rw [if_neg h, if_pos hd, hctl, if_pos (Dev.awake_of_live hd)]
  rfl

theorem State.finish_goto_of_due {s : State} {i op : Nat} {e : Entry} {d : Dev} (hdue : s.due i e op) (code : Code) (h : s.ctl.state ≠ d)
    (hd : d.live = true) : (s.finish i code).goto d =
    { s with ctl := { s.ctl with state := d, prev := s.ctl.state }
             hif := ({ s.hif with fetched := s.hif.fetched.eraseIdx i }.complete s.hci e code).event s.hci 0x01 0
              (BitVec.ofNat 64 (d.code + 16 * s.ctl.state.code)) 0 0 } := by
  rw [State.finish_of_due hdue]
  exact State.goto_live h hd

/-! SYNC's operation codes -/

theorem fld64_low_byte (v : W64) : fld64 v 7 0 = v.toNat % 256 := by simp [fld64]

/-- A SYNC with its own operation code is a command of its own. -/
theorem State.syncCmd_of_due {s : State} {i k : Nat} {e : Entry} (ok : Nat → Bool) (f : Entry → Nat → State) (h : s.due i e 0x30)
    (hk : e.p0.toNat % 256 = k) : s.syncCmd i k ok f = s.command i 0x30 (syncLegal (k == 5)) fun e =>
      if e.p0.toNat ≠ k + fld64 e.p0 29 16 * 2 ^ 16 || !ok e.p1.toNat then s.finish i .invalidField else f e (fld64 e.p0 29 16) := by
  obtain ⟨hf, -⟩ := h
  simp only [State.syncCmd, hf, fld64_low_byte, hk, ne_eq, not_true_eq_false, if_false]

/-- SYNC_SIGNAL with its own code is not one of the codes it refuses. -/
theorem exec_syncSignal_of_due {s : State} {i : Nat} {e : Entry} (parity : Bool) (h : s.due i e 0x30) (hk : e.p0.toNat % 256 = 1) :
    exec (.syncSignal i parity) s = .next (s.syncCmd i 1 (fun v => decide (v < 2 ^ 32)) fun e o =>
      (if e.p1 = 0 then s else (s.parityAt o parity).hostSync o (.signal (e.p1.setWidth 32))).finish i .success) := by
  obtain ⟨hf, -⟩ := h
  refine congrArg Host.Outcome.next ?_
  simp only [hf, fld64_low_byte, hk]
  exact if_neg (by simp)

/-- The states in which SYNC is legal. -/
theorem syncLegal_eq (read : Bool) (d : Dev) : syncLegal read d = legalIn 0x30 read d := by
  cases d <;> cases read <;> rfl

/-- The states in which a sample or a snapshot is taken. -/
theorem sampleLegal_eq (d : Dev) : (d == .loaded || d == .armed || d.running) = legalIn 0x20 false d := by cases d <;> rfl

/-! Commands that their state forbids -/

section
variable {s : State} {i : Nat} {e : Entry}

theorem exec_imageLoad_of_illegal (b : Bool) (k : Nat) (x : Ecc) (h : s.due i e 0x10)
    (hl : legalIn 0x10 false s.ctl.state = false ∨ s.upd.sweep.isSome = true) : exec (.imageLoad i b k x) s = .next (s.refused i e) := by
  refine congrArg Host.Outcome.next (State.command_of_illegal _ _ h ?_)
  obtain hl | hs := hl
  · exact Bool.and_eq_false_iff.mpr (.inl hl)
  · exact Bool.and_eq_false_iff.mpr (.inr (by simpa using hs))

theorem exec_faultClear_of_illegal (h : s.due i e 0x18) (hl : legalIn 0x18 false s.ctl.state = false) :
    exec (.faultClear i) s = .next (s.refused i e) := by
  have hst : s.ctl.state ≠ .fault := fun hf => by simp [legalIn, hf] at hl
  refine congrArg Host.Outcome.next ((if_neg ?_).trans (State.command_of_illegal _ _ h hl))
  simp [hst]

theorem exec_rollbackAdvance_of_illegal (h : s.due i e 0x62) (hb : s.sec.blow = []) (hl : legalIn 0x62 false s.ctl.state = false) :
    exec (.rollbackAdvance i) s = .next (s.refused i e) :=
  congrArg Host.Outcome.next ((if_neg (by simp [hb])).trans (State.command_of_illegal _ _ h hl))

/-- A SYNC in a state that forbids its operation. -/
theorem State.syncCmd_of_illegal {k : Nat} (ok : Nat → Bool) (f : Entry → Nat → State) (h : s.due i e 0x30)
    (hl : legalIn 0x30 (fld64 e.p0 7 0 == 5) s.ctl.state = false) (hk : e.p0.toNat % 256 = k) : s.syncCmd i k ok f = s.refused i e := by
  rw [State.syncCmd_of_due ok f h hk]
  refine State.command_of_illegal _ _ h ?_
  rw [syncLegal_eq, ← hk, ← fld64_low_byte]
  exact hl

end

/-- Settles O26: each command is `State.command` with the states of R488. -/
theorem illegalCommandRejected : Obligations.IllegalCommandRejected := by
  intro s i e no r
  have hr : r = s.refused i e := rfl
  have rejects : ∀ {op : Nat} (legal : Dev → Bool) (k : Entry → State), no op →
      (legalIn op (fld64 e.p0 7 0 == 5) s.ctl.state = false → legal s.ctl.state = false) → Host.Outcome.next (s.command i op legal k) =
        (.next r : Host.Outcome State Fault Refusal) :=
    fun legal k h hl => congrArg Host.Outcome.next (State.command_of_illegal legal k h.1 (hl h.2))
  refine ⟨fun h b k x => ?_, fun h => rejects _ _ h id, fun h => rejects _ _ h id, fun h => rejects _ _ h id, fun h => rejects _ _ h id,
    fun h => rejects _ _ h id, fun h => ?_, fun h => rejects _ _ h (sampleLegal_eq _).trans, fun b h => ?_, fun h x => rejects _ _ h id,
    fun h x => rejects _ _ h id, fun h => rejects _ _ h (sampleLegal_eq _).trans, fun h hb => exec_rollbackAdvance_of_illegal h.1 hb h.2⟩
  · obtain ⟨hdue, hl⟩ | ⟨hdue, hs⟩ := h
    · exact exec_imageLoad_of_illegal b k x hdue (.inl hl)
    · exact exec_imageLoad_of_illegal b k x hdue (.inr hs)
  · exact exec_faultClear_of_illegal h.1 h.2
  · obtain ⟨hdue, hl⟩ := h
    have cmd : ∀ {k : Nat} (ok : Nat → Bool) (f : Entry → Nat → State), e.p0.toNat % 256 = k → s.syncCmd i k ok f = r :=
      fun ok f hk => State.syncCmd_of_illegal ok f hdue hl hk
    refine ⟨fun hk => ?_, fun hk => congrArg Host.Outcome.next (cmd _ _ hk), fun hk => congrArg Host.Outcome.next (cmd _ _ hk),
      fun hk => congrArg Host.Outcome.next (cmd _ _ hk), fun hk => congrArg Host.Outcome.next (cmd _ _ hk), fun hk hv => ?_⟩
    · rw [exec_syncSignal_of_due b hdue hk, cmd _ _ hk]
    · exact congrArg Host.Outcome.next ((if_neg (by omega)).trans (cmd _ _ hk))

end Sys2Proof.Machine
end

section
/-! SUPPORT. ARM, DISARM, RUN and DRAIN (R479, R487, R492, R534). -/

namespace Sys2Proof.Machine

section
variable {s : State} {i : Nat} {e : Entry}

theorem exec_arm_of_due (hdue : s.due i e 0x11) (hst : s.ctl.state = .loaded) :
    exec (.arm i) s = .next (if s.tmr.timeValid then (s.finish i .success).goto .armed else s.finish i .precondition) :=
  congrArg Host.Outcome.next (State.command_of_due _ _ hdue (by simp [hst]))

theorem exec_disarm_of_due (hdue : s.due i e 0x12) (hst : s.ctl.state = .armed) :
    exec (.disarm i) s = .next ((s.finish i .success).goto .loaded) :=
  congrArg Host.Outcome.next (State.command_of_due _ _ hdue (by simp [hst]))

/-- The CTL block a RUN leaves before the state changes. -/
def Ctl.runFor (c : Ctl) (n : W64) : Ctl := { c with stepsLeft := if n = 0 then unbounded else n.setWidth 32, untilDrain := n = 0 }

theorem exec_run_of_due (hdue : s.due i e 0x13) (hst : s.ctl.state = .armed) : exec (.run i) s = .next
    (if 2 ^ 32 ≤ e.p0.toNat then s.finish i .invalidField else if s.flt.needFlush then s.finish i .precondition
      else (({ s with ctl := s.ctl.runFor e.p0 } : State).finish i .success).goto .stepping) :=
  congrArg Host.Outcome.next (State.command_of_due _ _ hdue (by simp [hst]))

theorem exec_drain_of_due (hdue : s.due i e 0x14) (hst : s.ctl.state.running = true) : exec (.drain i) s = .next
    (if s.ctl.state = .stepping then (if s.adm.running then (s.finish i .success).goto .draining
      else ((s.finish i .success).goto .draining).goto .armed) else s.finish i .success) :=
  congrArg Host.Outcome.next (State.command_of_due _ _ hdue hst)

/-- Entry i stays due when the CTL block changes but for the state. -/
theorem State.due_withCtl {op : Nat} {c : Ctl} (h : s.due i e op) (hc : c.state = s.ctl.state) : ({ s with ctl := c } : State).due i e op := by
  obtain ⟨hf, hop, hturn, hlive⟩ := h
  exact ⟨hf, hop, hturn, (congrArg Dev.live hc).trans hlive⟩

end

/-- Settles O28: each command by what it does in its legal states, and each move by `State.goto_live`. -/
theorem armRunDrain : Obligations.ArmRunDrain := by
  intro s i e done told moves
  refine ⟨fun hdue hst hv => ?_, fun hdue hst hv => ?_, fun hdue hst => ?_, fun hdue hst hf hn => ?_, fun hdue hst hf hn => ?_,
    fun hdue hst hn => ?_, fun hdue hst hr => ?_, fun hdue hst hr => ?_, fun hdue hst => ?_⟩
  · refine ⟨_, (exec_arm_of_due hdue hst).trans (congrArg Host.Outcome.next (if_pos hv)), ?_⟩
    rw [State.finish_goto_of_due hdue .success (by simp [hst]) rfl]
    exact ⟨rfl, rfl, rfl⟩
  · rw [exec_arm_of_due hdue hst, if_neg (by simp [hv])]
  · refine ⟨_, exec_disarm_of_due hdue hst, ?_⟩
    rw [State.finish_goto_of_due hdue .success (by simp [hst]) rfl]
    exact ⟨rfl, rfl, rfl⟩
  · have hexec := exec_run_of_due hdue hst
    have hmove := State.finish_goto_of_due (d := .stepping) (State.due_withCtl (c := s.ctl.runFor e.p0) hdue rfl) .success
      (by simp [Ctl.runFor, hst]) rfl
    rw [if_neg (by omega), if_neg (by simp [hf]), hmove] at hexec
    exact ⟨⟨_, hexec, rfl, rfl, rfl⟩, _, hexec, rfl, decide_eq_true_iff⟩
  · rw [exec_run_of_due hdue hst, if_neg (by omega), if_pos hf]
  · rw [exec_run_of_due hdue hst, if_pos hn]
  · refine ⟨_, (exec_drain_of_due hdue (by simp [hst, Dev.running])).trans
      (congrArg Host.Outcome.next ((if_pos hst).trans (if_pos hr))), ?_⟩
    rw [State.finish_goto_of_due hdue .success (by simp [hst]) rfl]
    exact ⟨rfl, rfl, rfl⟩
  · refine ⟨_, (exec_drain_of_due hdue (by simp [hst, Dev.running])).trans
      (congrArg Host.Outcome.next ((if_pos hst).trans (if_neg (by simp [hr])))), ?_⟩
    rw [State.finish_goto_of_due hdue .success (by simp [hst]) rfl, State.goto_live (by simp) rfl]
    refine ⟨rfl, rfl, ?_⟩
    rw [hst]
    rfl
  · rw [exec_drain_of_due hdue (by simp [hst, Dev.running]), if_neg (by simp [hst]), State.finish_of_due hdue]

end Sys2Proof.Machine
end

section
/-! SUPPORT. NOP, IDENTIFY and ATTEST (R479, R480, R505). -/

namespace Sys2Proof.Machine

theorem bytesOf_length (n v : Nat) : (bytesOf n v).length = n := by simp [bytesOf]

/-- The identity page has the size of R479. -/
theorem State.identity_length (s : State) : s.identity.length = 4096 := by
  have hsec : ((List.range 32).flatMap fun t => bytesOf 2 (if t < 14 then (Config.sectionVersion (t + 1)).toNat else 0)).length = 64 := by
    simp [List.length_flatMap, bytesOf_length]
  simp only [State.identity, List.length_append, List.length_map, List.length_range, List.length_replicate, bytesOf_length, hsec]

section
variable {s : State} {i : Nat} {e : Entry}

theorem exec_identify_of_due (hdue : s.due i e 0x01) : exec (.identify i) s = .next
    (if e.p0.toNat % 4096 ≠ 0 || s.hif.busErr e.p0.toNat 4096 then s.finish i .address
      else ({ s with hif := s.hif.writeMem e.p0.toNat s.identity } : State).finish i .success) :=
  congrArg Host.Outcome.next (State.command_of_due _ _ hdue hdue.2.2.2)

/-- The state with the report and its signature in the host's buffer. -/
def State.attested (s : State) (e : Entry) : State :=
  { s with hif := s.hif.writeMem e.p0.toNat (s.attestation e ++ s.sec.signBlock s.free (s.attestation e)), free := s.free + 1 }

theorem exec_attest_of_due (hdue : s.due i e 0x60) : exec (.attest i) s = .next
    (if e.p0.toNat % 64 ≠ 0 || s.hif.busErr e.p0.toNat 3584 then s.finish i .address
      else if e.p1.toNat < 3584 then s.finish i .tooSmall 0 3584
      else if !s.sec.idKeyReady then s.finish i .precondition else (s.attested e).finish i .success) :=
  congrArg Host.Outcome.next (State.command_of_due _ _ hdue hdue.2.2.2)

end

/-- Settles O27: each command by its checks in order. -/
theorem identityCommands : Obligations.IdentityCommands := by
  refine ⟨fun s i e => ⟨fun hdue => ?_, fun hdue h => ?_, fun hdue ha hb => ⟨?_, s.identity_length⟩⟩, fun s i e hdue => ?_⟩
  · exact congrArg Host.Outcome.next (State.command_of_due _ _ hdue hdue.2.2.2)
  · rw [exec_identify_of_due hdue, if_pos (by simpa using h)]
  · rw [exec_identify_of_due hdue, if_neg (by simp [ha, hb])]
  · intro reached
    have hexec := exec_attest_of_due hdue
    have hpass : reached → (decide (e.p0.toNat % 64 ≠ 0) || s.hif.busErr e.p0.toNat 3584) = false := fun ⟨ha, hb⟩ => by simp [ha, hb]
    refine ⟨fun h => ?_, fun h hn => ?_, fun h hn hk => ?_, fun h hn hk => ?_⟩
    · rw [hexec, if_pos]
      have h : ¬ (e.p0.toNat % 64 = 0 ∧ s.hif.busErr e.p0.toNat 3584 = false) := h
      simpa [imp_iff_not_or] using h
    · rw [hexec, hpass h, if_neg Bool.false_ne_true, if_pos hn]
    · rw [hexec, hpass h, if_neg Bool.false_ne_true, if_neg (by omega), if_pos (by simp [hk])]
    · rw [hexec, hpass h, if_neg Bool.false_ne_true, if_neg (by omega), if_neg (by simp [hk])]
      rfl

end Sys2Proof.Machine
end

section
/-! SUPPORT. SAMPLE, MAIL_SEND and MAIL_RECV (R391, R404, R480, R483). -/

namespace Sys2Proof.Machine

section
variable {s : State} {i : Nat} {e : Entry}

theorem exec_sample_of_due (hdue : s.due i e 0x20) (hl : legalIn 0x20 false s.ctl.state = true) : exec (.sample i) s = .next
    (if !sampleFieldsOk e.data then s.finish i .invalidField
      else { s with hif := { s.hif with fetched := s.hif.fetched.eraseIdx i }, inp := { s.inp with queue := s.inp.queue ++ [e] } }) :=
  congrArg Host.Outcome.next (State.command_of_due _ _ hdue ((sampleLegal_eq _).trans hl))

/-- The mail a MAIL_SEND names: its node, its MSG and the length of its payload. -/
def mailNode (e : Entry) : Nat := e.p0.toNat % 2 ^ 12
def mailMsg (e : Entry) : Nat := e.p0.toNat / 2 ^ 16 % 2 ^ 8
def mailLen (e : Entry) : Nat := e.p0.toNat / 2 ^ 32 % 2 ^ 16

theorem exec_mailSend_of_due (hdue : s.due i e 0x50) : exec (.mailSend i) s = .next
    (if e.p0.toNat ≠ mailNode e + mailMsg e * 2 ^ 16 + mailLen e * 2 ^ 32 || mailMsg e < 0x80 || 4096 < mailLen e then s.finish i .invalidField
      else if s.hif.busErr e.p1.toNat (mailLen e) then s.finish i .address
      else { s with
        hif := { s.hif with fetched := s.hif.fetched.eraseIdx i }
        lnk := s.lnk.injectPkt { dst := mailNode e, src := s.lnk.nodeId.toNat, msg := mailMsg e, vc := 6
                                 payload := s.hif.readMem e.p1.toNat (mailLen e) } (some e) }) := by
  refine congrArg Host.Outcome.next ((State.command_of_due _ _ hdue hdue.2.2.2).trans ?_)
  have hnode : fld64 e.p0 11 0 = mailNode e := by simp [fld64, mailNode]
  have hlimit : plenLimit 2 = 4096 := rfl
  dsimp only
  rw [hnode, hlimit]
  rfl

/-- The fields of p0 with nothing between them are the whole of it. -/
theorem mailFields_iff (e : Entry) : e.p0.toNat = mailNode e + mailMsg e * 2 ^ 16 + mailLen e * 2 ^ 32 ↔
    ¬ (e.p0.toNat / 2 ^ 12 % 2 ^ 4 ≠ 0 ∨ e.p0.toNat / 2 ^ 24 % 2 ^ 8 ≠ 0 ∨ e.p0.toNat / 2 ^ 48 ≠ 0) := by
  unfold mailNode mailMsg mailLen
  generalize e.p0.toNat = p
  omega

/-- MAIL_RECV once its entry has left the fetched ones. -/
theorem exec_mailRecv_of_none (hdue : s.due i e 0x51) (hm : s.hif.mailHeld = []) : exec (.mailRecv i) s =
    .next { s with hif := { { s.hif with fetched := s.hif.fetched.eraseIdx i } with mailRecv := s.hif.mailRecv ++ [e] } } := by
  refine congrArg Host.Outcome.next ((State.command_of_due _ _ hdue hdue.2.2.2).trans ?_)
  simp only [hm]

/-- The oldest packet held goes to the buffer. -/
def State.mailTaken (s : State) (i : Nat) (e : Entry) (m : Mail) (r : List Mail) : Hif :=
  { ({ s.hif with fetched := s.hif.fetched.eraseIdx i, mailRecv := [e], mailHeld := [] }.mailbox s.hci m) with
    mailHeld := r
    mailTold := ({ s.hif with fetched := s.hif.fetched.eraseIdx i, mailRecv := [e], mailHeld := [] }.mailbox s.hci m).mailTold && !r.isEmpty }

theorem exec_mailRecv_of_some {m : Mail} {r : List Mail} (hdue : s.due i e 0x51) (hm : s.hif.mailHeld = m :: r) : exec (.mailRecv i) s =
    .next (if s.hif.busErr e.p1.toNat m.bytes.length then s.finish i .address else { s with hif := s.mailTaken i e m r }) := by
  refine congrArg Host.Outcome.next ((State.command_of_due _ _ hdue hdue.2.2.2).trans ?_)
  simp only [hm]
  rfl

end

/-- A packet for the one buffer outstanding, which the host can reach. -/
theorem Hif.mailbox_of_buffer {h : Hif} {v : Nat} {e : Entry} {m : Mail} (hr : h.mailRecv = [e])
    (hok : h.busErr e.p1.toNat m.bytes.length = false) : h.mailbox v m =
    ({ h with mailRecv := [] }.writeMem e.p1.toNat m.bytes).complete v e .success 0 (BitVec.ofNat 64 m.node)
      (BitVec.ofNat 64 (m.msg + (m.bytes.length - 8) * 2 ^ 16)) := by
  simp [Hif.mailbox, hr, hok]

/-- Settles O30: each command by its checks, and the packet taken by `Hif.mailbox_of_buffer`. -/
theorem entriesThatWait : Obligations.EntriesThatWait := by
  refine ⟨fun s i e hdue hl => ⟨fun hok => ?_, fun hbad => ?_⟩, fun s i e hdue => ?_, fun s i e hdue => ⟨exec_mailRecv_of_none hdue, fun m r hm => ?_⟩⟩
  · rw [exec_sample_of_due hdue hl, if_neg (by simp [hok])]
  · rw [exec_sample_of_due hdue hl, if_pos (by simp [hbad])]
  · intro p node msg plen reserved
    have hexec := exec_mailSend_of_due hdue
    have hpass : ¬ reserved → 0x80 ≤ msg → plen ≤ 4096 →
        (decide (e.p0.toNat ≠ mailNode e + mailMsg e * 2 ^ 16 + mailLen e * 2 ^ 32) || decide (mailMsg e < 0x80) || decide (4096 < mailLen e)) = false :=
      fun hf hm hl => by
        have hlen : mailLen e ≤ 4096 := hl
        have hmsg : 0x80 ≤ mailMsg e := hm
        simpa [hlen, hmsg] using (mailFields_iff e).mpr hf
    refine ⟨fun hf hm hl hb => ?_, fun hf hm hl hb => ?_, fun h => ?_⟩
    · rw [hexec, hpass hf hm hl, if_neg Bool.false_ne_true, if_neg]
      · rfl
      · exact fun h => Bool.false_ne_true (hb.symm.trans h)
    · rw [hexec, hpass hf hm hl, if_neg Bool.false_ne_true, if_pos]
      exact hb
    · rw [hexec, if_pos]
      have h : reserved ∨ mailMsg e < 0x80 ∨ 4096 < mailLen e := h
      have hf : reserved ↔ ¬ e.p0.toNat = mailNode e + mailMsg e * 2 ^ 16 + mailLen e * 2 ^ 32 := by
        rw [mailFields_iff]
        exact not_not.symm
      rw [hf] at h
      simpa [or_assoc] using h
  · refine ⟨fun hb => ?_, fun hb => ?_⟩
    · rw [exec_mailRecv_of_some hdue hm, if_pos hb]
    · refine ⟨_, (exec_mailRecv_of_some hdue hm).trans (congrArg Host.Outcome.next (if_neg (by simp [hb]))), rfl, ?_⟩
      show s.mailTaken i e m r = _
      unfold State.mailTaken
      rw [Hif.mailbox_of_buffer (h := { s.hif with fetched := s.hif.fetched.eraseIdx i, mailRecv := [e], mailHeld := [] }) rfl hb,
        Hif.complete_eq]
      rfl

end Sys2Proof.Machine
end

section
/-! SUPPORT. STEP_ABORT and FAULT_CLEAR (R479, R487, R521, R532, R536, R538). -/

namespace Sys2Proof.Machine

/-- Readiness noted leaves the tiles but for the order. -/
theorem State.noteReady_eq (s : State) (ts : List Nat) :
    s.noteReady ts = { s with fab := { s.fab with readyLog := (s.noteReady ts).fab.readyLog } } := by
  unfold State.noteReady; split <;> rfl

theorem State.noteAll_eq (s : State) : s.noteAll = { s with fab := { s.fab with readyLog := s.noteAll.fab.readyLog } } := State.noteReady_eq ..

theorem State.complete_fetched (s : State) (e : Entry) (code : Code) (detail : Nat) (r0 r1 r2 : W64) :
    (s.complete e code detail r0 r1 r2).hif.fetched = s.hif.fetched := by
  unfold State.complete
  split
  · rw [Hif.complete_eq]
  · rfl

theorem State.completeAll_fetched (s : State) (l : List Entry) (code : Code) : (s.completeAll l code).hif.fetched = s.hif.fetched :=
  foldl_keeps (P := fun t : State => t.hif.fetched = s.hif.fetched) (fun t _ ht => (t.complete_fetched ..).trans ht) l rfl

theorem State.syncReset_fetched (s : State) (os : List Nat) (init : Nat → Nat × Nat) (keep : Bool) :
    (s.syncReset os init keep).hif.fetched = s.hif.fetched := State.completeAll_fetched ..

theorem State.leaveStep_eq {s : State} (h : s.ctl.state.running = false) (hold : Bool) :
    s.leaveStep hold = ({ s with fab := { s.fab with hold := hold } } : State).noteAll := by
  unfold State.leaveStep
  exact if_neg (by simp [h])

section
variable {s : State} {i : Nat} {e : Entry}

theorem exec_stepAbort_of_due (hdue : s.due i e 0x15) (hst : s.ctl.state.running = true) : exec (.stepAbort i) s =
    .next (((s.report { cls := .hostAbort, sev := .contained, abandon := true }).abandon).finish i .success) :=
  congrArg Host.Outcome.next (State.command_of_due _ _ hdue hst)

/-- An abandonment that starts at once. -/
theorem State.abandon_starts (ha : s.flt.abandoning = false) (hu : (s.adm.running && s.adm.updStarted) = false) : s.abandon =
    { s with adm := { s.adm with refused := true }, fab := { s.fab with hold := true, readyLog := [] }, flt := { s.flt with abandoning := true } } := by
  unfold State.abandon
  rw [if_neg (by simp [ha]), if_neg (by simp [hu])]

/-- What FAULT_CLEAR leaves of the state once a step's remains are given up: the tiles free, and no fault deferred. -/
def State.unheld (s : State) : State :=
  ({ s with fab := { s.fab with hold := false }, flt := { s.flt with chipAfter := false, deferred := false } } : State).noteAll

theorem State.unheld_eq (s : State) : s.unheld = { s with
    fab := { s.fab with hold := false, readyLog := s.unheld.fab.readyLog }, flt := { s.flt with chipAfter := false, deferred := false } } :=
  State.noteAll_eq _

/-- The guard and the legality of FAULT_CLEAR, once no abandonment is under way. -/
theorem State.command_faultClear (k : Entry → State) (hdue : s.due i e 0x18) (hst : s.ctl.state = .fault) (hab : s.flt.abandoning = false) :
    (if s.flt.abandoning && s.ctl.state = .fault then s else s.command i 0x18 (· == .fault) k) = k e :=
  (if_neg (by simp [hab])).trans (State.command_of_due _ _ hdue (by simp [hst]))

/-- The end of FAULT_CLEAR in a state in which the entry still stands. -/
theorem State.unheld_finish_goto {u : State} {d : Dev} (hf : u.hif.fetched[i]? = some e) (hst : u.ctl.state = .fault) (hd : d.live = true) (hne : d ≠ .fault) :
    (u.unheld.finish i .success).goto d = { u.unheld with
      ctl := { u.ctl with state := d, prev := .fault }
      hif := ({ u.hif with fetched := u.hif.fetched.eraseIdx i }.complete u.hci e .success).event u.hci 0x01 0
        (BitVec.ofNat 64 (d.code + 16 * 8)) 0 0 } := by
  have hfin : u.unheld.finish i .success =
      { u.unheld with hif := { u.hif with fetched := u.hif.fetched.eraseIdx i }.complete u.hci e .success } := by
    rw [State.unheld_eq, State.finish_of_fetched (e := e) (by exact hf) (by simp [hst]; rfl)]
    rfl
  rw [hfin, State.unheld_eq, State.goto_live (by simpa [hst] using hne.symm) hd]
  simp only [hst]
  rfl

theorem exec_faultClear_idle {im : Image} (hdue : s.due i e 0x18) (hst : s.ctl.state = .fault) (hab : s.flt.abandoning = false)
    (him : s.img = some im) (hrun : s.adm.running = false) : exec (.faultClear i) s = .next ((s.unheld.finish i .success).goto .loaded) := by
  refine congrArg Host.Outcome.next ((State.command_faultClear _ hdue hst hab).trans ?_)
  simp only [him, hrun]
  have himg : s.unheld.img.isSome = true := by rw [State.unheld_eq]; simp [him]
  rw [← him]
  exact congrArg (State.goto (s.unheld.finish i .success)) (if_pos himg)

theorem exec_faultClear_step {im : Image} (hdue : s.due i e 0x18) (hst : s.ctl.state = .fault) (hab : s.flt.abandoning = false)
    (him : s.img = some im) (hrun : s.adm.running = true) :
    exec (.faultClear i) s = .next (((s.dropStep im).unheld.finish i .success).goto .loaded) := by
  refine congrArg Host.Outcome.next ((State.command_faultClear _ hdue hst hab).trans ?_)
  simp only [him, hrun]
  have himg : (s.dropStep im).unheld.img.isSome = true := by rw [State.unheld_eq]; simp [State.dropStep, him]
  exact congrArg (State.goto ((s.dropStep im).unheld.finish i .success)) (if_pos himg)

/-- What a fault that lost its image leaves. -/
def State.lostStep (s : State) : State := if s.adm.running then s.abandonLost else { s with fab := s.fab.cleared }

theorem exec_faultClear_lost (hdue : s.due i e 0x18) (hst : s.ctl.state = .fault) (hab : s.flt.abandoning = false) (him : s.img = none) :
    exec (.faultClear i) s = .next ((s.lostStep.unheld.finish i .success).goto .ready) := by
  refine congrArg Host.Outcome.next ((State.command_faultClear _ hdue hst hab).trans ?_)
  have himg : s.lostStep.unheld.img = none := by
    rw [State.unheld_eq]
    unfold State.lostStep
    split <;> simp [State.abandonLost, him]
  have hgoto : ¬ s.lostStep.unheld.img.isSome = true := by simp [himg]
  cases hrun : s.adm.running <;> simp only [him, State.lostStep, hrun] at hgoto ⊢ <;> exact congrArg (State.goto _) (if_neg hgoto)

/-- What is lost with the image lies outside memory, the host interface and the device state. -/
theorem State.lostStep_keeps (hst : s.ctl.state = .fault) : s.lostStep.mem = s.mem ∧ s.lostStep.hif = s.hif ∧ s.lostStep.ctl = s.ctl ∧
    s.lostStep.img = s.img := by
  unfold State.lostStep
  split
  · unfold State.abandonLost
    dsimp only
    rw [State.leaveStep_eq (by simp [hst, Dev.running])]
    simp
  · exact ⟨rfl, rfl, rfl, rfl⟩

/-- A step dropped in FAULT: its counts are cleared, a flush is due, and the entry stays where it is. -/
theorem State.dropStep_facts (im : Image) (hst : s.ctl.state = .fault) : (s.dropStep im).adm = s.adm.clear ∧
    (s.dropStep im).flt.needFlush = true ∧ (s.dropStep im).hif.fetched = s.hif.fetched ∧ (s.dropStep im).ctl = s.ctl ∧ (s.dropStep im).img = s.img := by
  unfold State.dropStep State.abandonDone
  dsimp only
  rw [State.leaveStep_eq (by simp [State.reapply, hst, Dev.running])]
  simp only [State.noteAll_keeps, State.abandonStep_keeps]
  refine ⟨by simp [State.abandonStep, State.reapply], rfl, ?_, by simp [State.reapply], by simp [State.reapply]⟩
  exact State.syncReset_fetched ..

end

/-- Settles O29: the abort by `State.abandon_starts`, FAULT_CLEAR by what the fault left of the step. -/
theorem abortAndFaultClear : Obligations.AbortAndFaultClear := by
  refine ⟨fun s i e hdue hst hrun hupd hab => ?_, fun s i e hdue hst hab => ?_, fun s i e hdue hst hab => ?_⟩
  · refine ⟨_, { ({ cls := .hostAbort, sev := .contained, abandon := true && s.adm.running } : Report) with
        step := s.tmr.step.toNat, time := s.now, cyc := s.tmr.age },
      exec_stepAbort_of_due hdue (by obtain h | h := hst <;> simp [h, Dev.running]), ?_⟩
    rw [State.report_of_awake _ (Dev.awake_of_live hdue.2.2.2), State.abandon_starts (by exact hab) (by simp [hupd])]
    rw [State.finish_of_fetched (e := e) (by exact hdue.1) (by exact hdue.2.2.2)]
    exact ⟨rfl, rfl, rfl, hrun, rfl, rfl, rfl, rfl, rfl, rfl⟩
  · exact congrArg Host.Outcome.next (if_pos (by simp [hab, hst]))
  intro done
  refine ⟨fun hrun him => ?_, fun hrun him => ?_, fun him => ?_⟩
  · obtain ⟨im, him'⟩ := Option.isSome_iff_exists.mp him
    refine ⟨_, exec_faultClear_idle hdue hst hab him' hrun, ?_⟩
    rw [State.unheld_finish_goto hdue.1 hst rfl (by decide), State.unheld_eq]
    exact ⟨rfl, rfl, rfl, rfl, rfl, rfl⟩
  · obtain ⟨im, him'⟩ := Option.isSome_iff_exists.mp him
    obtain ⟨hadm, hflush, hfetched, hctl, himg⟩ := s.dropStep_facts im hst
    refine ⟨_, exec_faultClear_step hdue hst hab him' hrun, ?_⟩
    rw [State.unheld_finish_goto (e := e) (by rw [hfetched]; exact hdue.1) (by rw [hctl]; exact hst) rfl (by decide), State.unheld_eq]
    refine ⟨rfl, himg, rfl, hadm, hflush, ?_⟩
    refine (congrArg Hif.fetched (Hif.event_eq ..)).trans ((congrArg Hif.fetched (Hif.complete_eq ..)).trans ?_)
    rw [hfetched]
  · obtain ⟨hmem, hhif, hctl, himg⟩ := State.lostStep_keeps hst
    refine ⟨_, exec_faultClear_lost hdue hst hab him, ?_⟩
    rw [State.unheld_finish_goto (e := e) (by rw [hhif]; exact hdue.1) (by rw [hctl]; exact hst) rfl (by decide), State.unheld_eq]
    refine ⟨rfl, himg.trans him, rfl, hmem, ?_⟩
    simp only [State.hci, hhif, hctl]
    rfl

end Sys2Proof.Machine
end

section
/-! SUPPORT. The entries a completion queue gives up when its head moves (R475, R476). -/

namespace Sys2Proof.Machine

/-! Bytes of host memory -/

theorem Sparse.get_foldl_set_of_not_mem {a i n : Nat} (bs : List Byte) (m : Sparse Byte) (h : i < a + n ∨ a + n + bs.length ≤ i) :
    Sparse.get 0 ((bs.zipIdx n).foldl (fun m p => Sparse.set 0 m (a + p.2) p.1) m) i = Sparse.get 0 m i := by
  induction bs generalizing m n with
  | nil => rfl
  | cons b bs ih =>
    rw [List.length_cons] at h
    rw [List.zipIdx_cons, List.foldl_cons, ih _ (by omega)]
    exact Sparse.get_set_ne 0 m b (by dsimp only; omega)

theorem Sparse.get_foldl_set {a n j : Nat} (bs : List Byte) (m : Sparse Byte) (h : j < bs.length) :
    Sparse.get 0 ((bs.zipIdx n).foldl (fun m p => Sparse.set 0 m (a + p.2) p.1) m) (a + n + j) = bs[j] := by
  induction bs generalizing m n j with
  | nil => exact absurd h (Nat.not_lt_zero _)
  | cons b bs ih =>
    rw [List.zipIdx_cons, List.foldl_cons]
    cases j with
    | zero => exact (Sparse.get_foldl_set_of_not_mem bs _ (by omega)).trans (Sparse.get_set_self 0 m _ b)
    | succ j =>
      have := ih (n := n + 1) (Sparse.set 0 m (a + n) b) (Nat.lt_of_succ_lt_succ h)
      rwa [show a + (n + 1) + j = a + n + (j + 1) by omega] at this

/-- The bytes just written are read back. -/
theorem Hif.readMem_writeMem_same (h : Hif) (a : Nat) (bs : List Byte) : (h.writeMem a bs).readMem a bs.length = bs := by
  refine List.ext_getElem (by simp [Hif.readMem]) fun j hj _ => ?_
  have hj : j < bs.length := by simpa [Hif.readMem] using hj
  simpa [Hif.readMem, Hif.writeMem] using Sparse.get_foldl_set (a := a) (n := 0) bs h.mem hj

/-- Bytes apart from those written read as before. -/
theorem Hif.readMem_writeMem_apart (h : Hif) {a b n : Nat} (bs : List Byte) (hd : b + n ≤ a ∨ a + bs.length ≤ b) :
    (h.writeMem a bs).readMem b n = h.readMem b n := by
  refine List.map_congr_left fun i hi => ?_
  have hi := List.mem_range.mp hi
  exact Sparse.get_foldl_set_of_not_mem bs h.mem (by omega)

theorem Compl.bytes_length (c : Compl) (sqHead : Nat) (phase : Bool) : (c.bytes sqHead phase).length = 32 := by
  simp only [Compl.bytes, List.length_append, List.length_cons, List.length_nil, bytesOf_length]

/-! One entry written -/

theorem Hif.signalCq_at (h : Hif) (v q : Nat) (b : Bool) : (∃ u, (h.signalCq v q b).cq.at q = { h.cq.at q with unsig := u }) ∧
    ∀ j, j ≠ q → (h.signalCq v q b).cq.at j = h.cq.at j := by
  unfold Hif.signalCq
  dsimp only
  repeat' split
  · exact ⟨⟨(h.cq.at q).unsig, rfl⟩, fun j _ => rfl⟩
  · rw [Hif.sendMsix_eq]
    exact ⟨⟨0, Sparse.at_put_self ..⟩, fun j hj => Sparse.at_put_ne _ _ hj⟩
  · exact ⟨⟨_, Sparse.at_put_self ..⟩, fun j hj => Sparse.at_put_ne _ _ hj⟩

/-- The tail after one more entry. -/
def Cq.next (k : Cq) : Nat := (k.tail.toNat + 1) % qEntries k.size

/-- Where the next entry of a queue stands in host memory. -/
def Cq.place (k : Cq) : Nat := k.base.toNat + 32 * k.tail.toNat

/-- The bytes of an entry for a queue's tail. -/
def Hif.bytesFor (h : Hif) (q : Nat) (c : Compl) : List Byte :=
  c.bytes (if c.event then 0 else (h.sq.at c.sqid.toNat).head.toNat) (h.cq.at q).phase

/-- The queue after one more entry. -/
def Cq.advance (k : Cq) (bad : Bool) : Cq :=
  { k with addrErr := k.addrErr || bad, tail := BitVec.ofNat 12 k.next, phase := if k.next = 0 then !k.phase else k.phase }

/-- An entry in its place, if the host can be reached. -/
def Hif.reached (h : Hif) (q : Nat) (c : Compl) : Hif :=
  if h.busErr (h.cq.at q).place 32 then h else h.writeMem (h.cq.at q).place (h.bytesFor q c)

/-- The same, with the queue's tail moved on, not yet signalled. -/
def Hif.placed (h : Hif) (q : Nat) (c : Compl) : Hif :=
  { h.reached q c with cq := (h.reached q c).cq.put q ((h.cq.at q).advance (h.busErr (h.cq.at q).place 32)) }

theorem Hif.writeEntry_placed (h : Hif) (v q : Nat) (c : Compl) : h.writeEntry v q c = (h.placed q c).signalCq v q c.event := rfl

theorem Hif.reached_cq (h : Hif) (q : Nat) (c : Compl) : (h.reached q c).cq = h.cq := by unfold Hif.reached; split <;> rfl

/-- An entry written moves its queue's tail on, and no other queue's. -/
theorem Hif.writeEntry_at (h : Hif) (v q : Nat) (c : Compl) :
    (∃ x p u, (h.writeEntry v q c).cq.at q =
      { h.cq.at q with tail := BitVec.ofNat 12 (h.cq.at q).next, addrErr := x, phase := p, unsig := u }) ∧
    ∀ j, j ≠ q → (h.writeEntry v q c).cq.at j = h.cq.at j := by
  rw [Hif.writeEntry_placed]
  obtain ⟨⟨u, hu⟩, hne⟩ := (h.placed q c).signalCq_at v q c.event
  have hself : (h.placed q c).cq.at q = _ := Sparse.at_put_self ..
  rw [hself] at hu
  refine ⟨⟨_, _, u, hu⟩, fun j hj => (hne j hj).trans ((Sparse.at_put_ne _ _ hj).trans ?_)⟩
  rw [Hif.reached_cq]

/-- An entry written is in its place, if the host can be reached. -/
theorem Hif.writeEntry_mem (h : Hif) (v q : Nat) (c : Compl) : (h.writeEntry v q c).mem =
    if h.busErr (h.cq.at q).place 32 then h.mem else (h.writeMem (h.cq.at q).place (h.bytesFor q c)).mem := by
  rw [Hif.writeEntry_placed, Hif.signalCq_mem]
  exact apply_ite Hif.mem ..

theorem Hif.writeEntry_reads (h : Hif) (v q : Nat) (c : Compl) (hok : h.busErr (h.cq.at q).place 32 = false) :
    (h.writeEntry v q c).readMem (h.cq.at q).place 32 = h.bytesFor q c := by
  have hmem := (h.writeEntry_mem v q c).trans (if_neg (by simp [hok]))
  have hlen : (h.bytesFor q c).length = 32 := Compl.bytes_length ..
  have := h.readMem_writeMem_same (h.cq.at q).place (h.bytesFor q c)
  rw [hlen] at this
  unfold Hif.readMem at this ⊢
  rwa [hmem]

theorem Hif.writeEntry_reads_apart (h : Hif) (v q : Nat) (c : Compl) {b : Nat} (hd : b + 32 ≤ (h.cq.at q).place ∨ (h.cq.at q).place + 32 ≤ b) :
    (h.writeEntry v q c).readMem b 32 = h.readMem b 32 := by
  have hlen : (h.bytesFor q c).length = 32 := Compl.bytes_length ..
  have := h.readMem_writeMem_apart (a := (h.cq.at q).place) (b := b) (n := 32) (h.bytesFor q c) (by omega)
  unfold Hif.readMem at this ⊢
  rw [Hif.writeEntry_mem]
  split
  · rfl
  · exact this

/-! Room in a queue -/

/-- Entries a queue still takes (R476). -/
def Cq.room (k : Cq) : Nat := (k.head.toNat + qEntries k.size - 1 - k.tail.toNat) % qEntries k.size

/-- A queue whose indexes lie in it. -/
def Cq.Inside (k : Cq) : Prop := k.head.toNat < qEntries k.size ∧ k.tail.toNat < qEntries k.size

/-- The slots a queue may write next. -/
def Cq.Open (k : Cq) (p : Nat) : Prop :=
  (k.head.toNat ≤ k.tail.toNat ∧ k.tail.toNat ≤ p ∧ p + 1 < qEntries k.size + k.head.toNat) ∨
  (k.head.toNat ≤ k.tail.toNat ∧ p + 1 < k.head.toNat) ∨ (k.tail.toNat < k.head.toNat ∧ k.tail.toNat ≤ p ∧ p + 1 < k.head.toNat)

theorem qEntries_le (n : BitVec 12) : 0 < qEntries n ∧ qEntries n ≤ 4096 := by unfold qEntries; omega

variable {k : Cq}

theorem Cq.next_cases (h : k.Inside) : (k.tail.toNat + 1 < qEntries k.size ∧ k.next = k.tail.toNat + 1) ∨ (k.tail.toNat + 1 = qEntries k.size ∧ k.next = 0) := by
  obtain ⟨-, ht⟩ := h
  unfold Cq.next
  by_cases hlt : k.tail.toNat + 1 < qEntries k.size
  · exact .inl ⟨hlt, Nat.mod_eq_of_lt hlt⟩
  · have he : k.tail.toNat + 1 = qEntries k.size := by omega
    exact .inr ⟨he, by rw [he, Nat.mod_self]⟩

theorem Cq.full_iff : k.full = true ↔ k.next = k.head.toNat := by simp [Cq.full, Cq.next]

theorem Cq.room_eq (h : k.Inside) : k.room = if k.head.toNat ≤ k.tail.toNat then k.head.toNat + qEntries k.size - 1 - k.tail.toNat
    else k.head.toNat - 1 - k.tail.toNat := by
  obtain ⟨hh, ht⟩ := h
  unfold Cq.room
  split
  · exact Nat.mod_eq_of_lt (by omega)
  · rw [show k.head.toNat + qEntries k.size - 1 - k.tail.toNat = k.head.toNat - 1 - k.tail.toNat + qEntries k.size by omega, Nat.add_mod_right]
    exact Nat.mod_eq_of_lt (by omega)

/-- A queue is full when it has no room. -/
theorem Cq.room_eq_zero_iff (h : k.Inside) : k.room = 0 ↔ k.full = true := by
  rw [Cq.full_iff, Cq.room_eq h]
  obtain ⟨hh, ht⟩ := id h
  obtain ⟨hlt, hn⟩ | ⟨he, hn⟩ := Cq.next_cases h
  · rw [hn]; split <;> omega
  · rw [hn]; split <;> omega

section
variable {k' : Cq} (hk : k'.head = k.head ∧ k'.size = k.size ∧ k'.tail = BitVec.ofNat 12 k.next)
include hk

theorem Cq.tail_of_moved (h : k.Inside) : k'.tail.toNat = k.next := by
  have := qEntries_le k.size
  obtain ⟨-, -, ht⟩ := hk
  rw [ht, BitVec.toNat_ofNat]
  refine Nat.mod_eq_of_lt ?_
  obtain ⟨hlt, hn⟩ | ⟨he, hn⟩ := Cq.next_cases h <;> omega

theorem Cq.inside_of_moved (h : k.Inside) : k'.Inside := by
  have ht := Cq.tail_of_moved hk h
  obtain ⟨hh, hs, -⟩ := hk
  unfold Cq.Inside
  rw [ht, hh, hs]
  obtain ⟨hlt, hn⟩ | ⟨he, hn⟩ := Cq.next_cases h
  · exact ⟨h.1, by omega⟩
  · exact ⟨h.1, by omega⟩

theorem Cq.room_of_moved (h : k.Inside) (hf : k.full = false) : k'.room + 1 = k.room := by
  have hne : k.next ≠ k.head.toNat := fun e => by simp [Cq.full_iff.mpr e] at hf
  have ht := Cq.tail_of_moved hk h
  rw [Cq.room_eq (Cq.inside_of_moved hk h), Cq.room_eq h, ht]
  obtain ⟨hh, hs, -⟩ := hk
  rw [hh, hs]
  obtain ⟨h1, h2⟩ := id h
  obtain ⟨hlt, hn⟩ | ⟨he, hn⟩ := Cq.next_cases h
  · rw [hn] at hne ⊢
    split <;> split <;> omega
  · rw [hn] at hne ⊢
    split <;> split <;> omega

/-- The slot just written is not written again, nor one that was not open. -/
theorem Cq.not_open_of_moved (h : k.Inside) (hf : k.full = false) {p : Nat} (hp : ¬ k.Open p ∨ p = k.tail.toNat) : ¬ k'.Open p := by
  have hne : k.next ≠ k.head.toNat := fun e => by simp [Cq.full_iff.mpr e] at hf
  have ht := Cq.tail_of_moved hk h
  unfold Cq.Open at hp ⊢
  rw [ht]
  obtain ⟨hh, hs, -⟩ := hk
  rw [hh, hs]
  obtain ⟨h1, h2⟩ := id h
  obtain ⟨hlt, hn⟩ | ⟨he, hn⟩ := Cq.next_cases h
  · rw [hn] at hne ⊢
    omega
  · rw [hn] at hne ⊢
    omega

end

/-- The slot at the tail is open while there is room. -/
theorem Cq.open_tail (h : k.Inside) (hf : k.full = false) : k.Open k.tail.toNat := by
  have hne : k.next ≠ k.head.toNat := fun e => by simp [Cq.full_iff.mpr e] at hf
  obtain ⟨h1, h2⟩ := id h
  unfold Cq.Open
  obtain ⟨hlt, hn⟩ | ⟨he, hn⟩ := Cq.next_cases h <;> omega

end Sys2Proof.Machine
end

section
/-! SUPPORT. Held completions and waiting events released, and the doorbells (R470, R472, R476, R490). -/

namespace Sys2Proof.Machine

/-! One round of the release -/

/-- The entry a release writes next, if any, and the block without it. -/
def Hif.releases (h : Hif) (q : Nat) : Option (Compl × Hif) :=
  match (h.cq.at q).held with
  | c :: r => some (c, { h with cq := h.cq.put q { h.cq.at q with held := r } })
  | [] => if q = 0 then h.events.head?.map fun c => (c, { h with events := h.events.tail }) else none

theorem Hif.release_stops (v q n : Nat) {h : Hif} (hs : (!(h.cq.at q).enable || (h.cq.at q).full) = true ∨ h.releases q = none) :
    Hif.release v q n h = h := by
  cases n with
  | zero => rfl
  | succ n =>
    unfold Hif.release
    dsimp only
    split
    · rfl
    · next hgo =>
      have hs := hs.resolve_left hgo
      unfold Hif.releases at hs
      cases hh : (h.cq.at q).held with
      | cons c r => simp only [hh] at hs; cases hs
      | nil =>
        simp only [hh] at hs ⊢
        split
        · next hq =>
          rw [if_pos hq] at hs
          cases he : h.events with
          | nil => rfl
          | cons c r => simp [he] at hs
        · rfl

theorem Hif.release_goes (v q n : Nat) {h g : Hif} {c : Compl} (hs : (!(h.cq.at q).enable || (h.cq.at q).full) = false)
    (hr : h.releases q = some (c, g)) : Hif.release v q (n + 1) h = Hif.release v q n (g.writeEntry v q c) := by
  rw [Hif.release, hs, if_neg Bool.false_ne_true]
  unfold Hif.releases at hr
  cases hh : (h.cq.at q).held with
  | cons c' r => simp only [hh] at hr ⊢; cases hr; rfl
  | nil =>
    simp only [hh] at hr ⊢
    by_cases hq : q = 0
    · rw [if_pos hq] at hr ⊢
      cases he : h.events with
      | nil => simp [he] at hr
      | cons c' r =>
        simp only [he, List.head?_cons, Option.map_some, List.tail_cons, Option.some.injEq, Prod.mk.injEq] at hr
        rw [← hr.1, ← hr.2]
    · rw [if_neg hq] at hr
      cases hr

/-- What is released leaves the queue's own fields but for the entries held. -/
theorem Hif.releases_at {h g : Hif} {q : Nat} {c : Compl} (hr : h.releases q = some (c, g)) :
    g.cq.at q = { h.cq.at q with held := (h.cq.at q).held.tail } ∧ (∀ j, j ≠ q → g.cq.at j = h.cq.at j) ∧ g.mem = h.mem ∧ g.holes = h.holes ∧
      g.sq = h.sq ∧ ∀ a n, g.readMem a n = h.readMem a n := by
  unfold Hif.releases at hr
  cases hh : (h.cq.at q).held with
  | cons c' r =>
    simp only [hh] at hr
    cases hr
    exact ⟨by simp, fun j hj => Sparse.at_put_ne _ _ hj, rfl, rfl, rfl, fun _ _ => rfl⟩
  | nil =>
    simp only [hh] at hr
    split at hr
    · cases he : h.events with
      | nil => simp [he] at hr
      | cons c' r =>
        simp only [he, List.head?_cons, Option.map_some, Option.some.injEq, Prod.mk.injEq] at hr
        obtain ⟨-, rfl⟩ := hr
        have hself : h.cq.at q = { h.cq.at q with held := [].tail } := by rw [List.tail_nil, ← hh]
        exact ⟨hself, fun j _ => rfl, rfl, rfl, rfl, fun _ _ => rfl⟩
    · cases hr

/-- The queue after one round: its indexes move on by an entry. -/
theorem Hif.written_at {h g : Hif} {v q : Nat} {c : Compl} (hr : h.releases q = some (c, g)) :
    ∃ k, (g.writeEntry v q c).cq.at q = k ∧ (k.head = (h.cq.at q).head ∧ k.size = (h.cq.at q).size ∧ k.tail = BitVec.ofNat 12 (h.cq.at q).next) ∧
      k.held = (h.cq.at q).held.tail ∧ k.enable = (h.cq.at q).enable ∧ k.base = (h.cq.at q).base := by
  obtain ⟨hg, -⟩ := Hif.releases_at hr
  obtain ⟨⟨x, p, u, hw⟩, -⟩ := g.writeEntry_at v q c
  refine ⟨_, hw, ?_⟩
  rw [hg]
  exact ⟨⟨rfl, rfl, rfl⟩, rfl, rfl, rfl⟩

/-! A whole release -/

/-- A release leaves the other queues, and the head of its own. -/
theorem Hif.release_at (v q n : Nat) (h : Hif) : ((Hif.release v q n h).cq.at q).head = (h.cq.at q).head ∧
    ∀ j, j ≠ q → (Hif.release v q n h).cq.at j = h.cq.at j := by
  induction n generalizing h with
  | zero => exact ⟨rfl, fun _ _ => rfl⟩
  | succ n ih =>
    cases hs : !(h.cq.at q).enable || (h.cq.at q).full with
    | true => rw [Hif.release_stops v q _ (.inl hs)]; exact ⟨rfl, fun _ _ => rfl⟩
    | false =>
      cases hr : h.releases q with
      | none => rw [Hif.release_stops v q _ (.inr hr)]; exact ⟨rfl, fun _ _ => rfl⟩
      | some x =>
        obtain ⟨c, g⟩ := x
        rw [Hif.release_goes v q n hs hr]
        obtain ⟨k, hk, ⟨hhead, -, -⟩, -⟩ := Hif.written_at (v := v) hr
        obtain ⟨hself, hne⟩ := ih (g.writeEntry v q c)
        refine ⟨hself.trans ((congrArg Cq.head hk).trans hhead), fun j hj => (hne j hj).trans ?_⟩
        exact ((g.writeEntry_at v q c).2 j hj).trans ((Hif.releases_at hr).2.1 j hj)

/-- With nothing held and no event for the queue, a release writes nothing. -/
theorem Hif.release_of_empty (v q n : Nat) {h : Hif} (hh : (h.cq.at q).held = []) (he : h.events = [] ∨ q ≠ 0) : Hif.release v q n h = h := by
  refine Hif.release_stops v q n (.inr ?_)
  unfold Hif.releases
  rw [hh]
  obtain he | hq := he
  · simp [he]
  · simp [hq]

/-- A release gives up as many held entries as there is room for. -/
theorem Hif.release_held (v q n : Nat) {h : Hif} (hen : (h.cq.at q).enable = true) (hin : (h.cq.at q).Inside) (hn : (h.cq.at q).held.length ≤ n) :
    ((Hif.release v q n h).cq.at q).held = (h.cq.at q).held.drop (h.cq.at q).room := by
  induction n generalizing h with
  | zero =>
    have hh : (h.cq.at q).held = [] := List.eq_nil_of_length_eq_zero (Nat.le_zero.mp hn)
    exact hh.trans (by rw [hh, List.drop_nil])
  | succ n ih =>
    cases hf : (h.cq.at q).full with
    | true =>
      rw [Hif.release_stops v q _ (.inl (by simp [hf])), (Cq.room_eq_zero_iff hin).mpr hf, List.drop_zero]
    | false =>
      cases hr : h.releases q with
      | none =>
        rw [Hif.release_stops v q _ (.inr hr)]
        have hh : (h.cq.at q).held = [] := by
          unfold Hif.releases at hr
          cases hh : (h.cq.at q).held with
          | nil => rfl
          | cons c r => simp only [hh] at hr; cases hr
        rw [hh, List.drop_nil]
      | some x =>
        obtain ⟨c, g⟩ := x
        rw [Hif.release_goes v q n (by simp [hen, hf]) hr]
        obtain ⟨k, hk, hmoved, hheld, henable, -⟩ := Hif.written_at (v := v) hr
        subst hk
        rw [ih (henable.trans hen) (Cq.inside_of_moved hmoved hin) (by rw [hheld, List.length_tail]; omega), hheld,
          ← Cq.room_of_moved hmoved hin hf, List.drop_tail]

/-- A release leaves the slots of the queue that are not open. -/
theorem Hif.release_reads (v q n : Nat) {h : Hif} (hin : (h.cq.at q).Inside) {p : Nat} (hp : ¬ (h.cq.at q).Open p) :
    (Hif.release v q n h).readMem ((h.cq.at q).base.toNat + 32 * p) 32 = h.readMem ((h.cq.at q).base.toNat + 32 * p) 32 := by
  induction n generalizing h with
  | zero => rfl
  | succ n ih =>
    cases hs : !(h.cq.at q).enable || (h.cq.at q).full with
    | true => rw [Hif.release_stops v q _ (.inl hs)]
    | false =>
      obtain ⟨-, hf⟩ := Bool.or_eq_false_iff.mp hs
      cases hr : h.releases q with
      | none => rw [Hif.release_stops v q _ (.inr hr)]
      | some x =>
        obtain ⟨c, g⟩ := x
        rw [Hif.release_goes v q n hs hr]
        obtain ⟨k, hk, hmoved, -, -, hbase⟩ := Hif.written_at (v := v) hr
        subst hk
        obtain ⟨hg, -, -, -, -, hread⟩ := Hif.releases_at hr
        have hne : p ≠ (h.cq.at q).tail.toNat := fun e => hp (e ▸ Cq.open_tail hin hf)
        have hplace : (g.cq.at q).place = (h.cq.at q).base.toNat + 32 * (h.cq.at q).tail.toNat := by rw [hg]; rfl
        have := ih (h := g.writeEntry v q c) (Cq.inside_of_moved hmoved hin) (Cq.not_open_of_moved hmoved hin hf (.inl hp))
        rw [hbase] at this
        rw [this, Hif.writeEntry_reads_apart _ _ _ _ (by rw [hplace]; omega), hread]

/-- The first entry released stands at the tail, if the host can be reached. -/
theorem Hif.release_first (v q n : Nat) {h : Hif} {c : Compl} {r : List Compl} (hen : (h.cq.at q).enable = true) (hin : (h.cq.at q).Inside)
    (hh : (h.cq.at q).held = c :: r) (hroom : (h.cq.at q).room ≠ 0) (hok : h.holes = []) (hn : n ≠ 0) :
    (Hif.release v q n h).readMem ((h.cq.at q).base.toNat + 32 * (h.cq.at q).tail.toNat) 32 =
      c.bytes (if c.event then 0 else (h.sq.at c.sqid.toNat).head.toNat) (h.cq.at q).phase := by
  obtain ⟨n, rfl⟩ := Nat.exists_eq_succ_of_ne_zero hn
  have hf : (h.cq.at q).full = false := Bool.eq_false_iff.mpr fun h' => hroom ((Cq.room_eq_zero_iff hin).mpr h')
  have hr : h.releases q = some (c, { h with cq := h.cq.put q { h.cq.at q with held := r } }) := by
    unfold Hif.releases
    rw [hh]
  rw [Hif.release_goes v q n (by simp [hen, hf]) hr]
  obtain ⟨k, hk, hmoved, -, -, hbase⟩ := Hif.written_at (v := v) hr
  subst hk
  obtain ⟨hg, -, -, hholes, hsq, -⟩ := Hif.releases_at hr
  have := Hif.release_reads v q n (Cq.inside_of_moved hmoved hin) (Cq.not_open_of_moved hmoved hin hf (.inr rfl))
  rw [hbase] at this
  rw [this]
  have hw := Hif.writeEntry_reads { h with cq := h.cq.put q { h.cq.at q with held := r } } v q c (by simp [Hif.busErr, hok])
  unfold Hif.bytesFor Cq.place at hw
  rw [hg] at hw
  exact hw

end Sys2Proof.Machine
end

section
/-! SUPPORT. The version in force and the doorbells (R470, R472, R476). -/

namespace Sys2Proof.Machine

/-! The version in force -/

/-- The last number below n that a test passes: none passes, or it is the greatest that does. -/
theorem last_filter_range (p : Nat → Bool) (n : Nat) : (((List.range n).filter p).getLast? = none ∧ ∀ j < n, p j = false) ∨
    ∃ k, ((List.range n).filter p).getLast? = some k ∧ k < n ∧ p k = true ∧ ∀ j < n, p j = true → j ≤ k := by
  induction n with
  | zero => exact .inl ⟨rfl, fun j hj => absurd hj (Nat.not_lt_zero _)⟩
  | succ n ih =>
    rw [List.range_succ, List.filter_append]
    cases hp : p n with
    | true =>
      refine .inr ⟨n, ?_, Nat.lt_succ_self _, hp, fun j hj _ => by omega⟩
      simp [hp]
    | false =>
      have hn : List.filter p [n] = [] := by simp [hp]
      rw [hn, List.append_nil]
      refine ih.imp (fun ⟨h, hall⟩ => ⟨h, fun j hj => ?_⟩) (fun ⟨k, h, hk, hpk, hall⟩ => ⟨k, h, by omega, hpk, fun j hj hpj => ?_⟩)
      · obtain hj | rfl := Nat.lt_succ_iff_lt_or_eq.mp hj
        · exact hall j hj
        · exact hp
      · obtain hj | rfl := Nat.lt_succ_iff_lt_or_eq.mp hj
        · exact hall j hj hpj
        · exact absurd (hp.symm.trans hpj) Bool.false_ne_true

theorem fld_high_half (v : W32) : fld v 31 16 = v.toNat / 65536 := by
  have := v.isLt
  show v.toNat / 65536 % 65536 = _
  omega

theorem fld_low_half (v : W32) : fld v 15 0 = v.toNat % 65536 := by
  show v.toNat / 1 % 65536 = _
  omega

/-- A version 1.k that the host's range holds. -/
def holdsVersion (v : W32) (k : Nat) : Prop := v.toNat % 65536 ≤ 256 + k ∧ 256 + k ≤ v.toNat / 65536

/-- The common version is the highest held, if one is. -/
theorem commonVersion_cases (v : W32) : (commonVersion v = none ∧ ∀ k < 4, ¬ holdsVersion v k) ∨
    ∃ m, commonVersion v = some m ∧ m < 4 ∧ holdsVersion v m ∧ ∀ k < 4, holdsVersion v k → k ≤ m := by
  have hp : ∀ k, (decide (fld v 15 0 ≤ 256 + k) && decide (256 + k ≤ fld v 31 16)) = true ↔ holdsVersion v k := fun k => by
    rw [fld_low_half, fld_high_half, Bool.and_eq_true, decide_eq_true_eq, decide_eq_true_eq]
    rfl
  refine (last_filter_range (fun k => decide (fld v 15 0 ≤ 256 + k) && decide (256 + k ≤ fld v 31 16)) 4).imp
    (fun ⟨h, hall⟩ => ⟨h, fun k hk hv => ?_⟩) (fun ⟨m, h, hm, hpm, hall⟩ => ⟨m, h, hm, (hp m).mp hpm, fun k hk hv => hall k hk ((hp k).mpr hv)⟩)
  exact absurd ((hall k hk).symm.trans ((hp k).mpr hv)) Bool.false_ne_true

theorem Ctl.writeHci_of_chosen {c : Ctl} (v : W32) (h : c.hciValid = true) : c.writeHci v = { c with hciHost := v } := if_pos h

theorem Ctl.writeHci_of_common {c : Ctl} {v : W32} {k : Nat} (h : c.hciValid = false) (hk : commonVersion v = some k) : c.writeHci v =
    { c with hciHost := v, hciValid := true, hciNone := false, hciMajor := 1, hciMinor := BitVec.ofNat 8 k } := by
  simp [Ctl.writeHci, h, hk]

theorem Ctl.writeHci_of_none {c : Ctl} {v : W32} (h : c.hciValid = false) (hk : commonVersion v = none) : c.writeHci v =
    { c with hciHost := v, hciNone := true } := by
  simp [Ctl.writeHci, h, hk]

/-- The host's range leaves the device state. -/
theorem Ctl.writeHci_keeps (c : Ctl) (v : W32) : (c.writeHci v).hciHost = v ∧ (c.writeHci v).state = c.state := by
  cases hc : c.hciValid with
  | true => rw [Ctl.writeHci_of_chosen v hc]; exact ⟨rfl, rfl⟩
  | false =>
    obtain ⟨hn, -⟩ | ⟨m, hm, -⟩ := commonVersion_cases v
    · rw [Ctl.writeHci_of_none hc hn]; exact ⟨rfl, rfl⟩
    · rw [Ctl.writeHci_of_common hc hm]; exact ⟨rfl, rfl⟩

/-! The doorbells -/

theorem doorbellAt_tail (q : BitVec 6) : doorbellAt (BitVec.ofNat 12 (8 * q.toNat)).toNat 4 = some (q.toNat, false) := by
  have hoff : (BitVec.ofNat 12 (8 * q.toNat)).toNat = 8 * q.toNat := by rw [BitVec.toNat_ofNat]; omega
  rw [hoff]
  refine (if_pos ?_).trans ?_
  · have := q.isLt
    simp; omega
  · rw [show 8 * q.toNat / 8 = q.toNat by omega, show 8 * q.toNat % 8 = 0 by omega]
    rfl

theorem doorbellAt_head (q : BitVec 6) : doorbellAt (BitVec.ofNat 12 (8 * q.toNat + 4)).toNat 4 = some (q.toNat, true) := by
  have hoff : (BitVec.ofNat 12 (8 * q.toNat + 4)).toNat = 8 * q.toNat + 4 := by rw [BitVec.toNat_ofNat]; omega
  rw [hoff]
  refine (if_pos ?_).trans ?_
  · have := q.isLt
    simp; omega
  · rw [show (8 * q.toNat + 4) / 8 = q.toNat by omega, show (8 * q.toNat + 4) % 8 = 4 by omega]
    rfl

theorem doorbellAt_none {off : BitVec 12} {size : Nat} (h : size ≠ 4 ∨ off.toNat % 4 ≠ 0 ∨ 512 ≤ off.toNat) : doorbellAt off.toNat size = none := by
  refine if_neg ?_
  simp only [Bool.and_eq_true, decide_eq_true_eq]
  omega

section
variable {s : State}

theorem exec_tailDoorbell (q : BitVec 6) (v : W32) (h : s.ctl.state.live = true) :
    exec (.sqTailDoorbell (BitVec.ofNat 12 (8 * q.toNat)) 4 v) s = .next { s with hif := s.hif.tailDoorbell q.toNat (v.toNat % 4096) } := by
  refine (congrArg Host.Outcome.next (if_pos h)).trans (congrArg Host.Outcome.next ?_)
  show s.doorbell _ 4 v = _
  unfold State.doorbell
  rw [doorbellAt_tail]
  show ({ s with hif := s.hif.tailDoorbell q.toNat (v.toNat / 1 % 4096) } : State) = _
  rw [Nat.div_one]

theorem exec_headDoorbell (q : BitVec 6) (v : W32) (h : s.ctl.state.live = true) :
    exec (.cqHeadDoorbell (BitVec.ofNat 12 (8 * q.toNat + 4)) 4 v) s = .next { s with hif := s.hif.headDoorbell s.hci q.toNat (v.toNat % 4096) } := by
  refine (congrArg Host.Outcome.next (if_pos h)).trans (congrArg Host.Outcome.next ?_)
  show s.doorbell _ 4 v = _
  unfold State.doorbell
  rw [doorbellAt_head]
  show ({ s with hif := s.hif.headDoorbell s.hci q.toNat (v.toNat / 1 % 4096) } : State) = _
  rw [Nat.div_one]

theorem State.doorbell_none {off : BitVec 12} {size : Nat} (v : W32) (h : size ≠ 4 ∨ off.toNat % 4 ≠ 0 ∨ 512 ≤ off.toNat) :
    s.doorbell off.toNat size v = s := by
  unfold State.doorbell
  rw [doorbellAt_none h]

theorem State.host_self (f : State → State) (h : f s = s) : s.host f = .next s :=
  congrArg Host.Outcome.next (by rw [h]; exact ite_self s)

end

/-- A head doorbell in range: the head moves, and entries held follow. -/
def Hif.freed (h : Hif) (v q i : Nat) : Hif :=
  Hif.release v q ((h.cq.at q).held.length + h.events.length) { h with cq := h.cq.put q { h.cq.at q with head := BitVec.ofNat 12 i } }

/-- Distance from index a to index b of a queue of n entries. -/
def ringDist (n a b : Nat) : Nat := (b + n - a) % n

theorem Hif.headDoorbell_of_ok {h : Hif} {v q i : Nat} (hen : (h.cq.at q).enable = true) (hi : i < qEntries (h.cq.at q).size)
    (hd : ringDist (qEntries (h.cq.at q).size) (h.cq.at q).head.toNat i ≤ ringDist (qEntries (h.cq.at q).size) (h.cq.at q).head.toNat (h.cq.at q).tail.toNat) :
    h.headDoorbell v q i = h.freed v q i := by
  have hd : ¬ (i + qEntries (h.cq.at q).size - (h.cq.at q).head.toNat) % qEntries (h.cq.at q).size >
      ((h.cq.at q).tail.toNat + qEntries (h.cq.at q).size - (h.cq.at q).head.toNat) % qEntries (h.cq.at q).size := Nat.not_lt.mpr hd
  unfold Hif.headDoorbell
  dsimp only
  rw [if_neg (by simp [hen]), if_neg (by simp only [Bool.or_eq_true, decide_eq_true_eq]; omega)]
  rfl

theorem Hif.headDoorbell_of_bad {h : Hif} {v q i : Nat} (hen : (h.cq.at q).enable = true) (hi : qEntries (h.cq.at q).size ≤ i ∨
    ringDist (qEntries (h.cq.at q).size) (h.cq.at q).head.toNat (h.cq.at q).tail.toNat < ringDist (qEntries (h.cq.at q).size) (h.cq.at q).head.toNat i) :
    h.headDoorbell v q i = { h with cq := h.cq.put q { h.cq.at q with addrErr := true } } := by
  unfold Hif.headDoorbell
  dsimp only
  rw [if_neg (by simp [hen]), if_pos]
  simp only [Bool.or_eq_true, decide_eq_true_eq]
  exact hi

/-- Settles O22: the version by the highest that the range holds, a tail doorbell by its checks, a head doorbell by what `Hif.release` gives up. -/
theorem versionsAndDoorbells : Obligations.VersionsAndDoorbells := by
  refine ⟨fun s v hlive => ⟨?_, ?_, fun hsq hcq => ?_⟩, fun s q v hlive => ?_, fun s off size v h => ?_⟩
  · rintro ⟨q, hq, hen⟩
    refine State.host_self (fun s => s.writeHciHost v) (if_pos ?_)
    exact Bool.or_eq_true_iff.mpr (.inl (List.any_eq_true.mpr ⟨q, hq, hen⟩))
  · rintro ⟨q, hq, hen⟩
    refine State.host_self (fun s => s.writeHciHost v) (if_pos ?_)
    exact Bool.or_eq_true_iff.mpr (.inr (List.any_eq_true.mpr ⟨q, hq, hen⟩))
  · have hnone : ¬ (s.hif.sq.any (fun q => q.2.enable) || s.hif.cq.any (fun q => q.2.enable)) = true := by
      simp only [Bool.or_eq_true, List.any_eq_true, not_or, not_exists, not_and, Bool.not_eq_true]
      exact ⟨fun q hq => hsq q hq, fun q hq => hcq q hq⟩
    obtain ⟨hhost, hstate⟩ := s.ctl.writeHci_keeps v
    refine ⟨{ s with ctl := s.ctl.writeHci v }, (congrArg Host.Outcome.next (if_pos hlive)).trans (congrArg Host.Outcome.next (if_neg hnone)), rfl,
      hhost, hstate, fun hv => ?_, fun hv => ?_⟩
    · rw [Ctl.writeHci_of_chosen v hv]
      exact ⟨hv, rfl, rfl⟩
    · obtain ⟨hn, hall⟩ | ⟨m, hm, hm4, hheld, hall⟩ := commonVersion_cases v
      · rw [Ctl.writeHci_of_none hv hn]
        exact ⟨fun k hk hlo hhi => absurd ⟨hlo, hhi⟩ (hall k hk), fun _ => ⟨hv, rfl⟩⟩
      · rw [Ctl.writeHci_of_common hv hm]
        have hmod : (BitVec.ofNat 8 m).toNat = m := by rw [BitVec.toNat_ofNat]; omega
        refine ⟨fun k hk hlo hhi => ⟨rfl, rfl, ?_⟩, fun hno => absurd hheld (hno m hm4)⟩
        dsimp only
        rw [hmod]
        exact ⟨hall k hk ⟨hlo, hhi⟩, hheld.1, hheld.2, hm4⟩
  · intro x k n m i dist tail head
    have hsize : ∀ z : BitVec 12, qEntries z = z.toNat + 1 := fun z => rfl
    have hi : (BitVec.ofNat 12 i).toNat = i := by rw [BitVec.toNat_ofNat]; exact Nat.mod_eq_of_lt (Nat.mod_lt _ (by decide))
    have htail := exec_tailDoorbell q v hlive
    have hhead := exec_headDoorbell q v hlive
    have toState : ∀ {h : Hif}, h = s.hif → ({ s with hif := h } : State) = s := fun h => by rw [h]
    refine ⟨fun hen => ?_, fun hen hin hd => ?_, fun hen hd => ?_, fun hen => ?_, fun hen hin hd => ?_, fun hen hd => ?_⟩
    · exact htail.trans (congrArg Host.Outcome.next (toState (if_pos (by simp [x] at hen; simp [hen]))))
    · refine htail.trans (congrArg Host.Outcome.next ?_)
      have : s.hif.tailDoorbell q.toNat i = { s.hif with sq := s.hif.sq.put q.toNat { x with tail := BitVec.ofNat 12 i } } := by
        refine (if_neg (by simp [x] at hen; simp [hen])).trans (if_neg ?_)
        simp only [Bool.or_eq_true, decide_eq_true_eq, not_or, Nat.not_le]
        exact ⟨hin, hd⟩
      exact congrArg (fun h : Hif => ({ s with hif := h } : State)) this
    · refine htail.trans (congrArg Host.Outcome.next ?_)
      have : s.hif.tailDoorbell q.toNat i = { s.hif with sq := s.hif.sq.put q.toNat { x with dbErr := true } } := by
        refine (if_neg (by simp [x] at hen; simp [hen])).trans (if_pos ?_)
        simp only [Bool.or_eq_true, decide_eq_true_eq]
        exact hd
      exact congrArg (fun h : Hif => ({ s with hif := h } : State)) this
    · exact hhead.trans (congrArg Host.Outcome.next (toState (if_pos (by simp [k] at hen; simp [hen]))))
    · have hfreed := Hif.headDoorbell_of_ok (v := s.hci) hen hin hd
      have hput : ∀ {h : Hif}, h = { s.hif with cq := s.hif.cq.put q.toNat { k with head := BitVec.ofNat 12 i } } →
          h.cq.at q.toNat = { k with head := BitVec.ofNat 12 i } := fun h => by rw [h]; exact Sparse.at_put_self ..
      refine ⟨_, hhead.trans (congrArg Host.Outcome.next (congrArg (fun h : Hif => ({ s with hif := h } : State)) hfreed)), ?_⟩
      dsimp only
      unfold Hif.freed
      generalize hh : ({ s.hif with cq := s.hif.cq.put q.toNat { s.hif.cq.at q.toNat with head := BitVec.ofNat 12 i } } : Hif) = h
      have hk := hput hh.symm
      obtain ⟨hself, hne⟩ := Hif.release_at s.hci q.toNat ((s.hif.cq.at q.toNat).held.length + s.hif.events.length) h
      refine ⟨hself.trans (congrArg Cq.head hk), rfl, ?_, fun j hj => (hne j hj).trans ?_, fun hheld he => ?_, fun ht => ?_⟩
      · rw [Hif.release_eq, ← hh]
      · rw [← hh]; exact Sparse.at_put_ne _ _ hj
      · rw [Hif.release_of_empty _ _ _ (by rw [hk]; exact hheld)]
        · rw [← hh]
        · refine he.imp (fun he => by rw [← hh]; exact he) fun hq h0 => hq (BitVec.eq_of_toNat_eq h0)
      · have hin' : (h.cq.at q.toNat).Inside := by
          rw [hk]
          exact ⟨by rw [hsize]; show (BitVec.ofNat 12 i).toNat < _; rw [hi]; exact hin, ht⟩
        have hen' : (h.cq.at q.toNat).enable = true := by rw [hk]; exact hen
        have hheld : (h.cq.at q.toNat).held = k.held := by rw [hk]
        have hroom : (h.cq.at q.toNat).room = (i + m - 1 - k.tail.toNat) % m := by rw [hk]; unfold Cq.room; dsimp only; rw [hi]; rfl
        refine ⟨?_, fun c r hc hr hholes => ?_⟩
        · rw [Hif.release_held _ _ _ hen' hin' (by rw [hheld]; exact Nat.le_add_right ..), hheld, hroom]
        · have hfirst := Hif.release_first s.hci q.toNat ((s.hif.cq.at q.toNat).held.length + s.hif.events.length) hen' hin' (hheld.trans hc)
            (by rw [hroom]; exact hr) (by rw [← hh]; exact hholes) (by have : (s.hif.cq.at q.toNat).held = c :: r := hc; simp [this])
          rw [hk] at hfirst
          refine hfirst.trans ?_
          rw [← hh]
    · exact hhead.trans (congrArg Host.Outcome.next (congrArg (fun h : Hif => ({ s with hif := h } : State)) (Hif.headDoorbell_of_bad hen hd)))
  · have hnone := State.host_self (fun s => s.doorbell off.toNat size v) (State.doorbell_none (s := s) v h)
    exact ⟨hnone, hnone⟩

end Sys2Proof.Machine
end

section
/-! SUPPORT. Fetching entries (R474, R477, R479), configuring queues (R473), D3hot and the coalescing timer (R467, R485). -/

namespace Sys2Proof.Machine

section
variable {s : State}


/-- A completion while the firmware runs. -/
theorem State.complete_of_live (h : s.ctl.state.live = true) (e : Entry) (code : Code) (detail : Nat := 0) (r0 r1 r2 : W64 := 0) :
    s.complete e code detail r0 r1 r2 = { s with hif := s.hif.complete s.hci e code detail r0 r1 r2 } := if_pos h

/-- Nothing is fetched in D3hot, after a boot failure, or with no queue to serve. -/
theorem exec_sqEntryFetch_idle (b : Bool) (h : s.hif.d3hot = true ∨ s.bootFailed = true ∨ s.hif.nextQueue s.heldBack = none) :
    exec (.sqEntryFetch b) s = .next s := by
  refine congrArg Host.Outcome.next ?_
  by_cases hlive : s.ctl.state.live = true
  · refine (if_pos hlive).trans ?_
    by_cases hb : (s.hif.d3hot || s.bootFailed) = true
    · exact if_pos hb
    · have hn : s.hif.nextQueue s.heldBack = none := by
        obtain h | h | h := h
        · simp [h] at hb
        · simp [h] at hb
        · exact h
      refine (if_neg hb).trans ?_
      simp only [hn]
  · exact if_neg hlive

/-- The block with queue q served once more (R477). -/
def Hif.served (h : Hif) (q : Nat) (k : Sq) : Hif := { h with rr := Sparse.set 63 h.rr (h.sq.at q).prio.toNat q, sq := h.sq.put q k }

/-- Queue q with its head moved on. -/
def Hif.moved (h : Hif) (q : Nat) : Hif :=
  { h.served q { h.sq.at q with head := BitVec.ofNat 12 (((h.sq.at q).head.toNat + 1) % ((h.sq.at q).size.toNat + 1)) } with
    received := h.received + 1 }

/-- The entry at the head of queue q. -/
def Hif.headEntry (h : Hif) (q : Nat) : Entry := { parseEntry q (h.entryBytes q) with order := h.received }

/-- What a fetch does once its queue is known: stopped by a bus error, else by what the entry holds. -/
def State.fetch (s : State) (busErr : Bool) (q : Nat) : State :=
  if busErr || s.hif.busErr ((s.hif.sq.at q).base.toNat + 128 * (s.hif.sq.at q).head.toNat) 128 then
    { s with hif := s.hif.served q { s.hif.sq.at q with fetchErr := true, stopped := true } }
  else match opcodeVersion (s.hif.headEntry q).opcode.toNat with
    | none => ({ s with hif := s.hif.moved q } : State).complete (s.hif.headEntry q) .invalidOpcode
    | some v =>
      if s.hci < v then ({ s with hif := s.hif.moved q } : State).complete (s.hif.headEntry q) .version
      else if !entryReservedOk (s.hif.entryBytes q) then ({ s with hif := s.hif.moved q } : State).complete (s.hif.headEntry q) .invalidField
      else { s with hif := { s.hif.moved q with fetched := s.hif.fetched ++ [s.hif.headEntry q] } }

theorem exec_sqEntryFetch_of_queue (b : Bool) {q : Nat} (hlive : s.ctl.state.live = true) (hd : s.hif.d3hot = false) (hb : s.bootFailed = false)
    (hq : s.hif.nextQueue s.heldBack = some q) : exec (.sqEntryFetch b) s = .next (s.fetch b q) := by
  refine congrArg Host.Outcome.next ((if_pos hlive).trans ((if_neg (by simp [hd, hb])).trans ?_))
  simp only [hq]
  rfl

end

/-- Settles O23: nothing by `exec_sqEntryFetch_idle`, else the branches of `State.fetch`. -/
theorem entryFetched : Obligations.EntryFetched := by
  intro s q hlive
  refine ⟨fun h => exec_sqEntryFetch_idle _ (.inl h), fun h => exec_sqEntryFetch_idle _ (.inr (.inl ?_)),
    fun hf hp => exec_sqEntryFetch_idle _ (.inr (.inl ?_)), fun h => exec_sqEntryFetch_idle _ (.inr (.inr h)), fun hd hb hf hq => ?_⟩
  · exact Bool.or_eq_true_iff.mpr (.inl (bne_iff_ne.mpr h))
  · simp [State.bootFailed, hf, hp]
  · intro k bs e rr moved stopped
    have hboot : s.bootFailed = false := by
      obtain h | h := hf <;> simp [State.bootFailed, hb, h]
    have hexec := fun b => exec_sqEntryFetch_of_queue b hlive hd hboot hq
    refine ⟨(hexec true).trans (congrArg Host.Outcome.next (if_pos rfl)),
      fun h => (hexec false).trans (congrArg Host.Outcome.next (if_pos h)), fun h => ?_⟩
    have hgo := (hexec false).trans (congrArg Host.Outcome.next (if_neg (fun hbad => Bool.false_ne_true (h.symm.trans hbad))))
    have hdone : ∀ code, ({ s with hif := s.hif.moved q } : State).complete (s.hif.headEntry q) code =
        { s with hif := moved.complete s.hci e code } := fun code => State.complete_of_live (s := { s with hif := s.hif.moved q }) hlive _ code
    refine ⟨fun hop => hgo.trans ?_, fun v hop => ?_⟩
    · have hop : opcodeVersion (s.hif.headEntry q).opcode.toNat = none := hop
      simp only [hop]
      exact congrArg Host.Outcome.next (hdone _)
    · have hop : opcodeVersion (s.hif.headEntry q).opcode.toNat = some v := hop
      simp only [hop] at hgo
      refine ⟨fun hv => ?_, fun hv hr => ?_, fun hv hr => ?_⟩
      · rw [hgo, if_pos hv, hdone]
      · have hr : entryReservedOk (s.hif.entryBytes q) = false := hr
        rw [hgo, if_neg (by omega), if_pos (by simp [hr]), hdone]
      · have hr : entryReservedOk (s.hif.entryBytes q) = true := hr
        rw [hgo, if_neg (by omega), if_neg (by simp [hr])]
        rfl

/-! Queues configured -/

/-- The fields a write of HIF_SQ_CFG gives a queue that is not enabled. -/
def Sq.configured (k : Sq) (v : W32) : Sq := { k with prio := BitVec.ofNat 2 (fld v 28 27), cq := BitVec.ofNat 6 (fld v 21 16), size := sizeField v }

theorem Hif.writeSqCfg_of_enabled {h : Hif} {valid : Bool} {q : Nat} (v : W32) (hen : (h.sq.at q).enable = true) : h.writeSqCfg valid q v =
    if bit v 31 then h else { h with sq := h.sq.put q { h.sq.at q with enable := false, stopped := false } } := if_pos hen

theorem Hif.writeSqCfg_of_disabled {h : Hif} {valid : Bool} {q : Nat} (v : W32) (hen : (h.sq.at q).enable = false) : h.writeSqCfg valid q v =
    { h with sq := h.sq.put q (if bit v 31 && valid && (h.cq.at (v.toNat / 65536 % 64)).enable then
      { (h.sq.at q).configured v with enable := true, stopped := false, head := 0, tail := 0 } else (h.sq.at q).configured v) } := by
  have hcq : ((h.sq.at q).configured v).cq.toNat = v.toNat / 65536 % 64 := by
    show (BitVec.ofNat 6 (v.toNat / 2 ^ 16 % 2 ^ 6)).toNat = _
    rw [BitVec.toNat_ofNat]
    exact Nat.mod_mod ..
  rw [← hcq]
  exact if_neg (by simp [hen])

/-- A write of HIF_SQ_CFG changes its own queue. -/
theorem Hif.writeSqCfg_eq (h : Hif) (valid : Bool) (q : Nat) (v : W32) : h.writeSqCfg valid q v = { h with sq := (h.writeSqCfg valid q v).sq } ∧
    ∀ j, j ≠ q → (h.writeSqCfg valid q v).sq.at j = h.sq.at j := by
  cases hen : (h.sq.at q).enable with
  | true =>
    rw [Hif.writeSqCfg_of_enabled v hen]
    split
    · exact ⟨rfl, fun j _ => rfl⟩
    · exact ⟨rfl, fun j hj => Sparse.at_put_ne _ _ hj⟩
  | false =>
    rw [Hif.writeSqCfg_of_disabled v hen]
    exact ⟨rfl, fun j hj => Sparse.at_put_ne _ _ hj⟩

/-- The fields a write of HIF_CQ_CFG gives a queue that is not enabled. -/
def Cq.configured (k : Cq) (v : W32) : Cq :=
  { k with intEn := bit v 30, vector := BitVec.ofNat 7 (fld v 29 23), coalCnt := BitVec.ofNat 4 (fld v 22 19)
           coalUs := BitVec.ofNat 7 (fld v 18 12), size := sizeField v }

theorem Hif.writeCqCfg_of_enabled {h : Hif} {valid : Bool} {m q : Nat} (v : W32) (hen : (h.cq.at q).enable = true) : h.writeCqCfg valid m q v =
    if bit v 31 || h.cqUsed q then h else { h with cq := h.cq.put q { h.cq.at q with enable := false, held := [], unsig := 0 } } := if_pos hen

theorem Hif.writeCqCfg_of_disabled {h : Hif} {valid : Bool} {m q : Nat} (v : W32) (hen : (h.cq.at q).enable = false) : h.writeCqCfg valid m q v =
    if bit v 31 && valid then Hif.release m q h.events.length
      { h with cq := h.cq.put q { (h.cq.at q).configured v with enable := true, head := 0, tail := 0, phase := true, held := [], unsig := 0 } }
    else { h with cq := h.cq.put q ((h.cq.at q).configured v) } := if_neg (by simp [hen])

theorem Hif.writeCqCfg_sq (h : Hif) (valid : Bool) (m q : Nat) (v : W32) : (h.writeCqCfg valid m q v).sq = h.sq := by
  cases hen : (h.cq.at q).enable with
  | true => rw [Hif.writeCqCfg_of_enabled v hen]; split <;> rfl
  | false =>
    rw [Hif.writeCqCfg_of_disabled v hen]
    split
    · rw [Hif.release_eq]
    · rfl

/-- Settles O24: each queue by what a write gives it, the timer by what `Hif.sendMsix` sends. -/
theorem queuesConfiguredAndSignalled : Obligations.QueuesConfiguredAndSignalled := by
  refine ⟨fun s q v hlive => ⟨⟨_, congrArg Host.Outcome.next (if_pos hlive), ?_⟩, ⟨_, congrArg Host.Outcome.next (if_pos hlive), rfl,
    Hif.writeCqCfg_sq .., fun hen hon hv he => ?_, fun hen hv => ?_, fun hen hu => ?_⟩⟩, fun s q on hlive => ⟨?_, fun r hr => ?_, ?_⟩⟩
  · dsimp only
    obtain ⟨hframe, hne⟩ := s.hif.writeSqCfg_eq s.ctl.hciValid q.toNat v
    refine ⟨congrArg (fun h : Hif => ({ s with hif := h } : State)) hframe, hne, fun hen hon hv hcq => ?_, fun hen h => ?_, fun hoff => ?_⟩
    · rw [Hif.writeSqCfg_of_disabled v hen, if_pos (by simp [bit_eq_getLsbD, hon, hv, hcq])]
      dsimp only
      rw [Sparse.at_put_self]
      exact ⟨rfl, rfl, rfl⟩
    · rw [Hif.writeSqCfg_of_disabled v hen, if_neg (by obtain h | h := h <;> simp [h])]
      dsimp only
      rw [Sparse.at_put_self]
      exact hen
    · have hbit : bit v 31 = false := (bit_eq_getLsbD v 31).trans hoff
      cases hen : (s.hif.sq.at q.toNat).enable with
      | true =>
        rw [Hif.writeSqCfg_of_enabled v hen, if_neg (by simp [hbit])]
        dsimp only
        rw [Sparse.at_put_self]
      | false =>
        rw [Hif.writeSqCfg_of_disabled v hen, if_neg (by simp [hbit])]
        dsimp only
        rw [Sparse.at_put_self]
        exact hen
  · dsimp only
    rw [Hif.writeCqCfg_of_disabled v hen, if_pos (by simp [bit_eq_getLsbD, hon, hv]), he, List.length_nil]
    have hself := Sparse.at_put_self s.hif.cq q.toNat
      { (s.hif.cq.at q.toNat).configured v with enable := true, head := 0, tail := 0, phase := true, held := [], unsig := 0 }
    exact ⟨congrArg Cq.enable hself, congrArg Cq.head hself, congrArg Cq.tail hself, congrArg Cq.phase hself⟩
  · dsimp only
    rw [Hif.writeCqCfg_of_disabled v hen, if_neg (by simp [hv])]
    dsimp only
    rw [Sparse.at_put_self]
    exact hen
  · dsimp only
    rw [Hif.writeCqCfg_of_enabled v hen, if_pos (by simp [hu])]
  · exact (if_neg (Dev.ne_of_live hlive).2.2).trans (congrArg Host.Outcome.next (if_pos hlive))
  · refine (if_neg ?_).trans (congrArg Host.Outcome.next ((if_neg ?_).trans (if_pos ?_)))
    · obtain h | ⟨h, -⟩ := hr <;> simp [h]
    · obtain h | ⟨h, -⟩ := hr <;> simp [h, Dev.live]
    · obtain h | ⟨h, hc⟩ := hr
      · simp [h]
      · simp [h, hc]
  · intro k hen hint hus hun hv
    have hgo : s.hif.coalesceTimeout s.hci q.toNat = { s.hif with cq := s.hif.cq.put q.toNat { k with unsig := 0 } }.sendMsix k.vector.toNat :=
      if_pos (by simp [k] at hen hint hus hun; simp [hen, hint, hus, hun, hv])
    refine ⟨_, congrArg Host.Outcome.next (if_pos hlive), rfl, ?_⟩
    dsimp only
    rw [hgo]
    unfold Hif.sendMsix
    dsimp only
    split
    · exact ⟨congrArg Cq.unsig (Sparse.at_put_self ..), rfl, Sparse.at_put_self s.hif.pba _ true, rfl⟩
    · exact ⟨congrArg Cq.unsig (Sparse.at_put_self ..), rfl, rfl⟩

end Sys2Proof.Machine
end

section
/-! SUPPORT. Reads and writes of memory as a unit's mark and a clean read leave them (R453 to R455). -/

namespace Sys2Proof.Machine

/-! Units -/

theorem eccBytes_cases (k : Nat) : eccBytes k = if k < 8 * 2 ^ 40 then 8 else if k < 16 * 2 ^ 40 then 32 else 64 := by
  unfold eccBytes placeTier
  by_cases h1 : k < 8 * 2 ^ 40
  · by_cases h0 : k < 2 ^ 40 <;> simp only [h0, h1, if_true, if_false]
  · have h0 : ¬ k < 2 ^ 40 := by omega
    by_cases h2 : k < 16 * 2 ^ 40 <;> simp only [h0, h1, h2, if_true, if_false]

/-- Units lie in one tier. -/
theorem eccBytes_eccUnit (k : Nat) : eccBytes (eccUnit k) = eccBytes k := by
  rw [eccBytes_cases (eccUnit k)]
  unfold eccUnit
  rw [eccBytes_cases k]
  split
  · rw [if_pos (by omega)]
  · split
    · rw [if_neg (by omega), if_pos (by omega)]
    · rw [if_neg (by omega), if_neg (by omega)]

theorem eccBytes_pos (k : Nat) : 0 < eccBytes k := by rw [eccBytes_cases]; split <;> (try split) <;> decide

theorem eccUnit_eccUnit (k : Nat) : eccUnit (eccUnit k) = eccUnit k := by
  have h : eccUnit (eccUnit k) = eccUnit k / eccBytes k * eccBytes k := by
    conv_lhs => rw [eccUnit, eccBytes_eccUnit]
  rw [h]
  unfold eccUnit
  rw [Nat.mul_div_cancel _ (eccBytes_pos k)]

theorem eccBytes_congr {j k : Nat} (h : eccUnit j = eccUnit k) : eccBytes j = eccBytes k := by
  rw [← eccBytes_eccUnit j, h, eccBytes_eccUnit]

theorem coversUnit_congr {cs : List (Nat × Byte)} {j k : Nat} (h : eccUnit j = eccUnit k) : coversUnit cs j = coversUnit cs k := by
  unfold coversUnit
  rw [eccBytes_congr h, h]

theorem Mem.poisoned_congr {m : Mem} {j k : Nat} (h : eccUnit j = eccUnit k) : m.poisoned j = m.poisoned k := by
  unfold Mem.poisoned
  rw [h]

/-! Writes -/

/-- Marks cleared from other units leave a unit's mark. -/
theorem Mem.poisoned_clear_ne (us : List Nat) (m : Mem) {k : Nat} (h : ∀ u ∈ us, eccUnit k ≠ eccUnit u) :
    (us.foldl (fun m u => m.setPoison u false) m).poisoned k = m.poisoned k := by
  induction us generalizing m with
  | nil => rfl
  | cons u us ih =>
    rw [List.foldl_cons, ih _ fun v hv => h v (List.mem_cons_of_mem _ hv)]
    exact Mem.poisoned_setPoison_ne m false (h u (List.mem_cons_self ..))

/-- Marks that a write clears: of units it covers. -/
theorem coversUnit_of_cleared {m : Mem} {cs : List (Nat × Byte)} {u : Nat}
    (h : u ∈ (cs.filter fun c => m.poisoned c.1 && coversUnit cs c.1).map fun c => eccUnit c.1) : coversUnit cs u = true ∧ eccUnit u = u := by
  obtain ⟨c, hc, rfl⟩ := List.mem_map.mp h
  obtain ⟨-, hc⟩ := List.mem_filter.mp hc
  rw [Bool.and_eq_true] at hc
  exact ⟨(coversUnit_congr (eccUnit_eccUnit c.1)).trans hc.2, eccUnit_eccUnit c.1⟩

/-- A marked unit that a write covers in part keeps its mark and its bytes. -/
theorem Mem.write_of_marked {m : Mem} {cs : List (Nat × Byte)} {k : Nat} (hp : m.poisoned k = true) (hc : coversUnit cs k = false) :
    (m.write cs).poisoned k = true ∧ ∀ l, eccUnit l = eccUnit k → (m.write cs).byte l = m.byte l := by
  have hout : ∀ u ∈ (cs.filter fun c => m.poisoned c.1 && coversUnit cs c.1).map fun c => eccUnit c.1, eccUnit k ≠ eccUnit u := fun u hu he => by
    obtain ⟨hcov, -⟩ := coversUnit_of_cleared hu
    rw [coversUnit_congr he] at hc
    exact Bool.false_ne_true (hc.symm.trans hcov)
  unfold Mem.write
  dsimp only
  refine ⟨?_, fun l hl => ?_⟩
  · rw [Mem.poisoned_setCells, Mem.poisoned_clear_ne _ _ hout, hp]
  · refine (Mem.byte_setCells _ _ fun c hc' he => ?_).trans (Mem.byte_clear ..)
    obtain ⟨-, hkept⟩ := List.mem_filter.mp hc'
    have hunit : eccUnit c.1 = eccUnit k := by rw [he, hl]
    rw [Mem.poisoned_congr hunit, hp] at hkept
    have hin : eccUnit c.1 ∈ (cs.filter fun c => m.poisoned c.1 && coversUnit cs c.1).map fun c => eccUnit c.1 := by simpa using hkept
    exact hout _ hin (by rw [eccUnit_eccUnit, hunit])

/-- A write that meets no mark stores its bytes. -/
theorem Mem.write_of_unmarked {m : Mem} {cs : List (Nat × Byte)} (h : ∀ c ∈ cs, m.poisoned c.1 = false) : m.write cs = m.setCells cs := by
  have hwhole : (cs.filter fun c => m.poisoned c.1 && coversUnit cs c.1) = [] := by
    refine List.filter_eq_nil_iff.mpr fun c hc => ?_
    simp [h c hc]
  have hkept : (cs.filter fun c => !m.poisoned c.1 || ([] : List Nat).contains (eccUnit c.1)) = cs := by
    refine List.filter_eq_self.mpr fun c hc => ?_
    simp [h c hc]
  unfold Mem.write
  rw [hwhole]
  exact congrArg m.setCells hkept

/-- Bytes stored at different places are read back. -/
theorem Mem.map_byte_setCells (ks : List Nat) (bs : List Byte) (m : Mem) (hn : ks.Nodup) (hl : ks.length = bs.length) :
    ks.map (m.setCells (ks.zip bs)).byte = bs := by
  induction ks generalizing bs m with
  | nil => exact (List.eq_nil_of_length_eq_zero hl.symm).symm
  | cons k ks ih =>
    obtain ⟨b, bs, rfl⟩ := List.exists_cons_of_length_eq_add_one hl.symm
    obtain ⟨hk, hn⟩ := List.nodup_cons.mp hn
    have hcells : m.setCells ((k :: ks).zip (b :: bs)) = (m.setByte k b).setCells (ks.zip bs) := rfl
    rw [List.map_cons, hcells, ih bs _ hn (Nat.succ.inj hl), Mem.byte_setCells, Mem.byte_setByte_self]
    rintro ⟨j, c⟩ hj rfl
    exact hk (List.of_mem_zip hj).1

/-! Reads that meet errors -/

/-- A read that meets no error tells the marks it met. -/
theorem State.eccRead_clean (s : State) (ks : List Nat) (source : Nat) (stopped abandon : Bool) (via : Nat → Nat) {inject : Bool}
    (h : s.fab.inject = [] ∨ inject = false ∨ ks.any s.mem.poisoned = true) : s.eccRead ks .clean source stopped abandon via inject =
    (if ks.any s.mem.poisoned then { s with memr := { s.memr with poisonRd := true } } else s, ks.any s.mem.poisoned) := by
  have hinj : ∀ f : Fab, f.inject = s.fab.inject → (if inject && Ecc.clean.errs.isEmpty && !ks.any s.mem.poisoned then f.injectRead ks else none) = none := by
    intro f hf
    obtain h | h | h := h
    · split
      · exact if_pos (by simp [hf, h])
      · rfl
    · exact if_neg (by simp [h])
    · exact if_neg (by simp [h])
  unfold State.eccRead
  dsimp only
  rw [hinj _ (by split <;> rfl)]
  exact Prod.ext rfl (Bool.or_false _)

/-- An uncorrectable error outside the active image store marks its unit and is reported in its tier's class. -/
theorem State.uncorrected_of_passive {s : State} {k : Nat} (h : s.inActiveStore k = false) (addr source : Nat) (stopped abandon inj : Bool) :
    ∃ f m, s.uncorrected k addr source stopped abandon inj =
      ({ s with fab := f, mem := s.mem.setPoison k true, memr := m } : State).report (memReport k addr .contained stopped abandon inj) := by
  have hrec : ∀ m : MemRegs, (m.recordErr addr k source s.tmr.age).activeStore = m.activeStore := fun m => by
    unfold MemRegs.recordErr
    dsimp only
    split <;> rfl
  have hcnt : (s.memr.countUe k).activeStore = s.memr.activeStore := by unfold MemRegs.countUe; split <;> rfl
  have hpass : ∀ t : State, t.memr.activeStore = s.memr.activeStore → (t.inActiveStore k && t.img.isSome) = false := fun t ht => by
    have : t.inActiveStore k = s.inActiveStore k := by unfold State.inActiveStore; rw [ht]
    rw [this, h, Bool.false_and]
  unfold State.uncorrected
  by_cases htile : placeTier k = 0
  · rw [if_pos htile]
    exact ⟨_, _, if_neg (by rw [hpass _ (hrec _)]; decide)⟩
  · rw [if_neg htile]
    exact ⟨_, _, if_neg (by rw [hpass _ ((hrec _).trans hcnt)]; decide)⟩

/-- Two symbols of one code word are detected (R453). -/
theorem MemRegs.eccAt_two (m : MemRegs) (k : Nat) : m.eccAt k [0, 1] = .uncorrected := by
  unfold MemRegs.eccAt eccOut
  refine if_pos ?_
  cases (decide (placeTier k = 3) && (m.ddr.at (placeUnit k)).x8) <;> rfl

/-- A read of unmarked places that meets one uncorrectable error. -/
theorem State.eccRead_uncorrected {s : State} {ks : List Nat} {j k : Nat} (hj : ks[j]? = some k) (hclean : ks.any s.mem.poisoned = false) (source : Nat)
    (stopped abandon : Bool) (via : Nat → Nat) : s.eccRead ks (.uncorrected j) source stopped abandon via =
    (s.uncorrected k (via k) source stopped abandon, true) := by
  have hk : s.mem.poisoned k = false := by
    have := List.any_eq_false.mp hclean k (List.mem_of_getElem? hj)
    simpa using this
  have hunits : (Ecc.uncorrected j).units ks = [(k, [0, 1])] := by
    unfold Ecc.units Ecc.uncorrected
    simp [hj]
  have hmeet : s.meetErr k (via k) [0, 1] source stopped abandon = (s.uncorrected k (via k) source stopped abandon, true) := by
    unfold State.meetErr
    rw [hk, if_neg Bool.false_ne_true]
    simp only [MemRegs.eccAt_two]
  unfold State.eccRead
  dsimp only
  rw [hclean, if_neg Bool.false_ne_true, hunits]
  simp only [State.meetErrs, List.foldl_cons, List.foldl_nil, hmeet]
  rfl

end Sys2Proof.Machine
end

section
/-! SUPPORT. Accesses through BAR4 (R455, R464, R468, R471). -/

namespace Sys2Proof.Machine

section
variable {s : State} {off : Nat}

theorem spanPlaces_length (a n : Nat) : (spanPlaces a n).length = n := by simp [spanPlaces]

/-- The cells of a BAR4 write. -/
def bar4Cells (a : Nat) (bs : List Byte) : List (Nat × Byte) := (spanPlaces a bs.length).zip bs

theorem mem_of_bar4Cells {a : Nat} {bs : List Byte} {c : Nat × Byte} (h : c ∈ bar4Cells a bs) : c.1 ∈ spanPlaces a bs.length := (List.of_mem_zip h).1

theorem bar4Cells_unmarked {m : Mem} {a : Nat} {bs : List Byte} (h : (spanPlaces a bs.length).any m.poisoned = false) :
    ∀ c ∈ bar4Cells a bs, m.poisoned c.1 = false := fun c hc => by
  simpa using List.any_eq_false.mp h c.1 (mem_of_bar4Cells hc)

theorem mem_of_mergedPlaces {cs : List (Nat × Byte)} {k : Nat} (h : k ∈ mergedPlaces cs) : (∃ b, (k, b) ∈ cs) ∧ coversUnit cs k = false := by
  obtain ⟨c, hc, rfl⟩ := List.mem_map.mp h
  obtain ⟨hc, hcov⟩ := List.mem_filter.mp hc
  exact ⟨⟨c.2, hc⟩, by simpa using hcov⟩

theorem mergedPlaces_unmarked {m : Mem} {a : Nat} {bs : List Byte} (h : (spanPlaces a bs.length).any m.poisoned = false) :
    (mergedPlaces (bar4Cells a bs)).any m.poisoned = false := by
  refine List.any_eq_false.mpr fun k hk => ?_
  obtain ⟨⟨b, hb⟩, -⟩ := mem_of_mergedPlaces hk
  simpa using bar4Cells_unmarked h _ hb

/-- A read through BAR4. -/
def State.bar4Read (s : State) (a len : Nat) (e : Ecc) : State :=
  let r := s.eccRead (spanPlaces a len) e 3 false false (addrIn (addrSpace a)) true
  if r.2 then
    let t := (r.1.send (.poisoned (freeBytes s.free len))).send .aerReport
    { t with free := s.free + len, hif := { t.hif with aerPoisoned := true } }
  else r.1.send (.readData (s.mem.read (spanPlaces a len)))

theorem exec_bar4Read_of_live (len : Nat) (e : Ecc) (hlive : s.ctl.state.live = true) : exec (.bar4Read off len e) s = .next
    (if 2 ^ s.hif.bar4Log ≤ off then s
      else if bar4Ok s.img s.memr.ddr (s.hif.bar4Base.toNat + off) len then s.bar4Read (s.hif.bar4Base.toNat + off) len e
      else ({ s with memr := s.memr.rejectBar4 } : State).send (.readData (List.replicate len 0))) :=
  congrArg Host.Outcome.next (if_pos hlive)

/-- A write through BAR4. -/
def State.bar4Write (s : State) (a : Nat) (bs : List Byte) (e : Ecc) : State :=
  let r := s.eccRead (mergedPlaces (bar4Cells a bs)) e 3 false false (addrIn (addrSpace a))
  { r.1 with mem := r.1.mem.write (bar4Cells a bs) }

theorem exec_bar4Write_of_live (bs : List Byte) (e : Ecc) (hlive : s.ctl.state.live = true) : exec (.bar4Write off bs e) s = .next
    (if 2 ^ s.hif.bar4Log ≤ off then s
      else if bar4Ok s.img s.memr.ddr (s.hif.bar4Base.toNat + off) bs.length then s.bar4Write (s.hif.bar4Base.toNat + off) bs e
      else { s with memr := s.memr.rejectBar4 }) :=
  congrArg Host.Outcome.next (if_pos hlive)

theorem State.bar4Write_clean (s : State) (a : Nat) (bs : List Byte) : s.bar4Write a bs .clean = { s with
    mem := s.mem.write (bar4Cells a bs)
    memr := if (mergedPlaces (bar4Cells a bs)).any s.mem.poisoned then { s.memr with poisonRd := true } else s.memr } := by
  unfold State.bar4Write
  rw [State.eccRead_clean _ _ _ _ _ _ (.inr (.inl rfl))]
  dsimp only
  split <;> rfl

/-- A BAR4 write that meets an uncorrectable error where it merges: the mark stands, and the unit's bytes are as they were. -/
theorem State.bar4Write_uncorrected {a j k : Nat} {bs : List Byte} (hclean : (spanPlaces a bs.length).any s.mem.poisoned = false)
    (hj : (mergedPlaces (bar4Cells a bs))[j]? = some k) (hp : s.inActiveStore k = false) :
    ∃ f m, s.bar4Write a bs (.uncorrected j) =
      ({ s with fab := f, mem := (s.mem.setPoison k true).write (bar4Cells a bs), memr := m } : State).report
        (memReport k (addrIn (addrSpace a) k) .contained false false) := by
  obtain ⟨f, m, hu⟩ := State.uncorrected_of_passive hp (addrIn (addrSpace a) k) 3 false false false
  refine ⟨f, m, ?_⟩
  unfold State.bar4Write
  rw [State.eccRead_uncorrected hj (mergedPlaces_unmarked hclean), hu]
  dsimp only
  rw [(State.report_keeps _ _).2.2.2.2.2.2.2.2.2.2.2.2.2.2.2.1]
  unfold State.report
  split <;> rfl

end

/-- The base of BAR4 is a multiple of its size. -/
theorem Hif.writeBar4Base_mod (h : Hif) (hi : Bool) (v : W32) (hlog : h.bar4Log ≤ 48) : (h.writeBar4Base hi v).bar4Base.toNat % 2 ^ h.bar4Log = 0 := by
  unfold Hif.writeBar4Base
  dsimp only
  rw [BitVec.toNat_ofNat, Nat.mod_mod_of_dvd _ (Nat.pow_dvd_pow 2 hlog)]
  exact Nat.mul_mod_left ..

/-- Settles O25: a read by `State.eccRead_clean`, a write by what `Mem.write` makes of marked and unmarked units. -/
theorem bar4Accesses : Obligations.Bar4Accesses := by
  intro s off len bs hi v hlive a inBar sent
  have hread := fun e => exec_bar4Read_of_live (off := off) len e hlive
  have hwrite := fun e => exec_bar4Write_of_live (off := off) bs e hlive
  have hbar : inBar → ¬ 2 ^ s.hif.bar4Log ≤ off := Nat.not_le.mpr
  refine ⟨fun hin hok hpo hinj => ?_, fun hin hok hpo => ?_, fun hin hok => ?_, fun hin hok => ?_, fun j k hin hok hpo hj hact => ?_,
    fun hin hok e => ?_, fun hout e => ⟨?_, ?_⟩, ?_⟩
  · rw [hread, if_neg (hbar hin), if_pos hok]
    unfold State.bar4Read
    rw [State.eccRead_clean _ _ _ _ _ _ (.inl hinj), hpo]
    rfl
  · have hstate : s.bar4Read a len .clean = { s with
        memr := { s.memr with poisonRd := true }, free := s.free + len
        hif := { sent [.poisoned (freeBytes s.free len), .aerReport] with aerPoisoned := true } } := by
      unfold State.bar4Read
      rw [State.eccRead_clean _ _ _ _ _ _ (.inr (.inr hpo)), hpo]
      simp [State.send, sent]
    refine ⟨_, (hread _).trans (congrArg Host.Outcome.next ((if_neg (hbar hin)).trans ((if_pos hok).trans hstate))), rfl, rfl, _, ?_, rfl⟩
    simp [freeBytes]
  · rw [hread, if_neg (hbar hin), if_neg (by simp [a] at hok; simp [hok])]
    rfl
  · refine ⟨_, (hwrite _).trans (congrArg Host.Outcome.next ((if_neg (hbar hin)).trans ((if_pos hok).trans (s.bar4Write_clean ..)))), ?_, fun k hk => ?_,
      fun hpo => ⟨?_, fun hn => ?_⟩⟩
    · dsimp only
      split <;> rfl
    · refine Mem.byte_write _ _ fun c hc he => hk ?_
      exact he ▸ mem_of_bar4Cells hc
    · exact if_neg (by rw [mergedPlaces_unmarked hpo]; decide)
    · dsimp only
      rw [Mem.write_of_unmarked (bar4Cells_unmarked hpo)]
      exact Mem.map_byte_setCells _ _ _ hn (spanPlaces_length ..)
  · obtain ⟨f, m, ht⟩ := State.bar4Write_uncorrected hpo hj hact
    refine ⟨_, (hwrite _).trans (congrArg Host.Outcome.next ((if_neg (hbar hin)).trans ((if_pos hok).trans ht))), ?_⟩
    rw [State.report_of_awake _ (Dev.awake_of_live (by exact hlive))]
    obtain ⟨-, hcov⟩ := mem_of_mergedPlaces (List.mem_of_getElem? hj)
    obtain ⟨hmark, hbytes⟩ := Mem.write_of_marked (m := s.mem.setPoison k true) (Mem.poisoned_setPoison s.mem true rfl) hcov
    exact ⟨hmark, fun l hl => (hbytes l hl).trans (Mem.byte_setPoison ..), _, rfl, rfl, rfl⟩
  · rw [hwrite, if_neg (hbar hin), if_neg (by simp [a] at hok; simp [hok])]
    rfl
  · rw [hread, if_pos (Nat.not_lt.mp hout)]
  · rw [hwrite, if_pos (Nat.not_lt.mp hout)]
  · exact ⟨_, congrArg Host.Outcome.next (if_pos hlive), rfl, Hif.writeBar4Base_mod _ _ _⟩

end Sys2Proof.Machine
end

section
/-! SUPPORT. Reports made, and the sync objects' storage that fails parity (R519, R521, R522, R525). -/

namespace Sys2Proof.Machine

/-- What a report tells while the device is awake. -/
theorem State.report_tells {s : State} (r : Report) (h : s.ctl.state.awake = true) : ∃ q, s.report r = { s with flt := s.flt.detect q } ∧
    q.cls = r.cls ∧ q.sev = r.sev ∧ q.level = r.level ∧ q.unit = r.unit ∧ q.sub = r.sub ∧ q.detail = r.detail :=
  ⟨_, State.report_of_awake r h, rfl, rfl, rfl, rfl, rfl, rfl⟩

/-- A parity error of an object's storage: told, and its count a free value. -/
theorem State.parityAt_bad {s : State} (o : Nat) (h : s.ctl.state.awake = true) : ∃ q, s.parityAt o true = { s with
      sync := { s.sync with objs := s.sync.objs.mod o fun x => { x with count := (Config.freeWord s.free).setWidth 32 } }
      free := s.free + 1, flt := s.flt.detect q } ∧ q.cls = .control ∧ q.sev = .contained ∧ q.sub = o ∧ q.detail = 1 := by
  obtain ⟨q, hq, hcls, hsev, -, -, hsub, hdetail⟩ := State.report_tells (s := { s with
    sync := { s.sync with objs := s.sync.objs.mod o fun x => { x with count := (Config.freeWord s.free).setWidth 32 } }, free := s.free + 1 })
    { cls := .control, sev := .contained, sub := o, detail := 1, abandon := s.adm.running } h
  exact ⟨q, hq, hcls, hsev, hsub, hdetail⟩

theorem State.parityAt_good (s : State) (o : Nat) : s.parityAt o false = s := rfl

section
variable {s : State} {im : Image}

theorem exec_tileWatchdogExpiry_of_image (tile : BitVec 8) (w : Watch) (him : s.img = some im) : exec (.tileWatchdogExpiry tile w) s = .next
    (if (w ≠ .parity && s.fab.held tile.toNat) || !s.watched im tile.toNat w then s
      else s.report { cls := .control, sev := .contained, level := 1, unit := tile.toNat, detail := w.detail, fenced := true
                      abandon := s.adm.running, tile := some tile.toNat }) := by
  refine congrArg Host.Outcome.next ?_
  simp only [him]

theorem exec_tileWatchdogExpiry_exempt (tile : BitVec 8) {w : Watch} (hw : w ≠ .parity) (hheld : s.fab.held tile.toNat = true) :
    exec (.tileWatchdogExpiry tile w) s = .next s := by
  cases him : s.img with
  | none => exact congrArg Host.Outcome.next (by simp only [him])
  | some im => rw [exec_tileWatchdogExpiry_of_image tile w him, if_pos (by simp [hw, hheld])]

/-- A tile's SIGNAL at its object's home. -/
theorem exec_signal_of_msg {i o n t : Nat} (bad : Bool) (hm : s.sync.msgs[i]? = some (.signal o n t)) : exec (.signal i bad) s = .next
    (if s.fab.fenced.contains t then s
      else ((({ s with sync := { s.sync with msgs := s.sync.msgs.eraseIdx i } } : State).parityAt o bad).syncOp o (.signal (BitVec.ofNat 32 n)))) := by
  refine congrArg Host.Outcome.next ?_
  simp only [hm]

theorem exec_take_of_msg {i o v t k : Nat} (bad : Bool) (hm : s.sync.msgs[i]? = some (.take o v t k)) : exec (.take i bad) s = .next
    (if s.fab.fenced.contains t then s
      else ((({ s with sync := { s.sync with msgs := s.sync.msgs.eraseIdx i } } : State).parityAt o bad).syncOp o
        (.take (.slot t k) (BitVec.ofNat 32 v)))) := by
  refine congrArg Host.Outcome.next ?_
  simp only [hm]

end

/-- Settles O36: each watcher by the report it makes, each message by what it does at its home. -/
theorem watchersAndTileSync : Obligations.WatchersAndTileSync := by
  refine ⟨fun s tile region pll w hawake => ?_, fun s i o n v t k bad => ?_⟩
  · intro tells
    have told : ∀ {c : Instr} {cls : Cls} {sev : Sev} {level unit detail : Nat} (r : Report), exec c s = .next (s.report r) → r.cls = cls → r.sev = sev →
        r.level = level → r.unit = unit → r.detail = detail → tells c cls sev level unit detail := by
      intro c cls sev level unit detail r hc hcls hsev hlevel hunit hdetail
      obtain ⟨q, hq, h1, h2, h3, h4, -, h6⟩ := State.report_tells r hawake
      refine ⟨_, q, hc, ?_⟩
      rw [hq]
      refine ⟨rfl, rfl, h1.trans hcls, h2.trans hsev, h3.trans hlevel, h4.trans hunit, h6.trans hdetail, ?_⟩
      rw [← hcls, ← h1]
      exact Sparse.at_mod_self s.flt.classCnt q.cls.code fun c => satAdd c 1
    refine ⟨told _ rfl rfl rfl rfl rfl rfl, told _ rfl rfl rfl rfl rfl rfl, told _ rfl rfl rfl rfl rfl rfl, told _ rfl rfl rfl rfl rfl rfl,
      fun im him hw hwatch => told _ ((exec_tileWatchdogExpiry_of_image tile w him).trans (congrArg Host.Outcome.next (if_neg ?_))) rfl rfl rfl rfl rfl,
      fun hw hheld => exec_tileWatchdogExpiry_exempt tile hw hheld⟩
    obtain rfl | hw := hw
    · simp [hwatch]
    · simp [hw, hwatch]
  · intro rest
    refine ⟨fun hm hf => ?_, fun hm hf => ?_, fun hm hf => ?_, fun hm hf => ?_, rfl, fun hawake => ?_⟩
    · rw [exec_signal_of_msg bad hm, if_neg fun h => Bool.false_ne_true (hf.symm.trans h)]
    · rw [exec_take_of_msg bad hm, if_neg fun h => Bool.false_ne_true (hf.symm.trans h)]
    · rw [exec_signal_of_msg bad hm, if_pos hf]
    · rw [exec_take_of_msg bad hm, if_pos hf]
    · obtain ⟨q, hq, hcls, -, hsub, -⟩ := State.parityAt_bad (s := rest) o hawake
      exact ⟨_, q, hq, rfl, hcls, hsub, Sparse.at_mod_self s.sync.objs o fun x => { x with count := (Config.freeWord s.free).setWidth 32 }, fun j hj =>
        Sparse.at_mod_ne s.sync.objs (fun x => { x with count := (Config.freeWord s.free).setWidth 32 }) hj, rfl⟩

end Sys2Proof.Machine
end

section
/-! SUPPORT. Sync objects (R116, R117, R270, R482). -/

namespace Sys2Proof.Machine

/-! One operation at an object's home -/

section
variable (x : SyncObj)

theorem SyncObj.apply_signal (n : W32) : (x.apply (.signal n)).1.count.toNat = min (x.count.toNat + n.toNat) (2 ^ 32 - 1) := by
  unfold SyncObj.apply
  dsimp only
  split
  · next h =>
    rw [BitVec.toNat_add, Nat.mod_eq_of_lt h]
    omega
  · rw [show (BitVec.allOnes 32).toNat = 2 ^ 32 - 1 from rfl]
    omega

theorem SyncObj.apply_signal_saturates {n : W32} (h : 2 ^ 32 ≤ x.count.toNat + n.toNat) : (x.apply (.signal n)).2 = true ∧
    (x.apply (.signal n)).1.overflow = true := by
  unfold SyncObj.apply
  dsimp only
  rw [if_neg (by omega)]
  exact ⟨rfl, rfl⟩

/-- The threshold test is met. -/
abbrev SyncObj.Fires : Prop := x.threshold ≠ 0 ∧ x.threshold.toNat ≤ x.count.toNat

/-- The threshold test leaves all but the count and the events. -/
theorem SyncObj.test_eq : x.test = (if x.Fires then ({ x with count := x.count - x.threshold.setWidth 32, events := x.events + 1 }, true)
    else (x, false)) := rfl

theorem SyncObj.test_keeps : x.test.1.fifo = x.fifo ∧ x.test.1.overflow = x.overflow ∧ x.test.1.threshold = x.threshold := by
  rw [SyncObj.test_eq]; split <;> exact ⟨rfl, rfl, rfl⟩

theorem SyncObj.test_count : x.test.1.count.toNat + (if x.Fires then x.threshold.toNat else 0) = x.count.toNat := by
  rw [SyncObj.test_eq]
  split
  · next h =>
    have hw : (x.threshold.setWidth 32).toNat = x.threshold.toNat := by
      rw [BitVec.toNat_setWidth]
      exact Nat.mod_eq_of_lt (by omega)
    have := h.2
    dsimp only
    rw [BitVec.toNat_sub_of_le (BitVec.le_def.mpr (by rw [hw]; exact this)), hw]
    omega
  · exact Nat.add_zero _

end

/-- Grants from the head: those granted, what they take, and a head that is not granted (R117). -/
theorem grantGo_spec (c : W32) (l : List (Waiter × W32)) : ∃ g, l = g ++ (grantGo c l).2.1 ∧ (grantGo c l).2.2 = g.map (·.1) ∧
    (grantGo c l).1.toNat + (g.map fun w => w.2.toNat).sum = c.toNat ∧ ∀ w v r, (grantGo c l).2.1 = (w, v) :: r → (grantGo c l).1.toNat < v.toNat := by
  induction l generalizing c with
  | nil => exact ⟨[], rfl, rfl, by simp [grantGo], fun w v r h => by cases h⟩
  | cons a l ih =>
    obtain ⟨w, v⟩ := a
    unfold grantGo
    split
    · next h =>
      obtain ⟨g, hl, hg, hsum, hhead⟩ := ih (c - v)
      refine ⟨(w, v) :: g, congrArg _ hl, congrArg _ hg, ?_, hhead⟩
      rw [BitVec.toNat_sub_of_le (BitVec.le_def.mpr h)] at hsum
      rw [List.map_cons, List.sum_cons]
      dsimp only
      omega
    · next h =>
      refine ⟨[], rfl, rfl, by simp, fun w' v' r e => ?_⟩
      cases e
      exact Nat.not_le.mp h

/-- What an operation leaves of its object, and its consequences. -/
theorem Sync.op_eq (x : Sync) (o : Nat) (p : SyncOp) : x.op o p = ({ x with objs := x.objs.put o ((x.objs.at o).apply p).1.test.1.grant.1 },
    (if ((x.objs.at o).apply p).2 then [.saturated o] else []) ++
    (if ((x.objs.at o).apply p).1.test.2 then [.fired o ((x.objs.at o).apply p).1.test.1.events] else []) ++
    ((x.objs.at o).apply p).1.test.1.grant.2.map .granted) := rfl

theorem Sync.op_at_self (x : Sync) (o : Nat) (p : SyncOp) : (x.op o p).1.objs.at o = ((x.objs.at o).apply p).1.test.1.grant.1 := Sparse.at_put_self ..

/-- The grants of an operation. -/
theorem Sync.granted_mem_op (x : Sync) (o : Nat) (p : SyncOp) (w : Waiter) :
    .granted w ∈ (x.op o p).2 ↔ w ∈ ((x.objs.at o).apply p).1.test.1.grant.2 := by
  have h1 : SyncEff.granted w ∉ (if ((x.objs.at o).apply p).2 then [SyncEff.saturated o] else []) := by split <;> simp
  have h2 : SyncEff.granted w ∉ (if ((x.objs.at o).apply p).1.test.2 then [SyncEff.fired o ((x.objs.at o).apply p).1.test.1.events] else []) := by
    split <;> simp
  rw [Sync.op_eq]
  simp [h1, h2]

/-! SYNC commands -/

section
variable {s : State} {i o k : Nat} {e : Entry}

/-- A SYNC entry of operation k on object o has its effect where its operand is in range. -/
theorem State.syncCmd_of_op {ok : Nat → Bool} (f : Entry → Nat → State) (hdue : s.due i e 0x30) (hl : legalIn 0x30 (k == 5) s.ctl.state = true)
    (hk : k < 256) (ho : o < 16384) (hop : e.p0.toNat = k + o * 65536) (hok : ok e.p1.toNat = true) : s.syncCmd i k ok f = f e o := by
  have hobj : fld64 e.p0 29 16 = o := by
    show e.p0.toNat / 2 ^ 16 % 2 ^ 14 = o
    omega
  rw [State.syncCmd_of_due ok f hdue (by omega), State.command_of_due _ _ hdue ((syncLegal_eq ..).trans hl)]
  rw [hobj, if_neg (by simp [hok, hop])]

/-- What is legal for every operation is legal for READ. -/
theorem legalIn_sync_read {d : Dev} (h : legalIn 0x30 false d = true) (b : Bool) : legalIn 0x30 b d = true := by
  cases b
  · exact h
  · cases d <;> first | contradiction | rfl

theorem State.parityAt_keeps (s : State) (o : Nat) (bad : Bool) : s.parityAt o bad = { s with
    sync := (s.parityAt o bad).sync, flt := (s.parityAt o bad).flt, free := (s.parityAt o bad).free } := by
  cases bad
  · rfl
  · show State.report _ _ = _
    rw [State.report_eq]
    simp [State.parityAt]

/-- What NOTIFY does to an object. -/
def State.notified (s : State) (o : Nat) (b : Bool) : State :=
  { s with sync := { s.sync with objs := s.sync.objs.mod o fun x => { x with notify := b } } }

theorem exec_syncNotify_of_due (bad : Bool) (hdue : s.due i e 0x30) (hl : legalIn 0x30 false s.ctl.state = true) (ho : o < 16384)
    (hop : e.p0.toNat = 6 + o * 65536) (hp : e.p1.toNat < 2) (hv : 1 ≤ s.hci) : exec (.syncNotify i bad) s =
    .next (((s.parityAt o bad).notified o (e.p1 = 1)).finish i .success) :=
  congrArg Host.Outcome.next ((if_neg (by omega)).trans (State.syncCmd_of_op _ hdue (legalIn_sync_read hl _) (by decide) ho hop (by simpa using hp)))

end

/-- Settles O31: each command by its operation, and the operation by its effect, its threshold test and its grants. -/
theorem syncObjects : Obligations.SyncObjects := by
  refine ⟨fun s i e o bad hdue hl ho => ?_, fun x o p => ?_⟩
  · intro op met at'
    have hok32 : ∀ {v : W64}, v.toNat < 2 ^ 32 → (fun n => decide (n < 2 ^ 32)) v.toNat = true := fun h => decide_eq_true h
    refine ⟨fun hop hne hv => ?_, fun hop hz => ?_, fun hop hne hv hn => ?_, fun hop hne hv hn => ?_, fun hop hv => ?_, fun hop hv => ?_, fun hop => ?_,
      fun hop hv hhci => ?_, ?_, fun hbad => ?_⟩
    · have hop : e.p0.toNat = 1 + o * 65536 := hop
      rw [exec_syncSignal_of_due bad hdue (by omega), State.syncCmd_of_op _ hdue (legalIn_sync_read hl _) (by decide) ho hop (hok32 hv), if_neg hne]
      rfl
    · have hop : e.p0.toNat = 1 + o * 65536 := hop
      rw [exec_syncSignal_of_due bad hdue (by omega), State.syncCmd_of_op _ hdue (legalIn_sync_read hl _) (by decide) ho hop (by simp [hz]), if_pos hz]
    · have hpos : 1 ≤ e.p1.toNat := Nat.one_le_iff_ne_zero.mpr fun h => hne (BitVec.eq_of_toNat_eq h)
      exact congrArg Host.Outcome.next ((State.syncCmd_of_op _ hdue (legalIn_sync_read hl _) (by decide) ho hop (by simp [hpos]; exact hv)).trans (if_neg (Nat.not_le.mpr hn)))
    · have hpos : 1 ≤ e.p1.toNat := Nat.one_le_iff_ne_zero.mpr fun h => hne (BitVec.eq_of_toNat_eq h)
      exact congrArg Host.Outcome.next ((State.syncCmd_of_op _ hdue (legalIn_sync_read hl _) (by decide) ho hop (by simp [hpos]; exact hv)).trans (if_pos hn))
    · exact congrArg Host.Outcome.next (State.syncCmd_of_op _ hdue (legalIn_sync_read hl _) (by decide) ho hop (hok32 hv))
    · exact congrArg Host.Outcome.next (State.syncCmd_of_op _ hdue (legalIn_sync_read hl _) (by decide) ho hop (by simpa using hv))
    · exact congrArg Host.Outcome.next (State.syncCmd_of_op _ hdue (legalIn_sync_read hl _) (by decide) ho hop rfl)
    · refine ⟨_, exec_syncNotify_of_due bad hdue hl ho hop hv hhci, ?_⟩
      have hself : ((met s).notified o (e.p1 = 1)).sync.objs.at o = { (met s).sync.objs.at o with notify := e.p1 = 1 } :=
        Sparse.at_mod_self (met s).sync.objs o fun x => { x with notify := e.p1 = 1 }
      rw [State.finish_eq]
      refine ⟨(congrArg SyncObj.notify hself).trans (Bool.eq_iff_iff.mpr (by simp)), (congrArg SyncObj.count hself).trans rfl, ?_⟩
      have hmet : met s = { s with sync := (met s).sync, flt := (met s).flt, free := (met s).free } := s.parityAt_keeps o bad
      show ({ (met s).notified o (e.p1 = 1) with hif := _ } : State) = _
      unfold State.notified
      rw [hmet]
    · cases bad
      · rfl
      · obtain ⟨q, hq, -⟩ := State.parityAt_bad o (Dev.awake_of_live hdue.2.2.2)
        show s.parityAt o true = _
        rw [if_pos rfl]
        show s.parityAt o true = { s with sync := _, free := _, flt := (s.parityAt o true).flt }
        rw [hq]
    · subst hbad
      obtain ⟨q, hq, hcls, hsev, hsub, hdetail⟩ := State.parityAt_bad o (Dev.awake_of_live hdue.2.2.2)
      exact ⟨q, by rw [show met s = _ from hq]; rfl, hcls, hsev, hsub, hdetail⟩
  · intro b y
    have hy : y = b.1.test.1.grant.1 := x.op_at_self o p
    obtain ⟨hfifo, hover, -⟩ := b.1.test_keeps
    obtain ⟨g, hl, hg, hsum, hhead⟩ := grantGo_spec b.1.test.1.count b.1.test.1.fifo
    refine ⟨fun j hj => Sparse.at_put_ne _ _ hj, ?_, ?_, ?_, ?_, fun hne hle => ?_, fun hno => ?_, fun w v r hr => ?_, ⟨g, ?_, fun w => ?_⟩, ?_⟩
    · rintro n rfl
      refine ⟨SyncObj.apply_signal .., fun hsat => ?_⟩
      obtain ⟨h2, h1⟩ := (x.objs.at o).apply_signal_saturates hsat
      refine ⟨?_, ?_⟩
      · rw [hy]; exact hover.trans h1
      · rw [Sync.op_eq, if_pos h2]; simp
    · rintro w v rfl
      exact ⟨rfl, rfl⟩
    · rintro c rfl; rfl
    · rintro c rfl; rfl
    · have ht : b.1.test = ({ b.1 with count := b.1.count - b.1.threshold.setWidth 32, events := b.1.events + 1 }, true) := if_pos ⟨hne, hle⟩
      have hev : y.events = b.1.test.1.events := (congrArg SyncObj.events hy).trans rfl
      refine ⟨hev.trans (by rw [ht]), ?_⟩
      rw [hev, Sync.op_eq, if_pos (show b.1.test.2 = true by rw [ht])]
      simp [b]
    · have ht : b.1.test = (b.1, false) := if_neg fun h => by
        obtain hz | hlt := hno
        · exact h.1 hz
        · exact absurd h.2 (Nat.not_le.mpr hlt)
      exact (congrArg SyncObj.events hy).trans (by rw [ht]; rfl)
    · rw [hy] at hr ⊢
      exact hhead w v r hr
    · rw [hy]
      exact hfifo.symm.trans hl
    · rw [Sync.granted_mem_op, ← hg]
      rfl
    · have hcount := b.1.test_count
      have hlen : b.1.fifo.take (b.1.fifo.length - y.fifo.length) = g := by
        have hbl : b.1.fifo = g ++ y.fifo := by rw [hy]; exact hfifo.symm.trans hl
        rw [hbl, List.length_append, Nat.add_sub_cancel]
        exact List.take_left ..
      have hyc : y.count.toNat = (grantGo b.1.test.1.count b.1.test.1.fifo).1.toNat := congrArg (fun z : SyncObj => z.count.toNat) hy
      rw [hlen, hyc, hsum]
      exact hcount
end Sys2Proof.Machine
end

section
/-! SUPPORT. From a report to its record, and what the record does (R519, R527 to R529, R536 to R541). -/

namespace Sys2Proof.Machine

/-! Reports reach the region manager or the chip controller -/

section
variable {f : Flt} {r : Report} {rest : List Report}

/-- A region absorbs only corrected faults of its tiles, and not in crossed mode. -/
theorem Flt.report_of_passed {crossed : Bool} (now : Nat) (h : f.reports = r :: rest) (hp : r.tile = none ∨ crossed = true ∨ r.sev ≠ .corrected) :
    f.report crossed now = { f with reports := rest, toWrite := r.enter f.toWrite, fences := f.fences ++ r.fence?.toList } := by
  unfold Flt.report
  simp only [h]
  cases ht : r.tile with
  | none => rfl
  | some t =>
    cases crossed with
    | true => rfl
    | false =>
      cases hs : r.sev with
      | corrected => simp [ht, hs] at hp
      | contained => rfl
      | chip => rfl

theorem Flt.report_of_absorbed {t : Nat} (now : Nat) (h : f.reports = r :: rest) (ht : r.tile = some t) (hs : r.sev = .corrected) :
    f.report false now = { f with reports := rest }.absorb r t now := by
  unfold Flt.report
  simp only [h, ht, hs]

theorem Report.fence?_of_chip (h : r.tile = none) : r.fence?.toList = if r.fenced then [if r.level = 2 then 256 + r.unit else r.unit] else [] := by
  unfold Report.fence?
  rw [h]
  cases r.fenced <;> rfl

theorem Report.fence?_of_tile {t : Nat} (h : r.tile = some t) : r.fence?.toList = if r.fenced then [t] else [] := by
  unfold Report.fence?
  rw [h]
  cases r.fenced <;> rfl

/-- A fault absorbed is counted in its region; at the threshold a summary is written. -/
theorem Flt.absorb_facts (f : Flt) (r : Report) (t now : Nat) : (f.absorb r t now).reports = f.reports ∧ (f.absorb r t now).log = f.log ∧
    (f.absorb r t now).fences = f.fences ∧ (f.absorb r t now).regCe = f.regCe.mod (regionOf t) (fun c => satAdd c 1) ∧
    ((f.absorb r t now).toWrite = f.toWrite ∨ ∃ q, (f.absorb r t now).toWrite = Report.enter q f.toWrite ∧ q.sev = .corrected ∧ q.summary = true ∧
      q.cls = r.cls ∧ q.unit = regionOf t ∧ q.sub = f.ceThresh.toNat) := by
  unfold Flt.absorb
  dsimp only
  split
  · exact ⟨rfl, rfl, rfl, rfl, .inr ⟨_, rfl, rfl, rfl, rfl, rfl, rfl⟩⟩
  · exact ⟨rfl, rfl, rfl, rfl, .inl rfl⟩

theorem Flt.absorb_of_no_threshold (r : Report) (t now : Nat) (h : f.ceThresh = 0) : (f.absorb r t now).toWrite = f.toWrite := by
  unfold Flt.absorb
  dsimp only
  rw [if_neg (by simp [h])]

end

/-- A report that moves on leaves the log. -/
theorem Flt.report_keeps {f : Flt} {r : Report} {rest : List Report} (crossed : Bool) (now : Nat) (h : f.reports = r :: rest) :
    (f.report crossed now).reports = rest ∧ (f.report crossed now).log = f.log := by
  by_cases hp : r.tile = none ∨ crossed = true ∨ r.sev ≠ .corrected
  · rw [Flt.report_of_passed now h hp]
    exact ⟨rfl, rfl⟩
  · obtain ⟨htile, hcrossed, hsev⟩ : r.tile ≠ none ∧ crossed = false ∧ r.sev = .corrected := by simpa using hp
    obtain ⟨t, ht⟩ := Option.ne_none_iff_exists'.mp htile
    rw [hcrossed, Flt.report_of_absorbed now h ht hsev]
    obtain ⟨hrep, hlog, -⟩ := Flt.absorb_facts { f with reports := rest } r t now
    exact ⟨hrep, hlog⟩

theorem exec_faultReport_eq (s : State) : exec .faultReport s = .next { s with flt := s.flt.report s.crossed s.now } := rfl

theorem State.crossed_of_no_image {s : State} (h : s.img = none) : s.crossed = false := by simp [State.crossed, h]

/-! Records -/

/-- The CHIP copy of a record written. -/
def Flt.chipCopied (f : Flt) (r : Report) (p : Bool) : Flt :=
  if r.sev = .chip then { f with seq := f.seq + 1, chipRec := r.bytes f.seq.toNat p, chip := true } else { f with seq := f.seq + 1 }

theorem Flt.chipCopied_eq (f : Flt) (r : Report) (p : Bool) : f.chipCopied r p =
    { f with seq := f.seq + 1, chipRec := (f.chipCopied r p).chipRec, chip := (f.chipCopied r p).chip } := by
  unfold Flt.chipCopied; split <;> rfl

theorem Flt.writeRecord_eq (f : Flt) (r : Report) (p : Bool) : f.writeRecord r p =
    if f.unread = 256 then { f.chipCopied r p with lostCnt := satAdd f.lostCnt 1, logFull := true }
    else { f.chipCopied r p with log := Sparse.put f.log (f.logWr.toNat % 256) (r.bytes f.seq.toNat p), logWr := f.logWr + 1 } := by
  unfold Flt.writeRecord Flt.chipCopied
  dsimp only
  split <;> rfl

/-- What writing a record leaves of the FLT block. -/
theorem Flt.writeRecord_keeps (f : Flt) (r : Report) (p : Bool) : (f.writeRecord r p).toWrite = f.toWrite ∧ (f.writeRecord r p).seq = f.seq + 1 ∧
    (f.writeRecord r p).logRd = f.logRd ∧ (f.writeRecord r p).abandoning = f.abandoning ∧ (f.writeRecord r p).chipRec = (f.chipCopied r p).chipRec := by
  rw [Flt.writeRecord_eq, Flt.chipCopied_eq]
  split <;> exact ⟨rfl, rfl, rfl, rfl, rfl⟩

theorem Flt.writeRecord_of_full {f : Flt} (r : Report) (p : Bool) (h : f.unread = 256) : (f.writeRecord r p).log = f.log ∧
    (f.writeRecord r p).logWr = f.logWr ∧ (f.writeRecord r p).lostCnt = satAdd f.lostCnt 1 ∧ (f.writeRecord r p).logFull = true := by
  rw [Flt.writeRecord_eq, if_pos h, Flt.chipCopied_eq]
  exact ⟨rfl, rfl, rfl, rfl⟩

theorem Flt.writeRecord_of_room {f : Flt} (r : Report) (p : Bool) (h : f.unread ≠ 256) : (f.writeRecord r p).logWr = f.logWr + 1 ∧
    (f.writeRecord r p).log = f.log.put (f.logWr.toNat % 256) (r.bytes f.seq.toNat p) := by
  rw [Flt.writeRecord_eq, if_neg h]
  exact ⟨rfl, rfl⟩

/-! What FAULT and an abandonment leave of the FLT block -/

theorem State.abandon_flt (s : State) :
    s.abandon.flt = { s.flt with abandoning := s.abandon.flt.abandoning, deferred := s.abandon.flt.deferred } := by
  unfold State.abandon
  split
  · rfl
  · split <;> rfl

/-- The flags FAULT changes are not those of the log. -/
theorem State.enterFault_flt (s : State) (b : Bool) : (s.enterFault b).flt = { s.flt with
    imgLost := (s.enterFault b).flt.imgLost, partialUpdate := (s.enterFault b).flt.partialUpdate, abandoning := (s.enterFault b).flt.abandoning
    chipAfter := (s.enterFault b).flt.chipAfter, deferred := (s.enterFault b).flt.deferred } := by
  unfold State.enterFault
  split
  · rfl
  · rfl
  · rfl
  · dsimp only
    generalize ht : State.failSerial _ = t
    have hflt : t.flt = { s.flt with imgLost := t.flt.imgLost } := by
      rw [← ht]
      cases b <;> simp
    split
    · rw [hflt]
    · simp only [State.goto_keeps, State.stopUpdates_keeps]
      split
      · rw [hflt]
      · split
        · rw [hflt]
        · rw [State.abandon_flt, hflt]

/-- A CHIP fault with no step running enters FAULT with the tiles held. -/
theorem State.enterFault_of_idle {s : State} (b : Bool) (hlive : s.ctl.state.live = true) (hrun : s.adm.running = false)
    (hab : s.flt.abandoning = false) : (s.enterFault b).ctl.state = .fault ∧ (s.enterFault b).fab.hold = true ∧
    (s.enterFault b).img = if b then none else s.img := by
  obtain ⟨hoff, hreset, halarm⟩ := Dev.ne_of_live hlive
  unfold State.enterFault
  split
  · contradiction
  · contradiction
  · contradiction
  · cases b <;> simp [hab, hrun, State.goto_state]

/-! One record written -/

/-- An update of the running step has begun. -/
def State.updateBegun (s : State) : Bool := s.adm.running && s.adm.updStarted

/-- A report as its record tells it: it names an abandonment only where one follows. -/
def Report.judged (r : Report) (s : State) : Report :=
  { r with abandon := if r.sev = Sev.chip then s.adm.running && !s.updateBegun else r.abandon && !s.updateBegun }

/-- The record's PARTIAL mark. -/
def Report.partly (r : Report) (s : State) : Bool := r.sev == Sev.chip && s.updateBegun

/-- The FLT block with the record written. -/
def State.recorded (s : State) (r : Report) (rest : List Report) : Flt := ({ s.flt with toWrite := rest } : Flt).writeRecord (r.judged s) (r.partly s)

/-- The state with the record written and its event posted. -/
def State.recordTold (s : State) (r : Report) (rest : List Report) : State :=
  ({ s with flt := s.recorded r rest } : State).faultEvent (r.judged s) s.flt.seq.toNat (r.partly s)

theorem State.faultEvent_eq (s : State) (r : Report) (seq : Nat) (p : Bool) : s.faultEvent r seq p = { s with hif := (s.faultEvent r seq p).hif } := by
  unfold State.faultEvent State.event
  split
  · rfl
  · dsimp only
    split <;> rfl

theorem State.recordTold_eq (s : State) (r : Report) (rest : List Report) : s.recordTold r rest =
    { s with flt := s.recorded r rest, hif := (s.recordTold r rest).hif } := State.faultEvent_eq ..

section
variable {s : State} {r : Report} {rest : List Report}

theorem exec_faultRecordWrite_waits (h : s.flt.toWrite = r :: rest) (hf : s.flt.fencePending s.crossed r = true) :
    exec .faultRecordWrite s = .next s := by
  refine congrArg Host.Outcome.next ?_
  simp only [h]
  exact if_pos hf

theorem exec_faultRecordWrite_corrected (h : s.flt.toWrite = r :: rest) (hf : s.flt.fencePending s.crossed r = false) (hs : r.sev = .corrected) :
    exec .faultRecordWrite s = .next (s.recordTold r rest) := by
  refine congrArg Host.Outcome.next ?_
  simp only [h]
  refine (if_neg (by simp [hf])).trans ?_
  simp only [hs]
  simp only [State.recordTold, State.recorded, Report.judged, Report.partly, hs]
  rfl

theorem exec_faultRecordWrite_chip (h : s.flt.toWrite = r :: rest) (hf : s.flt.fencePending s.crossed r = false) (hs : r.sev = .chip) :
    exec .faultRecordWrite s = .next ((s.recordTold r rest).enterFault r.imgLost) := by
  refine congrArg Host.Outcome.next ?_
  simp only [h]
  refine (if_neg (by simp [hf])).trans ?_
  simp only [hs]
  simp only [State.recordTold, State.recorded, Report.judged, Report.partly, hs]
  rfl

/-- A CONTAINED record may abandon the step. -/
def Report.wants (r : Report) (s : State) (rest : List Report) : Bool :=
  (r.judged s).abandon || (r.sev == .contained && s.updateBegun && (r :: rest).head?.any fun x => x.abandon)

theorem exec_faultRecordWrite_contained_eq (h : s.flt.toWrite = r :: rest) (hf : s.flt.fencePending s.crossed r = false) (hs : r.sev = .contained) :
    exec .faultRecordWrite s = .next (if r.wants s rest && (s.recordTold r rest).adm.running && decide (r.cls ≠ .hostAbort) then
      (s.recordTold r rest).abandon else s.recordTold r rest) := by
  cases r
  dsimp only at hs
  subst hs
  refine congrArg Host.Outcome.next ?_
  simp only [h]
  exact if_neg (by simp [hf])

/-- A CONTAINED record is written, and abandons at most a step that runs. -/
theorem exec_faultRecordWrite_contained (h : s.flt.toWrite = r :: rest) (hf : s.flt.fencePending s.crossed r = false) (hs : r.sev = .contained) :
    exec .faultRecordWrite s = .next (s.recordTold r rest) ∨
    exec .faultRecordWrite s = .next (s.recordTold r rest).abandon ∧ s.adm.running = true := by
  have hadm : (s.recordTold r rest).adm = s.adm := by rw [State.recordTold_eq]
  rw [exec_faultRecordWrite_contained_eq h hf hs, hadm]
  split
  · next hc =>
    simp only [Bool.and_eq_true] at hc
    exact .inr ⟨rfl, hc.1.2⟩
  · exact .inl rfl

/-- With no step running a report is recorded as it stands. -/
theorem Report.judged_of_idle (hrun : s.adm.running = false) (ha : r.abandon = false) : r.judged s = r ∧ r.partly s = false := by
  refine ⟨?_, by simp [Report.partly, State.updateBegun, hrun]⟩
  have : (if r.sev = Sev.chip then s.adm.running && !s.updateBegun else r.abandon && !s.updateBegun) = r.abandon := by
    rw [hrun, ha]; exact ite_self _
  unfold Report.judged
  rw [this]

/-- What a record written leaves, whatever it does to the step. -/
def State.Recorded (s : State) (r : Report) (rest : List Report) (t : State) : Prop :=
  t.flt = { s.recorded r rest with
    imgLost := t.flt.imgLost, partialUpdate := t.flt.partialUpdate, abandoning := t.flt.abandoning, chipAfter := t.flt.chipAfter, deferred := t.flt.deferred } ∧
  t.mem = s.mem ∧ t.memr = s.memr ∧ t.tmr = s.tmr ∧ (r.sev ≠ .chip → t.upd = s.upd) ∧ t.lnk = s.lnk ∧ t.inp = s.inp ∧ t.sync = s.sync

theorem State.recorded_told : s.Recorded r rest (s.recordTold r rest) := by
  rw [State.recordTold_eq]
  exact ⟨rfl, rfl, rfl, rfl, fun _ => rfl, rfl, rfl, rfl⟩

theorem exec_faultRecordWrite_recorded (h : s.flt.toWrite = r :: rest) (hf : s.flt.fencePending s.crossed r = false) :
    ∃ t, exec .faultRecordWrite s = .next t ∧ s.Recorded r rest t ∧ (r.sev = .corrected → t = s.recordTold r rest) := by
  obtain ⟨hflt, hmem, hmemr, htmr, hupd, hlnk, hinp, hsync⟩ := s.recorded_told (r := r) (rest := rest)
  cases hs : r.sev with
  | corrected => exact ⟨_, exec_faultRecordWrite_corrected h hf hs, s.recorded_told, fun _ => rfl⟩
  | contained =>
    obtain he | ⟨he, -⟩ := exec_faultRecordWrite_contained h hf hs
    · exact ⟨_, he, s.recorded_told, fun h => by cases h⟩
    · refine ⟨_, he, ⟨?_, ?_⟩, fun h => by cases h⟩
      · rw [State.abandon_flt, hflt]
      · simp only [State.abandon_keeps]
        exact ⟨hmem, hmemr, htmr, hupd, hlnk, hinp, hsync⟩
  | chip =>
    refine ⟨_, exec_faultRecordWrite_chip h hf hs, ⟨?_, ?_⟩, fun h => by cases h⟩
    · rw [State.enterFault_flt, hflt]
    · simp only [State.enterFault_keeps]
      exact ⟨hmem, hmemr, htmr, fun hne => absurd hs hne, hlnk, hinp, hsync⟩

end

/-- Settles O34: reports by `Flt.report_of_passed` and what a region absorbs, records by `Flt.writeRecord_eq` and what each severity does. -/
theorem faultsReportedAndRecorded : Obligations.FaultsReportedAndRecorded := by
  intro s r rest
  refine ⟨fun h ht => ?_, fun k h ht hs him hz => ?_, fun h hs ha hrun hu hlive hab hf => ?_, fun h hs hu hf => ?_, fun h => ?_, fun h hk hx => ?_,
    fun h hf => ?_⟩
  · refine ⟨_, exec_faultReport_eq s, ?_⟩
    rw [Flt.report_of_passed _ h (.inl ht)]
    exact ⟨rfl, rfl, rfl, congrArg _ (Report.fence?_of_chip ht)⟩
  · refine ⟨_, exec_faultReport_eq s, ?_⟩
    rw [State.crossed_of_no_image him, Flt.report_of_absorbed _ h ht hs]
    obtain ⟨hrep, -, -, hce, -⟩ := Flt.absorb_facts { s.flt with reports := rest } r k s.now
    exact ⟨hrep, Flt.absorb_of_no_threshold r k s.now hz, by rw [hce]; exact Sparse.at_mod_self s.flt.regCe (regionOf k) fun c => satAdd c 1, rfl⟩
  · obtain ⟨hj, hp⟩ := Report.judged_of_idle hrun ha
    obtain ⟨t, he, ⟨hflt, hmem, -⟩, -⟩ := exec_faultRecordWrite_recorded h hf
    obtain ⟨hw, hseq, -, -, hchip⟩ := Flt.writeRecord_keeps { s.flt with toWrite := rest } r false
    obtain ⟨hwr, hlog⟩ := Flt.writeRecord_of_room (f := { s.flt with toWrite := rest }) r false hu
    have hrec : s.recorded r rest = ({ s.flt with toWrite := rest } : Flt).writeRecord r false := by unfold State.recorded; rw [hj, hp]
    rw [hrec] at hflt
    refine ⟨t, he, ?_⟩
    rw [hflt]
    dsimp only
    refine ⟨hw, hseq, hwr, ?_, fun k hk => ?_, hmem, fun hc => ?_, fun hc => ?_⟩
    · rw [hlog]; exact Sparse.at_put_self s.flt.log ..
    · rw [hlog]; exact Sparse.at_put_ne s.flt.log _ hk
    · have ht := Host.Outcome.next.inj (he.symm.trans (exec_faultRecordWrite_chip h hf hc))
      have hback : (s.recordTold r rest).flt.abandoning = false := by
        rw [State.recordTold_eq, hrec]
        exact (Flt.writeRecord_keeps _ _ _).2.2.2.1.trans hab
      obtain ⟨hst, hhold, himg⟩ := State.enterFault_of_idle (s := s.recordTold r rest) r.imgLost (by rw [State.recordTold_eq]; exact hlive)
        (by rw [State.recordTold_eq]; exact hrun) hback
      rw [← ht] at hst hhold himg
      refine ⟨hst, hhold, hchip.trans ?_, himg.trans (by rw [State.recordTold_eq])⟩
      exact congrArg Flt.chipRec (if_pos hc)
    · obtain h1 | ⟨-, h2⟩ := exec_faultRecordWrite_contained h hf hc
      · rw [Host.Outcome.next.inj (he.symm.trans h1), State.recordTold_eq]
        exact ⟨rfl, rfl⟩
      · exact absurd (hrun.symm.trans h2) Bool.false_ne_true
  · obtain ⟨t, he, ⟨hflt, -⟩, -⟩ := exec_faultRecordWrite_recorded h hf
    obtain ⟨hw, -⟩ := Flt.writeRecord_keeps { s.flt with toWrite := rest } (r.judged s) (r.partly s)
    obtain ⟨hlog, hwr, hlost, hfull⟩ := Flt.writeRecord_of_full (f := { s.flt with toWrite := rest }) (r.judged s) (r.partly s) hu
    refine ⟨t, he, ?_⟩
    rw [hflt]
    exact ⟨hw, hlog, hwr, hlost, hfull⟩
  · intro crossed
    refine ⟨_, exec_faultReport_eq s, rfl, ?_⟩
    have hpass := fun hp => Flt.report_of_passed (f := s.flt) (crossed := s.crossed) s.now h hp
    have habsorb : ∀ k, r.tile = some k → crossed = false → r.sev = .corrected → s.flt.report s.crossed s.now = { s.flt with reports := rest }.absorb r k s.now :=
      fun k hk hc hs => by
        rw [show s.crossed = false from hc]
        exact Flt.report_of_absorbed _ h hk hs
    refine ⟨?_, ?_, fun k hk hor => ?_, fun k hk hc hs => ?_, fun ht => ?_⟩
    · exact (Flt.report_keeps s.crossed s.now h).1
    · exact (Flt.report_keeps s.crossed s.now h).2
    · dsimp only
      rw [hpass (.inr hor)]
      exact ⟨rfl, congrArg _ (Report.fence?_of_tile hk)⟩
    · dsimp only
      rw [habsorb k hk hc hs]
      obtain ⟨-, -, hfences, hce, hsum⟩ := Flt.absorb_facts { s.flt with reports := rest } r k s.now
      exact ⟨hfences, by rw [hce]; exact Sparse.at_mod_self s.flt.regCe (regionOf k) fun c => satAdd c 1, hsum⟩
    · dsimp only
      rw [hpass (.inl ht)]
      exact ⟨rfl, congrArg _ (Report.fence?_of_chip ht)⟩
  · obtain ⟨k, hk, hfenced, hin⟩ := hk
    refine exec_faultRecordWrite_waits h ?_
    have hx : s.crossed = false := hx
    simp [Flt.fencePending, hx, hk, Report.fence?, hfenced, hin]
  · intro updating q
    obtain ⟨t, he, ⟨hflt, hmem, hmemr, htmr, hupd, hlnk, hinp, hsync⟩, hcorr⟩ := exec_faultRecordWrite_recorded h hf
    obtain ⟨hw, hseq, hrd, -⟩ := Flt.writeRecord_keeps { s.flt with toWrite := rest } (r.judged s) (r.partly s)
    refine ⟨t, he, ?_⟩
    refine ⟨?_, ?_, ?_, hmem, hmemr, htmr, hupd, hlnk, hinp, hsync, fun hu => ?_, fun hu => ?_, fun hs => ?_⟩
    · rw [hflt]; exact hw
    · rw [hflt]; exact hseq
    · rw [hflt]; exact hrd
    · rw [hflt]
      obtain ⟨hlog, hwr, hlost, hfull⟩ := Flt.writeRecord_of_full (f := { s.flt with toWrite := rest }) (r.judged s) (r.partly s) hu
      exact ⟨hlog, hwr, hlost, hfull⟩
    · rw [hflt]
      obtain ⟨hwr, hlog⟩ := Flt.writeRecord_of_room (f := { s.flt with toWrite := rest }) (r.judged s) (r.partly s) hu
      refine ⟨hwr, ?_⟩
      show (State.recorded s r rest).log.at _ = _
      unfold State.recorded
      rw [hlog]
      exact Sparse.at_put_self s.flt.log ..
    · rw [hcorr hs, State.recordTold_eq]

end Sys2Proof.Machine
end

section
/-! SUPPORT. Fences, injections and the end of an abandonment (R33, R130, R532 to R534, R542, R544). -/

namespace Sys2Proof.Machine

/-! Slots that stop -/

section
variable (s : State) (t k : Nat)

/-- A firing stopped by a fence only reaches the tiles. -/
theorem State.poisonStop_eq : s.poisonStop t k false = { s with fab := (s.poisonStop t k false).fab } := by
  unfold State.poisonStop State.noteUnit
  dsimp only
  rw [if_neg Bool.false_ne_true, State.noteReady_eq]

/-- The tiles after a firing is stopped, but for the order of readiness. -/
theorem State.poisonStop_fab : (s.poisonStop t k false).fab = { (s.fab.stopSlot t k).modTile t fun r => { r with poisonIn := true } with
    readyLog := (s.poisonStop t k false).fab.readyLog } := by
  unfold State.poisonStop State.noteUnit
  dsimp only
  rw [if_neg Bool.false_ne_true, State.noteReady_eq]

theorem State.poisonStop_firings : (s.poisonStop t k false).fab.firings = s.fab.firings.filter fun y => !(y.tile == t && y.slot == k) := by
  rw [State.poisonStop_fab]; rfl

theorem State.poisonStop_fenced : (s.poisonStop t k false).fab.fenced = s.fab.fenced := by
  rw [State.poisonStop_fab]; rfl

theorem State.poisonStop_slots : (s.poisonStop t k false).fab.slots = s.fab.slots.put (16 * t + k) { s.fab.slot t k with st := .stopped } := by
  rw [State.poisonStop_fab]; rfl

end

/-- The firings of a list stopped, one after the other. -/
def State.stopAll (s : State) (l : List Firing) : State := l.foldl (fun s x => s.poisonStop x.tile x.slot false) s

theorem State.stopAll_eq (s : State) (l : List Firing) : s.stopAll l = { s with fab := (s.stopAll l).fab } := by
  induction l generalizing s with
  | nil => rfl
  | cons x l ih =>
    show (s.poisonStop x.tile x.slot false).stopAll l = { s with fab := ((s.poisonStop x.tile x.slot false).stopAll l).fab }
    rw [ih, State.poisonStop_eq]

theorem State.stopAll_fenced (s : State) (l : List Firing) : (s.stopAll l).fab.fenced = s.fab.fenced := by
  induction l generalizing s with
  | nil => rfl
  | cons x l ih => exact (ih _).trans (s.poisonStop_fenced ..)

/-- The firings left are those not stopped. -/
theorem State.mem_stopAll_firings (s : State) (l : List Firing) (y : Firing) :
    y ∈ (s.stopAll l).fab.firings ↔ y ∈ s.fab.firings ∧ ∀ x ∈ l, ¬ (y.tile = x.tile ∧ y.slot = x.slot) := by
  induction l generalizing s with
  | nil => simp [State.stopAll]
  | cons x l ih =>
    show y ∈ ((s.poisonStop x.tile x.slot false).stopAll l).fab.firings ↔ _
    rw [ih, State.poisonStop_firings]
    simp only [List.mem_filter, List.mem_cons, forall_eq_or_imp, Bool.not_eq_true', Bool.and_eq_false_iff, beq_eq_false_iff_ne]
    tauto

/-- A slot stopped stays stopped. -/
theorem State.stopAll_stopped_of_stopped (s : State) (l : List Firing) {i : Nat} (h : (s.fab.slots.at i).st = .stopped) :
    ((s.stopAll l).fab.slots.at i).st = .stopped := by
  induction l generalizing s with
  | nil => exact h
  | cons x l ih =>
    refine ih _ ?_
    rw [State.poisonStop_slots, Sparse.at_put]
    split
    · rfl
    · exact h

theorem State.stopAll_stopped (s : State) (l : List Firing) {x : Firing} (hx : x ∈ l) : ((s.stopAll l).fab.slot x.tile x.slot).st = .stopped := by
  induction l generalizing s with
  | nil => cases hx
  | cons y l ih =>
    obtain rfl | hx := List.mem_cons.mp hx
    · refine State.stopAll_stopped_of_stopped (s.poisonStop x.tile x.slot false) l ?_
      rw [State.poisonStop_slots, Sparse.at_put_self]
    · exact ih _ hx

/-! A fence in force -/

section
variable (s : State) (n : Nat) (rest : List Nat)

/-- The class of a firing's descriptor. -/
def State.clsOf (x : Firing) : Nat := match s.img with | some im => (im.descAt x.desc).cls | none => 0

/-- The STEM firings that a fence stops. -/
def State.fencedStems : List Firing :=
  s.fab.firings.filter fun x => (fenceTiles s.img n).contains x.tile && s.clsOf x == 9 && !x.allSent (s.img.getD default)

/-- A SIGNAL under way of a tile of the fence. -/
def State.fenceDrops : SyncMsg → Bool
  | .signal _ _ t => (fenceTiles s.img n).contains t
  | .take _ _ _ _ => false

/-- The firings with the SRAM writes of the fence's memory firings dropped. -/
def State.fencedFirings : List Firing :=
  s.fab.firings.map fun (x : Firing) => if (fenceTiles s.img n).contains x.tile && s.clsOf x == 7 then { x with sram := [] } else x

/-- The fence's dropped writes and SIGNALs, counted in their regions. -/
def State.fenceCnt : Sparse W32 :=
  let mems := s.fab.firings.filter fun x => (fenceTiles s.img n).contains x.tile && s.clsOf x == 7 && !x.sram.isEmpty
  ((mems ++ s.fencedStems n).map (·.tile) ++ (s.sync.msgs.filter (s.fenceDrops n)).map (·.tile)).foldl
    (fun t x => t.mod (regionOf x) fun c => satAdd c 1) s.flt.regFence

/-- The state with a fence in force, before STEM firings stop. -/
def State.fencedState : State := { s with
  fab := { s.fab with
    fenced := s.fab.fenced ++ (fenceTiles s.img n).filter fun t => !s.fab.fenced.contains t
    firings := s.fencedFirings n, readyLog := s.fab.readyLog.filter fun p => !(fenceTiles s.img n).contains p.1 }
  sync := { s.sync with msgs := s.sync.msgs.filter fun m => !s.fenceDrops n m }
  flt := { s.flt with fences := rest, regFence := s.fenceCnt n } }

theorem exec_tileFence_of_fence (h : s.flt.fences = n :: rest) :
    exec .tileFence s = .next ((s.fencedState n rest).stopAll (s.fencedStems n)) := by
  refine congrArg Host.Outcome.next ?_
  simp only [h]
  rfl

end

/-- The ordered tile lies in its fence. -/
theorem mem_fenceTiles {im : Option Image} {n : Nat} (h : n < 256) : n ∈ fenceTiles im n := by
  unfold fenceTiles
  rw [if_neg (by omega)]
  exact List.mem_cons_self ..

/-! The end of an abandonment -/

/-- Row sets of several micro-batches freed. -/
theorem Inp.foldl_freeMb (l : List Frame) (x : Inp) : l.foldl (fun (x : Inp) fr => x.freeMb fr.inMb) x =
    { x with live := (l.foldl (fun (x : Inp) fr => x.freeMb fr.inMb) x).live } ∧
    ∀ g, g ∈ (l.foldl (fun (x : Inp) fr => x.freeMb fr.inMb) x).live ↔ g ∈ x.live ∧ ∀ f ∈ l, g / x.mbRows ≠ f.inMb := by
  induction l generalizing x with
  | nil => exact ⟨rfl, fun g => by simp⟩
  | cons f l ih =>
    obtain ⟨heq, hmem⟩ := ih (x.freeMb f.inMb)
    refine ⟨heq, fun g => (hmem g).trans ?_⟩
    simp only [Inp.freeMb, List.mem_filter, List.mem_cons, forall_eq_or_imp, bne_iff_ne, and_assoc]

/-- The intake after an abandoned step. -/
theorem State.abandonStep_inp (s : State) : s.abandonStep.inp = { s.inp with
      live := s.abandonStep.inp.live, nextMb := s.inp.nextMb - s.adm.frames.length } ∧
    ∀ g, g ∈ s.abandonStep.inp.live ↔ g ∈ s.inp.live ∧ ∀ f ∈ s.adm.frames, g / s.inp.mbRows ≠ f.inMb := by
  obtain ⟨heq, hmem⟩ := Inp.foldl_freeMb s.adm.frames s.inp
  refine ⟨?_, hmem⟩
  unfold State.abandonStep
  dsimp only
  rw [heq]

/-- Arming slots keeps the firings and the fences. -/
theorem Image.arm_keeps (im : Image) (x : Fab × Sync) (t k : Nat) : (im.arm x t k).1.firings = x.1.firings ∧ (im.arm x t k).1.fenced = x.1.fenced := by
  unfold Image.arm
  dsimp only
  split <;> exact ⟨rfl, rfl⟩

theorem Image.armAll_keeps (im : Image) (x : Fab × Sync) : (im.armAll x).1.firings = x.1.firings ∧ (im.armAll x).1.fenced = x.1.fenced := by
  refine foldl_keeps (P := fun y : Fab × Sync => y.1.firings = x.1.firings ∧ y.1.fenced = x.1.fenced) (fun y d hy => ?_) im.descs ⟨rfl, rfl⟩
  split
  · obtain ⟨hf, hn⟩ := im.arm_keeps y d.tile d.slot
    exact ⟨hf.trans hy.1, hn.trans hy.2⟩
  · exact hy

/-- The way out of a step that was abandoned. -/
theorem State.leaveStep_running {s : State} (h : s.ctl.state.running = true) (hold : Bool) :
    (s.leaveStep hold).ctl.state = (if hold then .fault else .armed) ∧ (s.leaveStep hold).fab =
      { s.fab with hold := hold, readyLog := (s.leaveStep hold).fab.readyLog } := by
  unfold State.leaveStep
  dsimp only
  rw [if_pos (by simpa using h)]
  cases hold
  · rw [if_neg Bool.false_ne_true, if_neg Bool.false_ne_true, State.noteAll_eq]
    exact ⟨State.goto_state .., by simp only [State.goto_keeps]⟩
  · rw [if_pos rfl, if_pos rfl, State.noteAll_eq]
    exact ⟨State.goto_state .., by simp only [State.goto_keeps, State.stopUpdates_keeps]⟩

/-- The state an abandonment ends in, before the tiles are freed: with an image its sync objects and slots are reset. -/
def State.abandonReady (s : State) (im : Image) : State :=
  ({ s with mem := im.writeReports s.mem s.tmr.step.toNat true s.sites, gx := s.gx.giveUp im s.tmr.step.toNat } : State).reapply im
    { s.fab with q := s.fab.qStart }

theorem State.abandonDone_eq (s : State) (im : Image) : s.abandonDone im = (s.abandonReady im).abandonStep.leaveStep s.flt.chipAfter := rfl

theorem State.abandonReady_keeps (s : State) (im : Image) : (s.abandonReady im).ctl = s.ctl ∧ (s.abandonReady im).flt = s.flt ∧
    (s.abandonReady im).tmr = s.tmr ∧ (s.abandonReady im).adm = s.adm ∧ (s.abandonReady im).inp = s.inp ∧ (s.abandonReady im).img = s.img := by
  simp [State.abandonReady, State.reapply]

theorem State.abandonReady_fab (s : State) (im : Image) : (s.abandonReady im).fab.firings = [] ∧ (s.abandonReady im).fab.fenced = [] :=
  im.armAll_keeps _

/-- The state an abandonment ends in without an image. -/
def State.lostReady (s : State) : State := { s with
  fab := { s.fab.cleared with spoon := [], fenced := [] }
  gx := { s.gx with sets := s.gx.sets.filter (fun x : SlotSet => x.stage == .updating || x.stage == .done), sentBuckets := [], silent := [] } }

theorem State.abandonLost_eq (s : State) : s.abandonLost = s.lostReady.abandonStep.leaveStep s.flt.chipAfter := rfl

/-- What an abandoned step leaves of a running device, with u what its slots and objects are reset to. -/
theorem State.abandonStep_leaveStep {s u : State} (hrun : s.ctl.state.running = true) (hold : Bool)
    (hu : u.ctl = s.ctl ∧ u.flt = s.flt ∧ u.tmr = s.tmr ∧ u.adm = s.adm ∧ u.inp = s.inp ∧ u.img = s.img) :
    (u.abandonStep.leaveStep hold).ctl.state = (if hold then .fault else .armed) ∧
    (u.abandonStep.leaveStep hold).flt = { s.flt with
      fences := [], abandoning := false, chipAfter := false, deferred := false, needFlush := true, abandoned := true
      abandonCnt := satAdd s.flt.abandonCnt 1, lastAbandon := s.tmr.step } ∧
    (u.abandonStep.leaveStep hold).tmr.step = s.tmr.step ∧ (u.abandonStep.leaveStep hold).adm = s.adm.clear ∧
    (u.abandonStep.leaveStep hold).fab = { u.fab with hold := hold, readyLog := (u.abandonStep.leaveStep hold).fab.readyLog } ∧
    (u.abandonStep.leaveStep hold).img = s.img ∧
    (u.abandonStep.leaveStep hold).inp = { s.inp with
      live := (u.abandonStep.leaveStep hold).inp.live, nextMb := s.inp.nextMb - s.adm.frames.length } ∧
    ∀ g, g ∈ (u.abandonStep.leaveStep hold).inp.live ↔ g ∈ s.inp.live ∧ ∀ f ∈ s.adm.frames, g / s.inp.mbRows ≠ f.inMb := by
  obtain ⟨hctl, hflt, htmr, hadm, hinp, himg⟩ := hu
  obtain ⟨hst, hfab⟩ := State.leaveStep_running (s := u.abandonStep) (by simpa [hctl] using hrun) hold
  obtain ⟨hi, hlive⟩ := u.abandonStep_inp
  rw [hinp, hadm] at hi hlive
  refine ⟨hst, ?_, ?_, ?_, hfab.trans (by simp), ?_, ?_, ?_⟩
  · simp only [State.leaveStep_keeps]
    unfold State.abandonStep
    rw [hflt, htmr]
  · simp only [State.leaveStep_keeps]
    show u.tmr.step = _
    rw [htmr]
  · simp only [State.leaveStep_keeps]
    show u.adm.clear = _
    rw [hadm]
  · simpa using himg
  · simp only [State.leaveStep_keeps]
    exact hi
  · simp only [State.leaveStep_keeps]
    exact hlive

/-! Injections -/

theorem exec_fltInject_of_image {s : State} {v : W32} (hlive : s.ctl.state.live = true) (him : s.img.isSome = true) : exec (.fltInject v) s = .next { s with
    flt := { s.flt with injTile := BitVec.ofNat 8 (fld v 23 16), injKind := BitVec.ofNat 3 (fld v 2 0) }
    fab := if bit v 31 && 1 ≤ (BitVec.ofNat 3 (fld v 2 0)).toNat && (BitVec.ofNat 3 (fld v 2 0)).toNat ≤ 5 then
      { s.fab with inject := s.fab.inject ++ [((BitVec.ofNat 8 (fld v 23 16)).toNat, (BitVec.ofNat 3 (fld v 2 0)).toNat)] } else s.fab } := by
  refine congrArg Host.Outcome.next ((if_pos hlive).trans ?_)
  exact if_neg (by simpa [Option.isSome_iff_ne_none] using him)

/-- An abandonment completes once no record of it is on its way. -/
theorem exec_abandonComplete_of_ready {s : State} (hab : s.flt.abandoning = true) (hr : s.flt.reports = []) (hw : s.flt.toWrite = []) :
    exec .abandonComplete s = .next (s.img.elim s.abandonLost s.abandonDone) := by
  refine congrArg Host.Outcome.next ((if_neg (by simp [hab, hr, hw])).trans ?_)
  cases s.img <;> rfl

/-- Settles O35: a fence by the firings it stops, an abandonment by `State.abandonStep_leaveStep`. -/
theorem fencesInjectionsAbandonments : Obligations.FencesInjectionsAbandonments := by
  intro s v
  refine ⟨fun n rest hn hf => ?_, fun hlive him => ?_, fun hlive him hgo hk1 hk5 => ?_, fun im him hab hr hw hc hst => ?_, fun hab hr hw hc hst => ?_,
    fun h => ?_⟩
  · have hin := mem_fenceTiles (im := s.img) hn
    refine ⟨_, exec_tileFence_of_fence s n rest hf, ?_⟩
    have heq := State.stopAll_eq (s.fencedState n rest) (s.fencedStems n)
    have hfenced := State.stopAll_fenced (s.fencedState n rest) (s.fencedStems n)
    have hfir := State.mem_stopAll_firings (s.fencedState n rest) (s.fencedStems n)
    have hcls : ∀ im, s.img = some im → ∀ x : Firing, s.clsOf x = (im.descAt x.desc).cls := fun im him x => by simp [State.clsOf, him]
    refine ⟨?_, ?_, fun k hk => ?_, fun im him x hx htile hc => ?_, fun im him x hx htile hc hsent => ?_, fun o m hm => ?_, fun o w k x => ?_, ?_⟩
    · rw [heq]; rfl
    · rw [hfenced]
      refine List.mem_append.mpr ?_
      by_cases hold : n ∈ s.fab.fenced
      · exact .inl hold
      · exact .inr (List.mem_filter.mpr ⟨hin, by simpa using hold⟩)
    · rw [hfenced]
      exact List.mem_append_left _ hk
    · obtain ⟨hx, -⟩ := (hfir x).mp hx
      obtain ⟨y, hy, rfl⟩ := List.mem_map.mp hx
      by_cases hy7 : ((fenceTiles s.img n).contains y.tile && s.clsOf y == 7) = true
      · rw [if_pos hy7]
      · rw [if_neg hy7] at htile hc ⊢
        exact absurd (by rw [htile, hcls im him, hc]; simpa using hin) hy7
    · have hstem : x ∈ s.fencedStems n := by
        refine List.mem_filter.mpr ⟨hx, ?_⟩
        rw [hcls im him, hc, htile, him]
        simp only [Option.getD_some, hsent]
        simpa [him] using hin
      have hstop := State.stopAll_stopped (s.fencedState n rest) (s.fencedStems n) hstem
      rw [htile] at hstop
      refine ⟨hstop, fun y hy hyt hslot => ?_⟩
      exact ((hfir y).mp hy).2 x hstem ⟨hyt.trans htile.symm, hslot⟩
    · rw [heq] at hm
      have hm := (List.mem_filter.mp hm).2
      simp [State.fenceDrops, hin] at hm
    · rw [heq]
      refine (List.mem_filter).trans ⟨And.left, fun h => ⟨h, rfl⟩⟩
    · rw [heq]; rfl
  · refine congrArg Host.Outcome.next ((if_pos hlive).trans (if_pos ?_))
    simp [him]
  · refine ⟨_, exec_fltInject_of_image hlive him, ?_, ?_, ?_⟩
    · have hkind : (BitVec.ofNat 3 (fld v 2 0)).toNat = v.toNat % 8 := by
        show (BitVec.ofNat 3 (v.toNat / 1 % 8)).toNat = _
        rw [BitVec.toNat_ofNat]; omega
      have htile : (BitVec.ofNat 8 (fld v 23 16)).toNat = v.toNat / 65536 % 256 := by
        show (BitVec.ofNat 8 (v.toNat / 65536 % 256)).toNat = _
        rw [BitVec.toNat_ofNat]; omega
      dsimp only
      rw [hkind, htile, if_pos (by simp [bit_eq_getLsbD, hgo, hk1, hk5])]
    · refine BitVec.eq_of_toNat_eq ?_
      show (BitVec.ofNat 8 (v.toNat / 65536 % 256)).toNat = _
      rw [BitVec.toNat_ofNat, BitVec.toNat_ofNat]
      omega
    · refine BitVec.eq_of_toNat_eq ?_
      show (BitVec.ofNat 3 (v.toNat / 1 % 8)).toNat = _
      rw [BitVec.toNat_ofNat, BitVec.toNat_ofNat]
      omega
  · have hrun : s.ctl.state.running = true := by obtain h | h := hst <;> simp [h, Dev.running]
    have hexec := exec_abandonComplete_of_ready hab hr hw
    rw [him, Option.elim_some, State.abandonDone_eq, hc] at hexec
    obtain ⟨h1, h2, h3, h4, h5, h6, h7, h8⟩ := State.abandonStep_leaveStep hrun false (s.abandonReady_keeps im)
    obtain ⟨hfir, hfen⟩ := s.abandonReady_fab im
    refine ⟨_, hexec, h1, ?_⟩
    rw [h2, h3, h4, h5, h6]
    exact ⟨rfl, rfl, rfl, rfl, rfl, rfl, rfl, rfl, rfl, hfir, hfen, rfl, him.symm ▸ rfl, h8, h7⟩
  · have hrun : s.ctl.state.running = true := by obtain h | h := hst <;> simp [h, Dev.running]
    have hexec := exec_abandonComplete_of_ready hab hr hw
    have hend : ∃ u : State, exec .abandonComplete s = .next (u.abandonStep.leaveStep true) ∧
        u.ctl = s.ctl ∧ u.flt = s.flt ∧ u.tmr = s.tmr ∧ u.adm = s.adm ∧ u.inp = s.inp ∧ u.img = s.img := by
      cases him : s.img with
      | none =>
        rw [him, Option.elim_none, State.abandonLost_eq, hc] at hexec
        exact ⟨_, hexec, rfl, rfl, rfl, rfl, rfl, him⟩
      | some im =>
        rw [him, Option.elim_some, State.abandonDone_eq, hc] at hexec
        exact ⟨_, hexec, him ▸ s.abandonReady_keeps im⟩
    obtain ⟨u, hexec, hu⟩ := hend
    obtain ⟨h1, h2, h3, h4, h5, h6, h7, h8⟩ := State.abandonStep_leaveStep hrun true hu
    refine ⟨_, hexec, h1, ?_⟩
    rw [h2, h4, h5, h6]
    exact ⟨rfl, rfl, rfl, h8, rfl⟩
  · refine congrArg Host.Outcome.next (if_pos ?_)
    obtain h | ⟨r, hr, ha⟩ := h
    · simp [h]
    · exact Bool.or_eq_true_iff.mpr (.inr (List.any_eq_true.mpr ⟨r, hr, ha⟩))

end Sys2Proof.Machine
end

section
/-! SUPPORT. EXPORT, SNAPSHOT and IMPORT (R300 to R303, R479, R480, R506, R507). -/

namespace Sys2Proof.Machine

/-! Reads that meet no new error -/

section
variable (s : State) (im : Image)

/-- A memory without marks has no marked place. -/
theorem Mem.poisoned_of_no_marks {m : Mem} (h : m.poison = []) (k : Nat) : m.poisoned k = false := by
  unfold Mem.poisoned; rw [h]; rfl

theorem Mem.any_poisoned_of_no_marks {m : Mem} (h : m.poison = []) (ks : List Nat) : ks.any m.poisoned = false :=
  List.any_eq_false.mpr fun k _ => by simp [Mem.poisoned_of_no_marks h]

/-- The state after a read that met marks, if it did. -/
def State.readMarked (b : Bool) : State := if b then { s with memr := { s.memr with poisonRd := true } } else s

theorem State.engineRead_clean (ks : List Nat) : s.engineRead im ks .clean = s.readMarked (ks.any s.mem.poisoned) := by
  have hread := s.eccRead_clean ks 0 false false im.addrOf (inject := false) (.inr (.inl rfl))
  unfold State.engineRead
  split
  · next h =>
    have hnone : s.mem.poison = [] := by simpa using (Bool.and_eq_true_iff.mp h).1
    rw [Mem.any_poisoned_of_no_marks hnone]
    rfl
  · rw [hread]; rfl

theorem State.mergeRead_clean (cs : List (Nat × Byte)) : s.mergeRead im cs .clean = s.readMarked ((mergedPlaces cs).any s.mem.poisoned) := by
  unfold State.mergeRead
  split
  · next h =>
    have hnone : s.mem.poison = [] := by simpa using (Bool.and_eq_true_iff.mp h).1
    rw [Mem.any_poisoned_of_no_marks hnone]
    rfl
  · exact s.engineRead_clean im _

theorem State.readMarked_eq (b : Bool) : s.readMarked b = { s with memr := { s.memr with poisonRd := (s.readMarked b).memr.poisonRd } } := by
  cases b <;> rfl

/-- The reads of an export that meet no new error. -/
theorem State.exportRead_clean (c : Nat) (bs : List Nat) : s.exportRead im c bs .clean =
    (s.readMarked ((bs.flatMap (im.exportPlaces s.upd c)).any s.mem.poisoned), (bs.flatMap (im.exportPlaces s.upd c)).any s.mem.poisoned) := by
  unfold State.exportRead
  dsimp only
  rw [State.engineRead_clean]
  refine Prod.ext rfl ?_
  have hmem : ∀ b, (s.readMarked b).mem = s.mem := fun b => by cases b <;> rfl
  dsimp only
  rw [hmem]
  cases hp : s.mem.poison with
  | nil => rw [Mem.any_poisoned_of_no_marks hp]; rfl
  | cons x r => rfl

end

theorem State.exportRead_of_unmarked {s : State} {im : Image} {c : Nat} {bs : List Nat} (h : (bs.flatMap (im.exportPlaces s.upd c)).any s.mem.poisoned = false) :
    s.exportRead im c bs .clean = (s, false) := by
  rw [State.exportRead_clean, h]
  rfl

/-! EXPORT -/

section
variable {s : State} {i : Nat} {e : Entry} {im : Image}

/-- An EXPORT of all owned blocks, once its fields are in order. -/
theorem exec_exportCmd_of_due (x : Ecc) (him : s.img = some im) (hdue : s.due i e 0x40) (hl : legalIn 0x40 false s.ctl.state = true)
    (hp : e.p0.toNat < 16) (hall : e.p3 = BitVec.allOnes 64) : exec (.exportCmd i x) s = .next
    (if !s.sec.canSeal then s.finish i .precondition
      else if (s.exportRead im e.p0.toNat (s.ownedBlocks im) x).2 then (s.exportRead im e.p0.toNat (s.ownedBlocks im) x).1.finish i .fault
      else
        let t := (s.exportRead im e.p0.toNat (s.ownedBlocks im) x).1
        let plain := t.exportPlain im e.p0.toNat (s.ownedBlocks im)
        if e.p2.toNat < sealedSize plain.length then t.finish i .tooSmall 0 (BitVec.ofNat 64 (sealedSize plain.length))
        else if t.hif.busErr e.p1.toNat (sealedSize plain.length) then t.finish i .address
        else (t.writeSealed e.p1.toNat false plain).finish i .success 0 (BitVec.ofNat 64 (sealedSize plain.length))) := by
  refine congrArg Host.Outcome.next ((State.command_of_due _ _ hdue hl).trans ?_)
  have hbs : ((s.ownedBlocks im).filter fun g => decide (e.p3 = BitVec.allOnes 64) ||
      (decide (fld64 e.p3 31 0 ≤ (im.block g).ti) && decide ((im.block g).ti < fld64 e.p3 63 32))) = s.ownedBlocks im :=
    List.filter_eq_self.mpr fun g _ => by simp [hall]
  simp only [him, hbs]
  rw [if_neg (by simp [hall]; omega)]

theorem exec_snapshot_of_due (hdue : s.due i e 0x42) (hl : legalIn 0x42 false s.ctl.state = true) : exec (.snapshot i) s = .next { s with
    hif := { s.hif with fetched := s.hif.fetched.eraseIdx i }, gx := { s.gx with snapshots := s.gx.snapshots ++ [some e] } } :=
  congrArg Host.Outcome.next (State.command_of_due _ _ hdue ((sampleLegal_eq _).trans hl))

/-- The one request waiting is captured at the boundary. -/
theorem exec_snapshotCapture_of_one (x : Ecc) (him : s.img = some im) (hs : s.gx.snapshots = [some e]) (hst : s.ctl.state = .armed)
    (hb : s.atBoundary = true) (hr : s.gx.rounded = true) (hn : s.gx.round = none) :
    exec (.snapshotCapture x) s = .next (({ s with gx := { s.gx with snapshots := [] } } : State).capture im (some e) x) := by
  refine congrArg Host.Outcome.next ?_
  simp only [him, hs]
  rw [if_pos (by simp [hb, hr, hn, hst])]
/-- A capture for the host, step by step. -/
theorem State.capture_host (s : State) (im : Image) (e : Entry) (x : Ecc) : s.capture im (some e) x =
    if !s.sec.canSeal then s.complete e .precondition
    else if (s.exportRead im 15 (s.ownedBlocks im) x).2 then (s.exportRead im 15 (s.ownedBlocks im) x).1.complete e .fault
    else
      let t := (s.exportRead im 15 (s.ownedBlocks im) x).1
      let plain := t.exportPlain im 15 (s.ownedBlocks im)
      if t.hif.snapLen.toNat < sealedSize plain.length then t.complete e .tooSmall 0 (BitVec.ofNat 64 (sealedSize plain.length))
      else if t.hif.busErr t.hif.snapAddr.toNat (sealedSize plain.length) then t.complete e .address
      else (t.writeSealed t.hif.snapAddr.toNat true plain).complete e .success 0 (BitVec.ofNat 64 (sealedSize plain.length)) := rfl

/-- A capture that meets nothing in its way writes its file. -/
theorem State.capture_of_ok {s : State} {im : Image} {e : Entry} (hk : s.sec.canSeal = true)
    (hclean : s.exportRead im 15 (s.ownedBlocks im) .clean = (s, false))
    (hn : sealedSize (s.exportPlain im 15 (s.ownedBlocks im)).length ≤ s.hif.snapLen.toNat)
    (hbus : s.hif.busErr s.hif.snapAddr.toNat (sealedSize (s.exportPlain im 15 (s.ownedBlocks im)).length) = false) :
    s.capture im (some e) .clean = (s.writeSealed s.hif.snapAddr.toNat true (s.exportPlain im 15 (s.ownedBlocks im))).complete e .success 0
      (BitVec.ofNat 64 (sealedSize (s.exportPlain im 15 (s.ownedBlocks im)).length)) := by
  rw [State.capture_host, if_neg (by simp [hk]), hclean, if_neg Bool.false_ne_true]
  dsimp only
  rw [if_neg (Nat.not_lt.mpr hn), hbus, if_neg Bool.false_ne_true]

/-! IMPORT -/
/-- The bytes an IMPORT names, and their number. -/
def State.importLen (s : State) (e : Entry) : Nat := min e.p2.toNat (sealedSize (fieldAt (s.hif.readMem e.p1.toNat 40) 32 8))
def State.importFile (s : State) (e : Entry) : List Byte := s.hif.readMem e.p1.toNat (s.importLen e)

/-- What the records of an import do. -/
def State.imported (s : State) (i : Nat) (im : Image) (contents : Nat) (rs : List BlockRec) (x : Ecc) : State :=
  let t := s.mergeRead im (rs.flatMap fun r => im.partPlaces s.upd contents r.block) x
  let mu := rs.foldl (im.importBlock contents) (t.mem, t.upd)
  ({ t with mem := mu.1, upd := mu.2, gx := { t.gx with unseeded := t.gx.unseeded.filter fun g => !rs.any fun r => r.block == g } } : State).finish i .success

section
variable (x : Ecc) (him : s.img = some im) (hdue : s.due i e 0x41) (hl : legalIn 0x41 false s.ctl.state = true)
include him hdue hl

theorem exec_importCmd_of_busErr (hb : s.hif.busErr e.p1.toNat (s.importLen e) = true) : exec (.importCmd i x) s = .next (s.finish i .address) := by
  refine congrArg Host.Outcome.next ((State.command_of_due _ _ hdue hl).trans ?_)
  simp only [him]
  exact if_pos hb

variable (hb : s.hif.busErr e.p1.toNat (s.importLen e) = false)
include hb

theorem exec_importCmd_of_closed (ho : s.openSealed (s.importFile e) = none) : exec (.importCmd i x) s = .next (s.finish i .importReject 6) := by
  refine congrArg Host.Outcome.next ((State.command_of_due _ _ hdue hl).trans ?_)
  have ho : s.openSealed (s.hif.readMem e.p1.toNat (min e.p2.toNat (sealedSize (fieldAt (s.hif.readMem e.p1.toNat 40) 32 8)))) = none := ho
  simp only [him, ho]
  exact if_neg fun h => Bool.false_ne_true (hb.symm.trans h)

variable {plain : List Byte} (ho : s.openSealed (s.importFile e) = some plain)
include ho

/-- An IMPORT whose file opens, by its header and its records. -/
theorem exec_importCmd_of_open : exec (.importCmd i x) s = .next (if fieldAt plain 0 4 ≠ 0x44485346 || fieldAt plain 4 2 ≠ 1 then s.finish i .importReject 6
    else (im.readRecords (fieldAt plain 6 2) (fieldAt plain 20 4) (plain.drop 128) []).elim (fun d => s.finish i .importReject d)
      fun rs => s.imported i im (fieldAt plain 6 2) rs x) := by
  refine congrArg Host.Outcome.next ((State.command_of_due _ _ hdue hl).trans ?_)
  have ho : s.openSealed (s.hif.readMem e.p1.toNat (min e.p2.toNat (sealedSize (fieldAt (s.hif.readMem e.p1.toNat 40) 32 8)))) = some plain := ho
  simp only [him, ho]
  refine (if_neg fun h => Bool.false_ne_true (hb.symm.trans h)).trans ?_
  split
  · rfl
  · cases im.readRecords (fieldAt plain 6 2) (fieldAt plain 20 4) (plain.drop 128) [] <;> rfl

end
end

/-- Settles O32: the file and its refusals by the checks in order, the reads by what a clean read leaves. -/
theorem exportSnapshotImport : Obligations.ExportSnapshotImport := by
  refine ⟨fun s i e im him => ?_, fun s i e im him hdue hl => ?_⟩
  · intro reads
    refine ⟨fun hdue hl hp hall => ?_, fun hdue hl => exec_snapshot_of_due hdue hl, fun hs hst hb hr hn => ?_⟩
    · intro plain n
      have hexec := fun x => exec_exportCmd_of_due x him hdue hl hp hall
      refine ⟨fun hk x => ?_, fun hk hpo => ?_, fun hk hpo => ?_⟩
      · rw [hexec, if_pos (by simp [hk])]
      · rw [hexec, if_neg (by simp [hk]), State.exportRead_clean, show (List.flatMap _ _).any s.mem.poisoned = true from hpo, if_pos rfl]
        rfl
      · have hclean : s.exportRead im e.p0.toNat (s.ownedBlocks im) .clean = (s, false) := State.exportRead_of_unmarked hpo
        have hgo := (hexec .clean).trans (congrArg Host.Outcome.next (if_neg (by simp [hk])))
        rw [hclean, if_neg Bool.false_ne_true] at hgo
        refine ⟨fun hn => hgo.trans (congrArg Host.Outcome.next (if_pos hn)), fun hn hbus => ?_, fun hn hbus => ?_⟩
        · exact hgo.trans (congrArg Host.Outcome.next ((if_neg (Nat.not_lt.mpr hn)).trans (if_pos hbus)))
        · exact hgo.trans (congrArg Host.Outcome.next ((if_neg (Nat.not_lt.mpr hn)).trans (if_neg fun h => Bool.false_ne_true (hbus.symm.trans h))))
    · intro plain n left
      have hexec := fun x => exec_snapshotCapture_of_one x him hs hst hb hr hn
      have hlive : ({ s with gx := left } : State).ctl.state.live = true := by simp [hst]; rfl
      refine ⟨fun hk x => ?_, fun hk hpo hn hbus => ?_⟩
      · rw [hexec, State.capture_host, if_pos (by simp [hk]), State.complete_of_live hlive]
        rfl
      · have hcap := State.capture_of_ok (s := { s with gx := left }) (e := e) hk (State.exportRead_of_unmarked (by exact hpo)) hn hbus
        have hplain : ({ s with gx := left } : State).exportPlain im 15 (({ s with gx := left } : State).ownedBlocks im) = plain := rfl
        have hwrite : ({ s with gx := left } : State).writeSealed s.hif.snapAddr.toNat true plain = { s with
          gx := left, hif := s.hif.writeMem s.hif.snapAddr.toNat (s.sealFile true plain), sec := { s.sec with expCnt := s.sec.expCnt + 1 }
          free := s.free + 5 } := rfl
        rw [hplain] at hcap
        refine (hexec _).trans (congrArg Host.Outcome.next (hcap.trans ?_))
        rw [hwrite, State.complete_of_live (by exact hlive) _ _ _ _ _ _]
        unfold State.hci
        rfl
  · intro n file
    refine ⟨fun hb x => exec_importCmd_of_busErr x him hdue hl hb, fun hb => ⟨fun ho x => exec_importCmd_of_closed x him hdue hl hb ho, fun plain ho => ?_⟩⟩
    have hexec := fun x => exec_importCmd_of_open x him hdue hl hb ho
    refine ⟨fun hbad x => ?_, fun h1 h2 => ⟨fun d hd x => ?_, fun rs hrs => ?_⟩⟩
    · rw [hexec, if_pos (by simpa using hbad)]
    · rw [hexec, if_neg (by simp [h1, h2]), hd]
      rfl
    · have hgo := (hexec .clean).trans (congrArg Host.Outcome.next (if_neg (by simp [h1, h2])))
      rw [hrs] at hgo
      have hmark := s.mergeRead_clean im (rs.flatMap fun r => im.partPlaces s.upd (fieldAt plain 6 2) r.block)
      generalize hb' : (mergedPlaces (rs.flatMap fun r => im.partPlaces s.upd (fieldAt plain 6 2) r.block)).any s.mem.poisoned = b at hmark
      have hstate : s.imported i im (fieldAt plain 6 2) rs .clean = { s with
          mem := (rs.foldl (im.importBlock (fieldAt plain 6 2)) (s.mem, s.upd)).1, upd := (rs.foldl (im.importBlock (fieldAt plain 6 2)) (s.mem, s.upd)).2
          gx := { s.gx with unseeded := s.gx.unseeded.filter fun g => !rs.any fun r => r.block == g }
          memr := { s.memr with poisonRd := (s.readMarked b).memr.poisonRd }
          hif := { s.hif with fetched := s.hif.fetched.eraseIdx i }.complete s.hci e .success } := by
        unfold State.imported
        dsimp only
        rw [hmark, State.readMarked_eq, State.finish_of_fetched (e := e) (by exact hdue.1) (by exact hdue.2.2.2)]
        rfl
      refine ⟨_, hgo.trans (congrArg Host.Outcome.next hstate), rfl, rfl, rfl, rfl, fun hnone => ?_⟩
      rw [Mem.any_poisoned_of_no_marks hnone] at hb'
      subst hb'
      rfl

end Sys2Proof.Machine
end

section
/-! SUPPORT. IMAGE_LOAD (R75 to R83, R487, R500, R511). -/

namespace Sys2Proof.Machine

/-! Signature failures -/

/-- A signature failure comes before authenticity is passed (R77). -/
theorem passedAuth_of_isSig {r : Rej} (h : r.isSig = true) : passedAuth (some r) = false := by
  have hc : r.code = 0x10 ∨ r.code = 0x11 ∨ r.code = 0x12 := by simpa [Rej.isSig, or_assoc] using h
  obtain h | h | h := hc <;> simp [passedAuth, h]

theorem satAdd_of_lt {c : BitVec 4} (h : c.toNat < 8) : satAdd c 1 = c + 1 := if_neg (by omega)

/-- The count of signature failures after this one. -/
theorem satAdd_one_toNat (c : BitVec 4) : (satAdd c 1).toNat = min 15 (c.toNat + 1) := by
  unfold satAdd
  split
  · rw [BitVec.toNat_allOnes]; omega
  · rw [BitVec.toNat_add, BitVec.toNat_ofNat]; omega

/-! What the completions of a load leave of the HIF block -/

/-- The HIF block as completions leave it. -/
def Hif.SameQueue (h g : Hif) : Prop := h.fetched = g.fetched ∧ h.sq = g.sq

theorem State.complete_sameQueue (s : State) (e : Entry) (code : Code) (detail : Nat) (r0 r1 r2 : W64) :
    Hif.SameQueue (s.complete e code detail r0 r1 r2).hif s.hif := by
  unfold State.complete
  split
  · rw [Hif.complete_eq]; exact ⟨rfl, rfl⟩
  · exact ⟨rfl, rfl⟩

theorem Hif.SameQueue.trans {a b c : Hif} (h : a.SameQueue b) (k : b.SameQueue c) : a.SameQueue c := ⟨h.1.trans k.1, h.2.trans k.2⟩

theorem State.samplesDone_sameQueue (s : State) (l : List SampleDone) : Hif.SameQueue (s.samplesDone l).hif s.hif :=
  foldl_keeps (P := fun t : State => Hif.SameQueue t.hif s.hif) (fun t _ ht => Hif.SameQueue.trans (t.complete_sameQueue ..) ht) l ⟨rfl, rfl⟩

theorem State.completeAll_sameQueue (s : State) (l : List Entry) (code : Code) : Hif.SameQueue (s.completeAll l code).hif s.hif :=
  foldl_keeps (P := fun t : State => Hif.SameQueue t.hif s.hif) (fun t _ ht => Hif.SameQueue.trans (t.complete_sameQueue ..) ht) l ⟨rfl, rfl⟩

/-- The state an image is applied to, once its sync objects are reset. -/
def State.resetFor (s : State) (im : Image) : State :=
  ({ s with sync := { s.sync with msgs := [] } } : State).syncReset ((s.sync.objs.map (·.1) ++ im.syncs.map (·.object)).eraseDups) im.syncInit false

theorem State.applyImage_sameQueue (s : State) (im : Image) : Hif.SameQueue (s.applyImage im).hif s.hif :=
  Hif.SameQueue.trans (State.samplesDone_sameQueue ..) (State.completeAll_sameQueue ..)

/-- What an image applied sets. -/
theorem State.applyImage_sets (s : State) (im : Image) : (s.applyImage im).img = some im ∧
    (s.applyImage im).ctl = { s.ctl with loadBusy := false, curPlacement := 0 } ∧ (s.applyImage im).memr = { s.memr with activeStore := !s.memr.activeStore } ∧
    (s.applyImage im).tmr = { s.tmr.disarm with issue := [] } ∧ (s.applyImage im).sites = [] ∧ (s.applyImage im).gx.sets = [] := by
  simp [State.applyImage]

theorem Tmr.disarm_armed (t : Tmr) (j : Nat) : (t.disarm.entries.at j).armed = false := by
  unfold Tmr.disarm
  dsimp only
  exact congrArg TEntry.armed (Sparse.at_mapVals (fun (_ : Nat) (e : TEntry) => { e with armed := false }) (fun _ => rfl) ..)

/-! The command -/

section
variable {s : State} {i : Nat} {e : Entry}

/-- What the load is validated against, and the outcome. -/
def State.judgement (s : State) (e : Entry) : Image × Option Rej := validate (s.loadBytes e) e.p2.toNat s.checkEnv

/-- The state with the image staged; a load that is authentic ends the count of signature failures. -/
def State.staged (s : State) (e : Entry) : State := { s with
  mem := s.stage (s.loadBytes e), ctl := { s.ctl with sigFail := if passedAuth (s.judgement e).2 then 0 else s.ctl.sigFail } }

/-- The end of a load whose data was read. -/
def State.loadEnds (s : State) (i : Nat) (e : Entry) (fault : Nat) (im : Image) : Option Rej → State
  | some r => if 8 < (s.rejected r).ctl.sigFail.toNat && r.isSig then (s.rejected r).alarm .sigfail
      else (s.rejected r).finish i .imageReject r.code (BitVec.ofNat 64 (r.secIdx % 256 * 2 ^ 24 + r.record % 2 ^ 24))
  | none => if 3 ≤ fault && fault ≤ 8 then (s.finish i .fault).loadFault fault
      else ((({ s with
        gx := { s.gx with slotNeed := BitVec.ofNat 26 (s.checkEnv.slotNeed im) }
        hif := { s.hif with fetched := s.hif.fetched.eraseIdx i } } : State).applyImage im).complete e .success).goto .loaded

variable (hdue : s.due i e 0x10) (hst : s.ctl.state = .ready ∨ s.ctl.state = .loaded) (hsw : s.upd.sweep = none) (hp : e.p0 = 0)
include hdue hst hsw hp

theorem exec_imageLoad_of_due (b : Bool) (k : Nat) (x : Ecc) : exec (.imageLoad i b k x) s = .next
    (if keyState s.sec.held ownerKeyLo ≠ .complete then s.finish i .precondition
      else if b || s.hif.busErr e.p1.toNat (s.loadBytes e).length then s.finish i .address
      else (s.staged e).loadEnds i e k (s.judgement e).1 (s.judgement e).2) := by
  have hlegal : (fun d => (d == Dev.ready || d == Dev.loaded) && s.upd.sweep.isNone) s.ctl.state = true := by
    obtain h | h := hst <;> simp [h, hsw]
  refine congrArg Host.Outcome.next ((State.command_of_due _ _ hdue hlegal).trans ?_)
  have h0 : e.p0.toNat = 0 := congrArg BitVec.toNat hp
  rw [if_neg (by omega)]
  refine ite_congr rfl (fun _ => rfl) fun _ => ?_
  have hcond : ((b || decide (e.p0 = 0) && s.hif.busErr e.p1.toNat (s.loadBytes e).length) ||
      decide (e.p0 = 1) && !spanMapped s.memr.ddr e.p1.toNat (max (min 16 e.p2.toNat) (s.loadBytes e).length)) =
      (b || s.hif.busErr e.p1.toNat (s.loadBytes e).length) := by simp [hp]
  rw [hcond]
  refine ite_congr rfl (fun _ => rfl) fun _ => ?_
  have hread : (if e.p0 = 1 then s.eccRead (spanPlaces e.p1.toNat (s.loadBytes e).length) x 0 false false (addrIn (addrSpace e.p1.toNat)) else (s, false)) =
      (s, false) := if_neg (by simp [hp])
  rw [hread]
  unfold State.staged State.judgement
  dsimp only
  rw [if_neg Bool.false_ne_true]
  generalize validate (s.loadBytes e) e.p2.toNat s.checkEnv = v
  obtain ⟨im, o⟩ := v
  cases o with
  | none => rfl
  | some r => cases hauth : passedAuth (some r) <;> rfl

end

/-! The three ends of a load -/

/-- The state an accepted image is applied to: its slot need is noted and its entry gone. -/
def State.accepting (s : State) (i : Nat) (im : Image) : State := { s with
  gx := { s.gx with slotNeed := BitVec.ofNat 26 (s.checkEnv.slotNeed im) }, hif := { s.hif with fetched := s.hif.fetched.eraseIdx i } }

/-- A load's success: the image is applied, the entry completes and the device is LOADED. -/
theorem State.loadEnds_accepted {s : State} (hst : s.ctl.state = .ready ∨ s.ctl.state = .loaded) (i : Nat) (e : Entry) (im : Image) :
    ∃ t h, s.loadEnds i e 0 im none = t ∧ Hif.SameQueue h { s.hif with fetched := s.hif.fetched.eraseIdx i } ∧
      t = { (s.accepting i im).applyImage im with
        ctl := { s.ctl with loadBusy := false, curPlacement := 0, state := .loaded, prev := if s.ctl.state = .loaded then s.ctl.prev else s.ctl.state }
        hif := if s.ctl.state = .loaded then h.complete s.hci e .success
          else (h.complete s.hci e .success).event s.hci 0x01 0 (BitVec.ofNat 64 (4 + 16 * 3)) 0 0 } := by
  obtain ⟨himg, hctl, hsets⟩ := (s.accepting i im).applyImage_sets im
  have hdone : ((s.accepting i im).applyImage im).complete e .success = { (s.accepting i im).applyImage im with
      hif := ((s.accepting i im).applyImage im).hif.complete s.hci e .success } := by
    rw [State.complete_of_live (by rw [hctl]; obtain h | h := hst <;> exact congrArg Dev.live h)]
    have : ((s.accepting i im).applyImage im).hci = s.hci := by unfold State.hci; rw [hctl]; rfl
    rw [this]
  refine ⟨_, ((s.accepting i im).applyImage im).hif, rfl, State.applyImage_sameQueue .., ?_⟩
  show (((s.accepting i im).applyImage im).complete e .success).goto .loaded = _
  rw [hdone]
  obtain h | h := hst
  · rw [State.goto_live (by dsimp only; rw [hctl]; exact h ▸ Dev.noConfusion) rfl, h, if_neg Dev.noConfusion, if_neg Dev.noConfusion]
    dsimp only [State.hci]
    rw [hctl]
    simp only [State.accepting, h]; rfl
  · rw [if_pos h, if_pos h]
    refine (if_pos (by dsimp only; rw [hctl]; exact h)).trans ?_
    have hc : ({ s.ctl with loadBusy := false, curPlacement := 0, state := .loaded } : Ctl) = ((s.accepting i im).applyImage im).ctl := by
      rw [hctl, ← h]; rfl
    exact congrArg (fun c : Ctl => ({ (s.accepting i im).applyImage im with
      ctl := c, hif := ((s.accepting i im).applyImage im).hif.complete s.hci e .success } : State)) hc.symm

/-- The count of signature failures once a rejection is noted. -/
theorem State.rejected_sigFail (s : State) (e : Entry) (r : Rej) (h : (s.judgement e).2 = some r) : ((s.staged e).rejected r).ctl.sigFail =
    if r.isSig then satAdd s.ctl.sigFail 1 else if passedAuth (some r) then 0 else s.ctl.sigFail := by
  unfold State.rejected State.staged
  dsimp only
  rw [h]
  cases hsig : r.isSig
  · rfl
  · rw [if_pos rfl, if_pos rfl, passedAuth_of_isSig hsig]; rfl

/-- An alarm keeps the image. -/
theorem State.alarm_img (s : State) (a : AlarmSrc) : (s.alarm a).img = s.img := by
  unfold State.alarm
  split
  · rfl
  · rfl
  · simp

/-- A fault during application (R83): READY without an image, and one report that names the step. -/
theorem State.loadFault_ends {s : State} (hst : s.ctl.state = .ready ∨ s.ctl.state = .loaded) (k : Nat) :
    (s.loadFault k).ctl.state = .ready ∧ (s.loadFault k).img = none ∧
      ∃ q, (s.loadFault k).flt.reports = Report.enter q s.flt.reports ∧ q.cls = .load ∧ q.sev = .contained ∧ q.detail = k := by
  refine ⟨State.goto_state .., ?_, ?_⟩
  · simp [State.loadFault]
  · unfold State.loadFault
    simp only [State.goto_keeps]
    rw [State.report_of_awake _ (by simp only [State.samplesDone_keeps]; obtain h | h := hst <;> rw [h] <;> rfl)]
    simp only [State.samplesDone_keeps]
    exact ⟨_, rfl, rfl, rfl, rfl⟩

/-- Settles O33: the load's checks in their order, then its three ends. -/
theorem imageLoadOutcomes : Obligations.ImageLoadOutcomes := by
  intro s i e hdue hst hsw hp
  have hexec := exec_imageLoad_of_due hdue hst hsw hp
  have hlive : s.ctl.state.live = true := hdue.2.2.2
  refine ⟨fun hk b k x => ?_, fun hk => ⟨fun k x => ?_, fun hr k x => ?_⟩, fun hk hr x => ⟨_, hexec .., ?_⟩, fun k x hk3 hk8 hk hr hv => ⟨_, hexec .., ?_⟩⟩
  · rw [hexec, if_pos hk]
  · rw [hexec, if_neg (not_not_intro hk), Bool.true_or, if_pos rfl]
  · rw [hexec, if_neg (not_not_intro hk), Bool.false_or, if_pos (Bool.eq_true_of_not_eq_false hr)]
  · rw [if_neg (not_not_intro hk), Bool.false_or, if_neg (fun h => Bool.false_ne_true (hr.symm.trans h))]
    refine ⟨fun hv => ?_, fun r hv hsig => ?_, fun r hv hsig h8 => ?_⟩
    · obtain ⟨t, h, ht, ⟨hfetched, hsq⟩, heq⟩ := State.loadEnds_accepted (s := s.staged e) hst i e (s.judgement e).1
      have hv' : (s.judgement e).2 = none := hv
      rw [hv', ht, heq]
      obtain ⟨himg, -, hmemr, htmr, hsites, hsets⟩ := ((s.staged e).accepting i (s.judgement e).1).applyImage_sets (s.judgement e).1
      obtain ⟨-, -, -, -, hlnk, hsec, hpwr, -, -⟩ := ((s.staged e).accepting i (s.judgement e).1).applyImage_keeps (s.judgement e).1
      refine ⟨rfl, himg, congrArg MemRegs.activeStore hmemr, rfl, rfl, rfl, ?_, fun j => ?_, ?_, hsites, hsets, hsec, hpwr, hlnk, h, hfetched, hsq, rfl⟩
      · exact if_pos (by rw [hv']; rfl)
      · exact (congrArg (fun t : Tmr => (t.entries.at j).armed) htmr).trans (Tmr.disarm_armed ..)
      · exact congrArg Tmr.issue htmr
    · have hv' : (s.judgement e).2 = some r := hv
      have hcount : ((s.staged e).rejected r).ctl.sigFail =
          if r.isSig then s.ctl.sigFail + 1 else if passedAuth (some r) then 0 else s.ctl.sigFail := by
        rw [State.rejected_sigFail s e r hv']
        exact ite_congr rfl (fun h => satAdd_of_lt (hsig h)) fun _ => rfl
      have hfew : ¬ (8 < ((s.staged e).rejected r).ctl.sigFail.toNat && r.isSig) = true := by
        rw [Bool.and_eq_true, decide_eq_true_eq, hcount]
        rintro ⟨h8, h⟩
        have := hsig h
        rw [if_pos h, BitVec.toNat_add] at h8
        exact absurd h8 (by rw [show (1 : BitVec 4).toNat = 1 from rfl]; omega)
      have hends : (s.staged e).loadEnds i e 0 (s.judgement e).1 (some r) = ((s.staged e).rejected r).finish i .imageReject r.code
          (BitVec.ofNat 64 (r.secIdx % 256 * 2 ^ 24 + r.record % 2 ^ 24)) := if_neg hfew
      have hdone := State.finish_of_fetched (s := (s.staged e).rejected r) hdue.1 hlive .imageReject r.code
        (BitVec.ofNat 64 (r.secIdx % 256 * 2 ^ 24 + r.record % 2 ^ 24))
      rw [hv', hends, hdone]
      exact ⟨rfl, rfl, rfl, rfl, rfl, rfl, hcount, rfl, rfl, rfl, rfl, rfl, rfl⟩
    · have hv' : (s.judgement e).2 = some r := hv
      have hmany : (8 < ((s.staged e).rejected r).ctl.sigFail.toNat && r.isSig) = true := by
        rw [Bool.and_eq_true, decide_eq_true_eq, State.rejected_sigFail s e r hv', if_pos hsig, satAdd_one_toNat]
        exact ⟨by omega, hsig⟩
      have hends : (s.staged e).loadEnds i e 0 (s.judgement e).1 (some r) = ((s.staged e).rejected r).alarm .sigfail := if_pos hmany
      have hon : s.ctl.state ≠ .off := (Dev.ne_of_live hlive).1
      rw [hv', hends]
      exact ⟨(State.alarm_state ..).trans (if_neg hon), (State.alarm_noted (s := (s.staged e).rejected r) .sigfail hon).1, State.alarm_img ..⟩
  · rw [if_neg (not_not_intro hk), Bool.false_or, if_neg (fun h => Bool.false_ne_true (hr.symm.trans h))]
    have hv' : (s.judgement e).2 = none := hv
    have hif : 3 ≤ k && k ≤ 8 := by simp [hk3, hk8]
    have hends : (s.staged e).loadEnds i e k (s.judgement e).1 none = ((s.staged e).finish i .fault).loadFault k := if_pos hif
    rw [hv', hends]
    have := State.loadFault_ends (s := (s.staged e).finish i .fault) (by simp only [State.finish_keeps]; exact hst) k
    simp only [State.finish_keeps] at this
    exact this

end Sys2Proof.Machine
end

section
/-! SUPPORT. Messages at the door of the exchange (R339, R346). -/

namespace Sys2Proof.Machine

section
variable {s : State} {i ty : Nat} {m : XMsg} (hm : s.gx.mail i ty = some m)
include hm

/-- A message in front of a handler: without an image, and from another device in a group of one, it is bad. -/
theorem State.onMail_of_no_image (himg : s.img = none) (f : Image → XMsg → State) : s.onMail i ty f = (s.drop i).bad := by
  unfold State.onMail
  rw [hm, himg]

theorem State.onMail_of_image {im : Image} (himg : s.img = some im) (f : Image → XMsg → State) :
    s.onMail i ty f = if m.remote && s.gx.solo then (s.drop i).bad else f im m := by
  unfold State.onMail
  rw [hm, himg]

theorem State.onMail_solo {im : Image} (himg : s.img = some im) (hr : m.remote = true) (hsolo : s.gx.solo = true) (f : Image → XMsg → State) :
    s.onMail i ty f = (s.drop i).bad := by
  rw [State.onMail_of_image hm himg, hr, hsolo]
  exact if_pos rfl

/-- A message the group takes goes to its handler. -/
theorem State.onMail_taken {im : Image} (himg : s.img = some im) (h : m.remote = true → s.gx.solo = false) (f : Image → XMsg → State) :
    s.onMail i ty f = f im m := by
  rw [State.onMail_of_image hm himg]
  refine if_neg ?_
  rw [Bool.and_eq_true]
  rintro ⟨hr, hsolo⟩
  exact Bool.false_ne_true ((h hr).symm.trans hsolo)

/-- A handler that finds the message bad. -/
theorem State.onMail_bad {im : Image} (himg : s.img = some im) {f : Image → XMsg → State} (hf : f im m = (s.drop i).bad) :
    s.onMail i ty f = (s.drop i).bad := by
  rw [State.onMail_of_image hm himg, hf, ite_self]

end

/-- A refetch takes no message whose tag is not in order. -/
theorem State.fetching_of_bad {s : State} {im : Image} {m : XMsg} (h : s.gx.tagOk im s.tmr.step.toNat m = false) : s.fetching im m = none := by
  unfold State.fetching
  split
  · split
    · rw [h]; rfl
    · rfl
  · rfl

/-- The commands that take a message which names a shard, with the type each takes. -/
def shardMail (i : Nat) (x : Ecc) : List (Instr × Nat) :=
  [(.contrib i x, xContrib), (.podSum i x, xPodSum), (.normPart i, xNormPart), (.returnMsg i x, xReturn), (.returnEnd i, xReturnEnd),
    (.fetch i x, xFetch), (.fetchData i, xFetchData), (.fetchEnd i x, xFetchEnd)]

/-- The others. -/
def otherMail (i : Nat) (x : Ecc) : List (Instr × Nat) := [(.norm i, xNorm), (.stateXfer i x, xState), (.xferEnd i, xXferEnd)]

/-- Each of them hands the message it names to a handler; one of a shard hands a message with a bad tag to the count. -/
theorem exec_of_mail (s : State) (i : Nat) (x : Ecc) :
    (∀ c ∈ shardMail i x, ∃ f : Image → XMsg → State, exec c.1 s = .next (s.onMail i c.2 f) ∧
      ∀ im m, s.gx.tagOk im s.tmr.step.toNat m = false → f im m = (s.drop i).bad) ∧
    (∀ c ∈ otherMail i x, ∃ f : Image → XMsg → State, exec c.1 s = .next (s.onMail i c.2 f)) := by
  have hdrop : ∀ im m, (s.drop i).gx.tagOk im (s.drop i).tmr.step.toNat m = s.gx.tagOk im s.tmr.step.toNat m := fun _ _ => rfl
  simp only [shardMail, otherMail, List.forall_mem_cons, List.not_mem_nil, false_implies, implies_true, and_true]
  refine ⟨⟨⟨_, rfl, fun im m h => ?contrib⟩, ⟨_, rfl, fun im m h => ?podSum⟩, ⟨_, rfl, fun im m h => ?normPart⟩, ⟨_, rfl, fun im m h => ?ret⟩,
    ⟨_, rfl, fun im m h => ?retEnd⟩, ⟨_, rfl, fun im m h => ?fetch⟩, ⟨_, rfl, fun im m h => ?fetchData⟩, ⟨_, rfl, fun im m h => ?fetchEnd⟩⟩,
    ⟨_, rfl⟩, ⟨_, rfl⟩, ⟨_, rfl⟩⟩
  case contrib | podSum =>
    dsimp only
    split
    · rfl
    · rw [hdrop, h]; rfl
  case normPart => dsimp only; rw [h]; rfl
  case ret | retEnd | fetch => dsimp only; rw [hdrop, h]; rfl
  case fetchData | fetchEnd =>
    dsimp only
    rw [State.fetching_of_bad (s := s.drop i) h]

/-- Settles O50: no image, a group of one, or a tag that fails leave the message only counted. -/
theorem badTagDiscards : Obligations.BadTagDiscards := by
  intro s i m x
  obtain ⟨hshard, hother⟩ := exec_of_mail s i x
  have hall : ∀ c ∈ shardMail i x ++ otherMail i x, ∃ f : Image → XMsg → State, exec c.1 s = .next (s.onMail i c.2 f) := by
    intro c hc
    obtain hc | hc := List.mem_append.mp hc
    · obtain ⟨f, hf, -⟩ := hshard c hc
      exact ⟨f, hf⟩
    · exact hother c hc
  refine ⟨fun himg c hc hm => ?_, fun im himg => ⟨fun hr hsolo c hc hm => ?_, fun htag c hc hm => ?_⟩⟩
  · obtain ⟨f, hf⟩ := hall c hc
    rw [hf, State.onMail_of_no_image hm himg]; rfl
  · obtain ⟨f, hf⟩ := hall c hc
    rw [hf, State.onMail_solo hm himg hr hsolo]; rfl
  · obtain ⟨f, hf, hbad⟩ := hshard c hc
    rw [hf, State.onMail_bad hm himg (hbad im m htag)]; rfl

end Sys2Proof.Machine
end

section
/-! SUPPORT. The Timer's entries and the actions they issue (R376 to R381). -/

namespace Sys2Proof.Machine

/-! The front of the issue queue -/

section
variable {s : State} {d : Due} {rest : List Due} (haw : s.ctl.state.awake = true) (hq : s.tmr.issue = d :: rest)
include haw hq

/-- The state once the front of the issue queue is taken. -/
theorem State.issue_of_front {action : Nat} (hact : d.action = action) (ok : Bool) (f : Due → State → State) : s.issue action ok f =
    .next (if ok then f d { s with tmr := { s.tmr with issue := rest } }
      else { s with tmr := { s.tmr with issue := rest, dropCnt := satAdd s.tmr.dropCnt 1 } }) := by
  unfold State.issue
  rw [hq]
  refine congrArg Host.Outcome.next (if_neg ?_)
  simp [haw, hact]

theorem State.issue_acts {action : Nat} (hact : d.action = action) {ok : Bool} (hok : ok = true) (f : Due → State → State) :
    s.issue action ok f = .next (f d { s with tmr := { s.tmr with issue := rest } }) := by
  rw [State.issue_of_front haw hq hact, if_pos hok]

theorem State.issue_drops {action : Nat} (hact : d.action = action) {ok : Bool} (hok : ¬ ok = true) (f : Due → State → State) :
    s.issue action ok f = .next { s with tmr := { s.tmr with issue := rest, dropCnt := satAdd s.tmr.dropCnt 1 } } := by
  rw [State.issue_of_front haw hq hact, if_neg hok]

end

theorem Dev.running_iff {d : Dev} : d.running = true ↔ d = .stepping ∨ d = .draining := by simp [Dev.running]

/-- Settles O41: each action acts where R380 lets it, and is dropped and counted elsewhere. -/
theorem timerActionsIssue : Obligations.TimerActionsIssue := by
  intro s d rest bad haw hq
  have hsteps : (s.ctl.state = .stepping ∨ s.ctl.state = .draining) ↔ s.ctl.state.running = true := Dev.running_iff.symm
  dsimp only
  rw [hsteps]
  refine ⟨fun ha him harg => ?_, fun ha him harg => ?_, fun ha him => ?_, fun ha him => ?_, fun ha him => ?_, fun ha hst => ?_, fun ha hst => ?_,
    fun ha hst => ?_, fun ha hst => ?_, fun ha him => ?_, fun ha him => ?_, fun ha him => ?_, fun ha him => ?_, fun ha him => ?_, fun ha him => ?_,
    fun ha hst => ?_, fun ha hst => ?_⟩
  · show execTimerSignal bad s = _
    exact (State.issue_acts haw hq ha him _).trans (congrArg Host.Outcome.next (if_neg harg))
  · show execTimerSignal bad s = _
    exact (State.issue_acts haw hq ha him _).trans (congrArg Host.Outcome.next (if_pos harg))
  · show execTimerSignal bad s = _
    exact State.issue_drops haw hq ha him _
  · show execTimerSet bad s = _
    exact State.issue_acts haw hq ha him _
  · show execTimerSet bad s = _
    exact State.issue_drops haw hq ha him _
  · show execBucketDeadline s = _
    exact State.issue_acts haw hq ha hst _
  · show execBucketDeadline s = _
    exact State.issue_drops haw hq ha hst _
  · show execStragglerCutoff s = _
    exact State.issue_acts haw hq ha hst _
  · show execStragglerCutoff s = _
    exact State.issue_drops haw hq ha hst _
  · show execDigestCompare s = _
    exact State.issue_acts haw hq ha him _
  · show execDigestCompare s = _
    exact State.issue_drops haw hq ha him _
  · show execTimerSnapshot s = _
    exact State.issue_acts haw hq ha him _
  · show execTimerSnapshot s = _
    exact State.issue_drops haw hq ha him _
  · show execPlacementSwitch s = _
    exact State.issue_acts haw hq ha him _
  · show execPlacementSwitch s = _
    exact State.issue_drops haw hq ha him _
  · show execPowerPolicy s = _
    exact State.issue_acts haw hq ha (bne_iff_ne.mpr hst) _
  · show execPowerPolicy s = _
    exact State.issue_drops haw hq ha (by simp [hst]) _

/-! Due entries -/

theorem State.setTmr_eq (s : State) (t : Tmr) : s.setTmr t = { s with tmr := t, hif := (s.setTmr t).hif } := by
  conv_lhs => rw [State.setTmr_frame, State.setTmr_tmr]

theorem length_insertDue (d : Due) (l : List Due) : (insertDue d l).length = l.length + 1 := by
  induction l with
  | nil => rfl
  | cons x r ih =>
    unfold insertDue
    split
    · rfl
    · rw [List.length_cons, ih]; rfl

theorem mem_insertDue (d : Due) (l : List Due) : d ∈ insertDue d l := by
  induction l with
  | nil => exact List.mem_singleton_self d
  | cons x r ih =>
    unfold insertDue
    split
    · exact List.mem_cons_self
    · exact List.mem_cons_of_mem x ih

/-- An entry that is due is armed and has a due time. -/
theorem Tmr.isDue_iff {t : Tmr} {e : TEntry} (h : t.isDue e = true) : e.armed = true ∧ ∃ d, t.dueTime e = some d := by
  unfold Tmr.isDue at h
  cases hd : t.dueTime e with
  | none => simp [hd] at h
  | some d =>
    simp only [Bool.and_eq_true] at h
    exact ⟨h.1.1.1, d, rfl⟩

/-- An entry as it is queued. -/
def TEntry.due (e : TEntry) (time entry : Nat) : Due :=
  { time := time, entry := entry, action := e.action.toNat, object := e.object.toNat, arg := e.arg.toNat }

/-- A due entry that fires: it is queued, marked and counted. -/
theorem Tmr.fire_of_due {t : Tmr} {i d : Nat} (h : t.dueTime (t.entries.at i) = some d) :
    ((t.fire i).entries.at i).fired = true ∧ (t.fire i).fireCnt = satAdd t.fireCnt 1 ∧
      (t.fire i).issue = insertDue ((t.entries.at i).due d i) t.issue := by
  unfold Tmr.fire
  simp only [h, Sparse.at_put_self]
  exact ⟨trivial, trivial, rfl⟩

/-- An entry without a period is disarmed when it fires (R377). -/
theorem Tmr.fire_disarms {t : Tmr} {i : Nat} (hk : (t.entries.at i).kind = 0) (hp : (t.entries.at i).period = 0) :
    ((t.fire i).entries.at i).armed = false := by
  have hd : t.dueTime (t.entries.at i) = some (t.entries.at i).time.toNat := if_pos hk
  unfold Tmr.fire
  simp only [hd, Sparse.at_put_self, hk, hp]
  rfl

/-! Writes of TMR_ENT_CTRL -/

/-- The entry with the marks that the word's bits 30 and 29 clear. -/
def TEntry.cleared (e : TEntry) (v : W32) : TEntry := { e with missed := w1c e.missed v 30, fired := w1c e.fired v 29 }

theorem TEntry.cleared_eq (e : TEntry) (v : W32) :
    e.cleared v = { e with missed := e.missed && !v.getLsbD 30, fired := e.fired && !v.getLsbD 29 } := by
  simp only [TEntry.cleared, w1c, bit_eq_getLsbD]

/-- The entry as a write sets it up while it is disarmed (R381). -/
def TEntry.setUp (e : TEntry) (v : W32) : TEntry := { e.cleared v with
  every := bit v 28, kind := BitVec.ofNat 2 (fld v 25 24), action := BitVec.ofNat 4 (fld v 23 20), object := BitVec.ofNat 14 (fld v 13 0) }

/-- What arming stores besides (R377). -/
def Tmr.armed (t : Tmr) (e : TEntry) : TEntry := { e with
  armed := true, period := floorP e.period
  served := e.every && e.kind = 1 && match t.stepStart with | some b => decide (b + e.time.toNat ≤ t.ns.toNat) | none => false }

section
variable (t : Tmr) (i : Nat) (v : W32)

theorem Tmr.writeEntCtrl_of_armed (h : (t.entries.at i).armed = true) : t.writeEntCtrl i v =
    let u := { t with entries := t.entries.put i ((t.entries.at i).cleared v) }
    if bit v 31 then u
    else
      let w := if u.isDue ((t.entries.at i).cleared v) then u.fire i else u
      { w with entries := w.entries.mod i fun e => { e with armed := false } } := if_pos h

theorem Tmr.writeEntCtrl_of_disarmed (h : (t.entries.at i).armed = false) : t.writeEntCtrl i v =
    let e := (t.entries.at i).setUp v
    if !bit v 31 || 2 ≤ e.kind.toNat || 8 ≤ e.action.toNat then { t with entries := t.entries.put i e }
    else if e.kind = 1 && !e.every && stepEnded e.step t.step then
      { t with entries := t.entries.put i { e with missed := true }, missed := true, missCnt := satAdd t.missCnt 1 }
    else { t with entries := t.entries.put i (t.armed e) } := by
  unfold Tmr.writeEntCtrl
  dsimp only
  rw [if_neg (fun h' => Bool.false_ne_true (h.symm.trans h'))]
  rfl

end

/-- The fields of TMR_ENT_CTRL. -/
theorem entCtrl_fields (e : TEntry) (v : W32) :
    (e.setUp v).kind = BitVec.ofNat 2 (v.toNat / 2 ^ 24 % 4) ∧ (e.setUp v).action = BitVec.ofNat 4 (v.toNat / 2 ^ 20 % 16) ∧
      (e.setUp v).object = BitVec.ofNat 14 v.toNat := by
  refine ⟨rfl, rfl, BitVec.eq_of_toNat_eq ?_⟩
  show (BitVec.ofNat 14 (v.toNat / 2 ^ 0 % 2 ^ 14)).toNat = _
  simp

/-- A write with the firmware running. -/
theorem exec_timerEntryCtrlWrite {s : State} (n : BitVec 11) (v : W32) (h : s.ctl.state.live = true) :
    exec (.timerEntryCtrlWrite n v) s = .next (s.setTmr (s.tmr.writeEntCtrl n.toNat v)) :=
  State.host_of_live (fun s => s.setTmr (s.tmr.writeEntCtrl n.toNat v)) h

/-- TIMER_ENTRY_DUE of an entry that is due. -/
theorem exec_timerEntryDue {s : State} (n : BitVec 11) (bad : Bool) (haw : s.ctl.state.awake = true) (h : s.tmr.isDue (s.tmr.entries.at n.toNat) = true) :
    exec (.timerEntryDue n bad) s =
      .next (if bad then s.report { cls := .control, sev := .chip, detail := 1 } else s.setTmr (s.tmr.fire n.toNat)) :=
  congrArg Host.Outcome.next (if_neg (by simp [haw, h]))

/-- Settles O40: the branches of a write of TMR_ENT_CTRL, and of an entry that is due. -/
theorem timerEntriesArmAndFire : Obligations.TimerEntriesArmAndFire := by
  intro s n v e kind action
  obtain ⟨hkind, hact, hobj⟩ := entCtrl_fields e v
  have hwrite := exec_timerEntryCtrlWrite (s := s) n v
  refine ⟨fun hl ha hb hk h8 => ⟨_, hwrite hl, ?_⟩, fun hl ha hb h8 => ⟨_, hwrite hl, ?_⟩, fun hl ha hb hk h8 he hend => ⟨_, hwrite hl, ?_⟩,
    fun hl ha hb => ⟨_, hwrite hl, ?_⟩, fun hl ha hb hd => ⟨_, hwrite hl, ?_⟩, fun hl hb hd => ⟨_, hwrite hl, ?_⟩,
    fun haw hd hk hp => ⟨_, exec_timerEntryDue n false haw hd, ?_⟩, fun haw hd => ?_⟩
  · replace hkind : (e.setUp v).kind = BitVec.ofNat 2 0 := hkind.trans (congrArg (BitVec.ofNat 2) hk)
    rw [State.setTmr_tmr, Tmr.writeEntCtrl_of_disarmed _ _ _ ha]
    dsimp only
    have hok : ¬ (!bit v 31 || decide (2 ≤ (e.setUp v).kind.toNat) || decide (8 ≤ (e.setUp v).action.toNat)) = true := by
      rw [bit_eq_getLsbD, hb, hkind, hact, BitVec.toNat_ofNat, BitVec.toNat_ofNat]
      simp; omega
    have hstep : ¬ (decide ((e.setUp v).kind = 1) && !(e.setUp v).every && stepEnded (e.setUp v).step s.tmr.step) = true := by rw [hkind]; simp
    rw [if_neg hok, if_neg hstep]
    dsimp only
    rw [Sparse.at_put_self]
    exact ⟨rfl, hact, hobj, fun j hj => Sparse.at_put_ne _ _ hj, rfl, State.setTmr_eq ..⟩
  · rw [State.setTmr_tmr, Tmr.writeEntCtrl_of_disarmed _ _ _ ha]
    have hbad : (!bit v 31 || decide (2 ≤ (e.setUp v).kind.toNat) || decide (8 ≤ (e.setUp v).action.toNat)) = true := by
      rw [hact, BitVec.toNat_ofNat]
      simp; omega
    refine (congrArg (fun t : Tmr => (t.entries.at n.toNat).armed) (if_pos hbad)).trans ?_
    dsimp only
    rw [Sparse.at_put_self]
    exact ha
  · replace hkind : (e.setUp v).kind = BitVec.ofNat 2 1 := hkind.trans (congrArg (BitVec.ofNat 2) hk)
    rw [State.setTmr_tmr, Tmr.writeEntCtrl_of_disarmed _ _ _ ha]
    dsimp only
    have hok : ¬ (!bit v 31 || decide (2 ≤ (e.setUp v).kind.toNat) || decide (8 ≤ (e.setUp v).action.toNat)) = true := by
      rw [bit_eq_getLsbD, hb, hkind, hact, BitVec.toNat_ofNat, BitVec.toNat_ofNat]
      simp; omega
    have hstep : (decide ((e.setUp v).kind = 1) && !(e.setUp v).every && stepEnded (e.setUp v).step s.tmr.step) = true := by
      rw [hkind, show (e.setUp v).every = bit v 28 from rfl, bit_eq_getLsbD, he, show (e.setUp v).step = e.step from rfl, hend]; rfl
    rw [if_neg hok, if_pos hstep]
    dsimp only
    rw [Sparse.at_put_self]
    exact ⟨ha, rfl, rfl, rfl⟩
  · rw [State.setTmr_tmr, Tmr.writeEntCtrl_of_armed _ _ _ ha]
    dsimp only
    rw [bit_eq_getLsbD, hb, if_pos rfl]
    exact ⟨(Sparse.at_put_self ..).trans (TEntry.cleared_eq ..), rfl⟩
  · rw [State.setTmr_tmr, Tmr.writeEntCtrl_of_armed _ _ _ ha]
    have hd' : Tmr.isDue { s.tmr with entries := s.tmr.entries.put n.toNat (e.cleared v) } (e.cleared v) = false := hd
    dsimp only
    rw [bit_eq_getLsbD, hb, hd', if_neg Bool.false_ne_true, if_neg Bool.false_ne_true]
    refine ⟨?_, rfl, rfl⟩
    dsimp only
    rw [Sparse.at_mod_self, Sparse.at_put_self, TEntry.cleared_eq]
  · obtain ⟨ha, d, hdue⟩ := Tmr.isDue_iff hd
    rw [State.setTmr_tmr, Tmr.writeEntCtrl_of_armed _ _ _ ha]
    have hd' : Tmr.isDue { s.tmr with entries := s.tmr.entries.put n.toNat (e.cleared v) } (e.cleared v) = true := hd
    have hdue' : Tmr.dueTime { s.tmr with entries := s.tmr.entries.put n.toNat (e.cleared v) } ((s.tmr.entries.put n.toNat (e.cleared v)).at n.toNat) = some d := by
      rw [Sparse.at_put_self]; exact hdue
    obtain ⟨hfired, hcnt, hissue⟩ := Tmr.fire_of_due (t := { s.tmr with entries := s.tmr.entries.put n.toNat (e.cleared v) }) hdue'
    dsimp only
    rw [bit_eq_getLsbD, hb, hd', if_neg Bool.false_ne_true, if_pos rfl]
    dsimp only
    rw [Sparse.at_mod_self, hissue, length_insertDue]
    exact ⟨rfl, hfired, hcnt, rfl⟩
  · have hdue : s.tmr.dueTime e = some e.time.toNat := if_pos hk
    obtain ⟨hfired, hcnt, hissue⟩ := Tmr.fire_of_due (t := s.tmr) hdue
    rw [if_neg Bool.false_ne_true, State.setTmr_tmr, hissue, length_insertDue]
    exact ⟨Tmr.fire_disarms hk hp, hfired, hcnt, rfl, mem_insertDue .., State.setTmr_eq ..⟩
  · have hexec := exec_timerEntryDue n true haw hd
    rw [if_pos rfl, State.report_of_awake _ haw] at hexec
    exact ⟨_, _, hexec, rfl, rfl, rfl, rfl, rfl⟩

end Sys2Proof.Machine
end

section
/-! SUPPORT. The servo and its sources (R365 to R374). -/

namespace Sys2Proof.Machine

/-! The servo's own moves -/

/-- What no move of the servo touches. -/
def Tmr.SameCount (t u : Tmr) : Prop :=
  t.ns = u.ns ∧ t.step = u.step ∧ t.pulseExpected = u.pulseExpected ∧ t.pulseTaken = u.pulseTaken ∧ t.timeValid = u.timeValid ∧ t.refLoss = u.refLoss

theorem Tmr.endHold_sameCount (t : Tmr) : t.endHold.SameCount t := by
  unfold Tmr.endHold
  split <;> exact ⟨rfl, rfl, rfl, rfl, rfl, rfl⟩

/-- ACQUIRING is entered with the count, the offset and the rate as they stand. -/
theorem Tmr.toAcquiring_spec (t : Tmr) : t.toAcquiring.SameCount t ∧ t.toAcquiring.servo = .acquiring ∧ t.toAcquiring.offset = t.offset ∧ t.toAcquiring.rate = t.rate := by
  unfold Tmr.toAcquiring Tmr.endHold
  split
  · next h => exact ⟨⟨rfl, rfl, rfl, rfl, rfl, rfl⟩, h, rfl, rfl⟩
  · split <;> exact ⟨⟨rfl, rfl, rfl, rfl, rfl, rfl⟩, rfl, rfl, rfl⟩

/-- The source and port of a measurement. -/
def Tmr.measuredFrom (t : Tmr) : Nat × Nat := (t.source, if t.source = 2 then t.port.toNat else 0)

/-- ACQUIRING entered by the first measurement from a source (R372). -/
def Tmr.renewed (t : Tmr) : Tmr :=
  if t.servo == .free || t.servo == .holdover || t.measFrom != some t.measuredFrom then { t.toAcquiring with inBand := 0 } else t

theorem Tmr.acquire_eq (t : Tmr) : t.acquire = { t.renewed with measFrom := some t.measuredFrom } := rfl

/-- A measurement's arrival leaves FREE and HOLDOVER (R372). -/
theorem Tmr.acquire_spec (t : Tmr) : t.acquire.SameCount t ∧ t.acquire.servo ≠ .free ∧ t.acquire.servo ≠ .holdover := by
  rw [Tmr.acquire_eq]
  show t.renewed.SameCount t ∧ t.renewed.servo ≠ .free ∧ t.renewed.servo ≠ .holdover
  unfold Tmr.renewed
  split
  · obtain ⟨hkeeps, hservo, -⟩ := t.toAcquiring_spec
    exact ⟨hkeeps, fun h => Servo.noConfusion (hservo.symm.trans h), fun h => Servo.noConfusion (hservo.symm.trans h)⟩
  · next h =>
    refine ⟨⟨rfl, rfl, rfl, rfl, rfl, rfl⟩, fun hf => h ?_, fun hf => h ?_⟩ <;> simp [hf]

/-- A rate within the clamp of R366. -/
theorem clamp_bounds (x : Int) : -rateClamp ≤ max (-rateClamp) (min rateClamp x) ∧ max (-rateClamp) (min rateClamp x) ≤ rateClamp := by
  have : rateClamp = 219902325 := rfl
  omega

/-- What the servo makes of a rate it has adjusted: LOCKED after 16 measurements in the band, ACQUIRING again past 20 ns (R371). -/
def Tmr.settled (t : Tmr) (o : Int) : Tmr :=
  if t.inBand = 16 then { t with servo := .locked } else if t.servo = .locked && 1280 ≤ o.natAbs then t.toAcquiring else t

theorem Tmr.settled_spec (t : Tmr) (o : Int) (h : t.servo ≠ .free ∧ t.servo ≠ .holdover) :
    (t.settled o).SameCount t ∧ (t.settled o).offset = t.offset ∧ ((t.settled o).servo ≠ .free ∧ (t.settled o).servo ≠ .holdover) ∧
      (t.settled o).rate = t.rate := by
  unfold Tmr.settled
  split
  · exact ⟨⟨rfl, rfl, rfl, rfl, rfl, rfl⟩, rfl, ⟨Servo.noConfusion, Servo.noConfusion⟩, rfl⟩
  · split
    · obtain ⟨hkeeps, hservo, hoff, hrate⟩ := t.toAcquiring_spec
      exact ⟨hkeeps, hoff, ⟨fun h => Servo.noConfusion (hservo.symm.trans h), fun h => Servo.noConfusion (hservo.symm.trans h)⟩, hrate⟩
    · exact ⟨⟨rfl, rfl, rfl, rfl, rfl, rfl⟩, rfl, h, rfl⟩

theorem Tmr.SameCount.trans {t u v : Tmr} (h : t.SameCount u) (k : u.SameCount v) : t.SameCount v := by
  obtain ⟨h1, h2, h3, h4, h5, h6⟩ := h
  obtain ⟨k1, k2, k3, k4, k5, k6⟩ := k
  exact ⟨h1.trans k1, h2.trans k2, h3.trans k3, h4.trans k4, h5.trans k5, h6.trans k6⟩

/-- A measurement of an offset of at most 1 ms (R371): the count stands, the offset is shown, the servo follows within the clamp. -/
theorem Tmr.measure_spec (t : Tmr) (jumpOk : Bool) (nominal : Nat) {o : Int} (free : W64) (h : o.natAbs ≤ 64000000) :
    (t.measure jumpOk nominal o free).SameCount t ∧ (t.measure jumpOk nominal o free).offset = BitVec.ofInt 32 o ∧
      ((t.measure jumpOk nominal o free).servo ≠ .free ∧ (t.measure jumpOk nominal o free).servo ≠ .holdover) ∧
      -rateClamp ≤ (t.measure jumpOk nominal o free).rate ∧ (t.measure jumpOk nominal o free).rate ≤ rateClamp := by
  obtain ⟨hkeeps, hfree, hhold⟩ := t.acquire_spec
  have hbig : decide (64000000 < o.natAbs) = false := decide_eq_false (by omega)
  have hoff : -(2 ^ 31) ≤ o ∧ o < 2 ^ 31 := by omega
  have hmeasure : ∃ u : Tmr, t.measure jumpOk nominal o free = u.settled o ∧ u.SameCount t.acquire ∧ u.offset = BitVec.ofInt 32 o ∧
      u.servo = t.acquire.servo ∧ -rateClamp ≤ u.rate ∧ u.rate ≤ rateClamp := by
    unfold Tmr.measure
    simp only [hbig, Bool.false_and, Bool.false_eq_true, if_false, if_pos hoff]
    exact ⟨{ t.acquire with offset := _, integ := _, rate := _, inBand := _, lastMeas := _, rates := _ }, rfl, ⟨rfl, rfl, rfl, rfl, rfl, rfl⟩, rfl, rfl,
      clamp_bounds _⟩
  obtain ⟨u, hu, husame, huoff, huservo, hrate⟩ := hmeasure
  obtain ⟨hsame, hsoff, hsservo, hsrate⟩ := u.settled_spec o (by rw [huservo]; exact ⟨hfree, hhold⟩)
  rw [hu, hsrate]
  exact ⟨(hsame.trans husame).trans hkeeps, hsoff.trans huoff, hsservo, hrate⟩


/-! Sources -/

/-- The source is lost (R373): only the servo, its rate and the holdover's beginning change. -/
theorem Tmr.holdover_spec (t : Tmr) (up : Bool) : (t.holdover up).SameCount t ∧
    ((t.servo = .acquiring ∨ t.servo = .locked) → (t.holdover up).servo = .holdover ∧ (t.holdover up).holdoverEntered = true) ∧
    ((t.servo = .free ∨ t.servo = .holdover) → (t.holdover up).servo = t.servo) := by
  unfold Tmr.holdover
  split
  · next h =>
    refine ⟨⟨rfl, rfl, rfl, rfl, rfl, rfl⟩, fun _ => ⟨rfl, rfl⟩, fun h' => ?_⟩
    obtain h' | h' := h' <;> simp [h'] at h
  · next h =>
    refine ⟨⟨rfl, rfl, rfl, rfl, rfl, rfl⟩, fun h' => absurd ?_ h, fun _ => rfl⟩
    obtain h' | h' := h' <;> simp [h']

/-- A source written 0 or 3 is none (R368). -/
theorem Tmr.writeCtrl_frees (t : Tmr) (held : Bool) {v : W32} (h4 : v.getLsbD 4 = false) (h : v.toNat % 4 = 0 ∨ v.toNat % 4 = 3) :
    (t.writeCtrl held v).servo = .free ∧ (t.writeCtrl held v).ns = t.ns ∧ (t.writeCtrl held v).step = t.step := by
  have hsrc : fld v 1 0 = v.toNat % 4 := by simp [fld]
  have hnone : ∀ u : Tmr, u.src = BitVec.ofNat 2 (fld v 1 0) → u.source = 0 := by
    intro u hu
    unfold Tmr.source
    rw [hu, hsrc]
    obtain h | h := h <;> rw [h] <;> rfl
  unfold Tmr.writeCtrl
  rw [bit_eq_getLsbD, h4, if_neg Bool.false_ne_true]
  dsimp only
  rw [if_pos (hnone _ rfl)]
  obtain ⟨hns, hstep, -⟩ := Tmr.endHold_sameCount { t with port := BitVec.ofNat 4 (fld v 11 8), src := BitVec.ofNat 2 (fld v 1 0) }
  exact ⟨rfl, hns, hstep⟩

section
variable {s : State} (hlive : s.ctl.state.live = true)
include hlive

theorem State.ofSource_of_live {src : Nat} (h : s.tmr.source = src) (f : State → State) : s.ofSource src f = .next (f s) := by
  obtain ⟨-, hreset, -⟩ := Dev.ne_of_live hlive
  exact congrArg Host.Outcome.next (if_pos (by simp [Dev.awake_of_live hlive, h, hreset]))

end

/-- A change of the TMR block with a free word drawn. -/
theorem State.setTmr_drawn_eq (s : State) (t : Tmr) : (s.setTmr t).drawn = { s with tmr := t, hif := (s.setTmr t).hif, free := s.free + 1 } := by
  conv_lhs => rw [State.setTmr_eq]
  rfl

theorem State.loseSource_eq (s : State) : s.loseSource = { s with
    tmr := s.tmr.holdover (odd s.freeW), hif := (s.setTmr (s.tmr.holdover (odd s.freeW))).hif, free := s.free + 1 } := State.setTmr_drawn_eq ..

/-- What the loss of a source says: `ref` whether it is the reference's. -/
def State.Lost (s : State) (ref : Bool) (t : State) : Prop := t.tmr.ns = s.tmr.ns ∧ t.tmr.step = s.tmr.step ∧
  t.tmr.refLoss = (s.tmr.refLoss || ref) ∧
  ((s.tmr.servo = .acquiring ∨ s.tmr.servo = .locked) → t.tmr.servo = .holdover ∧ t.tmr.holdoverEntered = true) ∧
  ((s.tmr.servo = .free ∨ s.tmr.servo = .holdover) → t.tmr.servo = s.tmr.servo) ∧ t = { s with tmr := t.tmr, hif := t.hif, free := t.free }

theorem State.lost_of_noted (s : State) (h : Hif) (ref : Bool) :
    s.Lost ref ({ s with tmr := { s.tmr with refLoss := s.tmr.refLoss || ref }, hif := h } : State).loseSource := by
  rw [State.loseSource_eq]
  obtain ⟨⟨hns, hstep, -, -, -, href⟩, hloses, hstays⟩ := Tmr.holdover_spec { s.tmr with refLoss := s.tmr.refLoss || ref } (odd s.freeW)
  exact ⟨hns, hstep, href, hloses, hstays, rfl⟩

theorem State.lost_of_loseSource (s : State) : s.Lost false s.loseSource := by
  have h := s.lost_of_noted s.hif false
  rw [Bool.or_false] at h
  exact h

theorem State.lost_of_refLoss (s : State) : s.Lost true (s.setTmr { s.tmr with refLoss := true }).loseSource := by
  have h := s.lost_of_noted (s.setTmr { s.tmr with refLoss := true }).hif true
  rw [Bool.or_true] at h
  rwa [State.setTmr_eq]

/-! Pulses -/

/-- A pulse far from the expected second is missed (R369, R371). -/
theorem Tmr.pulse_misses {t : Tmr} (jumpOk : Bool) {cap : Nat} (free : W64) (hp : t.pulseTaken = none) (hv : t.timeValid = true)
    (h : 64000 < ((cap : Int) - 64 * ((t.pulseExpected + 1000000000 : Nat) : Int)).natAbs) :
    t.pulse jumpOk cap free = { t with pulseMiss := true, pulseExpected := t.pulseExpected + 1000000000 } := by
  unfold Tmr.pulse
  dsimp only
  exact if_pos (by rw [hp, hv, decide_eq_true h]; rfl)

/-- A pulse that is measured against the second it is taken for (R369, R371). -/
theorem Tmr.pulse_measures {t : Tmr} (jumpOk : Bool) {cap x : Nat} (free : W64) (hx : t.pulseTaken.getD (t.pulseExpected + 1000000000) = x)
    (h : t.pulseTaken.isSome = true ∨ ((cap : Int) - 64 * ((t.pulseExpected + 1000000000 : Nat) : Int)).natAbs ≤ 64000) :
    ∃ m, m = Tmr.measure { t with pulseExpected := x, pulseTaken := none } jumpOk 1000000000 (64 * (x : Int) - (cap : Int)) free ∧
      t.pulse jumpOk cap free = { m with timeValid := m.timeValid || t.pulseTaken.isSome } := by
  refine ⟨_, rfl, ?_⟩
  unfold Tmr.pulse
  dsimp only
  rw [hx]
  refine if_neg ?_
  obtain h | h := h
  · cases hp : t.pulseTaken <;> simp [hp] at h ⊢
  · rw [decide_eq_false (by omega)]
    exact Bool.false_ne_true

theorem exec_servoSourceSelect {s : State} (v : W32) (h : s.ctl.state.live = true) :
    exec (.servoSourceSelect v) s = .next (s.setTmr (s.tmr.writeCtrl s.ctl.state.timeHeld v)) :=
  State.host_of_live (fun s => s.setTmr (s.tmr.writeCtrl s.ctl.state.timeHeld v)) h

/-- CT_PULSE_EDGE while the CT inputs are the source. -/
theorem exec_ctPulseEdge {s : State} (hl : s.ctl.state.live = true) (hsrc : s.tmr.source = 1) :
    exec .ctPulseEdge s = .next (s.setTmr (s.tmr.pulse s.ctl.state.jumps s.tmr.t64 s.freeW)).drawn :=
  State.ofSource_of_live hl hsrc fun s => (s.setTmr (s.tmr.pulse s.ctl.state.jumps s.tmr.t64 s.freeW)).drawn

/-- Settles O39: the writes of the source, its loss, the pulse's measurements and the holdover's limit. -/
theorem servoFollowsSource : Obligations.ServoFollowsSource := by
  intro s v e0
  refine ⟨fun hl h4 hsrc => ⟨_, exec_servoSourceSelect v hl, ?_⟩, fun hl => ?_, fun hl hsrc => ?_, fun haw hservo hbound =>
    ⟨_, congrArg Host.Outcome.next (if_pos (by simp [haw, hservo, hbound])), State.setTmr_tmr ..⟩⟩
  · obtain ⟨hservo, hns, hstep⟩ := s.tmr.writeCtrl_frees s.ctl.state.timeHeld h4 hsrc
    rw [State.setTmr_tmr]
    exact ⟨hservo, hns, hstep, State.setTmr_eq ..⟩
  · refine ⟨fun hsrc => ⟨⟨_, State.ofSource_of_live hl hsrc fun s => (s.setTmr { s.tmr with refLoss := true }).loseSource, s.lost_of_refLoss⟩,
      ⟨_, State.ofSource_of_live hl hsrc State.loseSource, s.lost_of_loseSource⟩⟩, fun hsrc =>
      ⟨_, State.ofSource_of_live hl hsrc State.loseSource, s.lost_of_loseSource⟩⟩
  · refine ⟨fun hp hv hfar => ⟨_, exec_ctPulseEdge hl hsrc, ?_⟩, fun x hx hnear => ⟨_, exec_ctPulseEdge hl hsrc, ?_⟩, fun hp hnear => ⟨_, exec_ctPulseEdge hl hsrc, ?_⟩⟩
    · rw [State.setTmr_drawn_eq, Tmr.pulse_misses _ _ hp hv hfar]
      exact ⟨rfl, rfl, rfl, rfl⟩
    · obtain ⟨m, hm, hpulse⟩ := Tmr.pulse_measures (t := s.tmr) s.ctl.state.jumps (cap := s.tmr.t64) s.freeW (x := x) (by rw [hx]; rfl) (.inl (by rw [hx]; rfl))
      obtain ⟨⟨hns, hstep, hexp, htaken, -, -⟩, hoff, -, -⟩ := Tmr.measure_spec { s.tmr with pulseExpected := x, pulseTaken := none } s.ctl.state.jumps
        1000000000 (o := 64 * (x : Int) - (s.tmr.t64 : Int)) s.freeW (by omega)
      rw [← hm] at hns hstep hexp htaken hoff
      rw [State.setTmr_drawn_eq, hpulse]
      exact ⟨hexp, htaken, by rw [hx]; exact Bool.or_true _, hoff, hns, hstep⟩
    · obtain ⟨m, hm, hpulse⟩ := Tmr.pulse_measures (t := s.tmr) s.ctl.state.jumps (cap := s.tmr.t64) s.freeW (x := s.tmr.pulseExpected + 1000000000)
        (by rw [hp]; rfl) (.inr hnear)
      obtain ⟨⟨hns, hstep, hexp, -, -, -⟩, hoff, ⟨hfree, hhold⟩, hrate⟩ := Tmr.measure_spec
        { s.tmr with pulseExpected := s.tmr.pulseExpected + 1000000000, pulseTaken := none } s.ctl.state.jumps
        1000000000 (o := 64 * ((s.tmr.pulseExpected + 1000000000 : Nat) : Int) - (s.tmr.t64 : Int)) s.freeW (by omega)
      rw [← hm] at hns hstep hexp hoff hfree hhold hrate
      rw [State.setTmr_drawn_eq, hpulse]
      exact ⟨hexp, hoff, hns, hstep, hfree, hhold, hrate, rfl⟩

end Sys2Proof.Machine
end

section
/-! SUPPORT. Check values continued (R460), and what a unit's code corrects (R453). -/

namespace Sys2Proof.Machine

/-! Continued check values -/

theorem crcByte_lt {poly k : Nat} (hp : poly < 2 ^ k) (n : Nat) {c : Nat} (hc : c < 2 ^ k) : crcByte poly n c < 2 ^ k := by
  induction n generalizing c with
  | zero => exact hc
  | succ n ih =>
    have hhalf : c / 2 < 2 ^ k := by omega
    refine ih ?_
    split
    · exact Nat.xor_lt_two_pow hhalf hp
    · exact hhalf

theorem crcReg_lt {poly k : Nat} (hp : poly < 2 ^ k) (hk : 8 ≤ k) (bs : List Byte) {init : Nat} (hi : init < 2 ^ k) : crcReg poly init bs < 2 ^ k := by
  induction bs generalizing init with
  | nil => exact hi
  | cons b r ih =>
    have hb : b.toNat < 2 ^ k := lt_of_lt_of_le b.isLt (Nat.pow_le_pow_right (by decide) hk)
    exact ih (crcByte_lt hp 8 (Nat.xor_lt_two_pow hi hb))

theorem crcReg_append (poly init : Nat) (a b : List Byte) : crcReg poly init (a ++ b) = crcReg poly (crcReg poly init a) b := List.foldl_append

/-- The final XOR and the preset of the next part undo each other. -/
theorem crc_preset {k x f : Nat} (hx : x < 2 ^ k) (hf : f < 2 ^ k) : (x ^^^ f) % 2 ^ k ^^^ f = x := by
  rw [Nat.mod_eq_of_lt (Nat.xor_lt_two_pow hx hf), Nat.xor_assoc, Nat.xor_self, Nat.xor_zero]

/-- A CRC in two parts is the CRC of the whole. -/
theorem crc_parts {poly k f seed : Nat} (hp : poly < 2 ^ k) (hk : 8 ≤ k) (hf : f < 2 ^ k) (a b : List Byte) :
    crcReg poly ((crcReg poly (seed % 2 ^ k ^^^ f) a ^^^ f) % 2 ^ k ^^^ f) b = crcReg poly (seed % 2 ^ k ^^^ f) (a ++ b) := by
  have hseed : seed % 2 ^ k ^^^ f < 2 ^ k := Nat.xor_lt_two_pow (Nat.mod_lt _ (Nat.two_pow_pos k)) hf
  rw [crc_preset (crcReg_lt hp hk a hseed) hf, crcReg_append]

theorem crcContinue_append (alg : Bool) (seed : Nat) (a b : List Byte) : crcContinue alg (crcContinue alg seed a) b = crcContinue alg seed (a ++ b) := by
  cases alg
  · exact congrArg (· ^^^ 0xFFFFFFFF) (crc_parts (k := 32) (by decide) (by decide) (by decide) a b)
  · exact congrArg (· ^^^ 0xFFFFFFFFFFFFFFFF) (crc_parts (k := 64) (by decide) (by decide) (by decide) a b)

/-! Wrong symbols of a unit -/

theorem eccOut_one (tier a : Nat) (x8 : Bool) : eccOut tier x8 [a] = .corrected := by
  have hdup : [a].eraseDups = [a] := by simp [List.eraseDups_cons]
  unfold eccOut
  rw [hdup]
  simp

theorem eccOut_none (tier : Nat) (x8 : Bool) : eccOut tier x8 [] = if tier = 2 then .corrected else .none := by
  unfold eccOut
  by_cases h : tier = 2 <;> simp [h]

/-- Two wrong symbols are detected where they lie in one code word. -/
theorem eccOut_two (tier : Nat) (x8 : Bool) {a b : Nat} (h : a ≠ b) :
    eccOut tier x8 [a, b] = if tier ≠ 3 ∨ x8 = false ∨ a / 40 = b / 40 then .uncorrected else .corrected := by
  have hdup : [a, b].eraseDups = [a, b] := by simp [List.eraseDups_cons, h.symm]
  unfold eccOut
  rw [hdup]
  by_cases h3 : tier = 3
  · cases x8 <;> simp [h3, h, Ne.symm h]
    exact if_congr (or_iff_left_of_imp Eq.symm) rfl rfl
  · simp [h3, h]

end Sys2Proof.Machine
end

section
/-! SUPPORT. Patrol scrubs (R454 to R458). -/

namespace Sys2Proof.Machine

theorem MemRegs.eccAt_one (m : MemRegs) (k : Nat) : m.eccAt k [0] = .corrected := eccOut_one ..

/-- A read of unmarked places that meets one correctable error. -/
theorem State.eccRead_corrected {s : State} {ks : List Nat} {j k : Nat} (hj : ks[j]? = some k) (hclean : ks.any s.mem.poisoned = false) (source : Nat)
    (stopped abandon : Bool) (via : Nat → Nat) : s.eccRead ks (.corrected j) source stopped abandon via = (s.corrected k (via k), false) := by
  have hk : s.mem.poisoned k = false := by
    have := List.any_eq_false.mp hclean k (List.mem_of_getElem? hj)
    simpa using this
  have hunits : (Ecc.corrected j).units ks = [(k, [0])] := by
    unfold Ecc.units Ecc.corrected
    simp [hj]
  have hmeet : s.meetErr k (via k) [0] source stopped abandon = (s.corrected k (via k), false) := by
    unfold State.meetErr
    rw [hk, if_neg Bool.false_ne_true]
    simp only [MemRegs.eccAt_one]
  unfold State.eccRead
  dsimp only
  rw [hclean, if_neg Bool.false_ne_true, hunits]
  simp only [State.meetErrs, List.foldl_cons, List.foldl_nil, hmeet]
  rfl

/-- A corrected error is counted and reported, and no byte changes. -/
theorem State.corrected_eq {s : State} (haw : s.ctl.state.awake = true) (k addr : Nat) : ∃ f m q,
    s.corrected k addr = { s with fab := f, memr := m, flt := s.flt.detect q } ∧ q.sev = .corrected := by
  unfold State.corrected
  dsimp only
  split
  · exact ⟨_, _, _, State.report_of_awake _ haw, rfl⟩
  · exact ⟨_, _, _, State.report_of_awake _ haw, rfl⟩

/-- The record of uncorrected errors after one more (R455). -/
theorem MemRegs.recordErr_spec (m : MemRegs) (addr k cyc : Nat) {source : Nat} :
    (m.errValid = false → (m.recordErr addr k source cyc).errValid = true ∧ (m.recordErr addr k source cyc).errSource = BitVec.ofNat 2 source) ∧
      (m.errValid = true → (m.recordErr addr k source cyc).errOverflow = true) := by
  unfold MemRegs.recordErr
  dsimp only
  refine ⟨fun h => ?_, fun h => ?_⟩
  · rw [h, if_neg (by simp)]
    exact ⟨rfl, rfl⟩
  · split <;> rw [h] <;> exact Bool.or_true _

theorem MemRegs.countUe_errValid (m : MemRegs) (k : Nat) : (m.countUe k).errValid = m.errValid := by
  unfold MemRegs.countUe
  split <;> rfl

/-- An uncorrectable error marks its unit, is recorded and reported, and changes no byte. -/
theorem State.uncorrected_eq {s : State} (haw : s.ctl.state.awake = true) (k addr source : Nat) (stopped abandon : Bool) : ∃ f m q,
    s.uncorrected k addr source stopped abandon = { s with fab := f, mem := s.mem.setPoison k true, memr := m, flt := s.flt.detect q } ∧
      q.sev ≠ .corrected ∧ (s.memr.errValid = false → m.errValid = true ∧ m.errSource = BitVec.ofNat 2 source) ∧
      (s.memr.errValid = true → m.errOverflow = true) := by
  unfold State.uncorrected
  dsimp only
  have hrec : ∀ m : MemRegs, m.errValid = s.memr.errValid → (s.memr.errValid = false →
      (m.recordErr addr k source s.tmr.age).errValid = true ∧ (m.recordErr addr k source s.tmr.age).errSource = BitVec.ofNat 2 source) ∧
      (s.memr.errValid = true → (m.recordErr addr k source s.tmr.age).errOverflow = true) := fun m hm => hm ▸ m.recordErr_spec addr k s.tmr.age
  by_cases htile : placeTier k = 0
  · simp only [if_pos htile]
    split
    · exact ⟨_, _, _, State.report_of_awake _ haw, Sev.noConfusion, hrec _ rfl⟩
    · exact ⟨_, _, _, State.report_of_awake _ haw, Sev.noConfusion, hrec _ rfl⟩
  · simp only [if_neg htile]
    split
    · exact ⟨_, _, _, State.report_of_awake _ haw, Sev.noConfusion, hrec _ (MemRegs.countUe_errValid ..)⟩
    · exact ⟨_, _, _, State.report_of_awake _ haw, Sev.noConfusion, hrec _ (MemRegs.countUe_errValid ..)⟩

/-- The marks of other passes are taken back without moving a scrubber. -/
theorem scrubDone_pos (l : List Nat) (t : Sparse Scrub) (i : Nat) :
    ((l.foldl (fun t j => t.mod j fun x => { x with done := false }) t).at i).pos = (t.at i).pos := by
  induction l generalizing t with
  | nil => rfl
  | cons j r ih =>
    rw [List.foldl_cons, ih]
    by_cases h : i = j
    · rw [h, Sparse.at_mod_self]
    · rw [Sparse.at_mod_ne _ _ h]

/-- A pass that completes begins again; BEHIND tells a late one (R458). -/
theorem MemRegs.scrubPass_spec (m : MemRegs) (i : Nat) (late : Bool) : ((m.scrubPass i late).scrub.at i).pos = 0 ∧
    (i < 8 → (m.scrubPass i late).hbmBehind = (m.hbmBehind || late) ∧ (m.scrubPass i late).ddrBehind = m.ddrBehind) ∧
    (8 ≤ i → (m.scrubPass i late).ddrBehind = (m.ddrBehind || late) ∧ (m.scrubPass i late).hbmBehind = m.hbmBehind) := by
  have hpos : ∀ (b : Bool) (l : List Nat), ((if b then l.foldl (fun t j => t.mod j fun x => { x with done := false }) (m.scrub.put i { pos := 0, done := true })
      else m.scrub.put i { pos := 0, done := true }).at i).pos = 0 := fun b l => by
    split
    · rw [scrubDone_pos, Sparse.at_put_self]
    · rw [Sparse.at_put_self]
  unfold MemRegs.scrubPass
  by_cases h : i < 8
  · simp only [if_pos h]
    exact ⟨hpos _ _, fun _ => ⟨trivial, trivial⟩, fun h' => absurd h (by omega)⟩
  · simp only [if_neg h]
    exact ⟨hpos _ _, fun h' => absurd h' h, fun _ => ⟨trivial, trivial⟩⟩

section
variable {s : State} {n : BitVec 4} (haw : s.ctl.state.awake = true) (hbusy : s.memr.initBusy = false)
include haw hbusy
theorem State.scrubbing_of_awake (f : State → State) : s.scrubbing f = .next (f s) :=
  congrArg Host.Outcome.next (if_pos (by simp [haw, hbusy]))

/-- The read of a scrubber's next unit, and the scrubber moved on by it. -/
theorem exec_patrolScrubRead (hon : s.memr.scrubOn n.toNat = true) (hpos : (s.memr.scrub.at n.toNat).pos < s.memr.scrubBytes n.toNat) (e : Ecc) :
    ∃ r, r = (s.eccRead ((List.range (eccBytes (s.memr.scrubPlace n.toNat))).map (· + s.memr.scrubPlace n.toNat)) e 1 false false).1 ∧
      exec (.patrolScrubRead n e) s = .next { r with memr := { r.memr with scrub := r.memr.scrub.put n.toNat { r.memr.scrub.at n.toNat with
        pos := (s.memr.scrub.at n.toNat).pos + eccBytes (s.memr.scrubPlace n.toNat) } } } := by
  refine ⟨_, rfl, ?_⟩
  show execPatrolScrubRead n e s = _
  unfold execPatrolScrubRead
  rw [State.scrubbing_of_awake haw hbusy]
  exact congrArg Host.Outcome.next (if_neg (by simp [hon, hpos]))


end

end Sys2Proof.Machine
end

section
/-! SUPPORT. Check-value jobs and their scans (R460 to R465). -/

namespace Sys2Proof.Machine

theorem indexOf_eq_none {α : Type} {p : α → Bool} {l : List α} (h : l.any p = false) : indexOf p l = none := by
  induction l with
  | nil => rfl
  | cons a r ih =>
    obtain ⟨ha, hr⟩ := Bool.or_eq_false_iff.mp h
    unfold indexOf
    rw [ha, ih hr]
    rfl

theorem indexOf_lt {α : Type} {p : α → Bool} {l : List α} (h : l.any p = true) : ∃ i, indexOf p l = some i ∧ i < l.length := by
  induction l with
  | nil => simp at h
  | cons a r ih =>
    unfold indexOf
    by_cases ha : p a = true
    · exact ⟨0, if_pos ha, Nat.succ_pos _⟩
    · obtain ⟨i, hi, hlt⟩ := ih (by simpa [ha] using h)
      exact ⟨i + 1, by rw [if_neg ha, hi]; rfl, Nat.succ_lt_succ hlt⟩

/-- A scan that meets no error reads on to the end of what is not marked, and no further (R461). -/
theorem State.scanRead_clean (s : State) (hinj : s.fab.inject = []) (ks : List Nat) (source : Nat) (via : Nat → Nat) :
    s.scanRead ks .clean source via =
      if ks.any s.mem.poisoned then ({ s with memr := { s.memr with poisonRd := true } }, true) else (s, false) := by
  have hnone : ∀ l, s.fab.injectRead l = none := fun l => if_pos (by rw [hinj]; rfl)
  have hunits : ∀ l, (Ecc.sorted .clean).units l = [] := fun l => rfl
  unfold State.scanRead
  dsimp only
  rw [hnone, ite_self]
  dsimp only
  rw [hunits]
  by_cases h : ks.any s.mem.poisoned = true
  · obtain ⟨i, hi, hlt⟩ := indexOf_lt h
    rw [if_pos h, hi]
    exact if_neg (by simp [State.scanErrs]; omega)
  · rw [if_neg h, indexOf_eq_none (Bool.eq_false_of_not_eq_true h)]
    exact if_pos (by simp)

/-- The marks of a span are those of a longer one. -/
theorem spanPlaces_any_le {a m n : Nat} (h : m ≤ n) {p : Nat → Bool} (hn : (spanPlaces a n).any p = false) : (spanPlaces a m).any p = false := by
  simp only [spanPlaces, List.any_map, List.any_eq_false, List.mem_range] at hn ⊢
  exact fun i hi => hn i (by omega)

section
variable {s : State} {j : CrcJob}

/-- Whether a job's span is memory. -/
def State.mapped (s : State) (j : CrcJob) : Prop := j.len = 0 ∨ spanMapped s.memr.ddr j.addr.toNat j.len.toNat = true

theorem State.crcScan_unmapped (h : ¬ s.mapped j) (n : Nat) (e : Ecc) : s.crcScan j n e = s.crcEnd j 0 1 := by
  unfold State.mapped at h
  rw [not_or] at h
  obtain ⟨hlen, hspan⟩ := h
  exact if_pos (Bool.and_eq_true_iff.mpr ⟨decide_eq_true hlen, by rw [Bool.eq_false_of_not_eq_true hspan]; rfl⟩)

variable (hmap : s.mapped j) (hinj : s.fab.inject = [])
include hmap hinj

/-- A scan over a mapped span without errors. -/
theorem State.crcScan_mapped (n : Nat) : s.crcScan j n .clean =
    if (spanPlaces (j.addr.toNat + s.memr.scanPos) n).any s.mem.poisoned then
      ({ s with memr := { s.memr with poisonRd := true } } : State).drawn.crcEnd j s.freeW 2
    else if j.len.toNat ≤ s.memr.scanPos + n then
      s.crcEnd j (BitVec.ofNat 64 (crcContinue j.alg s.memr.scanCrc ((spanPlaces (j.addr.toNat + s.memr.scanPos) n).map s.mem.byte))) 0
    else { s with memr := { s.memr with scanPos := s.memr.scanPos + n
                                        scanCrc := crcContinue j.alg s.memr.scanCrc ((spanPlaces (j.addr.toNat + s.memr.scanPos) n).map s.mem.byte) } } := by
  unfold State.crcScan
  dsimp only
  have hok : ¬ (j.len ≠ 0 && !spanMapped s.memr.ddr j.addr.toNat j.len.toNat) = true := by
    obtain h | h := hmap <;> simp [h]
  rw [if_neg hok, State.scanRead_clean _ hinj]
  split
  · exact if_pos rfl
  · exact if_neg Bool.false_ne_true

end

/-- CRC_JOB_COMPLETE scans what is left. -/
theorem exec_crcJobComplete {s : State} {j : CrcJob} (hl : s.ctl.state.live = true) (h : s.memr.running = some j) (e : Ecc) :
    exec (.crcJobComplete e) s = .next (s.crcScan j (j.len.toNat - s.memr.scanPos) e) := by
  show execCrcJobComplete e s = _
  unfold execCrcJobComplete
  rw [State.host_of_live _ hl, h]

/-- Bits of MEM_CRC_CTRL written (R465, R466). -/
theorem MemRegs.crcWrite_eq (m : MemRegs) (v : W32) : m.crcWrite v =
    if v.getLsbD 31 then (if v.getLsbD 30 then (m.crcCtrl v).crcPop else m.crcCtrl v).crcSubmit else if v.getLsbD 30 then (m.crcCtrl v).crcPop else m.crcCtrl v := by
  unfold MemRegs.crcWrite
  simp only [bit_eq_getLsbD]

theorem MemRegs.crcSubmit_results (m : MemRegs) : m.crcSubmit.results = m.results := by
  unfold MemRegs.crcSubmit
  split <;> rfl

/-- The time bases after one idle cycle (R306, R364, R562). -/
def State.ticked (s : State) : State := { s with
  tmr := s.tmr.cycle, lnk := s.lnk.cycle, rst := if s.rst.wdtRunning then { s.rst with wdtElapsed := s.rst.wdtElapsed + 8 } else s.rst }

theorem idle_of_on {s : State} (h : s.ctl.state ≠ .off) : idle s = s.ticked.crcCycle := if_neg h

/-- One cycle's scan, in an idle cycle with the firmware running (R462, R463). -/
theorem State.crcCycle_spec {s : State} {j : CrcJob} (hrun : s.memr.running = some j) (hinj : s.fab.inject = []) (hmap : s.mapped j)
    (hmore : s.memr.scanPos + 1 < j.len.toNat) (hclean : (spanPlaces (j.addr.toNat + s.memr.scanPos) 51).any s.mem.poisoned = false) :
    ∃ n, n ≤ 51 ∧ s.memr.scanPos + n < j.len.toNat ∧ (n = 0 → s.crcCycle.memr = s.memr) ∧ (0 < n → s.crcCycle.memr = { s.memr with
      scanPos := s.memr.scanPos + n
      scanCrc := crcContinue j.alg s.memr.scanCrc ((spanPlaces (j.addr.toNat + s.memr.scanPos) n).map s.mem.byte) }) := by
  have hcycle : ∃ n, n ≤ 51 ∧ s.memr.scanPos + n < j.len.toNat ∧ s.crcCycle = if n = 0 then s.drawn else s.drawn.crcScan j n {} := by
    refine ⟨min (s.freeW.toNat % 52) (j.len.toNat - s.memr.scanPos - 1), by omega, by omega, ?_⟩
    unfold State.crcCycle
    rw [hrun]
  obtain ⟨n, hn, hlt, hc⟩ := hcycle
  refine ⟨n, hn, hlt, fun h => ?_, fun h => ?_⟩
  · rw [hc, if_pos h]; rfl
  · have hscan := State.crcScan_mapped (s := s.drawn) (j := j) hmap hinj n
    have hunmarked : ¬ (spanPlaces (j.addr.toNat + s.memr.scanPos) n).any s.mem.poisoned = true := fun h' =>
      Bool.false_ne_true ((spanPlaces_any_le hn hclean).symm.trans h')
    rw [hc, if_neg (Nat.ne_of_gt h)]
    exact congrArg State.memr (hscan.trans ((if_neg hunmarked).trans (if_neg (Nat.not_le.mpr hlt))))

/-- Settles O37: the reads of a scrubber, the code of a unit, the jobs, and the scan's parts. -/
theorem scrubAndCheckValues : Obligations.ScrubAndCheckValues := by
  refine ⟨fun s n late p => ⟨rfl, ?_, fun haw hbusy hon hpos => ?_⟩, fun tier a b x8 => ⟨eccOut_one .., eccOut_none .., fun h hw => ?_, fun h => ?_⟩,
    fun s v j rest hl => ?_, crcContinue_append⟩
  · intro k pos haw hbusy hon hpos hk hclean
    have hk0 : ((List.range (eccBytes k)).map (· + k))[0]? = some k := by
      have : 0 < eccBytes k := by unfold eccBytes; split <;> decide
      simp [this]
    refine ⟨?_, ?_, ?_⟩
    · obtain ⟨r, hr, hexec⟩ := exec_patrolScrubRead haw hbusy hon hpos .clean
      rw [State.eccRead_clean _ _ _ _ _ _ (.inr (.inl rfl)), hclean] at hr
      refine ⟨_, hexec, congrArg Scrub.pos (Sparse.at_put_self ..), ?_⟩
      rw [hr]; rfl
    · obtain ⟨r, hr, hexec⟩ := exec_patrolScrubRead haw hbusy hon hpos (.corrected 0)
      obtain ⟨f, m, q, heq, hq⟩ := State.corrected_eq haw k (placeAddr k)
      rw [State.eccRead_corrected hk0 hclean, heq] at hr
      refine ⟨_, q, hexec, ?_, ?_, hq, congrArg Scrub.pos (Sparse.at_put_self ..)⟩
      · rw [hr]
      · rw [hr]; rfl
    · obtain ⟨r, hr, hexec⟩ := exec_patrolScrubRead haw hbusy hon hpos (.uncorrected 0)
      obtain ⟨f, m, q, heq, hq, hfirst, hmore⟩ := State.uncorrected_eq haw k (placeAddr k) 1 false false
      rw [State.eccRead_uncorrected hk0 hclean, heq] at hr
      refine ⟨_, q, hexec, ?_, fun j => ?_, ?_, hq, ?_⟩
      · rw [hr]; exact Mem.poisoned_setPoison _ _ rfl
      · rw [hr]; rfl
      · rw [hr]; rfl
      · rw [hr]; exact ⟨hfirst, hmore⟩
  · obtain ⟨h0, hhbm, hddr⟩ := s.memr.scrubPass_spec n.toNat late
    have hexec : exec (.scrubPassComplete n late) s = .next { s with memr := s.memr.scrubPass n.toNat late } := by
      show execScrubPassComplete n late s = _
      unfold execScrubPassComplete
      rw [State.scrubbing_of_awake haw hbusy]
      exact congrArg Host.Outcome.next (if_pos (by simp [hon, hpos]))
    exact ⟨_, hexec, h0, rfl, hhbm, hddr⟩
  · rw [eccOut_two _ _ h, if_pos (hw.imp_right .inl)]
  · rw [eccOut_two _ _ h]
    exact if_congr (by simp) rfl rfl
  · have hwrite : exec (.submit v) s = .next { s with memr := s.memr.crcWrite v } := State.host_of_live (fun s => { s with memr := s.memr.crcWrite v }) hl
    have hpop : exec (.pop v) s = .next { s with memr := s.memr.crcWrite v } := State.host_of_live (fun s => { s with memr := s.memr.crcWrite v }) hl
    have hstart : exec .crcJobStart s = .next { s with memr := s.memr.crcStart } := State.host_of_live (fun s => { s with memr := s.memr.crcStart }) hl
    refine ⟨fun h31 h30 => ⟨_, hwrite, rfl, ?_⟩, fun h30 => ⟨_, hpop, rfl, ?_⟩, fun hr hj hfew => ?_, fun hmany => ?_, fun hr => ?_, fun hrun hinj => ?_⟩
    · rw [MemRegs.crcWrite_eq, h31, h30, if_pos rfl, if_neg Bool.false_ne_true]
      refine ⟨MemRegs.crcSubmit_results _, fun hroom => ?_, fun hfull => ?_⟩
      · have : (s.memr.crcCtrl v).crcSubmit = { s.memr.crcCtrl v with jobs := s.memr.jobs ++ [(s.memr.crcCtrl v).job] } := if_neg (Nat.not_le.mpr hroom)
        rw [this]
        refine ⟨rfl, BitVec.eq_of_toNat_eq ?_, rfl, rfl⟩
        show (BitVec.ofNat 8 (fld v 7 0)).toNat = _
        simp [fld]
      · have : (s.memr.crcCtrl v).crcSubmit = { s.memr.crcCtrl v with crcOverflow := true } := if_pos hfull
        rw [this]
        exact ⟨rfl, rfl⟩
    · rw [MemRegs.crcWrite_eq, h30, if_pos rfl]
      split
      · rw [MemRegs.crcSubmit_results]; rfl
      · rfl
    · rw [hstart]
      unfold MemRegs.crcStart
      rw [hr, hj]
      dsimp only
      rw [if_pos hfew]
    · have : s.memr.crcStart = s.memr := by
        unfold MemRegs.crcStart
        split
        · exact if_neg (by omega)
        · rfl
      rw [hstart, this]
    · have : s.memr.crcStart = s.memr := by
        unfold MemRegs.crcStart
        split
        · next h _ => rw [h] at hr; contradiction
        · rfl
      rw [hstart, this]
    · intro p ks mapped told ends
      have hexec := exec_crcJobComplete hl hrun .clean
      have hwhole : j.len.toNat ≤ s.memr.scanPos + (j.len.toNat - s.memr.scanPos) := by omega
      refine ⟨fun hm => ?_, fun hm hc => ?_, fun hm hp => ⟨s.freeW, ?_⟩, fun hm hmore hpend hc => ?_⟩
      · rw [hexec, State.crcScan_unmapped hm]; rfl
      · rw [hexec, State.crcScan_mapped hm hinj, if_neg (fun h => Bool.false_ne_true (hc.symm.trans h)), if_pos hwhole]; rfl
      · rw [hexec, State.crcScan_mapped hm hinj, if_pos hp]; rfl
      · have hon : s.ctl.state ≠ .off := (Dev.ne_of_live hl).1
        obtain ⟨n, hn, hlt, hnone, hsome⟩ := State.crcCycle_spec (s := s.ticked) hrun hinj hm hmore hc
        refine ⟨_, n, (show step s = .next (idle s) by unfold step; rw [hpend]), hn, hlt, ?_⟩
        rw [idle_of_on hon]
        exact ⟨hnone, hsome⟩

end Sys2Proof.Machine
end

section
/-! SUPPORT. Register writes and the blocks they reach (R9 to R15, R469). -/

namespace Sys2Proof.Machine

/-! What the writes that do more than store touch -/

/-- The LNK block changes: besides it the fault log, the servo and what they post. -/
theorem State.setLnk_frame (s : State) (l : Lnk) (lane : Nat) : s.setLnk l lane = { s with
    lnk := (s.setLnk l lane).lnk, flt := (s.setLnk l lane).flt, tmr := (s.setLnk l lane).tmr, hif := (s.setLnk l lane).hif
    free := (s.setLnk l lane).free } := by
  have hreports : ∀ (q : Nat → Report) (g : List Nat), ∃ f, g.foldl (fun (s : State) i => s.report (q i)) { s with lnk := l } =
      { s with lnk := l, flt := f } := fun q g => foldl_keeps (P := fun t : State => ∃ f, t = { s with lnk := l, flt := f }) (fun t i ⟨f, ht⟩ => by
      subst ht
      unfold State.report
      split <;> exact ⟨_, rfl⟩) g ⟨s.flt, rfl⟩
  unfold State.setLnk
  dsimp only
  obtain ⟨f, hf⟩ := hreports (fun i => { cls := .link, sev := .contained, unit := i, sub := lane, detail := (l.port.at i).downReason.toNat }) ((List.range 12).filter fun i => (l.port.at i).state == .down && (s.lnk.port.at i).state != .down)
  rw [hf]
  split
  · rw [State.loseSource_eq]
  · rfl

/-- Completions of samples touch the HIF block alone. -/
theorem State.samplesDone_frame (s : State) (l : List SampleDone) : s.samplesDone l = { s with hif := (s.samplesDone l).hif } := by
  have h : ∃ h, s.samplesDone l = { s with hif := h } := foldl_keeps (P := fun t : State => ∃ h, t = { s with hif := h }) (fun t d ⟨h, ht⟩ => by
    subst ht
    unfold State.sampleDone State.complete
    split <;> exact ⟨_, rfl⟩) l ⟨s.hif, rfl⟩
  obtain ⟨h, hh⟩ := h
  rw [hh]

/-- A write of INP_CTRL reaches the intake, the note of a flush due and the completions. -/
theorem State.writeInpCtrl_frame (s : State) (v : W32) :
    s.writeInpCtrl v = { s with inp := (s.writeInpCtrl v).inp, flt := (s.writeInpCtrl v).flt, hif := (s.writeInpCtrl v).hif } := by
  unfold State.writeInpCtrl
  split
  · split
    · rfl
    · unfold State.setInp
      dsimp only
      rw [State.samplesDone_frame]
  · split
    · split <;> rfl
    · rfl

theorem State.sendX_frame (s : State) (k : Member) (m : XMsg) : s.sendX k m = { s with gx := (s.sendX k m).gx, lnk := (s.sendX k m).lnk } := by
  unfold State.sendX
  split <;> rfl

/-- The state sent at an epoch's arming reaches the exchange and the links. -/
theorem State.sendState_frame (s : State) (im : Image) : s.sendState im = { s with gx := (s.sendState im).gx, lnk := (s.sendState im).lnk } := by
  have hfold : ∀ {α : Type} (f : State → α → State), (∀ t a, ∃ x l, f t a = { t with gx := x, lnk := l }) →
      ∀ (l : List α) (t : State), ∃ x k, l.foldl f t = { t with gx := x, lnk := k } := fun f hf l t =>
    foldl_keeps (P := fun u : State => ∃ x k, u = { t with gx := x, lnk := k }) (fun u a ⟨x, k, hu⟩ => by
      obtain ⟨y, j, hy⟩ := hf u a
      exact ⟨y, j, by rw [hy, hu]⟩) l ⟨t.gx, t.lnk, rfl⟩
  have hsend : ∀ (t : State) k m, ∃ x l, t.sendX k m = { t with gx := x, lnk := l } := fun t k m => ⟨_, _, t.sendX_frame k m⟩
  unfold State.sendState
  split
  · rfl
  · dsimp only
    generalize hpieces : List.foldl _ s _ = u
    obtain ⟨x, l, hu⟩ : ∃ x l, u = { s with gx := x, lnk := l } := hpieces ▸ hfold _ (fun t m => hfold _ (fun t p => hsend ..) _ t) _ s
    generalize hends : List.foldl _ u _ = w
    obtain ⟨y, k, hw⟩ : ∃ y k, w = { u with gx := y, lnk := k } := hends ▸ hfold _ (fun t m => hsend ..) _ u
    rw [hw, hu]

theorem State.armEpochNow_frame (s : State) : s.armEpochNow = { s with gx := s.armEpochNow.gx, lnk := s.armEpochNow.lnk } := by
  unfold State.armEpochNow
  dsimp only
  split
  · rfl
  · split
    · split
      · rw [State.sendState_frame]
      · rfl
    · rfl

theorem State.cutOff_frame (s : State) (t : Nat) : s.cutOff t = { s with gx := (s.cutOff t).gx } := by
  unfold State.cutOff
  split <;> rfl

theorem State.writeHciHost_spec (s : State) (v : W32) : s.writeHciHost v = { s with ctl := (s.writeHciHost v).ctl } ∧
    (s.writeHciHost v).ctl.state = s.ctl.state ∧ (s.writeHciHost v).ctl.latch = s.ctl.latch := by
  unfold State.writeHciHost
  split
  · exact ⟨rfl, rfl, rfl⟩
  · refine ⟨rfl, ?_⟩
    unfold Ctl.writeHci
    dsimp only
    split
    · exact ⟨rfl, rfl⟩
    · split <;> exact ⟨rfl, rfl⟩

/-- A write to a CTL register touches neither the device state nor what is latched. -/
theorem State.writeCtl_spec (s : State) (o : Nat) (v : W32) : s.writeCtl o v = { s with ctl := (s.writeCtl o v).ctl } ∧
    (s.writeCtl o v).ctl.state = s.ctl.state ∧ (s.writeCtl o v).ctl.latch = s.ctl.latch := by
  unfold State.writeCtl
  split
  · exact s.writeHciHost_spec v
  · exact ⟨rfl, rfl, rfl⟩
  · exact ⟨rfl, rfl, rfl⟩
  · exact ⟨rfl, rfl, rfl⟩

/-- A write of GX_CTRL reaches the exchange, and the links only when it arms an epoch. -/
theorem State.writeGxCtrl_frame (s : State) (v : W32) : s.writeGxCtrl v = { s with gx := (s.writeGxCtrl v).gx, lnk := (s.writeGxCtrl v).lnk } ∧
    (v.getLsbD 3 = false → (s.writeGxCtrl v).lnk = s.lnk) := by
  have hstored : ∀ x : Gx, ∃ y, (if bit v 1 then ({ s with gx := { x with compareNow := true } } : State) else { s with gx := x }) = { s with gx := y } := fun x => by
    split <;> exact ⟨_, rfl⟩
  unfold State.writeGxCtrl
  dsimp only
  obtain ⟨y, hy⟩ := hstored (s.gx.writeReg (s.ctl.state == .ready || s.ctl.state == .loaded) 4 v)
  rw [hy, bit_eq_getLsbD v 3]
  cases h3 : v.getLsbD 3
  · rw [if_neg Bool.false_ne_true]
    split
    · rw [State.cutOff_frame]
      exact ⟨rfl, fun _ => rfl⟩
    · exact ⟨rfl, fun _ => rfl⟩
  · rw [if_pos rfl, State.armEpochNow_frame]
    refine ⟨?_, fun h => Bool.noConfusion h⟩
    split
    · rw [State.cutOff_frame]
    · rfl

/-- A write to a TIL register reaches the window of its tile and the order of what is ready. -/
theorem State.writeTil_spec (s : State) (n o : Nat) (v : W32) : s.writeTil n o v = { s with
    fab := { s.fab with tiles := (s.writeTil n o v).fab.tiles, readyLog := (s.writeTil n o v).fab.readyLog } } ∧
    ∀ j, j ≠ n → (s.writeTil n o v).fab.tiles.at j = s.fab.tiles.at j := by
  unfold State.writeTil
  rw [State.noteReady_eq]
  exact ⟨rfl, fun j hj => Sparse.at_mod_ne s.fab.tiles (fun r => r.writeReg o v) hj⟩

/-! One word written -/

/-- What a write at an offset of a block may touch. -/
def Blk.Reaches (b : Blk) (o : Nat) (v : W32) (s t : State) : Prop :=
  match b with
  | .ctl => t = { s with ctl := t.ctl }
  | .rst => t = { s with rst := t.rst }
  | .hif => t = { s with hif := t.hif }
  | .msix => t = { s with hif := t.hif }
  | .tmr => t = { s with tmr := t.tmr, hif := t.hif }
  | .lnk => t = { s with lnk := t.lnk, flt := t.flt, tmr := t.tmr, hif := t.hif, free := t.free }
  | .gx => t = { s with gx := t.gx, lnk := t.lnk } ∧ o = 4 ∧ v.getLsbD 3 = true ∨ t = { s with gx := t.gx }
  | .upd => t = { s with upd := t.upd }
  | .inp => t = { s with inp := t.inp, flt := t.flt, hif := t.hif }
  | .mem => t = { s with memr := t.memr }
  | .stash => t = { s with adm := t.adm }
  | .sec => t = { s with sec := t.sec }
  | .flt => t = { s with flt := t.flt, fab := t.fab }
  | .pwr => t = { s with pwr := t.pwr }
  | .til n => t = { s with fab := { s.fab with tiles := t.fab.tiles, readyLog := t.fab.readyLog } } ∧ ∀ j, j ≠ n → t.fab.tiles.at j = s.fab.tiles.at j
  | .none => t = s

theorem State.writeWord_reaches (s : State) (a : Nat) (v : W32) : (regBlock a).1.Reaches (regBlock a).2 v s (s.writeWord a v) := by
  unfold State.writeWord
  generalize regBlock a = p
  obtain ⟨b, o⟩ := p
  cases b with
  | ctl => exact (s.writeCtl_spec o v).1
  | rst => rfl
  | hif => rfl
  | msix => dsimp only; split <;> rfl
  | tmr => exact s.setTmr_frame _
  | lnk => exact s.setLnk_frame _ _
  | gx =>
    dsimp only
    split
    · next h =>
      obtain ⟨hframe, hlnk⟩ := s.writeGxCtrl_frame v
      cases h3 : v.getLsbD 3
      · exact .inr (hframe.trans (by rw [hlnk h3]))
      · exact .inl ⟨hframe, h, h3⟩
    · exact .inr rfl
  | upd => rfl
  | inp =>
    dsimp only
    split
    · exact s.writeInpCtrl_frame v
    · rfl
  | mem => rfl
  | stash => rfl
  | sec => rfl
  | flt =>
    dsimp only
    split
    · unfold State.writeInject
      split <;> rfl
    · rfl
  | pwr => rfl
  | til n => exact s.writeTil_spec n o v
  | none => rfl

/-- No word written changes memory, a fuse, the device state or what is latched. -/
def State.WordKeeps (s t : State) : Prop := t.mem = s.mem ∧ t.sec.fuses = s.sec.fuses ∧ t.ctl.state = s.ctl.state ∧ t.ctl.latch = s.ctl.latch

theorem State.WordKeeps.of_eq {s t : State} (hm : t.mem = s.mem) (hs : t.sec = s.sec) (hc : t.ctl = s.ctl) : s.WordKeeps t :=
  ⟨hm, by rw [hs], by rw [hc], by rw [hc]⟩

/-- A block other than CTL and SEC keeps them by what it reaches. -/
theorem Blk.Reaches.keeps {b : Blk} {o : Nat} {v : W32} {s t : State} (h : b.Reaches o v s t) (hsec : t.sec.fuses = s.sec.fuses)
    (hctl : b = .ctl → t.ctl.state = s.ctl.state ∧ t.ctl.latch = s.ctl.latch) : s.WordKeeps t := by
  cases b with
  | ctl =>
    obtain ⟨hstate, hlatch⟩ := hctl rfl
    exact ⟨(congrArg State.mem h :), hsec, hstate, hlatch⟩
  | sec => exact ⟨(congrArg State.mem h :), hsec, (congrArg (·.ctl.state) h :), (congrArg (·.ctl.latch) h :)⟩
  | gx =>
    obtain ⟨h, -⟩ | h := h
    · exact .of_eq (congrArg State.mem h :) (congrArg State.sec h :) (congrArg State.ctl h :)
    · exact .of_eq (congrArg State.mem h :) (congrArg State.sec h :) (congrArg State.ctl h :)
  | til n => exact .of_eq (congrArg State.mem h.1 :) (congrArg State.sec h.1 :) (congrArg State.ctl h.1 :)
  | rst | hif | msix | tmr | lnk | upd | inp | mem | stash | flt | pwr | none =>
    exact .of_eq (congrArg State.mem h :) (congrArg State.sec h :) (congrArg State.ctl h :)

theorem State.writeWord_wordKeeps (s : State) (a : Nat) (v : W32) : s.WordKeeps (s.writeWord a v) := by
  refine (s.writeWord_reaches a v).keeps (s.writeWord_keeps a v).1 fun hb => ?_
  have : s.writeWord a v = s.writeCtl (regBlock a).2 v := by
    unfold State.writeWord
    dsimp only
    rw [hb]
  rw [this]
  exact (s.writeCtl_spec ..).2

/-- A write to a BAR0 address: the word written, and the high word of a wide value latched (R15). -/
theorem State.barWrite_eq (s : State) (a : Nat) (v : W32) : ∃ l, s.barWrite a v = { s.writeWord a v with ctl := { (s.writeWord a v).ctl with latch := l } } ∧
    (4 ≤ a → wideRw (a - 4) = false → l = s.ctl.latch) ∧ ∀ b, (b ≠ a ∨ wideRw (b - 4) = false) → l.at b = s.ctl.latch.at b := by
  obtain ⟨-, -, -, hlatch⟩ := s.writeWord_wordKeeps a v
  unfold State.barWrite
  dsimp only
  rw [← hlatch]
  split
  · next h =>
    obtain ⟨h4, hw⟩ := Bool.and_eq_true_iff.mp h
    refine ⟨_, rfl, fun _ h => absurd hw (by simp [h]), fun b hb => Sparse.at_put_ne _ _ ?_⟩
    obtain hb | hb := hb
    · exact hb
    · rintro rfl
      exact Bool.false_ne_true (hb.symm.trans hw)
  · exact ⟨_, rfl, fun _ _ => rfl, fun _ _ => rfl⟩

/-- A fact about a block chosen by a condition. -/
theorem fst_ite (P : Blk → Prop) {c : Prop} [Decidable c] {p q : Blk × Nat} (hp : c → P p.1) (hq : ¬ c → P q.1) : P (if c then p else q).1 := by
  split
  · exact hp ‹_›
  · exact hq ‹_›

/-- Past the tiles' windows lies no block, and no wide value; the windows are those of 256 tiles. -/
theorem regBlock_none {a : Nat} : (regBlock a).1 = .none → 0x2000000 ≤ a := by
  unfold regBlock
  repeat' refine fst_ite (fun b => b = .none → 0x2000000 ≤ a) (fun _ => ?_) (fun _ => ?_)
  all_goals rintro ⟨⟩
  omega

theorem regBlock_til {a n : Nat} : (regBlock a).1 = .til n → n < 256 := by
  unfold regBlock
  repeat' refine fst_ite (fun b => b = .til n → n < 256) (fun _ => ?_) (fun _ => ?_)
  all_goals rintro ⟨⟩
  omega

theorem wideRw_of_high {a : Nat} (h : 0x1000000 ≤ a) : wideRw a = false := by
  unfold wideRw
  have hlist : [0x20000, 0x20010, 0x20018, 0x100018, 0x100020, 0x500208, 0x500210, 0x500218].contains a = false := by
    simp only [List.contains_cons, List.contains_nil, Bool.or_eq_false_iff, beq_eq_false_iff_ne, and_true]
    omega
  rw [hlist, decide_eq_false (by omega), decide_eq_false (by omega)]
  rfl

/-- REGISTER_WRITE with the firmware running. -/
theorem exec_registerWrite {s : State} (hl : s.ctl.state.live = true) (a : BitVec 26) (n : Nat) (v : W64) : exec (.registerWrite a n v) s = .next
    (if n = 4 && a.toNat % 4 = 0 then s.barWrite a.toNat (v.setWidth 32)
      else if n = 8 && a.toNat % 8 = 0 then (s.barWrite a.toNat (v.setWidth 32)).barWrite (a.toNat + 4) (BitVec.ofNat 32 (v.toNat / 2 ^ 32)) else s) := by
  show execRegisterWrite a n v s = _
  unfold execRegisterWrite
  exact State.host_of_live _ hl

/-- Settles O60: what the block of the address reaches, with the high word that is latched. -/
theorem registerWritesStayInTheirBlock : Obligations.RegisterWritesStayInTheirBlock := by
  intro s a v
  refine ⟨fun n h => ?_, fun hl h4 => ?_, fun hl h8 => ?_⟩
  · cases hl : s.ctl.state.live with
    | false =>
      show execRegisterWrite a n v s = _
      unfold execRegisterWrite State.host
      exact congrArg Host.Outcome.next (if_neg fun h' => Bool.false_ne_true (hl.symm.trans h'))
    | true =>
      have hno : ¬ (n = 4 && a.toNat % 4 = 0) = true ∧ ¬ (n = 8 && a.toNat % 8 = 0) = true := by
        simp only [Bool.and_eq_true, decide_eq_true_eq]
        obtain h | h | h := h
        · exact absurd (hl.symm.trans h) (by decide)
        · exact ⟨fun h' => h.1 h'.1, fun h' => h.2 h'.1⟩
        · refine ⟨?_, ?_⟩ <;> rintro ⟨rfl, h'⟩ <;> exact h h'
      rw [exec_registerWrite hl, if_neg hno.1, if_neg hno.2]
  · have hexec := exec_registerWrite hl a 4 v
    rw [if_pos (by simp [h4])] at hexec
    obtain ⟨l, hbar, hnone, hlatch⟩ := s.barWrite_eq a.toNat (v.setWidth 32)
    obtain ⟨hmem, hfuses, hstate, -⟩ := s.writeWord_wordKeeps a.toNat (v.setWidth 32)
    have hreach := s.writeWord_reaches a.toNat (v.setWidth 32)
    have hoff := fun h => regBlock_none (a := a.toNat) h
    have htil := fun n h => regBlock_til (a := a.toNat) (n := n) h
    refine ⟨_, hexec, ?_⟩
    rw [hbar]
    refine ⟨hmem, hfuses, hstate, hlatch, ?_⟩
    generalize s.writeWord a.toNat (v.setWidth 32) = w at *
    generalize regBlock a.toNat = p at *
    obtain ⟨b, o⟩ := p
    cases b with
    | ctl | rst | hif | msix | tmr | lnk | upd | inp | mem | stash | sec | flt | pwr =>
      change w = _ at hreach
      rw [hreach]
    | gx =>
      obtain ⟨hw, ho, h3⟩ | hw := hreach
      · refine .inl ⟨?_, ho, ?_⟩
        · rw [hw]
        · simpa using h3
      · refine .inr ?_
        rw [hw]
    | til n =>
      obtain ⟨hw, htiles⟩ := hreach
      refine ⟨htil n rfl, ?_, htiles⟩
      rw [hw]
    | none =>
      change w = s at hreach
      have hhigh := hoff rfl
      rw [hreach, hnone (by omega) (wideRw_of_high (by omega))]
  · refine ⟨_, (exec_registerWrite hl a 4 _).trans (congrArg Host.Outcome.next (if_pos (by simp; omega))), ?_⟩
    rw [exec_registerWrite hl, if_neg (by simp), if_pos (by simp [h8])]
    refine congrArg (fun x => Host.Outcome.next ((s.barWrite a.toNat x).barWrite (a.toNat + 4) (BitVec.ofNat 32 (v.toNat / 2 ^ 32)))) ?_
    simp

end Sys2Proof.Machine
end

section
/-! SUPPORT. The fabric's slots, edges and arrays, and what the start of a firing takes (R86, R108 to R110). -/

namespace Sys2Proof.Machine

/-! Slots and edges -/

theorem Fab.slot_setSlot_self (f : Fab) (t k : Nat) (x : Slot) : (f.setSlot t k x).slot t k = x := Sparse.at_put_self ..

theorem Fab.edge_setEdge_self (f : Fab) (e : Nat) (x : EdgeSt) : (f.setEdge e x).edge e = x := Sparse.at_put_self ..

theorem Fab.edge_setEdge_ne (f : Fab) {e j : Nat} (x : EdgeSt) (h : j ≠ e) : (f.setEdge e x).edge j = f.edge j := Sparse.at_put_ne _ _ h

/-- One credit of each of these edges is taken. -/
def Fab.takeCredits (f : Fab) (l : List Nat) : Fab := l.foldl (fun (f : Fab) e => f.setEdge e { f.edge e with credits := (f.edge e).credits - 1 }) f

theorem Fab.takeCredits_eq (f : Fab) (l : List Nat) : f.takeCredits l = { f with edges := (f.takeCredits l).edges } := by
  have h : ∃ x, f.takeCredits l = { f with edges := x } := foldl_keeps (P := fun g : Fab => ∃ x, g = { f with edges := x })
    (fun g e ⟨x, hx⟩ => by subst hx; exact ⟨_, rfl⟩) l ⟨f.edges, rfl⟩
  obtain ⟨x, hx⟩ := h
  rw [hx]

/-- Credits apart, an edge stays as it was. -/
theorem Fab.edge_takeCredits (f : Fab) (l : List Nat) (e : Nat) : ∃ c, (f.takeCredits l).edge e = { f.edge e with credits := c } :=
  foldl_keeps (P := fun g : Fab => ∃ c, g.edge e = { f.edge e with credits := c }) (fun g j ⟨c, hc⟩ => by
    by_cases h : e = j
    · subst h
      exact ⟨_, by rw [Fab.edge_setEdge_self, hc]⟩
    · exact ⟨c, by rw [Fab.edge_setEdge_ne _ _ h, hc]⟩) l ⟨(f.edge e).credits, rfl⟩

theorem Fab.edge_takeCredits_of_not_mem {l : List Nat} {e : Nat} (h : e ∉ l) (f : Fab) : (f.takeCredits l).edge e = f.edge e := by
  induction l generalizing f with
  | nil => rfl
  | cons j r ih =>
    rw [List.mem_cons, not_or] at h
    exact (ih h.2 _).trans (Fab.edge_setEdge_ne _ _ h.1)

theorem Fab.edge_takeCredits_of_mem {l : List Nat} (hn : l.Nodup) {e : Nat} (h : e ∈ l) (f : Fab) :
    ((f.takeCredits l).edge e).credits = (f.edge e).credits - 1 := by
  induction l generalizing f with
  | nil => exact absurd h List.not_mem_nil
  | cons j r ih =>
    obtain ⟨hj, hn⟩ := List.nodup_cons.mp hn
    have hcons : f.takeCredits (j :: r) = (f.setEdge j { f.edge j with credits := (f.edge j).credits - 1 }).takeCredits r := rfl
    rw [hcons]
    by_cases hej : e = j
    · subst hej
      rw [Fab.edge_takeCredits_of_not_mem hj, Fab.edge_setEdge_self]
    · rw [ih hn (List.mem_of_ne_of_mem hej h), Fab.edge_setEdge_ne _ _ hej]

/-- Places read depend on the read places of the edges alone. -/
theorem Image.firePlaces_congr (im : Image) {f g : Fab} (h : ∀ e, (f.edge e).rd = (g.edge e).rd) (t : Nat) (d : Desc) :
    im.firePlaces f t d = im.firePlaces g t d := by
  have hread : im.readPlaces f t = im.readPlaces g t := by
    funext e
    unfold Image.readPlaces
    rw [h]
  unfold Image.firePlaces
  rw [hread]

/-! The array -/

/-- A product the array accepts streams or waits to. -/
theorem ArrayRegs.holds_accept (a : ArrayRegs) (k : Nat) (bs : List Bank) : (a.accept k bs).holds k = true := by
  unfold ArrayRegs.accept ArrayRegs.holds ArrayRegs.streamed
  dsimp only
  split
  · cases hw : a.waiting with
    | nil => simp
    | cons w r =>
      obtain ⟨j, b⟩ := w
      simp
  · simp

/-! Injections that a read or a firing meets -/

theorem Fab.injectRead_none {f : Fab} {ks : List Nat} (h : ∀ a ∈ ks, ∀ q, (placeUnit a, q) ∉ f.inject) : f.injectRead ks = none := by
  unfold Fab.injectRead
  split
  · rfl
  · rw [List.findSome?_eq_none_iff]
    rintro ⟨a, i⟩ hp
    have ha : a ∈ ks := List.mem_of_getElem? (List.mem_zipIdx_iff_getElem?.mp (List.mem_filter.mp hp).1)
    have hnone : ∀ q, f.takeInject (placeUnit a) q = none := fun q => if_neg (by rw [List.contains_iff_mem]; exact h a ha q)
    dsimp only
    rw [hnone, hnone]
    rfl

/-- What is left of the injections when an array firing has met one. -/
theorem State.injectFiring_fab {s : State} {im : Image} {t : Nat} {r : Fab × Nat × Bool} (h : s.injectFiring im t = some r) :
    ∃ l, r.1 = { s.fab with inject := l } := by
  unfold State.injectFiring at h
  obtain ⟨p, -, hp⟩ := List.exists_of_findSome?_eq_some h
  obtain ⟨f, hf, rfl⟩ := Option.map_eq_some_iff.mp hp
  unfold Fab.takeInject at hf
  split at hf
  · exact ⟨_, (Option.some.inj hf).symm⟩
  · contradiction

/-! The start of a firing -/

/-- A read that meets no error and no injection tells the marks it met. -/
theorem State.eccRead_of_no_injection (s : State) {ks : List Nat} (h : s.fab.injectRead ks = none) (hclean : ks.any s.mem.poisoned = false) (source : Nat)
    (stopped abandon : Bool) (via : Nat → Nat) : s.eccRead ks .clean source stopped abandon via true = (s, false) := by
  unfold State.eccRead
  dsimp only
  rw [hclean, if_neg Bool.false_ne_true]
  have : (if true && Ecc.clean.errs.isEmpty && !false then s.fab.injectRead ks else none) = none := (if_pos rfl).trans h
  rw [this]
  rfl

/-- A slot whose firing starts: RUNNING, its grant used. -/
def Slot.begun (x : Slot) : Slot := { x with st := .running, taken := false }

section
variable (s : State) (im : Image) (t k : Nat)
/-- The state of a slot that starts: RUNNING, its grant and one credit of each output edge gone (R110). -/
def State.begun : State := { s with fab := (s.fab.takeCredits (im.descAt (s.fab.slot t k).desc).outEdges).setSlot t k (s.fab.slot t k).begun }

theorem State.startFiring_eq (e : Ecc) (faults : List ArrayFault) : s.startFiring im t k e faults =
    let d := im.descAt (s.fab.slot t k).desc
    let r := (s.begun im t k).firingReads im t d e
    if r.2 then r.1.poisonStop t k ((im.firePlaces s.fab t d).any s.mem.poisoned)
    else (r.1.runFiring im t k ((s.adm.nextMb im s.fab t k).getD 0) faults).noteUnit t d.cls := rfl

theorem State.edge_begun (e : Nat) : ∃ c, (s.begun im t k).fab.edge e = { s.fab.edge e with credits := c } := Fab.edge_takeCredits ..

theorem State.firePlaces_begun (d : Desc) : im.firePlaces (s.begun im t k).fab t d = im.firePlaces s.fab t d :=
  im.firePlaces_congr (fun e => by
    obtain ⟨c, hc⟩ := s.edge_begun im t k e
    rw [hc]) t d

variable {s im t k}

/-- Unmarked data, no injection and no bad place: the firing reads and goes on (R114). -/
theorem State.firingReads_clean {d : Desc} (hclean : (im.firePlaces s.fab t d).any s.mem.poisoned = false)
    (hinj : ∀ a ∈ im.firePlaces s.fab t d, ∀ q, (placeUnit a, q) ∉ s.fab.inject) (hbad : ∀ e ∈ d.inEdges, (s.fab.edge e).bad = []) :
    (s.begun im t k).firingReads im t d .clean = (s.begun im t k, false) := by
  have hplaces := s.firePlaces_begun im t k d
  have hread : (s.begun im t k).eccRead (im.firePlaces (s.begun im t k).fab t d) .clean 0 true true placeAddr true = (s.begun im t k, false) := by
    rw [hplaces]
    refine State.eccRead_of_no_injection (s.begun im t k) (Fab.injectRead_none ?_) hclean ..
    have : (s.begun im t k).fab.inject = s.fab.inject := by
      unfold State.begun
      rw [Fab.takeCredits_eq]
      rfl
    rw [this]
    exact hinj
  have hnone : d.inEdges.any (fun e => ((s.begun im t k).fab.edge e).bad.contains ((s.begun im t k).fab.edge e).rd) = false := by
    rw [List.any_eq_false]
    intro e he
    obtain ⟨c, hc⟩ := s.edge_begun im t k e
    rw [hc, hbad e he]
    exact Bool.false_ne_true
  unfold State.firingReads
  rw [hread, hnone]
  rfl

theorem MemRegs.countCe_poisonRd (m : MemRegs) (k : Nat) : (m.countCe k).poisonRd = m.poisonRd := by
  unfold MemRegs.countCe
  split <;> rfl

theorem MemRegs.countUe_poisonRd (m : MemRegs) (k : Nat) : (m.countUe k).poisonRd = m.poisonRd := by
  unfold MemRegs.countUe
  split <;> rfl

theorem MemRegs.recordErr_poisonRd (m : MemRegs) (addr k source cyc : Nat) : (m.recordErr addr k source cyc).poisonRd = m.poisonRd := by
  unfold MemRegs.recordErr
  dsimp only
  split <;> rfl

theorem State.report_memr (s : State) (q : Report) : (s.report q).memr = s.memr := by simp

theorem State.corrected_poisonRd (s : State) (k addr : Nat) (inj : Bool) : (s.corrected k addr inj).memr.poisonRd = s.memr.poisonRd := by
  unfold State.corrected
  dsimp only
  rw [State.report_memr]
  split
  · rfl
  · exact MemRegs.countCe_poisonRd ..

theorem State.uncorrected_poisonRd (s : State) (k addr source : Nat) (stopped abandon inj : Bool) :
    (s.uncorrected k addr source stopped abandon inj).memr.poisonRd = s.memr.poisonRd := by
  have hcount : ((s.memr.countUe k).recordErr addr k source s.tmr.age).poisonRd = s.memr.poisonRd :=
    (MemRegs.recordErr_poisonRd ..).trans (MemRegs.countUe_poisonRd ..)
  unfold State.uncorrected
  dsimp only
  split
  · split <;> (rw [State.report_memr]; exact MemRegs.recordErr_poisonRd ..)
  · split <;> (rw [State.report_memr]; exact hcount)

/-- What errors met leave of a read's other effects. -/
theorem State.meetErrs_poisonRd (s : State) (us : List (Nat × List Nat)) (source : Nat) (stopped abandon : Bool) (via : Nat → Nat) (inj : Bool)
    (h : s.memr.poisonRd = true) : (s.meetErrs us source stopped abandon via inj).1.memr.poisonRd = true :=
  foldl_keeps (P := fun r : State × Bool => r.1.memr.poisonRd = true) (fun r u hr => by
    dsimp only
    unfold State.meetErr
    split
    · exact hr
    · split
      · exact hr
      · rw [State.corrected_poisonRd]; exact hr
      · rw [State.uncorrected_poisonRd]; exact hr) us h

/-- Marked data stops the firing, whatever errors its reads meet. -/
theorem State.firingReads_marked {d : Desc} (hmarked : (im.firePlaces s.fab t d).any s.mem.poisoned = true) (e : Ecc) :
    ((s.begun im t k).firingReads im t d e).2 = true ∧ ((s.begun im t k).firingReads im t d e).1.memr.poisonRd = true ∧
      ((s.begun im t k).firingReads im t d e).1.mem.bytes = s.mem.bytes := by
  have hplaces := s.firePlaces_begun im t k d
  have hmarked' : (im.firePlaces (s.begun im t k).fab t d).any (s.begun im t k).mem.poisoned = true := by rw [hplaces]; exact hmarked
  unfold State.firingReads State.eccRead
  dsimp only
  rw [hmarked', if_pos rfl]
  have : (if true && e.errs.isEmpty && !true then (s.begun im t k).fab.injectRead (im.firePlaces (s.begun im t k).fab t d) else none) = none := if_neg (by simp)
  rw [this]
  exact ⟨rfl, State.meetErrs_poisonRd _ _ _ _ _ _ _ rfl, State.meetErrs_bytes ..⟩

end

/-- A firing stopped for poison (R114). -/
theorem State.poisonStop_spec (s : State) (t k : Nat) (marked : Bool) : ((s.poisonStop t k marked).fab.slot t k).st = .stopped ∧
    ((s.poisonStop t k marked).fab.tiles.at t).poisonIn = true ∧ (s.poisonStop t k marked).memr = s.memr ∧ (s.poisonStop t k marked).mem = s.mem := by
  have habandon : ∀ u : State, u.abandon.fab.slots = u.fab.slots ∧ u.abandon.fab.tiles = u.fab.tiles ∧ u.abandon.memr = u.memr ∧ u.abandon.mem = u.mem := fun u => by
    unfold State.abandon
    split
    · exact ⟨rfl, rfl, rfl, rfl⟩
    · split <;> exact ⟨rfl, rfl, rfl, rfl⟩
  have hnote : ∀ u : State, u.fab.slots = (s.fab.stopSlot t k).slots → u.fab.tiles = s.fab.tiles.mod t (fun r => { r with poisonIn := true }) →
      u.memr = s.memr → u.mem = s.mem → ∀ cls, ((u.noteUnit t cls).fab.slot t k).st = .stopped ∧ ((u.noteUnit t cls).fab.tiles.at t).poisonIn = true ∧
        (u.noteUnit t cls).memr = s.memr ∧ (u.noteUnit t cls).mem = s.mem := by
    intro u hslots htiles hmemr hmem cls
    have hslot : (u.fab.slot t k).st = .stopped := (congrArg (fun m : Sparse Slot => (m.at (16 * t + k)).st) hslots).trans
      (congrArg Slot.st (Sparse.at_put_self s.fab.slots (16 * t + k) { s.fab.slot t k with st := .stopped }))
    unfold State.noteUnit
    rw [State.noteReady_eq]
    exact ⟨hslot, by rw [htiles, Sparse.at_mod_self], hmemr, hmem⟩
  unfold State.poisonStop
  dsimp only
  split
  · obtain ⟨hslots, htiles, hmemr, hmem⟩ := habandon { s with fab := (s.fab.stopSlot t k).modTile t fun r => { r with poisonIn := true } }
    exact hnote _ hslots htiles hmemr hmem _
  · exact hnote { s with fab := (s.fab.stopSlot t k).modTile t fun r => { r with poisonIn := true } } rfl rfl rfl rfl _

/-- What the array's taking of an attempt leaves, and that it holds the product. -/
theorem Fab.takeAttempt_spec (f : Fab) (d : Desc) (x : Firing) (o : FireOut) : (f.takeAttempt d x o).slots = f.slots ∧
    (f.takeAttempt d x o).edges = f.edges ∧ (f.takeAttempt d x o).firings = f.firings ∧
    (isArray d.cls = true → ((f.takeAttempt d x o).array x.tile).holds x.slot = true) := by
  unfold Fab.takeAttempt
  dsimp only
  split
  · refine ⟨rfl, rfl, rfl, fun _ => ?_⟩
    unfold Fab.array Fab.modArray
    rw [Sparse.at_put_self]
    exact ArrayRegs.holds_accept ..
  · next h => exact ⟨rfl, rfl, rfl, fun h' => absurd h' h⟩

/-- The firing that a slot starts (R109, R110, R113). -/
structure Starts (s : State) (im : Image) (t k : Nat) (x : Firing) : Prop where
  tile : x.tile = t
  slot : x.slot = k
  num : x.num = (s.fab.slot t k).count
  phase : x.phase = if isArray (im.descAt (s.fab.slot t k).desc).cls && !(im.descAt (s.fab.slot t k).desc).abftOff then .verdict
    else if (im.descAt (s.fab.slot t k).desc).cls = 6 then .data else .send
  outs : x.outs.map (fun b => (b.edge, b.place)) = (im.descAt (s.fab.slot t k).desc).outEdges.map fun e => (e, (s.fab.edge e).wr)

/-- An attempt's firing, as it is built up. -/
theorem State.attempt_fst (s : State) (im : Image) (d : Desc) (x : Firing) (faults : List ArrayFault) :
    (s.attempt im d x faults).1.tile = x.tile ∧ (s.attempt im d x faults).1.slot = x.slot ∧ (s.attempt im d x faults).1.num = x.num ∧
      (s.attempt im d x faults).1.phase = x.phase ∧
      (s.attempt im d x faults).1.outs.map (fun b => (b.edge, b.place)) = d.outEdges.map fun e => (e, (s.fab.edge e).wr) := by
  refine ⟨rfl, rfl, rfl, rfl, ?_⟩
  unfold State.attempt
  dsimp only
  rw [List.map_map]
  show d.outEdges.zipIdx.map ((fun e => (e, (s.fab.edge e).wr)) ∘ Prod.fst) = _
  rw [← List.map_map, List.zipIdx_map_fst]

/-- The state once an attempt is taken: its firing runs, and one with ABFT_OFF is counted (R113, R518). -/
def State.ran (s : State) (d : Desc) (f : Fab) (x : Firing) (o : FireOut) : State :=
  let f := f.takeAttempt d x o
  let f := if d.abftOff then f.modTile x.tile fun r => { r with abftOff := satAdd r.abftOff 1, abftOffSeen := true } else f
  { s with fab := { f with firings := f.firings ++ [x] }, free := s.free + d.outEdges.length * 2 ^ 20
           flt := if d.abftOff then { s.flt with abftOffStep := true } else s.flt }

theorem State.ran_spec (s : State) (d : Desc) (f : Fab) (x : Firing) (o : FireOut) : (s.ran d f x o).fab.slots = f.slots ∧
    (s.ran d f x o).fab.edges = f.edges ∧ (s.ran d f x o).fab.firings = f.firings ++ [x] ∧
    (isArray d.cls = true → ((s.ran d f x o).fab.array x.tile).holds x.slot = true) ∧
    s.ran d f x o = { s with fab := (s.ran d f x o).fab, free := (s.ran d f x o).free
                             flt := { s.flt with abftOffStep := (s.ran d f x o).flt.abftOffStep } } := by
  obtain ⟨hslots, hedges, hfirings, hholds⟩ := f.takeAttempt_spec d x o
  unfold State.ran
  dsimp only
  cases d.abftOff
  · exact ⟨hslots, hedges, by rw [if_neg Bool.false_ne_true, hfirings], hholds, rfl⟩
  · exact ⟨hslots, hedges, congrArg (· ++ [x]) hfirings, hholds, rfl⟩

/-- The start of a firing whose data is read clean. -/
theorem State.runFiring_spec (s : State) (im : Image) (t k mb : Nat) (faults : List ArrayFault) : ∃ u x, s.runFiring im t k mb faults = u ∧ Starts s im t k x ∧
    u.fab.slots = s.fab.slots ∧ u.fab.edges = s.fab.edges ∧ u.fab.firings = s.fab.firings ++ [x] ∧
    (isArray (im.descAt (s.fab.slot t k).desc).cls = true → (u.fab.array t).holds k = true) ∧
    u = { s with fab := u.fab, free := u.free, flt := { s.flt with abftOffStep := u.flt.abftOffStep } } := by
  have hran : ∃ l x o, s.runFiring im t k mb faults = s.ran (im.descAt (s.fab.slot t k).desc) { s.fab with inject := l } x o ∧ Starts s im t k x := by
    unfold State.runFiring
    dsimp only
    generalize hinj : (if (isArray (im.descAt (s.fab.slot t k).desc).cls && !(im.descAt (s.fab.slot t k).desc).abftOff) = true then s.injectFiring im t
      else none) = inj
    cases inj with
    | none =>
      refine ⟨s.fab.inject, _, _, rfl, ?_⟩
      obtain ⟨htile, hslot, hnum, hphase, houts⟩ := s.attempt_fst im (im.descAt (s.fab.slot t k).desc) _ faults
      exact ⟨htile, hslot, hnum, hphase, houts⟩
    | some y =>
      obtain ⟨l, hl⟩ : ∃ l, y.1 = { s.fab with inject := l } := by
        split at hinj
        · exact State.injectFiring_fab hinj
        · contradiction
      dsimp only
      rw [hl]
      refine ⟨l, _, _, rfl, ?_⟩
      obtain ⟨htile, hslot, hnum, hphase, houts⟩ := s.attempt_fst im (im.descAt (s.fab.slot t k).desc) _ faults
      exact ⟨htile, hslot, hnum, hphase, houts⟩
  obtain ⟨l, x, o, heq, hx⟩ := hran
  obtain ⟨hslots, hedges, hfirings, hholds, hframe⟩ := s.ran_spec (im.descAt (s.fab.slot t k).desc) { s.fab with inject := l } x o
  rw [hx.tile, hx.slot] at hholds
  exact ⟨_, x, heq, hx, hslots, hedges, hfirings, hholds, hframe⟩

/-! The firing that starts -/

/-- What the start of a slot's firing on clean data leaves (R110). -/
def State.Started (s : State) (im : Image) (t k : Nat) (u : State) : Prop :=
  let d := im.descAt (s.fab.slot t k).desc
  ∃ x, Starts s im t k x ∧ (u.fab.slot t k).st = .running ∧ (u.fab.slot t k).taken = false ∧ u.fab.firings = s.fab.firings ++ [x] ∧
    (isArray d.cls = true → (u.fab.array t).holds k = true) ∧
    (∀ e ∈ d.outEdges, (u.fab.edge e).credits = (s.fab.edge e).credits - 1) ∧ (∀ e, e ∉ d.outEdges → u.fab.edge e = s.fab.edge e) ∧
    u = { s with fab := u.fab, free := u.free, flt := { s.flt with abftOffStep := u.flt.abftOffStep } }

theorem State.begun_spec (s : State) (im : Image) (t k : Nat) : (s.begun im t k).fab.slot t k = (s.fab.slot t k).begun ∧
    (s.begun im t k).fab.firings = s.fab.firings ∧ (s.begun im t k).fab.edges = (s.fab.takeCredits (im.descAt (s.fab.slot t k).desc).outEdges).edges ∧
    s.begun im t k = { s with fab := (s.begun im t k).fab } := by
  refine ⟨Fab.slot_setSlot_self .., ?_, rfl, rfl⟩
  unfold State.begun
  rw [Fab.takeCredits_eq]
  rfl

theorem State.startFiring_clean {s : State} {im : Image} {t k : Nat}
    (hclean : (im.firePlaces s.fab t (im.descAt (s.fab.slot t k).desc)).any s.mem.poisoned = false)
    (hinj : ∀ a ∈ im.firePlaces s.fab t (im.descAt (s.fab.slot t k).desc), ∀ q, (placeUnit a, q) ∉ s.fab.inject)
    (hbad : ∀ e ∈ (im.descAt (s.fab.slot t k).desc).inEdges, (s.fab.edge e).bad = []) (hnodup : (im.descAt (s.fab.slot t k).desc).outEdges.Nodup)
    (faults : List ArrayFault) : s.Started im t k (s.startFiring im t k .clean faults) := by
  obtain ⟨hslot, hfirings, hedges, hframe⟩ := s.begun_spec im t k
  obtain ⟨u, x, hu, hx, huslots, huedges, hufirings, huholds, huframe⟩ := (s.begun im t k).runFiring_spec im t k ((s.adm.nextMb im s.fab t k).getD 0) faults
  have hstart : s.startFiring im t k .clean faults = u.noteUnit t (im.descAt (s.fab.slot t k).desc).cls := by
    rw [State.startFiring_eq]
    dsimp only
    rw [State.firingReads_clean (k := k) hclean hinj hbad, ← hu]
    exact if_neg Bool.false_ne_true
  have hnote : ∀ cls, u.noteUnit t cls = { u with fab := { u.fab with readyLog := (u.noteUnit t cls).fab.readyLog } } := fun _ => State.noteReady_eq ..
  have hdesc : ((s.begun im t k).fab.slot t k).desc = (s.fab.slot t k).desc := (congrArg Slot.desc hslot :)
  have huslot : u.fab.slot t k = (s.fab.slot t k).begun := (congrArg (fun m : Sparse Slot => m.at (16 * t + k)) huslots).trans hslot
  have hedge : ∀ e, u.fab.edge e = (s.fab.takeCredits (im.descAt (s.fab.slot t k).desc).outEdges).edge e := fun e =>
    congrArg (fun m : Sparse EdgeSt => m.at e) (huedges.trans hedges)
  rw [hstart, hnote]
  refine ⟨x, ⟨hx.tile, hx.slot, ?_, ?_, ?_⟩, ?_, ?_, ?_, ?_, fun e he => ?_, fun e he => ?_, ?_⟩
  · rw [hx.num, hslot]; rfl
  · rw [hx.phase, hdesc]
  · rw [hx.outs, hdesc]
    refine List.map_congr_left fun e _ => ?_
    obtain ⟨c, hc⟩ := s.edge_begun im t k e
    rw [hc]
  · exact congrArg Slot.st huslot
  · exact congrArg Slot.taken huslot
  · exact hufirings.trans (by rw [hfirings])
  · rw [hdesc] at huholds
    exact huholds
  · exact (congrArg EdgeSt.credits (hedge e)).trans (Fab.edge_takeCredits_of_mem hnodup he _)
  · exact (hedge e).trans (Fab.edge_takeCredits_of_not_mem he _)
  · rw [huframe, hframe]

/-- A slot stopped because its data carries the poison mark (R114). -/
theorem State.startFiring_marked {s : State} {im : Image} {t k : Nat}
    (hmarked : (im.firePlaces s.fab t (im.descAt (s.fab.slot t k).desc)).any s.mem.poisoned = true) (e : Ecc) (faults : List ArrayFault) :
    ((s.startFiring im t k e faults).fab.slot t k).st = .stopped ∧ ((s.startFiring im t k e faults).fab.tiles.at t).poisonIn = true ∧
      (s.startFiring im t k e faults).memr.poisonRd = true ∧ ∀ a, (s.startFiring im t k e faults).mem.byte a = s.mem.byte a := by
  obtain ⟨hstop, hrd, hbytes⟩ := State.firingReads_marked (s := s) (k := k) hmarked e
  have hstart : s.startFiring im t k e faults = ((s.begun im t k).firingReads im t (im.descAt (s.fab.slot t k).desc) e).1.poisonStop t k
      ((im.firePlaces s.fab t (im.descAt (s.fab.slot t k).desc)).any s.mem.poisoned) := by
    rw [State.startFiring_eq]
    exact if_pos hstop
  obtain ⟨hst, hpoison, hmemr, hmem⟩ := ((s.begun im t k).firingReads im t (im.descAt (s.fab.slot t k).desc) e).1.poisonStop_spec t k
    ((im.firePlaces s.fab t (im.descAt (s.fab.slot t k).desc)).any s.mem.poisoned)
  rw [hstart]
  refine ⟨hst, hpoison, by rw [hmemr]; exact hrd, fun a => ?_⟩
  unfold Mem.byte
  rw [hmem, hbytes]

/-! The order of ready slots -/

/-- Slot k of a tile goes before slot j (R109). -/
def State.Before (s : State) (im : Image) (t k j : Nat) : Prop :=
  let pr := fun (n : Nat) => (im.descAt (s.fab.slot t n).desc).priority
  let since := fun (n : Nat) => (indexOf (· == (t, n)) s.fab.readyLog).getD s.fab.readyLog.length
  pr j < pr k ∨ (pr j = pr k ∧ (since k < since j ∨ (since k = since j ∧ k < j)))

theorem State.goesBefore_iff (s : State) (im : Image) (t k j : Nat) : s.goesBefore im t k j = true ↔ s.Before im t k j := by
  unfold State.goesBefore State.Before
  simp only [Bool.or_eq_true, Bool.and_eq_true, decide_eq_true_eq, beq_iff_eq]
  rw [eq_comm (a := (im.descAt (s.fab.slot t k).desc).priority)]

theorem State.Before.asymm {s : State} {im : Image} {t k j : Nat} (h : s.Before im t k j) : s.goesBefore im t j k = false := by
  rw [Bool.eq_false_iff, ne_eq, State.goesBefore_iff]
  unfold State.Before at *
  dsimp only at *
  omega

theorem State.goesBefore_self (s : State) (im : Image) (t k : Nat) : s.goesBefore im t k k = false := by
  rw [Bool.eq_false_iff, ne_eq, State.goesBefore_iff]
  unfold State.Before
  dsimp only
  omega

/-! The commands -/

/-- A command that starts a slot's firing, on clean data and on data that carries the mark. -/
def State.StartsBy (s : State) (im : Image) (c : Ecc → Instr) (t k : Nat) : Prop :=
  let d := im.descAt (s.fab.slot t k).desc
  ((im.firePlaces s.fab t d).any s.mem.poisoned = false → (∀ a ∈ im.firePlaces s.fab t d, ∀ q, (placeUnit a, q) ∉ s.fab.inject) →
    (∀ e ∈ d.inEdges, (s.fab.edge e).bad = []) → d.outEdges.Nodup →
    ∃ u x, exec (c .clean) s = .next u ∧ (u.fab.slot t k).st = .running ∧ (u.fab.slot t k).taken = false ∧ u.fab.firings = s.fab.firings ++ [x] ∧
      x.tile = t ∧ x.slot = k ∧ x.num = (s.fab.slot t k).count ∧
      x.phase = (if isArray d.cls = true ∧ d.abftOff = false then .verdict else if d.cls = 6 then .data else .send) ∧
      x.outs.map (fun b => (b.edge, b.place)) = d.outEdges.map (fun e => (e, (s.fab.edge e).wr)) ∧
      (isArray d.cls = true → (u.fab.array t).holds k = true) ∧
      (∀ e ∈ d.outEdges, (u.fab.edge e).credits = (s.fab.edge e).credits - 1) ∧ (∀ e, e ∉ d.outEdges → u.fab.edge e = s.fab.edge e) ∧
      u = { s with fab := u.fab, free := u.free, flt := { s.flt with abftOffStep := u.flt.abftOffStep } }) ∧
  ((im.firePlaces s.fab t d).any s.mem.poisoned = true → ∀ e, ∃ u, exec (c e) s = .next u ∧ (u.fab.slot t k).st = .stopped ∧
    (u.fab.tiles.at t).poisonIn = true ∧ u.memr.poisonRd = true ∧ ∀ a, u.mem.byte a = s.mem.byte a)

/-- The state with another fabric. -/
def State.onFab (s : State) (g : Fab) : State := { s with fab := g }

/-- A command starts a slot's firing when it does so on a fabric whose slots, edges, firings and injections are the state's. -/
theorem State.startsBy_of {s : State} {im : Image} {c : Ecc → Instr} {t k : Nat} {g : Fab} {faults : List ArrayFault}
    (hexec : ∀ e, exec (c e) s = .next ((s.onFab g).startFiring im t k e faults)) (hslots : g.slots = s.fab.slots)
    (hedges : g.edges = s.fab.edges) (hfirings : g.firings = s.fab.firings) (hinject : g.inject = s.fab.inject) : s.StartsBy im c t k := by
  have hslot : g.slot t k = s.fab.slot t k := congrArg (fun m : Sparse Slot => m.at (16 * t + k)) hslots
  have hedge : ∀ e, g.edge e = s.fab.edge e := fun e => congrArg (fun m : Sparse EdgeSt => m.at e) hedges
  have hplaces : im.firePlaces g t (im.descAt (g.slot t k).desc) = im.firePlaces s.fab t (im.descAt (s.fab.slot t k).desc) := by
    rw [im.firePlaces_congr (fun e => congrArg EdgeSt.rd (hedge e)), hslot]
  refine ⟨fun hclean hinj hbad hnodup => ?_, fun hmarked e => ?_⟩
  · obtain ⟨x, hx, hst, htaken, hf, hholds, hcredits, hothers, hframe⟩ := State.startFiring_clean (s := { s with fab := g }) (im := im) (t := t) (k := k)
      (by rw [hplaces]; exact hclean) (by rw [hplaces]; exact hinject ▸ hinj) (by rw [hslot]; exact fun e he => (congrArg EdgeSt.bad (hedge e)).trans (hbad e he))
      (by rw [hslot]; exact hnodup) faults
    have hphase := hx.phase
    have houts := hx.outs
    rw [hslot] at hphase houts hholds hcredits hothers
    refine ⟨_, x, hexec _, hst, htaken, hf.trans (by rw [hfirings]), hx.tile, hx.slot, hx.num.trans (by rw [hslot]), ?_, ?_, hholds, fun e he => ?_,
      fun e he => ?_, hframe⟩
    · rw [hphase]
      exact if_congr (by simp) rfl rfl
    · exact houts.trans (List.map_congr_left fun e _ => by rw [hedge])
    · exact (hcredits e he).trans (by rw [hedge])
    · exact (hothers e he).trans (hedge e)
  · exact ⟨_, hexec e, State.startFiring_marked (s := { s with fab := g }) (by rw [hplaces]; exact hmarked) e faults⟩

section
variable {s : State} {im : Image} (himg : s.img = some im)
include himg

/-- The fabric as FIRING_START finds it: with `streamed` the product in front has streamed before. -/
def Fab.streamedAt (f : Fab) (im : Image) (t k : Nat) (streamed : Bool) : Fab :=
  if streamed && isArray (im.descAt (f.slot t k).desc).cls then f.modArray t ArrayRegs.streamed else f

omit himg in
theorem Fab.streamedAt_keeps (f : Fab) (im : Image) (t k : Nat) (streamed : Bool) : (f.streamedAt im t k streamed).slots = f.slots ∧
    (f.streamedAt im t k streamed).edges = f.edges ∧ (f.streamedAt im t k streamed).firings = f.firings ∧
    (f.streamedAt im t k streamed).inject = f.inject := by
  unfold Fab.streamedAt
  split <;> exact ⟨rfl, rfl, rfl, rfl⟩

/-- FIRING_START: its conditions, and the start. -/
theorem exec_firingStart (tile : BitVec 8) (slot : BitVec 4) (e : Ecc) (streamed : Bool) (faults : List ArrayFault) :
    exec (.firingStart tile slot e streamed faults) s = .next
      (let d := im.descAt (s.fab.slot tile.toNat slot.toNat).desc
       let v := s.onFab (s.fab.streamedAt im tile.toNat slot.toNat streamed)
       let beaten := (List.range 16).any fun j => unitOf (im.descAt (s.fab.slot tile.toNat j).desc).cls == unitOf d.cls && v.ready im tile.toNat j &&
         v.goesBefore im tile.toNat j slot.toNat
       if d.cls ≠ 9 && !s.gated tile.toNat d.cls && v.ready im tile.toNat slot.toNat && !beaten then v.startFiring im tile.toNat slot.toNat e faults else s) := by
  show execFiringStart tile slot e streamed faults s = _
  unfold execFiringStart Fab.streamedAt
  split
  · next h => rw [himg] at h; contradiction
  · next im' h =>
    obtain rfl : im = im' := Option.some.inj (himg.symm.trans h)
    dsimp only
    cases streamed && isArray (im.descAt (s.fab.slot tile.toNat slot.toNat).desc).cls
    · rfl
    · rfl

end

/-! The stem engine's turn -/

section
variable (s : State) (im : Image) (g t : Nat)

/-- A slot that waits for the stem engine of a region. -/
def State.StemWaits (k : Nat) : Prop :=
  regionOf t = g ∧ t < 256 ∧ k < 16 ∧ (im.descAt (s.fab.slot t k).desc).cls = 9 ∧ s.ready im t k = true

/-- The ready STEM slots of a tile, and the one that goes before the others (R109). -/
def State.stemSlots : List Nat := (List.range 16).filter fun k => (im.descAt (s.fab.slot t k).desc).cls == 9 && s.ready im t k
def State.stemBest : Option Nat := (s.stemSlots im t).find? fun k => (s.stemSlots im t).all fun j => !s.goesBefore im t j k

/-- The tiles of a region from the one after the tile served last on (R231), and the slot to serve. -/
def State.stemOrder : List Nat :=
  (((List.range 256).filter fun t => regionOf t == g).filter fun t => decide (s.fab.stem.at g ≤ t)) ++
    ((List.range 256).filter fun t => regionOf t == g).filter fun t => decide (t < s.fab.stem.at g)
def State.stemPick : Option (Nat × Nat) :=
  if s.pwr.gate.at g then none else (s.stemOrder g).findSome? fun t => (s.stemBest im t).map fun k => (t, k)

/-- How many tiles stand before a tile in the order. -/
def State.stemTurn : Nat := (t + 256 - s.fab.stem.at g) % 256

variable {s im g t}

theorem State.mem_stemSlots {k : Nat} : k ∈ s.stemSlots im t ↔ k < 16 ∧ (im.descAt (s.fab.slot t k).desc).cls = 9 ∧ s.ready im t k = true := by
  simp [State.stemSlots]

theorem State.mem_stemOrder : t ∈ s.stemOrder g ↔ t < 256 ∧ regionOf t = g := by
  simp only [State.stemOrder, List.mem_append, List.mem_filter, List.mem_range, beq_iff_eq, decide_eq_true_eq]
  omega

/-- The order serves the tiles by their turn. -/
theorem State.stemOrder_pairwise (h : s.fab.stem.at g ≤ 256) : (s.stemOrder g).Pairwise fun a b => s.stemTurn g a < s.stemTurn g b := by
  have hrange : ((List.range 256).filter fun t => regionOf t == g).Pairwise (· < ·) := List.Pairwise.filter _ List.pairwise_lt_range
  have hmem : ∀ t ∈ (List.range 256).filter fun t => regionOf t == g, t < 256 := fun t ht => List.mem_range.mp (List.mem_of_mem_filter ht)
  unfold State.stemOrder State.stemTurn
  refine List.pairwise_append.mpr ⟨?_, ?_, fun a ha b hb => ?_⟩
  · refine (List.Pairwise.filter _ hrange).imp_of_mem fun {a b} ha hb hab => ?_
    simp only [List.mem_filter, decide_eq_true_eq] at ha hb
    have := List.mem_range.mp hb.1.1
    omega
  · refine (List.Pairwise.filter _ hrange).imp_of_mem fun {a b} ha hb hab => ?_
    simp only [List.mem_filter, decide_eq_true_eq] at ha hb
    have := List.mem_range.mp hb.1.1
    omega
  · simp only [List.mem_filter, decide_eq_true_eq] at ha hb
    have := List.mem_range.mp ha.1.1
    omega

/-- A tile without a waiting slot is passed over. -/
theorem State.stemBest_none (h : ∀ k, ¬ s.StemWaits im g t k) (ht : t < 256) (hr : regionOf t = g) : s.stemBest im t = none := by
  have hnil : s.stemSlots im t = [] := by
    refine List.eq_nil_iff_forall_not_mem.mpr fun k hk => ?_
    obtain ⟨hk16, hcls, hready⟩ := State.mem_stemSlots.mp hk
    exact h k ⟨hr, ht, hk16, hcls, hready⟩
  unfold State.stemBest
  rw [hnil]
  rfl

/-- The slot that goes before the other waiting slots of its tile is the best. -/
theorem State.stemBest_some {k : Nat} (hk : s.StemWaits im g t k) (hbest : ∀ j, s.StemWaits im g t j → j ≠ k → s.Before im t k j) :
    s.stemBest im t = some k := by
  obtain ⟨hr, ht, hk16, hcls, hready⟩ := hk
  have hin : k ∈ s.stemSlots im t := State.mem_stemSlots.mpr ⟨hk16, hcls, hready⟩
  have hwaits : ∀ j ∈ s.stemSlots im t, s.StemWaits im g t j := fun j hj => by
    obtain ⟨hj16, hjcls, hjready⟩ := State.mem_stemSlots.mp hj
    exact ⟨hr, ht, hj16, hjcls, hjready⟩
  have hnodup : (s.stemSlots im t).Nodup := List.Nodup.filter _ List.nodup_range
  obtain ⟨as, bs, happ⟩ := List.append_of_mem hin
  unfold State.stemBest
  refine List.find?_eq_some_iff_append.mpr ⟨List.all_eq_true.mpr fun j hj => ?_, as, bs, happ, fun a ha => ?_⟩
  · by_cases hjk : j = k
    · rw [hjk, State.goesBefore_self]; rfl
    · rw [(hbest j (hwaits j hj) hjk).asymm]; rfl
  · have hne : a ≠ k := by
      rintro rfl
      rw [happ] at hnodup
      exact (List.nodup_append.mp hnodup).2.2 a ha a List.mem_cons_self rfl
    have hamem : a ∈ s.stemSlots im t := by rw [happ]; exact List.mem_append_left _ ha
    have hbefore := (s.goesBefore_iff im t k a).mpr (hbest a (hwaits a hamem) hne)
    rw [Bool.not_eq_true', List.all_eq_false]
    exact ⟨k, hin, by rw [hbefore]; exact Bool.false_ne_true⟩

theorem State.stemPick_some {k : Nat} (hk : s.StemWaits im g t k) (hgate : s.pwr.gate.at g = false) (hlast : s.fab.stem.at g ≤ 256)
    (hturn : ∀ t' k', s.StemWaits im g t' k' → t' ≠ t → s.stemTurn g t < s.stemTurn g t')
    (hbest : ∀ j, s.StemWaits im g t j → j ≠ k → s.Before im t k j) : s.stemPick im g = some (t, k) := by
  obtain ⟨as, bs, happ⟩ := List.append_of_mem (State.mem_stemOrder.mpr ⟨hk.2.1, hk.1⟩ : t ∈ s.stemOrder g)
  have hpair := State.stemOrder_pairwise hlast
  rw [happ] at hpair
  unfold State.stemPick
  rw [hgate, if_neg Bool.false_ne_true]
  refine List.findSome?_eq_some_iff.mpr ⟨as, t, bs, happ, by rw [State.stemBest_some hk hbest]; rfl, fun a ha => ?_⟩
  have hlt : s.stemTurn g a < s.stemTurn g t := (List.pairwise_append.mp hpair).2.2 a ha t List.mem_cons_self
  obtain ⟨ha256, har⟩ := State.mem_stemOrder.mp (happ ▸ List.mem_append_left _ ha : a ∈ s.stemOrder g)
  rw [State.stemBest_none (g := g) (fun j hj => ?_) ha256 har]
  · rfl
  · by_cases hat : a = t
    · rw [hat] at hlt
      omega
    · have := hturn a j hj hat
      omega

theorem State.stemPick_none (h : (∀ t' k', ¬ s.StemWaits im g t' k') ∨ s.pwr.gate.at g = true) : s.stemPick im g = none := by
  unfold State.stemPick
  split
  · rfl
  · next hg =>
    obtain h | h := h
    · refine List.findSome?_eq_none_iff.mpr fun a ha => ?_
      obtain ⟨ha256, har⟩ := State.mem_stemOrder.mp ha
      rw [State.stemBest_none (g := g) (h a) ha256 har]
      rfl
    · exact absurd h hg

end

/-- STEM_ENGINE_START: the slot picked starts. -/
theorem exec_stemEngineStart {s : State} {im : Image} (himg : s.img = some im) (g : BitVec 4) (e : Ecc) :
    (∀ t k, s.stemPick im g.toNat = some (t, k) →
      exec (.stemEngineStart g e) s = .next ((s.onFab { s.fab with stem := s.fab.stem.put g.toNat (t + 1) }).startFiring im t k e [])) ∧
    (s.stemPick im g.toNat = none → exec (.stemEngineStart g e) s = .next s) := by
  have hexec : ∀ r, s.stemPick im g.toNat = r → exec (.stemEngineStart g e) s = .next (match r with
      | some (t, k) => (s.onFab { s.fab with stem := s.fab.stem.put g.toNat (t + 1) }).startFiring im t k e []
      | none => s) := by
    rintro r rfl
    show execStemEngineStart g e s = _
    unfold execStemEngineStart
    split
    · next h => rw [himg] at h; contradiction
    · next im' h =>
      obtain rfl : im = im' := Option.some.inj (himg.symm.trans h)
      rfl
  exact ⟨fun t k h => hexec _ h, hexec none⟩

/-- Settles O42: the slot that goes before the others, or the stem engine's, and its start. -/
theorem firingsStart : Obligations.FiringsStart := by
  intro s im himg starts before
  refine ⟨fun tile slot streamed faults => ?_, fun g t k => ?_⟩
  · intro t k d v
    have hv : v = s.onFab (s.fab.streamedAt im t k streamed) := by
      show (if streamed && isArray d.cls then _ else _) = _
      unfold Fab.streamedAt
      cases hc : streamed && isArray d.cls
      · rw [if_neg Bool.false_ne_true]
        exact congrArg s.onFab (if_neg Bool.false_ne_true).symm
      · rw [if_pos rfl]
        exact congrArg s.onFab (if_pos rfl).symm
    refine ⟨fun hcls hgate hready hbefore => ?_, fun h e => ?_⟩
    · obtain ⟨hslots, hedges, hfirings, hinject⟩ := s.fab.streamedAt_keeps im t k streamed
      refine State.startsBy_of (c := fun e => .firingStart tile slot e streamed faults) (faults := faults) (fun e => ?_) hslots hedges hfirings hinject
      rw [hv] at hready hbefore
      have hfirst : ((List.range 16).any fun j => unitOf (im.descAt (s.fab.slot t j).desc).cls == unitOf d.cls &&
          (s.onFab (s.fab.streamedAt im t k streamed)).ready im t j && (s.onFab (s.fab.streamedAt im t k streamed)).goesBefore im t j k) = false := by
        refine List.any_eq_false.mpr fun j hj => ?_
        by_cases hjk : j = k
        · rw [hjk, State.goesBefore_self, Bool.and_false]
          exact Bool.false_ne_true
        · rw [Bool.and_eq_true, Bool.and_eq_true, beq_iff_eq]
          rintro ⟨⟨hunit, hr⟩, hgoes⟩
          have hb : (s.onFab (s.fab.streamedAt im t k streamed)).Before im t k j := hbefore j (List.mem_range.mp hj) hjk hunit hr
          exact Bool.false_ne_true (hb.asymm.symm.trans hgoes)
      refine (exec_firingStart himg tile slot e streamed faults).trans (congrArg Host.Outcome.next (if_pos ?_))
      rw [hready, hfirst, hgate, decide_eq_true hcls]
      rfl
    · refine (exec_firingStart himg tile slot e streamed faults).trans (congrArg Host.Outcome.next (if_neg ?_))
      obtain h | h := h
      · rw [hv] at h
        rw [h, Bool.and_false]
        exact Bool.false_ne_true
      · rw [h, Bool.not_true, Bool.and_false]
        exact Bool.false_ne_true
  · exact ⟨fun hw hgate hlast hturn hbest => State.startsBy_of
      (fun e => (exec_stemEngineStart himg g e).1 t k (State.stemPick_some hw hgate hlast hturn hbest)) rfl rfl rfl rfl,
      fun h e => (exec_stemEngineStart himg g e).2 (State.stemPick_none h)⟩

end Sys2Proof.Machine
end

section
/-! SUPPORT. O43: the checks of a row of a product (R187, R200, R205), then memory returns and checksum verdicts (R33, R110, R113, R114). -/

namespace Sys2Proof.Machine

/-! Integer columns -/

/-- The exact sum of products of two lines. -/
def dotInt (n : Nat) (xs ws : List Int) : Int := ∑ b ∈ Finset.range n, ∑ i ∈ Finset.range 32, xs.getD (32 * b + i) 0 * ws.getD (32 * b + i) 0

/-- The products of a block of two lines add up to their part of the exact sum. -/
theorem foldl_zipWith_piece {n b : Nat} {xs ws : List Int} (hb : b < n) (hx : xs.length = 32 * n) (hw : ws.length = 32 * n) :
    (List.zipWith (· * ·) (piece b xs) (piece b ws)).foldl (· + ·) 0 = ∑ i ∈ Finset.range 32, xs.getD (32 * b + i) 0 * ws.getD (32 * b + i) 0 := by
  have hlist : List.zipWith (· * ·) (piece b xs) (piece b ws) = (List.range 32).map fun i => xs.getD (32 * b + i) 0 * ws.getD (32 * b + i) 0 := by
    refine List.ext_getElem ?_ fun i h1 h2 => ?_
    · simp only [piece, List.length_zipWith, List.length_take, List.length_drop, List.length_map, List.length_range, hx, hw]
      omega
    · have hi : i < 32 := by simpa using h2
      simp only [piece, List.getElem_zipWith, List.getElem_take, List.getElem_drop, List.getElem_map, List.getElem_range,
        List.getD_eq_getElem _ _ (show 32 * b + i < xs.length by omega), List.getD_eq_getElem _ _ (show 32 * b + i < ws.length by omega)]
  rw [hlist, ← List.sum_eq_foldl]
  rfl

/-- Without faults a column sum is the exact sum of products, modulo 2^32 (R187). -/
theorem columnInt_eq_dotInt {n : Nat} {xs ws : List Int} (hx : xs.length = 32 * n) (hw : ws.length = 32 * n) {ov : Nat → Option W32}
    (hov : ∀ b, ov b = none) : columnInt xs ws ov = BitVec.ofInt 32 (dotInt n xs ws) := by
  have hprefix : ∀ k ≤ n, (List.range k).foldl (fun (a : W32) b => match ov b with
      | some v => v
      | none => a + BitVec.ofInt 32 ((List.zipWith (· * ·) (piece b xs) (piece b ws)).foldl (· + ·) 0)) 0 = BitVec.ofInt 32 (dotInt k xs ws) := by
    intro k
    induction k with
    | zero => exact fun _ => rfl
    | succ k ih =>
      intro hk
      rw [List.range_succ, List.foldl_append, ih (by omega)]
      simp only [List.foldl_cons, List.foldl_nil, hov]
      rw [foldl_zipWith_piece (Nat.lt_of_succ_le hk) hx hw, ← BitVec.ofInt_add]
      exact congrArg (BitVec.ofInt 32) (Finset.sum_range_succ _ k).symm
  have hlen : xs.length / 32 = n := by omega
  unfold columnInt
  rw [hlen]
  exact hprefix n (Nat.le_refl n)

/-- Exact sums are linear in the line. -/
theorem dotInt_sum (n : Nat) (xs : List Int) (ls : List (List Int)) :
    (ls.map (dotInt n xs)).sum = ∑ b ∈ Finset.range n, ∑ i ∈ Finset.range 32, xs.getD (32 * b + i) 0 * (ls.map fun l => l.getD (32 * b + i) 0).sum := by
  induction ls with
  | nil => simp
  | cons l ls ih => simp only [List.map_cons, List.sum_cons, ih, dotInt, ← Finset.sum_add_distrib, ← mul_add]

theorem sum_map_ofInt (l : List Int) : (l.map (BitVec.ofInt 32)).sum = BitVec.ofInt 32 l.sum := by
  induction l with
  | nil => rfl
  | cons a l ih => rw [List.map_cons, List.sum_cons, List.sum_cons, ih, BitVec.ofInt_add]

theorem ofInt_eq_of_dvd {a b : Int} (h : (2 ^ 32 : Int) ∣ a - b) : BitVec.ofInt 32 a = BitVec.ofInt 32 b := by
  refine BitVec.eq_of_toInt_eq ?_
  rw [BitVec.toInt_ofInt, BitVec.toInt_ofInt, Int.bmod_eq_bmod_iff_bmod_sub_eq_zero]
  exact Int.bmod_eq_zero_of_dvd (by simpa using h)

theorem toInt_getD (l : List Fl) (k : Nat) : (l.map Fl.toInt).getD k 0 = (l.getD k default).toInt := by
  rw [show (0 : Int) = Fl.toInt default from rfl, List.getD_map]

section
variable {c : Column} {xs : List Fl}

/-- The outputs of a row on an integer path. -/
theorem Column.rowInt_y (c : Column) (xs : List Fl) (f : RowFaults) :
    (c.rowInt xs f).y = c.lines.zipIdx.map fun p => columnInt (xs.map Fl.toInt) (p.1.1.map Fl.toInt) (f.sum p.2) := rfl

/-- A row passes its check exactly where its outputs add up to the sum of the checksum column (R200). -/
theorem Column.rowInt_fail (c : Column) (xs : List Fl) (f : RowFaults) : (c.rowInt xs f).fail =
    if (c.rowInt xs f).y.sum = columnInt (xs.map Fl.toInt) (c.sums.map Fl.toInt) f.check then none else some (lastStage xs) := by
  rw [List.sum_eq_foldl]
  rfl

/-- Where the sealed sums are those of the lines, modulo 2^32, the outputs without faults add up to the checksum column's sum. -/
theorem Column.rowInt_sum (hx : xs.length % 32 = 0) (hs : c.sums.length = xs.length) (hl : ∀ l ∈ c.lines, l.1.length = xs.length)
    (hseal : ∀ k < xs.length, ((c.sums.getD k default).toInt - (c.lines.map fun l => (l.1.getD k default).toInt).sum) % 2 ^ 32 = 0)
    {ov : Nat → Option W32} (hov : ∀ b, ov b = none) :
    (c.rowInt xs {}).y.sum = columnInt (xs.map Fl.toInt) (c.sums.map Fl.toInt) ov := by
  obtain ⟨n, hn⟩ : ∃ n, xs.length = 32 * n := ⟨xs.length / 32, by omega⟩
  have hxn : (xs.map Fl.toInt).length = 32 * n := (List.length_map _).trans hn
  have hy : (c.rowInt xs {}).y = ((c.lines.map fun l => l.1.map Fl.toInt).map (dotInt n (xs.map Fl.toInt))).map (BitVec.ofInt 32) := by
    rw [Column.rowInt_y]
    refine List.ext_getElem (by simp) fun i h1 h2 => ?_
    have hi : i < c.lines.length := by simpa using h1
    simp only [List.getElem_map, List.getElem_zipIdx]
    exact columnInt_eq_dotInt hxn ((List.length_map _).trans ((hl _ (List.getElem_mem hi)).trans hn)) fun _ => rfl
  rw [hy, sum_map_ofInt, columnInt_eq_dotInt hxn ((List.length_map _).trans (hs.trans hn)) hov, dotInt_sum]
  refine ofInt_eq_of_dvd ?_
  rw [dotInt, ← Finset.sum_sub_distrib]
  refine Finset.dvd_sum fun b hb => ?_
  rw [← Finset.sum_sub_distrib]
  refine Finset.dvd_sum fun i hi => ?_
  rw [← mul_sub]
  refine Dvd.dvd.mul_left ?_ _
  have hk := hseal (32 * b + i) (by have := Finset.mem_range.mp hb; have := Finset.mem_range.mp hi; omega)
  have hlines : ((c.lines.map fun l => l.1.map Fl.toInt).map fun l => l.getD (32 * b + i) 0) = c.lines.map fun l => (l.1.getD (32 * b + i) default).toInt := by
    rw [List.map_map]
    exact List.map_congr_left fun l _ => toInt_getD l.1 _
  rw [hlines, toInt_getD, dvd_sub_comm]
  exact Int.dvd_of_emod_eq_zero hk

/-- Faults in one line change its output and no other. -/
theorem Column.rowInt_y_set (c : Column) (xs : List Fl) {f : RowFaults} {o : Nat} (hf : ∀ j b, j ≠ o → f.sum j b = none) :
    (c.rowInt xs f).y = (c.rowInt xs {}).y.set o ((c.rowInt xs f).y.getD o 0) := by
  refine List.ext_getElem (by simp [Column.rowInt_y]) fun i h1 h2 => ?_
  rw [List.getElem_set]
  split
  · next hio => subst hio; rw [List.getD_eq_getElem _ _ h1]
  · next hio =>
    simp only [Column.rowInt_y, List.getElem_map, List.getElem_zipIdx, Nat.zero_add]
    rw [show f.sum i = (fun _ => none) from funext fun b => hf i b (Ne.symm hio)]

end

/-- R187, R200: an integer row without faults passes; faults of one line that change its sum fail the last stage. -/
theorem Column.rowInt_checks {c : Column} {xs : List Fl} (hx : xs.length % 32 = 0) (hs : c.sums.length = xs.length)
    (hl : ∀ l ∈ c.lines, l.1.length = xs.length)
    (hseal : ∀ k < xs.length, ((c.sums.getD k default).toInt - (c.lines.map fun l => (l.1.getD k default).toInt).sum) % 2 ^ 32 = 0) :
    (c.rowInt xs {}).fail = none ∧
    (∀ (f : RowFaults) (o : Nat), f.check = (fun _ => none) → (∀ j b, j ≠ o → f.sum j b = none) →
      (c.rowInt xs f).y.getD o 0 ≠ (c.rowInt xs {}).y.getD o 0 → (c.rowInt xs f).fail = some (xs.length / 32 - 1)) := by
  refine ⟨?_, fun f o hcheck hf hne => ?_⟩
  · rw [Column.rowInt_fail]
    exact if_pos (Column.rowInt_sum hx hs hl hseal fun _ => rfl)
  · rw [Column.rowInt_fail]
    refine if_neg fun h => hne ?_
    rw [← Column.rowInt_sum hx hs hl hseal fun b => congrFun hcheck b, Column.rowInt_y_set c xs hf, List.sum_set'] at h
    have hlen : (c.rowInt xs f).y.length = (c.rowInt xs {}).y.length := by simp [Column.rowInt_y]
    split at h
    · next ho =>
      rw [add_eq_left, neg_add_eq_zero] at h
      rw [List.getD_eq_getElem _ _ ho, h]
    · next ho => rw [List.getD_eq_default _ _ (by omega), List.getD_eq_default _ _ (by omega)]

/-! Block-scaled columns -/

/-- The block sums of every line. -/
def Column.blockSums (c : Column) (xs : List Fl) (f : RowFaults) : List (List Fl) := c.lines.zipIdx.map fun p => lineSums xs p.1.1 (f.sum p.2)

/-- The block values of every line. -/
def Column.blockVals (c : Column) (kv : Nat) (had : Bool) (xs : List Fl) (ex : List Nat) (f : RowFaults) : List (List F32) :=
  ((c.blockSums xs f).zip c.lines).map fun p => columnValues kv had p.1 ex p.2.2

/-- Whether a duplicated computation gives what the first gave. -/
def sameTwice (r : Option W32) (v : F32) : Bool := match r with | some w => w == v | none => true

/-- Whether the two computations of stage b agree in every line (R205). -/
def Column.agrees (c : Column) (kv : Nat) (had : Bool) (xs : List Fl) (ex : List Nat) (f : RowFaults) (b : Nat) : Bool :=
  (c.blockVals kv had xs ex f).zipIdx.all fun p => sameTwice (f.stage p.2 b) (p.1.getD b 0) && sameTwice (f.added p.2 b) (stageSum p.1 b)

/-- Whether stage b is left out of the compare of its sums (R205). -/
def Column.skips (c : Column) (kv : Nat) (ex : List Nat) (b : Nat) : Bool :=
  decide (32 * b < kv) && (ex.getD b 0 == 255 || (c.lines.map fun l => l.2.getD b 0).contains 255)

section
variable {c : Column} {kv : Nat} {had : Bool} {xs : List Fl} {ex : List Nat} {f : RowFaults} {b o : Nat} {l : List Fl × List Nat} {v : F32}

/-- The first stage that fails: one whose computations differ, or whose sums do where they are compared. -/
theorem Column.rowBlock_fail (c : Column) (kv : Nat) (had : Bool) (xs : List Fl) (ex : List Nat) (f : RowFaults) : ∃ same : Nat → Bool,
    (c.rowBlock kv had xs ex f).fail = (List.range (xs.length / 32)).find? fun b => !c.agrees kv had xs ex f b || !(c.skips kv ex b || same b) :=
  ⟨_, rfl⟩

theorem Column.rowBlock_y_length : (c.rowBlock kv had xs ex f).y.length = c.lines.length := by
  simp [Column.rowBlock]

theorem Column.not_fail_of_skipped (hagree : c.agrees kv had xs ex f b = true) (hskip : c.skips kv ex b = true) :
    (c.rowBlock kv had xs ex f).fail ≠ some b := by
  obtain ⟨same, hfail⟩ := c.rowBlock_fail kv had xs ex f
  rw [hfail]
  intro h
  have hbad := List.find?_some h
  rw [hagree, hskip] at hbad
  exact Bool.false_ne_true hbad

theorem Column.agrees_of_no_fault (hf : ∀ o, f.stage o b = none ∧ f.added o b = none) : c.agrees kv had xs ex f b = true := by
  refine List.all_eq_true.mpr fun p _ => ?_
  obtain ⟨hstage, hadded⟩ := hf p.2
  rw [hstage, hadded]
  rfl

theorem Column.skips_of_scale (hkv : 32 * b < kv) (h : ex.getD b 0 = 255 ∨ ∃ l ∈ c.lines, l.2.getD b 0 = 255) : c.skips kv ex b = true := by
  unfold Column.skips
  rw [decide_eq_true hkv, Bool.true_and, Bool.or_eq_true, beq_iff_eq, List.contains_iff_mem, List.mem_map]
  exact h

/-- A stage of the row whose two computations differ fails, unless an earlier one does. -/
theorem Column.fail_of_disagrees (hb : b < xs.length / 32) (h : c.agrees kv had xs ex f b = false) :
    ∃ a ≤ b, (c.rowBlock kv had xs ex f).fail = some a := by
  obtain ⟨same, hfail⟩ := c.rowBlock_fail kv had xs ex f
  rw [hfail]
  cases hfind : (List.range (xs.length / 32)).find? fun b => !c.agrees kv had xs ex f b || !(c.skips kv ex b || same b) with
  | none =>
    have hgood := List.find?_eq_none.mp hfind b (List.mem_range.mpr hb)
    rw [h] at hgood
    exact absurd rfl hgood
  | some a =>
    refine ⟨a, ?_, rfl⟩
    obtain ⟨_, i, hi, hia, hbefore⟩ := List.find?_eq_some_iff_getElem.mp hfind
    rw [List.getElem_range] at hia
    subst hia
    by_contra hlt
    have hgood := hbefore b (by omega)
    rw [List.getElem_range, h] at hgood
    exact Bool.false_ne_true hgood

/-- The block values of line o. -/
theorem Column.blockVals_getElem? (hl : c.lines[o]? = some l) :
    (c.blockVals kv had xs ex f)[o]? = some (columnValues kv had (lineSums xs l.1 (f.sum o)) ex l.2) := by
  have hsum : (c.blockSums xs f)[o]? = some (lineSums xs l.1 (f.sum o)) := by simp [Column.blockSums, hl]
  rw [Column.blockVals, List.getElem?_map, (List.getElem?_zip_eq_some (z := (_, _))).mpr ⟨hsum, hl⟩]
  rfl

theorem columnValues_getD {sums : List Fl} {ew : List Nat} (hb : b < sums.length) : (columnValues kv had sums ex ew).getD b 0 =
    blockValue (sums.getD b (.fin false 0 0)) (ex.getD b 0) (ew.getD b 0) had (decide (32 * b < kv)) := by
  rw [List.getD_eq_getElem _ _ (by simpa [columnValues] using hb), List.getD_eq_getElem _ _ hb]
  simp [columnValues]

/-- Both computations of line o agree where every line's do. -/
theorem Column.agrees_at (h : c.agrees kv had xs ex f b = true) (hl : c.lines[o]? = some l) :
    sameTwice (f.stage o b) ((columnValues kv had (lineSums xs l.1 (f.sum o)) ex l.2).getD b 0) = true ∧
    sameTwice (f.added o b) (stageSum (columnValues kv had (lineSums xs l.1 (f.sum o)) ex l.2) b) = true :=
  (Bool.and_eq_true _ _).mp (List.all_eq_true.mp h (_, o) (List.mem_zipIdx_iff_getElem?.mpr (Column.blockVals_getElem? hl)))

theorem Column.disagrees_of_stage (hb : b < xs.length / 32) (hl : c.lines[o]? = some l) (hf : f.stage o b = some v)
    (hne : v ≠ blockValue ((lineSums xs l.1 (f.sum o)).getD b (.fin false 0 0)) (ex.getD b 0) (l.2.getD b 0) had (decide (32 * b < kv))) :
    c.agrees kv had xs ex f b = false := by
  refine Bool.eq_false_iff.mpr fun h => hne ?_
  have hsame := (Column.agrees_at h hl).1
  rw [hf, columnValues_getD (by simpa [lineSums] using hb)] at hsame
  exact beq_iff_eq.mp hsame

theorem Column.disagrees_of_added (hl : c.lines[o]? = some l) (hf : f.added o b = some v)
    (hne : v ≠ stageSum (columnValues kv had (lineSums xs l.1 (f.sum o)) ex l.2) b) : c.agrees kv had xs ex f b = false := by
  refine Bool.eq_false_iff.mpr fun h => hne ?_
  have hsame := (Column.agrees_at h hl).2
  rw [hf] at hsame
  exact beq_iff_eq.mp hsame

end
end Sys2Proof.Machine
end

section
namespace Sys2Proof.Machine

/-! Steps that change one edge each -/

section
variable {step : Fab → Nat → Fab} (hne : ∀ f e j, j ≠ e → (step f e).edge j = f.edge j)
include hne

/-- Edges not named stay as they were. -/
theorem Fab.edge_foldl_of_not_mem {l : List Nat} {e : Nat} (h : e ∉ l) (f : Fab) : (l.foldl step f).edge e = f.edge e := by
  induction l generalizing f with
  | nil => rfl
  | cons j r ih =>
    rw [List.mem_cons, not_or] at h
    exact (ih h.2 _).trans (hne _ _ _ h.1)

/-- An edge named once is changed once. -/
theorem Fab.edge_foldl_of_mem (hself : ∀ f g e, f.edge e = g.edge e → (step f e).edge e = (step g e).edge e) {l : List Nat} (hn : l.Nodup) {e : Nat}
    (h : e ∈ l) (f : Fab) : (l.foldl step f).edge e = (step f e).edge e := by
  induction l generalizing f with
  | nil => exact absurd h List.not_mem_nil
  | cons j r ih =>
    obtain ⟨hj, hn⟩ := List.nodup_cons.mp hn
    rw [List.foldl_cons]
    by_cases hej : e = j
    · subst hej
      exact Fab.edge_foldl_of_not_mem hne hj _
    · rw [ih hn (List.mem_of_ne_of_mem hej h)]
      exact hself _ _ _ (hne _ _ _ hej)

end

/-! Input places freed -/

theorem Fab.credit_ne (im : Image) (f : Fab) {e j : Nat} (n : Nat) (h : j ≠ e) : (f.credit im e n).edge j = f.edge j := by
  unfold Fab.credit
  dsimp only
  split
  · exact Fab.edge_setEdge_ne _ _ h
  · rfl

theorem Fab.credit_of_edge {im : Image} {e : Nat} {r : EdgeRec} (hr : im.edge? e = some r) (f : Fab) (n : Nat) : (f.credit im e n).edge e =
    if r.prodTile = r.consTile then { f.edge e with credits := (f.edge e).credits + n } else { f.edge e with queued := (f.edge e).queued + n } := by
  unfold Fab.credit
  rw [hr]
  exact Fab.edge_setEdge_self ..

theorem Fab.credit_congr (im : Image) {f g : Fab} {e : Nat} (n : Nat) (h : f.edge e = g.edge e) : (f.credit im e n).edge e = (g.credit im e n).edge e := by
  cases hr : im.edge? e with
  | none =>
    unfold Fab.credit
    rw [hr]
    exact h
  | some r => rw [Fab.credit_of_edge hr, Fab.credit_of_edge hr, h]

theorem Fab.credit_eq (im : Image) (f : Fab) (e n : Nat) : ∃ m, f.credit im e n = { f with edges := m } := by
  unfold Fab.credit
  dsimp only
  split
  · exact ⟨_, rfl⟩
  · exact ⟨_, rfl⟩

/-- An input edge whose place is freed: a token less, a credit more here or on its way (R111). -/
theorem Fab.freeInput_of_edge {im : Image} {e : Nat} {r : EdgeRec} (hr : im.edge? e = some r) (f : Fab) : (f.freeInput im e).edge e =
    if r.prodTile = r.consTile then { f.edge e with tokens := (f.edge e).tokens - 1, credits := (f.edge e).credits + 1 }
    else { f.edge e with tokens := (f.edge e).tokens - 1, queued := (f.edge e).queued + 1 } := by
  unfold Fab.freeInput
  rw [Fab.credit_of_edge hr, Fab.edge_setEdge_self]

theorem Fab.freeInput_ne (im : Image) (f : Fab) (e j : Nat) (h : j ≠ e) : (f.freeInput im e).edge j = f.edge j :=
  (Fab.credit_ne im _ 1 h).trans (Fab.edge_setEdge_ne _ _ h)

theorem Fab.freeInput_congr (im : Image) (f g : Fab) (e : Nat) (h : f.edge e = g.edge e) : (f.freeInput im e).edge e = (g.freeInput im e).edge e := by
  refine Fab.credit_congr im 1 ?_
  rw [Fab.edge_setEdge_self, Fab.edge_setEdge_self, h]

theorem Fab.freeInputs_eq (im : Image) (f : Fab) (d : Desc) (freed : List Nat) : f.freeInputs im d freed = { f with edges := (f.freeInputs im d freed).edges } := by
  have h : ∃ m, f.freeInputs im d freed = { f with edges := m } := foldl_keeps (P := fun g : Fab => ∃ m, g = { f with edges := m })
    (fun g e ⟨m, hm⟩ => by
      subst hm
      exact Fab.credit_eq im (({ f with edges := m } : Fab).setEdge e _) e 1) _ ⟨f.edges, rfl⟩
  obtain ⟨m, hm⟩ := h
  rw [hm]

theorem Fab.freeInputs_not_mem (im : Image) (f : Fab) {d : Desc} {freed : List Nat} {e : Nat} (h : e ∉ d.inEdges ∨ e ∈ freed) :
    (f.freeInputs im d freed).edge e = f.edge e := by
  refine Fab.edge_foldl_of_not_mem (fun f e j => Fab.freeInput_ne im f e j) (fun he => ?_) f
  obtain ⟨hin, hfreed⟩ := List.mem_filter.mp he
  obtain h | h := h
  · exact h hin
  · rw [List.contains_iff_mem.mpr h] at hfreed
    exact Bool.false_ne_true hfreed

theorem Fab.freeInputs_mem (im : Image) (f : Fab) {d : Desc} {freed : List Nat} {e : Nat} (hn : d.inEdges.Nodup) (he : e ∈ d.inEdges) (hf : e ∉ freed) :
    (f.freeInputs im d freed).edge e = (f.freeInput im e).edge e :=
  Fab.edge_foldl_of_mem (fun f e j => Fab.freeInput_ne im f e j) (Fab.freeInput_congr im) (hn.filter _)
    (List.mem_filter.mpr ⟨he, by rw [Bool.not_eq_true', List.contains_eq_mem]; exact decide_eq_false hf⟩) f

/-! A MEM_LOAD's block comes back -/

theorem State.moved_length (s : State) (im : Image) (d : Desc) (bs : List Byte) : (s.moved im d bs).length = bs.length := by
  unfold State.moved
  split
  · simp [freeBytes]
  · rfl

theorem State.moved_of_undisturbed {s : State} (h : s.adm.disturbed = false) (im : Image) (d : Desc) (bs : List Byte) : s.moved im d bs = bs :=
  if_neg (by rw [h, Bool.false_and]; exact Bool.false_ne_true)

theorem State.moved_of_other {s : State} {im : Image} {d : Desc} (hcls : d.cls ≠ 7) (h : im.namesStash d = false) (bs : List Byte) : s.moved im d bs = bs :=
  if_neg (by rw [h, Bool.or_false, beq_false_of_ne hcls, Bool.and_false]; exact Bool.false_ne_true)

section
variable {s : State} {im : Image} {tile : BitVec 8} {slot : BitVec 4} {x : Firing}

theorem exec_memoryDropReturn (himg : s.img = some im) (hx : s.fab.firing? tile.toNat slot.toNat = some x) (e : Ecc) :
    exec (.memoryDropReturn tile slot e) s = .next (if x.phase ≠ .data then s else
      let p := s.eccRead (s.memPlaces im (im.descAt x.desc) x) e 0 true true im.addrOf
      if p.2 || s.fab.fenced.contains x.tile then p.1.poisonStop x.tile x.slot ((s.memPlaces im (im.descAt x.desc) x).any s.mem.poisoned)
      else
        let bs := s.moved im (im.descAt x.desc) (s.mem.read (s.memPlaces im (im.descAt x.desc) x))
        State.movedDraw (p.1.onFab (p.1.fab.setFiring { x with phase := .send, outs := x.outs.map fun b => { b with bytes := bs } })) bs.length) := by
  show execMemoryDropReturn tile slot e s = _
  unfold execMemoryDropReturn
  split
  · next im' x' hi hf =>
    obtain rfl := Option.some.inj (himg.symm.trans hi)
    obtain rfl := Option.some.inj (hx.symm.trans hf)
    rfl
  · next h => exact absurd hx (h im x himg)

theorem memoryDropReturn_clean (himg : s.img = some im) (hx : s.fab.firing? tile.toNat slot.toNat = some x) (hphase : x.phase = .data)
    (hclean : (s.memPlaces im (im.descAt x.desc) x).any s.mem.poisoned = false) (hfence : s.fab.fenced.contains x.tile = false) :
    exec (.memoryDropReturn tile slot .clean) s = .next (State.movedDraw (s.onFab (s.fab.setFiring
      { x with phase := .send
               outs := x.outs.map fun b => { b with bytes := s.moved im (im.descAt x.desc) (s.mem.read (s.memPlaces im (im.descAt x.desc) x)) } }))
      (s.memPlaces im (im.descAt x.desc) x).length) := by
  have hread : s.eccRead (s.memPlaces im (im.descAt x.desc) x) .clean 0 true true im.addrOf = (s, false) := by
    rw [State.eccRead_clean _ _ _ _ _ _ (.inr (.inl rfl)), hclean]
    rfl
  rw [exec_memoryDropReturn himg hx, if_neg (not_not.mpr hphase), hread]
  dsimp only
  rw [hfence, Bool.false_or, if_neg Bool.false_ne_true, State.moved_length]
  exact congrArg (fun n => Host.Outcome.next (State.movedDraw _ n)) (List.length_map _)

theorem memoryDropReturn_poisoned (himg : s.img = some im) (hx : s.fab.firing? tile.toNat slot.toNat = some x) (hphase : x.phase = .data)
    (h : (s.memPlaces im (im.descAt x.desc) x).any s.mem.poisoned = true ∨ s.fab.fenced.contains x.tile = true) (e : Ecc) :
    ∃ u, exec (.memoryDropReturn tile slot e) s = .next u ∧ (u.fab.slot x.tile x.slot).st = .stopped ∧
      (u.fab.tiles.at x.tile).poisonIn = true ∧ ∀ a, u.mem.byte a = s.mem.byte a := by
  have hold : (s.memPlaces im (im.descAt x.desc) x).any s.mem.poisoned = true →
      (s.eccRead (s.memPlaces im (im.descAt x.desc) x) e 0 true true im.addrOf).2 = true := fun hm => by
    unfold State.eccRead
    dsimp only
    rw [hm]
    rfl
  have hstop : ((s.eccRead (s.memPlaces im (im.descAt x.desc) x) e 0 true true im.addrOf).2 || s.fab.fenced.contains x.tile) = true := by
    obtain h | h := h
    · rw [hold h, Bool.true_or]
    · rw [h, Bool.or_true]
  obtain ⟨hst, hpoison, -, hmem⟩ := (s.eccRead (s.memPlaces im (im.descAt x.desc) x) e 0 true true im.addrOf).1.poisonStop_spec x.tile x.slot
    ((s.memPlaces im (im.descAt x.desc) x).any s.mem.poisoned)
  refine ⟨_, by rw [exec_memoryDropReturn himg hx, if_neg (not_not.mpr hphase)]; dsimp only; rw [if_pos hstop], hst, hpoison, fun a => ?_⟩
  unfold Mem.byte
  rw [hmem, State.eccRead_bytes]

end

/-! Verdicts -/

/-- The firing's product leaves the array as its verdict is given. -/
def State.judged (s : State) (x : Firing) : State := { s with fab := s.fab.modArray x.tile fun a => a.past x.slot }

/-- What a verdict does to the firing, before its tile's readiness is noted. -/
def State.verdict (s : State) (im : Image) (d : Desc) (x : Firing) (e : Ecc) (faults : List ArrayFault) : Option CheckFail → State
  | none => s.verdictPass im d x
  | some f => if x.again then s.verdictStop im d x f else if s.fab.fenced.contains x.tile then s else s.repeatFiring im d x f e faults

/-- Whether a check of the firing has failed (R113, R542). -/
def Firing.Fails (x : Firing) : Prop := x.fail ≠ none ∨ x.forced ≠ 0

/-- Whether the failed check is the partner's. -/
def Firing.failPartner (x : Firing) : Bool := match x.fail with | some f => f.partner | none => x.injPartner

/-- The tile whose check failed. -/
def Image.blamed (im : Image) (x : Firing) : Nat := if x.failPartner then (im.partner? x.tile).getD x.tile else x.tile

section
variable {s : State} {im : Image} {x : Firing}

theorem State.verdictFail_none (h : ¬ x.Fails) (s : State) (d : Desc) : s.verdictFail d x = none := by
  unfold Firing.Fails at h
  rw [not_or, not_not, not_not] at h
  unfold State.verdictFail
  rw [h.1]
  exact if_pos h.2

theorem State.verdictFail_some (h : x.Fails) (s : State) (d : Desc) : ∃ f, s.verdictFail d x = some f ∧ im.failTile x f = im.blamed x ∧
    ∀ g, x.fail = some g → f = g := by
  unfold State.verdictFail Image.blamed Firing.failPartner
  cases hf : x.fail with
  | some g => exact ⟨g, rfl, rfl, fun g' hg => Option.some.inj hg⟩
  | none =>
    obtain h | h := h
    · exact absurd hf h
    · exact ⟨_, if_neg h, rfl, fun _ => nofun⟩

theorem exec_checksumVerdict {tile : BitVec 8} {slot : BitVec 4} (himg : s.img = some im) (hx : s.fab.firing? tile.toNat slot.toNat = some x)
    (hphase : x.phase = .verdict) (e : Ecc) (faults : List ArrayFault) {r : Option CheckFail} (hr : (s.judged x).verdictFail (im.descAt x.desc) x = r) :
    exec (.checksumVerdict tile slot e faults) s = .next (((s.judged x).verdict im (im.descAt x.desc) x e faults r).noteReady [x.tile]) := by
  show execChecksumVerdict tile slot e faults s = _
  unfold execChecksumVerdict
  split
  · next im' x' hi hf =>
    obtain rfl := Option.some.inj (himg.symm.trans hi)
    obtain rfl := Option.some.inj (hx.symm.trans hf)
    rw [if_neg (not_not.mpr hphase), ← hr]
    unfold State.judged
    dsimp only
    cases State.verdictFail _ (im.descAt x.desc) x <;> rfl
  · next h => exact absurd hx (h im x himg)

end
end Sys2Proof.Machine
end

section
namespace Sys2Proof.Machine

section
variable (s : State) (im : Image) (x : Firing)

theorem State.noteReady_onFab (s : State) (ts : List Nat) : ∃ l, s.noteReady ts = s.onFab { s.fab with readyLog := l } := ⟨_, s.noteReady_eq ts⟩

/-- A report made by a state whose fabric has changed. -/
theorem State.report_onFab {s : State} (f : Fab) (r : Report) (h : s.ctl.state.awake = true) : (s.onFab f).report r =
    { s.onFab f with flt := s.flt.detect { r with abandon := r.abandon && s.adm.running, step := s.tmr.step.toNat, time := s.now, cyc := s.tmr.age } } :=
  State.report_of_awake (s := s.onFab f) r h

/-- The tiles' state once a verdict has passed (R111, R113). -/
def State.passed : Fab :=
  ((s.judged x).fab.setFiring { x with phase := .send, freed := (im.descAt x.desc).inEdges }).freeInputs im (im.descAt x.desc) x.freed

theorem State.passed_spec : (s.passed im x).firings =
      s.fab.firings.map (fun y => if y.tile == x.tile && y.slot == x.slot then { x with phase := .send, freed := (im.descAt x.desc).inEdges } else y) ∧
    (s.passed im x).slots = s.fab.slots ∧ (s.passed im x).tiles = s.fab.tiles := by
  unfold State.passed
  rw [Fab.freeInputs_eq]
  exact ⟨rfl, rfl, rfl⟩

theorem State.passed_edge_not_mem {a : Nat} (h : a ∉ (im.descAt x.desc).inEdges ∨ a ∈ x.freed) : (s.passed im x).edge a = s.fab.edge a :=
  Fab.freeInputs_not_mem im _ h

theorem State.passed_edge_mem {a : Nat} {r : EdgeRec} (hn : (im.descAt x.desc).inEdges.Nodup) (ha : a ∈ (im.descAt x.desc).inEdges) (hf : a ∉ x.freed)
    (hr : im.edge? a = some r) : ((s.passed im x).edge a).tokens = (s.fab.edge a).tokens - 1 ∧ ((s.passed im x).edge a).rd = (s.fab.edge a).rd ∧
      (if r.prodTile = r.consTile then ((s.passed im x).edge a).credits = (s.fab.edge a).credits + 1 ∧ ((s.passed im x).edge a).queued = (s.fab.edge a).queued
        else ((s.passed im x).edge a).credits = (s.fab.edge a).credits ∧ ((s.passed im x).edge a).queued = (s.fab.edge a).queued + 1) := by
  have hedge : (s.passed im x).edge a = if r.prodTile = r.consTile
      then { s.fab.edge a with tokens := (s.fab.edge a).tokens - 1, credits := (s.fab.edge a).credits + 1 }
      else { s.fab.edge a with tokens := (s.fab.edge a).tokens - 1, queued := (s.fab.edge a).queued + 1 } :=
    (Fab.freeInputs_mem im _ hn ha hf).trans (Fab.freeInput_of_edge hr _)
  rw [hedge]
  split
  · exact ⟨rfl, rfl, rfl, rfl⟩
  · exact ⟨rfl, rfl, rfl, rfl⟩

variable {s im x}

/-- A verdict that passes at the first attempt. -/
theorem State.verdictPass_first (h : x.again = false) : (s.judged x).verdictPass im (im.descAt x.desc) x = s.onFab (s.passed im x) :=
  if_pos (by rw [h]; rfl)

/-- A verdict that passes at the repeat: the first attempt's failure is recorded. -/
theorem State.verdictPass_again (h : x.again = true) : (s.judged x).verdictPass im (im.descAt x.desc) x =
    (s.onFab ((s.passed im x).modTile (im.failTile x (x.first.getD default)) fun r => { r with cksumRetry := true })).report
      (matrixReport (im.descAt x.desc) x (x.first.getD default)) :=
  if_neg (by rw [h]; exact Bool.false_ne_true)

/-- The tiles once a verdict passes: those of the first attempt but for the flag. -/
theorem State.verdictPass_fab : ∃ m l, (((s.judged x).verdictPass im (im.descAt x.desc) x).noteReady [x.tile]).fab =
    { s.passed im x with tiles := m, readyLog := l } := by
  obtain ⟨l, hl⟩ := ((s.judged x).verdictPass im (im.descAt x.desc) x).noteReady_onFab [x.tile]
  rw [hl]
  cases h : x.again with
  | false =>
    rw [State.verdictPass_first h]
    exact ⟨_, l, rfl⟩
  | true =>
    rw [State.verdictPass_again h, State.report_eq]
    exact ⟨_, l, rfl⟩

variable {tile : BitVec 8} {slot : BitVec 4}

theorem checksumVerdict_passes (himg : s.img = some im) (hx : s.fab.firing? tile.toNat slot.toNat = some x) (hphase : x.phase = .verdict) (hf : ¬ x.Fails)
    (faults : List ArrayFault) (e : Ecc) : exec (.checksumVerdict tile slot e faults) s =
      .next (((s.judged x).verdictPass im (im.descAt x.desc) x).noteReady [x.tile]) :=
  exec_checksumVerdict himg hx hphase e faults (State.verdictFail_none hf ..)

theorem checksumVerdict_waits (himg : s.img = some im) (hx : s.fab.firing? tile.toNat slot.toNat = some x) (hphase : x.phase = .verdict)
    (hagain : x.again = false) (hf : x.Fails) (hfence : s.fab.fenced.contains x.tile = true) (faults : List ArrayFault) (e : Ecc) :
    exec (.checksumVerdict tile slot e faults) s = .next ((s.judged x).noteReady [x.tile]) := by
  obtain ⟨f, hv, -, -⟩ := State.verdictFail_some (im := im) hf (s.judged x) (im.descAt x.desc)
  rw [exec_checksumVerdict himg hx hphase e faults hv]
  refine congrArg (fun u : State => Host.Outcome.next (u.noteReady [x.tile])) ?_
  exact (if_neg (by rw [hagain]; exact Bool.false_ne_true)).trans (if_pos hfence)

/-- The repeat's failure stops the slot (R113). -/
theorem checksumVerdict_stops (himg : s.img = some im) (hx : s.fab.firing? tile.toNat slot.toNat = some x) (hphase : x.phase = .verdict)
    (hagain : x.again = true) (hawake : s.ctl.state.awake = true) (hf : x.Fails) (faults : List ArrayFault) (e : Ecc) :
    ∃ u q, exec (.checksumVerdict tile slot e faults) s = .next u ∧ (u.fab.slot x.tile x.slot).st = .stopped ∧
      (u.fab.tiles.at (im.blamed x)).cksumFail = true ∧ (u.fab.tiles.at (im.blamed x)).fails = satAdd (s.fab.tiles.at (im.blamed x)).fails 1 ∧
      u.flt.reports = Report.enter q s.flt.reports ∧ q.cls = .matrix ∧ q.sev = .contained ∧ q.fenced = true ∧ q.unit = x.tile ∧ q.sub = x.slot ∧
      (∀ f, x.fail = some f → q.detail = f.row % 2 ^ 13 + f.stage % 8 * 2 ^ 13 + (if (im.descAt x.desc).cls = 2 then 2 ^ 16 else 0)) ∧ u.mem = s.mem := by
  obtain ⟨f, hv, hwho, hfail⟩ := State.verdictFail_some (im := im) hf (s.judged x) (im.descAt x.desc)
  obtain ⟨l, hl⟩ := ((s.judged x).verdictStop im (im.descAt x.desc) x f).noteReady_onFab [x.tile]
  have hexec : exec (.checksumVerdict tile slot e faults) s = .next (((s.judged x).verdictStop im (im.descAt x.desc) x f).noteReady [x.tile]) := by
    rw [exec_checksumVerdict himg hx hphase e faults hv]
    exact congrArg (fun u : State => Host.Outcome.next (u.noteReady [x.tile])) (if_pos hagain)
  have htiles : ((s.judged x).verdictStop im (im.descAt x.desc) x f).fab.tiles =
      s.fab.tiles.mod (im.blamed x) (fun r => { r with cksumFail := true, fails := satAdd r.fails 1 }) := by
    unfold State.verdictStop
    rw [State.report_eq, hwho]
    rfl
  have hreport : ((s.judged x).verdictStop im (im.descAt x.desc) x f).flt = s.flt.detect { matrixReport (im.descAt x.desc) x f with
      sev := .contained, stopped := true, fenced := true, abandon := true && s.adm.running, step := s.tmr.step.toNat, time := s.now, cyc := s.tmr.age } := by
    exact congrArg State.flt (State.report_onFab (s := s.judged x) _ _ hawake)
  have hslot : (((s.judged x).verdictStop im (im.descAt x.desc) x f).fab.slot x.tile x.slot).st = .stopped := by
    unfold State.verdictStop
    rw [State.report_eq]
    exact congrArg Slot.st (Fab.slot_setSlot_self ((s.judged x).fab.dropFiring x.tile x.slot) x.tile x.slot
      { (s.judged x).fab.slot x.tile x.slot with st := .stopped })
  have hmem : ((s.judged x).verdictStop im (im.descAt x.desc) x f).mem = s.mem := by
    unfold State.verdictStop
    rw [State.report_eq]
    rfl
  refine ⟨_, { matrixReport (im.descAt x.desc) x f with
      sev := .contained, stopped := true, fenced := true, abandon := true && s.adm.running, step := s.tmr.step.toNat, time := s.now, cyc := s.tmr.age },
    hexec, ?_, ?_, ?_, ?_, rfl, rfl, rfl, rfl, rfl, fun g hg => ?_, ?_⟩
  · rw [hl]; exact hslot
  · rw [hl]
    show (((s.judged x).verdictStop im (im.descAt x.desc) x f).fab.tiles.at (im.blamed x)).cksumFail = true
    rw [htiles, Sparse.at_mod_self]
  · rw [hl]
    show (((s.judged x).verdictStop im (im.descAt x.desc) x f).fab.tiles.at (im.blamed x)).fails = _
    rw [htiles, Sparse.at_mod_self]
  · rw [hl]
    exact congrArg Flt.reports hreport
  · rw [← hfail g hg]
    rfl
  · rw [hl]; exact hmem

/-! The repeat -/

/-- Unmarked data, no injection and no bad place: a firing reads and goes on (R114). -/
theorem State.firingReads_of_clean {s : State} {im : Image} {t : Nat} {d : Desc} (hclean : (im.firePlaces s.fab t d).any s.mem.poisoned = false)
    (hinj : ∀ a ∈ im.firePlaces s.fab t d, ∀ q, (placeUnit a, q) ∉ s.fab.inject) (hbad : ∀ e ∈ d.inEdges, (s.fab.edge e).bad = []) :
    s.firingReads im t d .clean = (s, false) := by
  have hnone : d.inEdges.any (fun e => (s.fab.edge e).bad.contains (s.fab.edge e).rd) = false := by
    rw [List.any_eq_false]
    intro e he
    rw [hbad e he]
    exact Bool.false_ne_true
  unfold State.firingReads
  rw [State.eccRead_of_no_injection s (Fab.injectRead_none hinj) hclean, hnone]
  rfl

theorem Fab.takeAttempt_tiles (f : Fab) (d : Desc) (x : Firing) (o : FireOut) : (f.takeAttempt d x o).tiles = f.tiles.mod x.tile fun r => r.attempt x := by
  unfold Fab.takeAttempt
  dsimp only
  split <;> rfl

/-- The firing whose attempt is made once more (R113). -/
def Firing.oncemore (x : Firing) (f : CheckFail) : Firing := { x with again := true, forced := x.forced - 1, first := some f }

/-- What the repeat of a firing on clean data leaves. -/
theorem State.repeatFiring_clean {s : State} {im : Image} {d : Desc} {x : Firing} (hclean : (im.firePlaces s.fab x.tile d).any s.mem.poisoned = false)
    (hinj : ∀ a ∈ im.firePlaces s.fab x.tile d, ∀ q, (placeUnit a, q) ∉ s.fab.inject) (hbad : ∀ a ∈ d.inEdges, (s.fab.edge a).bad = [])
    (f : CheckFail) (faults : List ArrayFault) : ∃ y, (s.repeatFiring im d x f .clean faults).fab.firings =
        s.fab.firings.map (fun z => if z.tile == x.tile && z.slot == x.slot then y else z) ∧
      y.tile = x.tile ∧ y.slot = x.slot ∧ y.again = true ∧ y.phase = x.phase ∧ y.forced = x.forced - 1 ∧ y.first = some f ∧
      y.outs.map (fun b => (b.edge, b.place, b.sent)) = d.outEdges.map (fun a => (a, (s.fab.edge a).wr, 0)) ∧
      (s.repeatFiring im d x f .clean faults).fab.tiles =
        (s.fab.tiles.mod (im.failTile x f) fun q => { q with retries := satAdd q.retries 1 }).mod x.tile (fun r => r.attempt y) ∧
      s.repeatFiring im d x f .clean faults = { s with fab := (s.repeatFiring im d x f .clean faults).fab, free := s.free + d.outEdges.length * 2 ^ 20 } := by
  have hreads := State.firingReads_of_clean hclean hinj hbad
  have heq : s.repeatFiring im d x f .clean faults =
      let u := s.onFab (s.fab.modTile (im.failTile x f) fun q => { q with retries := satAdd q.retries 1 })
      let a := u.attempt im d (x.oncemore f) faults
      { u with fab := (u.fab.setFiring a.1).takeAttempt d a.1 a.2, free := s.free + d.outEdges.length * 2 ^ 20 } := by
    unfold State.repeatFiring
    rw [hreads]
    exact if_neg Bool.false_ne_true
  rw [heq]
  dsimp only
  generalize hu : s.onFab (s.fab.modTile (im.failTile x f) fun q => { q with retries := satAdd q.retries 1 }) = u
  obtain ⟨htile, hslot, -, -, -⟩ := u.attempt_fst im d (x.oncemore f) faults
  obtain ⟨-, -, hfirings, -⟩ := (u.fab.setFiring (u.attempt im d (x.oncemore f) faults).1).takeAttempt_spec d (u.attempt im d (x.oncemore f) faults).1
    (u.attempt im d (x.oncemore f) faults).2
  have htiles := (u.fab.setFiring (u.attempt im d (x.oncemore f) faults).1).takeAttempt_tiles d (u.attempt im d (x.oncemore f) faults).1
    (u.attempt im d (x.oncemore f) faults).2
  refine ⟨(u.attempt im d (x.oncemore f) faults).1, ?_, htile, hslot, rfl, rfl, rfl, rfl, ?_, ?_, ?_⟩
  · refine hfirings.trans ?_
    unfold Fab.setFiring
    dsimp only
    rw [htile, hslot, ← hu]
    rfl
  · unfold State.attempt
    dsimp only
    rw [List.map_map, ← hu]
    show d.outEdges.zipIdx.map ((fun e => (e, (s.fab.edge e).wr, 0)) ∘ Prod.fst) = _
    rw [← List.map_map, List.zipIdx_map_fst]
  · refine htiles.trans ?_
    rw [htile, ← hu]
    rfl
  · rw [← hu]
    rfl

theorem checksumVerdict_repeats (himg : s.img = some im) (hx : s.fab.firing? tile.toNat slot.toNat = some x) (hphase : x.phase = .verdict)
    (hagain : x.again = false) (hf : x.Fails) (hfence : s.fab.fenced.contains x.tile = false)
    (hclean : (im.firePlaces s.fab x.tile (im.descAt x.desc)).any s.mem.poisoned = false)
    (hinj : ∀ a ∈ im.firePlaces s.fab x.tile (im.descAt x.desc), ∀ q, (placeUnit a, q) ∉ s.fab.inject)
    (hbad : ∀ a ∈ (im.descAt x.desc).inEdges, (s.fab.edge a).bad = []) (faults : List ArrayFault) :
    ∃ u y, exec (.checksumVerdict tile slot .clean faults) s = .next u ∧
      u.fab.firings = s.fab.firings.map (fun z => if z.tile == x.tile && z.slot == x.slot then y else z) ∧
      y.tile = x.tile ∧ y.slot = x.slot ∧ y.again = true ∧ y.phase = .verdict ∧ y.forced = x.forced - 1 ∧ (∀ f, x.fail = some f → y.first = some f) ∧
      y.outs.map (fun b => (b.edge, b.place, b.sent)) = (im.descAt x.desc).outEdges.map (fun a => (a, (s.fab.edge a).wr, 0)) ∧
      (u.fab.tiles.at (im.blamed x)).retries = satAdd (s.fab.tiles.at (im.blamed x)).retries 1 ∧
      (∀ t, t ≠ im.blamed x → t ≠ x.tile → u.fab.tiles.at t = s.fab.tiles.at t) ∧ u = { s with fab := u.fab, free := u.free } := by
  obtain ⟨f, hv, hwho, hfail⟩ := State.verdictFail_some (im := im) hf (s.judged x) (im.descAt x.desc)
  have hexec : exec (.checksumVerdict tile slot .clean faults) s =
      .next (((s.judged x).repeatFiring im (im.descAt x.desc) x f .clean faults).noteReady [x.tile]) := by
    rw [exec_checksumVerdict himg hx hphase .clean faults hv]
    refine congrArg (fun u : State => Host.Outcome.next (u.noteReady [x.tile])) ?_
    exact (if_neg (by rw [hagain]; exact Bool.false_ne_true)).trans (if_neg fun h => Bool.false_ne_true (hfence.symm.trans h))
  obtain ⟨l, hl⟩ := ((s.judged x).repeatFiring im (im.descAt x.desc) x f .clean faults).noteReady_onFab [x.tile]
  obtain ⟨y, hfirings, htile, hslot, hy, hyphase, hforced, hfirst, houts, htiles, hframe⟩ :=
    State.repeatFiring_clean (s := s.judged x) (d := im.descAt x.desc) (x := x) hclean hinj hbad f faults
  rw [hl] at hexec
  rw [hwho] at htiles
  refine ⟨_, y, hexec, hfirings, htile, hslot, hy, hyphase.trans hphase, hforced, fun g hg => by rw [hfirst, hfail g hg], houts, ?_, fun t hw ht => ?_, ?_⟩
  · show (((s.judged x).repeatFiring im (im.descAt x.desc) x f .clean faults).fab.tiles.at (im.blamed x)).retries = _
    rw [htiles]
    by_cases ht : im.blamed x = x.tile
    · rw [ht, Sparse.at_mod_self, Sparse.at_mod_self]
      rfl
    · rw [Sparse.at_mod_ne _ _ ht, Sparse.at_mod_self]
      rfl
  · show ((s.judged x).repeatFiring im (im.descAt x.desc) x f .clean faults).fab.tiles.at t = _
    rw [htiles, Sparse.at_mod_ne _ _ ht, Sparse.at_mod_ne _ _ hw]
    rfl
  · rw [hframe]
    rfl

end

/-- Settles O43: returns and verdicts by their outcome, and what the checks of a row find. -/
theorem returnsAndVerdicts : Obligations.ReturnsAndVerdicts := by
  refine ⟨fun s im tile slot x himg hx => ?_, fun c xs hlen hs hl hseal => Column.rowInt_checks hlen hs hl hseal,
    fun c kv had xs ex f b hb => ?_⟩
  · intro d places sent
    refine ⟨fun hphase => ⟨fun hclean hfence _ => ⟨fun hund => ?_, fun hdis => ?_⟩, fun h e => memoryDropReturn_poisoned himg hx hphase h e⟩,
      fun hphase e => ?_, fun hphase faults => ?_⟩
    · rw [memoryDropReturn_clean himg hx hphase hclean hfence, State.moved_of_undisturbed hund]
      exact congrArg Host.Outcome.next (if_neg fun h => Bool.false_ne_true (hund.symm.trans h))
    · refine ⟨s.moved im d (s.mem.read places), (State.moved_length ..).trans (List.length_map _), fun hcls hstash => State.moved_of_other hcls hstash _, ?_⟩
      rw [memoryDropReturn_clean himg hx hphase hclean hfence]
      exact congrArg Host.Outcome.next (if_pos hdis)
    · rw [exec_memoryDropReturn himg hx, if_pos hphase]
    · intro part who fails row
      refine ⟨fun hfails hnodup e => ?_, fun hagain hfails hfence e => ?_, fun hagain hfails hfence hclean hinj hbad => ?_,
        fun hagain hawake hfails e => checksumVerdict_stops himg hx hphase hagain hawake hfails faults e⟩
      · obtain ⟨m, l, hfab⟩ := State.verdictPass_fab (s := s) (im := im) (x := x)
        obtain ⟨hfirings, hslots, htiles⟩ := s.passed_spec im x
        obtain ⟨r, hr⟩ := ((s.judged x).verdictPass im d x).noteReady_onFab [x.tile]
        refine ⟨_, checksumVerdict_passes himg hx hphase hfails faults e, ?_⟩
        have hedge : ∀ a, (((s.judged x).verdictPass im d x).noteReady [x.tile]).fab.edge a = (s.passed im x).edge a := fun a => by
          rw [show (((s.judged x).verdictPass im d x).noteReady [x.tile]).fab = _ from hfab]
          rfl
        refine ⟨by rw [hfab]; exact hfirings, fun a ha hfreed q hq => ?_, fun a ha => (hedge a).trans (s.passed_edge_not_mem im x ha),
          by rw [hfab]; exact hslots, fun hagain => ?_, fun f hagain hfirst hawake => ?_⟩
        · rw [hedge a]
          exact s.passed_edge_mem im x hnodup ha hfreed hq
        · rw [hr, State.verdictPass_first hagain]
          exact ⟨htiles, rfl⟩
        · rw [hr, State.verdictPass_again hagain, hfirst, State.report_onFab _ _ hawake]
          refine ⟨_, rfl, ?_, rfl, rfl, rfl, rfl, rfl, rfl⟩
          show (((s.passed im x).tiles.mod (im.failTile x f) fun r => { r with cksumRetry := true }).at (im.failTile x f)).cksumRetry = true
          rw [Sparse.at_mod_self]
      · obtain ⟨l, hl⟩ := (s.judged x).noteReady_onFab [x.tile]
        refine ⟨_, (checksumVerdict_waits himg hx hphase hagain hfails hfence faults e).trans (congrArg Host.Outcome.next hl), rfl, rfl, rfl⟩
      · exact checksumVerdict_repeats himg hx hphase hagain hfails hfence hclean hinj hbad faults
  · exact ⟨Column.rowBlock_y_length, fun hkv hscale hnone => Column.not_fail_of_skipped (Column.agrees_of_no_fault hnone) (Column.skips_of_scale hkv hscale),
      fun o l v hl hstage hne => Column.fail_of_disagrees hb (Column.disagrees_of_stage hb hl hstage hne),
      fun o l v hl hadded hne => Column.fail_of_disagrees hb (Column.disagrees_of_added hl hadded hne)⟩

end Sys2Proof.Machine
end

section
/-! SUPPORT. O44: the end of a firing (R98, R110 to R112, R114, R238, R521). -/

namespace Sys2Proof.Machine

/-! What the firing writes -/

/-- The places that the result of a firing is stored at. -/
def State.stored (s : State) (im : Image) (d : Desc) (x : Firing) : List Nat :=
  match x.sram with
  | [] => []
  | (off, bs) :: _ =>
    if d.cls = 5 then bs.zipIdx.map fun p => im.sramPlace' x.tile (off + p.2)
    else if im.isAccStore d || s.storeDropped im d x then [] else s.memPlaces im d x

/-- Places of a block that passes within its tile. -/
def Image.passedPlaces (im : Image) (b : OutBlk) : List Nat :=
  let e := (im.edge? b.edge).getD default
  if e.prodTile = e.consTile then b.bytes.zipIdx.map fun p => im.sramPlace' e.consTile (e.placeOff b.place + p.2) else []

/-- Storing at distinct places without marks, the bytes stand there. -/
theorem Mem.read_write (m : Mem) {ks : List Nat} {bs : List Byte} (hn : ks.Nodup) (hl : ks.length = bs.length) (h : ks.any m.poisoned = false) :
    (m.write (ks.zip bs)).read ks = bs := by
  rw [Mem.write_of_unmarked fun c hc => ?_]
  · exact Mem.map_byte_setCells ks bs m hn hl
  · exact Bool.eq_false_iff.mpr (List.any_eq_false.mp h c.1 (List.of_mem_zip hc).1)

/-- A store of cells touches no place that none of them names. -/
theorem Mem.byte_write_of_not_mem (m : Mem) {cs : List (Nat × Byte)} {ks : List Nat} (hks : ∀ c ∈ cs, c.1 ∈ ks) {a : Nat} (ha : a ∉ ks) :
    (m.write cs).byte a = m.byte a := Mem.byte_write m cs fun c hc h => ha (h ▸ hks c hc)

section
variable {s : State} {im : Image} {d : Desc} {x : Firing}

theorem State.movedDraw_eq (s : State) (n : Nat) : ∃ k, s.movedDraw n = { s with free := k } ∧ (s.adm.disturbed = false → k = s.free) := by
  unfold State.movedDraw
  split
  · next h => exact ⟨_, rfl, fun hf => absurd (hf.symm.trans h) Bool.false_ne_true⟩
  · exact ⟨_, rfl, fun _ => rfl⟩

/-- The result of a firing touches the memory at its places alone, or is put with the contributions. -/
theorem State.writeResult_spec (s : State) (im : Image) (d : Desc) (x : Firing) : ∃ m c n, s.writeResult im d x =
      { s with mem := m, upd := { s.upd with contribs := c }, free := n } ∧ (s.adm.disturbed = false → n = s.free) ∧
    (∀ a, a ∉ s.stored im d x → m.byte a = s.mem.byte a) ∧
    (∀ off bs r, x.sram = (off, bs) :: r → s.adm.disturbed = false → (s.stored im d x).Nodup → (s.stored im d x).length = bs.length →
      (s.stored im d x).any s.mem.poisoned = false → m.read (s.stored im d x) = bs) := by
  unfold State.writeResult State.stored
  cases hx : x.sram with
  | nil => exact ⟨_, _, _, rfl, fun _ => rfl, fun _ _ => rfl, nofun⟩
  | cons p r =>
    obtain ⟨off, bs⟩ := p
    dsimp only
    by_cases h5 : d.cls = 5
    · rw [if_pos h5, if_pos h5]
      refine ⟨_, _, _, rfl, fun _ => rfl, fun a ha => Mem.byte_write_of_not_mem _ (fun c hc => ?_) ha, fun off' bs' r' heq _ hn _ hp => ?_⟩
      · obtain ⟨p, hp, rfl⟩ := List.mem_map.mp hc
        exact List.mem_map.mpr ⟨p, hp, rfl⟩
      · obtain ⟨⟨rfl, rfl⟩, rfl⟩ : (off = off' ∧ bs = bs') ∧ r = r' := by simpa using heq
        have hzip : (bs.zipIdx.map fun p => (im.sramPlace' x.tile (off + p.2), p.1)) = (bs.zipIdx.map fun p => im.sramPlace' x.tile (off + p.2)).zip bs := by
          conv_rhs => rw [← List.zipIdx_map_fst 0 bs]
          rw [List.zipIdx_map_fst, ← List.zip_map', List.zipIdx_map_fst]
        show (s.mem.write (bs.zipIdx.map fun p => (im.sramPlace' x.tile (off + p.2), p.1))).read _ = bs
        rw [hzip]
        exact Mem.read_write _ hn (by simp) hp
    · rw [if_neg h5, if_neg h5]
      obtain ⟨n, hn, hfree⟩ := s.movedDraw_eq (s.moved im d bs).length
      rw [hn]
      cases hacc : im.isAccStore d
      · cases hdrop : s.storeDropped im d x
        · have hdrop' : State.storeDropped { s with free := n } im d x = false := hdrop
          simp only [hdrop', Bool.or_self, Bool.false_eq_true, if_false]
          refine ⟨_, _, n, rfl, hfree, fun a ha => Mem.byte_write_of_not_mem _ (fun c hc => (List.of_mem_zip hc).1) ha, fun off' bs' r' heq hund hn hl hp => ?_⟩
          obtain ⟨⟨rfl, rfl⟩, rfl⟩ : (off = off' ∧ bs = bs') ∧ r = r' := by simpa using heq
          rw [State.moved_of_undisturbed hund]
          exact Mem.read_write _ hn hl hp
        · have hdrop' : State.storeDropped { s with free := n } im d x = true := hdrop
          simp only [hdrop', Bool.or_true, Bool.false_eq_true, if_false, if_true]
          refine ⟨_, _, n, rfl, hfree, fun _ _ => rfl, fun off' bs' r' heq _ _ hl _ => ?_⟩
          obtain ⟨⟨rfl, rfl⟩, rfl⟩ : (off = off' ∧ bs = bs') ∧ r = r' := by simpa using heq
          exact (List.eq_nil_of_length_eq_zero hl.symm).symm
      · rw [if_pos rfl, Bool.true_or, if_pos rfl]
        refine ⟨_, _, n, rfl, hfree, fun _ _ => rfl, fun off' bs' r' heq _ _ hl _ => ?_⟩
        obtain ⟨⟨rfl, rfl⟩, rfl⟩ : (off = off' ∧ bs = bs') ∧ r = r' := by simpa using heq
        exact (List.eq_nil_of_length_eq_zero hl.symm).symm

/-! Blocks that pass within a tile -/

/-- Memory and edges apart, the state is another's, and no read place of an edge has moved. -/
def State.LikeButPassed (s u : State) : Prop :=
  ∃ m e, u = { s with mem := m, fab := { s.fab with edges := e } } ∧ ∀ a, (u.fab.edge a).rd = (s.fab.edge a).rd

theorem Fab.token_eq (im : Image) (f : Fab) (e : Nat) (ok : Bool) : ∃ m, f.token im e ok = { f with edges := m } ∧
    ∀ a, ((f.token im e ok).edge a).rd = (f.edge a).rd := by
  refine ⟨_, rfl, fun a => ?_⟩
  unfold Fab.token
  by_cases h : a = e
  · rw [h, Fab.edge_setEdge_self]
  · rw [Fab.edge_setEdge_ne _ _ h]

theorem Fab.advanceWrite_eq (im : Image) (f : Fab) (e : Nat) : ∃ m, f.advanceWrite im e = { f with edges := m } ∧
    ∀ a, ((f.advanceWrite im e).edge a).rd = (f.edge a).rd := by
  refine ⟨_, rfl, fun a => ?_⟩
  unfold Fab.advanceWrite
  by_cases h : a = e
  · rw [h, Fab.edge_setEdge_self]
  · rw [Fab.edge_setEdge_ne _ _ h]

theorem State.passLocal_like {s u : State} (h : s.LikeButPassed u) (im : Image) (b : OutBlk) : s.LikeButPassed (u.passLocal im b) := by
  unfold State.passLocal
  dsimp only
  split
  · exact h
  · obtain ⟨m, e, rfl, hrd⟩ := h
    obtain ⟨e1, h1, hrd1⟩ := Fab.token_eq im { s.fab with edges := e } b.edge true
    obtain ⟨e2, h2, hrd2⟩ := Fab.advanceWrite_eq im (Fab.token im { s.fab with edges := e } b.edge true) b.edge
    have hrd' : ∀ a, (((Fab.token im { s.fab with edges := e } b.edge true).advanceWrite im b.edge).edge a).rd = (s.fab.edge a).rd :=
      fun a => (hrd2 a).trans ((hrd1 a).trans (hrd a))
    rw [h2, h1] at hrd'
    unfold State.LikeButPassed
    dsimp only
    rw [h2, h1]
    exact ⟨_, e2, rfl, hrd'⟩

theorem State.passLocal_byte (im : Image) (b : OutBlk) (s : State) {a : Nat} (h : a ∉ im.passedPlaces b) : (s.passLocal im b).mem.byte a = s.mem.byte a := by
  unfold Image.passedPlaces at h
  unfold State.passLocal
  dsimp only at h ⊢
  split
  · rfl
  · next hhere =>
    rw [if_pos (not_not.mp hhere)] at h
    refine Mem.byte_write_of_not_mem _ (fun c hc => ?_) h
    obtain ⟨p, hp, rfl⟩ := List.mem_map.mp hc
    exact List.mem_map.mpr ⟨p, hp, rfl⟩

/-- The state once the blocks of a firing that stay on its tile have passed. -/
def State.passAll (s : State) (im : Image) (outs : List OutBlk) : State := outs.foldl (fun s b => s.passLocal im b) s

theorem State.passAll_like (s : State) (im : Image) (outs : List OutBlk) : s.LikeButPassed (s.passAll im outs) :=
  foldl_keeps (P := s.LikeButPassed) (fun _ b h => State.passLocal_like h im b) outs ⟨_, _, rfl, fun _ => rfl⟩

theorem State.passAll_byte (im : Image) {outs : List OutBlk} {a : Nat} (h : a ∉ outs.flatMap im.passedPlaces) (s : State) :
    (s.passAll im outs).mem.byte a = s.mem.byte a := by
  induction outs generalizing s with
  | nil => rfl
  | cons b r ih =>
    rw [List.flatMap_cons, List.mem_append, not_or] at h
    exact (ih h.2 _).trans (State.passLocal_byte im b s h.1)

theorem State.passAll_away (im : Image) {outs : List OutBlk}
    (h : ∀ b ∈ outs, ¬ ((im.edge? b.edge).getD default).prodTile = ((im.edge? b.edge).getD default).consTile) (s : State) : s.passAll im outs = s := by
  induction outs generalizing s with
  | nil => rfl
  | cons b r ih =>
    have hb : s.passLocal im b = s := if_pos (h b List.mem_cons_self)
    show (s.passLocal im b).passAll im r = s
    rw [hb]
    exact ih (fun c hc => h c (List.mem_cons_of_mem _ hc)) s

/-! The firing is over -/

/-- The tiles once a firing is over, before its slot counts it. -/
def Fab.ended (f : Fab) (im : Image) (d : Desc) (x : Firing) : Fab :=
  let f := d.inEdges.foldl (Fab.advanceRead im) (f.freeInputs im d x.freed)
  let f := f.modArray x.tile fun a => if a.holds x.slot then a.past x.slot else a
  let f := (f.dropFiring x.tile x.slot).modTile x.tile fun r => { r with accLong := r.accLong || x.accLong }
  { f with q := f.q.mod x.desc (· + 1) }

theorem Fab.advanceRead_ne (im : Image) (f : Fab) (e j : Nat) (h : j ≠ e) : (f.advanceRead im e).edge j = f.edge j := Fab.edge_setEdge_ne _ _ h

theorem Fab.rd_freeInput (im : Image) (f : Fab) (e a : Nat) : ((f.freeInput im e).edge a).rd = (f.edge a).rd := by
  by_cases h : a = e
  · subst h
    cases hr : im.edge? a with
    | none =>
      unfold Fab.freeInput Fab.credit
      rw [hr]
      exact (congrArg EdgeSt.rd (Fab.edge_setEdge_self f a { f.edge a with tokens := (f.edge a).tokens - 1 })).trans rfl
    | some r =>
      rw [Fab.freeInput_of_edge hr]
      split <;> rfl
  · rw [Fab.freeInput_ne im f e a h]

theorem Fab.rd_freeInputs (im : Image) (f : Fab) (d : Desc) (freed : List Nat) (a : Nat) : ((f.freeInputs im d freed).edge a).rd = (f.edge a).rd :=
  foldl_keeps (P := fun g : Fab => (g.edge a).rd = (f.edge a).rd) (fun g e h => (Fab.rd_freeInput im g e a).trans h) _ rfl

theorem Fab.advanceRead_eq (im : Image) (f : Fab) (l : List Nat) : ∃ m, l.foldl (Fab.advanceRead im) f = { f with edges := m } :=
  foldl_keeps (P := fun g : Fab => ∃ m, g = { f with edges := m }) (fun g e ⟨m, hm⟩ => by subst hm; exact ⟨_, rfl⟩) l ⟨f.edges, rfl⟩

theorem Fab.ended_spec (f : Fab) (im : Image) (d : Desc) (x : Firing) : (f.ended im d x).slots = f.slots ∧
    (f.ended im d x).firing? x.tile x.slot = none ∧ (f.ended im d x).q = f.q.mod x.desc (· + 1) ∧
    (d.inEdges.Nodup → ∀ a ∈ d.inEdges, ∀ r, im.edge? a = some r → ((f.ended im d x).edge a).rd = ((f.edge a).rd + 1) % max r.capacity 1) ∧
    (∀ a, a ∉ d.inEdges → ((f.ended im d x).edge a).rd = (f.edge a).rd) := by
  have hedges : (f.ended im d x).edges = (d.inEdges.foldl (Fab.advanceRead im) (f.freeInputs im d x.freed)).edges := rfl
  have hedge : ∀ a, (f.ended im d x).edge a = (d.inEdges.foldl (Fab.advanceRead im) (f.freeInputs im d x.freed)).edge a := fun _ => rfl
  obtain ⟨m, hm⟩ := Fab.advanceRead_eq im (f.freeInputs im d x.freed) d.inEdges
  refine ⟨?_, ?_, ?_, fun hn a ha r hr => ?_, fun a ha => ?_⟩
  · show (d.inEdges.foldl (Fab.advanceRead im) (f.freeInputs im d x.freed)).slots = _
    rw [hm, Fab.freeInputs_eq]
  · refine List.find?_eq_none.mpr fun y hy => ?_
    have hother := (List.mem_filter.mp hy).2
    rw [Bool.not_eq_true'] at hother
    exact fun h => Bool.false_ne_true (hother.symm.trans h)
  · show (d.inEdges.foldl (Fab.advanceRead im) (f.freeInputs im d x.freed)).q.mod x.desc (· + 1) = _
    rw [hm, Fab.freeInputs_eq]
  · rw [hedge, Fab.edge_foldl_of_mem (fun f e j => Fab.advanceRead_ne im f e j) (fun f g e h => ?_) hn ha]
    · refine (congrArg EdgeSt.rd (Fab.edge_setEdge_self ..)).trans ?_
      show (((f.freeInputs im d x.freed).edge a).rd + 1) % max ((im.edge? a).getD default).capacity 1 = _
      rw [hr, Fab.rd_freeInputs]
      rfl
    · unfold Fab.advanceRead
      dsimp only
      rw [Fab.edge_setEdge_self, Fab.edge_setEdge_self, h]
  · rw [hedge, Fab.edge_foldl_of_not_mem (fun f e j => Fab.advanceRead_ne im f e j) ha, Fab.rd_freeInputs]

/-- A slot armed waits with its TAKE under way, or stays as it was. -/
theorem Image.arm_spec (im : Image) (x : Fab × Sync) (t k : Nat) : ∃ m w l, im.arm x t k = ({ x.1 with slots := m }, { x.2 with msgs := l }) ∧
    m.at (16 * t + k) = { x.1.slot t k with waiting := w } := by
  unfold Image.arm
  dsimp only
  split
  · exact ⟨_, _, _, rfl, rfl⟩
  · exact ⟨_, _, _, rfl, Sparse.at_put_self ..⟩

/-- The slot once its firing is counted (R112). -/
def Slot.counted (d : Desc) (sl : Slot) : Slot :=
  { sl with st := .idle, count := if d.firesPerMb ≤ sl.count + 1 then 0 else sl.count + 1, done := if d.firesPerMb ≤ sl.count + 1 then sl.done + 1 else sl.done }

theorem State.countFiring_spec (s : State) (im : Image) (d : Desc) (x : Firing) : ∃ m w l, s.countFiring im d x =
      { s with fab := { s.fab with slots := m }, sync := { s.sync with msgs := l } } ∧
    m.at (16 * x.tile + x.slot) = { (s.fab.slot x.tile x.slot).counted d with waiting := w } := by
  unfold State.countFiring
  dsimp only
  generalize s.sync.msgs ++ _ = l
  obtain ⟨m, w, l', heq, hslot⟩ := im.arm_spec (s.fab.setSlot x.tile x.slot ((s.fab.slot x.tile x.slot).counted d), { s.sync with msgs := l }) x.tile x.slot
  refine ⟨m, w, l', ?_, ?_⟩
  · exact congrArg (fun fx : Fab × Sync => ({ s with fab := fx.1, sync := fx.2 } : State)) heq
  · rw [hslot, Fab.slot_setSlot_self]

theorem State.enqueueSpoon_spec (s : State) (x : Firing) : ∃ p t, s.enqueueSpoon x = { s with fab := { s.fab with spoon := p }, sites := t } :=
  foldl_keeps (P := fun u : State => ∃ p t, u = { s with fab := { s.fab with spoon := p }, sites := t }) (fun u j ⟨p, t, hu⟩ => by
    subst hu
    dsimp only
    split <;> exact ⟨_, _, rfl⟩) x.spoon ⟨_, _, rfl⟩

theorem Adm.freeArea_eq (im : Image) (a : Adm) (f : Fab) : ∃ r, a.freeArea im f = { a with area := r } := by
  unfold Adm.freeArea
  split
  · split <;> exact ⟨_, rfl⟩
  · exact ⟨_, rfl⟩

/-- What the end of a firing does once its result is stored and its local blocks have passed. -/
def State.endFiring (s : State) (im : Image) (d : Desc) (x : Firing) : State :=
  let u := (State.enqueueSpoon { s with fab := s.fab.ended im d x, sites := s.sites.firing im d x } x).countFiring im d x
  ({ u with adm := u.adm.freeArea im u.fab }).noteUnit x.tile d.cls

theorem State.endFiring_spec (s : State) (im : Image) (d : Desc) (x : Firing) :
    let u := s.endFiring im d x
    let sl := s.fab.slot x.tile x.slot
    u.fab.firing? x.tile x.slot = none ∧ (u.fab.slot x.tile x.slot).st = .idle ∧
      (u.fab.slot x.tile x.slot).count = (if d.firesPerMb ≤ sl.count + 1 then 0 else sl.count + 1) ∧
      (u.fab.slot x.tile x.slot).done = (if d.firesPerMb ≤ sl.count + 1 then sl.done + 1 else sl.done) ∧
      u.fab.q = s.fab.q.mod x.desc (· + 1) ∧ (∀ a, u.fab.edge a = (s.fab.ended im d x).edge a) ∧
      u = { s with fab := u.fab, sites := u.sites, adm := { s.adm with area := u.adm.area }, sync := { s.sync with msgs := u.sync.msgs } } := by
  obtain ⟨hslots, hfiring, hq, -, -⟩ := s.fab.ended_spec im d x
  unfold State.endFiring
  dsimp only
  obtain ⟨p, t, hspoon⟩ := State.enqueueSpoon_spec { s with fab := s.fab.ended im d x, sites := s.sites.firing im d x } x
  rw [hspoon]
  obtain ⟨m, w, l, hcount, hslot⟩ := State.countFiring_spec { s with fab := { s.fab.ended im d x with spoon := p }, sites := t } im d x
  rw [hcount]
  obtain ⟨r, hr⟩ := s.adm.freeArea_eq im { s.fab.ended im d x with spoon := p, slots := m }
  have harea : s.adm.freeArea im { s.fab.ended im d x with spoon := p, slots := m } = { s.adm with area := r } := hr
  have hslot' : m.at (16 * x.tile + x.slot) = { (s.fab.slot x.tile x.slot).counted d with waiting := w } :=
    hslot.trans (congrArg (fun n : Sparse Slot => { (n.at (16 * x.tile + x.slot)).counted d with waiting := w }) hslots)
  dsimp only
  unfold State.noteUnit
  rw [harea, State.noteReady_eq]
  exact ⟨hfiring, congrArg Slot.st hslot', congrArg Slot.count hslot', congrArg Slot.done hslot', hq, fun _ => rfl, rfl⟩

/-- What the two parts of a firing's end leave of a state. -/
theorem State.ended_frame {s v u : State} (hv : v = { s with mem := v.mem, fab := v.fab, upd := v.upd, free := v.free })
    (hu : u = { v with fab := u.fab, sites := u.sites, adm := { v.adm with area := u.adm.area }, sync := { v.sync with msgs := u.sync.msgs } }) :
    u = { s with fab := u.fab, mem := u.mem, upd := u.upd, sites := u.sites, adm := { s.adm with area := u.adm.area }
                 sync := { s.sync with msgs := u.sync.msgs }, free := u.free } := by
  have hmem : u.mem = v.mem := by rw [hu]
  have hupd : u.upd = v.upd := by rw [hu]
  have hfree : u.free = v.free := by rw [hu]
  rw [hmem, hupd, hfree]
  conv_lhs => rw [hu, hv]

variable {tile : BitVec 8} {slot : BitVec 4}

theorem exec_firingEnd (himg : s.img = some im) (hx : s.fab.firing? tile.toNat slot.toNat = some x) (residue : Bool) :
    exec (.firingEnd tile slot residue) s = .next (
      let d := im.descAt x.desc
      if residue then
        if d.cls = 4 || d.cls = 5 || d.cls = 9 || (isArray d.cls && d.hadamard) then
          ((s.onFab (s.fab.stopSlot x.tile x.slot)).report
            { cls := .datapath, sev := .contained, level := 1, unit := x.tile, sub := x.slot, stopped := true, fenced := true, abandon := true
              tile := some x.tile }).noteUnit x.tile d.cls
        else s
      else if !x.allSent im then s else ((s.writeResult im d x).passAll im x.outs).endFiring im d x) := by
  show execFiringEnd tile slot residue s = _
  unfold execFiringEnd
  split
  · next im' x' hi hf =>
    obtain rfl := Option.some.inj (himg.symm.trans hi)
    obtain rfl := Option.some.inj (hx.symm.trans hf)
    rfl
  · next h => exact absurd hx (h im x himg)

end

/-- Settles O44: the firing waits for its last flit, ends, or stops on a failed residue check. -/
theorem firingsEnd : Obligations.FiringsEnd := by
  intro s im tile slot x himg hx d sl here stored passed
  refine ⟨fun hsent => ?_, fun hsent => ?_, fun hcls hawake => ?_⟩
  · refine (exec_firingEnd himg hx false).trans (congrArg Host.Outcome.next ?_)
    exact (if_neg Bool.false_ne_true).trans (if_pos (by rw [hsent]; rfl))
  · have hexec : exec (.firingEnd tile slot false) s = .next (((s.writeResult im d x).passAll im x.outs).endFiring im d x) :=
      (exec_firingEnd himg hx false).trans (congrArg Host.Outcome.next ((if_neg Bool.false_ne_true).trans (if_neg (by rw [hsent]; exact Bool.false_ne_true))))
    obtain ⟨m, c, n, hwrite, hfree, hbyte, hread⟩ := s.writeResult_spec im d x
    obtain ⟨m', e, hpass, hrd⟩ := (s.writeResult im d x).passAll_like im x.outs
    have hfab : ((s.writeResult im d x).passAll im x.outs).fab = { s.fab with edges := e } := by rw [hpass, hwrite]
    have hrd' : ∀ a, (((s.writeResult im d x).passAll im x.outs).fab.edge a).rd = (s.fab.edge a).rd := fun a => by rw [hrd, hwrite]
    obtain ⟨hfiring, hst, hcount, hdone, hq, hedge, hframe⟩ := ((s.writeResult im d x).passAll im x.outs).endFiring_spec im d x
    obtain ⟨-, -, -, hin, hout⟩ := ((s.writeResult im d x).passAll im x.outs).fab.ended_spec im d x
    have hslot : ((s.writeResult im d x).passAll im x.outs).fab.slot x.tile x.slot = sl := by rw [hfab]; rfl
    have hmem : (((s.writeResult im d x).passAll im x.outs).endFiring im d x).mem = ((s.writeResult im d x).passAll im x.outs).mem := by rw [hframe]
    have hwmem : (s.writeResult im d x).mem = m := by rw [hwrite]
    refine ⟨_, hexec, hfiring, hst, by rw [hcount, hslot], by rw [hdone, hslot], ?_, fun i hi => ?_, fun hn a ha r hr => ?_, fun a ha => ?_,
      fun a hs hp => ?_, fun haway off bs r hsram hund hn hl hclean => ?_, fun hund => ?_, ?_⟩
    · rw [hq, hfab, Sparse.at_mod_self]
    · rw [hq, hfab, Sparse.at_mod_ne _ _ hi]
    · rw [hedge, hin hn a ha r hr, hrd']
    · rw [hedge, hout a ha, hrd']
    · rw [hmem, State.passAll_byte im hp, hwmem]
      exact hbyte a hs
    · rw [hmem, State.passAll_away im haway, hwmem]
      exact hread off bs r hsram hund hn hl hclean
    · rw [hframe]
      show ((s.writeResult im d x).passAll im x.outs).free = s.free
      rw [hpass, hwrite]
      exact hfree hund
    · exact State.ended_frame (by rw [hpass, hwrite]) hframe
  · have hstop : (d.cls = 4 || d.cls = 5 || d.cls = 9 || (isArray d.cls && d.hadamard)) = true := by
      simp only [Bool.or_eq_true, Bool.and_eq_true, decide_eq_true_eq, or_assoc]
      exact hcls
    have hexec := (exec_firingEnd himg hx true).trans (congrArg Host.Outcome.next ((if_pos rfl).trans (if_pos hstop)))
    rw [State.report_onFab _ _ hawake] at hexec
    unfold State.noteUnit at hexec
    rw [State.noteReady_eq] at hexec
    exact ⟨_, _, hexec, congrArg Slot.st (Fab.slot_setSlot_self (s.fab.dropFiring x.tile x.slot) x.tile x.slot
      { s.fab.slot x.tile x.slot with st := .stopped }), rfl, rfl, rfl, rfl, rfl⟩

end Sys2Proof.Machine
end

section
/-! SUPPORT. O45: flits and credits on the mesh (R57 to R60, R111, R119 to R127, R455). -/

namespace Sys2Proof.Machine

/-! Neighbours -/

theorem tileXY_tileAt {x y : Nat} (hx : x < 16) : tileXY (tileAt x y) = (x, y) := by
  unfold tileXY tileAt
  refine Prod.ext ?_ ?_
  · dsimp only; omega
  · dsimp only; omega

theorem tileAt_tileXY (t : Nat) : tileAt (tileXY t).1 (tileXY t).2 = t := by
  unfold tileXY tileAt
  dsimp only
  omega

theorem tileXY_lt {t : Nat} (h : t < 256) : (tileXY t).1 < 16 ∧ (tileXY t).2 < 16 := by
  unfold tileXY
  dsimp only
  omega

/-- The neighbour at a port has the tile at the port that faces it. -/
theorem neighbour_facing {t p n : Nat} (ht : t < 256) (h : neighbour t p = some n) : neighbour n (facing p) = some t := by
  obtain ⟨hx, hy⟩ := tileXY_lt ht
  have hback := tileAt_tileXY t
  unfold neighbour at h
  generalize tileXY t = c at hx hy hback h
  obtain ⟨x, y⟩ := c
  match p, h with
  | 0, h =>
    obtain ⟨hy0, rfl⟩ := (Option.ite_none_left_eq_some.mp h).imp_right Option.some.inj
    unfold neighbour facing
    rw [tileXY_tileAt hx]
    refine (if_neg ?_).trans ?_
    · dsimp only at hy0 hy ⊢; omega
    · dsimp only at hy0 hback ⊢
      rw [Nat.sub_add_cancel (by omega), hback]
  | 1, h =>
    obtain ⟨hx15, rfl⟩ := (Option.ite_none_left_eq_some.mp h).imp_right Option.some.inj
    dsimp only at hx hx15 hback
    unfold neighbour facing
    rw [tileXY_tileAt (by omega)]
    refine (if_neg (Nat.succ_ne_zero x)).trans ?_
    rw [Nat.add_sub_cancel, hback]
  | 2, h =>
    obtain ⟨hy15, rfl⟩ := (Option.ite_none_left_eq_some.mp h).imp_right Option.some.inj
    dsimp only at hback
    unfold neighbour facing
    rw [tileXY_tileAt hx]
    refine (if_neg (Nat.succ_ne_zero y)).trans ?_
    rw [Nat.add_sub_cancel, hback]
  | 3, h =>
    obtain ⟨hx0, rfl⟩ := (Option.ite_none_left_eq_some.mp h).imp_right Option.some.inj
    dsimp only at hx hx0 hback
    unfold neighbour facing
    rw [tileXY_tileAt (by omega)]
    refine (if_neg (show x - 1 ≠ 15 by omega)).trans ?_
    rw [Nat.sub_add_cancel (by omega), hback]

/-! What a departure changes -/

theorem Fab.takeHop_eq (f : Fab) (t out lane : Nat) : ∃ h, f.takeHop t out lane = { f with hops := h } := by
  unfold Fab.takeHop
  split <;> exact ⟨_, rfl⟩

theorem Fab.returnHop_eq (f : Fab) (t p lane : Nat) : ∃ h, f.returnHop t p lane = { f with hops := h } := by
  unfold Fab.returnHop
  split
  · exact ⟨_, rfl⟩
  · split <;> exact ⟨_, rfl⟩

/-- What a flit's departure leaves: of the edges, the write place of its own alone may move (R110). -/
structure Fab.Departed (f g : Fab) (e : Nat) : Prop where
  frame : g = { f with alloc := g.alloc, vcLast := g.vcLast, hops := g.hops, device := g.device, firings := g.firings, bufs := g.bufs, edges := g.edges }
  others : ∀ j, j ≠ e → g.edge j = f.edge j
  own : ∃ w, g.edge e = { f.edge e with wr := w }

theorem Fab.depart_spec (im : Image) (f : Fab) (t out p : Nat) (fl : Flit) : f.Departed (f.depart im t out p fl) fl.edge := by
  unfold Fab.depart
  dsimp only
  generalize hg : ({ f with alloc := _, vcLast := _ } : Fab) = g
  obtain ⟨h1, e1⟩ := g.takeHop_eq t out fl.vc
  obtain ⟨h2, e2⟩ := (g.takeHop t out fl.vc).returnHop_eq t p fl.vc
  rw [e2, e1, ← hg]
  split
  · split
    · exact ⟨rfl, fun _ _ => rfl, _, rfl⟩
    · split
      · exact ⟨rfl, fun j hj => Fab.edge_setEdge_ne _ _ hj, _, Fab.edge_setEdge_self ..⟩
      · exact ⟨rfl, fun _ _ => rfl, _, rfl⟩
  · exact ⟨rfl, fun _ _ => rfl, _, rfl⟩

/-! What an output port sends -/

theorem Fab.offer_vc {im : Image} {f : Fab} {t out vc p : Nat} {held : Option (Nat × Nat)} {fl : Flit} (h : f.offer im t out vc p held = some fl) :
    fl.vc = vc := by
  unfold Fab.offer at h
  dsimp only at h
  have hfits : (fl.vc == vc && nextPort t fl.dst fl.yFirst == out) = true := by
    split at h
    · have hfind := List.find?_some h
      exact ((Bool.and_eq_true _ _).mp hfind).1
    · exact ((Bool.and_eq_true _ _).mp (Option.filter_eq_some_iff.mp h).2).1
  exact beq_iff_eq.mp ((Bool.and_eq_true _ _).mp hfits).1

theorem Fab.choose_vc {im : Image} {f : Fab} {t out vc q : Nat} {fl : Flit} (h : f.choose im t out vc = some (q, fl)) : fl.vc = vc := by
  unfold Fab.choose at h
  dsimp only at h
  split at h
  · obtain ⟨fl', hoffer, heq⟩ := Option.map_eq_some_iff.mp h
    obtain ⟨-, rfl⟩ := Prod.mk.inj heq
    exact Fab.offer_vc hoffer
  · obtain ⟨p, -, hp⟩ := List.exists_of_findSome?_eq_some h
    obtain ⟨fl', hoffer, heq⟩ := Option.map_eq_some_iff.mp hp
    obtain ⟨-, rfl⟩ := Prod.mk.inj heq
    exact Fab.offer_vc hoffer

/-- A port sends on a lane of which it holds a hop credit (R126). -/
theorem Fab.arbitrate_room {im : Image} {f : Fab} {t out q : Nat} {fl : Flit} {aged : Bool} (h : f.arbitrate im t out aged = some (q, fl)) :
    f.room t out fl.vc = true := by
  have hget : ∀ vc, (if f.room t out vc then f.choose im t out vc else none) = some (q, fl) → f.room t out fl.vc = true := fun vc hvc => by
    split at hvc
    · next hroom => rw [Fab.choose_vc hvc]; exact hroom
    · contradiction
  have himage : (roundRobin 6 (Sparse.get 5 f.vcLast (5 * t + out))).findSome? (fun vc => if f.room t out vc then f.choose im t out vc else none) =
      some (q, fl) → f.room t out fl.vc = true := fun hs => by
    obtain ⟨vc, -, hvc⟩ := List.exists_of_findSome?_eq_some hs
    exact hget vc hvc
  unfold Fab.arbitrate at h
  dsimp only at h
  split at h
  · exact (Option.or_eq_some_iff.mp h).elim (hget 6) fun h => himage h.2
  · exact (Option.or_eq_some_iff.mp h).elim himage fun h => hget 6 h.2

theorem Fab.hops_lt_of_room {f : Fab} {t p n lane : Nat} (ht : t < 256) (hp : neighbour t p = some n) (h : f.room n (facing p) lane = true) :
    f.hops.at (hopKey n (facing p) lane) < hopDepth n t := by
  unfold Fab.room at h
  rw [if_neg (show facing p ≠ 4 by unfold facing; omega), neighbour_facing ht hp] at h
  exact of_decide_eq_true h

/-! A hop -/

/-- A flit or message dropped at a tile's port (R123). -/
theorem Fab.dropped_at (f : Fab) (t p : Nat) : (((f.dropped t p).tiles.at t).port.at p).dropped = satAdd ((f.tiles.at t).port.at p).dropped 1 := by
  unfold Fab.dropped Fab.modPort Fab.modTile
  rw [Sparse.at_mod_self, Sparse.at_mod_self]

theorem Fab.dropped_hdrChk (f : Fab) (t p : Nat) : ((f.dropped t p).tiles.at t).hdrChk = (f.tiles.at t).hdrChk := by
  unfold Fab.dropped Fab.modPort Fab.modTile
  rw [Sparse.at_mod_self]

/-- A failed header check at a tile's port: dropped, marked and reported. -/
theorem State.dropAt_spec (s : State) (t p : Nat) (inj : Bool) :
    (s.dropAt t p inj).fab = { s.fab with tiles := (s.dropAt t p inj).fab.tiles } ∧ ((s.dropAt t p inj).fab.tiles.at t).hdrChk = true ∧
      (((s.dropAt t p inj).fab.tiles.at t).port.at p).dropped = satAdd ((s.fab.tiles.at t).port.at p).dropped 1 ∧ (s.dropAt t p inj).mem = s.mem ∧
      (s.ctl.state.awake = true → ∃ r, (s.dropAt t p inj).flt.reports = Report.enter r s.flt.reports ∧ r.cls = .mesh ∧ r.sev = .contained) := by
  have heq : s.dropAt t p inj = (s.onFab ((s.fab.dropped t p).modTile t fun r => { r with hdrChk := true })).report (meshReport t .contained inj) := rfl
  have htile : (s.dropAt t p inj).fab.tiles.at t = { (s.fab.dropped t p).tiles.at t with hdrChk := true } := by
    rw [heq, State.report_eq]
    exact Sparse.at_mod_self (s.fab.dropped t p).tiles t fun r => { r with hdrChk := true }
  refine ⟨by rw [heq, State.report_eq]; rfl, by rw [htile], by rw [htile]; exact Fab.dropped_at .., by rw [heq, State.report_eq]; rfl, fun hawake => ?_⟩
  rw [heq, State.report_onFab _ _ hawake]
  exact ⟨_, rfl, rfl, rfl⟩

section
variable {s : State} {im : Image} {tile : BitVec 8} {port : BitVec 2} {n q : Nat} {fl : Flit} {aged : Bool}

/-- The flit that arrives enters the buffer of its VC at the port. -/
def Fab.enterBuf (f : Fab) (t p : Nat) (fl : Flit) : Fab := { f with bufs := f.bufs.mod ((t * 4 + p) * 8 + fl.vc) fun l => l ++ [fl] }

theorem exec_flitHop (himg : s.img = some im) (hn : neighbour tile.toNat port.toNat = some n)
    (ha : s.fab.arbitrate im n (facing port.toNat) aged = some (q, fl)) (hinj : (n, 5) ∉ s.fab.inject) (fault : HopFault) :
    exec (.flitHop tile port fault aged) s = .next (
      let f := s.fab.depart im n (facing port.toNat) q fl
      match fault with
      | .header => (s.onFab (f.returnHop tile.toNat port.toNat fl.vc)).dropAt tile.toNat port.toNat false
      | .kind => s.onFab ((f.returnHop tile.toNat port.toNat fl.vc).dropped tile.toNat port.toNat)
      | .payload ws => (s.onFab (f.enterBuf tile.toNat port.toNat { fl with poison := true, words := fl.words ++ ws })).report
          (meshReport tile.toNat .contained false)
      | _ => s.onFab (f.enterBuf tile.toNat port.toNat fl)) := by
  have hnone : (s.fab.depart im n (facing port.toNat) q fl).takeInject n 5 = none := by
    refine if_neg ?_
    rw [(s.fab.depart_spec im n (facing port.toNat) q fl).frame, List.contains_iff_mem]
    exact hinj
  show execFlitHop tile port fault aged s = _
  unfold execFlitHop
  split
  · next im' n' hi hn' =>
    obtain rfl := Option.some.inj (himg.symm.trans hi)
    obtain rfl := Option.some.inj (hn.symm.trans hn')
    dsimp only
    rw [ha]
    dsimp only
    rw [hnone]
    cases fault <;> rfl
  · next h => exact absurd hn (h im n himg)

end
end Sys2Proof.Machine
end

section
namespace Sys2Proof.Machine

/-! Ejection -/

theorem Mem.poisoned_writePoison {ks : List Nat} {a : Nat} (h : a ∈ ks) (m : Mem) : (m.writePoison ks).poisoned a = true := by
  have hkeep : ∀ (l : List Nat) (m : Mem), m.poisoned a = true → (m.writePoison l).poisoned a = true := fun l m hm =>
    foldl_keeps (P := fun m : Mem => m.poisoned a = true) (fun m k hm => by
      by_cases hk : eccUnit a = eccUnit k
      · exact Mem.poisoned_setPoison m true hk
      · rw [Mem.poisoned_setPoison_ne m true hk]
        exact hm) l hm
  induction ks generalizing m with
  | nil => exact absurd h List.not_mem_nil
  | cons k r ih =>
    obtain rfl | h := List.mem_cons.mp h
    · exact hkeep r _ (Mem.poisoned_setPoison m true rfl)
    · exact ih h _

/-- Where an ejected flit's bytes go. -/
def Image.landing (im : Image) (t : Nat) (fl : Flit) : List Nat :=
  (List.range fl.bytes.length).map fun i => im.sramPlace' t (((im.edge? fl.edge).getD default).placeOff fl.place + fl.index * 128 + i)

section
variable {im : Image} {m : Mem} {t : Nat} {fl : Flit} {poison : Bool}

theorem Fab.land_descriptor (h : fl.use = .descriptor) : Fab.land im m t fl poison = m := if_pos (beq_iff_eq.mpr h)

theorem Fab.land_clean (h : fl.use ≠ .descriptor) : Fab.land im m t fl false = m.write ((im.landing t fl).zip fl.bytes) :=
  (if_neg (by rw [beq_iff_eq]; exact h)).trans (if_neg Bool.false_ne_true)

theorem Fab.land_poisoned (h : fl.use ≠ .descriptor) : Fab.land im m t fl true = m.writePoison (im.landing t fl) :=
  (if_neg (by rw [beq_iff_eq]; exact h)).trans (if_pos rfl)

theorem Fab.byte_land {a : Nat} (ha : a ∉ im.landing t fl) : (Fab.land im m t fl poison).byte a = m.byte a := by
  by_cases h : fl.use = .descriptor
  · rw [Fab.land_descriptor h]
  · cases poison
    · rw [Fab.land_clean h]
      exact Mem.byte_write_of_not_mem m (fun c hc => (List.of_mem_zip hc).1) ha
    · rw [Fab.land_poisoned h, Mem.byte_writePoison]

end

theorem Fab.countWords_spec (f : Fab) (t p : Nat) (ws : List (BitVec 4)) : f.countWords t p ws = { f with tiles := (f.countWords t p ws).tiles } ∧
    (p < 4 → (((f.countWords t p ws).tiles.at t).port.at p).poisoned = satAdd ((f.tiles.at t).port.at p).poisoned ws.eraseDups.length) := by
  unfold Fab.countWords
  split
  · exact ⟨rfl, fun h => by omega⟩
  · refine ⟨rfl, fun _ => ?_⟩
    unfold Fab.modPort Fab.modTile
    rw [Sparse.at_mod_self, Sparse.at_mod_self]

theorem Fab.token_edge (im : Image) (f : Fab) (e : Nat) (ok : Bool) : ((f.token im e ok).edge e).tokens = (f.edge e).tokens + 1 ∧
    ((f.token im e ok).edge e).bad = (if ok then (f.edge e).bad else (f.edge e).bad ++ [(f.edge e).expect]) ∧
    ∀ j, j ≠ e → (f.token im e ok).edge j = f.edge j := by
  unfold Fab.token
  dsimp only
  exact ⟨by rw [Fab.edge_setEdge_self], by rw [Fab.edge_setEdge_self], fun j hj => Fab.edge_setEdge_ne _ _ hj⟩

/-- What a flit of an image's block does to its edge and its tile as it arrives. -/
structure State.Arrived (s u : State) (t : Nat) (fl : Flit) : Prop where
  mem : u.mem = s.mem
  loads : u.fab.loads = s.fab.loads
  ports : (u.fab.tiles.at t).port = (s.fab.tiles.at t).port
  others : ∀ e, e ≠ fl.edge → u.fab.edge e = s.fab.edge e
  tokens : (u.fab.edge fl.edge).tokens = if fl.last then (s.fab.edge fl.edge).tokens + 1 else (s.fab.edge fl.edge).tokens
  bad : fl.last = false → (u.fab.edge fl.edge).bad = (s.fab.edge fl.edge).bad
  missing : fl.last = true → fl.place ≠ (s.fab.edge fl.edge).expect →
    (u.fab.edge fl.edge).bad = (s.fab.edge fl.edge).bad ++ [(s.fab.edge fl.edge).expect] ∧ (u.fab.tiles.at t).placeMismatch = true

theorem State.arrive_spec (s : State) (im : Image) (t : Nat) (fl : Flit) : s.Arrived (s.arrive im t fl) t fl := by
  unfold State.arrive
  dsimp only
  generalize (if ((s.fab.edge fl.edge).arrived.at fl.place).contains fl.index then (s.fab.edge fl.edge).arrived.at fl.place
    else (s.fab.edge fl.edge).arrived.at fl.place ++ [fl.index]) = seen
  generalize hg : s.fab.setEdge fl.edge { s.fab.edge fl.edge with arrived := (s.fab.edge fl.edge).arrived.put fl.place seen } = g
  have hedge : g.edge fl.edge = { s.fab.edge fl.edge with arrived := (s.fab.edge fl.edge).arrived.put fl.place seen } := by
    rw [← hg, Fab.edge_setEdge_self]
  have hothers : ∀ e, e ≠ fl.edge → g.edge e = s.fab.edge e := fun e he => by rw [← hg, Fab.edge_setEdge_ne _ _ he]
  have htiles : g.tiles = s.fab.tiles := by rw [← hg]; rfl
  have hloads : g.loads = s.fab.loads := by rw [← hg]; rfl
  have htok := fun ok => g.token_edge im fl.edge ok
  cases hlast : fl.last
  · rw [if_pos (by rfl)]
    exact ⟨rfl, hloads, by rw [htiles], hothers, by rw [hedge]; exact (if_neg (by rw [hlast]; exact Bool.false_ne_true)).symm,
      fun _ => by rw [hedge], fun h => absurd (hlast.symm.trans h) Bool.false_ne_true⟩
  · rw [if_neg (by exact Bool.false_ne_true)]
    split
    · next hok =>
      obtain ⟨htokens, -, hrest⟩ := htok true
      refine ⟨rfl, hloads, by show (g.tiles.at t).port = _; rw [htiles], fun e he => (hrest e he).trans (hothers e he), ?_,
        fun h => absurd (h.symm.trans hlast) Bool.false_ne_true, fun _ hne => ?_⟩
      · refine htokens.trans ?_
        rw [hedge, if_pos hlast]
      · rw [Bool.and_eq_true, decide_eq_true_eq] at hok
        exact absurd hok.1 hne
    · obtain ⟨htokens, hbad, hrest⟩ := htok false
      rw [State.report_eq]
      refine ⟨rfl, hloads, ?_, fun e he => (hrest e he).trans (hothers e he), ?_, fun h => absurd (h.symm.trans hlast) Bool.false_ne_true, fun _ _ => ⟨?_, ?_⟩⟩
      · show ((g.tiles.mod t fun r => { r with placeMismatch := true }).at t).port = _
        rw [Sparse.at_mod_self, htiles]
      · refine htokens.trans ?_
        rw [hedge, if_pos hlast]
      · refine hbad.trans ?_
        rw [hedge, if_neg Bool.false_ne_true]
      · show ((g.tiles.mod t fun r => { r with placeMismatch := true }).at t).placeMismatch = true
        rw [Sparse.at_mod_self]

/-- The state in which an ejected flit has landed, before its edge or slot learns of it. -/
def State.landed (s : State) (im : Image) (t q : Nat) (fl : Flit) : State :=
  { s with mem := Fab.land im s.mem t fl fl.poison, fab := (s.fab.depart im t 4 q fl).countWords t q fl.words }

theorem exec_flitEject {s : State} {im : Image} {tile : BitVec 8} {q : Nat} {fl : Flit} {aged : Bool} (himg : s.img = some im)
    (ha : s.fab.arbitrate im tile.toNat 4 aged = some (q, fl)) : exec (.flitEject tile .none aged) s = .next
      ((if fl.use = .data then (s.landed im tile.toNat q fl).arrive im tile.toNat fl
        else (s.landed im tile.toNat q fl).onFab ((s.landed im tile.toNat q fl).fab.loaded im tile.toNat fl)).noteReady [tile.toNat]) := by
  have hland : s.landed im tile.toNat q fl = { s with mem := Fab.land im s.mem tile.toNat fl (fl.poison || !([] : List (BitVec 4)).isEmpty)
                                                      fab := (s.fab.depart im tile.toNat 4 q fl).countWords tile.toNat q (fl.words ++ []) } := by
    unfold State.landed
    rw [List.append_nil]
    simp
  rw [hland]
  show execFlitEject tile .none aged s = _
  unfold execFlitEject
  split
  · next h => rw [himg] at h; contradiction
  · next im' h =>
    obtain rfl := Option.some.inj (himg.symm.trans h)
    dsimp only
    rw [ha]
    rfl

/-- The edges and slots after an ejection. -/
theorem State.landed_spec (s : State) (im : Image) (t q : Nat) (fl : Flit) : (s.landed im t q fl).fab.loads = s.fab.loads ∧
    (∀ e, e ≠ fl.edge → (s.landed im t q fl).fab.edge e = s.fab.edge e) ∧
    (∃ w, (s.landed im t q fl).fab.edge fl.edge = { s.fab.edge fl.edge with wr := w }) ∧
    (q < 4 → (((s.landed im t q fl).fab.tiles.at t).port.at q).poisoned = satAdd ((s.fab.tiles.at t).port.at q).poisoned fl.words.eraseDups.length) := by
  obtain ⟨hframe, hothers, w, hown⟩ := s.fab.depart_spec im t 4 q fl
  obtain ⟨hcount, hwords⟩ := (s.fab.depart im t 4 q fl).countWords_spec t q fl.words
  have hedges : ∀ e, (s.landed im t q fl).fab.edge e = (s.fab.depart im t 4 q fl).edge e := fun e => by
    show ((s.fab.depart im t 4 q fl).countWords t q fl.words).edge e = _
    rw [hcount]
    rfl
  refine ⟨?_, fun e he => (hedges e).trans (hothers e he), ⟨w, (hedges _).trans hown⟩, fun hq => ?_⟩
  · show ((s.fab.depart im t 4 q fl).countWords t q fl.words).loads = _
    rw [hcount, hframe]
  · refine (hwords hq).trans ?_
    rw [hframe]

/-- FLIT_EJECT: the flit lands, and its edge, or the slot of a device write, learns of it (R56, R121, R123, R124). -/
theorem flitEject_lands {s : State} {im : Image} {tile : BitVec 8} {q : Nat} {fl : Flit} {aged : Bool} (himg : s.img = some im)
    (ha : s.fab.arbitrate im tile.toNat 4 aged = some (q, fl)) :
    let t := tile.toNat
    let x := s.fab.edge fl.edge
    ∃ u, exec (.flitEject tile .none aged) s = .next u ∧ u.mem = Fab.land im s.mem t fl fl.poison ∧ (∀ e, e ≠ fl.edge → u.fab.edge e = s.fab.edge e) ∧
      (q < 4 → ((u.fab.tiles.at t).port.at q).poisoned = satAdd ((s.fab.tiles.at t).port.at q).poisoned fl.words.eraseDups.length) ∧
      (fl.use ≠ .data → u.fab.loads =
        s.fab.loads.mod (16 * t + if fl.use == .descriptor then fl.edge else ((im.edge? fl.edge).getD default).consSlot) (· - 1)) ∧
      (fl.use = .data → u.fab.loads = s.fab.loads ∧ (u.fab.edge fl.edge).tokens = (if fl.last then x.tokens + 1 else x.tokens) ∧
        (fl.last = true → fl.place ≠ x.expect → (u.fab.edge fl.edge).bad = x.bad ++ [x.expect] ∧ (u.fab.tiles.at t).placeMismatch = true) ∧
        (fl.last = false → (u.fab.edge fl.edge).bad = x.bad)) := by
  intro t x
  obtain ⟨hloads, hothers, ⟨w, hown⟩, hwords⟩ := s.landed_spec im t q fl
  have hexec := exec_flitEject himg ha
  by_cases hdata : fl.use = .data
  · rw [if_pos hdata, State.noteReady_eq] at hexec
    obtain ⟨hmem, hl, hports, hrest, htokens, hbad, hmissing⟩ := (s.landed im t q fl).arrive_spec im t fl
    rw [hown] at htokens hbad hmissing
    exact ⟨_, hexec, hmem, fun e he => (hrest e he).trans (hothers e he), fun hq => (congrArg (fun p : Sparse PortErr => (p.at q).poisoned) hports).trans (hwords hq),
      fun h => absurd hdata h, fun _ => ⟨hl.trans hloads, htokens, hmissing, hbad⟩⟩
  · rw [if_neg hdata, State.noteReady_eq] at hexec
    exact ⟨_, hexec, rfl, hothers, hwords, fun _ => by rw [← hloads]; rfl, fun h => absurd h hdata⟩

end Sys2Proof.Machine
end

section
namespace Sys2Proof.Machine

/-! Edge credits -/

/-- A tile's firings, found by slot. -/
theorem Fab.firing?_setFiring {f : Fab} {t k : Nat} {x y : Firing} (h : f.firing? t k = some x) (ht : y.tile = x.tile) (hk : y.slot = x.slot) :
    (f.setFiring y).firing? t k = some y := by
  obtain ⟨hx, as, bs, happ, hno⟩ := List.find?_eq_some_iff_append.mp h
  unfold Fab.firing? Fab.setFiring
  dsimp only
  rw [happ, List.map_append, List.map_cons, ht, hk]
  have hself : (x.tile == x.tile && x.slot == x.slot) = true := by rw [beq_self_eq_true, beq_self_eq_true]; rfl
  rw [if_pos hself]
  refine List.find?_eq_some_iff_append.mpr ⟨by rw [ht, hk]; exact hx, _, _, rfl, fun z hz => ?_⟩
  obtain ⟨a, ha, rfl⟩ := List.mem_map.mp hz
  have haway := hno a ha
  split
  · next hsame =>
    rw [Bool.and_eq_true, beq_iff_eq, beq_iff_eq] at hsame hx
    rw [hsame.1, hsame.2, hx.1, hx.2] at haway
    simp at haway
  · exact haway

section
variable {s : State} {im : Image} {tile : BitVec 8} {edge : BitVec 20} {r : EdgeRec}

/-- The message that carries the credits queued for an edge (R122). -/
def Image.creditMsg (im : Image) (r : EdgeRec) (e n : Nat) : CtlMsg :=
  { edge := e, count := n, src := r.consTile, dst := r.prodTile, yFirst := (im.routes.getD r.creditRoute default).yFirst }

/-- The credits queued for an edge are offered, unless none is queued or a message of the edge waits (R125). -/
def State.offerCredits (s : State) (im : Image) (r : EdgeRec) (t e : Nat) : State :=
  let x := s.fab.edge e
  let own := s.fab.ctl.at (5 * r.consTile + 4)
  if x.queued = 0 || own.any (fun m => m.edge == e) then s.noteReady [t] else
  let f := s.fab.setEdge e { x with queued := x.queued - min 64 x.queued }
  s.onFab { f with ctl := f.ctl.put (5 * r.consTile + 4) (own ++ [im.creditMsg r e (min 64 x.queued)]) }

theorem exec_tileCreditSend (himg : s.img = some im) (hr : im.edge? edge.toNat = some r) (ht : r.consTile = tile.toNat) :
    exec (.tileCreditSend tile edge) s = .next
      ((if (s.fab.edge edge.toNat).queued = 0 then s.lastRead im edge.toNat else s).offerCredits im r tile.toNat edge.toNat) := by
  show execTileCreditSend tile edge s = _
  unfold execTileCreditSend
  split
  · next h => rw [himg] at h; contradiction
  · next im' h =>
    obtain rfl := Option.some.inj (himg.symm.trans h)
    rw [hr]
    exact congrArg Host.Outcome.next (if_neg (not_not.mpr ht))

/-- Credits that are queued, with no message of the edge under way, leave in a message of up to 64. -/
theorem State.offerCredits_sends {t e : Nat} (ht : r.consTile = t) (hq : (s.fab.edge e).queued ≠ 0) (hown : ∀ o ∈ s.fab.ctl.at (5 * t + 4), o.edge ≠ e) :
    s.offerCredits im r t e = s.onFab { s.fab.setEdge e { s.fab.edge e with queued := (s.fab.edge e).queued - min 64 (s.fab.edge e).queued } with
      ctl := s.fab.ctl.put (5 * t + 4) (s.fab.ctl.at (5 * t + 4) ++ [im.creditMsg r e (min 64 (s.fab.edge e).queued)]) } := by
  subst ht
  refine if_neg ?_
  rw [Bool.or_eq_true, decide_eq_true_eq, List.any_eq_true, not_or]
  exact ⟨hq, fun ⟨m, hm, he⟩ => hown m hm (beq_iff_eq.mp he)⟩

theorem State.offerCredits_waits {t e : Nat} (ht : r.consTile = t) (hown : ∃ o ∈ s.fab.ctl.at (5 * t + 4), o.edge = e) :
    s.offerCredits im r t e = s.noteReady [t] := by
  subst ht
  obtain ⟨o, ho, he⟩ := hown
  refine if_pos ?_
  rw [Bool.or_eq_true, List.any_eq_true]
  exact .inr ⟨o, ho, beq_iff_eq.mpr he⟩

/-- What offering credits leaves of its edge and of the rest. -/
theorem State.offerCredits_spec (s : State) (im : Image) (r : EdgeRec) (t e : Nat) : ∃ c l, s.offerCredits im r t e =
      s.onFab { s.fab with ctl := c, readyLog := l, edges := (s.offerCredits im r t e).fab.edges } ∧
    (∃ n, (s.offerCredits im r t e).fab.edge e = { s.fab.edge e with queued := n }) ∧
    ∀ j, j ≠ e → (s.offerCredits im r t e).fab.edge j = s.fab.edge j := by
  unfold State.offerCredits
  dsimp only
  split
  · rw [State.noteReady_eq]
    exact ⟨_, _, rfl, ⟨_, rfl⟩, fun _ _ => rfl⟩
  · exact ⟨_, _, rfl, ⟨_, Fab.edge_setEdge_self ..⟩, fun j hj => Fab.edge_setEdge_ne _ _ hj⟩

theorem State.lastRead_of_firing {e : Nat} {y : Firing} (hr : im.edge? e = some r) (hy : s.fab.firing? r.consTile r.consSlot = some y)
    (hin : e ∈ (im.descAt y.desc).inEdges) (hfreed : e ∉ y.freed) (hphase : y.phase ≠ .verdict) :
    s.lastRead im e = s.onFab ((s.fab.setFiring { y with freed := y.freed ++ [e] }).freeInput im e) := by
  have hguard : ¬ (y.freed.contains e || !(im.descAt y.desc).inEdges.contains e || y.phase == .verdict) = true := by
    rw [List.contains_iff_mem.mpr hin, Bool.or_eq_true, Bool.or_eq_true, beq_iff_eq, List.contains_iff_mem]
    rintro ((h | h) | h)
    · exact hfreed h
    · exact Bool.false_ne_true h
    · exact hphase h
  unfold State.lastRead
  rw [hr]
  show (match s.fab.firing? r.consTile r.consSlot with | none => s | some x => _) = _
  rw [hy]
  exact if_neg hguard

/-- The last read of an edge's place by a firing in progress (R111). -/
theorem tileCreditSend_lastRead {y : Firing} (himg : s.img = some im) (hr : im.edge? edge.toNat = some r) (ht : r.consTile = tile.toNat)
    (hq : (s.fab.edge edge.toNat).queued = 0) (hy : s.fab.firing? tile.toNat r.consSlot = some y) (hin : edge.toNat ∈ (im.descAt y.desc).inEdges)
    (hfreed : edge.toNat ∉ y.freed) (hphase : y.phase ≠ .verdict) :
    ∃ u, exec (.tileCreditSend tile edge) s = .next u ∧ (u.fab.edge edge.toNat).tokens = (s.fab.edge edge.toNat).tokens - 1 ∧
      (u.fab.edge edge.toNat).rd = (s.fab.edge edge.toNat).rd ∧ (∀ e, e ≠ edge.toNat → u.fab.edge e = s.fab.edge e) ∧
      u.fab.firing? tile.toNat r.consSlot = some { y with freed := y.freed ++ [edge.toNat] } ∧ u.mem = s.mem ∧
      (r.prodTile = tile.toNat → (u.fab.edge edge.toNat).credits = (s.fab.edge edge.toNat).credits + 1) := by
  have hlast := State.lastRead_of_firing (s := s) hr (by rw [ht]; exact hy) hin hfreed hphase
  obtain ⟨c, l, hframe, ⟨n, hedge⟩, hothers⟩ := (s.lastRead im edge.toNat).offerCredits_spec im r tile.toNat edge.toNat
  have hfree : (s.lastRead im edge.toNat).fab.edge edge.toNat = if r.prodTile = r.consTile
      then { s.fab.edge edge.toNat with tokens := (s.fab.edge edge.toNat).tokens - 1, credits := (s.fab.edge edge.toNat).credits + 1 }
      else { s.fab.edge edge.toNat with tokens := (s.fab.edge edge.toNat).tokens - 1, queued := (s.fab.edge edge.toNat).queued + 1 } := by
    rw [hlast]
    exact Fab.freeInput_of_edge hr _
  have hfab : ∃ m, (s.lastRead im edge.toNat).fab = { s.fab.setFiring { y with freed := y.freed ++ [edge.toNat] } with edges := m } := by
    rw [hlast]
    exact Fab.credit_eq im _ edge.toNat 1
  obtain ⟨m, hm⟩ := hfab
  refine ⟨_, (exec_tileCreditSend himg hr ht).trans (congrArg (fun u : State => Host.Outcome.next (u.offerCredits im r tile.toNat edge.toNat)) (if_pos hq)),
    ?_, ?_, fun e he => ?_, ?_, ?_, fun hp => ?_⟩
  · rw [hedge, hfree]
    split <;> rfl
  · rw [hedge, hfree]
    split <;> rfl
  · rw [hothers e he, hlast]
    exact Fab.freeInput_ne im _ _ _ he
  · rw [hframe]
    show (s.lastRead im edge.toNat).fab.firing? tile.toNat r.consSlot = _
    rw [hm]
    exact Fab.firing?_setFiring hy rfl rfl
  · rw [hframe, hlast]
    rfl
  · rw [hedge, hfree, if_pos (hp.trans ht.symm)]

end

/-! Control messages -/

theorem Fab.hops_only {f : Fab} {t out p lane : Nat} : ∃ h, (f.takeHop t out lane).returnHop t p lane = { f with hops := h } := by
  obtain ⟨h1, e1⟩ := f.takeHop_eq t out lane
  obtain ⟨h2, e2⟩ := (f.takeHop t out lane).returnHop_eq t p lane
  exact ⟨h2, by rw [e2, e1]⟩

theorem Fab.departCtl_port (f : Fab) (t out : Nat) {p : Nat} (m : CtlMsg) (hp : p ≠ 4) : ∃ h l, f.departCtl t out p m =
    { f with ctl := f.ctl.put (5 * t + p) ((f.ctl.at (5 * t + p)).drop 1), hops := h, ctlLast := l } := by
  unfold Fab.departCtl
  dsimp only
  rw [if_pos hp]
  obtain ⟨h, e⟩ := Fab.hops_only (f := { f with ctl := f.ctl.put (5 * t + p) ((f.ctl.at (5 * t + p)).drop 1)
                                                ctlLast := Sparse.set 4 f.ctlLast (5 * t + out) p }) (t := t) (out := out) (p := p) (lane := 8)
  exact ⟨h, _, e⟩

/-- What the tile's own message had before credits joined it. -/
def Fab.hadCount (f : Fab) (t : Nat) (m : CtlMsg) : Nat := (((f.ctl.at (5 * t + 4)).find? fun x => x.edge == m.edge).map (·.count)).getD m.count

theorem Fab.departCtl_own (f : Fab) (t out : Nat) (m : CtlMsg) : ∃ h l, f.departCtl t out 4 m =
    { f.setEdge m.edge { f.edge m.edge with queued := (f.edge m.edge).queued - (m.count - f.hadCount t m) } with
      ctl := f.ctl.put (5 * t + 4) ((f.ctl.at (5 * t + 4)).eraseP fun x => x.edge == m.edge), hops := h, ctlLast := l } := by
  unfold Fab.departCtl
  dsimp only
  rw [if_neg (not_not.mpr rfl)]
  obtain ⟨h, e⟩ := Fab.hops_only (f := { f.setEdge m.edge { f.edge m.edge with queued := (f.edge m.edge).queued - (m.count - f.hadCount t m) } with
    ctl := f.ctl.put (5 * t + 4) ((f.ctl.at (5 * t + 4)).eraseP fun x => x.edge == m.edge)
    ctlLast := Sparse.set 4 f.ctlLast (5 * t + out) 4 }) (t := t) (out := out) (p := 4) (lane := 8)
  exact ⟨h, _, e⟩

/-- Credits queued apart, a departing message leaves every edge as it was. -/
theorem Fab.departCtl_spec (f : Fab) (t out p : Nat) (m : CtlMsg) : ∃ c h l e, f.departCtl t out p m = { f with ctl := c, hops := h, ctlLast := l, edges := e } ∧
    (∃ n, (f.departCtl t out p m).edge m.edge = { f.edge m.edge with queued := n }) ∧ ∀ j, j ≠ m.edge → (f.departCtl t out p m).edge j = f.edge j := by
  by_cases hp : p = 4
  · subst hp
    obtain ⟨h, l, heq⟩ := f.departCtl_own t out m
    rw [heq]
    exact ⟨_, h, l, _, rfl, ⟨_, Fab.edge_setEdge_self ..⟩, fun j hj => Fab.edge_setEdge_ne _ _ hj⟩
  · obtain ⟨h, l, heq⟩ := f.departCtl_port t out m hp
    rw [heq]
    exact ⟨_, h, l, _, rfl, ⟨_, rfl⟩, fun _ _ => rfl⟩

theorem Fab.chooseCtl_offer {f : Fab} {t out q : Nat} {m : CtlMsg} (h : f.chooseCtl t out = some (q, m)) : f.offerCtl t out q = some m := by
  unfold Fab.chooseCtl at h
  split at h
  · contradiction
  · obtain ⟨p, -, hp⟩ := List.exists_of_findSome?_eq_some h
    obtain ⟨m', hoffer, heq⟩ := Option.map_eq_some_iff.mp hp
    obtain ⟨rfl, rfl⟩ := Prod.mk.inj heq
    exact hoffer

/-- In a list of messages of different edges, an edge's is the one found. -/
theorem find?_edge_of_nodup {l : List CtlMsg} (hn : (l.map (·.edge)).Nodup) {o : CtlMsg} (ho : o ∈ l) : (l.find? fun x => x.edge == o.edge) = some o := by
  induction l with
  | nil => exact absurd ho List.not_mem_nil
  | cons a r ih =>
    rw [List.map_cons, List.nodup_cons] at hn
    obtain rfl | ho := List.mem_cons.mp ho
    · exact List.find?_cons_of_pos (beq_self_eq_true _)
    · have hne : a.edge ≠ o.edge := fun h => hn.1 (h ▸ List.mem_map_of_mem ho)
      rw [List.find?_cons_of_neg (by rw [beq_iff_eq]; exact hne)]
      exact ih hn.2 ho

/-- The tile's own message takes the credits that had joined it along (R125). -/
theorem Fab.departCtl_joins {f : Fab} {t out : Nat} {m : CtlMsg} (hm : f.chooseCtl t out = some (4, m)) (hn : ((f.ctl.at (5 * t + 4)).map (·.edge)).Nodup) :
    ∃ o ∈ f.ctl.at (5 * t + 4), m = { o with count := min 64 (o.count + (f.edge m.edge).queued) } ∧
      (f.departCtl t out 4 m).ctl = f.ctl.put (5 * t + 4) ((f.ctl.at (5 * t + 4)).eraseP fun y => y.edge == m.edge) ∧
      (f.departCtl t out 4 m).edge m.edge = { f.edge m.edge with queued := (f.edge m.edge).queued - (m.count - o.count) } := by
  have hoffer := Fab.chooseCtl_offer hm
  unfold Fab.offerCtl at hoffer
  dsimp only at hoffer
  rw [if_pos rfl] at hoffer
  obtain ⟨o, hfind, rfl⟩ := Option.map_eq_some_iff.mp hoffer
  have ho : o ∈ f.ctl.at (5 * t + 4) := List.mem_of_find?_eq_some hfind
  obtain ⟨h, l, heq⟩ := f.departCtl_own t out { o with count := min 64 (o.count + (f.edge o.edge).queued) }
  have hhad : f.hadCount t { o with count := min 64 (o.count + (f.edge o.edge).queued) } = o.count := by
    unfold Fab.hadCount
    dsimp only
    rw [find?_edge_of_nodup hn ho]
    rfl
  rw [heq, hhad]
  exact ⟨o, ho, rfl, rfl, Fab.edge_setEdge_self ..⟩

/-- TILE_CREDIT_MESSAGE: the message arrives, passes on or is dropped. -/
theorem exec_tileCreditMessage {s : State} {tile : BitVec 8} {port : BitVec 2} {n q : Nat} {m : CtlMsg} (hn : neighbour tile.toNat port.toNat = some n)
    (hm : s.fab.chooseCtl n (facing port.toNat) = some (q, m)) (fault : HopFault) :
    exec (.tileCreditMessage tile port fault) s = .next (
      let t := tile.toNat
      let p := port.toNat
      let f := s.fab.departCtl n (facing p) q m
      match fault with
      | .header => (s.onFab (f.returnHop t p 8)).dropAt t p false
      | .kind => s.onFab ((f.returnHop t p 8).dropped t p)
      | _ =>
        if m.dst = t then (s.onFab ((f.returnHop t p 8).setEdge m.edge { f.edge m.edge with credits := (f.edge m.edge).credits + m.count })).noteReady [t]
        else s.onFab { f with ctl := f.ctl.mod (5 * t + p) fun l => l ++ [m] }) := by
  show execTileCreditMessage tile port fault s = _
  unfold execTileCreditMessage
  rw [hn]
  dsimp only
  rw [hm]
  cases fault <;> rfl

/-- Settles O45: hops, ejections and credits, each by its outcome. -/
theorem meshMoves : Obligations.MeshMoves := by
  intro s im tile himg t dropped
  have ht : t < 256 := tile.isLt
  refine ⟨fun port n q fl aged hn ha hinj => ?_, fun q fl aged ha => ?_, fun edge r hr hcons => ⟨?_, ?_, ?_⟩, fun port n q m hn hm => ?_⟩
  · intro f back key
    have hexec := exec_flitHop himg hn ha hinj
    obtain ⟨hframe, -, -⟩ := s.fab.depart_spec im n (facing port.toNat) q fl
    obtain ⟨hops, hback⟩ := f.returnHop_eq t port.toNat fl.vc
    have htiles : back.tiles = s.fab.tiles := by
      rw [show back = _ from hback, show f = _ from hframe]
    have hbufs : back.bufs = f.bufs := by rw [show back = _ from hback]
    refine ⟨Fab.hops_lt_of_room ht hn (Fab.arbitrate_room ha), fun h hh => ?_, ?_, ?_, fun ws => ?_⟩
    · obtain rfl | rfl := hh
      · exact hexec .none
      · exact hexec .single
    · obtain ⟨hfab, hchk, hdrop, hmem, hreport⟩ := (s.onFab back).dropAt_spec t port.toNat false
      refine ⟨_, hexec .header, ?_, ?_, hchk, ⟨hdrop.trans ?_, hmem⟩, hreport⟩
      · exact (congrArg Fab.bufs hfab).trans hbufs
      · exact (congrArg Fab.hops hfab :)
      · show satAdd ((back.tiles.at t).port.at port.toNat).dropped 1 = _
        rw [htiles]
    · refine ⟨_, hexec .kind, hbufs, rfl, (back.dropped_hdrChk t port.toNat).trans ?_, ⟨(back.dropped_at t port.toNat).trans ?_, rfl⟩, rfl⟩
      · rw [htiles]
      · rw [htiles]
    · refine ⟨_, hexec (.payload ws), ?_, ?_, fun hawake => ?_⟩
      · dsimp only
        rw [State.report_eq]
        rfl
      · dsimp only
        rw [State.report_eq]
        rfl
      · dsimp only
        rw [State.report_onFab _ _ hawake]
        exact ⟨_, rfl, rfl, rfl⟩
  · intro r ks x
    obtain ⟨u, hexec, hmem, hothers, hwords, hload, hdata⟩ := flitEject_lands himg ha
    refine ⟨u, hexec, fun huse hpoison => ?_, fun a ha => ?_, fun huse hpoison a ha => ?_, hothers, hwords, fun huse => ⟨?_, ?_⟩, fun huse => ?_, hdata⟩
    · rw [hmem, hpoison]
      exact Fab.land_clean huse
    · rw [hmem]
      exact Fab.byte_land ha
    · rw [hmem, hpoison, Fab.land_poisoned huse]
      exact Mem.poisoned_writePoison ha _
    · rw [hmem, Fab.land_descriptor huse]
    · rw [hload (by rw [huse]; exact FlitUse.noConfusion), if_pos (beq_iff_eq.mpr huse), Sparse.at_mod_self]
    · rw [hload (by rw [huse]; exact FlitUse.noConfusion), if_neg (by rw [huse]; exact Bool.false_ne_true), Sparse.at_mod_self]
  · intro hq hown
    have hexec := (exec_tileCreditSend himg hr hcons).trans (congrArg (fun u : State => Host.Outcome.next (u.offerCredits im r tile.toNat edge.toNat)) (if_neg hq))
    rw [State.offerCredits_sends hcons hq hown] at hexec
    exact ⟨_, _, hexec, rfl, rfl, rfl, hcons, rfl, Fab.edge_setEdge_self .., fun e he => Fab.edge_setEdge_ne _ _ he, rfl⟩
  · intro hq hown
    have hexec := (exec_tileCreditSend himg hr hcons).trans (congrArg (fun u : State => Host.Outcome.next (u.offerCredits im r tile.toNat edge.toNat)) (if_neg hq))
    rw [State.offerCredits_waits hcons hown, State.noteReady_eq] at hexec
    exact ⟨_, hexec, rfl⟩
  · exact fun y hq hy hin hfreed hphase => tileCreditSend_lastRead himg hr hcons hq hy hin hfreed hphase
  · intro f own waits
    have hexec := exec_tileCreditMessage hn hm
    obtain ⟨c, h, l, e, hframe, ⟨k, hedge⟩, hothers⟩ := s.fab.departCtl_spec n (facing port.toNat) q m
    obtain ⟨hops, hback⟩ := f.returnHop_eq t port.toNat 8
    have hf : f = { s.fab with ctl := c, hops := h, ctlLast := l, edges := e } := hframe
    have htiles : (f.returnHop t port.toNat 8).tiles = s.fab.tiles := by rw [hback, hf]
    refine ⟨fun hq => ?_, fun hq hnodup => ?_, fun hdst => ?_, fun hdst => ?_, ?_⟩
    · obtain ⟨h, l, heq⟩ := s.fab.departCtl_port n (facing port.toNat) m hq
      rw [show f = _ from heq]
      exact ⟨rfl, rfl⟩
    · subst hq
      exact Fab.departCtl_joins hm hnodup
    · have hnext := (hexec .none).trans (congrArg Host.Outcome.next (if_pos hdst))
      rw [State.noteReady_eq, show s.fab.departCtl n (facing port.toNat) q m = f from rfl, hback] at hnext
      refine ⟨_, hnext, rfl, ?_, fun j hj => (Fab.edge_setEdge_ne _ _ hj).trans (hothers j hj), ?_⟩
      · refine (Fab.edge_setEdge_self _ m.edge _).trans ?_
        rw [show f.edge m.edge = _ from hedge]
      · rw [hf]
        rfl
    · have hnext := (hexec .none).trans (congrArg Host.Outcome.next (if_neg hdst))
      refine ⟨_, hnext, rfl, rfl, ?_⟩
      rw [show s.fab.departCtl n (facing port.toNat) q m = _ from hf, hf]
      rfl
    · obtain ⟨hfab, hchk, hdrop, hmem, -⟩ := (s.onFab (f.returnHop t port.toNat 8)).dropAt_spec t port.toNat false
      refine ⟨_, hexec .header, ?_, ?_, hchk, hdrop.trans ?_, hmem⟩
      · refine (congrArg Fab.ctl hfab).trans ?_
        show (f.returnHop t port.toNat 8).ctl = f.ctl
        rw [hback]
      · refine (congrArg Fab.edges hfab).trans ?_
        show (f.returnHop t port.toNat 8).edges = f.edges
        rw [hback]
      · show satAdd (((f.returnHop t port.toNat 8).tiles.at t).port.at port.toNat).dropped 1 = _
        rw [htiles]

end Sys2Proof.Machine
end

section
/-! SUPPORT. O46: slot loads, halts and recomputed rows (R56, R107, R115, R118, R131, R175, R247). -/

namespace Sys2Proof.Machine

/-- Whether a slot's descriptor asks for a TAKE that is neither under way nor granted (R118). -/
def Image.asks (im : Image) (sl : Slot) : Bool := (im.descAt sl.desc).waitObj != none16 && !sl.waiting && !sl.taken

/-- A slot that is loaded and armed: its TAKE is sent where it asks for one. -/
theorem Image.arm_loaded (im : Image) (f : Fab) (y : Sync) (t k : Nat) (sl : Slot) : ∃ m, im.arm (f.setSlot t k { sl with st := .idle }, y) t k =
      ({ f with slots := m }, { y with msgs := y.msgs ++ if im.asks sl then [.take (im.descAt sl.desc).waitObj (im.descAt sl.desc).waitCount t k] else [] }) ∧
    m.at (16 * t + k) = { sl with st := .idle, waiting := sl.waiting || im.asks sl } ∧ ∀ j, j ≠ 16 * t + k → m.at j = f.slots.at j := by
  have hguard : (decide (SlotSt.idle = .empty) || decide ((im.descAt sl.desc).waitObj = none16) || sl.waiting || sl.taken) = !im.asks sl := by
    unfold Image.asks
    rw [bne, Bool.not_and, Bool.not_and, Bool.not_not, Bool.not_not, Bool.not_not]
    rfl
  unfold Image.arm
  dsimp only
  rw [Fab.slot_setSlot_self]
  dsimp only
  cases hasks : im.asks sl
  · rw [hasks] at hguard
    refine ⟨f.slots.put (16 * t + k) { sl with st := .idle }, (if_pos hguard).trans (Prod.ext rfl ?_), ?_, fun j hj => Sparse.at_put_ne _ _ hj⟩
    · rw [if_neg Bool.false_ne_true, List.append_nil]
    · rw [Bool.or_false, Sparse.at_put_self]
  · rw [hasks] at hguard
    refine ⟨(f.slots.put (16 * t + k) { sl with st := .idle }).put (16 * t + k) { sl with st := .idle, waiting := true },
      (if_neg (by rw [hguard]; exact Bool.false_ne_true)).trans (Prod.ext rfl ?_), ?_, fun j hj => ?_⟩
    · rw [if_pos rfl]
    · rw [Bool.or_true, Sparse.at_put_self]
    · rw [Sparse.at_put_ne _ _ hj, Sparse.at_put_ne _ _ hj]

section
variable {s : State} {im : Image} {tile : BitVec 8} {slot : BitVec 4}

/-- A slot that begins to load, with its device writes under way (R56, R107). -/
theorem State.loadSlot_spec (s : State) (im : Image) (t k i : Nat) : let u := s.loadSlot im t k i
    u.fab.slot t k = { st := .loading, desc := i, raw := (im.descAt i).raw, done := (s.fab.slot t k).done } ∧
    (∀ j, j ≠ 16 * t + k → u.fab.slots.at j = s.fab.slots.at j) ∧ u.fab.loads.at (16 * t + k) = (im.loadFlits t k i).length ∧
    (∀ j, j ≠ 16 * t + k → u.fab.loads.at j = s.fab.loads.at j) ∧
    u.fab.device.at (Config.deviceEntry t % 256) = s.fab.device.at (Config.deviceEntry t % 256) ++ im.loadFlits t k i ∧
    u = { s with fab := { s.fab with slots := u.fab.slots, device := u.fab.device, loads := u.fab.loads }, sync := u.sync } := by
  unfold State.loadSlot Fab.setSlot Fab.slot
  dsimp only
  exact ⟨Sparse.at_put_self .., fun j hj => Sparse.at_put_ne _ _ hj, Sparse.at_put_self .., fun j hj => Sparse.at_put_ne _ _ hj,
    Sparse.at_mod_self .., rfl⟩

theorem exec_swappedSlotLoad (himg : s.img = some im) : exec (.swappedSlotLoad tile slot) s = .next
    (if im.swapped tile.toNat slot.toNat && ((s.fab.slot tile.toNat slot.toNat).st == .idle || (s.fab.slot tile.toNat slot.toNat).st == .empty) then
      match s.adm.swapTo im s.fab tile.toNat slot.toNat with | some i => s.loadSlot im tile.toNat slot.toNat i | none => s
    else s) := by
  show execSwappedSlotLoad tile slot s = _
  unfold execSwappedSlotLoad
  split
  · next h => rw [himg] at h; contradiction
  · next im' h =>
    obtain rfl := Option.some.inj (himg.symm.trans h)
    rfl

theorem exec_swappedSlotLoad_of_open (himg : s.img = some im) (hsw : im.swapped tile.toNat slot.toNat = true)
    (hst : (s.fab.slot tile.toNat slot.toNat).st = .idle ∨ (s.fab.slot tile.toNat slot.toNat).st = .empty) : exec (.swappedSlotLoad tile slot) s = .next
      (match s.adm.swapTo im s.fab tile.toNat slot.toNat with | some i => s.loadSlot im tile.toNat slot.toNat i | none => s) := by
  refine (exec_swappedSlotLoad himg).trans (congrArg Host.Outcome.next (if_pos ?_))
  rw [hsw, Bool.true_and, Bool.or_eq_true, beq_iff_eq, beq_iff_eq]
  exact hst

theorem exec_descriptorLoadComplete (himg : s.img = some im) : exec (.descriptorLoadComplete tile slot) s = .next
    (let sl := s.fab.slot tile.toNat slot.toNat
     if sl.st ≠ .loading || s.fab.loads.at (16 * tile.toNat + slot.toNat) ≠ 0 then s else
     let fx := im.arm (s.fab.setSlot tile.toNat slot.toNat { sl with st := .idle }, s.sync) tile.toNat slot.toNat
     ({ s with fab := fx.1, sync := fx.2 }).noteReady [tile.toNat]) := by
  show execDescriptorLoadComplete tile slot s = _
  unfold execDescriptorLoadComplete
  split
  · next h => rw [himg] at h; contradiction
  · next im' h =>
    obtain rfl := Option.some.inj (himg.symm.trans h)
    rfl

/-- A halted tile has no ready slot (R115). -/
theorem State.not_ready_of_halt {t : Nat} (h : (s.fab.tiles.at t).halt = true) (im : Image) (k : Nat) : s.ready im t k = false := by
  have hheld : s.fab.held t = true := by
    unfold Fab.held
    rw [h, Bool.or_true, Bool.true_or]
  unfold State.ready
  dsimp only
  rw [hheld, Bool.not_true, Bool.and_false]
  rfl

theorem exec_tilHaltWrite (tile : BitVec 8) (v : W32) (h : s.ctl.state.live = true) : exec (.tilHaltWrite tile v) s = .next
    ((s.onFab (s.fab.modTile tile.toNat fun r => { r with halt := bit v 0 })).noteReady [tile.toNat]) := by
  show execTilHaltWrite tile v s = _
  unfold execTilHaltWrite
  rw [State.host_of_live _ h]
  rfl

theorem exec_spoonRecompute : exec (.spoonRecompute tile) s = .next
    (if s.fab.fenced.contains tile.toNat || s.gated tile.toNat 4 then s else match s.fab.spoon.at tile.toNat with
      | j :: r => { s with sites := s.sites.sample j.site j.bin, fab := { s.fab with spoon := s.fab.spoon.put tile.toNat r } }
      | [] => s) := rfl

end

/-- Settles O46: loads, halts and recomputed rows by their outcome. -/
theorem slotLoadsAndHalts : Obligations.SlotLoadsAndHalts := by
  intro s im tile slot himg t k sl
  refine ⟨fun hsw hst => ⟨fun i hi => ?_, fun hnone => ?_⟩, fun hst hloads => ?_, fun h => ?_, fun v hlive => ?_, fun j r hj hfence hgate => ?_, fun h => ?_⟩
  · have hexec := exec_swappedSlotLoad_of_open himg hsw hst
    rw [show s.adm.swapTo im s.fab tile.toNat slot.toNat = some i from hi] at hexec
    dsimp only at hexec
    exact ⟨_, hexec, s.loadSlot_spec im t k i⟩
  · have hexec := exec_swappedSlotLoad_of_open himg hsw hst
    rw [show s.adm.swapTo im s.fab tile.toNat slot.toNat = none from hnone] at hexec
    exact hexec
  · have hexec := (exec_descriptorLoadComplete (tile := tile) (slot := slot) himg).trans (congrArg Host.Outcome.next (if_neg (by
      rw [Bool.or_eq_true, decide_eq_true_eq, decide_eq_true_eq, not_or, not_not, not_not]
      exact ⟨hst, hloads⟩)))
    obtain ⟨m, harm, hslot, hothers⟩ := im.arm_loaded s.fab s.sync t k sl
    rw [show im.arm (s.fab.setSlot tile.toNat slot.toNat { s.fab.slot tile.toNat slot.toNat with st := .idle }, s.sync) tile.toNat slot.toNat = _ from harm,
      State.noteReady_eq] at hexec
    exact ⟨_, hexec, ⟨hslot, rfl⟩, hothers, rfl⟩
  · refine (exec_descriptorLoadComplete himg).trans (congrArg Host.Outcome.next (if_pos ?_))
    rw [Bool.or_eq_true, decide_eq_true_eq, decide_eq_true_eq]
    exact h
  · have hexec := exec_tilHaltWrite tile v hlive
    rw [State.noteReady_eq] at hexec
    refine ⟨_, hexec, ?_, fun j hj => Sparse.at_mod_ne s.fab.tiles (fun r => { r with halt := bit v 0 }) hj, rfl, fun hv j => State.not_ready_of_halt ?_ im j⟩
    · rw [← bit_eq_getLsbD]
      exact Sparse.at_mod_self s.fab.tiles t fun r => { r with halt := bit v 0 }
    · rw [← bit_eq_getLsbD] at hv
      exact (congrArg TileRegs.halt (Sparse.at_mod_self s.fab.tiles t fun r => { r with halt := bit v 0 })).trans hv
  · refine exec_spoonRecompute.trans (congrArg Host.Outcome.next ?_)
    rw [show s.fab.fenced.contains tile.toNat = false from hfence, show s.gated tile.toNat 4 = false from hgate,
      show s.fab.spoon.at tile.toNat = j :: r from hj]
    rfl
  · refine exec_spoonRecompute.trans (congrArg Host.Outcome.next ?_)
    split
    · rfl
    · next hno =>
      rw [Bool.or_eq_true, not_or] at hno
      obtain h | h | h := h
      · rw [show s.fab.spoon.at tile.toNat = [] from h]
      · exact absurd h hno.1
      · exact absurd h hno.2

end Sys2Proof.Machine
end

section
/-! SUPPORT. O47: a frame released while the intake holds another count of row sets to a micro-batch than the image (R258, R431). -/

namespace Sys2Proof.Machine

/-- A state whose image has one row set to a micro-batch, and whose intake counts two: the frame's micro-batch 1 is row set 1 by the image, row sets 2
and 3 by the intake. Row set 2 is live. -/
def twoRowsHeld : State :=
  { State.reset with
    img := some default
    adm := { frames := [{ mb := 0, placement := 0, inMb := 1 }] }
    inp := { mbRows := 2, live := [2] } }

theorem twoRowsHeld_releasable : twoRowsHeld.adm.releasable default twoRowsHeld.fab { mb := 0, placement := 0, inMb := 1 } = true := by decide +kernel

/-- FRAME_RELEASE frees by the intake's count. -/
theorem exec_frameRelease_twoRowsHeld : ∃ t, exec (.frameRelease 0) twoRowsHeld = .next t ∧ t.inp.live = [] := by
  refine ⟨_, congrArg Host.Outcome.next (if_neg ?_), rfl⟩
  show ¬ (!twoRowsHeld.adm.releasable default twoRowsHeld.fab { mb := 0, placement := 0, inMb := 1 }) = true
  rw [twoRowsHeld_releasable]
  exact Bool.false_ne_true

/-- Refutes O47: the row sets freed with a frame are those of the intake's own count of rows to a micro-batch, which the statement does not tie to the
image's. -/
theorem not_microBatchFlow : ¬ Obligations.MicroBatchFlow := by
  unfold Obligations.MicroBatchFlow
  intro h
  obtain ⟨-, -, hrelease, -⟩ := h twoRowsHeld default rfl
  obtain ⟨t, hexec, -, hlive, -⟩ := (hrelease 0 { mb := 0, placement := 0, inMb := 1 } rfl).1 twoRowsHeld_releasable
  obtain ⟨u, hu, hnone⟩ := exec_frameRelease_twoRowsHeld
  obtain rfl := Host.Outcome.next.inj (hexec.symm.trans hu)
  rw [hnone] at hlive
  exact absurd hlive (by decide)

end Sys2Proof.Machine
end

section
/-! SUPPORT. Reads that the updates of a step rest on (R285, R304, R517). -/

namespace Sys2Proof.Machine

section
variable (s : State)

/-- Errors met do not abandon a step. -/
theorem State.report_abandoning (r : Report) : (s.report r).flt.abandoning = s.flt.abandoning := by
  unfold State.report
  split <;> rfl

theorem State.corrected_abandoning (k addr : Nat) (inj : Bool) : (s.corrected k addr inj).flt.abandoning = s.flt.abandoning := by
  unfold State.corrected
  dsimp only
  rw [State.report_abandoning]
  split <;> rfl

theorem State.uncorrected_abandoning (k addr source : Nat) (stopped abandon inj : Bool) :
    (s.uncorrected k addr source stopped abandon inj).flt.abandoning = s.flt.abandoning := by
  unfold State.uncorrected
  dsimp only
  split
  · split <;> exact State.report_abandoning ..
  · split <;> exact State.report_abandoning ..

theorem State.meetErrs_abandoning (us : List (Nat × List Nat)) (source : Nat) (stopped abandon : Bool) (via : Nat → Nat) (inj : Bool) :
    (s.meetErrs us source stopped abandon via inj).1.flt.abandoning = s.flt.abandoning :=
  foldl_keeps (P := fun r : State × Bool => r.1.flt.abandoning = s.flt.abandoning) (fun r u hr => by
    dsimp only
    unfold State.meetErr
    split
    · exact hr
    · split
      · exact hr
      · rw [State.corrected_abandoning]; exact hr
      · rw [State.uncorrected_abandoning]; exact hr) us rfl

theorem State.eccRead_abandoning (ks : List Nat) (e : Ecc) (source : Nat) (stopped abandon : Bool) (via : Nat → Nat) :
    (s.eccRead ks e source stopped abandon via).1.flt.abandoning = s.flt.abandoning := by
  have hold : (if ks.any s.mem.poisoned then { s with memr := { s.memr with poisonRd := true } } else s).flt.abandoning = s.flt.abandoning := by
    split <;> rfl
  unfold State.eccRead
  dsimp only
  exact (State.meetErrs_abandoning ..).trans hold

theorem State.eccRead_marked {ks : List Nat} (h : ks.any s.mem.poisoned = true) (e : Ecc) (source : Nat) (stopped abandon : Bool) (via : Nat → Nat) :
    (s.eccRead ks e source stopped abandon via).2 = true := by
  unfold State.eccRead
  dsimp only
  rw [h]
  rfl

end

/-- The step of state s is given up in t, or with an update begun its end will see to it (R304, R517). -/
def State.GivesUp (s t : State) : Prop :=
  t.adm.running = s.adm.running ∧ (if s.adm.running = true ∧ s.adm.updStarted = true then t.flt.deferred = true
    else t.flt.abandoning = true ∧ t.adm.refused = true ∧ t.fab.hold = true)

/-- Giving up rests on admission, faults and tiles alone. -/
theorem State.GivesUp.of_frame {s t u : State} (h : s.GivesUp t) (hadm : u.adm = t.adm) (hflt : u.flt = t.flt) (hfab : u.fab = t.fab) : s.GivesUp u := by
  unfold State.GivesUp
  rw [hadm, hflt, hfab]
  exact h

theorem State.abandon_eq (s : State) : s.abandon = { s with adm := s.abandon.adm, fab := s.abandon.fab, flt := s.abandon.flt } := by
  unfold State.abandon
  split
  · rfl
  · split <;> rfl

/-- An abandonment gives the step up. -/
theorem State.givesUp_abandon {s t : State} (hadm : t.adm = s.adm) (hab : t.flt.abandoning = false) : s.GivesUp t.abandon := by
  have hnone : ¬ t.flt.abandoning = true := fun h => Bool.false_ne_true (hab.symm.trans h)
  unfold State.GivesUp
  by_cases h : s.adm.running = true ∧ s.adm.updStarted = true
  · have heq : t.abandon = { t with flt := { t.flt with deferred := true } } := (if_neg hnone).trans (if_pos (by rw [hadm, h.1, h.2]; rfl))
    rw [if_pos h, heq]
    exact ⟨congrArg Adm.running hadm, rfl⟩
  · have heq : t.abandon = { t with adm := { t.adm with refused := true }, fab := { t.fab with hold := true, readyLog := [] }
                                    flt := { t.flt with abandoning := true } } :=
      (if_neg hnone).trans (if_neg (by rw [hadm, Bool.and_eq_true]; exact h))
    rw [if_neg h, heq]
    exact ⟨(congrArg Adm.running hadm :), rfl, rfl, rfl⟩

section
variable {s : State} {ks : List Nat} (im : Image)

/-- A clean read of places without marks. -/
theorem State.stepRead_clean (h : ks.any s.mem.poisoned = false) : s.stepRead im ks .clean = (s, false) := by
  have hread : s.eccRead ks .clean 0 false true im.addrOf = (s, false) := by
    rw [State.eccRead_clean _ _ _ _ _ _ (.inr (.inl rfl)), h]
    rfl
  unfold State.stepRead
  rw [hread]
  exact ite_self _

/-- A read that meets a mark gives the step up; with an update begun it goes on (R304, R517). -/
theorem State.stepRead_marked (h : ks.any s.mem.poisoned = true) (hab : s.flt.abandoning = false) (e : Ecc) :
    s.GivesUp (s.stepRead im ks e).1 ∧ (s.stepRead im ks e).2 = (!s.adm.updStarted) ∧ (s.stepRead im ks e).1.upd = s.upd ∧
      (s.stepRead im ks e).1.gx = s.gx ∧ ∀ a, (s.stepRead im ks e).1.mem.byte a = s.mem.byte a := by
  have hpoison : ¬ (s.mem.poison.isEmpty && e.errs.isEmpty) = true := fun hp => by
    rw [Bool.and_eq_true, List.isEmpty_iff] at hp
    rw [Mem.any_poisoned_of_no_marks hp.1] at h
    exact Bool.false_ne_true h
  have hread : s.stepRead im ks e = ((s.eccRead ks e 0 false true im.addrOf).1.abandon, !s.adm.updStarted) := by
    unfold State.stepRead
    rw [if_neg hpoison]
    exact if_pos (s.eccRead_marked h ..)
  have hkeep : (s.eccRead ks e 0 false true im.addrOf).1.adm = s.adm ∧ (s.eccRead ks e 0 false true im.addrOf).1.upd = s.upd ∧
      (s.eccRead ks e 0 false true im.addrOf).1.gx = s.gx := by simp
  obtain ⟨hadm, hupd, hgx⟩ := hkeep
  rw [hread]
  refine ⟨State.givesUp_abandon hadm ((s.eccRead_abandoning ..).trans hab), rfl, ?_, ?_, fun a => ?_⟩
  · rw [State.abandon_eq]
    exact hupd
  · rw [State.abandon_eq]
    exact hgx
  · rw [State.abandon_eq]
    exact congrArg (fun b : Sparse Byte => Sparse.get Mem.blank b a) (State.eccRead_bytes ..)

end
end Sys2Proof.Machine
end

section
/-! SUPPORT. O48: gradient blocks accumulate in micro-batch order, parked else (R191, R283 to R285, R304, R517). -/

namespace Sys2Proof.Machine

section
variable (s : State) (im : Image) (m g : Nat) (xs : List ((Nat × Nat) × F32))

theorem Upd.advance_spec (u : Upd) (n : Nat) : (u.advance im g n).contribs = u.contribs ∧ (u.advance im g n).parked = u.parked ∧
    (im.blockElems g ≤ u.filled.at g + n → (u.advance im g n).expect.at g = u.expect.at g + 1 ∧ (u.advance im g n).filled.at g = 0) ∧
    (u.filled.at g + n < im.blockElems g → (u.advance im g n).expect = u.expect ∧ (u.advance im g n).filled.at g = u.filled.at g + n) ∧
    ∀ h, h ≠ g → (u.advance im g n).expect.at h = u.expect.at h := by
  unfold Upd.advance
  dsimp only
  split
  · next hle =>
    exact ⟨rfl, rfl, fun _ => ⟨Sparse.at_mod_self u.expect g (· + 1), Sparse.at_put_self u.filled g 0⟩, fun hlt => absurd hle (Nat.not_le.mpr hlt), fun h hh => Sparse.at_mod_ne u.expect (· + 1) hh⟩
  · next hlt => exact ⟨rfl, rfl, fun hle => absurd hle hlt, fun _ => ⟨rfl, Sparse.at_put_self u.filled g _⟩, fun _ _ => rfl⟩

theorem State.countUnbound_eq (c : Counts) : ∃ t, s.countUnbound c = { s with sites := t } := by
  unfold State.countUnbound
  split <;> exact ⟨_, rfl⟩

/-- Accumulating touches the memory, the update block and the sites. -/
theorem State.accumulate_eq : ∃ t, s.accumulate im m g xs = { s with mem := (im.accumulate s.mem s.tmr.step.toNat s.gx.rndMember m g xs).1
                                                                     upd := (s.upd.advance im g xs.length).releasePages, sites := t } := by
  unfold State.accumulate
  dsimp only
  obtain ⟨t, ht⟩ := State.countUnbound_eq { s with mem := (im.accumulate s.mem s.tmr.step.toNat s.gx.rndMember m g xs).1
                                                   upd := (s.upd.advance im g xs.length).releasePages }
    (im.accumulate s.mem s.tmr.step.toNat s.gx.rndMember m g xs).2
  exact ⟨t, ht⟩

/-- The page reserved for a block and micro-batch. -/
def Upd.pageOf (u : Upd) (m g : Nat) : Nat := match u.reserved.find? fun r => r.1 == m && r.2.1 == g with | some r => r.2.2 | none => 0

theorem Upd.pageOf_reserved {u : Upd} {m g : Nat} {r : Nat × Nat × Nat} (h : u.reserved.find? (fun r => r.1 == m && r.2.1 == g) = some r) :
    u.pageOf m g = r.2.2 := by
  unfold Upd.pageOf
  rw [h]

theorem State.park_eq : ∃ mem, s.park im m g xs = { s with mem := mem, upd := { s.upd with
      parked := s.upd.parked ++ [{ block := g, mb := m, page := s.upd.pageOf m g, elems := xs.map (·.1) }] } } ∧
    ∀ a, a ∉ xs.flatMap (fun x => im.regPlaces im.upd.parkRegion (s.upd.pageOf m g * 65536 + 4 * BlockAt.pos x.1) 4) → mem.byte a = s.mem.byte a := by
  refine ⟨_, rfl, fun a ha => ?_⟩
  show (xs.foldl (fun mem x => im.regWrite mem im.upd.parkRegion (s.upd.pageOf m g * 65536 + 4 * BlockAt.pos x.1) (bytesOf 4 x.2.toNat)) s.mem).byte a = _
  generalize s.mem = mem
  induction xs generalizing mem with
  | nil => rfl
  | cons x r ih =>
    rw [List.flatMap_cons, List.mem_append, not_or] at ha
    rw [List.foldl_cons, ih ha.2]
    unfold Image.regWrite
    rw [bytesOf_length]
    exact Mem.byte_write_of_not_mem mem (fun c hc => (List.of_mem_zip hc).1) ha.1

/-- A block's elements of a contribution: accumulated in their turn, parked else (R285). -/
def State.takeBlock (s : State) (im : Image) (c : Contribution) (g : Nat) : State :=
  let xs := (c.items.filter fun x => x.1 == g).map (·.2)
  if s.upd.expect.at g = c.mb then s.accumulate im c.mb g xs else s.park im c.mb g xs

/-- What the blocks of a contribution leave alone. -/
theorem State.takeBlocks_eq (c : Contribution) (l : List Nat) : ∃ mem upd t, l.foldl (fun s g => s.takeBlock im c g) s =
    { s with mem := mem, upd := upd, sites := t } ∧ upd.contribs = s.upd.contribs :=
  foldl_keeps (P := fun u : State => ∃ mem upd t, u = { s with mem := mem, upd := upd, sites := t } ∧ upd.contribs = s.upd.contribs)
    (fun u g ⟨mem, upd, t, hu, hc⟩ => by
      subst hu
      unfold State.takeBlock
      dsimp only
      split
      · obtain ⟨t', h⟩ := State.accumulate_eq { s with mem := mem, upd := upd, sites := t } im c.mb g ((c.items.filter fun x => x.1 == g).map (·.2))
        exact ⟨_, _, t', h, (Upd.advance_spec im g upd _).1.trans hc⟩
      · obtain ⟨mem', h, -⟩ := State.park_eq { s with mem := mem, upd := upd, sites := t } im c.mb g ((c.items.filter fun x => x.1 == g).map (·.2))
        exact ⟨mem', _, t, h, hc⟩) l ⟨_, _, _, rfl, rfl⟩

end

section
variable {s : State} {im : Image}

/-- The accumulators that a contribution's elements in their turn read. -/
def State.accReads (s : State) (im : Image) (c : Contribution) : List Nat :=
  (c.items.filter fun x => s.upd.expect.at x.1 == c.mb).flatMap fun x => im.accPlaces c.mb x.1 [x.2.1]

/-- Contribution i is taken: its blocks one by one. -/
def State.takeContribution (s : State) (im : Image) (i : Nat) (c : Contribution) : State :=
  (c.items.map (·.1)).eraseDups.foldl (fun s g => s.takeBlock im c g) { s with upd := { s.upd with contribs := s.upd.contribs.eraseIdx i } }

theorem exec_accumulatingStore (himg : s.img = some im) {i : Nat} {c : Contribution} (hc : s.upd.contribs[i]? = some c) (x : Ecc) :
    exec (.accumulatingStore i x) s = .next (let r := s.stepRead im (s.accReads im c) x; if r.2 then r.1 else r.1.takeContribution im i c) := by
  show execAccumulatingStore i x s = _
  unfold execAccumulatingStore
  split
  · next im' c' hi hf =>
    obtain rfl := Option.some.inj (himg.symm.trans hi)
    obtain rfl := Option.some.inj (hc.symm.trans hf)
    rfl
  · next h => exact absurd hc (h im c himg)

theorem State.takeContribution_eq (s : State) (im : Image) (i : Nat) (c : Contribution) : ∃ mem upd t, s.takeContribution im i c =
    { s with mem := mem, upd := upd, sites := t } ∧ upd.contribs = s.upd.contribs.eraseIdx i :=
  State.takeBlocks_eq { s with upd := { s.upd with contribs := s.upd.contribs.eraseIdx i } } im c _

/-- A contribution of one block. -/
theorem State.takeContribution_single {c : Contribution} {g : Nat} (h : (c.items.map (·.1)).eraseDups = [g]) (s : State) (im : Image) (i : Nat) :
    s.takeContribution im i c =
      let u := { s with upd := { s.upd with contribs := s.upd.contribs.eraseIdx i } }
      if s.upd.expect.at g = c.mb then u.accumulate im c.mb g (c.items.map (·.2)) else u.park im c.mb g (c.items.map (·.2)) := by
  have hall : c.items.filter (fun x => x.1 == g) = c.items := List.filter_eq_self.mpr fun x hx => by
    have hmem : x.1 ∈ (c.items.map (·.1)).eraseDups := List.mem_eraseDups.mpr (List.mem_map_of_mem hx)
    rw [h, List.mem_singleton] at hmem
    exact beq_iff_eq.mpr hmem
  unfold State.takeContribution
  rw [h]
  show State.takeBlock _ im c g = _
  unfold State.takeBlock
  rw [hall]

/-- What a parked contribution of block g reads as its turn comes. -/
def Image.parkReads (im : Image) (p : Parked) (g : Nat) : List Nat := im.parkPlaces p.page p.elems ++ im.accPlaces p.mb g p.elems

/-- The elements of a parked contribution with their values. -/
def State.parkedElems (s : State) (im : Image) (p : Parked) : List ((Nat × Nat) × F32) :=
  p.elems.map fun rc => (rc, (BitVec.ofNat 32 (numOf (im.regRead s.mem im.upd.parkRegion (p.page * 65536 + 4 * BlockAt.pos rc) 4)) : F32))

/-- A parked contribution is accumulated, with the marks of its page. -/
def State.takeParked (s : State) (im : Image) (g i : Nat) (p : Parked) : State :=
  let t := State.accumulate { s with upd := { s.upd with parked := s.upd.parked.eraseIdx i } } im p.mb g (s.parkedElems im p)
  { t with mem := t.mem.carry s.mem (im.parkPlaces p.page p.elems) ((im.accPlaces 1 g p.elems).flatMap fun k => [k, k]) }

theorem exec_parkedAccumulate (himg : s.img = some im) {g i : Nat}
    (hi : indexOf (fun (p : Parked) => p.block == g && p.mb == s.upd.expect.at g) s.upd.parked = some i) (x : Ecc) :
    exec (.parkedAccumulate g x) s = .next (
      let p := s.upd.parked.getD i default
      let r := s.stepRead im (im.parkReads p g) x
      if r.2 then r.1 else r.1.takeParked im g i p) := by
  show execParkedAccumulate g x s = _
  unfold execParkedAccumulate
  split
  · next im' i' him hf =>
    obtain rfl := Option.some.inj (himg.symm.trans him)
    obtain rfl := Option.some.inj (hi.symm.trans hf)
    rfl
  · next h => exact absurd hi (h im i himg)

theorem Mem.byte_carry (m old : Mem) (src dst : List Nat) (a : Nat) : (m.carry old src dst).byte a = m.byte a := by
  unfold Mem.carry
  split
  · rfl
  · exact Mem.byte_writePoison ..

theorem State.takeParked_spec (s : State) (im : Image) (g i : Nat) (p : Parked) : ∃ mem t, s.takeParked im g i p =
      { s with mem := mem, upd := (Upd.advance im { s.upd with parked := s.upd.parked.eraseIdx i } g (s.parkedElems im p).length).releasePages, sites := t } ∧
    ∀ a, mem.byte a = (im.accumulate s.mem s.tmr.step.toNat s.gx.rndMember p.mb g (s.parkedElems im p)).1.byte a := by
  unfold State.takeParked
  dsimp only
  obtain ⟨t, ht⟩ := State.accumulate_eq { s with upd := { s.upd with parked := s.upd.parked.eraseIdx i } } im p.mb g (s.parkedElems im p)
  rw [ht]
  exact ⟨_, t, rfl, fun a => Mem.byte_carry ..⟩

end

/-- Settles O48: a contribution whose reads meet a mark gives the step up; else its elements are accumulated in their turn or parked. -/
theorem gradientsAccumulate : Obligations.GradientsAccumulate := by
  intro s im himg gives
  refine ⟨fun i c hc => ?_, fun g i hi => ?_⟩
  · intro mine
    have hexec : ∀ x, exec (.accumulatingStore i x) s = .next (let r := s.stepRead im mine x; if r.2 then r.1 else r.1.takeContribution im i c) :=
      exec_accumulatingStore himg hc
    refine ⟨fun hmark hab x => ?_, fun hclean => ⟨?_, fun g hg => ?_⟩⟩
    · obtain ⟨hgives, hstop, hupd, hgx, hbytes⟩ := State.stepRead_marked im hmark hab x
      obtain ⟨mem, upd, t, htake, -⟩ := (s.stepRead im mine x).1.takeContribution_eq im i c
      refine ⟨_, hexec x, ?_, fun hstarted => ?_⟩
      · show s.GivesUp (if (s.stepRead im mine x).2 then (s.stepRead im mine x).1 else (s.stepRead im mine x).1.takeContribution im i c)
        split
        · exact hgives
        · rw [htake]
          exact hgives.of_frame rfl rfl rfl
      · have hstop' : (s.stepRead im mine x).2 = true := by rw [hstop, hstarted]; rfl
        show (if (s.stepRead im mine x).2 then (s.stepRead im mine x).1 else (s.stepRead im mine x).1.takeContribution im i c).upd = s.upd ∧ _
        dsimp only
        rw [if_pos hstop']
        exact ⟨hupd, hbytes, hgx⟩
    · have hnext := hexec .clean
      rw [State.stepRead_clean im hclean] at hnext
      obtain ⟨mem, upd, t, htake, hcontribs⟩ := s.takeContribution_eq im i c
      have hnext' : exec (.accumulatingStore i .clean) s = .next (s.takeContribution im i c) := hnext
      rw [htake] at hnext'
      exact ⟨_, hnext', hcontribs, rfl⟩
    · have hnext := hexec .clean
      rw [State.stepRead_clean im hclean] at hnext
      have hnext' : exec (.accumulatingStore i .clean) s = .next (s.takeContribution im i c) := hnext
      rw [State.takeContribution_single hg] at hnext'
      intro xs
      refine ⟨fun hturn => ?_, fun hlater => ?_⟩
      · dsimp only at hnext'
        rw [if_pos hturn] at hnext'
        obtain ⟨t, ht⟩ := State.accumulate_eq { s with upd := { s.upd with contribs := s.upd.contribs.eraseIdx i } } im c.mb g xs
        obtain ⟨-, hparked, hfull, hpart, hothers⟩ := Upd.advance_spec im g { s.upd with contribs := s.upd.contribs.eraseIdx i } xs.length
        rw [ht] at hnext'
        exact ⟨_, hnext', rfl, hparked, fun h => ⟨(hfull h).1.trans (congrArg (· + 1) hturn), (hfull h).2⟩,
          fun h => ⟨(congrArg (fun e : Sparse Nat => e.at g) (hpart h).1).trans hturn, (hpart h).2⟩, hothers⟩
      · dsimp only at hnext'
        rw [if_neg hlater] at hnext'
        obtain ⟨mem, hpark, hbytes⟩ := State.park_eq { s with upd := { s.upd with contribs := s.upd.contribs.eraseIdx i } } im c.mb g xs
        rw [hpark] at hnext'
        exact ⟨_, _, hnext', rfl, rfl, rfl, fun r hr => Upd.pageOf_reserved hr, hbytes⟩
  · intro p xs read
    have hexec : ∀ x, exec (.parkedAccumulate g x) s = .next (let r := s.stepRead im read x; if r.2 then r.1 else r.1.takeParked im g i p) :=
      exec_parkedAccumulate himg hi
    refine ⟨fun hmark hab x => ?_, fun hclean => ?_⟩
    · obtain ⟨hgives, hstop, hupd, hgx, hbytes⟩ := State.stepRead_marked im hmark hab x
      obtain ⟨mem, t, htake, -⟩ := (s.stepRead im read x).1.takeParked_spec im g i p
      refine ⟨_, hexec x, ?_, fun hstarted => ?_⟩
      · show s.GivesUp (if (s.stepRead im read x).2 then (s.stepRead im read x).1 else (s.stepRead im read x).1.takeParked im g i p)
        split
        · exact hgives
        · rw [htake]
          exact hgives.of_frame rfl rfl rfl
      · have hstop' : (s.stepRead im read x).2 = true := by rw [hstop, hstarted]; rfl
        dsimp only
        rw [if_pos hstop']
        exact ⟨hupd, hbytes, hgx⟩
    · have hnext := hexec .clean
      rw [State.stepRead_clean im hclean] at hnext
      have hnext' : exec (.parkedAccumulate g .clean) s = .next (s.takeParked im g i p) := hnext
      obtain ⟨mem, t, htake, hmem⟩ := s.takeParked_spec im g i p
      obtain ⟨-, hparked, hfull, hpart, -⟩ := Upd.advance_spec im g { s.upd with parked := s.upd.parked.eraseIdx i } xs.length
      rw [htake] at hnext'
      refine ⟨_, hnext', hparked, hmem, ?_, rfl⟩
      split
      · next h => exact (hfull h).1
      · next h => exact congrArg (fun e : Sparse Nat => e.at g) (hpart (Nat.not_le.mp h)).1

end Sys2Proof.Machine
end

section
/-! SUPPORT. What the errors of a read leave (R453 to R455), and what the sync objects leave of the faults. -/

namespace Sys2Proof.Machine

/-- All that errors met by a read may change: tiles' registers, the fault block's counts and reports, memory and its registers. -/
def State.MetErrors (s t : State) : Prop := ∃ tl c r m x, t = { s with
  fab := { s.fab with tiles := tl }, flt := { s.flt with classCnt := c, reports := r }, mem := m, memr := x }

section
variable {s t : State}

theorem State.MetErrors.refl (s : State) : s.MetErrors s := ⟨_, _, _, _, _, rfl⟩

theorem State.MetErrors.trans {u : State} (h : s.MetErrors t) (h' : t.MetErrors u) : s.MetErrors u := by
  obtain ⟨tl, c, r, m, x, rfl⟩ := h
  obtain ⟨tl', c', r', m', x', rfl⟩ := h'
  exact ⟨tl', c', r', m', x', rfl⟩

theorem State.metErrors_report (s : State) (q : Report) : s.MetErrors (s.report q) := by
  unfold State.report
  split
  · exact ⟨_, _, _, _, _, rfl⟩
  · exact .refl s

theorem State.metErrors_corrected (s : State) (k addr : Nat) (inj : Bool) : s.MetErrors (s.corrected k addr inj) := by
  unfold State.corrected
  dsimp only
  refine State.MetErrors.trans ?_ (State.metErrors_report ..)
  split <;> exact ⟨_, _, _, _, _, rfl⟩

theorem State.metErrors_uncorrected (s : State) (k addr source : Nat) (stopped abandon inj : Bool) :
    s.MetErrors (s.uncorrected k addr source stopped abandon inj) := by
  unfold State.uncorrected
  dsimp only
  split
  · split <;> exact State.MetErrors.trans ⟨_, _, _, _, _, rfl⟩ (State.metErrors_report ..)
  · split <;> exact State.MetErrors.trans ⟨_, _, _, _, _, rfl⟩ (State.metErrors_report ..)

theorem State.metErrors_meetErrs (s : State) (us : List (Nat × List Nat)) (source : Nat) (stopped abandon : Bool) (via : Nat → Nat) (inj : Bool) :
    s.MetErrors (s.meetErrs us source stopped abandon via inj).1 :=
  foldl_keeps (P := fun r : State × Bool => s.MetErrors r.1) (fun r u hr => by
    dsimp only
    unfold State.meetErr
    split
    · exact hr
    · split
      · exact hr
      · exact hr.trans (State.metErrors_corrected ..)
      · exact hr.trans (State.metErrors_uncorrected ..)) us (.refl s)

theorem State.metErrors_eccRead (s : State) (ks : List Nat) (e : Ecc) (source : Nat) (stopped abandon : Bool) (via : Nat → Nat) :
    s.MetErrors (s.eccRead ks e source stopped abandon via).1 := by
  unfold State.eccRead
  dsimp only
  refine State.MetErrors.trans ?_ (State.metErrors_meetErrs ..)
  split
  · exact ⟨_, _, _, _, _, rfl⟩
  · exact .refl s

theorem State.metErrors_engineRead (s : State) (im : Image) (ks : List Nat) (e : Ecc) : s.MetErrors (s.engineRead im ks e) := by
  unfold State.engineRead
  split
  · exact .refl s
  · exact State.metErrors_eccRead ..

/-- An engine's clean read sets at most POISON_RD. -/
theorem State.engineRead_of_clean (s : State) (im : Image) (ks : List Nat) : ∃ x, s.engineRead im ks .clean = { s with memr := x } := by
  unfold State.engineRead
  split
  · exact ⟨_, rfl⟩
  · rw [State.eccRead_clean _ _ _ _ _ _ (.inr (.inl rfl))]
    dsimp only
    split <;> exact ⟨_, rfl⟩

end

theorem Report.mem_enter (r : Report) (l : List Report) : r ∈ r.enter l := by
  unfold Report.enter
  exact List.mem_append_right _ List.mem_cons_self

theorem Report.mem_enter_of_mem (r : Report) {q : Report} {l : List Report} (h : q ∈ l) : q ∈ r.enter l := by
  unfold Report.enter
  rw [← List.takeWhile_append_dropWhile (p := fun x => !r.before x) (l := l), List.mem_append] at h
  exact List.mem_append.mpr (h.imp_right (List.mem_cons_of_mem _))

theorem State.mem_report {s : State} {q : Report} (h : q ∈ s.flt.reports) (r : Report) : q ∈ (s.report r).flt.reports := by
  unfold State.report
  split
  · exact Report.mem_enter_of_mem _ h
  · exact h

/-- A report under way outlasts what a sync object does. -/
theorem State.mem_syncOp {s : State} {q : Report} (h : q ∈ s.flt.reports) (o : Nat) (p : SyncOp) : q ∈ (s.syncOp o p).flt.reports :=
  foldl_keeps (P := fun t : State => q ∈ t.flt.reports) (fun t x ht => by
    cases x with
    | granted w => cases w <;> simpa [State.syncEff] using ht
    | saturated o => exact State.mem_report ht _
    | fired o n =>
      have hevent : q ∈ (if (t.sync.objs.at o).notify then t.event 0x04 0 (BitVec.ofNat 64 o) (n.setWidth 64) 0 else t).flt.reports := by
        split
        · simpa using ht
        · exact ht
      unfold State.syncEff
      dsimp only
      generalize (if (t.sync.objs.at o).notify then t.event 0x04 0 (BitVec.ofNat 64 o) (n.setWidth 64) 0 else t) = u at hevent ⊢
      split
      · split
        · exact hevent
        · exact hevent
      · exact hevent) _ h

/-- What messages sent change. -/
def State.Sent (s t : State) : Prop := ∃ x l, t = { s with gx := x, lnk := l }

theorem State.sent_foldl {α : Type} {f : State → α → State} (hf : ∀ (t : State) (a : α), t.Sent (f t a)) (l : List α) (s : State) : s.Sent (l.foldl f s) :=
  foldl_keeps (P := s.Sent) (fun u a ⟨x, k, hu⟩ => by
    obtain ⟨y, j, hy⟩ := hf u a
    exact ⟨y, j, by rw [hy, hu]⟩) l ⟨s.gx, s.lnk, rfl⟩

theorem State.sent_toAll (s : State) (m : XMsg) : s.Sent (s.toAll m) := State.sent_foldl (fun t k => ⟨_, _, t.sendX_frame k m⟩) _ s

theorem State.sent_sendPanel (s : State) (im : Image) (g gen : Nat) : s.Sent (s.sendPanel im g gen) := by
  unfold State.sendPanel
  split
  · exact ⟨_, _, rfl⟩
  · exact State.sent_foldl (fun t p => t.sent_toAll _) _ s

end Sys2Proof.Machine
end

section
/-! SUPPORT. O49: the start, the sweep and the end of a step (R39, R41, R246, R259, R286, R289, R294, R295, R297, R359, R376, R487, R523, R526). -/

namespace Sys2Proof.Machine

/-! The start -/

theorem State.setGx_eq (s : State) (x : Gx) : ∃ h, s.setGx x = { s with gx := x, hif := h } := by
  unfold State.setGx State.event
  dsimp only
  split
  · exact ⟨_, rfl⟩
  · split <;> exact ⟨_, rfl⟩

/-- Whether this step is one of those that RUN asked for. -/
def Ctl.counts (c : Ctl) : Bool := !c.untilDrain && c.stepsLeft != 0

theorem Ctl.counts_iff (c : Ctl) : c.counts = true ↔ c.untilDrain = false ∧ c.stepsLeft ≠ 0 := by
  unfold Ctl.counts
  rw [Bool.and_eq_true, Bool.not_eq_true', bne_iff_ne]

/-- The state in which a step has begun, before its last step moves the device to DRAINING. -/
def State.begunWith (s : State) (x : Gx) (h : Hif) (sweep : Option (Nat × List Nat)) : State :=
  { s with
    gx := x, hif := h
    adm := { s.adm.clear with running := true, depth := s.adm.cfgDepth.toNat, lossExp := s.upd.lossInt, lrScale := s.upd.lrScale, backlog := none
                              force := if s.ctl.placeForce then some s.ctl.placement.toNat else none }
    tmr := s.tmr.startStep, fab := { s.fab with qStart := s.fab.q, fenced := [] }, upd := { s.upd.restart with sweep := sweep }
    ctl := { s.ctl with stepsLeft := s.ctl.stepsLeft - (if s.ctl.counts then 1 else 0) } }

theorem State.beginStep_eq (s : State) (im : Image) : ∃ x h w, s.beginStep im =
    if s.ctl.counts && s.ctl.stepsLeft == 1 then (s.begunWith x h w).goto .draining else s.begunWith x h w := by
  obtain ⟨h, hx⟩ := s.setGx_eq (Gx.takeEpoch im { s.gx with rounded := false, compareDue := false } s.tmr.step.toNat)
  unfold State.beginStep
  dsimp only
  rw [hx]
  exact ⟨_, h, _, rfl⟩

section
variable {s : State} {im : Image}

theorem exec_stepStart (himg : s.img = some im) : exec .stepStart s = .next
    (if s.ctl.state ≠ .stepping || s.adm.running || s.flt.abandoning || s.startHeld then s
      else if im.upd.backlogObj = none16 then s.beginStep im
      else
        let u := if s.adm.backlog.isNone then
            ({ s with adm := { s.adm with backlog := some false } } : State).syncOp im.upd.backlogObj (.take .backlog 1)
          else s
        if u.adm.backlog = some true then u.beginStep im else u) := by
  show execStepStart s = _
  unfold execStepStart
  split
  · next h => rw [himg] at h; contradiction
  · next im' h =>
    obtain rfl := Option.some.inj (himg.symm.trans h)
    rfl

theorem State.startGuard (hst : s.ctl.state = .stepping) (hrun : s.adm.running = false) (hab : s.flt.abandoning = false) :
    (s.ctl.state ≠ .stepping || s.adm.running || s.flt.abandoning || s.startHeld) = s.startHeld := by
  rw [hst, hrun, hab]
  rfl

/-- A TAKE on the backlog object is issued once (R295). -/
theorem State.backlogTake_issued {b : Bool} (h : s.adm.backlog = some b) : (if s.adm.backlog.isNone then
    ({ s with adm := { s.adm with backlog := some false } } : State).syncOp im.upd.backlogObj (.take .backlog 1) else s) = s :=
  if_neg (by rw [h]; exact Bool.false_ne_true)

theorem stepStart_begins (himg : s.img = some im) (hst : s.ctl.state = .stepping) (hrun : s.adm.running = false) (hab : s.flt.abandoning = false)
    (hheld : s.startHeld = false) (hback : im.upd.backlogObj = none16 ∨ s.adm.backlog = some true) : exec .stepStart s = .next (s.beginStep im) := by
  refine (exec_stepStart himg).trans (congrArg Host.Outcome.next ((if_neg ?_).trans ?_))
  · rw [State.startGuard hst hrun hab, hheld]
    exact Bool.false_ne_true
  · by_cases hnone : im.upd.backlogObj = none16
    · exact if_pos hnone
    · have htrue := hback.resolve_left hnone
      rw [if_neg hnone]
      dsimp only
      rw [State.backlogTake_issued htrue]
      exact if_pos htrue

theorem stepStart_held (himg : s.img = some im) (hst : s.ctl.state = .stepping) (hrun : s.adm.running = false) (hab : s.flt.abandoning = false)
    (h : s.startHeld = true ∨ (im.upd.backlogObj ≠ none16 ∧ s.adm.backlog = some false)) : exec .stepStart s = .next s := by
  refine (exec_stepStart himg).trans (congrArg Host.Outcome.next ?_)
  rw [State.startGuard hst hrun hab]
  obtain hheld | ⟨hobj, hback⟩ := h
  · exact if_pos hheld
  · cases s.startHeld
    · rw [if_neg Bool.false_ne_true, if_neg hobj]
      dsimp only
      rw [State.backlogTake_issued hback, hback]
      exact if_neg (by simp)
    · exact if_pos rfl

/-- What a step that begins finds (R246, R286, R289, R376). -/
theorem State.beginStep_spec (s : State) (im : Image) (hst : s.ctl.state = .stepping) :
    let counts := s.ctl.untilDrain = false ∧ s.ctl.stepsLeft ≠ 0
    let t := s.beginStep im
    t.adm.running = true ∧ t.adm.frames = [] ∧ t.adm.refused = false ∧ t.adm.updStarted = false ∧ t.adm.depth = s.adm.cfgDepth.toNat ∧
      t.adm.lossExp = s.upd.loss.toInt ∧ t.adm.lrScale = s.upd.lrScale ∧
      t.adm.force = (if s.ctl.placeForce then some s.ctl.placement.toNat else none) ∧
      t.ctl.state = (if counts ∧ s.ctl.stepsLeft = 1 then .draining else .stepping) ∧ t.ctl.stepsLeft = s.ctl.stepsLeft - (if counts then 1 else 0) ∧
      t.fab = { s.fab with qStart := s.fab.q, fenced := [] } ∧ t.tmr.step = s.tmr.step ∧ t.mem = s.mem ∧ t.upd.parked = [] ∧ t.upd.expect = [] := by
  intro counts t
  obtain ⟨x, h, w, heq⟩ := s.beginStep_eq im
  have hleft : (if s.ctl.counts then 1 else 0 : W32) = if counts then 1 else 0 := if_congr s.ctl.counts_iff rfl rfl
  by_cases hlast : counts ∧ s.ctl.stepsLeft = 1
  · have hguard : (s.ctl.counts && s.ctl.stepsLeft == 1) = true := by
      rw [Bool.and_eq_true, beq_iff_eq, s.ctl.counts_iff]
      exact hlast
    have hgoto : t = _ := heq.trans ((if_pos hguard).trans (State.goto_live (s := s.begunWith x h w) (d := .draining) (by
      show s.ctl.state ≠ .draining
      rw [hst]
      exact Dev.noConfusion) rfl))
    rw [hgoto, if_pos hlast, ← hleft]
    exact ⟨rfl, rfl, rfl, rfl, rfl, rfl, rfl, rfl, rfl, rfl, rfl, rfl, rfl, rfl, rfl⟩
  · have hguard : ¬ (s.ctl.counts && s.ctl.stepsLeft == 1) = true := by
      rw [Bool.and_eq_true, beq_iff_eq, s.ctl.counts_iff]
      exact hlast
    have hbegun : t = s.begunWith x h w := heq.trans (if_neg hguard)
    rw [hbegun, if_neg hlast, ← hleft]
    exact ⟨rfl, rfl, rfl, rfl, rfl, rfl, rfl, rfl, hst, rfl, rfl, rfl, rfl, rfl, rfl⟩

/-! The sweep -/

/-- What is left once a sweep's blocks are done: no sweep, and the backlog object signalled (R294, R295). -/
def State.sweepOver (s : State) (im : Image) : State :=
  let u := { s with upd := { s.upd with sweep := none } }
  if im.upd.backlogObj = none16 then u else u.syncOp im.upd.backlogObj (.signal 1)

theorem State.sweepOver_spec (s : State) (im : Image) : (s.sweepOver im).upd = { s.upd with sweep := none } ∧ (s.sweepOver im).mem = s.mem ∧
    (im.upd.backlogObj = none16 → (s.sweepOver im).flt = s.flt) ∧ ∀ q ∈ s.flt.reports, q ∈ (s.sweepOver im).flt.reports := by
  unfold State.sweepOver
  dsimp only
  split
  · exact ⟨rfl, rfl, fun _ => rfl, fun _ hq => hq⟩
  · next h =>
    exact ⟨by simp, by simp, fun h' => absurd h' h, fun q hq => State.mem_syncOp (s := { s with upd := { s.upd with sweep := none } }) hq _ _⟩

theorem exec_sweepComplete (himg : s.img = some im) {st : Nat} {bs : List Nat} (hs : s.upd.sweep = some (st, bs)) (ds : List Nat) (e : Ecc) :
    exec (.sweepComplete ds e) s = .next (
      let r := s.updateRead im bs bs e
      let bad := (bs.zipIdx.filter fun p => ds.contains p.2 && !r.2.contains p.1).map (·.1)
      let u := bad.foldl (fun s g => s.updateFault im g) r.1
      let stop := r.2 ++ bad
      ((bs.filter fun g => !stop.contains g).foldl (fun (s : State) g => s.sweepBlock im g) { u with gx := u.gx.silence im stop }).sweepOver im) := by
  show execSweepComplete ds e s = _
  unfold execSweepComplete
  split
  · next im' st' bs' hi hs' =>
    obtain rfl := Option.some.inj (himg.symm.trans hi)
    obtain ⟨rfl, rfl⟩ := Prod.mk.inj (Option.some.inj (hs.symm.trans hs'))
    rfl
  · next h => exact absurd hs (h im st bs himg)

/-- The update's reads of one sound block. -/
theorem State.updateRead_sound {g : Nat} (h : im.updPoison s.mem true g = false) : s.updateRead im [g] [g] .clean = (s, []) := by
  have hself : ([g] : List Nat).contains g = true := by simp
  have hplaces : ([g].flatMap im.updPlaces ++ [g].flatMap im.queuePlaces).any s.mem.poisoned = false := by
    unfold Image.updPoison at h
    rw [Bool.true_and] at h
    rw [List.any_append]
    simpa using h
  have hnone : [g].filter (fun g' => im.updPoison s.mem (([g] : List Nat).contains g') g') = [] :=
    List.filter_cons_of_neg (by rw [hself, h]; exact Bool.false_ne_true)
  unfold State.updateRead
  dsimp only
  rw [State.engineRead_clean, hplaces]
  exact Prod.ext (by rw [hnone]; rfl) hnone

/-- The update's reads of one poisoned block: it stops with its record. -/
theorem State.updateRead_poisoned {g : Nat} (h : im.updPoison s.mem true g = true) : ∃ x, s.updateRead im [g] [g] .clean =
    (({ s with memr := x } : State).updateFault im g, [g]) := by
  have hself : ([g] : List Nat).contains g = true := by simp
  have hone : [g].filter (fun g' => im.updPoison s.mem (([g] : List Nat).contains g') g') = [g] :=
    List.filter_cons_of_pos (by rw [hself]; exact h)
  obtain ⟨x, hx⟩ := s.engineRead_of_clean im ([g].flatMap im.updPlaces ++ [g].flatMap im.queuePlaces)
  refine ⟨x, ?_⟩
  unfold State.updateRead
  dsimp only
  rw [hx]
  exact Prod.ext (by rw [hone]; rfl) hone

theorem exec_sweep_stopped (himg : s.img = some im) {st g : Nat} (hs : s.upd.sweep = some (st, [g])) {ds : List Nat}
    (h : im.updPoison s.mem true g = true ∨ 0 ∈ ds) : ∃ x, exec (.sweepComplete ds .clean) s = .next
      (let u := ({ s with memr := x } : State).updateFault im g; ({ u with gx := u.gx.silence im [g] } : State).sweepOver im) := by
  rw [exec_sweepComplete himg hs]
  have hg : ([g] : List Nat).contains g = true := by simp
  by_cases hp : im.updPoison s.mem true g = true
  · obtain ⟨x, hx⟩ := State.updateRead_poisoned (s := s) hp
    refine ⟨x, ?_⟩
    rw [hx]
    dsimp only
    have hbad : ([g].zipIdx.filter fun p => ds.contains p.2 && !([g] : List Nat).contains p.1) = [] :=
      List.filter_cons_of_neg (by dsimp only; rw [hg, Bool.not_true, Bool.and_false]; exact Bool.false_ne_true)
    have hrest : ([g].filter fun g' => !([g] ++ ([] : List Nat)).contains g') = [] :=
      List.filter_cons_of_neg (by rw [List.append_nil, hg]; exact Bool.false_ne_true)
    rw [hbad, List.map_nil, hrest]
    rfl
  · refine ⟨s.memr, ?_⟩
    rw [State.updateRead_sound (Bool.eq_false_iff.mpr hp)]
    dsimp only
    have hbad : ([g].zipIdx.filter fun p => ds.contains p.2 && !([] : List Nat).contains p.1) = [(g, 0)] :=
      List.filter_cons_of_pos (by dsimp only; rw [List.contains_iff_mem.mpr (h.resolve_left hp)]; rfl)
    have hrest : ([g].filter fun g' => !([] ++ [g]).contains g') = [] :=
      List.filter_cons_of_neg (by rw [List.nil_append, hg]; exact Bool.false_ne_true)
    rw [hbad, List.map_cons, List.map_nil, hrest]
    rfl

theorem exec_sweep_done (himg : s.img = some im) {st g : Nat} (hs : s.upd.sweep = some (st, [g])) {ds : List Nat}
    (h : im.updPoison s.mem true g = false) (hds : 0 ∉ ds) : exec (.sweepComplete ds .clean) s = .next
      ((({ s with gx := s.gx.silence im [] } : State).sweepBlock im g).sweepOver im) := by
  rw [exec_sweepComplete himg hs, State.updateRead_sound h]
  have hbad : ([g].zipIdx.filter fun p => ds.contains p.2 && !([] : List Nat).contains p.1) = [] :=
    List.filter_cons_of_neg (by rw [Bool.and_eq_true, List.contains_iff_mem]; exact fun h => hds h.1)
  dsimp only
  rw [hbad]
  rfl

theorem Gx.isSilent_silence_nil (im : Image) (x : Gx) (b i : Nat) : (x.silence im []).isSilent im b i = x.isSilent im b i := by
  have hcontains : (x.silence im []).silent.contains (b, i) = x.silent.contains (b, i) := by
    rw [Bool.eq_iff_iff, List.contains_iff_mem, List.contains_iff_mem]
    show (b, i) ∈ (x.silent ++ []).eraseDups ↔ _
    rw [List.append_nil, List.mem_eraseDups]
  unfold Gx.isSilent
  rw [hcontains]
  rfl

/-- A sound block of a sweep: updated from its entry, which is emptied; it makes a generation where its shard gets a return. -/
theorem State.sweepBlock_spec (s : State) (im : Image) (g : Nat) :
    let e := (s.upd.queue.at g).getD default
    let gen := (s.upd.gen.at g).cur + 1
    let silent := (im.shardOf s.gx.group.n g).any fun k => s.gx.isSilent im k.1 k.2
    (s.sweepBlock im g).upd.queue.at g = none ∧
      (if silent then (s.sweepBlock im g).upd.gen = s.upd.gen else ((s.sweepBlock im g).upd.gen.at g).next = some gen) ∧
      (s.sweepBlock im g).mem = (im.updateBlock s.mem g gen e.last s.adm.lrScale (im.queueRead s.mem g)).1 := by
  intro e gen silent
  obtain ⟨c, hc⟩ := State.countUnbound_eq { s with mem := (im.updateBlock s.mem g gen e.last s.adm.lrScale (im.queueRead s.mem g)).1, upd := s.upd.made g gen }
    (im.updateBlock s.mem g gen e.last s.adm.lrScale (im.queueRead s.mem g)).2
  have hone : s.updateOne im g e.last (im.queueRead s.mem g) = { s with
      mem := (im.updateBlock s.mem g gen e.last s.adm.lrScale (im.queueRead s.mem g)).1, upd := s.upd.made g gen, sites := c } := hc
  unfold State.sweepBlock State.updateQuiet
  dsimp only
  rw [show s.updateOne im g ((s.upd.queue.at g).getD default).last (im.queueRead s.mem g) = _ from hone]
  by_cases hsilent : silent = true
  · rw [if_pos hsilent, if_pos hsilent]
    exact ⟨Sparse.at_put_self s.upd.queue g none, rfl, rfl⟩
  · rw [if_neg hsilent, if_neg hsilent]
    obtain ⟨x, l, hsent⟩ := State.sent_sendPanel { s with
      mem := (im.updateBlock s.mem g gen e.last s.adm.lrScale (im.queueRead s.mem g)).1
      upd := { s.upd.made g gen with queue := s.upd.queue.put g none }, sites := c } im g (((s.upd.made g gen).gen.at g).next.getD 0)
    have hsent' := hsent
    dsimp only [Upd.made] at hsent' ⊢
    rw [hsent']
    refine ⟨Sparse.at_put_self s.upd.queue g none, ?_, rfl⟩
    show ((s.upd.gen.mod g fun x => { x with next := some gen }).at g).next = some gen
    rw [Sparse.at_mod_self]

end
end Sys2Proof.Machine
end

section
namespace Sys2Proof.Machine

/-! The end -/

theorem Tmr.fire_step (t : Tmr) (i : Nat) : (t.fire i).step = t.step := by
  unfold Tmr.fire
  dsimp only
  split <;> rfl

theorem Tmr.endStep_step (t : Tmr) : t.endStep.step = t.step + 1 := by
  have hfire : t.fireDue.step = t.step := foldl_keeps (P := fun u : Tmr => u.step = t.step) (fun u i hu => by
    split
    · exact (u.fire_step i).trans hu
    · exact hu) _ rfl
  exact congrArg (· + 1) hfire

/-- A slot that begins anew (R297). -/
def Slot.anew (x : Slot) : Slot := { x with done := 0 }

/-- Whether the generation made for a block becomes current (R297, R358, R359). -/
def State.curAfter (s : State) (im : Image) (g : Nat) : Nat :=
  if s.returned im g then (s.upd.gen.at g).next.getD (s.upd.gen.at g).cur else (s.upd.gen.at g).cur

theorem Upd.cur_stepEnd (u : Upd) (ok : Nat → Bool) (g : Nat) :
    ((u.stepEnd ok).gen.at g).cur = if ok g then (u.gen.at g).next.getD (u.gen.at g).cur else (u.gen.at g).cur := by
  unfold Upd.stepEnd
  dsimp only
  rw [Sparse.at_mapVals _ fun _ => rfl]
  cases (u.gen.at g).next with
  | none => exact (ite_self _).symm
  | some n => rfl

/-- What the end of a step of state s has closed in state t. -/
structure State.Closed (s : State) (im : Image) (t : State) : Prop where
  step : t.tmr.step = s.tmr.step + 1
  adm : t.adm = s.adm.clear
  state : t.ctl.state = s.ctl.state
  deferred : t.flt.deferred = false
  slots : t.fab.slots = Sparse.mapVals (fun _ x => x.anew) s.fab.slots
  cur : ∀ g, (t.upd.gen.at g).cur = s.curAfter im g
  parked : t.upd.parked = []
  sets : ∀ y ∈ t.gx.sets, y.step = stepAbove s.tmr.step.toNat

section
variable {s t : State} {im : Image}

theorem State.Closed.of_errors (h : s.Closed im t) {u : State} (he : t.MetErrors u) : s.Closed im u := by
  obtain ⟨tl, c, r, m, x, rfl⟩ := he
  exact ⟨h.step, h.adm, h.state, h.deferred, h.slots, h.cur, h.parked, h.sets⟩

theorem State.Closed.writeStaged (h : s.Closed im t) : s.Closed im (t.writeStaged im) :=
  ⟨h.step, h.adm, h.state, h.deferred, h.slots, h.cur, h.parked, h.sets⟩

theorem State.Closed.settleReturns (h : s.Closed im t) : s.Closed im t.settleReturns := by
  have hmade : ∀ l : List (Nat × Nat), (∀ g, ((l.foldl (fun u p => u.made p.1 p.2) t.upd).gen.at g).cur = (t.upd.gen.at g).cur) ∧
      (l.foldl (fun u p => u.made p.1 p.2) t.upd).parked = t.upd.parked := fun l =>
    foldl_keeps (P := fun u : Upd => (∀ g, (u.gen.at g).cur = (t.upd.gen.at g).cur) ∧ u.parked = t.upd.parked) (fun u p hu => by
      refine ⟨fun g => ?_, hu.2⟩
      rw [← hu.1 g]
      show ((u.gen.mod p.1 fun x => { x with next := some p.2 }).at g).cur = _
      by_cases hg : g = p.1
      · rw [hg, Sparse.at_mod_self]
      · rw [Sparse.at_mod_ne _ _ hg]) l ⟨fun _ => rfl, rfl⟩
  exact ⟨h.step, h.adm, h.state, h.deferred, h.slots, fun g => ((hmade _).1 g).trans (h.cur g), (hmade _).2.trans h.parked, h.sets⟩

theorem State.sendX_sets (s : State) (k : Member) (m : XMsg) : (s.sendX k m).gx.sets = s.gx.sets := by
  unfold State.sendX
  split <;> rfl

theorem State.sendState_sets (s : State) (im : Image) : (s.sendState im).gx.sets = s.gx.sets := by
  unfold State.sendState
  split
  · rfl
  · dsimp only
    refine foldl_keeps (P := fun u : State => u.gx.sets = s.gx.sets) (fun u k hu => (u.sendX_sets ..).trans hu) _ ?_
    exact foldl_keeps (P := fun u : State => u.gx.sets = s.gx.sets) (fun u m hu =>
      foldl_keeps (P := fun u : State => u.gx.sets = s.gx.sets) (fun u p hu => (u.sendX_sets ..).trans hu) _ hu) _ rfl

theorem State.Closed.sendState (h : s.Closed im t) : s.Closed im (t.sendState im) := by
  have hsets := t.sendState_sets im
  rw [State.sendState_frame] at hsets ⊢
  exact ⟨h.step, h.adm, h.state, h.deferred, h.slots, h.cur, h.parked, by rw [hsets]; exact h.sets⟩

/-- No slot of a fabric has completed a micro-batch. -/
def Fab.Fresh (f : Fab) : Prop := ∀ a, (f.slots.at a).done = 0

theorem Fab.Fresh.put {f : Fab} (h : f.Fresh) {i : Nat} {x : Slot} (hx : x.done = 0) : Fab.Fresh { f with slots := f.slots.put i x } := fun a => by
  show ((f.slots.put i x).at a).done = 0
  by_cases ha : a = i
  · rw [ha, Sparse.at_put_self]; exact hx
  · rw [Sparse.at_put_ne _ _ ha]; exact h a

theorem Image.fresh_freshFab (im : Image) (f : Fab) : (im.freshFab f).Fresh := fun a => by
  show ((im.descs.zipIdx.foldl (fun (t : Sparse Slot) (d, i) =>
    if d.placement = 0 then t.put (16 * d.tile + d.slot) { st := .idle, desc := i, raw := d.raw } else t) []).at a).done = 0
  exact foldl_keeps (P := fun t : Sparse Slot => ∀ a, (t.at a).done = 0) (fun t p ht a => by
    obtain ⟨d, i⟩ := p
    dsimp only
    split
    · by_cases ha : a = 16 * d.tile + d.slot
      · rw [ha, Sparse.at_put_self]
      · rw [Sparse.at_put_ne _ _ ha]; exact ht a
    · exact ht a) im.descs.zipIdx (fun _ => rfl) a

theorem Image.fresh_armAll (im : Image) {x : Fab × Sync} (h : x.1.Fresh) : (im.armAll x).1.Fresh :=
  foldl_keeps (P := fun y : Fab × Sync => y.1.Fresh) (fun y d hy => by
    split
    · unfold Image.arm
      dsimp only
      split
      · exact hy
      · exact hy.put (hy _)
    · exact hy) im.descs h

/-- What the reload after a deferred fault leaves. -/
theorem State.reapply_spec (t : State) (im : Image) (f : Fab) : (t.reapply im f).fab.Fresh ∧ (t.reapply im f).tmr = t.tmr ∧ (t.reapply im f).adm = t.adm ∧
    (t.reapply im f).ctl = t.ctl ∧ (t.reapply im f).flt = t.flt ∧ (t.reapply im f).upd = t.upd ∧ (t.reapply im f).gx = t.gx := by
  unfold State.reapply
  dsimp only
  refine ⟨im.fresh_armAll (im.fresh_freshFab f), ?_⟩
  simp

/-- The state in which a step has ended, before the reads of its end. -/
def State.ending (s : State) (im : Image) : State :=
  let mem := im.writeReports s.mem s.tmr.step.toNat false s.sites
  let s := { s with
    mem := mem, sites := s.sites.stepEnd im.num.sites, upd := { (s.upd.stepEnd (s.returned im)).restart with step := s.tmr.step }
    ctl := { s.ctl with placeMb := placeCounts s.adm.frames }
    adm := s.adm.clear, gx := s.gx.endStep s.tmr.step.toNat, fab := { s.fab with readyLog := [], slots := Sparse.mapVals (fun _ x => x.anew) s.fab.slots }
    flt := { s.flt with deferred := false } }
  let s := s.setTmr s.tmr.endStep
  let snap := s.tmr.latchSnap
  { s with gx := { s.gx with snapshots := s.gx.snapshots ++ if snap then [none] else [] }, tmr := { s.tmr with latchSnap := false } }

theorem State.closed_ending (s : State) (im : Image) : s.Closed im (s.ending im) := by
  unfold State.ending
  dsimp only
  rw [State.setTmr_eq]
  refine ⟨s.tmr.endStep_step, rfl, rfl, rfl, rfl, fun g => s.upd.cur_stepEnd _ g, rfl, fun y hy => ?_⟩
  have hsets : y ∈ (s.gx.endStep s.tmr.step.toNat).sets := hy
  have hfilter := (List.mem_filter.mp hsets).2
  exact beq_iff_eq.mp hfilter

/-- What the end of a step reads, writes and sends. -/
def State.ended (s : State) (im : Image) (e : Ecc) : State :=
  let s := s.ending im
  let s := s.engineRead im (s.stagedReady.flatMap im.stagedPlaces ++ s.leavingPlaces im) e
  ((s.writeStaged im).settleReturns).sendState im

theorem State.closed_ended (s : State) (im : Image) (e : Ecc) : s.Closed im (s.ended im e) :=
  ((((s.closed_ending im).of_errors (State.metErrors_engineRead ..)).writeStaged).settleReturns).sendState

theorem exec_stepEnd (himg : s.img = some im) (e : Ecc) : exec (.stepEnd e) s = .next
    (if !s.stepOver im then s else
      let u := (s.ended im e).recoverStep im s.flt.deferred
      if s.flt.deferred || u.ctl.state = .draining then u.goto .armed else u) := by
  show execStepEnd e s = _
  unfold execStepEnd
  split
  · next h => rw [himg] at h; contradiction
  · next im' h =>
    obtain rfl := Option.some.inj (himg.symm.trans h)
    rfl

/-- A state that a closed step recovers to. -/
structure State.Recovered (s : State) (im : Image) (u : State) : Prop where
  step : u.tmr.step = s.tmr.step + 1
  adm : u.adm = s.adm.clear
  state : u.ctl.state = s.ctl.state
  deferred : u.flt.deferred = false
  fresh : u.fab.Fresh
  kept : s.flt.deferred = false → ∀ a, (u.fab.slots.at a).st = (s.fab.slots.at a).st
  fenced : u.fab.fenced = []
  fences : u.flt.fences = []
  cur : ∀ g, (u.upd.gen.at g).cur = s.curAfter im g
  parked : u.upd.parked = []
  sets : ∀ y ∈ u.gx.sets, y.step = stepAbove s.tmr.step.toNat

theorem State.Closed.recover (h : s.Closed im t) : s.Recovered im (t.recoverStep im s.flt.deferred) := by
  have hslot : ∀ a, t.fab.slots.at a = (s.fab.slots.at a).anew := fun a => by
    rw [h.slots, Sparse.at_mapVals _ fun _ => rfl]
  unfold State.recoverStep
  cases hd : s.flt.deferred
  · exact ⟨h.step, h.adm, h.state, h.deferred, fun a => congrArg Slot.done (hslot a), fun _ a => (congrArg Slot.st (hslot a)).trans rfl, rfl, rfl, h.cur, h.parked, h.sets⟩
  · obtain ⟨hfresh, htmr, hadm, hctl, hflt, hupd, hgx⟩ := t.reapply_spec im t.fab
    dsimp only
    rw [if_pos rfl]
    exact ⟨by rw [htmr]; exact h.step, by rw [hadm]; exact h.adm, by rw [hctl]; exact h.state, by rw [hflt]; exact h.deferred, hfresh,
      fun h' => absurd (hd.symm.trans h') Bool.noConfusion, rfl, rfl, by rw [hupd]; exact h.cur, by rw [hupd]; exact h.parked, by rw [hgx]; exact h.sets⟩

end

/-- Settles O49: the start, the sweep and the end of a step, each by what holds it or stops it. -/
theorem stepBoundaries : Obligations.StepBoundaries := by
  intro s im himg
  refine ⟨fun hst hrun hab => ⟨fun hheld hback => ?_, fun h => stepStart_held himg hst hrun hab h⟩, fun hnone ds e => ?_, fun st g ds hsweep => ?_,
    fun hover e => ?_, fun hover e => ?_⟩
  · exact ⟨_, stepStart_begins himg hst hrun hab hheld hback, s.beginStep_spec im hst⟩
  · show execSweepComplete ds e s = _
    unfold execSweepComplete
    rw [hnone]
    cases s.img <;> rfl
  · intro silent
    refine ⟨fun hsound hds => ?_, fun h hawake => ?_⟩
    · intro e gen
      obtain ⟨hqueue, hgen, hmem⟩ := State.sweepBlock_spec { s with gx := s.gx.silence im [] } im g
      obtain ⟨hupd, hmem', -, -⟩ := (State.sweepBlock { s with gx := s.gx.silence im [] } im g).sweepOver_spec im
      have hsilent : ((im.shardOf (s.gx.silence im []).group.n g).any fun k => (s.gx.silence im []).isSilent im k.1 k.2) = silent := by
        simp only [Gx.isSilent_silence_nil]
        rfl
      rw [show ({ s with gx := s.gx.silence im [] } : State).gx = s.gx.silence im [] from rfl, hsilent] at hgen
      refine ⟨_, exec_sweep_done himg hsweep hsound hds, by rw [hupd], by rw [hupd]; exact hqueue, ?_, hmem'.trans hmem⟩
      rw [hupd]
      exact hgen
    · obtain ⟨x, hexec⟩ := exec_sweep_stopped himg hsweep (ds := ds) h
      have hfault : (({ s with memr := x } : State).updateFault im g) = { s with
          memr := x, flt := s.flt.detect { cls := .update, sev := .contained, unit := (im.block g).ti, sub := (im.bucketOf g).getD 0, detail := g
                                           step := s.tmr.step.toNat, time := s.now, cyc := s.tmr.age } } := State.report_of_awake _ hawake
      dsimp only at hexec
      rw [hfault] at hexec
      obtain ⟨hupd, hmem, hflt, hreports⟩ := State.sweepOver_spec { s with
          memr := x, gx := s.gx.silence im [g]
          flt := s.flt.detect { cls := .update, sev := .contained, unit := (im.block g).ti, sub := (im.bucketOf g).getD 0, detail := g
                                step := s.tmr.step.toNat, time := s.now, cyc := s.tmr.age } } im
      exact ⟨_, _, hexec, hupd, hmem, hreports _ (Report.mem_enter ..), fun hnone => congrArg Flt.reports (hflt hnone), rfl, rfl, rfl⟩
  · refine (exec_stepEnd himg e).trans (congrArg Host.Outcome.next (if_pos ?_))
    rw [hover]
    rfl
  · have hexec := (exec_stepEnd himg e).trans (congrArg Host.Outcome.next (if_neg (by rw [hover]; exact Bool.false_ne_true)))
    have hrec := (s.closed_ended im e).recover
    generalize (s.ended im e).recoverStep im s.flt.deferred = u at hexec hrec
    have hcond : (s.flt.deferred || decide (u.ctl.state = .draining)) = true ↔ s.flt.deferred = true ∨ s.ctl.state = .draining := by
      rw [Bool.or_eq_true, decide_eq_true_eq, hrec.state]
    by_cases h : s.flt.deferred = true ∨ s.ctl.state = .draining
    · have hexec' := hexec.trans (congrArg Host.Outcome.next (if_pos (hcond.mpr h)))
      refine ⟨_, hexec', ?_, ?_, ?_, ?_, ?_, fun a => ?_, ?_, ?_, fun g => ?_, ?_, ?_⟩
      · simpa using hrec.step
      · simpa [Adm.clear] using congrArg Adm.running hrec.adm
      · simpa [Adm.clear] using congrArg Adm.frames hrec.adm
      · rw [State.goto_state, if_pos h]
      · simpa using hrec.deferred
      · simpa using And.intro (hrec.fresh a) fun hd => hrec.kept hd a
      · simpa using hrec.fenced
      · simpa using hrec.fences
      · simpa [State.curAfter] using hrec.cur g
      · simpa using hrec.parked
      · simpa using hrec.sets
    · have hexec' := hexec.trans (congrArg Host.Outcome.next (if_neg fun h' => h (hcond.mp h')))
      exact ⟨_, hexec', hrec.step, congrArg Adm.running hrec.adm, congrArg Adm.frames hrec.adm, by rw [hrec.state, if_neg h], hrec.deferred,
        fun a => ⟨hrec.fresh a, fun hd => hrec.kept hd a⟩, hrec.fenced, hrec.fences, hrec.cur, hrec.parked, hrec.sets⟩

end Sys2Proof.Machine
end

section
/-! SUPPORT. O51: contributions and pod sums land in their slots, and sets close (R285, R337, R341, R347 to R350, R353, R517). -/

namespace Sys2Proof.Machine

/-! Tables kept as lists -/

section
variable {α : Type} {p q : α → Bool} {a : α}

/-- Where the entries of a kind are replaced, the new one is found. -/
theorem find?_replace_self (ha : p a = true) (l : List α) (h : (l.find? p).isSome = true) : (l.map fun y => if p y then a else y).find? p = some a := by
  induction l with
  | nil => exact nomatch h
  | cons b l ih =>
    rw [List.map_cons]
    by_cases hb : p b = true
    · rw [if_pos hb]
      exact List.find?_cons_of_pos ha
    · rw [if_neg hb, List.find?_cons_of_neg hb]
      exact ih (List.find?_cons_of_neg (l := l) hb ▸ h)

/-- Those of another kind are found as before. -/
theorem find?_replace_of_ne (hq : ¬ q a = true) (hne : ∀ y, p y = true → ¬ q y = true) (l : List α) :
    (l.map fun y => if p y then a else y).find? q = l.find? q := by
  induction l with
  | nil => rfl
  | cons b l ih =>
    rw [List.map_cons]
    by_cases hb : p b = true
    · rw [if_pos hb, List.find?_cons_of_neg hq, List.find?_cons_of_neg (hne b hb), ih]
    · rw [if_neg hb, List.find?_cons, List.find?_cons, ih]

/-- An entry added at the end is found where none stood. -/
theorem find?_append_self (ha : p a = true) {l : List α} (h : ¬ (l.find? p).isSome = true) : (l ++ [a]).find? p = some a := by
  rw [List.find?_append, Option.not_isSome_iff_eq_none.mp h, Option.none_or]
  exact List.find?_cons_of_pos ha

theorem find?_append_of_ne (hq : ¬ q a = true) (l : List α) : (l ++ [a]).find? q = l.find? q := by
  rw [List.find?_append, List.find?_cons_of_neg hq]
  exact Option.or_none

end

/-! Slot sets -/

section
variable (x : Gx) (step : Nat) (k : SlotKey)

/-- A set that is kept has the step and the key it is kept under. -/
theorem Gx.set?_some {y : SlotSet} (h : x.set? step k = some y) : y.step = step ∧ y.key = k := by
  have := List.find?_some h
  rw [Bool.and_eq_true, beq_iff_eq, beq_iff_eq] at this
  exact this

theorem Gx.getSet_named : (x.getSet step k).step = step ∧ (x.getSet step k).key = k := by
  unfold Gx.getSet
  cases h : x.set? step k with
  | none => exact ⟨rfl, rfl⟩
  | some y => exact x.set?_some step k h

theorem Gx.getSet_step : (x.getSet step k).step = step := (x.getSet_named step k).1
theorem Gx.getSet_key : (x.getSet step k).key = k := (x.getSet_named step k).2

variable {step k} {y : SlotSet}

/-- Whether a set is the one of a step and key. -/
def SlotSet.isAt (step : Nat) (k : SlotKey) (y : SlotSet) : Bool := y.step == step && y.key == k

theorem Gx.getSet_of_find? {l : List SlotSet} {o : Option SlotSet} (h : l.find? (SlotSet.isAt step k) = o) :
    Gx.getSet { x with sets := l } step k = o.getD { step := step, key := k } := congrArg (fun o : Option SlotSet => o.getD _) h

/-- A set that is put away is found again. -/
theorem Gx.getSet_putSet_self (hstep : y.step = step) (hkey : y.key = k) : (x.putSet y).getSet step k = y := by
  subst hstep hkey
  have hself : SlotSet.isAt y.step y.key y = true := by simp [SlotSet.isAt]
  unfold Gx.putSet
  split
  · next h => exact x.getSet_of_find? (find?_replace_self hself x.sets h)
  · next h => exact x.getSet_of_find? (find?_append_self hself h)

/-- The others stay as they are. -/
theorem Gx.getSet_putSet_of_ne (h : y.step ≠ step ∨ y.key ≠ k) : (x.putSet y).getSet step k = x.getSet step k := by
  have hne : ∀ w : SlotSet, SlotSet.isAt y.step y.key w = true → ¬ SlotSet.isAt step k w = true := by
    intro w hw hk
    unfold SlotSet.isAt at hw hk
    rw [Bool.and_eq_true, beq_iff_eq, beq_iff_eq] at hw hk
    exact h.elim (· (hw.1.symm.trans hk.1)) (· (hw.2.symm.trans hk.2))
  have hy : ¬ SlotSet.isAt step k y = true := hne y (by simp [SlotSet.isAt])
  unfold Gx.putSet
  split
  · exact x.getSet_of_find? (find?_replace_of_ne hy hne x.sets)
  · exact x.getSet_of_find? (find?_append_of_ne hy x.sets)

/-- Sets alone change. -/
theorem Gx.putSet_frame : x.putSet y = { x with sets := (x.putSet y).sets } := by
  unfold Gx.putSet
  split <;> rfl

theorem Gx.putSet_me : (x.putSet y).me = x.me := by rw [Gx.putSet_frame]; rfl

variable (im : Image) (g : ExGroup)

/-- A closed set stays as it is. -/
theorem Gx.close_of_closed (h : y.closed = true) : x.close im g y = x := if_pos h

/-- An open one is closed, and what is counted of its missing slots is no set. -/
theorem Gx.close_spec (h : y.closed = false) : ∃ p m b, x.close im g y =
    { x.putSet { y with closed := true, present := p, stage := .waiting } with mSkip := m, skipped := b } :=
  ⟨_, _, _, (if_neg fun hc => Bool.false_ne_true (h.symm.trans hc)).trans rfl⟩

/-- Sets and their counts alone change. -/
theorem Gx.close_frame : x.close im g y = { x with sets := (x.close im g y).sets, mSkip := (x.close im g y).mSkip, skipped := (x.close im g y).skipped } := by
  cases h : y.closed with
  | true => rw [x.close_of_closed im g h]
  | false =>
    obtain ⟨p, m, b, he⟩ := x.close_spec im g h
    rw [he, Gx.putSet_frame]

/-- What is closed stays closed when some set closes. -/
theorem Gx.closed_close (hc : (x.getSet step k).closed = true) : ((x.close im g y).getSet step k).closed = true := by
  cases h : y.closed with
  | true => rw [x.close_of_closed im g h]; exact hc
  | false =>
    obtain ⟨p, m, b, he⟩ := x.close_spec im g h
    rw [he]
    by_cases hk : y.step = step ∧ y.key = k
    · exact congrArg SlotSet.closed (x.getSet_putSet_self (y := { y with closed := true, present := p, stage := .waiting }) hk.1 hk.2)
    · exact (congrArg SlotSet.closed (x.getSet_putSet_of_ne (y := { y with closed := true, present := p, stage := .waiting }) (not_and_or.mp hk))).trans hc

/-- A set is closed once it has been. -/
theorem Gx.closed_close_getSet : ((x.close im g (x.getSet step k)).getSet step k).closed = true := by
  cases h : (x.getSet step k).closed with
  | true => rw [x.close_of_closed im g h]; exact h
  | false =>
    obtain ⟨p, m, b, he⟩ := x.close_spec im g h
    rw [he]
    exact congrArg SlotSet.closed (x.getSet_putSet_self (y := { x.getSet step k with closed := true, present := p, stage := .waiting })
      (x.getSet_step step k) (x.getSet_key step k))

end

/-! Deadlines -/

/-- The sets of a bucket close, the exchange and its completions alone change. -/
theorem State.closeBucket_spec (s : State) (im : Image) (b : Nat) (asPod : Bool) :
    (∃ x h, s.closeBucket im b asPod = { s with gx := x, hif := h }) ∧
    ∀ k ∈ im.slotKeys s.gx.group s.gx.me, k.bucket = b → k.asPod = asPod → ((s.closeBucket im b asPod).gx.getSet s.tmr.step.toNat k).closed = true := by
  have hfold : ∀ (l : List SlotKey) (u : State), (∃ x h, u = { s with gx := x, hif := h }) →
      let t := l.foldl (fun (s' : State) k => s'.setGx (s'.gx.close im s.gx.group (s'.gx.getSet s'.tmr.step.toNat k))) u
      (∃ x h, t = { s with gx := x, hif := h }) ∧
      ∀ k, (k ∈ l ∨ (u.gx.getSet s.tmr.step.toNat k).closed = true) → (t.gx.getSet s.tmr.step.toNat k).closed = true := by
    intro l
    induction l with
    | nil => exact fun u hu => ⟨hu, fun k hk => hk.resolve_left (List.not_mem_nil)⟩
    | cons a l ih =>
      rintro u ⟨x, h, rfl⟩
      obtain ⟨h', hset⟩ := State.setGx_eq { s with gx := x, hif := h } (x.close im s.gx.group (x.getSet s.tmr.step.toNat a))
      obtain ⟨hframe, hclosed⟩ := ih _ ⟨_, _, hset⟩
      refine ⟨hframe, fun k hk => hclosed k ?_⟩
      rw [hset]
      rcases hk with hk | hk
      · rcases List.mem_cons.mp hk with rfl | hk
        · exact .inr (x.closed_close_getSet im s.gx.group)
        · exact .inl hk
      · exact .inr (x.closed_close im s.gx.group hk)
  obtain ⟨hframe, hclosed⟩ := hfold ((im.slotKeys s.gx.group s.gx.me).filter fun k => k.bucket == b && k.asPod == asPod) s ⟨s.gx, s.hif, rfl⟩
  exact ⟨hframe, fun k hk hb hp => hclosed k (.inl (List.mem_filter.mpr ⟨hk, by rw [hb, hp]; simp⟩))⟩

/-! What is sent -/

/-- Messages go out, those to this member into its inbox, each of which has a property; nothing else happens. -/
def State.Posts (p : XMsg → Prop) (s t : State) : Prop :=
  ∃ ms l, (∀ m ∈ ms, p m) ∧ t = { s with gx := { s.gx with inbox := s.gx.inbox ++ ms }, lnk := l }

theorem State.posts_refl (p : XMsg → Prop) (s : State) : s.Posts p s :=
  ⟨[], s.lnk, fun _ hm => (List.not_mem_nil hm).elim, by rw [List.append_nil]⟩

theorem State.Posts.sendX {p : XMsg → Prop} {s t : State} (h : s.Posts p t) (k : Member) {m : XMsg} (hm : p m) : s.Posts p (t.sendX k m) := by
  obtain ⟨ms, l, hms, rfl⟩ := h
  unfold State.sendX
  split
  · refine ⟨ms ++ [m], l, fun x hx => ?_, by rw [List.append_assoc]⟩
    exact (List.mem_append.mp hx).elim (hms x) fun hx => List.mem_singleton.mp hx ▸ hm
  · exact ⟨ms, _, hms, rfl⟩

/-- The contribution to a shard: messages of its bucket, step and sender. -/
theorem State.Posts.contribute {s t : State} {b : Nat} (im : Image) (i : Nat)
    (h : s.Posts (fun m => m.msg = xContrib ∧ m.bucket = b ∧ m.step = s.tmr.step.toNat ∧ m.member = s.gx.me) t) :
    s.Posts (fun m => m.msg = xContrib ∧ m.bucket = b ∧ m.step = s.tmr.step.toNat ∧ m.member = s.gx.me) (t.contribute im b i) := by
  unfold State.contribute
  refine foldl_keeps (P := State.Posts _ s) (fun u q hu => hu.sendX _ ?_) _ h
  obtain ⟨ms, l, -, rfl⟩ := hu
  exact ⟨rfl, rfl, rfl, rfl⟩

/-- What the contributions of a bucket change. -/
theorem State.posts_contributions (s : State) (im : Image) (b n : Nat) (order : List Nat) :
    s.Posts (fun m => m.msg = xContrib ∧ m.bucket = b ∧ m.step = s.tmr.step.toNat ∧ m.member = s.gx.me)
      (order.foldl (fun s i => if (im.shardBlocks n b i).isEmpty then s else s.contribute im b i) s) :=
  foldl_keeps (P := State.Posts _ s) (fun u i hu => by
    split
    · exact hu
    · exact hu.contribute im i) order (State.posts_refl _ s)

/-- A step's read keeps what its errors do not touch. -/
theorem State.stepRead_keeps (s : State) (im : Image) (ks : List Nat) (e : Ecc) :
    (s.stepRead im ks e).1.upd = s.upd ∧ (s.stepRead im ks e).1.gx = s.gx ∧ (s.stepRead im ks e).1.tmr = s.tmr ∧
      (s.stepRead im ks e).1.ctl = s.ctl ∧ (s.stepRead im ks e).1.img = s.img ∧ ∀ a, (s.stepRead im ks e).1.mem.byte a = s.mem.byte a := by
  have hbyte : ∀ a, (s.eccRead ks e 0 false true im.addrOf).1.mem.byte a = s.mem.byte a := fun a =>
    congrArg (fun b : Sparse Byte => Sparse.get Mem.blank b a) (State.eccRead_bytes ..)
  have hkeep : (s.eccRead ks e 0 false true im.addrOf).1.upd = s.upd ∧ (s.eccRead ks e 0 false true im.addrOf).1.gx = s.gx ∧
      (s.eccRead ks e 0 false true im.addrOf).1.tmr = s.tmr ∧ (s.eccRead ks e 0 false true im.addrOf).1.ctl = s.ctl ∧
      (s.eccRead ks e 0 false true im.addrOf).1.img = s.img := by simp
  obtain ⟨hupd, hgx, htmr, hctl, himg⟩ := hkeep
  unfold State.stepRead
  split
  · exact ⟨rfl, rfl, rfl, rfl, rfl, fun _ => rfl⟩
  · dsimp only
    split
    · rw [State.abandon_eq]
      exact ⟨hupd, hgx, htmr, hctl, himg, hbyte⟩
    · exact ⟨hupd, hgx, htmr, hctl, himg, hbyte⟩

end Sys2Proof.Machine
end

section
/-! SUPPORT. O51: the commands of the contributions, and the obligation. -/

namespace Sys2Proof.Machine

/-- Every rank sends once to each of the owners, from the one above it on (R341). -/
theorem sendOrder_spec (n r b j : Nat) (hr : r < n) (hj : j < n) : ∃ k, (sendOrder n r b)[j]? = some k ∧ k < n ∧ (k + b) % n = (r + 1 + j) % n := by
  have hn : 0 < n := Nat.zero_lt_of_lt hr
  have hb : b % n < n := Nat.mod_lt _ hn
  refine ⟨_, (List.getElem?_map ..).trans (congrArg (Option.map _) (List.getElem?_range hj)), Nat.mod_lt _ hn, ?_⟩
  have hsum : r + 1 + j + n - b % n + b = r + 1 + j + n + n * (b / n) := by
    have := Nat.div_add_mod b n
    omega
  calc ((r + 1 + j + n - b % n) % n + b) % n = (r + 1 + j + n - b % n + b) % n := Nat.mod_add_mod ..
    _ = (r + 1 + j + n + n * (b / n)) % n := by rw [hsum]
    _ = (r + 1 + j) % n := by rw [Nat.add_mul_mod_self_left, Nat.add_mod_right]

section
variable {s : State} {im : Image} (himg : s.img = some im)
include himg

/-! A bucket is complete -/

section
variable {b : Nat} {k : Bucket} (hk : im.bkt.buckets[b]? = some k)
include hk

/-- Whether every block of a bucket holds the last micro-batch. -/
def State.bucketFull (s : State) (im : Image) (k : Bucket) : Bool := (List.range k.blockCount).all fun x => s.upd.expect.at (k.firstBlock + x) == im.upd.mbCount

omit himg hk in
theorem State.bucketFull_iff : s.bucketFull im k = true ↔ ∀ x < k.blockCount, s.upd.expect.at (k.firstBlock + x) = im.upd.mbCount := by
  unfold State.bucketFull
  rw [List.all_eq_true]
  exact ⟨fun h x hx => beq_iff_eq.mp (h x (List.mem_range.mpr hx)), fun h x hx => beq_iff_eq.mpr (h x (List.mem_range.mp hx))⟩

/-- The gradients a bucket's contributions are read from. -/
def Image.bucketPlaces (im : Image) (k : Bucket) : List Nat := (List.range k.blockCount).flatMap fun x => (im.block (k.firstBlock + x)).gradPlaces im

/-- The contributions of a bucket that is complete and sound. -/
def State.contributions (s : State) (im : Image) (b : Nat) : State :=
  (sendOrder s.gx.group.n ((s.gx.group.rank? s.gx.me).getD 0) b).foldl
    (fun u i => if (im.shardBlocks s.gx.group.n b i).isEmpty then u else u.contribute im b i) { s with gx := { s.gx with sentBuckets := s.gx.sentBuckets ++ [b] } }

theorem exec_bucketComplete_eq (x : Ecc) : exec (.bucketComplete b x) s = .next (
    if !s.stepping || s.flt.abandoning || s.gx.sentBuckets.contains b || !s.bucketFull im k then s
    else if (s.stepRead im (im.bucketPlaces k) x).2 then (s.stepRead im (im.bucketPlaces k) x).1
    else (s.stepRead im (im.bucketPlaces k) x).1.contributions im b) := by
  show execBucketComplete b x s = _
  unfold execBucketComplete
  rw [himg, Option.bind_some, hk]
  rfl

theorem exec_bucketComplete_idle (h : s.gx.sentBuckets.contains b = true ∨ ¬ ∀ x < k.blockCount, s.upd.expect.at (k.firstBlock + x) = im.upd.mbCount) (x : Ecc) :
    exec (.bucketComplete b x) s = .next s := by
  rw [exec_bucketComplete_eq himg hk]
  refine congrArg Host.Outcome.next (if_pos ?_)
  rcases h with h | h
  · rw [h, Bool.or_true]; rfl
  · rw [← State.bucketFull_iff, Bool.not_eq_true] at h
    rw [h]
    exact Bool.or_true _

variable (hrun : s.stepping = true) (hab : s.flt.abandoning = false) (hnew : s.gx.sentBuckets.contains b = false)
  (hfull : ∀ x < k.blockCount, s.upd.expect.at (k.firstBlock + x) = im.upd.mbCount)
include hrun hab hnew hfull

theorem exec_bucketComplete_sends (x : Ecc) : exec (.bucketComplete b x) s = .next (
    if (s.stepRead im (im.bucketPlaces k) x).2 then (s.stepRead im (im.bucketPlaces k) x).1
    else (s.stepRead im (im.bucketPlaces k) x).1.contributions im b) := by
  rw [exec_bucketComplete_eq himg hk]
  refine congrArg Host.Outcome.next (if_neg ?_)
  rw [hrun, hab, hnew, State.bucketFull_iff.mpr hfull]
  exact Bool.false_ne_true

end
end

/-- What is sent, to this member or another. -/
theorem State.contributions_spec (s : State) (im : Image) (b : Nat) : ∃ l ms, (∀ m ∈ ms, m.msg = xContrib ∧ m.bucket = b ∧ m.step = s.tmr.step.toNat ∧ m.member = s.gx.me) ∧
    s.contributions im b = { s with gx := { s.gx with sentBuckets := s.gx.sentBuckets ++ [b], inbox := s.gx.inbox ++ ms }, lnk := l } := by
  obtain ⟨ms, l, hms, h⟩ := State.posts_contributions { s with gx := { s.gx with sentBuckets := s.gx.sentBuckets ++ [b] } } im b s.gx.group.n
    (sendOrder s.gx.group.n ((s.gx.group.rank? s.gx.me).getD 0) b)
  exact ⟨l, ms, hms, h⟩

/-! A slot takes what lands in it -/

section
variable {s : State} {im : Image} {g : ExGroup} {y : SlotSet} {q off : Nat} {bs : List Byte} {slot : SlotIn}

/-- Bytes land at their place, and the set closes when that fills its slots. -/
theorem State.land_spec {step : Nat} {key : SlotKey} (hstep : y.step = step) (hkey : y.key = key) (hopen : y.closed = false) : ∃ (x : Gx) (h : Hif) (p : Bool),
    s.land im g y q off bs slot .clean = { s with mem := im.regWrite s.mem im.bkt.slotRegion (im.slotOff g s.gx.me step key q + off) bs
                                                  gx := x, hif := h, memr := { s.memr with poisonRd := p } } ∧
    (x.getSet step key).slots = y.slots.put q slot ∧
    (x.getSet step key).closed = ((List.range (g.slotCount s.gx.me key)).all fun k => slotFull im g { y with slots := y.slots.put q slot } k) ∧
    x.inbox = s.gx.inbox := by
  subst hstep hkey
  have hput : (s.gx.putSet { y with slots := y.slots.put q slot }).inbox = s.gx.inbox := by rw [Gx.putSet_frame]
  have hself : (s.gx.putSet { y with slots := y.slots.put q slot }).getSet y.step y.key = { y with slots := y.slots.put q slot } :=
    s.gx.getSet_putSet_self rfl rfl
  unfold State.land
  dsimp only
  rw [State.mergeRead_clean, State.readMarked_eq]
  generalize (s.readMarked _).memr.poisonRd = p
  rw [Gx.putSet_me]
  split
  · next hfull =>
    obtain ⟨h, hset⟩ := State.setGx_eq
      { s with mem := im.regWrite s.mem im.bkt.slotRegion (im.slotOff g s.gx.me y.step y.key q + off) bs, memr := { s.memr with poisonRd := p },
               gx := s.gx.putSet { y with slots := y.slots.put q slot } }
      ((s.gx.putSet { y with slots := y.slots.put q slot }).close im g { y with slots := y.slots.put q slot })
    obtain ⟨pr, m, b, hc⟩ := (s.gx.putSet { y with slots := y.slots.put q slot }).close_spec im g (y := { y with slots := y.slots.put q slot }) hopen
    have hclosed := (s.gx.putSet { y with slots := y.slots.put q slot }).getSet_putSet_self (step := y.step) (k := y.key)
      (y := { y with slots := y.slots.put q slot, closed := true, present := pr, stage := .waiting }) rfl rfl
    refine ⟨_, h, p, hset, ?_, ?_, ?_⟩
    · rw [hc]
      exact congrArg SlotSet.slots hclosed
    · rw [hc]
      exact (congrArg SlotSet.closed hclosed).trans hfull.symm
    · rw [Gx.close_frame]
      exact hput
  · next hfull =>
    refine ⟨_, _, p, rfl, congrArg SlotSet.slots hself, ?_, hput⟩
    exact ((congrArg SlotSet.closed hself).trans hopen).trans (Bool.eq_false_of_not_eq_true hfull).symm

end

end Sys2Proof.Machine
end

section
/-! SUPPORT. O51: messages of the contributions, and the obligation. -/

namespace Sys2Proof.Machine

section
variable {s : State} {im : Image} (himg : s.img = some im) {i q : Nat} {m : XMsg} (htag : s.gx.tagOk im s.tmr.step.toNat m = true)
  (hrem : m.remote = true → s.gx.solo = false) (hb : m.b ≠ 0)
include himg htag hrem hb

/-- The set a contribution is for. -/
def Gx.contribKey (x : Gx) (cur : Nat) (m : XMsg) : SlotKey := { bucket := m.bucket, shard := m.shard, asPod := (x.groupFor cur m.step).two }

/-- A contribution in order lands, or is late. -/
theorem exec_contrib_eq (hm : s.gx.mail i xContrib = some m) (hmine : ((if (s.gx.groupFor s.tmr.step.toNat m.step).two then
      (s.gx.groupFor s.tmr.step.toNat m.step).podOwner m.bucket m.shard ((s.gx.groupFor s.tmr.step.toNat m.step).podOf s.gx.me)
      else (s.gx.groupFor s.tmr.step.toNat m.step).owner m.bucket m.shard).id = s.gx.me))
    (hq : (if (s.gx.groupFor s.tmr.step.toNat m.step).two then indexOf (fun (x : Member) => x.id == m.member)
      ((s.gx.groupFor s.tmr.step.toNat m.step).podMembers ((s.gx.groupFor s.tmr.step.toNat m.step).podOf s.gx.me))
      else (s.gx.groupFor s.tmr.step.toNat m.step).rank? m.member) = some q)
    (hr : m.a + m.b ≤ im.shardElems (s.gx.groupFor s.tmr.step.toNat m.step).n m.bucket m.shard) (hlen : m.data.length = 2 * m.b)
    (hgot : (((s.gx.getSet m.step (s.gx.contribKey s.tmr.step.toNat m)).slots.at q).got.any (rangesMeet (m.a, m.a + m.b))) = false) (x : Ecc) :
    exec (.contrib i x) s = .next (
      let y := s.gx.getSet m.step (s.gx.contribKey s.tmr.step.toNat m)
      if y.closed then (s.drop i).lateFrom m.member
      else (s.drop i).land im (s.gx.groupFor s.tmr.step.toNat m.step) y q (2 * m.a) m.data { y.slots.at q with got := (y.slots.at q).got ++ [(m.a, m.a + m.b)] } x) := by
  refine congrArg Host.Outcome.next ((State.onMail_taken hm himg hrem _).trans ?_)
  dsimp only
  have hq' : (if ((s.drop i).gx.groupFor (s.drop i).tmr.step.toNat m.step).two then indexOf (fun (x : Member) => x.id == m.member)
      (((s.drop i).gx.groupFor (s.drop i).tmr.step.toNat m.step).podMembers (((s.drop i).gx.groupFor (s.drop i).tmr.step.toNat m.step).podOf (s.drop i).gx.me))
      else ((s.drop i).gx.groupFor (s.drop i).tmr.step.toNat m.step).rank? m.member) = some q := hq
  rw [hq']
  refine if_neg fun h => ?_
  simp only [Bool.or_eq_true, Bool.not_eq_true', decide_eq_true_eq] at h
  rcases h with ((((h | h) | h) | h) | h) | h
  · exact Bool.false_ne_true (h.symm.trans htag)
  · exact beq_eq_false_iff_ne.mp h hmine
  · exact hb h
  · exact Nat.not_le.mpr h hr
  · exact h hlen
  · exact Bool.false_ne_true (hgot.symm.trans h)

/-- A pod's sum in order lands, or is late. -/
theorem exec_podSum_eq (hm : s.gx.mail i xPodSum = some m) (htwo : (s.gx.groupFor s.tmr.step.toNat m.step).two = true)
    (hmine : ((s.gx.groupFor s.tmr.step.toNat m.step).owner m.bucket m.shard).id = s.gx.me)
    (hfrom : ((s.gx.groupFor s.tmr.step.toNat m.step).podOwner m.bucket m.shard ((s.gx.groupFor s.tmr.step.toNat m.step).podOf m.member)).id = m.member)
    (hq : indexOf (fun (p : Nat) => p == (s.gx.groupFor s.tmr.step.toNat m.step).podOf m.member) (s.gx.groupFor s.tmr.step.toNat m.step).pods = some q)
    (hr : m.a + m.b ≤ im.shardElems (s.gx.groupFor s.tmr.step.toNat m.step).n m.bucket m.shard) (hlen : m.data.length = (if m.a = 0 then 8 else 0) + 4 * m.b)
    (hgot : (((s.gx.getSet m.step { bucket := m.bucket, shard := m.shard, asPod := false }).slots.at q).got.any (rangesMeet (m.a, m.a + m.b))) = false) (x : Ecc) :
    exec (.podSum i x) s = .next (
      let y := s.gx.getSet m.step { bucket := m.bucket, shard := m.shard, asPod := false }
      if y.closed then (s.drop i).lateFrom m.member
      else (s.drop i).land im (s.gx.groupFor s.tmr.step.toNat m.step) y q (if m.a = 0 then 0 else 8 + 4 * m.a) m.data
        { got := (y.slots.at q).got ++ [(m.a, m.a + m.b)], count := m.c, mask := if m.a = 0 then some (fieldAt m.data 0 8) else (y.slots.at q).mask } x) := by
  refine congrArg Host.Outcome.next ((State.onMail_taken hm himg hrem _).trans ?_)
  dsimp only
  have hq' : indexOf (fun (p : Nat) => p == ((s.drop i).gx.groupFor (s.drop i).tmr.step.toNat m.step).podOf m.member)
      ((s.drop i).gx.groupFor (s.drop i).tmr.step.toNat m.step).pods = some q := hq
  rw [hq']
  refine if_neg fun h => ?_
  simp only [Bool.or_eq_true, Bool.not_eq_true', decide_eq_true_eq] at h
  rcases h with ((((((h | h) | h) | h) | h) | h) | h) | h
  · exact Bool.false_ne_true (h.symm.trans htag)
  · exact Bool.false_ne_true (h.symm.trans htwo)
  · exact h hmine
  · exact h hfrom
  · exact hb h
  · exact Nat.not_le.mpr h hr
  · exact h hlen
  · exact Bool.false_ne_true (hgot.symm.trans h)

end

/-- What data for a closed set leaves. -/
theorem State.lateFrom_spec (s : State) (n : Nat) : ∃ h, s.lateFrom n =
    { s with gx := { s.gx with late := true, mLate := s.gx.mLate.mod n fun c => satAdd c 1 }, hif := h } := s.setGx_eq _

section
variable {s : State} {im : Image} (himg : s.img = some im)
include himg

/-- The deadline of a bucket, of its shards or its pods. -/
theorem exec_bucketDeadlinePass_eq (b : Nat) : exec (.bucketDeadlinePass b) s =
    .next (if s.adm.running && passedBy (s.gx.bucketDeadline im b) s.now then s.closeBucket im b false else s) := by
  show execBucketDeadlinePass b s = _
  unfold execBucketDeadlinePass
  rw [himg]

theorem exec_podDeadlinePass_eq (b : Nat) : exec (.podDeadlinePass b) s =
    .next (if s.adm.running && s.gx.group.two && passedBy (s.gx.podDeadline im b) s.now then s.closeBucket im b true else s) := by
  show execPodDeadlinePass b s = _
  unfold execPodDeadlinePass
  rw [himg]

end

/-- Settles O51. -/
theorem contributionsLand : Obligations.ContributionsLand := by
  unfold Obligations.ContributionsLand
  intro s im himg
  dsimp only
  refine ⟨fun b k hk => ⟨fun hrun hab hnew hfull hmark => ?sound, fun hrun hab hnew hfull x => ?marked, exec_bucketComplete_idle himg hk⟩, sendOrder_spec,
    fun i q m hm htag hrem hmine hq hb hr hlen hgot => ⟨fun hclosed x => ?late, fun hopen => ?lands⟩,
    fun i q m hm htag hrem htwo hmine hfrom hq hb hr hlen hgot hopen => ?podSum, fun b hrun => ⟨fun hpass => ?closes, fun hpass => ?waits, fun htwo hpass => ?podCloses, fun hpass => ?podWaits⟩⟩
  case sound =>
    obtain ⟨l, ms, hms, ht⟩ := s.contributions_spec im b
    have hread : s.stepRead im (im.bucketPlaces k) .clean = (s, false) := State.stepRead_clean im hmark
    rw [exec_bucketComplete_sends himg hk hrun hab hnew hfull, hread]
    refine ⟨_, ms, rfl, ?_⟩
    rw [if_neg Bool.false_ne_true, ht]
    exact ⟨rfl, rfl, hms, rfl⟩
  case marked =>
    rw [exec_bucketComplete_sends himg hk hrun hab hnew hfull]
    refine ⟨_, rfl, fun hmark hupd => ?_, fun hmark hupd => ?_, ?_⟩
    · obtain ⟨hgive, hstop, -, hgx, -⟩ := State.stepRead_marked im (ks := im.bucketPlaces k) hmark hab x
      have hnot : ¬ (s.adm.running = true ∧ s.adm.updStarted = true) := fun h => Bool.false_ne_true (hupd.symm.trans h.2)
      rw [if_pos (hstop.trans (congrArg not hupd) : _ = true)]
      exact ⟨hgx, ((if_neg hnot).mp hgive.2).1⟩
    · obtain ⟨hgive, hstop, -, hgx, -⟩ := State.stepRead_marked im (ks := im.bucketPlaces k) hmark hab x
      have hrun' : s.adm.running = true := (Bool.and_eq_true_iff.mp hrun).2
      obtain ⟨l, ms, -, ht⟩ := (s.stepRead im (im.bucketPlaces k) x).1.contributions_spec im b
      rw [if_neg fun h => Bool.false_ne_true ((hstop.trans (congrArg not hupd)).symm.trans h), ht]
      exact ⟨congrArg (fun g : Gx => g.sentBuckets ++ [b]) hgx, (if_pos ⟨hrun', hupd⟩).mp hgive.2⟩
    · obtain ⟨hupd, -, -, -, -, hbyte⟩ := s.stepRead_keeps im (im.bucketPlaces k) x
      split
      · exact ⟨hbyte, hupd⟩
      · obtain ⟨l, ms, -, ht⟩ := (s.stepRead im (im.bucketPlaces k) x).1.contributions_spec im b
        rw [ht]
        exact ⟨hbyte, hupd⟩
  case late =>
    obtain ⟨h, ht⟩ := (s.drop i).lateFrom_spec m.member
    rw [exec_contrib_eq himg htag hrem hb hm hmine hq hr hlen hgot]
    refine ⟨_, congrArg Host.Outcome.next ((if_pos hclosed).trans ht), rfl, Sparse.at_mod_self s.gx.mLate m.member fun c => satAdd c 1, rfl, rfl, rfl⟩
  case lands =>
    obtain ⟨x, h, p, ht, hslots, hclosed, hinbox⟩ := State.land_spec (s := s.drop i) (im := im) (g := s.gx.groupFor s.tmr.step.toNat m.step)
      (y := s.gx.getSet m.step (s.gx.contribKey s.tmr.step.toNat m)) (q := q) (off := 2 * m.a) (bs := m.data)
      (slot := { (s.gx.getSet m.step (s.gx.contribKey s.tmr.step.toNat m)).slots.at q with
        got := ((s.gx.getSet m.step (s.gx.contribKey s.tmr.step.toNat m)).slots.at q).got ++ [(m.a, m.a + m.b)] }) (s.gx.getSet_step ..) (s.gx.getSet_key ..) hopen
    rw [exec_contrib_eq himg htag hrem hb hm hmine hq hr hlen hgot]
    exact ⟨_, congrArg Host.Outcome.next ((if_neg fun hc => Bool.false_ne_true (hopen.symm.trans hc)).trans ht), rfl, hslots, hclosed, hinbox, rfl⟩
  case podSum =>
    obtain ⟨x, h, p, ht, hslots, -, -⟩ := State.land_spec (s := s.drop i) (im := im) (g := s.gx.groupFor s.tmr.step.toNat m.step)
      (y := s.gx.getSet m.step { bucket := m.bucket, shard := m.shard, asPod := false }) (q := q) (off := if m.a = 0 then 0 else 8 + 4 * m.a) (bs := m.data)
      (slot := { got := ((s.gx.getSet m.step { bucket := m.bucket, shard := m.shard, asPod := false }).slots.at q).got ++ [(m.a, m.a + m.b)], count := m.c
                 mask := if m.a = 0 then some (fieldAt m.data 0 8) else ((s.gx.getSet m.step { bucket := m.bucket, shard := m.shard, asPod := false }).slots.at q).mask }) (s.gx.getSet_step ..) (s.gx.getSet_key ..) hopen
    rw [exec_podSum_eq himg htag hrem hb hm htwo hmine hfrom hq hr hlen hgot]
    refine ⟨_, congrArg Host.Outcome.next ((if_neg fun hc => Bool.false_ne_true (hopen.symm.trans hc)).trans ht), rfl, ?_⟩
    exact (congrArg (fun t : Sparse SlotIn => t.at q) hslots).trans (Sparse.at_put_self ..)
  case closes =>
    obtain ⟨⟨x, h, ht⟩, hclosed⟩ := s.closeBucket_spec im b false
    rw [exec_bucketDeadlinePass_eq himg, hrun, hpass]
    exact ⟨_, rfl, ht ▸ rfl, hclosed⟩
  case waits =>
    rw [exec_bucketDeadlinePass_eq himg, hpass, Bool.and_false]
    rfl
  case podCloses =>
    obtain ⟨⟨x, h, ht⟩, hclosed⟩ := s.closeBucket_spec im b true
    rw [exec_podDeadlinePass_eq himg, hrun, htwo, hpass]
    exact ⟨_, rfl, ht ▸ rfl, hclosed⟩
  case podWaits =>
    rw [exec_podDeadlinePass_eq himg, hpass, Bool.and_false]
    rfl

end Sys2Proof.Machine
end

section
/-! SUPPORT. O52: the reduction of a shard (R286, R287, R349, R351 to R355, R517, R523). -/

namespace Sys2Proof.Machine

/-- What is sent, whatever it is. -/
abbrev State.Sends : State → State → Prop := State.Posts fun _ => True

theorem State.sends_toAll (s : State) (m : XMsg) : s.Sends (s.toAll m) :=
  foldl_keeps (P := State.Sends s) (fun _ k hu => hu.sendX k trivial) _ (s.posts_refl _)

theorem State.sends_sendPodSum (s : State) (b i : Nat) (sum : List F32) (n mask : Nat) : s.Sends (s.sendPodSum b i sum n mask) := by
  unfold State.sendPodSum
  exact foldl_keeps (P := State.Sends s) (fun _ _ hu => hu.sendX _ trivial) _ ((s.posts_refl _).sendX _ trivial)

/-- A message to this member joins its inbox. -/
theorem State.sendX_self {s : State} {k : Member} (h : k.id = s.gx.me) (m : XMsg) : s.sendX k m = { s with gx := { s.gx with inbox := s.gx.inbox ++ [m] } } :=
  if_pos h

/-- An update that may begin does, and the step then counts as begun (R287, R304). -/
theorem State.beginUpdate_eq (s : State) (im : Image) (y : SlotSet) : s.beginUpdate im y =
    { s with gx := s.gx.putSet { y with stage := if s.updates im y then .updating else y.stage }
             adm := { s.adm with updStarted := s.adm.updStarted || s.updates im y } } := by
  unfold State.beginUpdate
  cases s.updates im y with
  | true => rw [Bool.or_true]; rfl
  | false => rw [Bool.or_false]; rfl

theorem State.noteStep_eq (s : State) (im : Image) : ∃ w, s.noteStep im = { s with upd := { s.upd with step := w } } := by
  unfold State.noteStep
  dsimp only
  split
  · exact ⟨_, rfl⟩
  · exact ⟨s.upd.step, rfl⟩

/-- The part of the norm of a shard (R355). -/
def State.normPartOf (s : State) (r : List F32 × Nat) : F32 := if r.2 = 0 then 0 else normPart (stepGrad r.1 r.2 s.adm.lossExp)

/-- A shard's part goes to the collector where the image has a norm (R355). -/
def State.sendPart (s : State) (im : Image) (g : ExGroup) (b i : Nat) (r : List F32 × Nat) : State :=
  if !im.needsNorm then s else s.sendX g.collector (s.xmsg xNormPart b i (s.normPartOf r).toNat 0 0 [])

theorem State.sends_sendPart (s : State) (im : Image) (g : ExGroup) (b i : Nat) (r : List F32 × Nat) : s.Sends (s.sendPart im g b i r) := by
  unfold State.sendPart
  split
  · exact s.posts_refl _
  · exact (s.posts_refl _).sendX _ trivial

/-- The sum of a shard (R351, R355). -/
def State.reduceShard (s : State) (im : Image) (g : ExGroup) (b i : Nat) (y : SlotSet) : State :=
  let r := reduceSet im g s.gx.me s.mem y
  (s.sendPart im g b i r).beginUpdate im { y with stage := .reduced, sum := r.1, n := r.2 }

/-- The sum of a pod (R353). -/
def State.reducePod (s : State) (im : Image) (g : ExGroup) (b i : Nat) (y : SlotSet) : State :=
  let r := reduceSet im g s.gx.me s.mem y
  let t := { s with gx := s.gx.putSet { y with stage := .done } }
  if r.2 = 0 then t else t.sendPodSum b i r.1 r.2 (sumN (y.present.zipIdx.map fun p => if p.1 then 2 ^ p.2 else 0))

/-- A shard whose engines differ gets no update (R523). -/
def State.reduceDiffers (s : State) (im : Image) (b i : Nat) (y : SlotSet) : State :=
  ({ s.updateReport im b i .contained with gx := s.gx.putSet { y with stage := .gone } }).noteStep im

/-- What the engines' comparison leaves of a sum. -/
def State.reduceEnds (s : State) (im : Image) (g : ExGroup) (b i : Nat) (pod : Bool) (dup : Dup) (y : SlotSet) : State :=
  let t := if dup = .masked then s.updateReport im b i .corrected else s
  if dup = .differ then t.reduceDiffers im b i y
  else if pod then t.reducePod im g b i y else t.reduceShard im g b i y

section
variable {s : State} {im : Image} (himg : s.img = some im)
include himg

/-- The next sum is begun, where there is one. -/
theorem exec_shardReduceStart (hrun : s.stepping = true) (hab : s.flt.abandoning = false) :
    (∀ y, s.gx.nextAdd im s.tmr.step.toNat = some y → exec .shardReduceStart s = .next { s with gx := s.gx.putSet { y with stage := .adding } }) ∧
    (s.gx.nextAdd im s.tmr.step.toNat = none → exec .shardReduceStart s = .next s) := by
  have hgo : ¬ (!s.stepping || s.flt.abandoning) = true := by
    rw [hrun, hab]
    exact Bool.false_ne_true
  have hexec : ∀ o, s.gx.nextAdd im s.tmr.step.toNat = o →
      exec .shardReduceStart s = .next (o.elim s fun y => { s with gx := s.gx.putSet { y with stage := .adding } }) := by
    rintro o rfl
    show execShardReduceStart s = _
    unfold execShardReduceStart
    split
    · next h => rw [himg] at h; contradiction
    · next im' h =>
      obtain rfl := Option.some.inj (himg.symm.trans h)
      refine congrArg Host.Outcome.next ((if_neg hgo).trans ?_)
      cases s.gx.nextAdd im s.tmr.step.toNat <;> rfl
  exact ⟨fun y hy => hexec _ hy, fun hnone => hexec _ hnone⟩

/-- A sum that is due is read, then formed. -/
theorem exec_shardReduceDone_eq (hrun : s.stepping = true) (hab : s.flt.abandoning = false) (b i : Nat) (pod : Bool)
    (hstage : (s.gx.getSet s.tmr.step.toNat { bucket := b, shard := i, asPod := pod }).stage = if pod then .waiting else .adding) (dup : Dup) (x : Ecc) :
    exec (.shardReduceDone b i pod dup x) s = .next (
      let y := s.gx.getSet s.tmr.step.toNat { bucket := b, shard := i, asPod := pod }
      let read := s.stepRead im (im.sumPlaces s.gx.group s.gx.me y) x
      if read.2 then read.1 else read.1.reduceEnds im s.gx.group b i pod dup y) := by
  have hgo : ¬ (!s.stepping || s.flt.abandoning || decide ((s.gx.getSet s.tmr.step.toNat { bucket := b, shard := i, asPod := pod }).stage ≠
      if pod then .waiting else .adding)) = true := by
    rw [hrun, hab, hstage]
    simp
  show execShardReduceDone b i pod dup x s = _
  unfold execShardReduceDone
  split
  · next h => rw [himg] at h; contradiction
  · next im' h =>
    obtain rfl := Option.some.inj (himg.symm.trans h)
    refine congrArg Host.Outcome.next ((if_neg hgo).trans ?_)
    rfl

end

end Sys2Proof.Machine
end

section
/-! SUPPORT. O52: what a sum, a part of the norm and the norm leave, and the obligation (R286 to R288, R304, R349, R351 to R355, R517, R523). -/

namespace Sys2Proof.Machine

/-! A sum -/

section
variable {s : State} {im : Image} {g : ExGroup} {b i step : Nat} {k : SlotKey} {y : SlotSet} (hstep : y.step = step) (hkey : y.key = k)
include hstep hkey

/-- A shard's sum: reduced, or its update begun, and nothing of memory. -/
theorem State.reduceShard_spec :
    let r := reduceSet im g s.gx.me s.mem y
    let t := s.reduceShard im g b i y
    let n := (s.sendPart im g b i r).updates im { y with stage := .reduced, sum := r.1, n := r.2 }
    t.gx.getSet step k = { y with stage := if n then .updating else .reduced, sum := r.1, n := r.2 } ∧
    t = { s.sendPart im g b i r with gx := t.gx, adm := { s.adm with updStarted := s.adm.updStarted || n } } := by
  obtain ⟨ms, l, -, hsend⟩ := s.sends_sendPart im g b i (reduceSet im g s.gx.me s.mem y)
  have hadm : (s.sendPart im g b i (reduceSet im g s.gx.me s.mem y)).adm = s.adm := by rw [hsend]
  dsimp only
  unfold State.reduceShard
  dsimp only
  rw [State.beginUpdate_eq, hadm]
  exact ⟨Gx.getSet_putSet_self (y := { y with stage := _, sum := _, n := _ }) _ hstep hkey, rfl⟩

/-- A pod's sum is done. -/
theorem State.reducePod_spec : ((s.reducePod im g b i y).gx.getSet step k).stage = .done ∧ ∃ x l, s.reducePod im g b i y = { s with gx := x, lnk := l } := by
  have hdone : ((s.gx.putSet { y with stage := .done }).getSet step k).stage = .done :=
    congrArg SlotSet.stage (s.gx.getSet_putSet_self (y := { y with stage := .done }) hstep hkey)
  unfold State.reducePod
  dsimp only
  split
  · exact ⟨hdone, _, _, rfl⟩
  · obtain ⟨ms, l, -, hsend⟩ := ({ s with gx := s.gx.putSet { y with stage := .done } } : State).sends_sendPodSum b i
      (reduceSet im g s.gx.me s.mem y).1 (reduceSet im g s.gx.me s.mem y).2 (sumN (y.present.zipIdx.map fun p => if p.1 then 2 ^ p.2 else 0))
    rw [hsend]
    exact ⟨hdone, _, _, rfl⟩

/-- A shard whose engines differ is gone. -/
theorem State.reduceDiffers_spec : ((s.reduceDiffers im b i y).gx.getSet step k).stage = .gone ∧
    ∃ w, s.reduceDiffers im b i y = { s.updateReport im b i .contained with gx := s.gx.putSet { y with stage := .gone }, upd := { s.upd with step := w } } := by
  obtain ⟨w, hw⟩ := ({ s.updateReport im b i .contained with gx := s.gx.putSet { y with stage := .gone } } : State).noteStep_eq im
  have hupd : (s.updateReport im b i .contained).upd = s.upd := (s.report_keeps _).2.2.2.2.2.2.2.2.2.1
  unfold State.reduceDiffers
  rw [hw]
  refine ⟨congrArg SlotSet.stage (s.gx.getSet_putSet_self (y := { y with stage := .gone }) hstep hkey), w, ?_⟩
  dsimp only
  rw [hupd]

/-- However a shard's sum ends it is no longer being added, and memory keeps. -/
theorem State.reduceEnds_spec (dup : Dup) : ((s.reduceEnds im g b i false dup y).gx.getSet step k).stage ≠ .adding ∧
    (s.reduceEnds im g b i false dup y).mem = s.mem := by
  have hmasked : (if dup = .masked then s.updateReport im b i .corrected else s).mem = s.mem := by
    split
    · exact (congrArg State.mem (s.report_eq _)).trans rfl
    · rfl
  unfold State.reduceEnds
  dsimp only
  generalize (if dup = .masked then s.updateReport im b i .corrected else s) = t at hmasked ⊢
  split
  · obtain ⟨hstage, w, ht⟩ := t.reduceDiffers_spec (im := im) (b := b) (i := i) hstep hkey
    rw [hstage]
    refine ⟨nofun, ?_⟩
    rw [ht]
    exact ((congrArg State.mem (t.report_eq _)).trans rfl).trans hmasked
  · obtain ⟨hset, ht⟩ := t.reduceShard_spec (im := im) (g := g) (b := b) (i := i) hstep hkey
    obtain ⟨ms, l, -, hsend⟩ := t.sends_sendPart im g b i (reduceSet im g t.gx.me t.mem y)
    rw [if_neg Bool.false_ne_true]
    refine ⟨fun hadd => ?_, ?_⟩
    · rw [hset] at hadd
      dsimp only at hadd
      split at hadd <;> exact nomatch hadd
    · rw [ht, hsend]
      exact hmasked

end

/-! The norm -/

/-- The collector's NORM. -/
theorem State.sendNorm_spec (s : State) (im : Image) : ∃ ms l, s.sendNorm im = { s with gx := { s.gx with normSent := true, inbox := s.gx.inbox ++ ms }, lnk := l } := by
  obtain ⟨ms, l, -, h⟩ : State.Sends { s with gx := { s.gx with normSent := true } } (s.sendNorm im) := State.sends_toAll _ _
  exact ⟨ms, l, h⟩

/-- No step is the one above itself. -/
theorem stepAbove_ne (w : W32) : w.toNat ≠ stepAbove w.toNat := by
  have := w.isLt
  unfold stepAbove
  omega

/-- The current step is the current group's. -/
theorem Gx.groupFor_cur (x : Gx) (w : W32) : x.groupFor w.toNat w.toNat = x.group := by
  refine if_neg fun h => ?_
  unfold Gx.stagedFor at h
  rw [Bool.and_eq_true, beq_iff_eq] at h
  exact stepAbove_ne w h.2

section
variable {s : State} {im : Image} (himg : s.img = some im)
include himg

/-- A part in order is kept, and the last of them sends NORM. -/
theorem exec_normPart_eq {i : Nat} {m : XMsg} (hm : s.gx.mail i xNormPart = some m) (htag : s.gx.tagOk im s.tmr.step.toNat m = true)
    (hrem : m.remote = true → s.gx.solo = false) (hcur : m.step = s.tmr.step.toNat) (hown : (s.gx.group.owner m.bucket m.shard).id = m.member)
    (hcol : s.gx.group.collector.id = s.gx.me) (hnew : (s.gx.parts.any fun p => p.1 == (m.bucket, m.shard)) = false) :
    exec (.normPart i) s = .next (
      let s := s.drop i
      let s := { s with gx := { s.gx with parts := s.gx.parts ++ [((m.bucket, m.shard), BitVec.ofNat 32 m.a)] } }
      if !s.gx.normSent && (im.shards s.gx.group.n).all (fun k => s.gx.parts.any fun p => p.1 == k) then s.sendNorm im else s) := by
  have hg : s.gx.groupFor s.tmr.step.toNat m.step = s.gx.group := by rw [hcur]; exact s.gx.groupFor_cur _
  refine congrArg Host.Outcome.next ((State.onMail_taken hm himg hrem _).trans ?_)
  dsimp only
  rw [hg, htag, hnew]
  refine (if_neg ?_).trans ((if_neg (not_not_intro hcur)).trans rfl)
  rw [hown, hcol]
  simp

/-- The norm's deadline. -/
theorem exec_normDeadlinePass_eq : exec .normDeadlinePass s = .next (
    if s.adm.running && im.needsNorm && s.gx.group.collector.id == s.gx.me && !s.gx.normSent && passedBy (s.gx.normDeadline im) s.now then s.sendNorm im else s) := by
  show execNormDeadlinePass s = _
  unfold execNormDeadlinePass
  rw [himg]

/-- The norm of the step is taken. -/
def State.normed (s : State) (im : Image) (v : F32) : State := { s with gx := { s.gx with norm := some v }, upd := s.upd.noteNorm im v }

theorem exec_norm_eq {i : Nat} {m : XMsg} (hm : s.gx.mail i xNorm = some m) (hhead : s.gx.headOk s.tmr.step.toNat m = true)
    (hrem : m.remote = true → s.gx.solo = false) (hcur : m.step = s.tmr.step.toNat) (hcol : s.gx.group.collector.id = m.member)
    (hneed : im.needsNorm = true) (hnew : s.gx.norm = none) : exec (.norm i) s = .next (
      let t := (s.drop i).normed im (BitVec.ofNat 32 m.a)
      if t.flt.abandoning || !t.ctl.state.running then t else
      (t.gx.sets.filter fun y => y.step == s.tmr.step.toNat && !y.key.asPod && y.stage == .reduced).foldl (fun s y => s.beginUpdate im y) t) := by
  have hg : s.gx.groupFor s.tmr.step.toNat m.step = s.gx.group := by rw [hcur]; exact s.gx.groupFor_cur _
  refine congrArg Host.Outcome.next ((State.onMail_taken hm himg hrem _).trans ?_)
  dsimp only
  rw [hg, hhead, hneed, hnew]
  refine (if_neg ?_).trans ((if_neg (not_not_intro hcur)).trans rfl)
  rw [hcol]
  simp

end

/-- Updates that begin leave the norm, and none begins on a norm that skips the step. -/
theorem State.beginUpdates_spec (s : State) (im : Image) (l : List SlotSet) :
    (∃ z u, l.foldl (fun (s : State) y => s.beginUpdate im y) s = { s with gx := { s.gx with sets := z }, adm := { s.adm with updStarted := u } }) ∧
    ((∀ y, s.updates im y = false) → (l.foldl (fun (s : State) y => s.beginUpdate im y) s).adm.updStarted = s.adm.updStarted) := by
  have hone : ∀ (t : State) (y : SlotSet), (∃ z u, t = { s with gx := { s.gx with sets := z }, adm := { s.adm with updStarted := u } }) →
      ∃ z u, t.beginUpdate im y = { s with gx := { s.gx with sets := z }, adm := { s.adm with updStarted := u } } := by
    rintro t y ⟨z, u, rfl⟩
    rw [State.beginUpdate_eq, Gx.putSet_frame]
    exact ⟨_, _, rfl⟩
  refine ⟨foldl_keeps hone l ⟨_, _, rfl⟩, fun hnone => ?_⟩
  refine (foldl_keeps (P := fun t : State => (∃ z u, t = { s with gx := { s.gx with sets := z }, adm := { s.adm with updStarted := u } }) ∧
    t.adm.updStarted = s.adm.updStarted) (fun t y ht => ⟨hone t y ht.1, ?_⟩) l ⟨⟨_, _, rfl⟩, rfl⟩).2
  obtain ⟨⟨z, u, rfl⟩, hu⟩ := ht
  rw [State.beginUpdate_eq]
  exact (congrArg (u || ·) (hnone y)).trans ((Bool.or_false u).trans hu)

end Sys2Proof.Machine
end

section
/-! SUPPORT. O52. -/

namespace Sys2Proof.Machine

/-- A read that stops its command gave the step up, before any update. -/
theorem State.stepRead_gives_up (s : State) (im : Image) (ks : List Nat) (x : Ecc) (hab : s.flt.abandoning = false) (h : (s.stepRead im ks x).2 = true) :
    s.adm.updStarted = false ∧ (s.stepRead im ks x).1.flt.abandoning = true := by
  have hadm : (s.eccRead ks x 0 false true im.addrOf).1.adm = s.adm := by simp
  have hgive : s.GivesUp (s.eccRead ks x 0 false true im.addrOf).1.abandon := State.givesUp_abandon hadm ((s.eccRead_abandoning ..).trans hab)
  unfold State.stepRead at h ⊢
  split at h
  · exact absurd h Bool.false_ne_true
  · next hmeet =>
    rw [if_neg hmeet]
    dsimp only at h ⊢
    split at h
    · next hbad =>
      have hupd : s.adm.updStarted = false := Bool.not_eq_true' _ ▸ h
      rw [if_pos hbad]
      exact ⟨hupd, ((if_neg fun hc => Bool.false_ne_true (hupd.symm.trans hc.2)).mp hgive.2).1⟩
    · exact absurd h Bool.false_ne_true

section
variable {s : State} {im : Image} (himg : s.img = some im) (hrun : s.stepping = true) (hab : s.flt.abandoning = false) (b i : Nat)
include himg hrun hab

/-- A shard's sum over sound slots. -/
theorem exec_shardReduceDone_sound (pod : Bool)
    (hstage : (s.gx.getSet s.tmr.step.toNat { bucket := b, shard := i, asPod := pod }).stage = if pod then .waiting else .adding)
    (hmark : (im.sumPlaces s.gx.group s.gx.me (s.gx.getSet s.tmr.step.toNat { bucket := b, shard := i, asPod := pod })).any s.mem.poisoned = false) (dup : Dup) :
    exec (.shardReduceDone b i pod dup .clean) s =
      .next (s.reduceEnds im s.gx.group b i pod dup (s.gx.getSet s.tmr.step.toNat { bucket := b, shard := i, asPod := pod })) := by
  rw [exec_shardReduceDone_eq himg hrun hab b i pod hstage]
  dsimp only
  rw [State.stepRead_clean im hmark]
  rfl

/-- A shard's sum from marked slots gives the step up. -/
theorem exec_shardReduceDone_marked (hstage : (s.gx.getSet s.tmr.step.toNat { bucket := b, shard := i, asPod := false }).stage = .adding)
    (hmark : (im.sumPlaces s.gx.group s.gx.me (s.gx.getSet s.tmr.step.toNat { bucket := b, shard := i, asPod := false })).any s.mem.poisoned = true)
    (hupd : s.adm.updStarted = false) (dup : Dup) (x : Ecc) :
    ∃ t, exec (.shardReduceDone b i false dup x) s = .next t ∧ t.gx = s.gx ∧ t.flt.abandoning = true := by
  obtain ⟨hgive, hstop, -, hgx, -⟩ := State.stepRead_marked im hmark hab x
  have hnot : ¬ (s.adm.running = true ∧ s.adm.updStarted = true) := fun h => Bool.false_ne_true (hupd.symm.trans h.2)
  rw [exec_shardReduceDone_eq himg hrun hab b i false hstage]
  exact ⟨_, congrArg Host.Outcome.next (if_pos (hstop.trans (congrArg not hupd))), hgx, ((if_neg hnot).mp hgive.2).1⟩

/-- However the read and the engines go, the sum ends or the step is given up. -/
theorem exec_shardReduceDone_ends (hstage : (s.gx.getSet s.tmr.step.toNat { bucket := b, shard := i, asPod := false }).stage = .adding) (dup : Dup) (x : Ecc) :
    ∃ t, exec (.shardReduceDone b i false dup x) s = .next t ∧
      ((t.gx.getSet s.tmr.step.toNat { bucket := b, shard := i, asPod := false }).stage ≠ .adding ∨
        (s.adm.updStarted = false ∧ t.flt.abandoning = true ∧ t.gx = s.gx)) ∧ ∀ a, t.mem.byte a = s.mem.byte a := by
  obtain ⟨-, hgx, -, -, -, hbyte⟩ := s.stepRead_keeps im (im.sumPlaces s.gx.group s.gx.me (s.gx.getSet s.tmr.step.toNat { bucket := b, shard := i, asPod := false })) x
  obtain ⟨hended, hmem⟩ := State.reduceEnds_spec
    (s := (s.stepRead im (im.sumPlaces s.gx.group s.gx.me (s.gx.getSet s.tmr.step.toNat { bucket := b, shard := i, asPod := false })) x).1)
    (im := im) (g := s.gx.group) (b := b) (i := i) (s.gx.getSet_step s.tmr.step.toNat { bucket := b, shard := i, asPod := false }) (s.gx.getSet_key ..) dup
  have hgive := s.stepRead_gives_up im (im.sumPlaces s.gx.group s.gx.me (s.gx.getSet s.tmr.step.toNat { bucket := b, shard := i, asPod := false })) x hab
  rw [exec_shardReduceDone_eq himg hrun hab b i false hstage]
  dsimp only
  split
  · next hstop => exact ⟨_, rfl, .inr ⟨(hgive hstop).1, (hgive hstop).2, hgx⟩, hbyte⟩
  · exact ⟨_, rfl, .inl hended, fun a => (congrArg (Mem.byte · a) hmem).trans (hbyte a)⟩

end

/-- A report of the update engines, told. -/
theorem State.updateReport_tells {s : State} (im : Image) (b i : Nat) (sev : Sev) (h : s.ctl.state.awake = true) :
    ∃ q, s.updateReport im b i sev = { s with flt := s.flt.detect q } ∧ q.cls = .update ∧ q.sev = sev ∧ q.sub = b := by
  obtain ⟨q, hq, hcls, hsev, -, -, hsub, -⟩ : ∃ q, s.updateReport im b i sev = { s with flt := s.flt.detect q } ∧ q.cls = .update ∧ q.sev = sev ∧ _ ∧ _ ∧ q.sub = b ∧ _ :=
    State.report_tells _ h
  exact ⟨q, hq, hcls, hsev, hsub⟩

section
variable {s : State} {im : Image} {g : ExGroup} {b i step : Nat} {k : SlotKey} {y : SlotSet} (hstep : y.step = step) (hkey : y.key = k)
include hstep hkey

/-- Without a norm the update begins at once unless nothing was present. -/
theorem State.reduceShard_plain (hneed : im.needsNorm = false) : let r := reduceSet im g s.gx.me s.mem y
    ∃ x, s.reduceShard im g b i y = { s with gx := x, adm := { s.adm with updStarted := s.adm.updStarted || decide (r.2 ≠ 0) } } ∧
      x.getSet step k = { y with stage := if r.2 = 0 then .reduced else .updating, sum := r.1, n := r.2 } := by
  have hplain : ∀ r, s.sendPart im g b i r = s := fun r => if_pos (by rw [hneed]; rfl)
  have hupd : ∀ y : SlotSet, s.updates im y = decide (y.n ≠ 0) := fun y => by
    unfold State.updates
    rw [hneed]
    exact Bool.and_true _
  have hstage : ∀ n : Nat, (if decide (n ≠ 0) = true then Stage.updating else .reduced) = if n = 0 then .reduced else .updating := fun n => by
    by_cases h : n = 0 <;> simp [h]
  obtain ⟨hset, ht⟩ := s.reduceShard_spec (im := im) (g := g) (b := b) (i := i) hstep hkey
  rw [hplain, hupd] at ht hset
  rw [hstage] at hset
  exact ⟨_, ht, hset⟩

/-- With a norm that is not here yet the shard waits for it, and its part goes to the collector. -/
theorem State.reduceShard_normed (hneed : im.needsNorm = true) (hnorm : s.gx.norm = none) (hcol : g.collector.id = s.gx.me) :
    let r := reduceSet im g s.gx.me s.mem y
    let m := s.xmsg xNormPart b i (s.normPartOf r).toNat 0 0 []
    ∃ z, s.reduceShard im g b i y = { s with gx := { s.gx with sets := z, inbox := s.gx.inbox ++ [m] } } ∧
      Gx.getSet { s.gx with sets := z, inbox := s.gx.inbox ++ [m] } step k = { y with stage := .reduced, sum := r.1, n := r.2 } := by
  have hsend : ∀ r, s.sendPart im g b i r = { s with gx := { s.gx with inbox := s.gx.inbox ++ [s.xmsg xNormPart b i (s.normPartOf r).toNat 0 0 []] } } := fun r =>
    (if_neg (by rw [hneed]; exact Bool.false_ne_true)).trans (State.sendX_self hcol _)
  have hupd : ∀ (l : List XMsg) (y : SlotSet), State.updates { s with gx := { s.gx with inbox := l } } im y = false := fun l y => by
    unfold State.updates
    dsimp only
    rw [hneed, hnorm]
    exact Bool.and_false _
  have hput : ∀ (x : Gx) (z : SlotSet), x.putSet z = { x with sets := (x.putSet z).sets } := fun x z => x.putSet_frame
  dsimp only
  unfold State.reduceShard
  dsimp only
  rw [hsend, State.beginUpdate_eq, hupd, Bool.or_false, if_neg Bool.false_ne_true]
  refine ⟨_, congrArg (fun x : Gx => { s with gx := x }) (hput ..), ?_⟩
  refine (congrArg (fun x : Gx => x.getSet step k) (hput ..)).symm.trans ?_
  exact Gx.getSet_putSet_self (y := { y with stage := .reduced, sum := _, n := _ }) _ hstep hkey

end

/-- What a norm leaves of the updates of the step. -/
theorem State.normed_spec (s : State) (im : Image) (v : F32) (l : List SlotSet) :
    ∃ t, t = (if (s.normed im v).flt.abandoning || !(s.normed im v).ctl.state.running then s.normed im v
        else l.foldl (fun s y => s.beginUpdate im y) (s.normed im v)) ∧
      t.gx.norm = some v ∧ t.upd = s.upd.noteNorm im v ∧ t.mem = s.mem ∧
      (im.needsNorm = true → im.upd.nfSkip = true ∧ f32IsFinite v = false → t.adm.updStarted = s.adm.updStarted) := by
  obtain ⟨⟨z, u, ht⟩, hnone⟩ := (s.normed im v).beginUpdates_spec im l
  have hskip : im.needsNorm = true → im.upd.nfSkip = true ∧ f32IsFinite v = false → ∀ y, (s.normed im v).updates im y = false := by
    rintro hneed ⟨hskip, hinf⟩ y
    unfold State.updates
    rw [hneed]
    dsimp only [State.normed]
    rw [hskip, hinf]
    exact Bool.and_false _
  refine ⟨_, rfl, ?_⟩
  split
  · exact ⟨rfl, rfl, rfl, fun _ _ => rfl⟩
  · refine ⟨?_, ?_, ?_, fun hneed hs => hnone (hskip hneed hs)⟩ <;> (rw [ht]; rfl)

/-- Settles O52. -/
theorem reductionAndNorm : Obligations.ReductionAndNorm := by
  unfold Obligations.ReductionAndNorm
  intro s im himg
  dsimp only
  refine ⟨fun hrun hab => ⟨(exec_shardReduceStart himg hrun hab).1, (exec_shardReduceStart himg hrun hab).2, fun b i => ⟨fun hstage => ⟨fun hmark hneed => ?reduced,
      fun hmark hneed hnorm hcol => ?part, fun hmark hawake => ?differ, exec_shardReduceDone_ends himg hrun hab b i hstage,
      exec_shardReduceDone_marked himg hrun hab b i hstage⟩, fun hmark hstage => ?pod⟩⟩,
    fun i m hm htag hrem hcur hown hcol hnew => ?normPart, fun hrun hneed hcol hsent => ⟨fun hpass => ?deadline, fun hpass => ?waits⟩,
    fun i m hm hhead hrem hcur hcol hneed hnew => ?norm⟩
  case reduced =>
    obtain ⟨x, ht, hset⟩ := s.reduceShard_plain (im := im) (g := s.gx.group) (b := b) (i := i)
      (s.gx.getSet_step s.tmr.step.toNat { bucket := b, shard := i, asPod := false }) (s.gx.getSet_key ..) hneed
    exact ⟨_, (exec_shardReduceDone_sound himg hrun hab b i false hstage hmark .agree).trans (congrArg Host.Outcome.next ht), hset, rfl, rfl, rfl⟩
  case part =>
    obtain ⟨z, ht, hset⟩ := s.reduceShard_normed (im := im) (g := s.gx.group) (b := b) (i := i)
      (s.gx.getSet_step s.tmr.step.toNat { bucket := b, shard := i, asPod := false }) (s.gx.getSet_key ..) hneed hnorm hcol
    exact ⟨_, _, (exec_shardReduceDone_sound himg hrun hab b i false hstage hmark .agree).trans (congrArg Host.Outcome.next ht), hset, rfl, rfl, rfl, rfl, rfl, rfl, rfl⟩
  case differ =>
    obtain ⟨hgone, w, ht⟩ := s.reduceDiffers_spec (im := im) (b := b) (i := i)
      (s.gx.getSet_step s.tmr.step.toNat { bucket := b, shard := i, asPod := false }) (s.gx.getSet_key ..)
    obtain ⟨q, hq, hcls, hsev, hsub⟩ := State.updateReport_tells im b i .contained hawake
    rw [hq] at ht
    rw [ht] at hgone
    exact ⟨_, q, (exec_shardReduceDone_sound himg hrun hab b i false hstage hmark .differ).trans (congrArg Host.Outcome.next ht), hgone, rfl, hcls, hsev, hsub, rfl, rfl⟩
  case pod =>
    obtain ⟨hdone, x, l, ht⟩ := s.reducePod_spec (im := im) (g := s.gx.group) (b := b) (i := i)
      (s.gx.getSet_step s.tmr.step.toNat { bucket := b, shard := i, asPod := true }) (s.gx.getSet_key ..)
    exact ⟨_, exec_shardReduceDone_sound himg hrun hab b i true hstage hmark .agree, hdone, (congrArg State.mem ht :), (congrArg State.adm ht :)⟩
  case normPart =>
    rw [exec_normPart_eq himg hm htag hrem hcur hown hcol hnew]
    dsimp only
    split
    · next hall =>
      obtain ⟨ms, l, ht⟩ := State.sendNorm_spec { s.drop i with gx := { (s.drop i).gx with
        parts := (s.drop i).gx.parts ++ [((m.bucket, m.shard), BitVec.ofNat 32 m.a)] } } im
      rw [ht]
      exact ⟨_, rfl, rfl, (Bool.or_eq_true_iff.mpr (.inr (Bool.and_eq_true_iff.mp hall).2)).symm, rfl⟩
    · next hall =>
      refine ⟨_, rfl, rfl, ?_, rfl⟩
      cases hsent : s.gx.normSent with
      | true => exact hsent
      | false =>
        rw [Bool.and_eq_true, Bool.not_eq_true', not_and, Bool.not_eq_true] at hall
        exact hsent.trans (hall hsent).symm
  case deadline =>
    obtain ⟨ms, l, ht⟩ := s.sendNorm_spec im
    rw [exec_normDeadlinePass_eq himg, hrun, hneed, hcol, hsent, hpass, beq_self_eq_true]
    exact ⟨_, congrArg Host.Outcome.next ht, rfl, rfl, rfl⟩
  case waits =>
    rw [exec_normDeadlinePass_eq himg, hpass, Bool.and_false]
    rfl
  case norm =>
    obtain ⟨t, ht, hnorm, hupd, hmem, hskip⟩ := (s.drop i).normed_spec im (BitVec.ofNat 32 m.a)
      (s.gx.sets.filter fun y => y.step == s.tmr.step.toNat && !y.key.asPod && y.stage == .reduced)
    rw [exec_norm_eq himg hm hhead hrem hcur hcol hneed hnew]
    refine ⟨t, congrArg Host.Outcome.next ht.symm, hnorm, congrArg Upd.norm2 hupd, congrArg Upd.clip hupd, hmem, fun hs => ⟨?_, ?_, hskip hneed hs⟩, fun hlt => ⟨?_, ?_⟩⟩
    · rw [hupd]
      exact Bool.or_eq_true_iff.mpr (.inr (by rw [hs.1, hs.2]; rfl))
    · rw [hupd]
      exact if_pos (by rw [hs.1, hs.2]; rfl)
    · rw [hupd]
      exact Bool.or_eq_true_iff.mpr (.inr hlt)
    · rw [hupd]
      exact if_pos hlt

end Sys2Proof.Machine
end

section
/-! SUPPORT. O53: the update of a shard (R290, R291, R293, R296, R297, R299, R343, R354 to R357, R523). -/

namespace Sys2Proof.Machine

/-- The blocks of a shard to update, outside FAULT, with their gradients (R336, R343). -/
def State.updTodo (s : State) (im : Image) (b i : Nat) (y : SlotSet) : List (Nat × List F32) :=
  (if y.stage == .updating then im.slices (im.shardBlocks s.gx.group.n b i) (s.applied im y) else []).filter fun p => !s.gx.unseeded.contains p.1

/-- Those of the fast tier (R290). -/
def Image.updFast (im : Image) (todo : List (Nat × List F32)) : List Nat := (todo.map (·.1)).filter fun k => !(im.isSlow k && 0 < im.upd.k)

/-- Those of the slow tier that have a queue entry (R293). -/
def State.updQueued (s : State) (im : Image) (todo : List (Nat × List F32)) : List Nat :=
  (todo.map (·.1)).filter fun k => im.isSlow k && 0 < im.upd.k && (s.upd.queue.at k).isSome

/-- The block the engines differ on (R523). -/
def updDiffer (dup : Dup) (blk : Nat) (todo : List (Nat × List F32)) : List Nat := if dup = .differ then ((todo[blk]?).map (·.1)).toList else []

/-- The blocks that did not stop are updated. -/
def State.updApply (s : State) (im : Image) (b i step : Nat) (todo : List (Nat × List F32)) (stop : List Nat) : State :=
  (todo.filter fun p => !stop.contains p.1).foldl (fun u p => u.applyTo im ((s.gx.silence im stop).isSilent im b i) step p) { s with gx := s.gx.silence im stop }

/-- The end of a shard's update: those updated, the return, and the set's stage. -/
def State.updEnds (s : State) (im : Image) (b i step : Nat) (todo : List (Nat × List F32)) (fast stop : List Nat) (y : SlotSet) : State :=
  let silent := (s.gx.silence im stop).isSilent im b i
  let t := s.updApply im b i step todo stop
  let t := if silent then t else t.sendReturn im b i fast
  ({ t with gx := t.gx.putSet { y with stage := if silent then .gone else .done } }).noteStep im

section
variable {s : State} {im : Image} (himg : s.img = some im) (hrun : s.adm.running = true) (hfault : s.ctl.state ≠ .fault) (hab : s.flt.abandoning = false)
  (hsweep : s.upd.sweep = none) (b i : Nat)
include himg hrun hfault hab hsweep

/-- The update of a shard that is due: read, compared, applied. -/
theorem exec_shardUpdateDone_eq (blk : Nat) (dup : Dup) (x : Ecc) (hdue : let y := s.gx.getSet s.tmr.step.toNat { bucket := b, shard := i, asPod := false }
      y.stage = .updating ∨ y.stage = .reduced ∧ y.n = 0) :
    exec (.shardUpdateDone b i blk dup x) s = .next (
      let y := s.gx.getSet s.tmr.step.toNat { bucket := b, shard := i, asPod := false }
      let todo := s.updTodo im b i y
      let r := s.updateRead im (im.updFast todo) (s.updQueued im todo) x
      ((updDiffer dup blk todo).foldl (fun u g => u.updateFault im g) r.1).updEnds im b i s.tmr.step.toNat todo (im.updFast todo) (r.2 ++ updDiffer dup blk todo) y) := by
  have hnot : (s.ctl.state == .fault) = false := beq_eq_false_iff_ne.mpr hfault
  show execShardUpdateDone b i blk dup x s = _
  unfold execShardUpdateDone
  split
  · next h => rw [himg] at h; contradiction
  · next im' h =>
    obtain rfl := Option.some.inj (himg.symm.trans h)
    refine congrArg Host.Outcome.next ((if_neg ?_).trans ?_)
    · rw [hrun, hab, hsweep, hnot]
      rcases hdue with hd | ⟨hd, hn⟩
      · rw [hd]; simp
      · rw [hd, hn]; simp
    · rw [hnot]
      simp only [Bool.not_false, Bool.true_or, Bool.and_true, Bool.or_false]
      rfl

end

/-! What the end leaves -/

section
variable {s : State} {im : Image} {b i step : Nat} {todo : List (Nat × List F32)} {fast stop : List Nat} {y : SlotSet} {k : SlotKey}

theorem State.sends_sendReturn (s : State) (im : Image) (b i : Nat) (fast : List Nat) : s.Sent (s.sendReturn im b i fast) := by
  obtain ⟨x, l, h⟩ := State.sent_foldl (fun (t : State) k => t.sent_sendPanel im k ((t.upd.gen.at k).next.getD 0)) fast s
  unfold State.sendReturn
  dsimp only
  rw [h]
  obtain ⟨x', l', h'⟩ := State.sent_toAll { s with gx := x, lnk := l } _
  exact ⟨x', l', h'⟩

/-- Besides what the blocks' updates do, the exchange, the links and GX_UPD_STEP change. -/
theorem State.updEnds_spec (hstep : y.step = step) (hkey : y.key = k) : ∃ x l w,
    s.updEnds im b i step todo fast stop y = { s.updApply im b i step todo stop with gx := x, lnk := l, upd := { (s.updApply im b i step todo stop).upd with step := w } } ∧
    (x.getSet step k).stage = if (s.gx.silence im stop).isSilent im b i then .gone else .done := by
  have hsent : s.updApply im b i step todo stop |>.Sent (if (s.gx.silence im stop).isSilent im b i then s.updApply im b i step todo stop
      else (s.updApply im b i step todo stop).sendReturn im b i fast) := by
    split
    · exact ⟨_, _, rfl⟩
    · exact State.sends_sendReturn ..
  obtain ⟨x, l, h⟩ := hsent
  unfold State.updEnds
  dsimp only
  rw [h]
  obtain ⟨w, hw⟩ := State.noteStep_eq { s.updApply im b i step todo stop with
    gx := x.putSet { y with stage := if (s.gx.silence im stop).isSilent im b i then .gone else .done }, lnk := l } im
  exact ⟨_, _, w, hw, congrArg SlotSet.stage (x.getSet_putSet_self
    (y := { y with stage := if (s.gx.silence im stop).isSilent im b i then .gone else .done }) hstep hkey)⟩

/-- A shard none of whose blocks is updated: its generations and the memory keep. -/
theorem State.updEnds_none (hstep : y.step = step) (hkey : y.key = k) (hnone : ∀ p ∈ todo, stop.contains p.1 = true) : ∃ x l w,
    s.updEnds im b i step todo fast stop y = { s with gx := x, lnk := l, upd := { s.upd with step := w } } ∧
    (x.getSet step k).stage = if (s.gx.silence im stop).isSilent im b i then .gone else .done := by
  have hfilter : (todo.filter fun p => !stop.contains p.1) = [] := List.filter_eq_nil_iff.mpr fun p hp => by rw [hnone p hp]; exact Bool.false_ne_true
  have happly : s.updApply im b i step todo stop = { s with gx := s.gx.silence im stop } := by
    unfold State.updApply
    rw [hfilter]
    rfl
  obtain ⟨x, l, w, h, hstage⟩ := s.updEnds_spec (im := im) (b := b) (i := i) (todo := todo) (fast := fast) (stop := stop) hstep hkey
  rw [happly] at h
  exact ⟨x, l, w, h, hstage⟩

/-- A shard is silent once a block of it has stopped. -/
theorem Gx.isSilent_silence_of_mem (x : Gx) {g : Nat} (hg : g ∈ stop) (hshard : im.shardOf x.group.n g = some (b, i)) : (x.silence im stop).isSilent im b i = true := by
  have hmem : (b, i) ∈ (x.silent ++ stop.filterMap fun g => im.shardOf x.group.n g).eraseDups :=
    List.mem_eraseDups.mpr (List.mem_append.mpr (.inr (List.mem_filterMap.mpr ⟨g, hg, hshard⟩)))
  exact Bool.or_eq_true_iff.mpr (.inl (List.contains_iff_mem.mpr hmem))

/-- Or a block is unseeded. -/
theorem Gx.isSilent_of_unseeded (x : Gx) {g : Nat} (hg : g ∈ im.shardBlocks x.group.n b i) (hun : x.unseeded.contains g = true) :
    (x.silence im stop).isSilent im b i = true :=
  Bool.or_eq_true_iff.mpr (.inr (List.any_eq_true.mpr ⟨g, hg, hun⟩))

/-- A sound shard of one seeded block is not silent. -/
theorem Gx.isSilent_single (x : Gx) {g : Nat} (hb : im.shardBlocks x.group.n b i = [g]) (hun : x.unseeded.contains g = false) (hs : x.silent.contains (b, i) = false) :
    (x.silence im []).isSilent im b i = false := by
  rw [Gx.isSilent_silence_nil]
  unfold Gx.isSilent
  rw [hb, hs]
  simp only [List.any_cons, List.any_nil, Bool.or_false, Bool.false_or]
  exact hun

end

/-! What the reads find -/

section
variable {s : State} {im : Image}

/-- No block, no read. -/
theorem State.updateRead_nil (x : Ecc) : s.updateRead im [] [] x = (s, []) := by
  have hunits : x.units [] = [] := by
    unfold Ecc.units
    exact foldl_keeps (P := fun l : List (Nat × List Nat) => l = []) (fun l e hl => by simp [hl]) _ rfl
  have hread : s.eccRead [] x 0 false false im.addrOf = (s, false) := by
    unfold State.eccRead
    simp [hunits, State.meetErrs]
  unfold State.updateRead State.engineRead
  simp [hread]

/-- Sound blocks. -/
theorem State.updateRead_of_sound {gs q : List Nat} (h : ∀ g ∈ gs, im.updPoison s.mem (q.contains g) g = false) :
    ∃ x, s.updateRead im gs q .clean = ({ s with memr := x }, []) := by
  obtain ⟨x, hx⟩ := s.engineRead_of_clean im (gs.flatMap im.updPlaces ++ q.flatMap im.queuePlaces)
  have hnone : (gs.filter fun g => im.updPoison s.mem (q.contains g) g) = [] := List.filter_eq_nil_iff.mpr fun g hg => by rw [h g hg]; exact Bool.false_ne_true
  refine ⟨x, ?_⟩
  unfold State.updateRead
  dsimp only
  rw [hx, hnone]
  rfl

/-- One poisoned block among sound ones stops with its record. -/
theorem State.updateRead_of_poisoned {gs : List Nat} {g : Nat} (hg : (gs.filter fun g => im.updPoison s.mem false g) = [g]) :
    ∃ x, s.updateRead im gs [] .clean = (({ s with memr := x } : State).updateFault im g, [g]) := by
  obtain ⟨x, hx⟩ := s.engineRead_of_clean im (gs.flatMap im.updPlaces ++ ([] : List Nat).flatMap im.queuePlaces)
  refine ⟨x, ?_⟩
  unfold State.updateRead
  dsimp only
  rw [hx]
  exact Prod.ext ((congrArg (fun l : List Nat => l.foldl (fun u g => State.updateFault u im g) { s with memr := x }) hg).trans rfl) hg

/-- A new error in a sound block stops it, with the memory's report. -/
theorem State.updateRead_uncorrected {g j a : Nat} (hsound : im.updPoison s.mem false g = false) (ha : (im.updPlaces g)[j]? = some a)
    (hpass : s.inActiveStore a = false) (haw : s.ctl.state.awake = true) : ∃ f m q, s.updateRead im [g] [] (.uncorrected j) =
      ({ s with fab := f, mem := s.mem.setPoison a true, memr := m, flt := s.flt.detect q }, [g]) ∧ q.cls = tierCls a ∧ q.sev = .contained := by
  have hplaces : ([g].flatMap im.updPlaces ++ ([] : List Nat).flatMap im.queuePlaces) = im.updPlaces g := by simp
  have hclean : (im.updPlaces g).any s.mem.poisoned = false := by
    unfold Image.updPoison at hsound
    rw [Bool.false_and, Bool.or_false] at hsound
    exact hsound
  obtain ⟨f, m, hunc⟩ := State.uncorrected_of_passive hpass (im.addrOf a) 0 false false false
  obtain ⟨q, hq, hcls, hsev, -⟩ := State.report_tells (s := { s with fab := f, mem := s.mem.setPoison a true, memr := m })
    (memReport a (im.addrOf a) .contained false false false) haw
  have hread : s.engineRead im (im.updPlaces g) (.uncorrected j) = { s with fab := f, mem := s.mem.setPoison a true, memr := m, flt := s.flt.detect q } := by
    unfold State.engineRead
    rw [if_neg (by simp [Ecc.uncorrected]), State.eccRead_uncorrected ha hclean]
    exact hunc.trans hq
  have hold : ([g].filter fun g => im.updPoison s.mem false g) = [] := List.filter_cons_of_neg (by rw [hsound]; exact Bool.false_ne_true)
  have hnew : ([g].filter fun g => im.updPoison (s.mem.setPoison a true) false g) = [g] := List.filter_cons_of_pos (by
    unfold Image.updPoison
    rw [Bool.false_and, Bool.or_false]
    exact List.any_eq_true.mpr ⟨a, List.mem_of_getElem? ha, Mem.poisoned_setPoison _ true rfl⟩)
  refine ⟨f, m, q, ?_, hcls, hsev⟩
  unfold State.updateRead
  dsimp only
  rw [hplaces, hread]
  exact Prod.ext ((congrArg (fun l : List Nat => l.foldl (fun u g => State.updateFault u im g) _) hold).trans rfl) hnew

end

end Sys2Proof.Machine
end

section
/-! SUPPORT. O53: the cases of a shard's update. -/

namespace Sys2Proof.Machine

/-! One block -/

section
variable (s : State) (im : Image) (step : Nat) {k : Nat} {gu : List F32}

/-- A fast-tier block is updated, and makes a generation where its shard is not silent (R290, R296, R299). -/
theorem State.applyTo_fast (h : (im.isSlow k && decide (0 < im.upd.k)) = false) (silent : Bool) : ∃ c, s.applyTo im silent step (k, gu) =
    { s with mem := (im.updateBlock s.mem k ((s.upd.gen.at k).cur + 1) step s.adm.lrScale gu).1
             upd := if silent then s.upd else s.upd.made k ((s.upd.gen.at k).cur + 1), sites := c } := by
  obtain ⟨c, hc⟩ := State.countUnbound_eq { s with mem := (im.updateBlock s.mem k ((s.upd.gen.at k).cur + 1) step s.adm.lrScale gu).1, upd := s.upd.made k ((s.upd.gen.at k).cur + 1) }
    (im.updateBlock s.mem k ((s.upd.gen.at k).cur + 1) step s.adm.lrScale gu).2
  have hone : s.updateOne im k step gu = { s with mem := (im.updateBlock s.mem k ((s.upd.gen.at k).cur + 1) step s.adm.lrScale gu).1
                                                  upd := s.upd.made k ((s.upd.gen.at k).cur + 1), sites := c } := hc
  unfold State.applyTo State.updateQuiet
  rw [h, if_neg Bool.false_ne_true, hone]
  exact ⟨c, by cases silent <;> rfl⟩

/-- A slow-tier block's gradients go into its queue entry (R293). -/
theorem State.applyTo_slow (h : (im.isSlow k && decide (0 < im.upd.k)) = true) (silent : Bool) : s.applyTo im silent step (k, gu) =
    { s with upd := { s.upd with queue := s.upd.queue.put k (some { first := ((s.upd.queue.at k).map (·.first)).getD step, last := step }) }
             mem := if (s.upd.queue.at k).isSome then
                 (im.queueWrite s.mem k (List.zipWith f32Add (im.queueRead s.mem k) gu)).carry s.mem (im.queuePlaces k) (im.queuePlaces k)
               else im.queueWrite s.mem k gu } := by
  unfold State.applyTo State.queueAdd
  rw [if_pos h]
  dsimp only
  cases hq : s.upd.queue.at k <;> rfl

end

/-! What there is to do -/

section
variable {s : State} {im : Image} {b i k : Nat} {y : SlotSet}

theorem State.updTodo_of_reduced (h : y.stage = .reduced) : s.updTodo im b i y = [] := by
  unfold State.updTodo
  rw [h]
  rfl

/-- An unseeded block takes no update. -/
theorem State.updTodo_of_unseeded (hb : im.shardBlocks s.gx.group.n b i = [k]) (h : s.gx.unseeded.contains k = true) : s.updTodo im b i y = [] := by
  unfold State.updTodo
  split
  · rw [hb]
    exact List.filter_cons_of_neg (by dsimp only; rw [h]; exact Bool.false_ne_true)
  · rfl

theorem State.updTodo_single (hb : im.shardBlocks s.gx.group.n b i = [k]) (hst : y.stage = .updating) (h : s.gx.unseeded.contains k = false) :
    s.updTodo im b i y = [(k, (s.applied im y).take (im.blockElems k))] := by
  unfold State.updTodo
  rw [hst, hb]
  exact List.filter_cons_of_pos (by dsimp only; rw [h]; rfl)

theorem State.updTodo_pair {l : Nat} (hb : im.shardBlocks s.gx.group.n b i = [k, l]) (hst : y.stage = .updating) (hk : s.gx.unseeded.contains k = false)
    (hl : s.gx.unseeded.contains l = false) :
    s.updTodo im b i y = [(k, (s.applied im y).take (im.blockElems k)), (l, ((s.applied im y).drop (im.blockElems k)).take (im.blockElems l))] := by
  unfold State.updTodo
  rw [hst, hb]
  refine (List.filter_cons_of_pos (by dsimp only; rw [hk]; rfl)).trans (congrArg (List.cons _) ?_)
  exact List.filter_cons_of_pos (by dsimp only; rw [hl]; rfl)

theorem Image.updFast_single (im : Image) (k : Nat) (gu : List F32) : im.updFast [(k, gu)] = if im.isSlow k && decide (0 < im.upd.k) then [] else [k] := by
  unfold Image.updFast
  cases h : im.isSlow k && decide (0 < im.upd.k)
  · exact List.filter_cons_of_pos (by rw [h]; rfl)
  · exact List.filter_cons_of_neg (by rw [h]; exact Bool.false_ne_true)

theorem State.updQueued_of_fast (s : State) {im : Image} {k : Nat} (h : (im.isSlow k && decide (0 < im.upd.k)) = false) (gu : List F32) :
    s.updQueued im [(k, gu)] = [] :=
  List.filter_cons_of_neg (by rw [h]; exact Bool.false_ne_true)

/-- One block's reads that meet nothing. -/
theorem State.updateRead_single {gu : List F32} (h : im.updPoison s.mem false k = false) :
    ∃ x, s.updateRead im (im.updFast [(k, gu)]) (s.updQueued im [(k, gu)]) .clean = ({ s with memr := x }, []) := by
  refine State.updateRead_of_sound fun g hg => ?_
  rw [Image.updFast_single] at hg
  cases hs : im.isSlow k && decide (0 < im.upd.k) with
  | true => rw [hs] at hg; exact absurd hg List.not_mem_nil
  | false =>
    rw [hs] at hg
    rw [s.updQueued_of_fast hs, List.mem_singleton.mp hg]
    exact h

theorem updDiffer_of_ne {dup : Dup} (h : dup ≠ .differ) (blk : Nat) (todo : List (Nat × List F32)) : updDiffer dup blk todo = [] := if_neg h

end

section
variable {s : State} {im : Image} (himg : s.img = some im) (hrun : s.adm.running = true) (hfault : s.ctl.state ≠ .fault) (hab : s.flt.abandoning = false)
  (hsweep : s.upd.sweep = none) {b i k : Nat}
include himg hrun hfault hab hsweep

/-- A shard's update of which nothing is applied: what its reads left, and the stage. -/
theorem exec_shardUpdateDone_none {dup : Dup} {x : Ecc} {blk : Nat} (hdue : let y := s.gx.getSet s.tmr.step.toNat { bucket := b, shard := i, asPod := false }
      y.stage = .updating ∨ y.stage = .reduced ∧ y.n = 0)
    {todo : List (Nat × List F32)} (htodo : s.updTodo im b i (s.gx.getSet s.tmr.step.toNat { bucket := b, shard := i, asPod := false }) = todo)
    {u : State} {stop : List Nat} (hread : (updDiffer dup blk todo).foldl (fun u g => u.updateFault im g) (s.updateRead im (im.updFast todo) (s.updQueued im todo) x).1 = u)
    (hstop : (s.updateRead im (im.updFast todo) (s.updQueued im todo) x).2 ++ updDiffer dup blk todo = stop) (hnone : ∀ p ∈ todo, stop.contains p.1 = true) :
    ∃ z l w, exec (.shardUpdateDone b i blk dup x) s = .next { u with gx := z, lnk := l, upd := { u.upd with step := w } } ∧
      (z.getSet s.tmr.step.toNat { bucket := b, shard := i, asPod := false }).stage = if (u.gx.silence im stop).isSilent im b i then .gone else .done := by
  obtain ⟨z, l, w, hend, hstage⟩ := u.updEnds_none (im := im) (b := b) (i := i) (fast := im.updFast todo)
    (s.gx.getSet_step s.tmr.step.toNat { bucket := b, shard := i, asPod := false }) (s.gx.getSet_key ..) hnone
  refine ⟨z, l, w, ?_, hstage⟩
  rw [exec_shardUpdateDone_eq himg hrun hfault hab hsweep b i blk dup x hdue]
  dsimp only
  rw [htodo, hread, hstop, hend]

/-- A shard's update of one block that meets nothing. -/
theorem exec_shardUpdateDone_one {gu : List F32} (hdue : (s.gx.getSet s.tmr.step.toNat { bucket := b, shard := i, asPod := false }).stage = .updating)
    (htodo : s.updTodo im b i (s.gx.getSet s.tmr.step.toNat { bucket := b, shard := i, asPod := false }) = [(k, gu)])
    {x : MemRegs} (hread : s.updateRead im (im.updFast [(k, gu)]) (s.updQueued im [(k, gu)]) .clean = ({ s with memr := x }, [])) {dup : Dup} (hdup : dup ≠ .differ)
    (hsilent : (s.gx.silence im []).isSilent im b i = false) :
    ∃ z l w, exec (.shardUpdateDone b i 0 dup .clean) s = .next
      (let u := ({ s with memr := x, gx := s.gx.silence im [] } : State).applyTo im false s.tmr.step.toNat (k, gu)
       { u with gx := z, lnk := l, upd := { u.upd with step := w } }) ∧
      (z.getSet s.tmr.step.toNat { bucket := b, shard := i, asPod := false }).stage = .done := by
  obtain ⟨z, l, w, hend, hstage⟩ := ({ s with memr := x } : State).updEnds_spec (im := im) (b := b) (i := i) (todo := [(k, gu)]) (fast := im.updFast [(k, gu)]) (stop := [])
    (s.gx.getSet_step s.tmr.step.toNat { bucket := b, shard := i, asPod := false }) (s.gx.getSet_key ..)
  have happly : ({ s with memr := x } : State).updApply im b i s.tmr.step.toNat [(k, gu)] [] =
      ({ s with memr := x, gx := s.gx.silence im [] } : State).applyTo im false s.tmr.step.toNat (k, gu) := by
    unfold State.updApply
    dsimp only
    rw [hsilent]
    rfl
  refine ⟨z, l, w, ?_, hstage.trans (if_neg fun h => Bool.false_ne_true (hsilent.symm.trans h))⟩
  rw [exec_shardUpdateDone_eq himg hrun hfault hab hsweep b i 0 dup .clean (.inl hdue)]
  dsimp only
  rw [htodo, hread, updDiffer_of_ne hdup]
  exact congrArg Host.Outcome.next (hend.trans (by rw [happly]))

end

end Sys2Proof.Machine
end

section
/-! SUPPORT. O53: the update of a shard of one block, and of two with the first poisoned. -/

namespace Sys2Proof.Machine

theorem updDiffer_nil (dup : Dup) (blk : Nat) : updDiffer dup blk [] = [] := by cases dup <;> rfl

section
variable {s : State} {im : Image} (himg : s.img = some im) (hrun : s.adm.running = true) (hfault : s.ctl.state ≠ .fault) (hab : s.flt.abandoning = false)
  (hsweep : s.upd.sweep = none) {b i k : Nat} (hb : im.shardBlocks s.gx.group.n b i = [k])
include himg hrun hfault hab hsweep hb

/-- An unseeded block is not updated and its shard not returned (R343). -/
theorem exec_update_unseeded (hun : s.gx.unseeded.contains k = true) (d : Dup) (x : Ecc)
    (hdue : let y := s.gx.getSet s.tmr.step.toNat { bucket := b, shard := i, asPod := false }; y.stage = .updating ∨ y.stage = .reduced ∧ y.n = 0) :
    ∃ t, exec (.shardUpdateDone b i 0 d x) s = .next t ∧ t.mem = s.mem ∧ t.upd.gen = s.upd.gen ∧ t.upd.queue = s.upd.queue ∧
      (t.gx.getSet s.tmr.step.toNat { bucket := b, shard := i, asPod := false }).stage = .gone := by
  have hread : s.updateRead im (im.updFast []) (s.updQueued im []) x = (s, []) := s.updateRead_nil x
  obtain ⟨z, l, w, hexec, hstage⟩ := exec_shardUpdateDone_none himg hrun hfault hab hsweep (dup := d) (x := x) (blk := 0) hdue (State.updTodo_of_unseeded hb hun)
    (u := s) (stop := []) (by rw [hread, updDiffer_nil]; rfl) (by rw [hread, updDiffer_nil]; rfl) nofun
  exact ⟨_, hexec, rfl, rfl, rfl, hstage.trans (if_pos (s.gx.isSilent_of_unseeded (hb ▸ List.mem_singleton.mpr rfl) hun))⟩

section
variable (hshard : im.shardOf s.gx.group.n k = some (b, i)) (hs : s.gx.silent.contains (b, i) = false) (hun : s.gx.unseeded.contains k = false)
include hun

/-- With nothing present the shard is returned without change (R354). -/
theorem exec_update_nothing (hs : s.gx.silent.contains (b, i) = false)
    (hst : (s.gx.getSet s.tmr.step.toNat { bucket := b, shard := i, asPod := false }).stage = .reduced)
    (hn : (s.gx.getSet s.tmr.step.toNat { bucket := b, shard := i, asPod := false }).n = 0) :
    ∃ t, exec (.shardUpdateDone b i 0 .agree .clean) s = .next t ∧ t.mem = s.mem ∧ t.upd.gen = s.upd.gen ∧
      (t.gx.getSet s.tmr.step.toNat { bucket := b, shard := i, asPod := false }).stage = .done := by
  have hread : s.updateRead im (im.updFast []) (s.updQueued im []) .clean = (s, []) := s.updateRead_nil .clean
  obtain ⟨z, l, w, hexec, hstage⟩ := exec_shardUpdateDone_none himg hrun hfault hab hsweep (dup := .agree) (x := .clean) (blk := 0) (.inr ⟨hst, hn⟩)
    (State.updTodo_of_reduced hst) (u := s) (stop := []) (by rw [hread]; rfl) (by rw [hread]; rfl) nofun
  exact ⟨_, hexec, rfl, rfl, hstage.trans (if_neg fun h => Bool.false_ne_true ((s.gx.isSilent_single hb hun hs).symm.trans h))⟩

variable (hst : (s.gx.getSet s.tmr.step.toNat { bucket := b, shard := i, asPod := false }).stage = .updating)
include hst

section
include hs

/-- A sound fast-tier block is updated (R290, R291, R296). -/
theorem exec_update_fast (hfast : (im.isSlow k && decide (0 < im.upd.k)) = false) (hsound : im.updPoison s.mem false k = false) {d : Dup} (hd : d ≠ .differ) :
    let gen := (s.upd.gen.at k).cur + 1
    ∃ t, exec (.shardUpdateDone b i 0 d .clean) s = .next t ∧
      t.mem = (im.updateBlock s.mem k gen s.tmr.step.toNat s.adm.lrScale
        ((s.applied im (s.gx.getSet s.tmr.step.toNat { bucket := b, shard := i, asPod := false })).take (im.blockElems k))).1 ∧
      (t.upd.gen.at k).next = some gen ∧ (t.upd.gen.at k).cur = (s.upd.gen.at k).cur ∧
      (t.gx.getSet s.tmr.step.toNat { bucket := b, shard := i, asPod := false }).stage = .done := by
  have htodo := State.updTodo_single hb hst hun
  obtain ⟨x, hread⟩ := State.updateRead_single (s := s) (im := im) (k := k)
    (gu := (s.applied im (s.gx.getSet s.tmr.step.toNat { bucket := b, shard := i, asPod := false })).take (im.blockElems k)) hsound
  obtain ⟨z, l, w, hexec, hstage⟩ := exec_shardUpdateDone_one himg hrun hfault hab hsweep hst htodo hread hd (s.gx.isSilent_single hb hun hs)
  obtain ⟨c, hc⟩ := ({ s with memr := x, gx := s.gx.silence im [] } : State).applyTo_fast im s.tmr.step.toNat
    (gu := (s.applied im (s.gx.getSet s.tmr.step.toNat { bucket := b, shard := i, asPod := false })).take (im.blockElems k)) hfast false
  have hgen : (s.upd.made k ((s.upd.gen.at k).cur + 1)).gen.at k = { s.upd.gen.at k with next := some ((s.upd.gen.at k).cur + 1) } :=
    Sparse.at_mod_self s.upd.gen k fun x => { x with next := some ((s.upd.gen.at k).cur + 1) }
  rw [hc] at hexec
  exact ⟨_, hexec, rfl, (congrArg Gen.next hgen :), (congrArg Gen.cur hgen :), hstage⟩

/-- A slow-tier block's gradients join its entry, and make no generation (R293). -/
theorem exec_update_slow (hslow : (im.isSlow k && decide (0 < im.upd.k)) = true) {d : Dup} (hd : d ≠ .differ) :
    let gu := (s.applied im (s.gx.getSet s.tmr.step.toNat { bucket := b, shard := i, asPod := false })).take (im.blockElems k)
    ∃ t, exec (.shardUpdateDone b i 0 d .clean) s = .next t ∧ t.upd.gen = s.upd.gen ∧
      (t.gx.getSet s.tmr.step.toNat { bucket := b, shard := i, asPod := false }).stage = .done ∧
      t.upd.queue.at k = some { first := ((s.upd.queue.at k).map (·.first)).getD s.tmr.step.toNat, last := s.tmr.step.toNat } ∧
      t.mem = (if (s.upd.queue.at k).isSome then
        (im.queueWrite s.mem k (List.zipWith f32Add (im.queueRead s.mem k) gu)).carry s.mem (im.queuePlaces k) (im.queuePlaces k)
        else im.queueWrite s.mem k gu) := by
  have htodo := State.updTodo_single hb hst hun
  obtain ⟨x, hread⟩ : ∃ x, s.updateRead im (im.updFast [(k, (s.applied im (s.gx.getSet s.tmr.step.toNat { bucket := b, shard := i, asPod := false })).take (im.blockElems k))])
      (s.updQueued im [(k, (s.applied im (s.gx.getSet s.tmr.step.toNat { bucket := b, shard := i, asPod := false })).take (im.blockElems k))]) .clean =
      ({ s with memr := x }, []) := by
    rw [Image.updFast_single, hslow]
    exact State.updateRead_of_sound fun g hg => absurd hg List.not_mem_nil
  obtain ⟨z, l, w, hexec, hstage⟩ := exec_shardUpdateDone_one himg hrun hfault hab hsweep hst htodo hread hd (s.gx.isSilent_single hb hun hs)
  rw [State.applyTo_slow _ im _ hslow] at hexec
  exact ⟨_, hexec, rfl, hstage, Sparse.at_put_self s.upd.queue k (some { first := ((s.upd.queue.at k).map (·.first)).getD s.tmr.step.toNat, last := s.tmr.step.toNat }), rfl⟩

end

section
include hshard

/-- A poisoned block stops, with a record of the update (R299). -/
theorem exec_update_poisoned (hfast : (im.isSlow k && decide (0 < im.upd.k)) = false) (hpoison : im.updPoison s.mem false k = true) (haw : s.ctl.state.awake = true)
    {d : Dup} (hd : d ≠ .differ) : ∃ t q, exec (.shardUpdateDone b i 0 d .clean) s = .next t ∧ t.mem = s.mem ∧ t.upd.gen = s.upd.gen ∧
      (t.gx.getSet s.tmr.step.toNat { bucket := b, shard := i, asPod := false }).stage = .gone ∧
      t.flt.reports = Report.enter q s.flt.reports ∧ q.cls = .update ∧ q.sev = .contained ∧ q.detail = k := by
  have htodo := State.updTodo_single hb hst hun
  obtain ⟨x, hread⟩ := State.updateRead_of_poisoned (s := s) (im := im) (gs := [k]) (g := k) (List.filter_cons_of_pos hpoison)
  obtain ⟨q, hq, hcls, hsev, -, -, -, hdetail⟩ : ∃ q, ({ s with memr := x } : State).updateFault im k = { s with memr := x, flt := s.flt.detect q } ∧
      q.cls = .update ∧ q.sev = .contained ∧ _ ∧ _ ∧ _ ∧ q.detail = k := State.report_tells _ haw
  obtain ⟨z, l, w, hexec, hstage⟩ := exec_shardUpdateDone_none himg hrun hfault hab hsweep (dup := d) (x := .clean) (blk := 0) (.inl hst) htodo
    (u := { s with memr := x, flt := s.flt.detect q }) (stop := [k])
    (by rw [Image.updFast_single, hfast, if_neg Bool.false_ne_true, s.updQueued_of_fast hfast, hread, updDiffer_of_ne hd]; exact hq)
    (by rw [Image.updFast_single, hfast, if_neg Bool.false_ne_true, s.updQueued_of_fast hfast, hread, updDiffer_of_ne hd]; rfl)
    (fun p hp => by rw [List.mem_singleton.mp hp]; simp)
  exact ⟨_, q, hexec, rfl, rfl, hstage.trans (if_pos (s.gx.isSilent_silence_of_mem (List.mem_singleton.mpr rfl) hshard)), rfl, hcls, hsev, hdetail⟩

/-- A block that meets a new error stops, with the memory's record (R299, R455). -/
theorem exec_update_uncorrected (hfast : (im.isSlow k && decide (0 < im.upd.k)) = false) (hsound : im.updPoison s.mem false k = false) {j a : Nat}
    (ha : (im.updPlaces k)[j]? = some a) (hpass : s.inActiveStore a = false) (haw : s.ctl.state.awake = true) {d : Dup} (hd : d ≠ .differ) :
    ∃ t q, exec (.shardUpdateDone b i 0 d (.uncorrected j)) s = .next t ∧ t.mem = s.mem.setPoison a true ∧ t.upd.gen = s.upd.gen ∧
      (t.gx.getSet s.tmr.step.toNat { bucket := b, shard := i, asPod := false }).stage = .gone ∧
      t.flt.reports = Report.enter q s.flt.reports ∧ q.cls = tierCls a ∧ q.sev = .contained := by
  have htodo := State.updTodo_single hb hst hun
  obtain ⟨f, m, q, hread, hcls, hsev⟩ := State.updateRead_uncorrected hsound ha hpass haw
  obtain ⟨z, l, w, hexec, hstage⟩ := exec_shardUpdateDone_none himg hrun hfault hab hsweep (dup := d) (x := .uncorrected j) (blk := 0) (.inl hst) htodo
    (u := { s with fab := f, mem := s.mem.setPoison a true, memr := m, flt := s.flt.detect q }) (stop := [k])
    (by rw [Image.updFast_single, hfast, if_neg Bool.false_ne_true, s.updQueued_of_fast hfast, hread, updDiffer_of_ne hd]; rfl)
    (by rw [Image.updFast_single, hfast, if_neg Bool.false_ne_true, s.updQueued_of_fast hfast, hread, updDiffer_of_ne hd]; rfl)
    (fun p hp => by rw [List.mem_singleton.mp hp]; simp)
  exact ⟨_, q, hexec, rfl, rfl, hstage.trans (if_pos (s.gx.isSilent_silence_of_mem (List.mem_singleton.mpr rfl) hshard)), rfl, hcls, hsev⟩

/-- A block on which the engines differ stops (R523). -/
theorem exec_update_differs (hsound : im.updPoison s.mem false k = false) (haw : s.ctl.state.awake = true) :
    ∃ t q, exec (.shardUpdateDone b i 0 .differ .clean) s = .next t ∧ t.mem = s.mem ∧ t.upd.gen = s.upd.gen ∧
      (t.gx.getSet s.tmr.step.toNat { bucket := b, shard := i, asPod := false }).stage = .gone ∧
      t.flt.reports = Report.enter q s.flt.reports ∧ q.cls = .update ∧ q.sev = .contained := by
  have htodo := State.updTodo_single hb hst hun
  obtain ⟨x, hread⟩ := State.updateRead_single (s := s) (im := im) (k := k)
    (gu := (s.applied im (s.gx.getSet s.tmr.step.toNat { bucket := b, shard := i, asPod := false })).take (im.blockElems k)) hsound
  obtain ⟨q, hq, hcls, hsev, -⟩ : ∃ q, ({ s with memr := x } : State).updateFault im k = { s with memr := x, flt := s.flt.detect q } ∧
      q.cls = .update ∧ q.sev = .contained ∧ _ ∧ _ ∧ _ ∧ q.detail = k := State.report_tells _ haw
  obtain ⟨z, l, w, hexec, hstage⟩ := exec_shardUpdateDone_none himg hrun hfault hab hsweep (dup := .differ) (x := .clean) (blk := 0) (.inl hst) htodo
    (u := { s with memr := x, flt := s.flt.detect q }) (stop := [k]) (by rw [hread]; exact hq) (by rw [hread]; rfl) (fun p hp => by rw [List.mem_singleton.mp hp]; simp)
  exact ⟨_, q, hexec, rfl, rfl, hstage.trans (if_pos (s.gx.isSilent_silence_of_mem (List.mem_singleton.mpr rfl) hshard)), rfl, hcls, hsev⟩

end
end
end

/-- Of two blocks the poisoned one stops and the other is updated, and makes no generation (R299, log entry 60). -/
theorem exec_update_pair {s : State} {im : Image} (himg : s.img = some im) (hrun : s.adm.running = true) (hfault : s.ctl.state ≠ .fault)
    (hab : s.flt.abandoning = false) (hsweep : s.upd.sweep = none) {b i k l : Nat} (hb : im.shardBlocks s.gx.group.n b i = [k, l]) (hkl : k ≠ l)
    (hshard : im.shardOf s.gx.group.n k = some (b, i)) (hk : s.gx.unseeded.contains k = false) (hl : s.gx.unseeded.contains l = false)
    (hst : (s.gx.getSet s.tmr.step.toNat { bucket := b, shard := i, asPod := false }).stage = .updating) (hu : im.upd.k = 0)
    (hpk : im.updPoison s.mem false k = true) (hpl : im.updPoison s.mem false l = false) :
    ∃ t, exec (.shardUpdateDone b i 0 .agree .clean) s = .next t ∧
      t.mem = (im.updateBlock s.mem l ((s.upd.gen.at l).cur + 1) s.tmr.step.toNat s.adm.lrScale
        (((s.applied im (s.gx.getSet s.tmr.step.toNat { bucket := b, shard := i, asPod := false })).drop (im.blockElems k)).take (im.blockElems l))).1 ∧
      t.upd.gen = s.upd.gen ∧ (t.gx.getSet s.tmr.step.toNat { bucket := b, shard := i, asPod := false }).stage = .gone := by
  have htodo := State.updTodo_pair hb hst hk hl
  have hfast : ∀ g, (im.isSlow g && decide (0 < im.upd.k)) = false := fun g => by rw [hu]; exact Bool.and_false _
  have hall : ∀ gk gl, im.updFast [(k, gk), (l, gl)] = [k, l] := fun gk gl => by
    unfold Image.updFast
    exact List.filter_eq_self.mpr fun g _ => by rw [hfast]; rfl
  have hq : ∀ gk gl, s.updQueued im [(k, gk), (l, gl)] = [] := fun gk gl => by
    unfold State.updQueued
    exact List.filter_eq_nil_iff.mpr fun g _ => by rw [hfast]; exact Bool.false_ne_true
  have hbad : ([k, l].filter fun g => im.updPoison s.mem false g) = [k] :=
    (List.filter_cons_of_pos hpk).trans (congrArg (List.cons k) (List.filter_cons_of_neg (by rw [hpl]; exact Bool.false_ne_true)))
  obtain ⟨x, hread⟩ := State.updateRead_of_poisoned hbad
  obtain ⟨f, hrep⟩ : ∃ f, ({ s with memr := x } : State).updateFault im k = { s with memr := x, flt := f } := ⟨_, State.report_eq _ _⟩
  obtain ⟨z, lk, w, hend, hstage⟩ := ({ s with memr := x, flt := f } : State).updEnds_spec (im := im) (b := b) (i := i)
    (todo := s.updTodo im b i (s.gx.getSet s.tmr.step.toNat { bucket := b, shard := i, asPod := false })) (fast := [k, l]) (stop := [k])
    (s.gx.getSet_step s.tmr.step.toNat { bucket := b, shard := i, asPod := false }) (s.gx.getSet_key ..)
  have hsilent : (s.gx.silence im [k]).isSilent im b i = true := s.gx.isSilent_silence_of_mem (List.mem_singleton.mpr rfl) hshard
  obtain ⟨c, hc⟩ := ({ s with memr := x, flt := f, gx := s.gx.silence im [k] } : State).applyTo_fast im s.tmr.step.toNat (k := l)
    (gu := ((s.applied im (s.gx.getSet s.tmr.step.toNat { bucket := b, shard := i, asPod := false })).drop (im.blockElems k)).take (im.blockElems l)) (hfast l) true
  have happly : ({ s with memr := x, flt := f } : State).updApply im b i s.tmr.step.toNat
      (s.updTodo im b i (s.gx.getSet s.tmr.step.toNat { bucket := b, shard := i, asPod := false })) [k] =
      ({ s with memr := x, flt := f, gx := s.gx.silence im [k] } : State).applyTo im true s.tmr.step.toNat
        (l, ((s.applied im (s.gx.getSet s.tmr.step.toNat { bucket := b, shard := i, asPod := false })).drop (im.blockElems k)).take (im.blockElems l)) := by
    unfold State.updApply
    rw [htodo, List.filter_cons_of_neg (by simp), List.filter_cons_of_pos (by simpa using hkl.symm)]
    dsimp only
    rw [hsilent]
    rfl
  rw [happly, hc] at hend
  rw [exec_shardUpdateDone_eq himg hrun hfault hab hsweep b i 0 .agree .clean (.inl hst)]
  dsimp only
  rw [htodo, hall, hq, hread, ← htodo]
  exact ⟨_, congrArg Host.Outcome.next ((congrArg (fun u : State => u.updEnds im b i _ _ _ _ _) hrep).trans hend), rfl, rfl, hstage.trans (if_pos hsilent)⟩

end Sys2Proof.Machine
end

section
/-! SUPPORT. O53: returns at a member, their deadline, and the obligation (R297, R299, R339, R346, R355, R358, R359, R455). -/

namespace Sys2Proof.Machine

/-! Returns -/

/-- Whether a return is the one of a step and shard. -/
def Ret.isAt (step b i : Nat) (r : Ret) : Bool := r.step == step && r.bucket == b && r.shard == i

theorem Ret.isAt_iff {step b i : Nat} {r : Ret} : r.isAt step b i = true ↔ r.step = step ∧ r.bucket = b ∧ r.shard = i := by
  unfold Ret.isAt
  rw [Bool.and_eq_true, Bool.and_eq_true, beq_iff_eq, beq_iff_eq, beq_iff_eq, and_assoc]

section
variable (x : Gx) (step b i : Nat)

theorem Gx.getRet_isAt : (x.getRet step b i).isAt step b i = true := by
  unfold Gx.getRet
  cases h : x.ret? step b i with
  | none => exact Ret.isAt_iff.mpr ⟨rfl, rfl, rfl⟩
  | some r => exact List.find?_some h

variable {step b i}

theorem Gx.getRet_of_find? {l : List Ret} {o : Option Ret} (h : l.find? (Ret.isAt step b i) = o) :
    Gx.getRet { x with rets := l } step b i = o.getD { step := step, bucket := b, shard := i } := congrArg (fun o : Option Ret => o.getD _) h

/-- A return that is put away is found again. -/
theorem Gx.getRet_putRet_self {r : Ret} (hr : r.isAt step b i = true) : (x.putRet r).getRet step b i = r := by
  obtain ⟨rfl, rfl, rfl⟩ := Ret.isAt_iff.mp hr
  unfold Gx.putRet
  split
  · next h => exact x.getRet_of_find? (find?_replace_self hr x.rets h)
  · next h => exact x.getRet_of_find? (find?_append_self hr h)

/-- The others stay as they are. -/
theorem Gx.getRet_putRet_of_ne {r : Ret} (h : ¬ r.isAt step b i = true) : (x.putRet r).getRet step b i = x.getRet step b i := by
  have hne : ∀ w : Ret, w.isAt r.step r.bucket r.shard = true → ¬ w.isAt step b i = true := by
    intro w hw hk
    obtain ⟨h1, h2, h3⟩ := Ret.isAt_iff.mp hw
    obtain ⟨h1', h2', h3'⟩ := Ret.isAt_iff.mp hk
    exact h (Ret.isAt_iff.mpr ⟨h1.symm.trans h1', h2.symm.trans h2', h3.symm.trans h3'⟩)
  unfold Gx.putRet
  split
  · exact x.getRet_of_find? (find?_replace_of_ne h hne x.rets)
  · exact x.getRet_of_find? (find?_append_of_ne h x.rets)

/-- Returns alone change. -/
theorem Gx.putRet_frame (r : Ret) : x.putRet r = { x with rets := (x.putRet r).rets } := by
  unfold Gx.putRet
  split <;> rfl

end

/-- A return is put away, and the generations of complete ones are made. -/
theorem State.putReturn_spec (s : State) (im : Image) {r : Ret} {step b i : Nat} (hr : r.isAt step b i = true) : ∃ l u,
    s.putReturn im r = { s with gx := { s.gx with rets := l }, upd := u } ∧ Gx.getRet { s.gx with rets := l } step b i = { r with complete := im.retFull r } := by
  have hself := s.gx.getRet_putRet_self (r := { r with complete := im.retFull r }) hr
  rw [Gx.putRet_frame] at hself
  unfold State.putReturn State.settleReturns
  dsimp only
  rw [Gx.putRet_frame]
  exact ⟨_, _, rfl, hself⟩

section
variable {s : State} {im : Image} (himg : s.img = some im) {i : Nat} {m : XMsg} (htag : s.gx.tagOk im s.tmr.step.toNat m = true)
  (hrem : m.remote = true → s.gx.solo = false) (hown : ((s.gx.groupFor s.tmr.step.toNat m.step).owner m.bucket m.shard).id = m.member)
  (hdone : (s.gx.getRet m.step m.bucket m.shard).complete = false) (hstale : (s.gx.getRet m.step m.bucket m.shard).stale = false)
include himg htag hrem hown hdone hstale

/-- A RETURN in order lands in its copy slot, or in the staging region. -/
theorem exec_returnMsg (hm : s.gx.mail i xReturn = some m) (hblock : (im.shardBlocks (s.gx.groupFor s.tmr.step.toNat m.step).n m.bucket m.shard).contains m.a = true)
    (hdata : m.data ≠ []) (hpanel : m.b + m.data.length ≤ (im.block m.a).t.panel)
    (hnew : (((s.gx.getRet m.step m.bucket m.shard).got.at m.a).any (rangesMeet (m.b, m.b + m.data.length))) = false)
    (hgen : (s.gx.getRet m.step m.bucket m.shard).got.at m.a = [] ∨ (s.gx.getRet m.step m.bucket m.shard).gens.at m.a = m.c) :
    let r := s.gx.getRet m.step m.bucket m.shard
    let now := m.step = s.tmr.step.toNat ∧ s.upd.writable m.a m.c = true
    ∃ t, exec (.returnMsg i .clean) s = .next t ∧
      ((t.gx.getRet m.step m.bucket m.shard).got.at m.a) = r.got.at m.a ++ [(m.b, m.b + m.data.length)] ∧
      (now → t.mem = im.regWrite s.mem (im.block m.a).t.copy ((im.block m.a).copyOff m.c + m.b) m.data ∧ t.gx.staged = s.gx.staged) ∧
      (¬ now → t.mem = im.regWrite s.mem im.bkt.stageRegion (im.stageOff m.a + m.b) m.data ∧
        t.gx.staged = s.gx.staged ++ [{ step := m.step, block := m.a, gen := m.c, off := m.b, len := m.data.length }]) := by
  intro r now
  have hexec : exec (.returnMsg i .clean) s = .next (
      let r' := { r with got := r.got.put m.a (r.got.at m.a ++ [(m.b, m.b + m.data.length)]), gens := r.gens.put m.a m.c }
      let n := decide (m.step = s.tmr.step.toNat) && s.upd.writable m.a m.c
      let at' := if n then im.regPlaces (im.block m.a).t.copy ((im.block m.a).copyOff m.c + m.b) m.data.length
        else im.regPlaces im.bkt.stageRegion (im.stageOff m.a + m.b) m.data.length
      let u := (s.drop i).mergeRead im (at'.zip m.data) .clean
      (if n then { u with mem := im.regWrite u.mem (im.block m.a).t.copy ((im.block m.a).copyOff m.c + m.b) m.data }
        else u.stagePanel im m.step m.a m.c m.b m.data).putReturn im r') := by
    refine congrArg Host.Outcome.next ((State.onMail_taken hm himg hrem _).trans (if_neg fun h => ?_))
    simp only [Bool.or_eq_true, Bool.and_eq_true, Bool.not_eq_true', decide_eq_true_eq] at h
    rcases h with (((((((h | h) | h) | h) | h) | h) | h) | h) | ⟨h, hc⟩
    · exact Bool.false_ne_true (h.symm.trans htag)
    · exact h hown
    · exact Bool.false_ne_true (h.symm.trans hblock)
    · exact hdata (List.isEmpty_iff.mp h)
    · exact Nat.not_le.mpr h hpanel
    · exact Bool.false_ne_true (hnew.symm.trans h)
    · exact Bool.false_ne_true (hdone.symm.trans h)
    · exact Bool.false_ne_true (hstale.symm.trans h)
    · rcases hgen with hg | hg
      · exact Bool.false_ne_true (h.symm.trans (List.isEmpty_iff.mpr hg))
      · exact hc hg
  dsimp only at hexec
  rw [State.mergeRead_clean, State.readMarked_eq] at hexec
  have hat : Ret.isAt m.step m.bucket m.shard { r with got := r.got.put m.a (r.got.at m.a ++ [(m.b, m.b + m.data.length)]), gens := r.gens.put m.a m.c } = true :=
    s.gx.getRet_isAt ..
  have hgot : (r.got.put m.a (r.got.at m.a ++ [(m.b, m.b + m.data.length)])).at m.a = r.got.at m.a ++ [(m.b, m.b + m.data.length)] := Sparse.at_put_self ..
  by_cases hnow : now
  · have hn : (decide (m.step = s.tmr.step.toNat) && s.upd.writable m.a m.c) = true := by rw [Bool.and_eq_true, decide_eq_true_eq]; exact hnow
    rw [if_pos hn] at hexec
    obtain ⟨l, u, hput, hret⟩ := State.putReturn_spec _ im hat
    rw [hput] at hexec
    exact ⟨_, hexec, (congrArg (fun r : Ret => r.got.at m.a) hret).trans hgot, fun _ => ⟨rfl, rfl⟩, fun h => absurd hnow h⟩
  · have hn : ¬ (decide (m.step = s.tmr.step.toNat) && s.upd.writable m.a m.c) = true := by rw [Bool.and_eq_true, decide_eq_true_eq]; exact hnow
    rw [if_neg hn] at hexec
    obtain ⟨l, u, hput, hret⟩ := State.putReturn_spec _ im hat
    rw [hput] at hexec
    exact ⟨_, hexec, (congrArg (fun r : Ret => r.got.at m.a) hret).trans hgot, fun h => absurd h hnow, fun _ => ⟨rfl, rfl⟩⟩

/-- RETURN_END tells what the return counts (R358). -/
theorem exec_returnEnd (hm : s.gx.mail i xReturnEnd = some m) (hfin : (s.gx.getRet m.step m.bucket m.shard).fin = none) :
    let r := s.gx.getRet m.step m.bucket m.shard
    ∃ t, exec (.returnEnd i) s = .next t ∧
      t.gx.getRet m.step m.bucket m.shard = { r with fin := some (m.a, m.data), complete := im.retFull { r with fin := some (m.a, m.data) } } ∧ t.mem = s.mem := by
  intro r
  have hexec : exec (.returnEnd i) s = .next ((s.drop i).putReturn im { r with fin := some (m.a, m.data) }) := by
    refine congrArg Host.Outcome.next ((State.onMail_taken hm himg hrem _).trans (if_neg fun h => ?_))
    simp only [Bool.or_eq_true, Bool.not_eq_true', decide_eq_true_eq] at h
    rcases h with (((h | h) | h) | h) | h
    · exact Bool.false_ne_true (h.symm.trans htag)
    · exact h hown
    · exact Bool.false_ne_true ((congrArg Option.isSome hfin).symm.trans h)
    · exact Bool.false_ne_true (hdone.symm.trans h)
    · exact Bool.false_ne_true (hstale.symm.trans h)
  have hat : Ret.isAt m.step m.bucket m.shard { r with fin := some (m.a, m.data) } = true := s.gx.getRet_isAt ..
  obtain ⟨l, u, hput, hret⟩ := (s.drop i).putReturn_spec im hat
  rw [hput] at hexec
  exact ⟨_, hexec, hret, rfl⟩

end

/-! The return's deadline -/

theorem State.setGx_frame (s : State) (x : Gx) : s.setGx x = { s with gx := x, hif := (s.setGx x).hif } := by
  obtain ⟨h, hh⟩ := s.setGx_eq x
  rw [hh]

/-- What the deadlines of returns change. -/
def State.Overdue (s t : State) : Prop := ∃ x h w, t = { s with gx := x, hif := h, upd := { s.upd with step := w } }

theorem State.Overdue.refl (s : State) : s.Overdue s := ⟨_, _, _, rfl⟩

/-- What a return that is not here by its deadline leaves of the shards (R359): the second half of `State.staleShard`. -/
def State.loseReturn (s : State) (im : Image) (b i : Nat) : State :=
  let step := s.tmr.step.toNat
  let r := s.gx.getRet step b i
  if r.complete || r.stale then s else
  let blocks := im.shardBlocks s.gx.group.n b i
  let x := s.gx.putRet { r with stale := true }
  s.setGx { x with staged := x.staged.filter fun p => !(p.step == step && blocks.contains p.block), staleFlag := true, staleCnt := satAdd x.staleCnt 1
                   stale := if x.stale.contains (b, i) then x.stale else x.stale ++ [(b, i)] }

/-- Before that, an owned shard that waited for the norm is given up (R355). -/
theorem State.staleShard_eq (s : State) (im : Image) (b i : Nat) : ∃ z w,
    s.staleShard im b i = ({ s with gx := { s.gx with sets := z }, upd := { s.upd with step := w } } : State).loseReturn im b i := by
  obtain ⟨z, w, hnote⟩ : ∃ z w, (if (s.gx.group.owner b i).id = s.gx.me && !([Stage.updating, .done, .gone].contains
      (s.gx.getSet s.tmr.step.toNat { bucket := b, shard := i, asPod := false }).stage) && im.needsNorm && s.gx.norm.isNone then
      ({ s with gx := s.gx.setStage s.tmr.step.toNat b i .gone } : State).noteStep im else s) = { s with gx := { s.gx with sets := z }, upd := { s.upd with step := w } } := by
    split
    · obtain ⟨w, hw⟩ := ({ s with gx := s.gx.setStage s.tmr.step.toNat b i .gone } : State).noteStep_eq im
      rw [hw]
      unfold Gx.setStage
      rw [Gx.putSet_frame]
      exact ⟨_, w, rfl⟩
    · exact ⟨s.gx.sets, s.upd.step, rfl⟩
  unfold State.staleShard
  dsimp only
  rw [hnote]
  exact ⟨z, w, rfl⟩

/-- The state a shard's return is in against an earlier one: as it was, or found stale since. -/
def State.Late (s : State) (b i : Nat) (t : State) : Prop :=
  t.gx.getRet s.tmr.step.toNat b i = s.gx.getRet s.tmr.step.toNat b i ∨
    ((t.gx.getRet s.tmr.step.toNat b i).stale = true ∧ (b, i) ∈ t.gx.stale)

/-- A return that is not complete is lost, and no other changes. -/
theorem State.loseReturn_spec (s : State) (im : Image) (b i : Nat) : s.Overdue (s.loseReturn im b i) ∧
    (∀ k ∈ s.gx.stale, k ∈ (s.loseReturn im b i).gx.stale) ∧
    (∀ c j, (c, j) ≠ (b, i) → (s.loseReturn im b i).gx.getRet s.tmr.step.toNat c j = s.gx.getRet s.tmr.step.toNat c j) ∧
    s.Late b i (s.loseReturn im b i) ∧
    ((s.gx.getRet s.tmr.step.toNat b i).complete = false → ((s.loseReturn im b i).gx.getRet s.tmr.step.toNat b i).stale = true) := by
  have hself : Ret.isAt s.tmr.step.toNat b i { s.gx.getRet s.tmr.step.toNat b i with stale := true } = true := s.gx.getRet_isAt ..
  unfold State.Late State.loseReturn
  dsimp only
  split
  · next h =>
    refine ⟨.refl s, fun k hk => hk, fun _ _ _ => rfl, .inl rfl, fun hc => ?_⟩
    rw [hc, Bool.false_or] at h
    exact h
  · rw [State.setGx_frame, Gx.putRet_frame]
    have hfound := s.gx.getRet_putRet_self hself
    rw [Gx.putRet_frame] at hfound
    have hstale := congrArg Ret.stale hfound
    refine ⟨⟨_, _, s.upd.step, rfl⟩, fun k hk => ?_, fun c j hne => ?_, .inr ⟨hstale, ?_⟩, fun _ => hstale⟩
    · dsimp only
      split
      · exact hk
      · exact List.mem_append_left _ hk
    · have hother := s.gx.getRet_putRet_of_ne (step := s.tmr.step.toNat) (b := c) (i := j) (r := { s.gx.getRet s.tmr.step.toNat b i with stale := true }) fun h =>
        hne (Prod.ext ((Ret.isAt_iff.mp h).2.1.symm.trans (Ret.isAt_iff.mp hself).2.1) ((Ret.isAt_iff.mp h).2.2.symm.trans (Ret.isAt_iff.mp hself).2.2))
      rw [Gx.putRet_frame] at hother
      exact hother
    · dsimp only
      split
      · next h => exact List.contains_iff_mem.mp h
      · exact List.mem_append_right _ (List.mem_singleton.mpr rfl)

theorem State.staleShard_spec (s : State) (im : Image) (b i : Nat) : s.Overdue (s.staleShard im b i) ∧
    (∀ k ∈ s.gx.stale, k ∈ (s.staleShard im b i).gx.stale) ∧
    (∀ c j, (c, j) ≠ (b, i) → (s.staleShard im b i).gx.getRet s.tmr.step.toNat c j = s.gx.getRet s.tmr.step.toNat c j) ∧
    s.Late b i (s.staleShard im b i) ∧
    ((s.gx.getRet s.tmr.step.toNat b i).complete = false → ((s.staleShard im b i).gx.getRet s.tmr.step.toNat b i).stale = true) := by
  obtain ⟨z, w, h⟩ := s.staleShard_eq im b i
  obtain ⟨⟨x, hf, w', hover⟩, hkeep, hother, hlate, hlost⟩ := ({ s with gx := { s.gx with sets := z }, upd := { s.upd with step := w } } : State).loseReturn_spec im b i
  rw [h]
  exact ⟨⟨x, hf, w', hover⟩, hkeep, hother, hlate, hlost⟩

/-- A bucket's shards at their deadline: each return is as it was or lost, and of the shards listed all that are not complete are. -/
theorem State.staleShards_spec (im : Image) (l : List (Nat × Nat)) (s : State) :
    let t := l.foldl (fun (s : State) x => s.staleShard im x.1 x.2) s
    s.Overdue t ∧ ∀ b i, s.Late b i t ∧ ((b, i) ∈ l → (s.gx.getRet s.tmr.step.toNat b i).complete = false → (t.gx.getRet s.tmr.step.toNat b i).stale = true) := by
  induction l using List.reverseRecOn with
  | nil => exact ⟨.refl s, fun b i => ⟨.inl rfl, fun h => absurd h List.not_mem_nil⟩⟩
  | append_singleton l a ih =>
    rw [List.foldl_append]
    obtain ⟨⟨x, h, w, ht⟩, ih⟩ := ih
    generalize l.foldl (fun (s : State) x => s.staleShard im x.1 x.2) s = t at ht ih ⊢
    obtain ⟨hover, hkeep, hother, hlate, hlost⟩ := t.staleShard_spec im a.1 a.2
    have hstep : t.tmr = s.tmr := by rw [ht]
    unfold State.Late at hlate
    rw [hstep] at hother hlate hlost
    refine ⟨?_, fun b i => ?_⟩
    · obtain ⟨x', h', w', ht'⟩ := hover
      exact ⟨x', h', w', ht'.trans (by rw [ht])⟩
    · obtain ⟨hwas, hdone⟩ := ih b i
      by_cases hba : (b, i) = a
      · subst hba
        refine ⟨?_, fun _ hc => ?_⟩
        · rcases hlate with heq | hnow
          · rcases hwas with hwas | ⟨hst, hin⟩
            · exact .inl (heq.trans hwas)
            · exact .inr ⟨(congrArg Ret.stale heq).trans hst, hkeep _ hin⟩
          · exact .inr hnow
        · rcases hwas with hwas | ⟨hst, -⟩
          · exact hlost ((congrArg Ret.complete hwas).trans hc)
          · exact hlate.elim (fun heq => (congrArg Ret.stale heq).trans hst) (·.1)
      · refine ⟨?_, fun hin hc => ?_⟩
        · exact hwas.imp (hother b i hba).trans fun ⟨hst, hin⟩ => ⟨(congrArg Ret.stale (hother b i hba)).trans hst, hkeep _ hin⟩
        · exact (congrArg Ret.stale (hother b i hba)).trans (hdone ((List.mem_append.mp hin).resolve_right fun h => hba (List.mem_singleton.mp h)) hc)

theorem exec_returnDeadlinePass_eq {s : State} {im : Image} (himg : s.img = some im) (b : Nat) : exec (.returnDeadlinePass b) s =
    .next (if s.adm.running && passedBy (s.gx.returnDeadline im b) s.now then
      ((im.shards s.gx.group.n).filter fun x => x.1 == b).foldl (fun s x => s.staleShard im x.1 x.2) s else s) := by
  show execReturnDeadlinePass b s = _
  unfold execReturnDeadlinePass
  split
  · next im' h => obtain rfl := Option.some.inj (himg.symm.trans h); rfl
  · next h => rw [himg] at h; contradiction

/-- Settles O53. -/
theorem updatesAndReturns : Obligations.UpdatesAndReturns := by
  unfold Obligations.UpdatesAndReturns
  intro s im himg
  have hslow : ∀ k, (im.isSlow k && decide (0 < im.upd.k)) = true ↔ im.isSlow k = true ∧ 0 < im.upd.k := fun k => by
    rw [Bool.and_eq_true, decide_eq_true_eq]
  have hfast : ∀ k, ¬ (im.isSlow k = true ∧ 0 < im.upd.k) → (im.isSlow k && decide (0 < im.upd.k)) = false := fun k h =>
    Bool.eq_false_iff.mpr fun hc => h ((hslow k).mp hc)
  have hagree : ∀ d : Dup, d = .agree ∨ d = .masked → d ≠ .differ := fun d h hd => by rcases h with rfl | rfl <;> exact nomatch hd
  refine ⟨fun b i k hrun hfault hab hsweep hb => ?_, fun b i k l hrun hfault hab hsweep hb hkl hshard hk hl => ?_, fun i m htag hrem hown => ?_, fun b hrun => ⟨fun hpass => ?_, fun hpass => ?_⟩⟩
  · intro key y gu gen slow hshard hs
    refine ⟨fun hun d x hdue => exec_update_unseeded himg hrun hfault hab hsweep hb hun d x hdue, fun hun => ⟨fun hst d hd => ⟨fun h hsound => ?_, fun h hpoison haw => ?_,
      fun j a h hsound ha hpass haw => ?_, fun h => ?_⟩, fun hst hsound haw => ?_, fun hst hn => ?_⟩⟩
    · exact exec_update_fast himg hrun hfault hab hsweep hb hs hun hst (hfast k h) hsound (hagree d hd)
    · exact exec_update_poisoned himg hrun hfault hab hsweep hb hshard hun hst (hfast k h) hpoison haw (hagree d hd)
    · exact exec_update_uncorrected himg hrun hfault hab hsweep hb hshard hun hst (hfast k h) hsound ha hpass haw (hagree d hd)
    · exact exec_update_slow himg hrun hfault hab hsweep hb hs hun hst ((hslow k).mpr h) (hagree d hd)
    · exact exec_update_differs himg hrun hfault hab hsweep hb hshard hun hst hsound haw
    · exact exec_update_nothing himg hrun hfault hab hsweep hb hun hs hst hn
  · intro key y gu hst hu hpk hpl
    exact exec_update_pair himg hrun hfault hab hsweep hb hkl hshard hk hl hst hu hpk hpl
  · intro r hdone hstale
    exact ⟨exec_returnMsg himg htag hrem hown hdone hstale, exec_returnEnd himg htag hrem hown hdone hstale⟩
  · obtain ⟨⟨x, h, w, hover⟩, hrets⟩ := State.staleShards_spec im ((im.shards s.gx.group.n).filter fun x => x.1 == b) s
    rw [exec_returnDeadlinePass_eq himg, hrun, hpass]
    refine ⟨((im.shards s.gx.group.n).filter fun x => x.1 == b).foldl (fun s x => s.staleShard im x.1 x.2) s, rfl, fun y hy hyb hc => ?_, by rw [hover]⟩
    obtain ⟨hlate, hlost⟩ := hrets b y.2
    have hst := hlost (List.mem_filter.mpr ⟨hyb ▸ hy, beq_self_eq_true b⟩) hc
    refine ⟨hst, fun hwas => hlate.elim (fun heq => ?_) (·.2)⟩
    exact absurd ((hwas.symm.trans (congrArg Ret.stale heq).symm).trans hst) Bool.false_ne_true
  · rw [exec_returnDeadlinePass_eq himg, hpass, Bool.and_false]
    rfl

end Sys2Proof.Machine
end

section
/-! SUPPORT. O54: comparison rounds and refetches (R303, R349, R360 to R362). -/

namespace Sys2Proof.Machine

/-! A round -/

theorem State.diverge_spec (s : State) (k : Nat × Nat) : ∃ h f, s.diverge k = { s with gx := { s.gx with diverged := true }, hif := h, flt := f } := by
  unfold State.diverge
  rw [State.report_eq, State.setGx_frame]
  exact ⟨_, _, rfl⟩

/-- A round that is over. -/
theorem State.endRound_spec (s : State) (m : Nat) : ∃ d h f, s.endRound m = { s with
    gx := { s.gx with diverged := d, round := none, rounded := true, history := lastN 15 (s.gx.history ++ [decide (1 ≤ m)]) }, hif := h, flt := f } := by
  unfold State.endRound
  dsimp only
  split
  · obtain ⟨h, f, hd⟩ := s.diverge_spec (s.gx.lastBucket.toNat, s.gx.lastShard.toNat)
    rw [hd]
    exact ⟨_, _, _, rfl⟩
  · exact ⟨_, _, _, rfl⟩

/-- One without a mismatch tells nothing. -/
theorem State.endRound_zero (s : State) : s.endRound 0 = { s with gx := { s.gx with round := none, rounded := true, history := lastN 15 (s.gx.history ++ [false]) } } := rfl

/-- Whether a shard has no reference, is stale, or has its reference digest (R359, R361). -/
def State.agrees (s : State) (im : Image) (k : Nat × Nat) : Prop :=
  s.gx.ref? k = none ∨ s.gx.stale.contains k = true ∨ ∀ r, s.gx.ref? k = some r → s.sameDigest im k r = true

/-- A round in which every shard agrees ends. -/
theorem State.compareFrom_agrees (im : Image) (m : Nat) (l : List (Nat × Nat)) (s : State) (h : ∀ k ∈ l, s.agrees im k) :
    ∃ x, State.compareFrom im l m .clean s = ({ s with memr := x } : State).endRound m := by
  induction l generalizing s with
  | nil => exact ⟨s.memr, rfl⟩
  | cons k l ih =>
    have hrest := ih s fun j hj => h j (List.mem_cons_of_mem _ hj)
    unfold State.compareFrom
    split
    · exact hrest
    · next r hr =>
      split
      · exact hrest
      · next hst =>
        have hsame : s.sameDigest im k r = true := by
          rcases h k (List.mem_cons_self ..) with hn | hs | hd
          · rw [hn] at hr; contradiction
          · exact absurd hs hst
          · exact hd r hr
        obtain ⟨x, hx⟩ := s.engineRead_of_clean im (s.shardPlaces im k)
        obtain ⟨x', h'⟩ := ih { s with memr := x } fun j hj => h j (List.mem_cons_of_mem _ hj)
        dsimp only
        rw [hx]
        exact ⟨x', (if_pos hsame).trans h'⟩

/-- The copies of a shard made from its master weights. -/
def State.rebuild (s : State) (im : Image) (k : Nat × Nat) : State :=
  (im.shardBlocks s.gx.group.n k.1 k.2).foldl (fun s g =>
    let b := im.rebuildCopy s.mem g (s.upd.gen.at g).cur
    ({ s with mem := b.1 }).countUnbound b.2) s

theorem State.rebuild_spec (s : State) (im : Image) (k : Nat × Nat) : ∃ c, s.rebuild im k = { s with
    mem := (im.shardBlocks s.gx.group.n k.1 k.2).foldl (fun m g => (im.rebuildCopy m g (s.upd.gen.at g).cur).1) s.mem, sites := c } := by
  have hfold : ∀ (l : List Nat) (m : Mem) (c : Sites), ∃ c', l.foldl (fun (s : State) g =>
      let b := im.rebuildCopy s.mem g (s.upd.gen.at g).cur
      ({ s with mem := b.1 }).countUnbound b.2) { s with mem := m, sites := c } =
      { s with mem := l.foldl (fun m g => (im.rebuildCopy m g (s.upd.gen.at g).cur).1) m, sites := c' } := by
    intro l
    induction l with
    | nil => exact fun m c => ⟨c, rfl⟩
    | cons g l ih =>
      intro m c
      obtain ⟨c', hc⟩ := State.countUnbound_eq { s with mem := (im.rebuildCopy m g (s.upd.gen.at g).cur).1, sites := c } (im.rebuildCopy m g (s.upd.gen.at g).cur).2
      rw [List.foldl_cons, List.foldl_cons]
      exact hc ▸ ih _ c'
  exact hfold _ s.mem s.sites

section
variable {s : State} {im : Image} {k : Nat × Nat} (h : ¬ s.agrees im k)
include h

/-- What a mismatch notes (R361). -/
def Gx.mismatched (x : Gx) (k : Nat × Nat) : Gx := { x with mismatch := true, lastBucket := BitVec.ofNat 12 k.1, lastShard := BitVec.ofNat 12 k.2 }

/-- A shard that differs: noted, then rebuilt by its owner, or fetched. -/
theorem State.compareFrom_differs (rest : List (Nat × Nat)) (m : Nat) : ∃ (x : MemRegs) (hf : Hif) (r : RefDigest), let u := { s with memr := x, gx := s.gx.mismatched k, hif := hf }
    State.compareFrom im (k :: rest) m .clean s =
      if (s.gx.group.owner k.1 k.2).id = s.gx.me then
        let v := (u.engineRead im (u.masterPlaces im k) .clean).rebuild im k
        State.compareFrom im rest (m + 1) .clean (if v.sameDigest im k r then v else v.diverge k)
      else { u.sendFetch k with gx := { (u.sendFetch k).gx with
        round := some { todo := rest, mismatches := m + 1, fetch := some { bucket := k.1, shard := k.2, attempt := 1 } } } } := by
  unfold State.agrees at h
  rw [not_or, not_or] at h
  obtain ⟨hsome, hst, hdiff⟩ := h
  obtain ⟨r, hr⟩ := Option.ne_none_iff_exists'.mp hsome
  have hne : ¬ s.sameDigest im k r = true := fun hs => hdiff fun r' hr' => by
    obtain rfl := Option.some.inj (hr.symm.trans hr')
    exact hs
  obtain ⟨x, hx⟩ := s.engineRead_of_clean im (s.shardPlaces im k)
  obtain ⟨hf, hset⟩ := State.setGx_eq { s with memr := x } (s.gx.mismatched k)
  refine ⟨x, hf, r, ?_⟩
  intro u
  rw [State.compareFrom]
  simp only [hr]
  refine (if_neg hst).trans ?_
  rw [hx]
  refine (if_neg hne).trans ?_
  have hnote : State.setGx { s with memr := x } { s.gx with mismatch := true, lastBucket := BitVec.ofNat 12 k.1, lastShard := BitVec.ofNat 12 k.2 } = u := hset
  dsimp only
  rw [hnote]
  rfl

end

end Sys2Proof.Machine
end

section
/-! SUPPORT. O54: the commands of rounds and refetches. -/

namespace Sys2Proof.Machine

/-- A round of one shard that its owner rebuilds. -/
theorem State.compareFrom_rebuilds {s : State} {im : Image} {k : Nat × Nat} (h : ¬ s.agrees im k) (hown : (s.gx.group.owner k.1 k.2).id = s.gx.me) :
    ∃ x hf f c d l, State.compareFrom im [k] 0 .clean s = { s with
      memr := x, hif := hf, flt := f, sites := c, mem := (im.shardBlocks s.gx.group.n k.1 k.2).foldl (fun m g => (im.rebuildCopy m g (s.upd.gen.at g).cur).1) s.mem
      gx := { s.gx.mismatched k with diverged := d, round := none, rounded := true, history := l } } := by
  obtain ⟨x, hf, r, hdiff⟩ := State.compareFrom_differs h [] 0
  rw [hdiff, if_pos hown]
  dsimp only
  obtain ⟨x', hread⟩ := State.engineRead_of_clean { s with memr := x, gx := s.gx.mismatched k, hif := hf } im
    (State.masterPlaces { s with memr := x, gx := s.gx.mismatched k, hif := hf } im k)
  rw [hread]
  obtain ⟨c, hc⟩ := State.rebuild_spec { s with memr := x', gx := s.gx.mismatched k, hif := hf } im k
  rw [hc]
  split
  · obtain ⟨d, h', f, hend⟩ := State.endRound_spec { s with
      memr := x', hif := hf, sites := c, mem := (im.shardBlocks s.gx.group.n k.1 k.2).foldl (fun m g => (im.rebuildCopy m g (s.upd.gen.at g).cur).1) s.mem
      gx := s.gx.mismatched k } 1
    exact ⟨_, _, _, _, _, _, hend⟩
  · obtain ⟨h', f, hdiv⟩ := State.diverge_spec { s with
      memr := x', hif := hf, sites := c, mem := (im.shardBlocks s.gx.group.n k.1 k.2).foldl (fun m g => (im.rebuildCopy m g (s.upd.gen.at g).cur).1) s.mem
      gx := s.gx.mismatched k } k
    obtain ⟨d, h'', f', hend⟩ := State.endRound_spec { s with
      memr := x', hif := h', flt := f, sites := c, mem := (im.shardBlocks s.gx.group.n k.1 k.2).foldl (fun m g => (im.rebuildCopy m g (s.upd.gen.at g).cur).1) s.mem
      gx := { s.gx.mismatched k with diverged := true } } 1
    exact ⟨_, _, _, _, _, _, (congrArg (fun t : State => t.endRound 1) hdiv).trans hend⟩

/-- A round of one shard that another owns. -/
theorem State.compareFrom_fetches {s : State} {im : Image} {k : Nat × Nat} (h : ¬ s.agrees im k) (hown : (s.gx.group.owner k.1 k.2).id ≠ s.gx.me) :
    ∃ x hf l, State.compareFrom im [k] 0 .clean s = { s with
      memr := x, hif := hf, lnk := l
      gx := { s.gx.mismatched k with round := some { todo := [], mismatches := 1, fetch := some { bucket := k.1, shard := k.2, attempt := 1 } } } } := by
  obtain ⟨x, hf, r, hdiff⟩ := State.compareFrom_differs h [] 0
  have hsend : ∀ (u : State) (m : XMsg), u.gx.group = s.gx.group → u.gx.me = s.gx.me → ∃ l, u.sendX (u.gx.group.owner k.1 k.2) m = { u with lnk := l } := by
    intro u m hg hme
    refine ⟨_, if_neg ?_⟩
    rw [hg, hme]
    exact hown
  obtain ⟨l, hl⟩ := hsend { s with memr := x, gx := s.gx.mismatched k, hif := hf }
    (State.xmsg { s with memr := x, gx := s.gx.mismatched k, hif := hf } xFetch k.1 k.2 0 0 0 []) rfl rfl
  rw [hdiff, if_neg hown]
  dsimp only
  unfold State.sendFetch
  rw [hl]
  exact ⟨x, hf, l, rfl⟩

section
variable {s : State} {im : Image} (himg : s.img = some im)
include himg

/-- A round that is due, at its start. -/
def State.roundOpen (s : State) : State :=
  { s with gx := { s.gx with compareNow := false, compareDue := false, round := some { todo := [] } }, tmr := { s.tmr with latchDigest := false } }

theorem exec_compareRound_due (hat : s.atBoundary = true) (hdue : s.roundDue = true) (hnone : s.gx.round = none)
    (hst : s.ctl.state = .loaded ∨ s.ctl.state = .armed ∨ s.ctl.state.running = true) (x : Ecc) :
    exec (.compareRound x) s = .next (State.compareFrom im (im.shards s.gx.group.n) 0 x s.roundOpen) := by
  have hrun : (s.ctl.state == .loaded || s.ctl.state == .armed || s.ctl.state.running) = true := by
    rw [Bool.or_eq_true, Bool.or_eq_true, beq_iff_eq, beq_iff_eq, or_assoc]
    exact hst
  show execCompareRound x s = _
  unfold execCompareRound
  split
  · next h => rw [himg] at h; contradiction
  · next im' h =>
    obtain rfl := Option.some.inj (himg.symm.trans h)
    exact congrArg Host.Outcome.next (if_pos (by rw [hat, hdue, hnone]; exact hrun))

omit himg in
theorem exec_compareRound_idle (h : s.atBoundary = false ∨ s.roundDue = false) (x : Ecc) : exec (.compareRound x) s = .next s := by
  show execCompareRound x s = _
  unfold execCompareRound
  split
  · rfl
  · refine congrArg Host.Outcome.next (if_neg fun hc => ?_)
    simp only [Bool.and_eq_true] at hc
    obtain ⟨⟨⟨hat, hdue⟩, -⟩, -⟩ := hc
    exact h.elim (fun h => Bool.false_ne_true (h.symm.trans hat)) fun h => Bool.false_ne_true (h.symm.trans hdue)

/-! Refetches -/

section
variable {i : Nat} {m : XMsg} (hrem : m.remote = true → s.gx.solo = false)
include hrem

/-- What a FETCH is answered from: the shard's copies, read. -/
def State.fetchRead (s : State) (im : Image) (m : XMsg) (x : Ecc) : State := s.engineRead im (s.shardPlaces im (m.bucket, m.shard)) x

/-- A FETCH is answered by messages alone, and counted. -/
theorem exec_fetch (hm : s.gx.mail i xFetch = some m) (htag : s.gx.tagOk im s.tmr.step.toNat m = true) (hown : (s.gx.group.owner m.bucket m.shard).id = s.gx.me) (x : Ecc) :
    ∃ l ms, exec (.fetch i x) s = .next (let u := (s.drop i).fetchRead im m x
      { u with gx := { u.gx with inbox := u.gx.inbox ++ ms, mFetch := u.gx.mFetch.mod m.member fun c => satAdd c 1 }, lnk := l }) := by
  have hexec : ∃ t, exec (.fetch i x) s = .next t ∧ ∃ l ms, t = (let u := (s.drop i).fetchRead im m x
      { u with gx := { u.gx with inbox := u.gx.inbox ++ ms, mFetch := u.gx.mFetch.mod m.member fun c => satAdd c 1 }, lnk := l }) := by
    refine ⟨_, congrArg Host.Outcome.next ((State.onMail_taken hm himg hrem _).trans (if_neg fun h => ?_)), ?_⟩
    · rw [Bool.or_eq_true, Bool.not_eq_true', decide_eq_true_eq] at h
      exact h.elim (fun h => Bool.false_ne_true (h.symm.trans htag)) (· hown)
    · generalize hu : (s.drop i).engineRead im ((s.drop i).shardPlaces im (m.bucket, m.shard)) x = u
      have hread : (s.drop i).fetchRead im m x = u := hu
      rw [hread]
      dsimp only
      generalize hv : List.foldl _ u _ = v
      have hsent : u.Sends v := hv ▸ foldl_keeps (P := State.Sends u) (fun t k ht =>
        foldl_keeps (P := State.Sends u) (fun t p ht => ht.sendX _ trivial) _ ht) _ (u.posts_refl _)
      obtain ⟨ms, l, -, rfl⟩ := hsent
      generalize hend : State.sendX _ _ _ = t
      have hsent : State.Sends { u with gx := { u.gx with inbox := u.gx.inbox ++ ms, mFetch := u.gx.mFetch.mod m.member fun c => satAdd c 1 }, lnk := l } t :=
        hend ▸ (State.posts_refl _ _).sendX _ trivial
      obtain ⟨ms', l', -, rfl⟩ := hsent
      exact ⟨l', ms ++ ms', by rw [List.append_assoc]⟩
  obtain ⟨t, ht, l, ms, rfl⟩ := hexec
  exact ⟨l, ms, ht⟩

/-- Fetched bytes are kept. -/
theorem exec_fetchData (hm : s.gx.mail i xFetchData = some m) {r : Round} {f : Refetch} (hfetch : s.fetching im m = some (r, f))
    (hblock : (im.shardBlocks s.gx.group.n m.bucket m.shard).contains m.a = true) (hpanel : m.b + m.data.length ≤ (im.block m.a).t.panel)
    (hnew : (f.got.any fun p => p.1 == m.a && rangesMeet (m.b, m.b + m.data.length) (p.2.1, p.2.1 + p.2.2.length)) = false) :
    exec (.fetchData i) s = .next { s with gx := { s.gx with
      inbox := s.gx.inbox.eraseIdx i, round := some { r with fetch := some { f with got := f.got ++ [(m.a, m.b, m.data)] } } } } := by
  have hf : (s.drop i).fetching im m = some (r, f) := hfetch
  refine congrArg Host.Outcome.next ((State.onMail_taken hm himg hrem _).trans ?_)
  dsimp only
  rw [hf]
  refine if_neg fun h => ?_
  rw [Bool.or_eq_true, Bool.or_eq_true, Bool.not_eq_true', decide_eq_true_eq] at h
  rcases h with (h | h) | h
  · exact Bool.false_ne_true (h.symm.trans hblock)
  · exact Nat.not_le.mpr h hpanel
  · exact Bool.false_ne_true (hnew.symm.trans h)

/-- FETCH_END: the panels replace the copy, or the attempt has failed. -/
theorem exec_fetchEnd (hm : s.gx.mail i xFetchEnd = some m) {r : Round} {f : Refetch} (hfetch : s.fetching im m = some (r, f)) (x : Ecc) :
    exec (.fetchEnd i x) s = .next (if (s.gx.ref? (f.bucket, f.shard)).any fun d => d.digest == m.data then
      State.compareFrom im r.todo r.mismatches x { s.drop i with
        mem := f.got.foldl (fun mem p => im.regWrite mem (im.block p.1).t.copy ((im.block p.1).copyOff (s.upd.gen.at p.1).cur + p.2.1) p.2.2) s.mem
        gx := { (s.drop i).gx with refetchCnt := satAdd s.gx.refetchCnt 1 } }
      else (s.drop i).fetchFailed im r f x) := by
  have hf : (s.drop i).fetching im m = some (r, f) := hfetch
  refine congrArg Host.Outcome.next ((State.onMail_taken hm himg hrem _).trans ?_)
  dsimp only
  rw [hf]
  rfl

end

theorem exec_fetchTimeout {r : Round} {f : Refetch} (hr : s.gx.round = some r) (hf : r.fetch = some f) (x : Ecc) :
    exec (.fetchTimeout x) s = .next (s.fetchFailed im r f x) := by
  show execFetchTimeout x s = _
  unfold execFetchTimeout
  split
  · next im' r' h hr' =>
    obtain rfl := Option.some.inj (himg.symm.trans h)
    obtain rfl := Option.some.inj (hr.symm.trans hr')
    rw [hf]
  · next h => exact absurd hr (h im r himg)

end

/-- A first failed attempt is made once more. -/
theorem State.fetchFailed_again (s : State) (im : Image) (r : Round) {f : Refetch} (h : f.attempt < 2) (x : Ecc) : ∃ l ms, s.fetchFailed im r f x =
    { s with lnk := l, gx := { s.gx with inbox := ms, round := some { r with fetch := some { f with attempt := f.attempt + 1, got := [] } } } } := by
  obtain ⟨ms, l, -, hs⟩ : State.Sends s (s.sendFetch (f.bucket, f.shard)) := (s.posts_refl _).sendX _ trivial
  unfold State.fetchFailed
  rw [if_pos h, hs]
  exact ⟨_, _, rfl⟩

/-- A second leaves the shard stale, and the round goes on. -/
theorem State.fetchFailed_stale (s : State) (im : Image) {r : Round} {f : Refetch} (h : 2 ≤ f.attempt) (htodo : r.todo = []) (x : Ecc) : ∃ hf fl d l st,
    s.fetchFailed im r f x = { s with
      hif := hf, flt := fl
      gx := { s.gx with
        staleFlag := true, staleCnt := satAdd s.gx.staleCnt 1, stale := st, diverged := d, round := none, rounded := true, history := l } } ∧
    (f.bucket, f.shard) ∈ st := by
  have hin : (f.bucket, f.shard) ∈ (if s.gx.stale.contains (f.bucket, f.shard) then s.gx.stale else s.gx.stale ++ [(f.bucket, f.shard)]) := by
    split
    · next h => exact List.contains_iff_mem.mp h
    · exact List.mem_append_right _ (List.mem_singleton.mpr rfl)
  unfold State.fetchFailed
  rw [if_neg (Nat.not_lt.mpr h), htodo]
  dsimp only
  rw [State.setGx_frame]
  obtain ⟨d, h', fl, hend⟩ := State.endRound_spec { s with
    gx := { s.gx with staleFlag := true, staleCnt := satAdd s.gx.staleCnt 1
                      stale := if s.gx.stale.contains (f.bucket, f.shard) then s.gx.stale else s.gx.stale ++ [(f.bucket, f.shard)] }
    hif := (s.setGx { s.gx with staleFlag := true, staleCnt := satAdd s.gx.staleCnt 1
                                stale := if s.gx.stale.contains (f.bucket, f.shard) then s.gx.stale else s.gx.stale ++ [(f.bucket, f.shard)] }).hif } r.mismatches
  exact ⟨_, _, _, _, _, hend, hin⟩

end Sys2Proof.Machine
end

section
/-! SUPPORT. O54: state transfers and epochs (R342, R343, R345, R348, R349, R360, R363), and the obligation. -/

namespace Sys2Proof.Machine

/-! State transfers -/

section
variable {s : State} {im : Image} (himg : s.img = some im) {i : Nat} {m : XMsg} (hrem : m.remote = true → s.gx.solo = false)
include himg hrem

section
variable (hm : s.gx.mail i xState = some m) (hpend : s.gx.pendingEpoch = true) (hstep : m.step = s.gx.epochStep.toNat) (hepoch : m.epoch = s.gx.epochNext.toNat)
include hm hpend hstep hepoch

omit himg hrem hm in
theorem Gx.isStaged : (s.gx.pendingEpoch && m.step == s.gx.epochStep.toNat && m.epoch == s.gx.epochNext.toNat) = true := by
  rw [hpend, hstep, hepoch]
  simp

/-- A message for the step above waits. -/
theorem exec_stateXfer_waits (habove : m.step = stepAbove s.tmr.step.toNat) (x : Ecc) : exec (.stateXfer i x) s = .next s := by
  refine congrArg Host.Outcome.next ((State.onMail_taken hm himg hrem _).trans (if_pos ?_))
  rw [Gx.isStaged hpend hstep hepoch, habove]
  simp

/-- The bytes of a record with those a message adds. -/
def State.xferGot (s : State) (m : XMsg) : List (Nat × List Byte) := s.gx.xfer.at m.a ++ [(m.b, m.data)]

/-- A message of the current step in order: its bytes are kept. -/
def State.xferKept (s : State) (i : Nat) (m : XMsg) : State := { s.drop i with gx := { (s.drop i).gx with xfer := s.gx.xfer.put m.a (s.xferGot m) } }

section
variable (hcur : m.step = s.tmr.step.toNat) (hwait : s.gx.awaited.contains m.a = true) (hdata : m.data ≠ [])
  (hnew : ((s.gx.xfer.at m.a).any fun p => rangesMeet (m.b, m.b + m.data.length) (p.1, p.1 + p.2.length)) = false)
  (hfrom : ((im.shardOf s.gx.group.n m.a).any fun k => (s.gx.group.owner k.1 k.2).id == m.member) = true)
  (hto : im.shardOf s.gx.nextGroup.n m.a = some (m.bucket, m.shard))
include hcur hwait hdata hnew hfrom hto

/-- What becomes of the record. -/
def State.xferTake (s : State) (im : Image) (m : XMsg) (got : List (Nat × List Byte)) (x : Ecc) : State :=
  match im.parseBlock 11 (joinPieces got) with
  | none => s
  | some r =>
    if (joinPieces got).length < r.bytes then s else
    let s := s.mergeRead im (im.partPlaces s.upd 11 r.block) x
    let mu := im.importBlock 11 (s.mem, s.upd) r
    { s with mem := mu.1, upd := mu.2, gx := { s.gx with awaited := s.gx.awaited.filter (· != r.block), xfer := s.gx.xfer.put m.a [] } }

theorem exec_stateXfer_taken (x : Ecc) : exec (.stateXfer i x) s = .next ((s.xferKept i m).xferTake im m (s.xferGot m) x) := by
  have hnot : ¬ ((s.gx.pendingEpoch && m.step == s.gx.epochStep.toNat && m.epoch == s.gx.epochNext.toNat) && m.step == stepAbove s.tmr.step.toNat) = true := by
    rw [Bool.and_eq_true, beq_iff_eq, hcur]
    exact fun h => stepAbove_ne _ h.2
  refine congrArg Host.Outcome.next ((State.onMail_taken hm himg hrem _).trans ((if_neg hnot).trans ((if_neg fun h => ?_).trans rfl)))
  simp only [Bool.or_eq_true, Bool.not_eq_true', decide_eq_true_eq] at h
  rcases h with (((((h | h) | h) | h) | h) | h) | h
  · exact Bool.false_ne_true (h.symm.trans (Gx.isStaged hpend hstep hepoch))
  · exact h hcur
  · exact Bool.false_ne_true (h.symm.trans hwait)
  · exact hdata (List.isEmpty_iff.mp h)
  · exact Bool.false_ne_true (hnew.symm.trans h)
  · exact h hto
  · exact Bool.false_ne_true (h.symm.trans hfrom)

/-- A record that is not whole waits for its other bytes. -/
theorem exec_stateXfer_part (h : im.parseBlock 11 (joinPieces (s.xferGot m)) = none ∨
      ∃ r, im.parseBlock 11 (joinPieces (s.xferGot m)) = some r ∧ (joinPieces (s.xferGot m)).length < r.bytes) (x : Ecc) :
    exec (.stateXfer i x) s = .next (s.xferKept i m) := by
  rw [exec_stateXfer_taken himg hrem hm hpend hstep hepoch hcur hwait hdata hnew hfrom hto]
  unfold State.xferTake
  rcases h with h | ⟨r, h, hlen⟩
  · rw [h]
  · simp only [h]
    rw [if_pos hlen]

/-- A whole one is written. -/
theorem exec_stateXfer_whole {r : BlockRec} (h : im.parseBlock 11 (joinPieces (s.xferGot m)) = some r) (hlen : r.bytes ≤ (joinPieces (s.xferGot m)).length) :
    ∃ t, exec (.stateXfer i .clean) s = .next t ∧ t.gx.awaited = s.gx.awaited.filter (· != r.block) ∧ (t.mem, t.upd) = im.importBlock 11 (s.mem, s.upd) r := by
  rw [exec_stateXfer_taken himg hrem hm hpend hstep hepoch hcur hwait hdata hnew hfrom hto]
  unfold State.xferTake
  simp only [h]
  rw [if_neg (Nat.not_lt.mpr hlen)]
  rw [State.mergeRead_clean, State.readMarked_eq]
  exact ⟨_, rfl, rfl, rfl⟩

end
end

/-- XFER_END in order is taken, and another is bad. -/
theorem exec_xferEnd (hm : s.gx.mail i xXferEnd = some m) :
    let inOrder := s.gx.headOk s.tmr.step.toNat m = true ∨ (s.gx.pendingEpoch = true ∧ m.step = s.gx.epochStep.toNat ∧ m.epoch = s.gx.epochNext.toNat ∧
      (m.step = s.tmr.step.toNat ∨ m.step = stepAbove s.tmr.step.toNat) ∧ (s.gx.group.rank? m.member).isSome = true)
    (inOrder → exec (.xferEnd i) s = .next { s with gx := { s.gx with inbox := s.gx.inbox.eraseIdx i } }) ∧
    (¬ inOrder → exec (.xferEnd i) s = .next { s with gx := { s.gx with inbox := s.gx.inbox.eraseIdx i, badTag := satAdd s.gx.badTag 1 } }) := by
  intro inOrder
  have hexec : exec (.xferEnd i) s = .next (
      if (s.gx.pendingEpoch && m.step == s.gx.epochStep.toNat && m.epoch == s.gx.epochNext.toNat
        && (m.step == s.tmr.step.toNat || m.step == stepAbove s.tmr.step.toNat) && (s.gx.group.rank? m.member).isSome) || s.gx.headOk s.tmr.step.toNat m
      then s.drop i else (s.drop i).bad) := congrArg Host.Outcome.next (State.onMail_taken hm himg hrem _)
  have hiff : ((s.gx.pendingEpoch && m.step == s.gx.epochStep.toNat && m.epoch == s.gx.epochNext.toNat
      && (m.step == s.tmr.step.toNat || m.step == stepAbove s.tmr.step.toNat) && (s.gx.group.rank? m.member).isSome) || s.gx.headOk s.tmr.step.toNat m) = true ↔ inOrder := by
    simp only [Bool.or_eq_true, Bool.and_eq_true, beq_iff_eq, and_assoc]
    exact or_comm
  exact ⟨fun h => hexec.trans (congrArg Host.Outcome.next (if_pos (hiff.mpr h))), fun h => hexec.trans (congrArg Host.Outcome.next (if_neg (h ∘ hiff.mp)))⟩

end

/-- At the timeout what is still awaited is unseeded. -/
theorem exec_xferWaitTimeout (s : State) : ∃ t, exec .xferWaitTimeout s = .next t ∧ t.gx.awaited = [] ∧ t = { s with gx := t.gx, hif := t.hif } ∧
    ∀ g, g ∈ t.gx.unseeded ↔ g ∈ s.gx.unseeded ∨ g ∈ s.gx.awaited := by
  obtain ⟨h, hset⟩ := s.setGx_eq { s.gx with unseeded := s.gx.unseeded ++ s.gx.awaited.filter fun g => !s.gx.unseeded.contains g, awaited := [], xfer := [] }
  refine ⟨_, congrArg Host.Outcome.next hset, rfl, rfl, fun g => ?_⟩
  dsimp only
  rw [List.mem_append, List.mem_filter, Bool.not_eq_true', List.contains_eq_mem, decide_eq_false_iff_not]
  tauto

/-! Epochs -/

/-- The state sent at an epoch's arming: messages, and what is awaited. -/
theorem State.sendState_gx (s : State) (im : Image) : ∃ ms w x l, s.sendState im = { s with gx := { s.gx with inbox := ms, awaited := w, xfer := x }, lnk := l } := by
  unfold State.sendState
  split
  · exact ⟨_, _, _, _, rfl⟩
  · dsimp only
    generalize hpieces : List.foldl _ s _ = u
    have hsent : s.Sends u := hpieces ▸ foldl_keeps (P := State.Sends s) (fun t m ht =>
      foldl_keeps (P := State.Sends s) (fun t p ht => ht.sendX _ trivial) _ ht) _ (s.posts_refl _)
    generalize hends : List.foldl _ u _ = v
    have hsent' : s.Sends v := hends ▸ foldl_keeps (P := State.Sends s) (fun t m ht => ht.sendX _ trivial) _ hsent
    obtain ⟨ms, l, -, rfl⟩ := hsent'
    exact ⟨_, _, _, _, rfl⟩

theorem State.sendState_epoch (s : State) (im : Image) : (s.sendState im).gx.pendingEpoch = s.gx.pendingEpoch ∧ (s.sendState im).gx.cut = s.gx.cut ∧
    (s.sendState im).gx.compareNow = s.gx.compareNow := by
  obtain ⟨ms, w, x, l, h⟩ := s.sendState_gx im
  rw [h]
  exact ⟨rfl, rfl, rfl⟩

/-- An epoch is armed once; away from its own step nothing is sent (R342, R343). -/
theorem State.armEpochNow_spec (s : State) : s.armEpochNow.gx.pendingEpoch = true ∧ (s.gx.pendingEpoch = true → s.armEpochNow.gx.slotNeed = s.gx.slotNeed) ∧
    s.armEpochNow.gx.cut = s.gx.cut ∧ s.armEpochNow.gx.compareNow = s.gx.compareNow ∧
    (s.adm.running = true ∨ s.gx.epochStep ≠ s.tmr.step → s.armEpochNow = { s with gx := s.armEpochNow.gx }) := by
  unfold State.armEpochNow
  split
  · next h => exact ⟨h, fun _ => rfl, rfl, rfl, fun _ => rfl⟩
  · next h =>
    dsimp only
    split
    · split
      · next hnow =>
        rw [Bool.and_eq_true, Bool.not_eq_true', decide_eq_true_eq] at hnow
        exact ⟨(State.sendState_epoch ..).1, fun hc => absurd hc h, (State.sendState_epoch ..).2.1, (State.sendState_epoch ..).2.2, fun hc =>
          hc.elim (fun hc => absurd (hnow.1.symm.trans hc) Bool.false_ne_true) fun hc => absurd hnow.2 hc⟩
      · exact ⟨rfl, fun hc => absurd hc h, rfl, rfl, fun _ => rfl⟩
    · exact ⟨rfl, fun hc => absurd hc h, rfl, rfl, fun _ => rfl⟩

/-- What a write of GX_CTRL does before its bits act. -/
def State.gxCtrlSet (s : State) (v : W32) : State :=
  let t := { s with gx := s.gx.writeReg (s.ctl.state == .ready || s.ctl.state == .loaded) 4 v }
  if bit v 1 then { t with gx := { t.gx with compareNow := true } } else t

theorem State.gxCtrlSet_eq (s : State) (v : W32) : ∃ l p, s.gxCtrlSet v = { s with gx := { s.gx with levels := l, maxPlen := p, compareNow := s.gx.compareNow || bit v 1 } } := by
  unfold State.gxCtrlSet
  dsimp only
  cases h : bit v 1 with
  | true => exact ⟨_, _, by rw [Bool.or_true]; rfl⟩
  | false => exact ⟨_, _, by rw [Bool.or_false]; rfl⟩

/-- The step is cut off once (R349). -/
theorem State.cutOff_spec (s : State) (time : Nat) : s.cutOff time = { s with gx := { s.gx with cut := if s.stepping then some (s.gx.cut.getD time) else s.gx.cut } } := by
  unfold State.cutOff
  split <;> rfl

theorem State.writeGxCtrl_eq (s : State) (v : W32) : s.writeGxCtrl v =
    (let t := if bit v 3 then (s.gxCtrlSet v).armEpochNow else s.gxCtrlSet v
     if bit v 2 then t.cutOff t.now else t) := rfl

/-- The bits of GX_CTRL. -/
theorem State.writeGxCtrl_spec (s : State) (v : W32) :
    (bit v 3 = true → (s.writeGxCtrl v).gx.pendingEpoch = true ∧ (s.gx.pendingEpoch = true → (s.writeGxCtrl v).gx.slotNeed = s.gx.slotNeed)) ∧
    (bit v 2 = true → (s.writeGxCtrl v).gx.cut = if s.stepping then some (s.gx.cut.getD s.now) else s.gx.cut) ∧
    (bit v 1 = true → (s.writeGxCtrl v).gx.compareNow = true) ∧
    (bit v 3 = false ∨ s.adm.running = true ∨ s.gx.epochStep ≠ s.tmr.step → s.writeGxCtrl v = { s with gx := (s.writeGxCtrl v).gx }) := by
  obtain ⟨l, p, hset⟩ := s.gxCtrlSet_eq v
  have harmed : ∃ x k, (if bit v 3 then (s.gxCtrlSet v).armEpochNow else s.gxCtrlSet v) = { s with gx := x, lnk := k } ∧
      (bit v 3 = true → x.pendingEpoch = true ∧ (s.gx.pendingEpoch = true → x.slotNeed = s.gx.slotNeed)) ∧ x.cut = s.gx.cut ∧
      (bit v 1 = true → x.compareNow = true) ∧ (bit v 3 = false ∨ s.adm.running = true ∨ s.gx.epochStep ≠ s.tmr.step → k = s.lnk) := by
    cases h3 : bit v 3 with
    | false =>
      rw [if_neg Bool.false_ne_true, hset]
      exact ⟨_, s.lnk, rfl, nofun, rfl, fun h1 => Bool.or_eq_true_iff.mpr (.inr h1), fun _ => rfl⟩
    | true =>
      obtain ⟨hpend, hneed, hcut, hcmp, hframe⟩ := (s.gxCtrlSet v).armEpochNow_spec
      rw [hset] at hpend hneed hcut hcmp hframe
      rw [if_pos rfl, hset]
      refine ⟨_, _, (State.armEpochNow_frame _).trans rfl, fun _ => ⟨hpend, hneed⟩, hcut, fun h1 => hcmp.trans (Bool.or_eq_true_iff.mpr (.inr h1)), fun hor => ?_⟩
      exact (congrArg State.lnk (hframe (hor.resolve_left nofun)) :)
  obtain ⟨x, k, ha, hpend, hcut, hcmp, hlnk⟩ := harmed
  rw [State.writeGxCtrl_eq]
  dsimp only
  rw [ha]
  cases h2 : bit v 2 with
  | false =>
    rw [if_neg Bool.false_ne_true]
    exact ⟨hpend, nofun, hcmp, fun hor => by rw [hlnk hor]⟩
  | true =>
    rw [if_pos rfl, State.cutOff_spec]
    refine ⟨hpend, fun _ => ?_, hcmp, fun hor => by rw [hlnk hor]⟩
    dsimp only
    rw [hcut]
    rfl

section
variable {s : State} (hlive : s.ctl.state.live = true) (v : W32)
include hlive

theorem exec_armEpoch : exec (.armEpoch v) s = .next (if bit v 3 then s.writeGxCtrl v else s) := State.host_of_live _ hlive
theorem exec_cutoff : exec (.cutoff v) s = .next (if bit v 2 then s.writeGxCtrl v else s) := State.host_of_live _ hlive
theorem exec_compareNow : exec (.compareNow v) s = .next (if bit v 1 then s.writeGxCtrl v else s) := State.host_of_live _ hlive

end

/-- Settles O54. -/
theorem roundsTransfersEpochs : Obligations.RoundsTransfersEpochs := by
  unfold Obligations.RoundsTransfersEpochs
  intro s im himg
  dsimp only
  refine ⟨fun hat hdue hnone hst => ⟨fun hall => ?agree, fun k hk hdiff => ⟨fun hown => ?rebuilt, fun hown => ?fetched⟩⟩, exec_compareRound_idle,
    fun i m hm htag hrem hown => ⟨fun x => ?fetch, ?fetchClean⟩, fun i m r f hfetch hrem => ⟨fun hm hblock hpanel hnew => exec_fetchData himg hrem hm hfetch hblock hpanel hnew,
      fun hm => ⟨fun htodo hdig => ?replaced, fun hdig hatt => ?again⟩⟩, fun r f hr hf => ⟨fun hatt => ?timeoutAgain, fun hatt htodo => ?timeoutStale⟩,
    fun i m hm hpend hstep hepoch hcur hrem hwait hdata hnew hfrom hto => ⟨fun hpart x => ?part, fun r hparse hlen => ?whole⟩,
    fun i m hm hpend hstep hepoch habove hrem x => exec_stateXfer_waits himg hrem hm hpend hstep hepoch habove x,
    fun i m hm hrem => exec_xferEnd himg hrem hm, exec_xferWaitTimeout s, fun v hlive => ?bits⟩
  case agree =>
    obtain ⟨x, hx⟩ := State.compareFrom_agrees im 0 (im.shards s.gx.group.n) s.roundOpen hall
    exact ⟨_, (exec_compareRound_due himg hat hdue hnone hst _).trans (congrArg Host.Outcome.next hx), ⟨rfl, rfl⟩, rfl, rfl, rfl, rfl, rfl⟩
  case rebuilt =>
    obtain ⟨x, hf, f, c, d, l, hx⟩ := State.compareFrom_rebuilds (s := s.roundOpen) (im := im) (k := k) hdiff hown
    have hexec := exec_compareRound_due himg hat hdue hnone hst .clean
    rw [hk, hx] at hexec
    exact ⟨_, hexec, ⟨rfl, rfl⟩, rfl, rfl, rfl, rfl⟩
  case fetched =>
    obtain ⟨x, hf, l, hx⟩ := State.compareFrom_fetches (s := s.roundOpen) (im := im) (k := k) hdiff hown
    have hexec := exec_compareRound_due himg hat hdue hnone hst .clean
    rw [hk, hx] at hexec
    exact ⟨_, hexec, rfl, rfl, rfl⟩
  case fetch =>
    obtain ⟨l, ms, hexec⟩ := exec_fetch himg hrem hm htag hown x
    have hgx : ((s.drop i).fetchRead im m x).gx = (s.drop i).gx := (State.engineRead_keeps ..).2.2.2.2.2.2.2.2.1
    refine ⟨_, hexec, ?_, fun a => congrArg (fun b : Sparse Byte => Sparse.get Mem.blank b a) (State.engineRead_bytes ..)⟩
    dsimp only
    rw [hgx]
    exact Sparse.at_mod_self s.gx.mFetch m.member fun c => satAdd c 1
  case fetchClean =>
    obtain ⟨l, ms, hexec⟩ := exec_fetch himg hrem hm htag hown .clean
    refine ⟨_, hexec, ?_⟩
    unfold State.fetchRead
    dsimp only
    rw [State.engineRead_clean, State.readMarked_eq]
    rfl
  case replaced =>
    rw [exec_fetchEnd himg hrem hm hfetch, if_pos hdig, htodo]
    obtain ⟨d, h, fl, hend⟩ := State.endRound_spec { s.drop i with
      mem := f.got.foldl (fun mem p => im.regWrite mem (im.block p.1).t.copy ((im.block p.1).copyOff (s.upd.gen.at p.1).cur + p.2.1) p.2.2) s.mem
      gx := { (s.drop i).gx with refetchCnt := satAdd s.gx.refetchCnt 1 } } r.mismatches
    exact ⟨_, congrArg Host.Outcome.next hend, ⟨rfl, rfl⟩, rfl, rfl⟩
  case again =>
    rw [exec_fetchEnd himg hrem hm hfetch, if_neg fun h => Bool.false_ne_true (hdig.symm.trans h)]
    obtain ⟨l, ms, ht⟩ := (s.drop i).fetchFailed_again im r hatt .clean
    exact ⟨_, congrArg Host.Outcome.next ht, rfl, rfl⟩
  case timeoutAgain =>
    obtain ⟨l, ms, ht⟩ := s.fetchFailed_again im r hatt .clean
    exact ⟨_, (exec_fetchTimeout himg hr hf _).trans (congrArg Host.Outcome.next ht), rfl, rfl⟩
  case timeoutStale =>
    obtain ⟨h, fl, d, l, st, ht, hin⟩ := s.fetchFailed_stale im hatt htodo .clean
    exact ⟨_, (exec_fetchTimeout himg hr hf _).trans (congrArg Host.Outcome.next ht), ⟨rfl, rfl⟩, rfl, hin, rfl⟩
  case part =>
    exact ⟨_, exec_stateXfer_part himg hrem hm hpend hstep hepoch hcur hwait hdata hnew hfrom hto hpart x,
      Sparse.at_put_self s.gx.xfer m.a (s.xferGot m), rfl, rfl, rfl⟩
  case whole => exact exec_stateXfer_whole himg hrem hm hpend hstep hepoch hcur hwait hdata hnew hfrom hto hparse hlen
  case bits =>
    obtain ⟨harm, hcut, hcmp, hframe⟩ := s.writeGxCtrl_spec v
    rw [exec_armEpoch hlive, exec_cutoff hlive, exec_compareNow hlive]
    simp only [bit_eq_getLsbD] at harm hcut hcmp hframe ⊢
    refine ⟨fun h3 => ?_, fun h3 => by rw [h3]; rfl, fun h2 => ?_, fun h1 => ?_⟩
    · rw [if_pos h3]
      exact ⟨_, rfl, (harm h3).1, (harm h3).2, fun h => hframe (.inr h)⟩
    · rw [if_pos h2]
      exact ⟨_, rfl, hcut h2, hframe⟩
    · rw [if_pos h1]
      exact ⟨_, rfl, hcmp h1, hframe⟩

end Sys2Proof.Machine
end

section
/-! SUPPORT. O55: ports train, negotiate, come up and fall (R308 to R313, R330, R331, R521). -/

namespace Sys2Proof.Machine

/-! A port of the link block -/

theorem Lnk.setPort_at_self (l : Lnk) (i : Nat) (p : Port) : (l.setPort i p).port.at i = p := Sparse.at_put_self ..
theorem Lnk.setPort_at_ne (l : Lnk) {i j : Nat} (p : Port) (h : j ≠ i) : (l.setPort i p).port.at j = l.port.at j := Sparse.at_put_ne _ _ h

theorem Lnk.sendFlits_at_ne (l : Lnk) {o j : Nat} (fs : List TxFlit) (h : j ≠ o) : (l.sendFlits o fs).port.at j = l.port.at j := l.setPort_at_ne _ h

theorem Lnk.endPacket_at_ne (l : Lnk) {o j : Nat} (pid : Nat) (h : j ≠ o) : (l.endPacket o pid).port.at j = l.port.at j := by
  unfold Lnk.endPacket
  dsimp only
  split
  · exact l.setPort_at_ne _ h
  · rfl

/-- A later flit of a packet changes its output alone. -/
theorem Lnk.forward_at_ne (l : Lnk) {o j : Nat} (f : TxFlit) (h : j ≠ o) : (l.forward o f).port.at j = l.port.at j := by
  unfold Lnk.forward
  dsimp only
  split
  · exact (Lnk.sendFlits_at_ne _ _ h).trans (l.setPort_at_ne _ h)
  · exact (Lnk.endPacket_at_ne _ _ h).trans ((Lnk.sendFlits_at_ne _ _ h).trans (l.setPort_at_ne _ h))

/-- What a port is once it has left the link: unlinked, in its new state. -/
theorem Lnk.leave_at (l : Lnk) (i : Nat) (st : PState) : ∃ r, (l.leave i st).port.at i = { (l.port.at i).unlink with state := st, rx := r } := by
  unfold Lnk.leave
  dsimp only
  rw [foldl_proj (fun l : Lnk => l.port.at i)]
  · rw [Sparse.at_mapVals _ (fun _ => rfl), Lnk.setPort_at_self]
    exact ⟨_, rfl⟩
  · intro u a
    split
    · rfl
    · next h => exact Lnk.forward_at_ne _ _ (Ne.symm h)

/-- What a port is once it has gone down. -/
theorem Lnk.toDown_at (l : Lnk) (i r : Nat) : ∃ x, (l.toDown i r).port.at i =
    { (l.port.at i).unlink with state := .down, rx := x, down := true, downReason := BitVec.ofNat 4 r } := by
  obtain ⟨x, hx⟩ := l.leave_at i .down
  unfold Lnk.toDown
  dsimp only
  rw [Lnk.setPort_at_self, hx]
  exact ⟨x, rfl⟩

/-- An unlinked port has no lane locked or aligned. -/
theorem Port.unlink_lanes (p : Port) (k : Nat) : (p.unlink.lanes.at k).lock = false ∧ (p.unlink.lanes.at k).aligned = false := by
  have h : p.unlink.lanes.at k = { p.lanes.at k with lock := false, aligned := false } := Sparse.at_mapVals _ (fun _ => rfl) _ _
  rw [h]
  exact ⟨rfl, rfl⟩

/-- Every lane changed in its own way. -/
theorem Sparse.at_foldl_mod_range {α : Type} [Inhabited α] [DecidableEq α] (f : Nat → α → α) (m : Sparse α) (n k : Nat) :
    ((List.range n).foldl (fun (t : Sparse α) k => t.mod k (f k)) m).at k = if k < n then f k (m.at k) else m.at k := by
  induction n with
  | zero => rfl
  | succ n ih =>
    rw [List.range_succ, List.foldl_append, List.foldl_cons, List.foldl_nil]
    by_cases hk : k = n
    · subst hk
      rw [Sparse.at_mod_self, ih, if_neg (Nat.lt_irrefl k), if_pos (Nat.lt_succ_self k)]
    · rw [Sparse.at_mod_ne _ _ hk, ih]
      congr 1
      rw [Nat.lt_succ_iff_lt_or_eq]
      simp [hk]

/-- Flits sent one after the other. -/
theorem Lnk.foldl_sendCtrl (l : Lnk) (i ty : Nat) (f : Nat → List Byte) (ns : List Nat) : ns.foldl (fun l n => l.sendCtrl i ty (f n)) l =
    { l with out := l.out ++ ns.map fun n => (i, (l.port.at i).flit ty 0 0 (f n)) } := by
  induction ns generalizing l with
  | nil => rw [List.map_nil, List.append_nil]; rfl
  | cons n ns ih =>
    rw [List.foldl_cons, ih]
    unfold Lnk.sendCtrl
    rw [List.map_cons, List.append_assoc]
    rfl

/-! A link block put in place -/

/-- Where no port falls and none leaves UP only the link block changes. -/
theorem State.setLnk_quiet (s : State) (l : Lnk) (lane : Nat)
    (h : ∀ j, (l.port.at j).state = (s.lnk.port.at j).state ∨ (s.lnk.port.at j).state ≠ .up ∧ (l.port.at j).state ≠ .down) :
    s.setLnk l lane = { s with lnk := l } := by
  have hfell : ((List.range 12).filter fun i => (l.port.at i).state == .down && (s.lnk.port.at i).state != .down) = [] := by
    refine List.filter_eq_nil_iff.mpr fun j _ hj => ?_
    rw [Bool.and_eq_true, beq_iff_eq, bne_iff_ne] at hj
    rcases h j with heq | ⟨-, hd⟩
    · exact hj.2 (heq.symm.trans hj.1)
    · exact hd hj.1
  have hlost : (s.tmr.source == 2 && (s.lnk.port.at s.tmr.port.toNat).state == .up && (l.port.at s.tmr.port.toNat).state != .up) = false := by
    rcases h s.tmr.port.toNat with heq | ⟨hu, -⟩
    · rw [heq]
      cases (s.lnk.port.at s.tmr.port.toNat).state <;> simp
    · rw [beq_eq_false_iff_ne.mpr hu, Bool.and_false, Bool.false_and]
  unfold State.setLnk
  dsimp only
  rw [hfell, hlost]
  rfl

theorem State.setLnk_lnk (s : State) (l : Lnk) (lane : Nat) : (s.setLnk l lane).lnk = l := by
  unfold State.setLnk
  dsimp only
  have hfold : ∀ is : List Nat, (is.foldl (fun (s : State) i => s.report { cls := .link, sev := .contained, unit := i, sub := lane, detail := (l.port.at i).downReason.toNat })
      { s with lnk := l }).lnk = l := fun is => foldl_keeps (P := fun t : State => t.lnk = l) (fun t i ht => (by simpa using ht)) is rfl
  split
  · simp [hfold]
  · exact hfold _

theorem State.setLnk_mem (s : State) (l : Lnk) (lane : Nat) : (s.setLnk l lane).mem = s.mem := by simp

/-- A port goes down, told once with its reason and lane, and no other port changes its state. -/
def State.Falls (s : State) (i : Nat) (c : Instr) (reason lane : Nat) : Prop :=
  ∃ t q, exec c s = .next t ∧ (t.lnk.port.at i).state = .down ∧ (t.lnk.port.at i).down = true ∧
    (t.lnk.port.at i).downReason = BitVec.ofNat 4 reason ∧ t.flt.reports = Report.enter q s.flt.reports ∧ q.cls = .link ∧ q.sev = .contained ∧ q.unit = i ∧
    q.detail = reason ∧ q.sub = lane ∧ (∀ k, ((t.lnk.port.at i).lanes.at k).lock = false ∧ ((t.lnk.port.at i).lanes.at k).aligned = false) ∧
    ((∀ j, j ≠ i → (t.lnk.port.at j).state = (s.lnk.port.at j).state) ∧ t.mem = s.mem)

section
variable {s : State} {i : Nat}

theorem State.falls_of_toDown (hi : i < 12) (haw : s.ctl.state.awake = true) {c : Instr} {l : Lnk} {reason lane : Nat}
    (hexec : exec c s = .next (s.setLnk (l.toDown i reason) lane)) (hl : ∀ j, (l.port.at j).state = (s.lnk.port.at j).state)
    (hs : (s.lnk.port.at i).state ≠ .down) (hr : reason < 16) : s.Falls i c reason lane := by
  have hstate : ∀ j, ((l.toDown i reason).port.at j).state = if j = i then .down else (s.lnk.port.at j).state := fun j => by
    rw [Lnk.toDown_state, hl]
  obtain ⟨hlnk, hmem, q, hrep, hcls, hsev, hunit, hsub, hdetail⟩ := s.setLnk_down (l.toDown i reason) i lane hi hs haw hstate
  obtain ⟨x, hport⟩ := l.toDown_at i reason
  refine ⟨_, q, hexec, ?_⟩
  rw [hlnk, hport]
  refine ⟨rfl, rfl, rfl, hrep, hcls, hsev, hunit, ?_, hsub, (l.port.at i).unlink_lanes, fun j hj => (hstate j).trans (if_neg hj), hmem⟩
  rw [hdetail, hport]
  exact BitVec.toNat_ofNat .. |>.trans (Nat.mod_eq_of_lt hr)

/-- A command on a port that takes part. -/
theorem State.onPort_awake (hi : i < 12) (haw : s.ctl.state.awake = true) (f : Port → State) : s.onPort i f = .next (f (s.lnk.port.at i)) := by
  refine congrArg Host.Outcome.next (if_pos ?_)
  rw [haw, Bool.true_and, decide_eq_true_eq]
  exact hi

end

end Sys2Proof.Machine
end

section
/-! SUPPORT. O55: the commands of a port's states, and the obligation. -/

namespace Sys2Proof.Machine

/-- Only port i's state may change, and nothing of memory. -/
def State.PortOnly (s : State) (i : Nat) (t : State) : Prop := (∀ j, j ≠ i → (t.lnk.port.at j).state = (s.lnk.port.at j).state) ∧ t.mem = s.mem

section
variable {s : State} {i : Nat}

theorem State.portOnly_setLnk {l : Lnk} {lane : Nat} (h : ∀ j, j ≠ i → (l.port.at j).state = (s.lnk.port.at j).state) : s.PortOnly i (s.setLnk l lane) := by
  unfold State.PortOnly
  rw [State.setLnk_lnk, State.setLnk_mem]
  exact ⟨h, rfl⟩

theorem State.portOnly_setPort {p : Port} {lane : Nat} : s.PortOnly i (s.setLnk (s.lnk.setPort i p) lane) :=
  State.portOnly_setLnk fun _ hj => congrArg Port.state (s.lnk.setPort_at_ne p hj)

/-- A port put back in a state that is no fall, from one that was not UP. -/
theorem State.setLnk_setPort {p : Port} (h : p.state = (s.lnk.port.at i).state ∨ (s.lnk.port.at i).state ≠ .up ∧ p.state ≠ .down) :
    s.setLnk (s.lnk.setPort i p) = { s with lnk := s.lnk.setPort i p } := by
  refine s.setLnk_quiet _ _ fun j => ?_
  by_cases hj : j = i
  · subst hj
    rw [Lnk.setPort_at_self]
    exact h
  · rw [Lnk.setPort_at_ne _ _ hj]
    exact .inl rfl

/-! Enabling -/

/-- A write of LNK_PORT_CTRL (R308, R333). -/
theorem exec_portEnableWrite (hi : i < 12) (hlive : s.ctl.state.live = true) (v : W32) : let p := s.lnk.port.at i
    ∃ t, exec (.portEnableWrite i v) s = .next t ∧ s.PortOnly i t ∧ (t.lnk.port.at i).enable = v.getLsbD 0 ∧
      (t.lnk.port.at i).autoRetrain = v.getLsbD 1 ∧ (t.lnk.port.at i).ttEn = v.getLsbD 4 ∧ (t.lnk.port.at i).verMask = BitVec.ofNat 2 (v.toNat / 4) ∧
      (t.lnk.port.at i).state = (if v.getLsbD 0 = false then .disabled else if p.state = .disabled then .training else p.state) := by
  intro p
  have hexec : exec (.portEnableWrite i v) s = .next (s.setLnk (s.lnk.writePortCtrl i v)) :=
    (State.host_of_live _ hlive).trans (congrArg Host.Outcome.next (if_pos hi))
  have hmask : BitVec.ofNat 2 (fld v 3 2) = BitVec.ofNat 2 (v.toNat / 4) := by
    apply BitVec.eq_of_toNat_eq
    rw [BitVec.toNat_ofNat, BitVec.toNat_ofNat]
    exact Nat.mod_mod _ _
  rw [hexec]
  refine ⟨_, rfl, ?_⟩
  rw [State.setLnk_lnk, ← bit_eq_getLsbD, ← bit_eq_getLsbD, ← bit_eq_getLsbD, ← hmask]
  unfold Lnk.writePortCtrl
  dsimp only
  cases h0 : bit v 0 with
  | false =>
    rw [if_pos (by decide : (!false) = true), if_pos (rfl : false = false)]
    obtain ⟨r, hr⟩ := (s.lnk.setPort i { s.lnk.port.at i with
      ttEn := bit v 4, verMask := BitVec.ofNat 2 (fld v 3 2), autoRetrain := bit v 1, enable := false }).leave_at i .disabled
    rw [hr, Lnk.setPort_at_self]
    refine ⟨State.portOnly_setLnk fun j hj => ?_, rfl, rfl, rfl, rfl, rfl⟩
    rw [Lnk.leave_state, if_neg hj, Lnk.setPort_at_ne _ _ hj]
  | true =>
    rw [if_neg (by decide : ¬ (!true) = true), if_neg (by decide : ¬ true = false)]
    split
    · next hd =>
      unfold Lnk.train
      dsimp only
      rw [Lnk.setPort_at_self, Lnk.setPort_at_self]
      refine ⟨State.portOnly_setLnk fun j hj => ?_, rfl, rfl, rfl, rfl, rfl⟩
      rw [Lnk.setPort_at_ne _ _ hj, Lnk.setPort_at_ne _ _ hj]
    · next hd =>
      rw [Lnk.setPort_at_self]
      exact ⟨State.portOnly_setPort, rfl, rfl, rfl, rfl, rfl⟩

variable (hi : i < 12) (haw : s.ctl.state.awake = true)
include hi haw

/-! Training -/

section
variable (hst : (s.lnk.port.at i).state = .training) (inv : List Bool) (reqs idx : List Nat) (skew : Nat)
include hst

/-- The phase of a training port completes. -/
theorem exec_phaseComplete : exec (.trainingPhaseComplete i inv reqs idx skew) s = .next (s.setLnk (s.lnk.phaseDone i inv reqs idx skew)) :=
  (State.onPort_awake hi haw fun p => if p.state = .training then s.setLnk (s.lnk.phaseDone i inv reqs idx skew) else s).trans
    (congrArg Host.Outcome.next (if_pos hst))

omit hi haw hst in
/-- A link block that is not changed. -/
theorem State.setLnk_self : s.setLnk s.lnk = s := s.setLnk_same s.lnk 0 fun _ => rfl

theorem exec_phase1 (h : (s.lnk.port.at i).phase = 1) : exec (.trainingPhaseComplete i inv reqs idx skew) s =
    .next { s with lnk := s.lnk.setPort i { s.lnk.port.at i with phase := 2 } } := by
  rw [exec_phaseComplete hi haw hst]
  unfold Lnk.phaseDone
  simp only [h]
  exact congrArg Host.Outcome.next (State.setLnk_setPort (.inl rfl))

theorem exec_phase2 (h : (s.lnk.port.at i).phase = 2) : ∃ t, exec (.trainingPhaseComplete i inv reqs idx skew) s = .next t ∧ s.PortOnly i t ∧
    (t.lnk.port.at i).phase = 3 ∧ (t.lnk.port.at i).state = .training ∧
    ∀ k < 4, ((t.lnk.port.at i).lanes.at k).inverted = inv.getD k false ∧ ((t.lnk.port.at i).lanes.at k).lock = true := by
  rw [exec_phaseComplete hi haw hst]
  unfold Lnk.phaseDone
  simp only [h]
  refine ⟨_, rfl, State.portOnly_setPort, ?_⟩
  rw [State.setLnk_lnk, Lnk.setPort_at_self]
  refine ⟨rfl, hst, fun k hk => ?_⟩
  rw [Sparse.at_foldl_mod_range, if_pos hk]
  exact ⟨rfl, rfl⟩

theorem exec_phase3_tooMany (h : (s.lnk.port.at i).phase = 3) (hr : ∃ k < 4, 64 < reqs.getD k 0) :
    exec (.trainingPhaseComplete i inv reqs idx skew) s = .next s := by
  obtain ⟨k, hk, hreq⟩ := hr
  rw [exec_phaseComplete hi haw hst]
  unfold Lnk.phaseDone
  simp only [h]
  rw [if_pos (List.any_eq_true.mpr ⟨k, List.mem_range.mpr hk, decide_eq_true hreq⟩), State.setLnk_self]

theorem exec_phase3 (h : (s.lnk.port.at i).phase = 3) (hr : ∀ k < 4, reqs.getD k 0 ≤ 64) :
    ∃ t, exec (.trainingPhaseComplete i inv reqs idx skew) s = .next t ∧ s.PortOnly i t ∧ (t.lnk.port.at i).phase = 4 ∧ (t.lnk.port.at i).state = .training ∧
      ∀ k < 4, ((t.lnk.port.at i).lanes.at k).requests = reqs.getD k 0 ∧ ((t.lnk.port.at i).lanes.at k).lock = ((s.lnk.port.at i).lanes.at k).lock := by
  have hnone : ¬ ((List.range 4).any fun k => decide (64 < reqs.getD k 0)) = true := fun hc => by
    obtain ⟨k, hk, hreq⟩ := List.any_eq_true.mp hc
    exact Nat.not_le.mpr (of_decide_eq_true hreq) (hr k (List.mem_range.mp hk))
  rw [exec_phaseComplete hi haw hst]
  unfold Lnk.phaseDone
  simp only [h]
  rw [if_neg hnone]
  refine ⟨_, rfl, State.portOnly_setPort, ?_⟩
  rw [State.setLnk_lnk, Lnk.setPort_at_self]
  refine ⟨rfl, hst, fun k hk => ?_⟩
  rw [Sparse.at_foldl_mod_range, if_pos hk]
  exact ⟨rfl, rfl⟩

theorem exec_phase4_fails (h : (s.lnk.port.at i).phase = 4) (hbad : 48 < skew ∨ ((List.range 4).map fun k => idx.getD k 0 % 4).eraseDups.length ≠ 4) :
    s.Falls i (.trainingPhaseComplete i inv reqs idx skew) 9 0 := by
  refine State.falls_of_toDown (l := s.lnk) hi haw ?_ (fun _ => rfl) (by rw [hst]; exact nofun) (by decide)
  rw [exec_phaseComplete hi haw hst]
  unfold Lnk.phaseDone
  simp only [h]
  rw [if_pos (by rw [Bool.or_eq_true, decide_eq_true_eq, decide_eq_true_eq]; exact hbad)]

theorem exec_phase4 (h : (s.lnk.port.at i).phase = 4) (hskew : skew ≤ 48) (hidx : ((List.range 4).map fun k => idx.getD k 0 % 4).eraseDups.length = 4) :
    ∃ t, exec (.trainingPhaseComplete i inv reqs idx skew) s = .next t ∧ s.PortOnly i t ∧ (t.lnk.port.at i).phase = 5 ∧
      (∀ k < 4, ((t.lnk.port.at i).lanes.at k).aligned = true ∧ ((t.lnk.port.at i).lanes.at k).index = BitVec.ofNat 2 (idx.getD k 0)) ∧
      t.lnk.out = s.lnk.out ++ (i, (s.lnk.port.at i).flit 0 0 0 []) ::
        (List.range 16).map fun n => (i, (s.lnk.port.at i).flit 5 0 0 (bytesOf 1 6 ++ bytesOf 1 0 ++ bytesOf 2 n)) := by
  have hok : ¬ (decide (48 < skew) || decide (((List.range 4).map fun k => idx.getD k 0 % 4).eraseDups.length ≠ 4)) = true := by
    rw [Bool.or_eq_true, decide_eq_true_eq, decide_eq_true_eq, not_or, not_not]
    exact ⟨Nat.not_lt.mpr hskew, hidx⟩
  rw [exec_phaseComplete hi haw hst]
  unfold Lnk.phaseDone
  simp only [h]
  rw [if_neg hok, Lnk.foldl_sendCtrl]
  refine ⟨_, rfl, State.portOnly_setLnk fun j hj => congrArg Port.state (s.lnk.setPort_at_ne _ hj), ?_⟩
  rw [State.setLnk_lnk]
  have hself := s.lnk.setPort_at_self i { s.lnk.port.at i with
    phase := 5, rxSlot := 0, rxBits := 0, lanes := (List.range 4).foldl (fun (t : Sparse LinkLane) k => t.mod k fun x => { x with aligned := true, index := BitVec.ofNat 2 (idx.getD k 0) })
      (s.lnk.port.at i).lanes }
  refine ⟨congrArg Port.phase hself, fun k hk => ?_, ?_⟩
  · have hlane := congrArg (fun p : Port => p.lanes.at k) hself
    dsimp only at hlane
    rw [Sparse.at_foldl_mod_range, if_pos hk] at hlane
    exact ⟨congrArg LinkLane.aligned hlane, congrArg LinkLane.index hlane⟩
  · unfold Lnk.sendCtrl
    dsimp only
    rw [hself, List.append_assoc]
    rfl

theorem exec_phase5_waits (h : (s.lnk.port.at i).phase = 5) (he : (s.lnk.port.at i).echoes < 16) :
    exec (.trainingPhaseComplete i inv reqs idx skew) s = .next s := by
  rw [exec_phaseComplete hi haw hst]
  unfold Lnk.phaseDone
  simp only [h]
  rw [if_pos he, State.setLnk_self]

theorem exec_phase5_fails (h : (s.lnk.port.at i).phase = 5) (he : 16 ≤ (s.lnk.port.at i).echoes) (hns : 224 < (s.lnk.port.at i).loopNs.toNat) :
    s.Falls i (.trainingPhaseComplete i inv reqs idx skew) 6 0 := by
  refine State.falls_of_toDown (l := s.lnk) hi haw ?_ (fun _ => rfl) (by rw [hst]; exact nofun) (by decide)
  rw [exec_phaseComplete hi haw hst]
  unfold Lnk.phaseDone
  simp only [h]
  rw [if_neg (Nat.not_lt.mpr he), if_pos hns]

theorem exec_phase5 (h : (s.lnk.port.at i).phase = 5) (he : 16 ≤ (s.lnk.port.at i).echoes) (hns : (s.lnk.port.at i).loopNs.toNat ≤ 224) :
    exec (.trainingPhaseComplete i inv reqs idx skew) s = .next { s with
      lnk := s.lnk.setPort i { s.lnk.port.at i with phase := 6, state := .negotiating, offer := (s.lnk.port.at i).verMask, seen := false } } := by
  rw [exec_phaseComplete hi haw hst]
  unfold Lnk.phaseDone
  simp only [h]
  rw [if_neg (Nat.not_lt.mpr he), if_neg (Nat.not_lt.mpr hns)]
  exact congrArg Host.Outcome.next (State.setLnk_setPort (.inr ⟨by rw [hst]; exact nofun, nofun⟩))

end

/-- A phase that does not end in time (R309). -/
theorem exec_phaseTimeout (hst : (s.lnk.port.at i).state = .training ∨ (s.lnk.port.at i).state = .negotiating) :
    s.Falls i (.trainingPhaseTimeout i) (phaseReason (s.lnk.port.at i).phase) 0 := by
  have hreason : ∀ n, phaseReason n < 16 := fun n => by
    unfold phaseReason
    split <;> decide
  refine State.falls_of_toDown (l := s.lnk) hi haw ?_ (fun _ => rfl) (by rcases hst with h | h <;> (rw [h]; exact nofun)) (hreason _)
  refine (State.onPort_awake hi haw fun p =>
    if p.state = .training || p.state = .negotiating then s.setLnk (s.lnk.toDown i (phaseReason p.phase)) else s).trans (congrArg Host.Outcome.next (if_pos ?_))
  rw [Bool.or_eq_true, decide_eq_true_eq, decide_eq_true_eq]
  exact hst

/-- A port in DOWN trains again where it is to (R308). -/
theorem exec_autoRetrain (hst : (s.lnk.port.at i).state = .down) :
    ((s.lnk.port.at i).autoRetrain = true → exec (.autoRetrain i) s = .next { s with
      lnk := s.lnk.setPort i { s.lnk.port.at i with state := .training, phase := 1, echoes := 0, seen := false, loopNs := 0, lanes := [] } }) ∧
    ((s.lnk.port.at i).autoRetrain = false → exec (.autoRetrain i) s = .next s) := by
  have hexec : exec (.autoRetrain i) s = .next (if decide ((s.lnk.port.at i).state = .down) && (s.lnk.port.at i).autoRetrain then s.setLnk (s.lnk.train i) else s) :=
    State.onPort_awake hi haw fun p => if p.state = .down && p.autoRetrain then s.setLnk (s.lnk.train i) else s
  rw [hexec, hst]
  refine ⟨fun h => ?_, fun h => ?_⟩
  · rw [h, if_pos (by decide)]
    exact congrArg Host.Outcome.next (State.setLnk_setPort (.inr ⟨by rw [hst]; exact nofun, nofun⟩))
  · rw [h]
    rfl

/-- A CAP flit goes out (R312). -/
theorem exec_capSend (hst : (s.lnk.port.at i).state = .negotiating) : exec (.capSend i) s =
    .next { s with lnk := { s.lnk with out := s.lnk.out ++ [(i, (s.lnk.port.at i).flit 5 0 0 (s.lnk.capPayload i))] } } := by
  refine (State.onPort_awake hi haw fun p =>
    if p.state = .negotiating then s.setLnk (s.lnk.sendCtrl i 5 (s.lnk.capPayload i)) else s).trans (congrArg Host.Outcome.next ((if_pos hst).trans ?_))
  exact s.setLnk_same _ 0 fun _ => rfl

/-- A lane of a port fails (R330, R331). -/
theorem State.laneFails_falls {c : Instr} {lane reason : Nat} (hexec : exec c s = s.laneFails i lane reason) (hr : reason < 16) :
    ((s.lnk.port.at i).state = .up → s.Falls i c reason (4 * i + lane)) ∧ ((s.lnk.port.at i).state ≠ .up → exec c s = .next s) := by
  have hon := hexec.trans (State.onPort_awake hi haw fun p => if p.state = .up then s.setLnk (s.lnk.toDown i reason) (4 * i + lane) else s)
  refine ⟨fun hup => ?_, fun hup => ?_⟩
  · refine State.falls_of_toDown (l := s.lnk) hi haw ?_ (fun _ => rfl) (by rw [hup]; exact nofun) hr
    exact hon.trans (congrArg Host.Outcome.next (if_pos hup))
  · exact hon.trans (congrArg Host.Outcome.next (if_neg hup))

end

end Sys2Proof.Machine
end

section
/-! SUPPORT. O55: CTRL flits, CAP and PROBE, and the obligation. -/

namespace Sys2Proof.Machine

/-- The codewords of a flit's slot are counted, and nothing else of the port changes but where it stands in the stream (R307). -/
theorem Port.countFec_eq (p : Port) (errs : List Nat) : ∃ n m c u, p.countFec errs = { p with rxSlot := n, rxBits := m, fecCorr := c, fecUncorr := u } := by
  have hword : ∀ (q : Port) (e : Nat), (∃ n m c u, q = { p with rxSlot := n, rxBits := m, fecCorr := c, fecUncorr := u }) →
      ∃ n m c u, q.codeword e = { p with rxSlot := n, rxBits := m, fecCorr := c, fecUncorr := u } := by
    rintro q e ⟨n, m, c, u, rfl⟩
    unfold Port.codeword
    split
    · exact ⟨_, _, _, _, rfl⟩
    · split <;> exact ⟨_, _, _, _, rfl⟩
  exact foldl_keeps hword _ ⟨_, _, _, _, rfl⟩

/-- An acknowledgement releases held flits (R318). -/
theorem Port.ack_eq (p : Port) (a : Nat) : ∃ h r, p.ack a = { p with held := h, resends := r } := by
  obtain h | h : p.ack a = p ∨ p.ack a = _ := ite_eq_or_eq ..
  · exact ⟨_, _, h⟩
  · exact ⟨_, _, h⟩

/-- The port a CTRL flit leaves, before what the flit carries: its codewords counted, its ACK taken. -/
def Port.took (p : Port) (bs : List Byte) (fec : List Nat) : Port :=
  if flitAckV (flitHeader bs) then (p.countFec fec).ack (flitAck (flitHeader bs)) else p.countFec fec

theorem Port.took_eq (p : Port) (bs : List Byte) (fec : List Nat) : ∃ n m c u h r,
    p.took bs fec = { p with rxSlot := n, rxBits := m, fecCorr := c, fecUncorr := u, held := h, resends := r } := by
  obtain ⟨n, m, c, u, hc⟩ := p.countFec_eq fec
  unfold Port.took
  split
  · obtain ⟨h, r, ha⟩ := (p.countFec fec).ack_eq (flitAck (flitHeader bs))
    rw [ha, hc]
    exact ⟨_, _, _, _, _, _, rfl⟩
  · rw [hc]
    exact ⟨_, _, _, _, _, _, rfl⟩

/-- The link block a CTRL flit leaves, before what the flit carries. -/
def Lnk.took (l : Lnk) (i : Nat) (bs : List Byte) (fec : List Nat) : Lnk := (l.setPort i ((l.port.at i).countFec fec)).setPort i ((l.port.at i).took bs fec)

theorem Lnk.took_at (l : Lnk) (i : Nat) (bs : List Byte) (fec : List Nat) : (l.took i bs fec).port.at i = (l.port.at i).took bs fec := Lnk.setPort_at_self ..

theorem Lnk.took_at_ne (l : Lnk) {i j : Nat} (bs : List Byte) (fec : List Nat) (h : j ≠ i) : (l.took i bs fec).port.at j = l.port.at j :=
  (Lnk.setPort_at_ne _ _ h).trans (Lnk.setPort_at_ne _ _ h)

/-- No port changes its state by that. -/
theorem Lnk.took_state (l : Lnk) (i : Nat) (bs : List Byte) (fec : List Nat) (j : Nat) : ((l.took i bs fec).port.at j).state = (l.port.at j).state := by
  by_cases hj : j = i
  · subst hj
    obtain ⟨n, m, c, u, h, r, ht⟩ := (l.port.at j).took_eq bs fec
    rw [Lnk.took_at, ht]
  · rw [l.took_at_ne bs fec hj]

/-- What a flit is found to be. -/
theorem isCtrl_spec {sub : Nat} {bs : List Byte} (h : isCtrl sub bs = true) : flitCrcOk bs = true ∧ flitType (flitHeader bs) = 5 := by
  unfold isCtrl at h
  rw [Bool.and_eq_true, Bool.and_eq_true, beq_iff_eq] at h
  exact h.1

/-- A CTRL flit's reception (R318): its ACK, then what it carries. -/
theorem Lnk.receive_ctrl (l : Lnk) (i : Nat) {bs : List Byte} (fec : List Nat) {sub : Nat} (h : isCtrl sub bs = true) (f : Lnk → List Byte → Lnk) :
    (l.setPort i ((l.port.at i).countFec fec)).receive i bs f = f (l.took i bs fec) (flitPayload bs) := by
  obtain ⟨hcrc, hty⟩ := isCtrl_spec h
  unfold Lnk.receive
  dsimp only
  rw [Lnk.setPort_at_self, hcrc, hty, if_neg (by decide : ¬ (!true) = true), if_neg (by decide : ¬ 5 = 7)]
  exact if_pos (by decide)

section
variable {s : State} {i : Nat} (hi : i < 12) (haw : s.ctl.state.awake = true)
include hi haw

theorem State.onCtrl_eq {sub : Nat} {bs : List Byte} (fec : List Nat) (h : isCtrl sub bs = true) (hfl : (s.lnk.port.at i).flits = true) (ok : Port → Bool)
    (f : Lnk → List Byte → Lnk) : s.onCtrl i sub bs fec ok f =
      .next (s.setLnk ((if ok (s.lnk.port.at i) then f else fun l _ => l) (s.lnk.took i bs fec) (flitPayload bs))) := by
  refine (State.onPort_awake hi haw _).trans (congrArg Host.Outcome.next ((if_pos (by rw [h, hfl]; rfl)).trans ?_))
  rw [Lnk.receive_ctrl _ _ _ h]

/-! Negotiation -/

section
variable {flit : List Byte} (fec : List Nat) (hc : isCtrl 5 flit = true) (hst : (s.lnk.port.at i).state = .negotiating)
include hc hst

/-- A partner's CAP as it is noted. -/
def Port.noteCap (p : Port) (pl : List Byte) : Port :=
  { p with seen := true, pVersions := BitVec.ofNat 2 (fieldAt pl 1 1), pNode := BitVec.ofNat 12 (fieldAt pl 2 2), pPort := BitVec.ofNat 4 (fieldAt pl 4 1) }

theorem exec_cap_eq : let pl := flitPayload flit
    let node := BitVec.ofNat 12 (fieldAt pl 2 2)
    let both := (BitVec.ofNat 2 (fieldAt pl 1 1) &&& (s.lnk.port.at i).offer).toNat
    let q := ((s.lnk.port.at i).took flit fec).noteCap pl
    let l := (s.lnk.took i flit fec).setPort i q
    exec (.cap i flit fec) s = .next (s.setLnk (
      if node = s.lnk.nodeId then l.toDown i 8
      else if both = 0 then l.toDown i 7
      else if fieldAt pl 5 1 % 2 = 1 then
        l.setPort i { q.restart with state := .up, version := if 2 ≤ both then 2 else 1, pVersions := q.pVersions, pNode := node, pPort := q.pPort }
      else l)) := by
  intro pl node both q l
  have hfl : (s.lnk.port.at i).flits = true := by
    unfold Port.flits
    rw [hst]
    rfl
  have hneg : ¬ ((s.lnk.took i flit fec).port.at i).state ≠ .negotiating := not_not_intro ((s.lnk.took_state i flit fec i).trans hst)
  obtain ⟨n, m, c, u, h, r, ht⟩ := (s.lnk.port.at i).took_eq flit fec
  have hboth : both = (BitVec.ofNat 2 (fieldAt pl 1 1) &&& ((s.lnk.port.at i).took flit fec).offer).toNat := by rw [ht]
  have hexec : exec (.cap i flit fec) s = .next (s.setLnk ((s.lnk.took i flit fec).onCap i pl)) :=
    (State.onCtrl_eq hi haw fec hc hfl Port.flits _).trans (by rw [hfl]; rfl)
  clear_value both
  rw [hexec, hboth]
  unfold Lnk.onCap
  dsimp only
  rw [if_neg hneg, Lnk.took_at]
  rfl

theorem exec_cap : let p := s.lnk.port.at i
    let pl := flitPayload flit
    let node := BitVec.ofNat 12 (fieldAt pl 2 2)
    let both := (BitVec.ofNat 2 (fieldAt pl 1 1) &&& p.offer).toNat
    (node = s.lnk.nodeId → s.Falls i (.cap i flit fec) 8 0) ∧ (node ≠ s.lnk.nodeId → both = 0 → s.Falls i (.cap i flit fec) 7 0) ∧
    (node ≠ s.lnk.nodeId → both ≠ 0 → ∃ t, exec (.cap i flit fec) s = .next t ∧ s.PortOnly i t ∧ (t.lnk.port.at i).pNode = node ∧
      (t.lnk.port.at i).lanes = p.lanes ∧
      (fieldAt pl 5 1 % 2 = 1 → (t.lnk.port.at i).state = .up ∧ (t.lnk.port.at i).version = (if 2 ≤ both then 2 else 1)) ∧
      (fieldAt pl 5 1 % 2 = 0 → (t.lnk.port.at i).state = .negotiating ∧ (t.lnk.port.at i).seen = true)) := by
  intro p pl node both
  obtain ⟨n, m, c, u, h, r, ht⟩ := (s.lnk.port.at i).took_eq flit fec
  have hexec := exec_cap_eq hi haw fec hc hst
  dsimp only at hexec
  have hstate : ∀ j, (((s.lnk.took i flit fec).setPort i (((s.lnk.port.at i).took flit fec).noteCap pl)).port.at j).state = (s.lnk.port.at j).state := fun j => by
    rw [Lnk.setPort_state, Lnk.took_state]
    rw [Lnk.took_at]
    rfl
  have hne : (s.lnk.port.at i).state ≠ .down := by rw [hst]; exact nofun
  refine ⟨fun hn => ?_, fun hn hb => ?_, fun hn hb => ?_⟩
  · rw [if_pos hn] at hexec
    exact State.falls_of_toDown hi haw hexec hstate hne (by decide)
  · rw [if_neg hn, if_pos hb] at hexec
    exact State.falls_of_toDown hi haw hexec hstate hne (by decide)
  · rw [if_neg hn, if_neg hb] at hexec
    refine ⟨_, hexec, State.portOnly_setLnk fun j hj => ?_, ?_⟩
    · split
      · rw [Lnk.setPort_at_ne _ _ hj, hstate]
      · exact hstate j
    · rw [State.setLnk_lnk, ht]
      by_cases hu : fieldAt pl 5 1 % 2 = 1
      · rw [if_pos hu, Lnk.setPort_at_self]
        exact ⟨rfl, rfl, fun _ => ⟨rfl, rfl⟩, fun h0 => absurd (hu.symm.trans h0) (by decide)⟩
      · rw [if_neg hu, Lnk.setPort_at_self]
        exact ⟨rfl, rfl, fun h1 => absurd h1 hu, fun _ => ⟨hst, rfl⟩⟩

end

/-! Probes -/

section
variable {flit : List Byte} (fec : List Nat) (hc : isCtrl 6 flit = true) (hfl : (s.lnk.port.at i).flits = true)
include hc hfl

theorem exec_probe_eq (echo : Option Nat) : exec (.probe i flit fec echo) s = .next (s.setLnk ((s.lnk.took i flit fec).onProbe i (flitPayload flit) echo)) :=
  (State.onCtrl_eq hi haw fec hc hfl Port.flits _).trans (by rw [hfl]; rfl)

/-- A partner's probe is echoed (R311). -/
theorem exec_probe_partner : ∃ t l, exec (.probe i flit fec none) s = .next t ∧ s.PortOnly i t ∧
    t.lnk.out = s.lnk.out ++ l ++ [(i, (s.lnk.port.at i).flit 5 0 0 (flitPayload flit))] := by
  obtain ⟨n, m, c, u, h, r, ht⟩ := (s.lnk.port.at i).took_eq flit fec
  refine ⟨_, [], exec_probe_eq hi haw fec hc hfl none, State.portOnly_setLnk fun j hj => congrArg Port.state (s.lnk.took_at_ne flit fec hj), ?_⟩
  rw [State.setLnk_lnk, List.append_nil]
  unfold Lnk.onProbe Lnk.sendCtrl
  dsimp only
  rw [Lnk.took_at, ht]
  rfl

/-- The echo of an own probe is timed (R311). -/
theorem exec_probe_echo (ns : Nat) (hph : (s.lnk.port.at i).phase = 5) (he : (s.lnk.port.at i).echoes < 16) :
    ∃ t, exec (.probe i flit fec (some ns)) s = .next t ∧ s.PortOnly i t ∧ (t.lnk.port.at i).echoes = (s.lnk.port.at i).echoes + 1 ∧
      (t.lnk.port.at i).loopNs = BitVec.ofNat 9 (min 511 (max (s.lnk.port.at i).loopNs.toNat ns)) := by
  obtain ⟨n, m, c, u, h, r, ht⟩ := (s.lnk.port.at i).took_eq flit fec
  rw [exec_probe_eq hi haw fec hc hfl]
  unfold Lnk.onProbe
  dsimp only
  rw [Lnk.took_at, ht]
  dsimp only
  rw [if_pos (by rw [hph, decide_eq_true he]; rfl)]
  refine ⟨_, rfl, State.portOnly_setLnk fun j hj => ?_, ?_⟩
  · rw [Lnk.setPort_at_ne _ _ hj, s.lnk.took_at_ne flit fec hj]
  · rw [State.setLnk_lnk, Lnk.setPort_at_self]
    exact ⟨rfl, rfl⟩

end
end

/-- Settles O55. -/
theorem linksTrainAndFall : Obligations.LinksTrainAndFall := by
  unfold Obligations.LinksTrainAndFall
  intro s i hi
  refine ⟨fun v hlive => exec_portEnableWrite hi hlive v, fun haw => ⟨fun inv reqs idx skew hst => ?_, exec_phaseTimeout hi haw, exec_autoRetrain hi haw, exec_capSend hi haw,
    fun flit fec hc hst => exec_cap hi haw fec hc hst, fun flit fec hc hfl => ⟨exec_probe_partner hi haw fec hc hfl,
      fun ns _ hph he => exec_probe_echo hi haw fec hc hfl ns hph he⟩, fun lane => ?_⟩⟩
  · exact ⟨exec_phase1 hi haw hst inv reqs idx skew, exec_phase2 hi haw hst inv reqs idx skew, exec_phase3_tooMany hi haw hst inv reqs idx skew,
      exec_phase3 hi haw hst inv reqs idx skew, exec_phase4_fails hi haw hst inv reqs idx skew, exec_phase4 hi haw hst inv reqs idx skew,
      exec_phase5_waits hi haw hst inv reqs idx skew, exec_phase5_fails hi haw hst inv reqs idx skew, exec_phase5 hi haw hst inv reqs idx skew⟩
  · have hsignal := State.laneFails_falls hi haw (c := .laneSignalLoss i lane) (lane := lane.toNat) (reason := 1) rfl (by decide)
    have halign := State.laneFails_falls hi haw (c := .alignmentLoss i lane) (lane := lane.toNat) (reason := 2) rfl (by decide)
    have hlock := State.laneFails_falls hi haw (c := .lockLoss i lane) (lane := lane.toNat) (reason := 3) rfl (by decide)
    exact ⟨fun hup => ⟨hsignal.1 hup, halign.1 hup, hlock.1 hup⟩, fun hup => ⟨hsignal.2 hup, halign.2 hup, hlock.2 hup⟩⟩

end Sys2Proof.Machine
end

section
/-! SUPPORT. O56: codewords, the receiver's rules, and ABORT. -/

namespace Sys2Proof.Machine

/-! Counting codewords -/

theorem satAdd_toNat {w : Nat} (x : BitVec w) (n : Nat) : (satAdd x n).toNat = min (2 ^ w - 1) (x.toNat + n) := by
  have hx := x.isLt
  unfold satAdd
  split
  · next h =>
    rw [BitVec.toNat_allOnes]
    omega
  · next h =>
    rw [BitVec.toNat_add, BitVec.toNat_ofNat, Nat.add_mod_mod, Nat.mod_eq_of_lt (by omega)]
    omega

theorem satAdd_zero {w : Nat} (x : BitVec w) : satAdd x 0 = x := by
  apply BitVec.eq_of_toNat_eq
  have hx := x.isLt
  rw [satAdd_toNat]
  omega

theorem satAdd_satAdd {w : Nat} (x : BitVec w) (n m : Nat) : satAdd (satAdd x n) m = satAdd x (n + m) := by
  apply BitVec.eq_of_toNat_eq
  rw [satAdd_toNat, satAdd_toNat, satAdd_toNat]
  omega

/-- Whether a codeword with so many wrong symbols counts as corrected (R307). -/
def correctable (e : Nat) : Bool := e != 0 && decide (e ≤ 15)

/-- Each codeword counts once, as corrected or as uncorrectable, or not at all (R307). -/
theorem Port.codeword_eq (p : Port) (e : Nat) : p.codeword e = { p with
    fecCorr := satAdd p.fecCorr (if correctable e then 1 else 0), fecUncorr := satAdd p.fecUncorr (if 15 < e then 1 else 0) } := by
  unfold Port.codeword correctable
  by_cases h0 : e = 0
  · subst h0
    exact Eq.symm (congrArg₂ (fun a b : W32 => { p with fecCorr := a, fecUncorr := b }) (satAdd_zero _) (satAdd_zero _))
  · have hne : (e != 0) = true := bne_iff_ne.mpr h0
    rw [if_neg h0, hne, Bool.true_and]
    by_cases h15 : e ≤ 15
    · rw [if_pos h15, decide_eq_true h15, if_pos rfl, if_neg (by omega), satAdd_zero]
    · rw [if_neg h15, decide_eq_false h15, if_neg (by decide), if_pos (by omega), satAdd_zero]

theorem Port.foldl_codeword (es : List Nat) (p : Port) : es.foldl Port.codeword p = { p with
    fecCorr := satAdd p.fecCorr (es.filter correctable).length, fecUncorr := satAdd p.fecUncorr (es.filter fun e => decide (15 < e)).length } := by
  induction es generalizing p with
  | nil => exact Eq.symm (congrArg₂ (fun a b : W32 => { p with fecCorr := a, fecUncorr := b }) (satAdd_zero _) (satAdd_zero _))
  | cons e es ih =>
    rw [List.foldl_cons, ih, Port.codeword_eq]
    dsimp only
    rw [satAdd_satAdd, satAdd_satAdd, List.filter_cons, List.filter_cons]
    refine congrArg₂ (fun a b : Nat => { p with fecCorr := satAdd p.fecCorr a, fecUncorr := satAdd p.fecUncorr b }) ?_ ?_
    · split
      · rw [List.length_cons, Nat.add_comm]
      · exact Nat.zero_add _
    · by_cases h15 : 15 < e
      · rw [if_pos h15, if_pos (decide_eq_true h15), List.length_cons, Nat.add_comm]
      · rw [if_neg h15, if_neg (by rw [decide_eq_true_eq]; exact h15), Nat.zero_add]

/-- The codewords that end with a flit's slots, and how they count (R307, R333). -/
theorem Port.countFec_counts (q : Port) (errs : List Nat) : ∃ d k, (d = 1 ∨ d = 2) ∧ (q.countFec errs).rxBits + 5140 * k = q.rxBits + 512 * d ∧
    (q.countFec errs).rxBits < 5140 ∧ (q.countFec errs).fecCorr = satAdd q.fecCorr ((errs.take k).filter fun e => e != 0 && decide (e ≤ 15)).length ∧
    (q.countFec errs).fecUncorr = satAdd q.fecUncorr ((errs.take k).filter fun e => decide (15 < e)).length := by
  have hslots : ∀ d, d = 1 ∨ d = 2 → q.passSlot = ({ q with rxSlot := (q.rxSlot + d) % 257, rxBits := (q.rxBits + d * 512) % 5140 }, (q.rxBits + d * 512) / 5140) →
      ∃ d k, (d = 1 ∨ d = 2) ∧ (q.countFec errs).rxBits + 5140 * k = q.rxBits + 512 * d ∧ (q.countFec errs).rxBits < 5140 ∧
        (q.countFec errs).fecCorr = satAdd q.fecCorr ((errs.take k).filter fun e => e != 0 && decide (e ≤ 15)).length ∧
        (q.countFec errs).fecUncorr = satAdd q.fecUncorr ((errs.take k).filter fun e => decide (15 < e)).length := fun d hd hpass => by
    refine ⟨d, (q.rxBits + d * 512) / 5140, hd, ?_⟩
    unfold Port.countFec
    rw [hpass]
    dsimp only
    rw [Port.foldl_codeword]
    refine ⟨?_, Nat.mod_lt _ (by decide), rfl, rfl⟩
    exact (Nat.mod_add_div _ _).trans (by rw [Nat.mul_comm])
  by_cases h : q.rxSlot % 257 = 0
  · exact hslots 2 (.inr rfl) (by unfold Port.passSlot alignEvery; rw [if_pos h]; rfl)
  · exact hslots 1 (.inl rfl) (by unfold Port.passSlot alignEvery; rw [if_neg h]; rfl)

/-! Receiving -/

/-- What a flit leaves of the receiver's side of a port before it is accepted: only its codewords and the sender's replay buffer change. -/
theorem Port.took_receiver (p : Port) (bs : List Byte) (fec : List Nat) : (p.took bs fec).expected = p.expected ∧
    (p.took bs fec).nakPending = p.nakPending ∧ (p.took bs fec).rx = p.rx ∧ (p.took bs fec).state = p.state := by
  obtain ⟨n, m, c, u, h, r, ht⟩ := p.took_eq bs fec
  rw [ht]
  exact ⟨rfl, rfl, rfl, rfl⟩

/-- A port that asks for a resend: once, until a flit in order comes (R318). -/
theorem Lnk.nakOnce_at (l : Lnk) (i : Nat) : (l.nakOnce i).port.at i = { l.port.at i with nakPending := true } := by
  unfold Lnk.nakOnce
  dsimp only
  split
  · next h =>
    rw [← h]
  · exact Lnk.setPort_at_self ..

theorem Lnk.nakOnce_state (l : Lnk) (i j : Nat) : ((l.nakOnce i).port.at j).state = (l.port.at j).state := by
  unfold Lnk.nakOnce
  dsimp only
  split
  · rfl
  · exact Lnk.setPort_state _ _ _ (by rfl) j

theorem Lnk.nakOnce_out (l : Lnk) (i : Nat) (h : (l.port.at i).nakPending = true) : (l.nakOnce i).out = l.out := by
  unfold Lnk.nakOnce
  dsimp only
  rw [if_pos h]

/-- A flit whose CRC fails is counted and asked for again (R317, R318). -/
theorem Lnk.receive_bad (l : Lnk) (i : Nat) {bs : List Byte} (h : flitCrcOk bs = false) (f : Lnk → List Byte → Lnk) :
    l.receive i bs f = (l.setPort i { l.port.at i with crcErr := satAdd (l.port.at i).crcErr 1 }).nakOnce i := by
  unfold Lnk.receive
  dsimp only
  rw [h]
  exact if_pos (by decide)

/-- A sequenced type is none of the others. -/
theorem isSequenced_ne {t : Nat} (h : isSequenced t = true) : t ≠ 7 ∧ t ≠ 5 := by
  constructor <;> rintro rfl <;> exact absurd h (by decide)

section
variable (l : Lnk) (i : Nat) {bs : List Byte} (fec : List Nat) (hcrc : flitCrcOk bs = true) (hseq : isSequenced (flitType (flitHeader bs)) = true)
include hcrc hseq

/-- A sequenced flit's reception (R318), its ACK taken first. -/
theorem Lnk.receive_sequenced (f : Lnk → List Byte → Lnk) : (l.setPort i ((l.port.at i).countFec fec)).receive i bs f =
    if flitSeq (flitHeader bs) = (l.port.at i).expected.toNat then
      ((l.took i bs fec).setPort i { (l.port.at i).took bs fec with expected := (l.port.at i).expected + 1, nakPending := false }).accept i
        (flitType (flitHeader bs)) (flitVc (flitHeader bs)) (flitPayload bs)
    else (l.took i bs fec).nakOnce i := by
  obtain ⟨hexp, -, -, -⟩ := (l.port.at i).took_receiver bs fec
  rw [← hexp, ← Lnk.took_at]
  unfold Lnk.receive
  dsimp only
  rw [Lnk.setPort_at_self, hcrc, if_neg (by decide : ¬ (!true) = true), if_neg (isSequenced_ne hseq).1, hseq, if_neg (by decide : ¬ (!true) = true)]
  rfl

end

/-! Accepting -/

theorem Lnk.free_state (l : Lnk) (i vc n j : Nat) : ((l.free i vc n).port.at j).state = (l.port.at j).state := by
  unfold Lnk.free
  dsimp only
  split
  · rfl
  · exact Lnk.setPort_state _ _ _ (by rfl) j

/-- What a port keeps of its receiver while flits go out on it. -/
def Port.SameRx (p q : Port) : Prop := q.expected = p.expected ∧ q.rx = p.rx ∧ q.state = p.state

/-- A flit that follows its head leaves every port's receiver. -/
theorem Lnk.forward_rx (l : Lnk) (o : Nat) (f : TxFlit) (i : Nat) : (l.port.at i).SameRx ((l.forward o f).port.at i) := by
  by_cases hi : i = o
  · subst hi
    have hend : ∀ (m : Lnk) (pid : Nat), (m.port.at i).SameRx ((m.endPacket i pid).port.at i) := fun m pid => by
      unfold Lnk.endPacket
      dsimp only
      split
      · rw [Lnk.setPort_at_self]
        exact ⟨rfl, rfl, rfl⟩
      · exact ⟨rfl, rfl, rfl⟩
    unfold Lnk.forward
    dsimp only
    split
    · unfold Lnk.sendFlits
      dsimp only
      rw [Lnk.setPort_at_self, Lnk.setPort_at_self]
      exact ⟨rfl, rfl, rfl⟩
    · obtain ⟨hexp, hrx, hst⟩ := hend ((l.setPort i { l.port.at i with
        openPids := (l.port.at i).openPids.map fun x => if x.pid == f.pid then { x with left := x.left - 1 } else x }).sendFlits i [f]) f.pid
      refine ⟨hexp.trans ?_, hrx.trans ?_, hst.trans ?_⟩ <;>
      · unfold Lnk.sendFlits
        rw [Lnk.setPort_at_self, Lnk.setPort_at_self]
  · rw [l.forward_at_ne f hi]
    exact ⟨rfl, rfl, rfl⟩

theorem Lnk.free_at (l : Lnk) (i vc n : Nat) : ∃ c, (l.free i vc n).port.at i = { l.port.at i with freed := c } := by
  unfold Lnk.free
  dsimp only
  split
  · exact ⟨_, rfl⟩
  · rw [Lnk.setPort_at_self]
    exact ⟨_, rfl⟩

/-- An ABORT leaves the port's receiver but for what waits on its VC, and every port's state (R318, R331). -/
theorem Lnk.accept_abort (l : Lnk) (i vc : Nat) (pl : List Byte) : ((l.accept i 6 vc pl).port.at i).expected = (l.port.at i).expected ∧
    ∀ j, ((l.accept i 6 vc pl).port.at j).state = (l.port.at j).state := by
  have hput : ∀ (m : Lnk) (ks : List RxPkt), (m.port.at i).expected = (l.port.at i).expected → (∀ j, (m.port.at j).state = (l.port.at j).state) →
      ((m.setPort i { m.port.at i with rx := (m.port.at i).rx.put vc ks }).port.at i).expected = (l.port.at i).expected ∧
      ∀ j, ((m.setPort i { m.port.at i with rx := (m.port.at i).rx.put vc ks }).port.at j).state = (l.port.at j).state := fun m ks he hs => by
    refine ⟨?_, fun j => (Lnk.setPort_state _ _ _ (by rfl) j).trans (hs j)⟩
    rw [Lnk.setPort_at_self]
    exact he
  have hfree : ∀ (m : Lnk) (n : Nat), (m.port.at i).expected = (l.port.at i).expected ∧ (∀ j, (m.port.at j).state = (l.port.at j).state) →
      ((m.free i vc n).port.at i).expected = (l.port.at i).expected ∧ ∀ j, ((m.free i vc n).port.at j).state = (l.port.at j).state := fun m n h => by
    obtain ⟨he, hs⟩ := h
    obtain ⟨c, hc⟩ := m.free_at i vc n
    refine ⟨?_, fun j => (m.free_state i vc n j).trans (hs j)⟩
    rw [hc]
    exact he
  unfold Lnk.accept
  dsimp only
  rw [if_neg (by decide)]
  split
  · exact ⟨rfl, fun _ => rfl⟩
  · next k _ =>
    split
    · exact ⟨rfl, fun _ => rfl⟩
    · split
      · exact hfree _ _ (hput l _ rfl fun _ => rfl)
      · split
        · next o ovc _ =>
          rw [if_neg (by decide)]
          obtain ⟨he, hs⟩ := hfree _ 1 ⟨(l.forward_rx o { type := 6, vc := ovc, payload := pl, pid := k.pid } i).1, l.forward_state o _⟩
          exact hput _ _ he hs
        · rw [if_pos rfl]
          exact hfree _ _ (hput l _ rfl fun _ => rfl)

/-- An ABORT ends the packet that was arriving and had not left (R331). -/
theorem Lnk.accept_abort_rx (l : Lnk) (i vc : Nat) (pl : List Byte) {k : RxPkt} (hk : ((l.port.at i).rx.at vc).getLast? = some k) (hdone : k.done = false)
    (hdrop : k.drop = false) (hout : k.out = none) : ((l.accept i 6 vc pl).port.at i).rx.at vc = ((l.port.at i).rx.at vc).dropLast := by
  unfold Lnk.accept
  dsimp only
  rw [if_neg (by decide), hk]
  dsimp only
  rw [hdone, if_neg (by decide), hdrop, if_neg (by decide), hout]
  dsimp only
  rw [if_pos (by decide : (6 : Nat) = 6)]
  obtain ⟨c, hc⟩ := (l.setPort i { l.port.at i with rx := (l.port.at i).rx.put vc ((l.port.at i).rx.at vc).dropLast }).free_at i vc (k.flits.length + 1)
  rw [hc, Lnk.setPort_at_self]
  exact Sparse.at_put_self ..

end Sys2Proof.Machine
end

section
/-! SUPPORT. O56: flits as they arrive. -/

namespace Sys2Proof.Machine

/-- The flit layer of a port in UP runs (R309). -/
theorem Port.flits_of_up {p : Port} (h : p.state = .up) : p.flits = true := by
  unfold Port.flits
  rw [h]
  rfl

/-- What one counter of a CREDIT flit brings back (R321). -/
def Port.credited (c : Nat → BitVec 16) (p : Port) (vc : Nat) : Port :=
  { p with used := p.used.mod vc fun u => u - (c vc - p.pFreed.at vc).toNat, pFreed := p.pFreed.put vc (c vc) }

/-- Each virtual channel's counter acts once (R321). -/
theorem Port.foldl_credited (c : Nat → BitVec 16) (p : Port) (n vc : Nat) :
    ((List.range n).foldl (Port.credited c) p).used.at vc = (if vc < n then p.used.at vc - (c vc - p.pFreed.at vc).toNat else p.used.at vc) ∧
    ((List.range n).foldl (Port.credited c) p).pFreed.at vc = if vc < n then c vc else p.pFreed.at vc := by
  induction n with
  | zero => exact ⟨rfl, rfl⟩
  | succ n ih =>
    obtain ⟨hused, hfreed⟩ := ih
    rw [List.range_succ, List.foldl_append, List.foldl_cons, List.foldl_nil]
    unfold Port.credited
    by_cases hn : vc = n
    · subst hn
      rw [if_neg (Nat.lt_irrefl _)] at hused hfreed
      rw [if_pos (Nat.lt_succ_self _), if_pos (Nat.lt_succ_self _), Sparse.at_mod_self, Sparse.at_put_self]
      unfold Port.credited at hused hfreed
      rw [hused, hfreed]
      exact ⟨rfl, rfl⟩
    · rw [Sparse.at_mod_ne _ _ hn, Sparse.at_put_ne _ _ hn]
      unfold Port.credited at hused hfreed
      rw [hused, hfreed]
      have hlt : vc < n + 1 ↔ vc < n := by omega
      exact ⟨if_congr hlt.symm rfl rfl, if_congr hlt.symm rfl rfl⟩

section
variable {s : State} {i : Nat} (hi : i < 12) (haw : s.ctl.state.awake = true) {flit : List Byte} (fec : List Nat)
include hi haw

/-- Whether an intact flit has a command of its own (R316), so that LINK_FLIT_RECEIVE leaves it alone. -/
def ofItsOwn (flit : List Byte) : Bool :=
  (flitType (flitHeader flit) == 5 && decide (1 ≤ fieldAt (flitPayload flit) 0 1 ∧ fieldAt (flitPayload flit) 0 1 ≤ 6)) || flitType (flitHeader flit) == 6

theorem exec_linkFlitReceive_eq : exec (.linkFlitReceive i flit fec) s = .next (
    let p := s.lnk.port.at i
    if !p.flits || (flitCrcOk flit && ofItsOwn flit) then s
    else
      let l := s.lnk.setPort i (p.countFec fec)
      if flitCrcOk flit && isSequenced (flitType (flitHeader flit)) && p.state != .up then s.setLnk l
      else
        let s := s.setLnk (l.receive i flit fun l _ => l)
        if flitCrcOk flit then s else s.report { cls := .link, sev := .corrected, unit := i }) :=
  (State.onPort_awake hi haw _ : execLinkFlitReceive i flit fec s = _).trans rfl

/-- No flit is received before the flit layer runs (R309). -/
theorem exec_linkFlitReceive_early (hfl : (s.lnk.port.at i).flits = false) : exec (.linkFlitReceive i flit fec) s = .next s :=
  (exec_linkFlitReceive_eq hi haw fec).trans (congrArg Host.Outcome.next (if_pos (by rw [hfl]; rfl)))

/-- A flit whose CRC fails (R317, R318, R521). -/
theorem exec_linkFlitReceive_bad (hfl : (s.lnk.port.at i).flits = true) (hcrc : flitCrcOk flit = false) : let p := s.lnk.port.at i
    ∃ t r, exec (.linkFlitReceive i flit fec) s = .next t ∧ (t.lnk.port.at i).crcErr = satAdd p.crcErr 1 ∧ (t.lnk.port.at i).nakPending = true ∧
      (t.lnk.port.at i).expected = p.expected ∧ (t.lnk.port.at i).rx = p.rx ∧ (p.nakPending = true → t.lnk.out = s.lnk.out) ∧
      (t.lnk.port.at i).fecCorr = (p.countFec fec).fecCorr ∧ (t.lnk.port.at i).fecUncorr = (p.countFec fec).fecUncorr ∧
      t.flt.reports = Report.enter r s.flt.reports ∧ r.cls = .link ∧ r.sev = .corrected ∧ r.unit = i ∧ t.mem = s.mem := by
  intro p
  obtain ⟨n, m, c, u, hc⟩ := p.countFec_eq fec
  have hexec : exec (.linkFlitReceive i flit fec) s = .next ((s.setLnk ((s.lnk.setPort i (p.countFec fec)).receive i flit fun l _ => l)).report
      { cls := .link, sev := .corrected, unit := i }) := by
    refine (exec_linkFlitReceive_eq hi haw fec).trans (congrArg Host.Outcome.next ?_)
    dsimp only
    rw [hfl, hcrc, Bool.false_and, Bool.false_and, Bool.false_and, if_neg (by decide), if_neg (by decide), if_neg (by decide)]
  have hstate : ∀ j, (((s.lnk.setPort i (p.countFec fec)).receive i flit fun l _ => l).port.at j).state = (s.lnk.port.at j).state := fun j => by
    rw [Lnk.receive_bad _ _ hcrc, Lnk.nakOnce_state, Lnk.setPort_state _ _ _ (by rfl), Lnk.setPort_state]
    rw [hc]
  rw [hexec, State.setLnk_same s _ 0 hstate, Lnk.receive_bad _ _ hcrc, Lnk.setPort_at_self]
  obtain ⟨q, hq, hcls, hsev, -, hunit, -, -⟩ := State.report_tells (s := { s with
    lnk := ((s.lnk.setPort i (p.countFec fec)).setPort i { p.countFec fec with crcErr := satAdd (p.countFec fec).crcErr 1 }).nakOnce i })
    { cls := .link, sev := .corrected, unit := i } haw
  refine ⟨_, q, rfl, ?_⟩
  rw [hq]
  dsimp only
  rw [Lnk.nakOnce_at, Lnk.setPort_at_self, hc]
  refine ⟨rfl, rfl, rfl, rfl, fun hn => ?_, rfl, rfl, rfl, hcls, hsev, hunit, rfl⟩
  exact Lnk.nakOnce_out _ _ (by rw [Lnk.setPort_at_self]; exact hn)

section
variable (hcrc : flitCrcOk flit = true) (hup : (s.lnk.port.at i).state = .up)
include hcrc hup

/-- A sequenced flit other than ABORT arrives on a port in UP. -/
theorem exec_linkFlitReceive_sequenced (hseq : isSequenced (flitType (flitHeader flit)) = true) (h6 : flitType (flitHeader flit) ≠ 6) :
    exec (.linkFlitReceive i flit fec) s = .next (s.setLnk ((s.lnk.setPort i ((s.lnk.port.at i).countFec fec)).receive i flit fun l _ => l)) := by
  have hown : ofItsOwn flit = false := by
    unfold ofItsOwn
    rw [beq_eq_false_iff_ne.mpr (isSequenced_ne hseq).2, beq_eq_false_iff_ne.mpr h6]
    rfl
  have hbusy : ((s.lnk.port.at i).state != .up) = false := by rw [hup]; rfl
  refine (exec_linkFlitReceive_eq hi haw fec).trans (congrArg Host.Outcome.next ?_)
  dsimp only
  rw [Port.flits_of_up hup, hown, hbusy, Bool.and_false, Bool.and_false, if_neg (by decide), if_neg (by decide), if_pos hcrc]

/-- A SINGLE flit in order reaches its buffer (R318, R323). -/
theorem exec_linkFlitReceive_single (hord : flitSeq (flitHeader flit) = (s.lnk.port.at i).expected.toNat) (h4 : flitType (flitHeader flit) = 4) :
    let p := s.lnk.port.at i
    let h := flitHeader flit
    ∃ t, exec (.linkFlitReceive i flit fec) s = .next t ∧ (t.lnk.port.at i).expected = p.expected + 1 ∧ (t.lnk.port.at i).nakPending = false ∧
      (t.lnk.port.at i).rx.at (flitVc h) = p.rx.at (flitVc h) ++ [{ flits := [flitPayload flit], done := true }] ∧ t.flt = s.flt ∧ t.mem = s.mem := by
  intro p h
  have hseq : isSequenced (flitType (flitHeader flit)) = true := by rw [h4]; rfl
  obtain ⟨-, -, hrx, hst⟩ := p.took_receiver flit fec
  have haccept : (s.lnk.setPort i (p.countFec fec)).receive i flit (fun l _ => l) = ((s.lnk.took i flit fec).setPort i { p.took flit fec with
      expected := p.expected + 1, nakPending := false }).setPort i { p.took flit fec with
      expected := p.expected + 1, nakPending := false, rx := p.rx.put (flitVc h) (p.rx.at (flitVc h) ++ [{ flits := [flitPayload flit], done := true }]) } := by
    rw [Lnk.receive_sequenced s.lnk i fec hcrc hseq, if_pos hord, h4]
    unfold Lnk.accept
    dsimp only
    rw [if_pos (by decide), Lnk.setPort_at_self]
    dsimp only
    rw [hrx]
    rfl
  have hstate : ∀ j, (((s.lnk.setPort i (p.countFec fec)).receive i flit (fun l _ => l)).port.at j).state = (s.lnk.port.at j).state := fun j => by
    rw [haccept, Lnk.setPort_state, Lnk.setPort_state, Lnk.took_state]
    · rw [Lnk.took_at]
    · rw [Lnk.setPort_at_self]
  refine ⟨_, (exec_linkFlitReceive_sequenced hi haw fec hcrc hup hseq (by rw [h4]; decide)).trans (congrArg Host.Outcome.next (State.setLnk_same s _ 0 hstate)), ?_⟩
  dsimp only
  rw [haccept, Lnk.setPort_at_self]
  exact ⟨rfl, rfl, Sparse.at_put_self .., rfl, rfl⟩

/-- A flit out of order only asks again (R318). -/
theorem exec_linkFlitReceive_outOfOrder (hord : flitSeq (flitHeader flit) ≠ (s.lnk.port.at i).expected.toNat)
    (hseq : isSequenced (flitType (flitHeader flit)) = true) (h6 : flitType (flitHeader flit) ≠ 6) : let p := s.lnk.port.at i
    ∃ t, exec (.linkFlitReceive i flit fec) s = .next t ∧ (t.lnk.port.at i).expected = p.expected ∧ (t.lnk.port.at i).nakPending = true ∧
      (t.lnk.port.at i).rx = p.rx ∧ t.flt = s.flt := by
  intro p
  obtain ⟨hexp, -, hrx, -⟩ := p.took_receiver flit fec
  have hnak : (s.lnk.setPort i (p.countFec fec)).receive i flit (fun l _ => l) = (s.lnk.took i flit fec).nakOnce i := by
    rw [Lnk.receive_sequenced s.lnk i fec hcrc hseq, if_neg hord]
  have hstate : ∀ j, (((s.lnk.setPort i (p.countFec fec)).receive i flit (fun l _ => l)).port.at j).state = (s.lnk.port.at j).state := fun j => by
    rw [hnak, Lnk.nakOnce_state, Lnk.took_state]
  refine ⟨_, (exec_linkFlitReceive_sequenced hi haw fec hcrc hup hseq h6).trans (congrArg Host.Outcome.next (State.setLnk_same s _ 0 hstate)), ?_⟩
  dsimp only
  rw [hnak, Lnk.nakOnce_at, Lnk.took_at]
  exact ⟨hexp, rfl, hrx, rfl⟩

/-- An ABORT in order (R331). -/
theorem exec_abort_inOrder (h6 : flitType (flitHeader flit) = 6) (hord : flitSeq (flitHeader flit) = (s.lnk.port.at i).expected.toNat) :
    let p := s.lnk.port.at i
    ∃ t, exec (.abort i flit fec) s = .next t ∧ (t.lnk.port.at i).expected = p.expected + 1 ∧
      (∀ k, (p.rx.at (flitVc (flitHeader flit))).getLast? = some k → k.done = false → k.drop = false → k.out = none →
        (t.lnk.port.at i).rx.at (flitVc (flitHeader flit)) = (p.rx.at (flitVc (flitHeader flit))).dropLast) := by
  intro p
  obtain ⟨-, -, hrx, hst⟩ := p.took_receiver flit fec
  have hexec : exec (.abort i flit fec) s = .next (s.setLnk (((s.lnk.took i flit fec).setPort i { p.took flit fec with
      expected := p.expected + 1, nakPending := false }).accept i 6 (flitVc (flitHeader flit)) (flitPayload flit))) := by
    refine (State.onPort_awake hi haw _ : execAbort i flit fec s = _).trans (congrArg Host.Outcome.next ?_)
    dsimp only
    rw [if_pos (by rw [hcrc, h6, Port.flits_of_up hup]; rfl), if_pos hup, Lnk.receive_sequenced s.lnk i fec hcrc (by rw [h6]; rfl), if_pos hord, h6]
  rw [hexec]
  refine ⟨_, rfl, ?_⟩
  rw [State.setLnk_lnk, (Lnk.accept_abort ..).1, Lnk.setPort_at_self]
  refine ⟨rfl, fun k hk hdone hdrop hout => ?_⟩
  rw [Lnk.accept_abort_rx (k := k) _ _ _ _ (by rw [Lnk.setPort_at_self]; exact hrx ▸ hk) hdone hdrop hout, Lnk.setPort_at_self]
  exact congrArg (fun r : Sparse (List RxPkt) => (r.at (flitVc (flitHeader flit))).dropLast) hrx

end

/-! CTRL flits on a port in UP -/

section
variable (hup : (s.lnk.port.at i).state = .up)
include hup

/-- A CTRL flit of a port in UP acts after its ACK (R318). -/
theorem State.onCtrl_up {sub : Nat} (hc : isCtrl sub flit = true) (f : Lnk → List Byte → Lnk) :
    s.onCtrl i sub flit fec (fun p => p.state == .up) f = .next (s.setLnk (f (s.lnk.took i flit fec) (flitPayload flit))) := by
  rw [State.onCtrl_eq hi haw fec hc (Port.flits_of_up hup), hup]
  rfl

/-- The oldest flit asked for a fourth time takes the port down; else the flits from it on go again (R318, R319). -/
theorem exec_nak (hc : isCtrl 1 flit = true) : let q := (s.lnk.took i flit fec).port.at i
    let e := fieldAt (flitPayload flit) 2 2 % 4096
    q.held.any (fun x => x.1.toNat == e) = true →
    let again := (q.held.head?.map fun x => x.1.toNat) = some e ∧ 3 ≤ q.resends
    (again → ∃ t, exec (.nak i flit fec) s = .next t ∧ (t.lnk.port.at i).state = .down ∧ (t.lnk.port.at i).downReason = 4) ∧
    (¬ again → ∃ t, exec (.nak i flit fec) s = .next t ∧ (t.lnk.port.at i).state = .up ∧ (t.lnk.port.at i).replay = satAdd q.replay 1 ∧
      (t.lnk.port.at i).held = q.held) := by
  intro q e hany again
  have hexec : exec (.nak i flit fec) s = .next (s.setLnk ((s.lnk.took i flit fec).onNak i (flitPayload flit))) := State.onCtrl_up hi haw fec hup hc _
  have hcond : ((q.held.head?.map fun x => x.1.toNat) == some e && decide (3 ≤ q.resends)) = true ↔ again := by
    rw [Bool.and_eq_true, beq_iff_eq, decide_eq_true_eq]
  rw [hexec]
  refine ⟨fun h => ⟨_, rfl, ?_⟩, fun h => ⟨_, rfl, ?_⟩⟩
  · have hnak : (s.lnk.took i flit fec).onNak i (flitPayload flit) = (s.lnk.took i flit fec).toDown i 4 := by
      unfold Lnk.onNak
      exact (if_pos hany).trans (if_pos (hcond.mpr h))
    rw [State.setLnk_lnk, hnak]
    exact ⟨(Lnk.toDown_state ..).trans (if_pos rfl), (Lnk.toDown_port ..).2⟩
  · have hnak : (s.lnk.took i flit fec).onNak i (flitPayload flit) = (s.lnk.took i flit fec).resendFrom i e := by
      unfold Lnk.onNak
      exact (if_pos hany).trans (if_neg fun hc => h (hcond.mp hc))
    rw [State.setLnk_lnk, hnak]
    unfold Lnk.resendFrom
    dsimp only
    rw [Lnk.setPort_at_self]
    exact ⟨((s.lnk.took_state i flit fec i).trans hup :), rfl, rfl⟩

/-- The credits that come back: by what each counter of the partner's has moved on (R316, R321). -/
theorem exec_credit (hc : isCtrl 2 flit = true) : let q := (s.lnk.took i flit fec).port.at i
    let pl := flitPayload flit
    ∃ t, exec (.credit i flit fec) s = .next t ∧ ∀ vc < 8,
      (t.lnk.port.at i).used.at vc = q.used.at vc - (BitVec.ofNat 16 (fieldAt pl (2 + 2 * vc) 2) - q.pFreed.at vc).toNat ∧
      (t.lnk.port.at i).pFreed.at vc = BitVec.ofNat 16 (fieldAt pl (2 + 2 * vc) 2) := by
  intro q pl
  have hexec : exec (.credit i flit fec) s = .next (s.setLnk ((s.lnk.took i flit fec).onCredit i pl)) := State.onCtrl_up hi haw fec hup hc _
  have hport : ((s.lnk.took i flit fec).onCredit i pl).port.at i = (List.range 8).foldl (Port.credited fun vc => BitVec.ofNat 16 (fieldAt pl (2 + 2 * vc) 2)) q :=
    Lnk.setPort_at_self ..
  refine ⟨_, hexec, fun vc hvc => ?_⟩
  obtain ⟨hused, hfreed⟩ := q.foldl_credited (fun vc => BitVec.ofNat 16 (fieldAt pl (2 + 2 * vc) 2)) 8 vc
  rw [State.setLnk_lnk, hport, hused, hfreed, if_pos hvc, if_pos hvc]
  exact ⟨rfl, rfl⟩

/-- A TIME_REQ is answered (R328). -/
theorem exec_timeReq (hc : isCtrl 3 flit = true) : let l := s.lnk.took i flit fec
    let q := l.port.at i
    ∃ t, exec (.timeReq i flit fec) s = .next t ∧ t = { s with lnk := t.lnk } ∧ t.lnk.out = l.out ++
      [(i, q.flit 5 0 0 (bytesOf 1 4 ++ bytesOf 1 0 ++ bytesOf 2 (fieldAt (flitPayload flit) 2 2) ++ stampBytes q.version s.tmr.t64 ++ stampBytes q.version s.tmr.t64))] := by
  intro l q
  have hexec : exec (.timeReq i flit fec) s = .next (s.setLnk (l.onTimeReq i (flitPayload flit) s.tmr.t64)) := State.onCtrl_up hi haw fec hup hc _
  exact ⟨_, hexec.trans (congrArg Host.Outcome.next (State.setLnk_same s _ 0 (s.lnk.took_state i flit fec))), rfl, rfl⟩

end
end

end Sys2Proof.Machine
end

section
/-! SUPPORT. O56: time transfer, flits before UP, the resend timer, flits sent, and the obligation. -/

namespace Sys2Proof.Machine

/-- A whole number of units that fits is kept exactly (R329). -/
theorem halfReg_signed {x : Int} (free : W64) (h2 : x % 2 = 0) (hlo : -(2 ^ 31) ≤ x / 2) (hhi : x / 2 < 2 ^ 31) : halfReg true x free = BitVec.ofInt 32 (x / 2) := by
  unfold halfReg
  dsimp only
  rw [if_pos (rfl : true = true), if_pos (by rw [decide_eq_true h2, decide_eq_true ⟨hlo, hhi⟩]; rfl)]

theorem halfReg_unsigned {x : Int} (free : W64) (h2 : x % 2 = 0) (hlo : 0 ≤ x) (hhi : x / 2 < 2 ^ 32) : halfReg false x free = BitVec.ofInt 32 (x / 2) := by
  unfold halfReg
  dsimp only
  rw [if_neg (by decide : ¬ false = true), if_pos (by rw [decide_eq_true h2, decide_eq_true ⟨hlo, hhi⟩]; rfl)]

/-- A CTRL flit whose content a port does not act on brings its ACK only (R318). -/
theorem State.setLnk_took (s : State) (i : Nat) (flit : List Byte) (fec : List Nat) : s.setLnk (s.lnk.took i flit fec) = { s with lnk := s.lnk.took i flit fec } := State.setLnk_same s _ 0 (s.lnk.took_state i flit fec)

/-- A flit whose codewords alone count (R307). -/
theorem State.setLnk_countFec (s : State) (i : Nat) (fec : List Nat) : s.setLnk (s.lnk.setPort i ((s.lnk.port.at i).countFec fec)) = { s with lnk := s.lnk.setPort i ((s.lnk.port.at i).countFec fec) } := by
  obtain ⟨n, m, c, u, hc⟩ := (s.lnk.port.at i).countFec_eq fec
  exact State.setLnk_setPort (.inl (by rw [hc]))

/-- A flit goes out and the port notes it, keeping its state. -/
theorem State.setLnk_sent (s : State) (i : Nat) (bs : List Byte) (q : Port) (h : q.state = (s.lnk.port.at i).state) :
    s.setLnk { s.lnk with out := s.lnk.out ++ [(i, bs)], port := s.lnk.port.put i q } =
      { s with lnk := { s.lnk with out := s.lnk.out ++ [(i, bs)], port := s.lnk.port.put i q } } :=
  State.setLnk_same s _ 0 (s.lnk.setPort_state i q h)

section
variable {s : State} {i : Nat} (hi : i < 12) (haw : s.ctl.state.awake = true)
include hi haw

section
variable {flit : List Byte} (fec : List Nat)

/-- What a TIME_RESP leaves: its results, and on the source port the servo's measurement (R329, R370). -/
theorem exec_timeResp_eq (hc : isCtrl 4 flit = true) (hfl : (s.lnk.port.at i).flits = true) : exec (.timeResp i flit fec) s = .next (
    let l := s.lnk.took i flit fec
    match (if (s.lnk.port.at i).state = .up then l.timeResult i (flitPayload flit) s.tmr.t64 else none) with
    | none => { s with lnk := l }
    | some (o, d) =>
      let off := halfReg true o s.freeW
      let t := (({ s with lnk := l } : State).setLnk (l.onTimeResp i off (halfReg false d (Config.freeWord (s.free + 1))))).drawn 2
      if t.tmr.source = 2 && t.tmr.port.toNat = i then
        (t.setTmr (t.tmr.linkMeasure t.ctl.state.jumps (s.lnk.port.at i).period.toNat off.toInt t.freeW)).drawn
      else t) := by
  refine (State.onPort_awake hi haw _ : execTimeResp i flit fec s = _).trans (congrArg Host.Outcome.next ?_)
  dsimp only
  rw [if_pos (by rw [hc, hfl]; rfl), Lnk.receive_ctrl _ _ _ hc, State.setLnk_took]
  rfl

theorem exec_timeResp_none (hc : isCtrl 4 flit = true) (hup : (s.lnk.port.at i).state = .up)
    (h : (s.lnk.took i flit fec).timeResult i (flitPayload flit) s.tmr.t64 = none) :
    exec (.timeResp i flit fec) s = .next { s with lnk := s.lnk.took i flit fec } := by
  rw [exec_timeResp_eq hi haw fec hc (Port.flits_of_up hup)]
  dsimp only
  rw [if_pos hup, h]

theorem exec_timeResp_some (hc : isCtrl 4 flit = true) (hup : (s.lnk.port.at i).state = .up) {o d : Int}
    (h : (s.lnk.took i flit fec).timeResult i (flitPayload flit) s.tmr.t64 = some (o, d)) :
    ∃ t, exec (.timeResp i flit fec) s = .next t ∧ (t.lnk.port.at i).ttT1 = none ∧
      (o % 2 = 0 → -(2 ^ 31) ≤ o / 2 → o / 2 < 2 ^ 31 → (t.lnk.port.at i).ttOffset = BitVec.ofInt 32 (o / 2)) ∧
      (d % 2 = 0 → 0 ≤ d → d / 2 < 2 ^ 32 → (t.lnk.port.at i).ttDelay = BitVec.ofInt 32 (d / 2)) := by
  rw [exec_timeResp_eq hi haw fec hc (Port.flits_of_up hup)]
  dsimp only
  rw [if_pos hup, h]
  dsimp only
  have hport : ∀ t : State, t.lnk = (s.lnk.took i flit fec).onTimeResp i (halfReg true o s.freeW) (halfReg false d (Config.freeWord (s.free + 1))) →
      (t.lnk.port.at i).ttT1 = none ∧
      (o % 2 = 0 → -(2 ^ 31) ≤ o / 2 → o / 2 < 2 ^ 31 → (t.lnk.port.at i).ttOffset = BitVec.ofInt 32 (o / 2)) ∧
      (d % 2 = 0 → 0 ≤ d → d / 2 < 2 ^ 32 → (t.lnk.port.at i).ttDelay = BitVec.ofInt 32 (d / 2)) := fun t ht => by
    rw [ht]
    unfold Lnk.onTimeResp
    dsimp only
    rw [Lnk.setPort_at_self]
    exact ⟨rfl, halfReg_signed _, halfReg_unsigned _⟩
  refine ⟨_, rfl, hport _ ?_⟩
  split
  · exact Eq.trans (by rw [State.drawn, State.setTmr_frame]; rfl) (State.setLnk_lnk { s with lnk := s.lnk.took i flit fec } _ 0)
  · exact State.setLnk_lnk ..

/-! Before UP -/

section
variable (hfl : (s.lnk.port.at i).flits = true) (hup : (s.lnk.port.at i).state ≠ .up)
include hfl hup

/-- A CTRL flit of a port not in UP only brings its ACK (R307, R318). -/
theorem State.onCtrl_early {sub : Nat} (hc : isCtrl sub flit = true) (f : Lnk → List Byte → Lnk) :
    s.onCtrl i sub flit fec (fun p => p.state == .up) f = .next { s with lnk := s.lnk.took i flit fec } := by
  rw [State.onCtrl_eq hi haw fec hc hfl, beq_eq_false_iff_ne.mpr hup]
  exact congrArg Host.Outcome.next (State.setLnk_took ..)

theorem exec_timeResp_early (hc : isCtrl 4 flit = true) : exec (.timeResp i flit fec) s = .next { s with lnk := s.lnk.took i flit fec } := by
  rw [exec_timeResp_eq hi haw fec hc hfl]
  dsimp only
  rw [if_neg hup]

theorem exec_abort_early (hcrc : flitCrcOk flit = true) (h6 : flitType (flitHeader flit) = 6) :
    exec (.abort i flit fec) s = .next { s with lnk := s.lnk.setPort i ((s.lnk.port.at i).countFec fec) } := by
  refine (State.onPort_awake hi haw _ : execAbort i flit fec s = _).trans (congrArg Host.Outcome.next ?_)
  dsimp only
  rw [if_pos (by rw [hcrc, h6, hfl]; rfl), if_neg hup]
  exact State.setLnk_countFec ..

theorem exec_linkFlitReceive_early_sequenced (hcrc : flitCrcOk flit = true) (h6 : flitType (flitHeader flit) ≠ 6)
    (hseq : isSequenced (flitType (flitHeader flit)) = true) :
    exec (.linkFlitReceive i flit fec) s = .next { s with lnk := s.lnk.setPort i ((s.lnk.port.at i).countFec fec) } := by
  have hown : ofItsOwn flit = false := by
    unfold ofItsOwn
    rw [beq_eq_false_iff_ne.mpr (isSequenced_ne hseq).2, beq_eq_false_iff_ne.mpr h6]
    rfl
  refine (exec_linkFlitReceive_eq hi haw fec).trans (congrArg Host.Outcome.next ?_)
  dsimp only
  rw [hfl, hown, Bool.and_false, if_neg (by decide), if_pos (by rw [hcrc, hseq, bne_iff_ne.mpr hup]; rfl)]
  exact State.setLnk_countFec ..

end
end

/-! The resend timer -/

section
variable (hup : (s.lnk.port.at i).state = .up) {q : BitVec 12} {f : TxFlit} {r : List (BitVec 12 × TxFlit)} (hheld : (s.lnk.port.at i).held = (q, f) :: r)
include hup hheld

theorem exec_resendTimer_eq : exec (.resendTimerExpiry i) s = .next (s.setLnk (
    if 3 ≤ (s.lnk.port.at i).resends then s.lnk.toDown i 4 else s.lnk.resendFrom i q.toNat)) := by
  refine (State.onPort_awake hi haw _ : execResendTimerExpiry i s = _).trans (congrArg (fun l => Host.Outcome.next (s.setLnk l)) ?_)
  unfold Lnk.onResendTimer
  dsimp only
  rw [hheld]
  exact if_neg (not_not_intro hup)

theorem exec_resendTimer_exhausted (h : 3 ≤ (s.lnk.port.at i).resends) :
    ∃ t, exec (.resendTimerExpiry i) s = .next t ∧ (t.lnk.port.at i).state = .down ∧ (t.lnk.port.at i).downReason = 4 := by
  rw [exec_resendTimer_eq hi haw hup hheld, if_pos h]
  refine ⟨_, rfl, ?_⟩
  rw [State.setLnk_lnk]
  exact ⟨(Lnk.toDown_state ..).trans (if_pos rfl), (Lnk.toDown_port ..).2⟩

theorem exec_resendTimer_resends (h : (s.lnk.port.at i).resends < 3) : let p := s.lnk.port.at i
    ∃ t, exec (.resendTimerExpiry i) s = .next t ∧ (t.lnk.port.at i).resends = p.resends + 1 ∧ (t.lnk.port.at i).replay = satAdd p.replay 1 ∧
      t.lnk.out = s.lnk.out ++ p.held.map fun x => (i, p.flit x.2.type x.2.vc x.1.toNat x.2.payload) := by
  intro p
  rw [exec_resendTimer_eq hi haw hup hheld, if_neg (by omega)]
  refine ⟨_, rfl, ?_⟩
  rw [State.setLnk_lnk]
  have hall : p.held.dropWhile (fun x => x.1.toNat != q.toNat) = p.held := by
    rw [hheld]
    exact List.dropWhile_cons_of_neg (by rw [bne_self_eq_false]; decide)
  have holdest : (match p.held with | (x, _) :: _ => x.toNat == q.toNat | [] => false) = true := by
    rw [hheld]
    exact beq_self_eq_true _
  unfold Lnk.resendFrom
  dsimp only
  rw [Lnk.setPort_at_self, hall]
  exact ⟨if_pos holdest, rfl, rfl⟩

end

/-! Flits sent -/

theorem exec_idleFlitSend (hfl : (s.lnk.port.at i).flits = true) : exec (.idleFlitSend i) s =
    .next { s with lnk := { s.lnk with out := s.lnk.out ++ [(i, (s.lnk.port.at i).flit 0 0 0 [])] } } := by
  refine (State.onPort_awake hi haw _ : execIdleFlitSend i s = _).trans (congrArg Host.Outcome.next ((if_pos hfl).trans ?_))
  exact State.setLnk_same s _ 0 fun _ => rfl

theorem exec_creditFlitSend (hup : (s.lnk.port.at i).state = .up) : let p := s.lnk.port.at i
    exec (.creditFlitSend i) s = .next { s with lnk := { s.lnk with
      out := s.lnk.out ++ [(i, p.flit 5 0 0 (bytesOf 1 2 ++ bytesOf 1 0 ++ (List.range 8).flatMap fun vc => bytesOf 2 (p.freed.at vc).toNat))]
      port := s.lnk.port.put i { p with told := p.freed } } } :=
  (State.onPort_awake hi haw _ : execCreditFlitSend i s = _).trans (congrArg Host.Outcome.next ((if_pos hup).trans (State.setLnk_sent _ _ _ _ (by rfl))))

theorem exec_timeReqSend (hup : (s.lnk.port.at i).state = .up) (htt : (s.lnk.port.at i).ttEn = true) : let p := s.lnk.port.at i
    exec (.timeReqSend i) s = .next { s with lnk := { s.lnk with
      out := s.lnk.out ++ [(i, p.flit 5 0 0 (bytesOf 1 3 ++ bytesOf 1 0 ++ bytesOf 2 (p.ttId + 1).toNat ++ stampBytes p.version s.tmr.t64))]
      port := s.lnk.port.put i { p with ttId := p.ttId + 1, ttT1 := some (stampOf p.version s.tmr.t64) } } } :=
  (State.onPort_awake hi haw _ : execTimeReqSend i s = _).trans (congrArg Host.Outcome.next
    ((if_pos (by rw [hup, htt]; rfl)).trans (State.setLnk_sent _ _ _ _ (by rfl))))

end

/-- Settles O56. -/
theorem flitsAndRetry : Obligations.FlitsAndRetry := by
  unfold Obligations.FlitsAndRetry
  intro s i hi haw p sends
  refine ⟨fun q n errs => ⟨rfl, q.countFec_counts errs⟩, fun flit fec hfl => ⟨exec_linkFlitReceive_bad hi haw fec hfl, exec_linkFlitReceive_single hi haw fec,
      exec_linkFlitReceive_outOfOrder hi haw fec⟩, fun hfl flit fec => exec_linkFlitReceive_early hi haw fec hfl,
    fun flit fec hcrc h6 hup hord => exec_abort_inOrder hi haw fec hcrc hup h6 hord, fun flit fec hup => ?_, fun flit fec hfl hup => ?_,
    fun q f r hup hheld => ⟨exec_resendTimer_exhausted hi haw hup hheld, exec_resendTimer_resends hi haw hup hheld⟩,
    exec_idleFlitSend hi haw, exec_creditFlitSend hi haw, exec_timeReqSend hi haw⟩
  · exact ⟨exec_nak hi haw fec hup, exec_credit hi haw fec hup, exec_timeReq hi haw fec hup,
      fun hc => ⟨exec_timeResp_none hi haw fec hc hup, fun _ _ => exec_timeResp_some hi haw fec hc hup⟩⟩
  · have hctrl {sub : Nat} (hc : isCtrl sub flit = true) := State.onCtrl_early hi haw fec hfl hup hc
    exact ⟨fun hc => hctrl hc _, fun hc => hctrl hc _, fun hc => hctrl hc _, exec_timeResp_early hi haw fec hfl hup,
      exec_abort_early hi haw fec hfl hup, exec_linkFlitReceive_early_sequenced hi haw fec hfl hup⟩

end Sys2Proof.Machine
end

section
/-! SUPPORT. O57: what the router finds for a head, and what it does to a port. -/

namespace Sys2Proof.Machine

/-! Judging a head -/

/-- A head that has been looked up keeps its output (R324). -/
theorem Lnk.judge_wanted (l : Lnk) (i : Nat) (head : List Byte) (vc o v : Nat) : l.judge i head vc (some (o, v)) =
    if headDst head = l.nodeId.toNat then .deliver
    else if plenLimit (l.port.at o).version < headPlen head then .dropSize
    else if !(l.port.at o).open' v || !l.myTurn o v i then .hold o v false
    else if (l.port.at o).used.at v + packetLen (headPlen head) ≤ 160 then .send o v false else .wait o v false := by
  unfold Lnk.judge
  rw [Option.isNone_some, Bool.false_and, if_neg (by decide : ¬ false = true)]

/-- So it is not dropped for want of a route or for its hops, and it goes nowhere else (R324). -/
theorem Lnk.judge_keeps_want (l : Lnk) (i : Nat) (head : List Byte) (vc o v : Nat) : l.judge i head vc (some (o, v)) ≠ .dropRoute ∧
    l.judge i head vc (some (o, v)) ≠ .dropHop ∧ ∀ o' v' alt, (l.judge i head vc (some (o, v)) = .send o' v' alt ∨
      l.judge i head vc (some (o, v)) = .wait o' v' alt ∨ l.judge i head vc (some (o, v)) = .hold o' v' alt) → o' = o ∧ v' = v := by
  rw [Lnk.judge_wanted]
  split
  · exact ⟨nofun, nofun, nofun⟩
  · split
    · exact ⟨nofun, nofun, nofun⟩
    · split
      · refine ⟨nofun, nofun, fun o' v' alt h => ?_⟩
        obtain h | h | h := h
        · exact nomatch h
        · exact nomatch h
        · cases h
          exact ⟨rfl, rfl⟩
      · split
        · refine ⟨nofun, nofun, fun o' v' alt h => ?_⟩
          obtain h | h | h := h
          · cases h
            exact ⟨rfl, rfl⟩
          · exact nomatch h
          · exact nomatch h
        · refine ⟨nofun, nofun, fun o' v' alt h => ?_⟩
          obtain h | h | h := h
          · exact nomatch h
          · cases h
            exact ⟨rfl, rfl⟩
          · exact nomatch h

/-- A head leaves only on an output VC that is open, at its input's turn (R318, R322). -/
theorem Lnk.judge_send {l : Lnk} {i : Nat} {head : List Byte} {vc : Nat} {want : Option (Nat × Nat)} {o v : Nat} {alt : Bool}
    (h : l.judge i head vc want = .send o v alt) : (l.port.at o).open' v = true ∧ l.myTurn o v i = true := by
  unfold Lnk.judge at h
  split at h
  · exact nomatch h
  · split at h
    · exact nomatch h
    · split at h
      · exact nomatch h
      · dsimp only at h
        split at h
        · exact nomatch h
        · split at h
          · exact nomatch h
          · next hopen =>
            rw [Bool.or_eq_true, not_or, Bool.not_eq_true', Bool.not_eq_true', Bool.not_eq_false, Bool.not_eq_false] at hopen
            split at h
            · cases h
              exact hopen
            · exact nomatch h

/-- An open output VC has no flit waiting (R318). -/
theorem Port.txq_of_open {p : Port} {v : Nat} (h : p.open' v = true) : p.txq.at v = [] := by
  unfold Port.open' at h
  rw [Bool.and_eq_true, Bool.and_eq_true] at h
  exact List.isEmpty_iff.mp h.1.2

/-- No other input that waits for an output VC comes before the one whose turn it is (R322). -/
theorem Lnk.myTurn_spec {l : Lnk} {o v i : Nat} (h : l.myTurn o v i = true) {j vj : Nat} (hj : j < 13) (hvj : vj < 8) (hw : l.wanted j vj = some (o, v)) :
    (i + 13 - (l.port.at o).turn.at v % 13) % 13 ≤ (j + 13 - (l.port.at o).turn.at v % 13) % 13 := by
  unfold Lnk.myTurn at h
  have hall := List.all_eq_true.mp h j (List.mem_range.mpr hj)
  rw [Bool.or_eq_true, decide_eq_true_eq] at hall
  refine hall.resolve_right fun hno => ?_
  have := List.all_eq_true.mp hno vj (List.mem_range.mpr hvj)
  rw [hw, bne_self_eq_false] at this
  exact nomatch this

/-! Slots of an output port -/

/-- The flit an output port sends next is at the front of its VC, and no VC before it in the turn has one (R322). -/
theorem Port.nextTx_spec {p : Port} {vc : Nat} {f : TxFlit} {r : List TxFlit} (h : p.nextTx = some (vc, f, r)) : p.txq.at vc = f :: r ∧
    ∀ v < 8, p.txq.at v ≠ [] → (vc + 8 - p.txNext % 8) % 8 ≤ (v + 8 - p.txNext % 8) % 8 := by
  unfold Port.nextTx at h
  rw [List.findSome?_map, List.findSome?_eq_some_iff] at h
  obtain ⟨before, j, after, hsplit, hj, hbefore⟩ := h
  have hget : ∀ n ≤ before.length, n < 8 → (before ++ j :: after)[n]? = some n := fun n _ h8 => by
    rw [← hsplit]
    exact List.getElem?_range h8
  have hlt : before.length < 8 := by
    have := congrArg List.length hsplit
    rw [List.length_range, List.length_append, List.length_cons] at this
    omega
  have hlen : before.length = j := by
    have hj' := hget _ (Nat.le_refl _) hlt
    rw [List.getElem?_append_right (Nat.le_refl _), Nat.sub_self] at hj'
    exact (Option.some.inj hj').symm
  rw [Function.comp_apply] at hj
  split at hj
  · next f' r' hq =>
    obtain ⟨rfl, rfl, rfl⟩ : (p.txNext + j) % 8 = vc ∧ f' = f ∧ r' = r := by
      cases hj
      exact ⟨rfl, rfl, rfl⟩
    refine ⟨hq, fun v hv hne => ?_⟩
    by_contra hlater
    have hmem : (v + 8 - p.txNext % 8) % 8 ∈ before := by
      have hin := hget ((v + 8 - p.txNext % 8) % 8) (by omega) (by omega)
      rw [List.getElem?_append_left (by omega)] at hin
      exact List.mem_of_getElem? hin
    have hnone := hbefore _ hmem
    rw [Function.comp_apply, show (p.txNext + (v + 8 - p.txNext % 8) % 8) % 8 = v by omega] at hnone
    split at hnone
    · exact nomatch hnone
    · next hnil => exact hne hnil
  · exact nomatch hj

/-- One slot of a port that may send (R318, R322). -/
theorem Lnk.serve_spec (l : Lnk) {o vc : Nat} {f : TxFlit} {r : List TxFlit} (h : (l.port.at o).nextTx = some (vc, f, r)) (hup : (l.port.at o).state = .up)
    (hroom : (l.port.at o).held.length < 1024) : let p := l.port.at o
    (l.serve o).out = l.out ++ [(o, p.flit f.type f.vc p.seqNext.toNat f.payload)] ∧ (l.serve o).port.at o =
      { p with txq := p.txq.put vc r, txNext := (vc + 1) % 8, held := p.held ++ [(p.seqNext, f)], seqNext := p.seqNext + 1 } := by
  intro p
  have hcond : ¬ ((decide (p.state ≠ .up) || decide (1024 ≤ p.held.length)) = true) := by
    rw [decide_eq_false (not_not_intro hup), decide_eq_false (Nat.not_le.mpr hroom)]
    decide
  unfold Lnk.serve
  dsimp only
  rw [if_neg hcond, h]
  exact ⟨rfl, Lnk.setPort_at_self ..⟩

/-- A packet's last flit gives back the credits of flits it never sent (R321). -/
theorem Lnk.endPacket_used {l : Lnk} {o pid : Nat} {x : OpenPkt} (h : (l.port.at o).openPids.find? (fun y => y.pid == pid) = some x) :
    ((l.endPacket o pid).port.at o).used.at x.vc = (l.port.at o).used.at x.vc - x.left := by
  unfold Lnk.endPacket
  dsimp only
  rw [h]
  dsimp only
  rw [Lnk.setPort_at_self]
  exact Sparse.at_mod_self (l.port.at o).used x.vc (· - x.left)

/-! A packet onto an output -/

/-- Flits of one VC go behind what waits on it (R322). -/
theorem foldl_txq (vc : Nat) (fs : List TxFlit) (t : Sparse (List TxFlit)) (h : ∀ f ∈ fs, f.vc = vc) :
    (fs.foldl (fun q f => q.mod f.vc fun l => l ++ [f]) t).at vc = t.at vc ++ fs := by
  induction fs generalizing t with
  | nil => exact (List.append_nil _).symm
  | cons f fs ih =>
    rw [List.foldl_cons, ih _ fun g hg => h g (List.mem_cons_of_mem _ hg), h f List.mem_cons_self, Sparse.at_mod_self, List.append_assoc]
    rfl

theorem flitTypes_length (n : Nat) (done : Bool) : (flitTypes n done).length = n := by
  unfold flitTypes
  rw [List.length_map, List.length_range]

/-- What an output port holds of what goes out on it (R321, R322). -/
def Port.SameTx (p q : Port) : Prop := q.used = p.used ∧ q.turn = p.turn ∧ q.txq = p.txq

/-- A packet queued on an output: its credits, its turn and its flits, and every port's state as it was (R321, R322). -/
theorem Lnk.sendPacket_spec (l : Lnk) (i o vc : Nat) (fl : List (List Byte)) (done : Bool) (h : (l.port.at o).txq.at vc = []) :
    let r := l.sendPacket i o vc fl done
    (r.1.port.at o).used.at vc = (l.port.at o).used.at vc + (if done then fl.length else packetLen (headPlen (fl.headD []))) ∧
    (r.1.port.at o).turn.at vc = (i + 1) % 13 ∧ ((r.1.port.at o).txq.at vc).map (·.payload) = fl ∧ r.1 = { l with port := r.1.port } ∧
    ∀ j, (r.1.port.at j).state = (l.port.at j).state := by
  intro r
  have hstate : ∀ j, (r.1.port.at j).state = (l.port.at j).state := fun j => by
    refine (Lnk.sendFlits_state ..).trans ?_
    exact Lnk.setPort_state _ _ _ (by rfl) j
  have hport : ∃ x, r.1.port.at o = x ∧ x.used = (l.port.at o).used.mod vc (· + if done then fl.length else packetLen (headPlen (fl.headD []))) ∧
      x.turn = (l.port.at o).turn.put vc ((i + 1) % 13) ∧ x.txq = ((fl.zip (flitTypes fl.length done)).map fun x => ({
        type := x.2, vc := vc, payload := x.1, pid := (l.port.at o).nextPid } : TxFlit)).foldl (fun q f => q.mod f.vc fun l => l ++ [f]) (l.port.at o).txq := by
    refine ⟨_, rfl, ?_⟩
    unfold r Lnk.sendPacket Lnk.sendFlits
    dsimp only
    rw [Lnk.setPort_at_self, Lnk.setPort_at_self]
    exact ⟨rfl, rfl, rfl⟩
  obtain ⟨x, hx, hused, hturn, htxq⟩ := hport
  rw [hx, hused, hturn, htxq]
  refine ⟨Sparse.at_mod_self .., Sparse.at_put_self .., ?_, rfl, hstate⟩
  rw [foldl_txq vc _ _ fun f hf => by obtain ⟨y, -, rfl⟩ := List.mem_map.mp hf; rfl, h, List.nil_append, List.map_map]
  refine (List.map_fst_zip ?_ : ((fl.zip (flitTypes fl.length done)).map Prod.fst) = fl)
  rw [flitTypes_length]

end Sys2Proof.Machine
end

section
/-! SUPPORT. O57: the router's commands, delivery, and the obligation. -/

namespace Sys2Proof.Machine

/-- An input buffer's VC replaced. -/
def Lnk.putRx (l : Lnk) (i vc : Nat) (ks : List RxPkt) : Lnk := l.setPort i { l.port.at i with rx := (l.port.at i).rx.put vc ks }

theorem Lnk.putRx_state (l : Lnk) (i vc : Nat) (ks : List RxPkt) (j : Nat) : ((l.putRx i vc ks).port.at j).state = (l.port.at j).state :=
  Lnk.setPort_state _ _ _ (by rfl) j

theorem Lnk.putRx_rx (l : Lnk) (i vc : Nat) (ks : List RxPkt) : ((l.putRx i vc ks).port.at i).rx.at vc = ks := by
  unfold Lnk.putRx
  rw [Lnk.setPort_at_self]
  exact Sparse.at_put_self ..

/-- What waits in an input says nothing of what goes out. -/
theorem Lnk.putRx_tx (l : Lnk) (i vc : Nat) (ks : List RxPkt) (o : Nat) : (l.port.at o).SameTx ((l.putRx i vc ks).port.at o) := by
  unfold Lnk.putRx
  by_cases h : o = i
  · subst h
    rw [Lnk.setPort_at_self]
    exact ⟨rfl, rfl, rfl⟩
  · rw [Lnk.setPort_at_ne _ _ h]
    exact ⟨rfl, rfl, rfl⟩

theorem Lnk.free_frame (l : Lnk) (i vc n : Nat) : l.free i vc n = { l with port := (l.free i vc n).port } := by
  unfold Lnk.free
  dsimp only
  split <;> rfl

theorem Lnk.free_tx (l : Lnk) (i vc n o : Nat) : (l.port.at o).SameTx ((l.free i vc n).port.at o) := by
  unfold Lnk.free
  dsimp only
  split
  · exact ⟨rfl, rfl, rfl⟩
  · by_cases h : o = i
    · subst h
      rw [Lnk.setPort_at_self]
      exact ⟨rfl, rfl, rfl⟩
    · rw [Lnk.setPort_at_ne _ _ h]
      exact ⟨rfl, rfl, rfl⟩

/-- What the router does with a head that is neither gone nor dropped, by its verdict (R323, R324). -/
def Lnk.routeHead (l : Lnk) (i vc : Nat) (k : RxPkt) (rest : List RxPkt) : Verdict → Lnk
  | .deliver => if k.done then { (l.putRx i vc rest).free i vc k.flits.length with localQ := l.localQ ++ [packetOf vc k.flits] } else l
  | .send o v alt =>
    let r := l.sendPacket i o v (setHops (k.flits.headD []) (headHops (k.flits.headD []) + 1) :: k.flits.drop 1) k.done
    Lnk.putRx { r.1.free i vc k.flits.length with altUsed := r.1.altUsed || alt } i vc
      (if k.done then rest else { k with flits := [], out := some (o, v), pid := r.2 } :: rest)
  | .wait o v alt => { l.putRx i vc ({ k with want := some (o, v) } :: rest) with altUsed := l.altUsed || alt }
  | .hold o v alt => { l.putRx i vc ({ k with want := some (o, v) } :: rest) with altUsed := l.altUsed || alt }
  | v => ((l.countDrop v).putRx i vc (if k.done then rest else { k with flits := [], drop := true } :: rest)).free i vc k.flits.length

theorem Lnk.routeRx_eq {l : Lnk} {i vc : Nat} {k : RxPkt} {rest : List RxPkt} (hks : (l.port.at i).rx.at vc = k :: rest) (hout : k.out = none)
    (hdrop : k.drop = false) : l.routeRx i vc = l.routeHead i vc k rest (l.judge i (k.flits.headD []) vc k.want) := by
  unfold Lnk.routeRx
  dsimp only
  rw [hks]
  dsimp only
  rw [if_neg (by rw [hout, hdrop]; decide)]
  generalize l.judge i (k.flits.headD []) vc k.want = v
  cases v <;> rfl

/-- Nothing of the table is read amiss. -/
theorem table_reads {pa b : Bool} (h : pa = false ∨ b = false) : ¬ (pa && b) = true := by
  obtain h | h := h
  · rw [h]
    exact Bool.false_ne_true
  · rw [h, Bool.and_false]
    exact Bool.false_ne_true

/-- What is told of a MAIL_SEND whose packet's head has left or is dropped (R483). -/
def State.toldEntry (s : State) (e : Option Entry) (code : Code) : State :=
  match e with
  | some e => s.complete e code
  | none => s

/-- Changes of the link block that leave every port. -/
theorem State.setLnk_ports (s : State) (l : Lnk) (h : l.port = s.lnk.port) : s.setLnk l = { s with lnk := l } := State.setLnk_same s l 0 fun j => by rw [h]

section
variable {s : State} (haw : s.ctl.state.awake = true)
include haw

/-! A head at the front of an input buffer -/

/-- Where its table is read well, the front of a port's buffer is routed (R324). -/
theorem exec_packetRoute_rx {i : Nat} (hi : i < 12) (vc : BitVec 3) {pa : Bool} (hpa : pa = false ∨ s.lnk.looks i vc.toNat = false) :
    exec (.packetRoute i vc pa) s = .next (s.setLnk (s.lnk.routeRx i vc.toNat)) := by
  exact congrArg Host.Outcome.next ((if_neg (by rw [haw]; decide)).trans ((if_neg (table_reads hpa)).trans (if_pos hi)))

/-- A parity error of the route table (R521). -/
theorem exec_packetRoute_parity {i : Nat} (vc : BitVec 3) (h : s.lnk.looks i vc.toNat = true) : ∃ t r, exec (.packetRoute i vc true) s = .next t ∧
    t.flt.reports = Report.enter r s.flt.reports ∧ r.cls = .control ∧ r.sev = .chip ∧ r.detail = 1 ∧ t = { s with flt := t.flt } := by
  have hexec : exec (.packetRoute i vc true) s = .next (s.report { cls := .control, sev := .chip, detail := 1 }) :=
    congrArg Host.Outcome.next ((if_neg (by rw [haw]; decide)).trans (if_pos (by rw [h]; rfl)))
  obtain ⟨q, hq, hcls, hsev, -, -, -, hdetail⟩ := State.report_tells (s := s) { cls := .control, sev := .chip, detail := 1 } haw
  refine ⟨_, q, hexec, ?_⟩
  rw [hq]
  exact ⟨rfl, hcls, hsev, hdetail, rfl⟩

section
variable {i : Nat} (hi : i < 12) {vc : BitVec 3} {k : RxPkt} {rest : List RxPkt} (hks : (s.lnk.port.at i).rx.at vc.toNat = k :: rest) (hout : k.out = none)
  (hdrop : k.drop = false)

include hi hks hout hdrop

/-- The front packet's head acts by its verdict. -/
theorem exec_packetRoute_head {pa : Bool} (hpa : pa = false ∨ s.lnk.looks i vc.toNat = false) {v : Verdict}
    (hv : s.lnk.judge i (k.flits.headD []) vc.toNat k.want = v) :
    exec (.packetRoute i vc pa) s = .next (s.setLnk (s.lnk.routeHead i vc.toNat k rest v)) := by
  rw [exec_packetRoute_rx haw hi vc hpa, Lnk.routeRx_eq hks hout hdrop, hv]

variable {pa : Bool} (hpa : pa = false ∨ s.lnk.looks i vc.toNat = false)
include hpa

/-- A packet for this node that is all in goes to the local port (R323). -/
theorem exec_packetRoute_deliver (hv : s.lnk.judge i (k.flits.headD []) vc.toNat k.want = .deliver) (hdone : k.done = true) :
    ∃ t, exec (.packetRoute i vc pa) s = .next t ∧ t.lnk.localQ = s.lnk.localQ ++ [packetOf vc.toNat k.flits] ∧
      (t.lnk.port.at i).rx.at vc.toNat = rest ∧ (t.lnk.port.at i).freed.at vc.toNat = (s.lnk.port.at i).freed.at vc.toNat + BitVec.ofNat 16 k.flits.length ∧
      t = { s with lnk := t.lnk } := by
  have hhead : s.lnk.routeHead i vc.toNat k rest .deliver =
      { (s.lnk.putRx i vc.toNat rest).free i vc.toNat k.flits.length with localQ := s.lnk.localQ ++ [packetOf vc.toNat k.flits] } := if_pos hdone
  have hstate : ∀ j, ((s.lnk.routeHead i vc.toNat k rest .deliver).port.at j).state = (s.lnk.port.at j).state := fun j => by
    rw [hhead]
    exact (Lnk.free_state ..).trans (Lnk.putRx_state ..)
  refine ⟨_, (exec_packetRoute_head haw hi hks hout hdrop hpa hv).trans (congrArg Host.Outcome.next (State.setLnk_same s _ 0 hstate)), ?_⟩
  dsimp only
  rw [hhead]
  have hfree : ((s.lnk.putRx i vc.toNat rest).free i vc.toNat k.flits.length).port.at i = { s.lnk.port.at i with
      rx := (s.lnk.port.at i).rx.put vc.toNat rest, freed := (s.lnk.port.at i).freed.mod vc.toNat fun c => c + BitVec.ofNat 16 k.flits.length } := by
    unfold Lnk.free Lnk.putRx
    dsimp only
    rw [if_neg (by omega), Lnk.setPort_at_self, Lnk.setPort_at_self]
  rw [hfree]
  exact ⟨rfl, Sparse.at_put_self .., Sparse.at_mod_self (s.lnk.port.at i).freed vc.toNat (· + BitVec.ofNat 16 k.flits.length), rfl⟩

/-- A head with a route and credits leaves, its credits taken, at its input's turn (R321, R322, R324). -/
theorem exec_packetRoute_send {o ovc : Nat} {alt : Bool} (hv : s.lnk.judge i (k.flits.headD []) vc.toNat k.want = .send o ovc alt) :
    let head := k.flits.headD []
    ∃ t, exec (.packetRoute i vc pa) s = .next t ∧ t.lnk.localQ = s.lnk.localQ ∧
      (t.lnk.port.at o).used.at ovc = (s.lnk.port.at o).used.at ovc +
        (if k.done then 1 + (k.flits.length - 1) else packetLen (headPlen (setHops head (headHops head + 1)))) ∧
      (t.lnk.port.at o).turn.at ovc = (i + 1) % 13 ∧ t.lnk.out = s.lnk.out ∧
      ((t.lnk.port.at o).txq.at ovc).map (·.payload) = setHops head (headHops head + 1) :: k.flits.drop 1 ∧
      t.lnk.altUsed = (s.lnk.altUsed || alt) ∧ t = { s with lnk := t.lnk } := by
  intro head
  obtain ⟨hused, hturn, htxq, hframe, hst⟩ := s.lnk.sendPacket_spec i o ovc (setHops head (headHops head + 1) :: k.flits.drop 1) k.done
    (Port.txq_of_open (Lnk.judge_send hv).1)
  generalize hr : s.lnk.sendPacket i o ovc (setHops head (headHops head + 1) :: k.flits.drop 1) k.done = r at hused hturn htxq hframe hst
  have hhead : s.lnk.routeHead i vc.toNat k rest (.send o ovc alt) = Lnk.putRx { r.1.free i vc.toNat k.flits.length with altUsed := r.1.altUsed || alt } i vc.toNat
      (if k.done then rest else { k with flits := [], out := some (o, ovc), pid := r.2 } :: rest) := by
    rw [← hr]
    rfl
  have hstate : ∀ j, ((s.lnk.routeHead i vc.toNat k rest (.send o ovc alt)).port.at j).state = (s.lnk.port.at j).state := fun j => by
    rw [hhead]
    exact (Lnk.putRx_state ..).trans ((Lnk.free_state ..).trans (hst j))
  refine ⟨_, (exec_packetRoute_head haw hi hks hout hdrop hpa hv).trans (congrArg Host.Outcome.next (State.setLnk_same s _ 0 hstate)), ?_⟩
  dsimp only
  rw [hhead]
  obtain ⟨hu1, ht1, hq1⟩ := r.1.free_tx i vc.toNat k.flits.length o
  obtain ⟨hu2, ht2, hq2⟩ := Lnk.putRx_tx { r.1.free i vc.toNat k.flits.length with altUsed := r.1.altUsed || alt } i vc.toNat
    (if k.done then rest else { k with flits := [], out := some (o, ovc), pid := r.2 } :: rest) o
  rw [hu2, ht2, hq2]
  dsimp only
  rw [hu1, ht1, hq1, hused, hturn, htxq]
  refine ⟨?_, ?_, rfl, ?_, rfl, ?_, rfl⟩
  · unfold Lnk.putRx Lnk.setPort
    rw [r.1.free_frame, hframe]
  · rw [List.length_cons, List.length_drop, Nat.add_comm 1]
    rfl
  · unfold Lnk.putRx Lnk.setPort
    rw [r.1.free_frame, hframe]
  · unfold Lnk.putRx Lnk.setPort
    rw [hframe]

/-- A head dropped is counted with its flag (R323, R324). -/
theorem exec_packetRoute_drop {v : Verdict} (hv : s.lnk.judge i (k.flits.headD []) vc.toNat k.want = v) (hd : v = .dropRoute ∨ v = .dropHop) :
    ∃ t, exec (.packetRoute i vc pa) s = .next t ∧ t.lnk.dropCnt = satAdd s.lnk.dropCnt 1 ∧ (v = .dropRoute → t.lnk.noRoute = true) ∧
      (v = .dropHop → t.lnk.hopLimit = true) ∧ t.lnk.localQ = s.lnk.localQ := by
  have hhead : s.lnk.routeHead i vc.toNat k rest v =
      ((s.lnk.countDrop v).putRx i vc.toNat (if k.done then rest else { k with flits := [], drop := true } :: rest)).free i vc.toNat k.flits.length := by
    obtain rfl | rfl := hd <;> rfl
  refine ⟨_, exec_packetRoute_head haw hi hks hout hdrop hpa hv, ?_⟩
  rw [State.setLnk_lnk, hhead, Lnk.free_frame]
  obtain rfl | rfl := hd
  · exact ⟨rfl, fun _ => rfl, nofun, rfl⟩
  · exact ⟨rfl, nofun, fun _ => rfl, rfl⟩

/-- A head that must wait keeps what it was looked up for (R322, R324). -/
theorem exec_packetRoute_stay {o ovc : Nat} {alt : Bool} (hv : s.lnk.judge i (k.flits.headD []) vc.toNat k.want = .wait o ovc alt ∨
      s.lnk.judge i (k.flits.headD []) vc.toNat k.want = .hold o ovc alt) :
    ∃ t, exec (.packetRoute i vc pa) s = .next t ∧ (t.lnk.port.at i).rx.at vc.toNat = { k with want := some (o, ovc) } :: rest ∧
      t.lnk.localQ = s.lnk.localQ ∧ t.lnk.out = s.lnk.out ∧ t.lnk.dropCnt = s.lnk.dropCnt ∧ t = { s with lnk := t.lnk } := by
  have hexec : exec (.packetRoute i vc pa) s = .next (s.setLnk { s.lnk.putRx i vc.toNat ({ k with want := some (o, ovc) } :: rest) with
      altUsed := s.lnk.altUsed || alt }) := by
    obtain h | h := hv
    · exact exec_packetRoute_head haw hi hks hout hdrop hpa h
    · exact exec_packetRoute_head haw hi hks hout hdrop hpa h
  exact ⟨_, hexec.trans (congrArg Host.Outcome.next (State.setLnk_same s _ 0 fun j => s.lnk.putRx_state ..)), Lnk.putRx_rx .., rfl, rfl, rfl, rfl⟩

end

/-! The local input -/

section
variable {vc : BitVec 3} {pa : Bool} (hpa : pa = false ∨ s.lnk.looks 12 vc.toNat = false)
include hpa

theorem exec_packetRoute_local : exec (.packetRoute 12 vc pa) s = .next (match (s.lnk.routeLocal vc.toNat).2 with
    | some (x, left) => (s.setLnk (s.lnk.routeLocal vc.toNat).1).toldEntry x.entry (if left then .success else .address)
    | none => s.setLnk (s.lnk.routeLocal vc.toNat).1) :=
  congrArg Host.Outcome.next ((if_neg (by rw [haw]; decide)).trans ((if_neg (table_reads hpa)).trans ((if_neg (by decide)).trans (if_pos rfl))))

/-- A packet gone from the local input, to the local port or dropped: what becomes of its MAIL_SEND (R483). -/
theorem exec_packetRoute_gone {l : Lnk} {x : Inject} {left : Bool} (h : s.lnk.routeLocal vc.toNat = (l, some (x, left))) (hl : l.port = s.lnk.port) :
    exec (.packetRoute 12 vc pa) s = .next (({ s with lnk := l } : State).toldEntry x.entry (if left then .success else .address)) := by
  rw [exec_packetRoute_local haw hpa, h]
  dsimp only
  rw [State.setLnk_ports s l hl]

variable {x : Inject} {rest : List Inject} (hq : s.lnk.inject.at vc.toNat = x :: rest)
include hq

theorem exec_packetRoute_localDeliver (hv : s.lnk.judge 12 (x.pkt.flits.headD []) vc.toNat x.want = .deliver) :
    exec (.packetRoute 12 vc pa) s = .next (({ s with lnk := { s.lnk with
      inject := s.lnk.inject.put vc.toNat rest, localQ := s.lnk.localQ ++ [x.pkt] } } : State).toldEntry x.entry .success) := by
  refine exec_packetRoute_gone haw hpa (left := true) ?_ rfl
  unfold Lnk.routeLocal
  rw [hq]
  dsimp only
  rw [hv]

theorem exec_packetRoute_localDrop (hv : s.lnk.judge 12 (x.pkt.flits.headD []) vc.toNat x.want = .dropRoute) :
    exec (.packetRoute 12 vc pa) s = .next (({ s with lnk := { s.lnk with
      inject := s.lnk.inject.put vc.toNat rest, dropCnt := satAdd s.lnk.dropCnt 1, noRoute := true } } : State).toldEntry x.entry .address) := by
  refine exec_packetRoute_gone haw hpa (left := false) ?_ rfl
  unfold Lnk.routeLocal
  rw [hq]
  dsimp only
  rw [hv]
  rfl

theorem exec_packetRoute_localStay {o ovc : Nat} {alt : Bool} (hv : s.lnk.judge 12 (x.pkt.flits.headD []) vc.toNat x.want = .wait o ovc alt ∨
      s.lnk.judge 12 (x.pkt.flits.headD []) vc.toNat x.want = .hold o ovc alt) :
    exec (.packetRoute 12 vc pa) s = .next { s with lnk := { s.lnk with
      inject := s.lnk.inject.put vc.toNat ({ x with want := some (o, ovc) } :: rest), altUsed := s.lnk.altUsed || alt } } := by
  have hroute : s.lnk.routeLocal vc.toNat = ({ s.lnk with
      inject := s.lnk.inject.put vc.toNat ({ x with want := some (o, ovc) } :: rest), altUsed := s.lnk.altUsed || alt }, none) := by
    unfold Lnk.routeLocal
    rw [hq]
    dsimp only
    obtain h | h := hv
    · rw [h]
    · rw [h]
  rw [exec_packetRoute_local haw hpa, hroute]
  exact congrArg Host.Outcome.next (State.setLnk_ports s _ rfl)

end

/-! Stalls -/

/-- A head that has waited for credits for the stall time is reported with its output and VC (R325). -/
theorem exec_vcStall_stalled {i o v : Nat} (hi : i < 13) {vc : BitVec 3} (h : s.lnk.stalled i vc.toNat = some (o, v)) :
    ∃ t r, exec (.vcStall i vc) s = .next t ∧ (t.lnk.port.at o).vcStall = true ∧ t.flt.reports = Report.enter r s.flt.reports ∧ r.cls = .link ∧
      r.sev = .contained ∧ r.unit = o ∧ r.sub = v ∧ t = { s with lnk := t.lnk, flt := t.flt } := by
  have hlive : ¬ (!s.ctl.state.awake || decide (13 ≤ i)) = true := by
    rw [haw, decide_eq_false (by omega)]
    decide
  have hexec : exec (.vcStall i vc) s = .next ((s.setLnk (s.lnk.setPort o { s.lnk.port.at o with vcStall := true })).report
      { cls := .link, sev := .contained, unit := o, sub := v, detail := (s.lnk.port.at o).downReason.toNat }) := by
    refine congrArg Host.Outcome.next ((if_neg hlive).trans ?_)
    rw [h]
  rw [hexec, State.setLnk_setPort (.inl (by rfl))]
  obtain ⟨q, hq, hcls, hsev, -, hunit, hsub, -⟩ := State.report_tells (s := { s with lnk := s.lnk.setPort o { s.lnk.port.at o with vcStall := true } })
    { cls := .link, sev := .contained, unit := o, sub := v, detail := (s.lnk.port.at o).downReason.toNat } haw
  refine ⟨_, q, rfl, ?_⟩
  rw [hq]
  dsimp only
  rw [Lnk.setPort_at_self]
  exact ⟨rfl, rfl, hcls, hsev, hunit, hsub, rfl⟩

end

/-! Delivery at the local port -/

theorem exec_vcStall_idle {s : State} {i : Nat} {vc : BitVec 3} (h : s.lnk.stalled i vc.toNat = none) : exec (.vcStall i vc) s = .next s := by
  refine congrArg Host.Outcome.next ?_
  rw [h]
  exact ite_self _

section
variable {s : State} {k : Packet} {rest : List Packet} (hq : s.lnk.localQ = k :: rest) (hlive : s.ctl.state.live = true)
include hq hlive

theorem exec_packetDeliver_eq : exec .packetDeliver s = .next (
    let u : State := { s with lnk := { s.lnk with localQ := rest } }
    if xTypes.contains k.msg then { u with gx := { s.gx with inbox := s.gx.inbox ++ [parseX k.msg k.payload] } }
    else if k.msg = 0x40 then
      if 16384 ≤ fieldAt k.payload 0 2 then u.badMsg else u.syncOp (fieldAt k.payload 0 2) (.signal (BitVec.ofNat 32 (fieldAt k.payload 4 4)))
    else if 0x80 ≤ k.msg then { u with
        hif := s.hif.mailbox s.hci { node := k.src, msg := k.msg, bytes := (k.flits.headD []).take 8 ++ k.payload } }
    else u.badMsg) := by
  refine congrArg Host.Outcome.next ?_
  rw [hq]
  dsimp only
  rw [if_neg (by rw [hlive]; decide), State.setLnk_ports s { s.lnk with localQ := rest } rfl]
  rfl

theorem exec_packetDeliver_exchange (h : xTypes.contains k.msg = true) : exec .packetDeliver s = .next { s with
    lnk := { s.lnk with localQ := rest }, gx := { s.gx with inbox := s.gx.inbox ++ [parseX k.msg k.payload] } } :=
  (exec_packetDeliver_eq hq hlive).trans (congrArg Host.Outcome.next (if_pos h))

theorem exec_packetDeliver_signal (h : k.msg = 0x40) (ho : fieldAt k.payload 0 2 < 16384) : exec .packetDeliver s = .next (
    ({ s with lnk := { s.lnk with localQ := rest } } : State).syncOp (fieldAt k.payload 0 2) (.signal (BitVec.ofNat 32 (fieldAt k.payload 4 4)))) :=
  (exec_packetDeliver_eq hq hlive).trans (congrArg Host.Outcome.next
    ((if_neg (by rw [h]; decide)).trans ((if_pos h).trans (if_neg (Nat.not_le.mpr ho)))))

theorem exec_packetDeliver_mail (h : 0x80 ≤ k.msg) : exec .packetDeliver s = .next { s with
    lnk := { s.lnk with localQ := rest }
    hif := s.hif.mailbox s.hci { node := k.src, msg := k.msg, bytes := (k.flits.headD []).take 8 ++ k.payload } } := by
  have hx : ¬ xTypes.contains k.msg = true := by
    rw [List.contains_iff_mem]
    have hsmall : ∀ x ∈ xTypes, x < 0x80 := by decide
    exact fun hmem => absurd h (Nat.not_le.mpr (hsmall _ hmem))
  exact (exec_packetDeliver_eq hq hlive).trans (congrArg Host.Outcome.next ((if_neg hx).trans ((if_neg (by omega)).trans (if_pos h))))

theorem exec_packetDeliver_bad (h : k.msg = 0 ∨ k.msg = 0x7F ∨ (k.msg = 0x40 ∧ 16384 ≤ fieldAt k.payload 0 2)) : exec .packetDeliver s = .next { s with
    lnk := { s.lnk with localQ := rest, badMsg := true, dropCnt := satAdd s.lnk.dropCnt 1 } } := by
  rw [exec_packetDeliver_eq hq hlive]
  have hbad : ({ s with lnk := { s.lnk with localQ := rest } } : State).badMsg = { s with
      lnk := { s.lnk with localQ := rest, badMsg := true, dropCnt := satAdd s.lnk.dropCnt 1 } } := State.setLnk_ports _ _ rfl
  rw [← hbad]
  obtain h | h | ⟨h, ho⟩ := h
  · rw [h]
    rfl
  · rw [h]
    rfl
  · exact congrArg Host.Outcome.next ((if_neg (by rw [h]; decide)).trans ((if_pos h).trans (if_pos ho)))

end

/-- Settles O57. -/
theorem routerMoves : Obligations.RouterMoves := by
  unfold Obligations.RouterMoves
  intro s haw
  refine ⟨?_, fun i vc h => exec_packetRoute_parity haw vc h, fun o vc f r h hup hroom => ?_, fun o pid x h => Lnk.endPacket_used h, ?_,
    fun i o v vc hi => ⟨exec_vcStall_stalled haw hi, exec_vcStall_idle⟩, fun k rest hq hlive => ?_⟩
  · intro i vc k rest hi hks hout hdrop head v pa hpa
    refine ⟨exec_packetRoute_deliver haw hi hks hout hdrop hpa, fun o ovc alt => exec_packetRoute_send haw hi hks hout hdrop hpa, fun hv => ?_, fun hv => ?_,
      fun o ovc alt => exec_packetRoute_stay haw hi hks hout hdrop hpa, fun o ovc hw => ?_,
      fun o ovc alt hv j vj => Lnk.myTurn_spec (Lnk.judge_send hv).2⟩
    · obtain ⟨t, ht, hcnt, hflag, -, hlocal⟩ := exec_packetRoute_drop haw hi hks hout hdrop hpa hv (.inl rfl)
      exact ⟨t, ht, hcnt, hflag rfl, hlocal⟩
    · obtain ⟨t, ht, hcnt, -, hflag, hlocal⟩ := exec_packetRoute_drop haw hi hks hout hdrop hpa hv (.inr rfl)
      exact ⟨t, ht, hcnt, hflag rfl, hlocal⟩
    · unfold v
      rw [hw]
      exact Lnk.judge_keeps_want ..
  · obtain ⟨hq, hturn⟩ := Port.nextTx_spec h
    obtain ⟨hsent, hport⟩ := s.lnk.serve_spec h hup hroom
    rw [hport]
    exact ⟨hsent, rfl, rfl, hq, Sparse.at_put_self .., hturn⟩
  · intro vc x rest hq v pa hpa told
    exact ⟨exec_packetRoute_localDeliver haw hpa hq, exec_packetRoute_localDrop haw hpa hq, fun o ovc alt => exec_packetRoute_localStay haw hpa hq⟩
  · exact ⟨exec_packetDeliver_exchange hq hlive, exec_packetDeliver_signal hq hlive, exec_packetDeliver_mail hq hlive, exec_packetDeliver_bad hq hlive⟩

end Sys2Proof.Machine
end

section
/-! SUPPORT. O58: a header read of host memory that a bus error ends. -/

namespace Sys2Proof.Machine

/-- What the input pipeline does, with an image and the firmware running. -/
theorem State.intake_of_live {s : State} {im : Image} (himg : s.img = some im) (hlive : s.ctl.state.live = true) (f : Image → State) : s.intake f = .next (f im) := by
  unfold State.intake
  rw [himg]
  exact congrArg Host.Outcome.next (if_pos hlive)

/-- A header read of host memory that meets a bus error voids its sample with FETCH, before any check of the header (R393, R397). -/
theorem exec_headerReadReturn_busErr {s : State} {im : Image} (himg : s.img = some im) (hlive : s.ctl.state.live = true) {seq : Nat}
    (hst : (s.inp.ctx.at seq).st = .sieve) (hsource : (s.inp.ctx.at seq).d.source ≠ 1) (hissued : s.inp.headerIssued seq = true) (busErr : Bool)
    (herr : (busErr || s.hif.busErr (s.inp.ctx.at seq).d.addr (min (s.inp.ctx.at seq).d.len 832)) = true) (ecc : Ecc) :
    exec (.headerReadReturn seq busErr ecc) s = .next { s with inp := s.inp.void seq 0x01 } := by
  have hgo : ¬ (decide ((s.inp.ctx.at seq).st ≠ .sieve) || !s.inp.headerIssued seq) = true := by
    rw [hissued, decide_eq_false (not_not_intro hst)]
    decide
  refine (State.intake_of_live himg hlive _ : execHeaderReadReturn seq busErr ecc s = _).trans (congrArg Host.Outcome.next ((if_neg hgo).trans ?_))
  unfold State.readRecord
  dsimp only
  rw [if_neg hsource, Nat.add_zero, herr]
  rfl

/-- A sample whose record lies in host memory, at a page that answers with bus errors. -/
def recordInHole : SampleDesc := { profile := 0, source := 0, mbEnd := false, len := 64, addr := 0, recId := 0, cookie := 0 }

/-- A READY device with an image and that sample in the Sieve; the host's page 0 is a hole, and its memory reads as zeros. -/
def headerInHole : State :=
  { State.reset with
    ctl := { State.reset.ctl with state := .ready }
    img := some default
    hif := { holes := [0] }
    inp := { ctx := [(0, { st := .sieve, d := recordInHole })] } }

/-- The zeros that stand for the record have no magic number: by the checks of the header alone the reason would be 3 (R397). -/
theorem sieveHead_headerInHole : sieveHead ((headerInHole.inp.ctx.at 0).profile default) (headerInHole.inp.ctx.at 0).d
    (headerInHole.hif.readMem (headerInHole.inp.ctx.at 0).d.addr (min (headerInHole.inp.ctx.at 0).d.len 832)) = .inl 0x03 := by decide +kernel

/-- Refutes O58: a header read of host memory that meets a hole voids the sample with FETCH whatever the header checks would find, and the clause on
`sieveHead` does not ask that the read meets none. -/
theorem not_intakeFlow : ¬ Obligations.IntakeFlow := by
  unfold Obligations.IntakeFlow
  intro h
  obtain ⟨-, -, hheader, -⟩ := h headerInHole default rfl rfl
  have hissued : headerInHole.inp.headerIssued 0 = true := by decide +kernel
  obtain ⟨-, hcode, -⟩ := (hheader 0).1 rfl (by decide) hissued
  obtain ⟨t, hexec, -, hreason, -, -⟩ := hcode 0x03 sieveHead_headerInHole
  have hvoid := exec_headerReadReturn_busErr (s := headerInHole) (seq := 0) rfl rfl rfl (by decide) hissued false (by decide +kernel) .clean
  obtain rfl := Host.Outcome.next.inj (hexec.symm.trans hvoid)
  exact absurd hreason (by decide +kernel)

end Sys2Proof.Machine
end

section
/-! SUPPORT. O59: row sets sealed, micro-batches complete, CLOSE_MB and FLUSH, and the obligation. -/

namespace Sys2Proof.Machine

/-! Sealing -/

/-- Counting a reason changes no other register (R443). -/
theorem Inp.foldl_count (code n : Nat) (x : Inp) : ∃ c, (List.range n).foldl (fun (x : Inp) _ => x.count code) x = { x with reasonCnt := c } :=
  foldl_keeps (P := fun y : Inp => ∃ c, y = { x with reasonCnt := c }) (fun _ _ ⟨_, hy⟩ => by rw [hy]; exact ⟨_, rfl⟩) _ ⟨_, rfl⟩

/-- A row set in which a check of the Packer has failed: no positions, every sample of it void (R437, log entry 145). -/
def RowSet.voided (r : RowSet) : RowSet :=
  { r with pieces := [], entries := r.entries.map fun e => if e.flags % 2 == 0 then { e with seg := 0xFFFF, reason := 0x01, flags := e.flags ||| 1 } else e }

theorem Inp.voidRow_eq (x : Inp) (g : Nat) : ∃ c, x.voidRow g = { x with rows := x.rows.map fun r => if r.g != g then r else r.voided, reasonCnt := c } := by
  unfold Inp.voidRow
  exact Inp.foldl_count _ _ _

/-- The entries of a voided row set all carry VOID (R432). -/
theorem RowSet.voided_flags (r : RowSet) : ∀ e ∈ r.voided.entries, e.flags % 2 = 1 := by
  intro e he
  obtain ⟨f, -, rfl⟩ := List.mem_map.mp he
  by_cases h : f.flags % 2 = 0
  · rw [if_pos (beq_iff_eq.mpr h)]
    exact Nat.or_mod_two_eq_one.mpr (.inr rfl)
  · rw [if_neg (by rw [beq_iff_eq]; exact h)]
    omega

/-- Each row set of a number sealed as void, the others as they were. -/
theorem Inp.seal_voidRow_rows (x : Inp) (g : Nat) : ((x.voidRow g).seal g).rows = x.rows.map fun r => if r.g = g then { r.voided with sealed' := true } else r := by
  obtain ⟨c, hc⟩ := x.voidRow_eq g
  unfold Inp.seal
  rw [hc]
  dsimp only
  rw [List.map_map]
  refine List.map_congr_left fun r _ => ?_
  rw [Function.comp_apply]
  by_cases h : r.g = g
  · have hg : r.voided.g = g := h
    rw [if_neg (show ¬ (r.g != g) = true by rw [bne_iff_ne]; exact not_not_intro h), if_pos h, if_pos (beq_iff_eq.mpr hg)]
  · rw [if_pos (show (r.g != g) = true from bne_iff_ne.mpr h), if_neg h, if_neg (by rw [beq_iff_eq]; exact h)]

/-- The row set to seal is still the same one, voided (R437). -/
theorem Inp.sealable_voidRow {x : Inp} {r : RowSet} (h : x.sealable = some r) (g : Nat) : (((x.voidRow g).sealable).getD r).g = r.g := by
  obtain ⟨c, hc⟩ := x.voidRow_eq g
  have hfind : x.rows.find? (fun r => !r.sealed') = some r := by
    unfold Inp.sealable at h
    split at h
    · exact nomatch h
    · next q hq =>
      split at h
      · exact hq.trans h
      · exact nomatch h
  have hkeeps : ∀ q : RowSet, (if (q.g != g) = true then q else q.voided).sealed' = q.sealed' ∧ (if (q.g != g) = true then q else q.voided).g = q.g := fun q => by
    split <;> exact ⟨rfl, rfl⟩
  have hfirst : (x.voidRow g).rows.find? (fun r => !r.sealed') = some (if (r.g != g) = true then r else r.voided) := by
    rw [hc]
    dsimp only
    rw [List.find?_map, show ((fun r : RowSet => !r.sealed') ∘ fun q : RowSet => if (q.g != g) = true then q else q.voided) = fun r => !r.sealed' from
      funext fun q => congrArg (!·) (hkeeps q).1, hfind]
    rfl
  have hsame : (x.voidRow g).sealable = some (if (r.g != g) = true then r else r.voided) ∨ (x.voidRow g).sealable = none := by
    unfold Inp.sealable
    rw [hfirst]
    exact ite_eq_or_eq ..
  obtain hsame | hsame := hsame
  · rw [hsame, Option.getD_some]
    exact (hkeeps r).2
  · rw [hsame]
    rfl

section
variable {s : State} {im : Image} (himg : s.img = some im) (hlive : s.ctl.state.live = true)
include himg hlive

/-- A row set that can be sealed is written to its slots (R430, R437). -/
theorem exec_rowSetSeal {r : RowSet} (h : s.inp.sealable = some r) : ∃ t, exec (.rowSetSeal false) s = .next t ∧ t.mem = r.write im s.mem ∧
    t.inp.rows = s.inp.rows.map (fun x => if x.g == r.g then { x with sealed' := true } else x) ∧
    t = { s with mem := t.mem, inp := { s.inp with rows := t.inp.rows } } := by
  have hexec : exec (.rowSetSeal false) s = .next { s with mem := r.write im s.mem, inp := s.inp.seal r.g } := by
    refine (State.intake_of_live himg hlive _ : execRowSetSeal false s = _).trans (congrArg Host.Outcome.next ?_)
    dsimp only
    rw [h]
    dsimp only
    rw [if_neg Bool.false_ne_true, h, Option.getD_some]
  generalize r.write im s.mem = m at hexec ⊢
  exact ⟨_, hexec, rfl, rfl, rfl⟩

/-- A check of the Packer that fails at a seal voids the samples of the row set, and is reported (R521, log entry 145). -/
theorem exec_rowSetSeal_bad {r : RowSet} (h : s.inp.sealable = some r) : ∃ t q, exec (.rowSetSeal true) s = .next t ∧
    t.inp.rows.length = s.inp.rows.length ∧ (∀ x ∈ t.inp.rows, x.g ≠ r.g → x ∈ s.inp.rows) ∧
    (∀ x ∈ t.inp.rows, x.g = r.g → x.sealed' = true ∧ x.pieces = [] ∧ ∀ e ∈ x.entries, e.flags % 2 = 1) ∧
    t.flt.reports = Report.enter q s.flt.reports ∧ q.cls = .datapath ∧ q.sev = .contained ∧
    t = { s with mem := t.mem, flt := t.flt, inp := { s.inp with rows := t.inp.rows, reasonCnt := t.inp.reasonCnt } } := by
  obtain ⟨q, hq, hcls, hsev, -, -, -, -⟩ := State.report_tells (s := s) { cls := .datapath, sev := .contained } (Dev.awake_of_live hlive)
  generalize hm : ((s.inp.voidRow r.g).sealable.getD r).write im s.mem = m
  have hexec : exec (.rowSetSeal true) s = .next { s with mem := m, flt := s.flt.detect q, inp := (s.inp.voidRow r.g).seal r.g } := by
    refine (State.intake_of_live himg hlive _ : execRowSetSeal true s = _).trans (congrArg Host.Outcome.next ?_)
    dsimp only
    rw [h]
    dsimp only
    rw [if_pos rfl]
    unfold State.datapathFault
    rw [hq]
    dsimp only
    rw [hm, Inp.sealable_voidRow h]
  obtain ⟨c, hc⟩ := s.inp.voidRow_eq r.g
  refine ⟨_, q, hexec, ?_⟩
  dsimp only
  rw [Inp.seal_voidRow_rows]
  refine ⟨List.length_map .., fun x hx hne => ?_, fun x hx heq => ?_, rfl, hcls, hsev, ?_⟩
  · obtain ⟨y, hy, rfl⟩ := List.mem_map.mp hx
    by_cases hg : y.g = r.g
    · rw [if_pos hg] at hne
      exact absurd hg hne
    · rw [if_neg hg]
      exact hy
  · obtain ⟨y, hy, rfl⟩ := List.mem_map.mp hx
    by_cases hg : y.g = r.g
    · rw [if_pos hg]
      exact ⟨rfl, rfl, y.voided_flags⟩
    · rw [if_neg hg] at heq
      exact absurd heq hg
  · rw [← Inp.seal_voidRow_rows, hc]
    rfl

theorem exec_rowSetSeal_idle (h : s.inp.sealable = none) (bad : Bool) : exec (.rowSetSeal bad) s = .next s := by
  refine (State.intake_of_live himg hlive _ : execRowSetSeal bad s = _).trans (congrArg Host.Outcome.next ?_)
  dsimp only
  rw [h]

/-! Complete micro-batches -/

/-- A complete micro-batch's work counts are reported, kept and passed on (R432, R439, R440). -/
theorem exec_mbComplete {l : List RowSet} (h : s.inp.completeMb im = some l) : let last := (l.getLast?).getD default
    let off := last.g % max 1 im.ringSlots * 65536
    ∃ t, exec .mbComplete s = .next t ∧ t.inp.rows = s.inp.rows.drop im.mbRows ∧ t.inp.mbDone = s.inp.mbDone + 1 ∧
      t.inp.ready = s.inp.ready ++ [((l.headD default).g / im.mbRows, workCounts im l)] ∧
      (∀ b < 16, t.inp.work.at b = BitVec.ofNat 32 ((workCounts im l).getD b 0)) ∧
      (∀ a, a ∉ im.regPlaces im.reportRegion off (last.header im (some (workCounts im l))).length → t.mem.byte a = s.mem.byte a) ∧
      t = { s with mem := t.mem, inp := t.inp } := by
  intro last off
  have hexec : exec .mbComplete s = .next { s with
      mem := im.regWrite s.mem im.reportRegion off (last.header im (some (workCounts im l))), inp := s.inp.mbComplete im l } := by
    refine (State.intake_of_live himg hlive _ : execMbComplete s = _).trans (congrArg Host.Outcome.next ?_)
    dsimp only
    rw [h]
  have hmem : ∀ a, a ∉ im.regPlaces im.reportRegion off (last.header im (some (workCounts im l))).length →
      (im.regWrite s.mem im.reportRegion off (last.header im (some (workCounts im l)))).byte a = s.mem.byte a := fun a ha =>
    Mem.byte_write_of_not_mem s.mem (fun c hc => (List.of_mem_zip hc).1) ha
  generalize im.regWrite s.mem im.reportRegion off (last.header im (some (workCounts im l))) = m at hexec hmem
  unfold Inp.mbComplete at hexec
  generalize workCounts im l = w at hexec hmem ⊢
  exact ⟨_, hexec, rfl, rfl, rfl, fun b hb =>
    (Sparse.at_foldl_mod_range (fun b _ => BitVec.ofNat 32 (w.getD b 0)) s.inp.work 16 b).trans (if_pos hb), hmem, rfl⟩

theorem exec_mbComplete_idle (h : s.inp.completeMb im = none) : exec .mbComplete s = .next s := by
  refine (State.intake_of_live himg hlive _ : execMbComplete s = _).trans (congrArg Host.Outcome.next ?_)
  dsimp only
  rw [h]

end

/-! Closing a micro-batch -/

/-- The row set last opened, if there is one, is closed. -/
def Inp.Shut (x : Inp) : Prop := ∀ r, x.rows.getLast? = some r → r.closed = true

/-- Padding ends at the end of a micro-batch, or waits for a slot (R431, R438). -/
theorem Inp.pad_spec (im : Image) (n : Nat) (x : Inp) (hshut : x.Shut) (hclosing : x.closing = true) :
    (x.pad im n).Shut ∧ ((x.pad im n).closing = false → (x.pad im n).nextRow % im.mbRows = 0) ∧
    ((x.pad im n).closing = true → (∃ k < n, (x.nextRow + k) % im.mbRows = 0) → (x.pad im n).nextRow % im.mbRows ≠ 0 ∧ (x.pad im n).slotFree im = false) ∧
    (x.pad im n).closes = x.closes := by
  induction n generalizing x with
  | zero => exact ⟨hshut, fun h => absurd (h.symm.trans hclosing) Bool.false_ne_true, fun _ ⟨_, hk, _⟩ => absurd hk (Nat.not_lt_zero _), rfl⟩
  | succ n ih =>
    unfold Inp.pad
    split
    · next hend => exact ⟨hshut, fun _ => hend, fun h => absurd h Bool.false_ne_true, rfl⟩
    · next hend =>
      split
      · have hadded : (x.addRow im true).Shut := fun r hr => by
          unfold Inp.addRow at hr
          rw [List.getLast?_concat] at hr
          rw [← Option.some.inj hr]
        obtain ⟨h1, h2, h3, h4⟩ := ih (x.addRow im true) hadded hclosing
        refine ⟨h1, h2, fun hc ⟨k, hk, hmod⟩ => h3 hc ?_, h4⟩
        cases k with
        | zero => exact absurd hmod hend
        | succ k =>
          refine ⟨k, by omega, ?_⟩
          rw [← hmod]
          exact congrArg (· % im.mbRows) (Nat.add_right_comm ..)
      · next hslot => exact ⟨hshut, fun h => absurd (h.symm.trans hclosing) Bool.false_ne_true, fun _ _ => ⟨hend, Bool.eq_false_iff.mpr hslot⟩, rfl⟩

theorem Image.mbRows_pos (im : Image) : 0 < im.mbRows := by
  unfold Image.mbRows
  split
  · exact Nat.lt_of_lt_of_le Nat.zero_lt_one (Nat.le_max_left ..)
  · exact Nat.zero_lt_one

/-- Among as many numbers in a row as a micro-batch has row sets, one starts a micro-batch. -/
theorem exists_add_mod_eq_zero (a : Nat) {m : Nat} (h : 0 < m) : ∃ k < m, (a + k) % m = 0 := by
  by_cases ha : a % m = 0
  · exact ⟨0, h, ha⟩
  · refine ⟨m - a % m, by omega, ?_⟩
    have hle := Nat.mod_lt a h
    rw [Nat.add_mod, Nat.mod_eq_of_lt (a := m - a % m) (by omega), Nat.add_sub_cancel' hle.le]
    exact Nat.mod_self m

/-- CLOSE_MB carried out (R438). -/
theorem Inp.closeMb_spec (im : Image) (x : Inp) : let y := x.closeMb im
    y.Shut ∧ (y.closing = false → y.nextRow % im.mbRows = 0) ∧ (y.closing = true → y.nextRow % im.mbRows ≠ 0 ∧ y.slotFree im = false) ∧ y.closes = x.closes := by
  have hlast : (x.modLast fun r => { r with closed := true, mbEnd := true }).Shut ∧ (x.modLast fun r => { r with closed := true, mbEnd := true }).closes = x.closes := by
    unfold Inp.modLast
    split
    · next r hr =>
      split
      · next hc => exact ⟨fun q hq => by rw [← Option.some.inj (hr.symm.trans hq)]; exact hc, rfl⟩
      · refine ⟨fun q hq => ?_, rfl⟩
        rw [List.getLast?_concat] at hq
        rw [← Option.some.inj hq]
    · next hr => exact ⟨fun q hq => (nomatch hr.symm.trans hq), rfl⟩
  obtain ⟨h1, h2, h3, h4⟩ := Inp.pad_spec im im.mbRows { (x.modLast fun r => { r with closed := true, mbEnd := true }) with closing := true } hlast.1 rfl
  exact ⟨h1, h2, fun hc => h3 hc (exists_add_mod_eq_zero _ im.mbRows_pos), h4.trans hlast.2⟩

/-- Aborting every sample counts them and empties the contexts (R441). -/
theorem Inp.abort_eq (x : Inp) : ∃ c, x.abort.1 = { x with ctx := [], reasonCnt := c } := by
  have hcount : ∃ c, x.ctx.foldl (fun (y : Inp) _ => y.count 0x1F) x = { x with reasonCnt := c } :=
    foldl_keeps (P := fun y : Inp => ∃ c, y = { x with reasonCnt := c }) (fun _ _ ⟨_, hy⟩ => by rw [hy]; exact ⟨_, rfl⟩) _ ⟨_, rfl⟩
  obtain ⟨c, hc⟩ := hcount
  unfold Inp.abort
  rw [hc]
  exact ⟨c, rfl⟩

section
variable {s : State} (hlive : s.ctl.state.live = true) {v : W32}
include hlive

theorem exec_closeMb_eq {im : Image} (himg : s.img = some im) (h0 : v.getLsbD 0 = false) (h1 : v.getLsbD 1 = true) :
    exec (.closeMb v) s = .next { s with inp := ({ s.inp with closes := s.inp.closes ++ [s.inp.nextSeq.toNat] } : Inp).closeDue im } := by
  refine (State.host_of_live _ hlive : execCloseMb v s = _).trans (congrArg Host.Outcome.next ?_)
  unfold State.writeInpCtrl
  rw [bit_eq_getLsbD, h0, if_neg Bool.false_ne_true, bit_eq_getLsbD, h1, if_pos rfl, himg]

/-- With every sample emitted the micro-batch closes at once (R438). -/
theorem exec_closeMb_now {im : Image} (himg : s.img = some im) (h0 : v.getLsbD 0 = false) (h1 : v.getLsbD 1 = true) (hempty : s.inp.ctx = []) :
    ∃ t, exec (.closeMb v) s = .next t ∧ (∀ r, t.inp.rows.getLast? = some r → r.closed = true) ∧
      (t.inp.closing = false → t.inp.nextRow % im.mbRows = 0) ∧ (t.inp.closing = true → t.inp.nextRow % im.mbRows ≠ 0 ∧ t.inp.slotFree im = false) ∧
      t.inp.closes = s.inp.closes.filter (fun c => decide (s.inp.nextSeq.toNat < c)) ∧ t = { s with inp := t.inp } := by
  have hhead : s.inp.head? = none := by
    unfold Inp.head?
    rw [hempty]
    rfl
  have hdue : ({ s.inp with closes := s.inp.closes ++ [s.inp.nextSeq.toNat] } : Inp).closeDue im =
      Inp.closeMb im { s.inp with closes := s.inp.closes.filter fun c => decide (s.inp.nextSeq.toNat < c) } := by
    have hfilter : (s.inp.closes ++ [s.inp.nextSeq.toNat]).filter (fun c => decide (s.inp.head?.getD s.inp.nextSeq.toNat < c)) =
        s.inp.closes.filter fun c => decide (s.inp.nextSeq.toNat < c) := by
      rw [hhead, Option.getD_none, List.filter_append, List.filter_singleton, decide_eq_false (Nat.lt_irrefl _)]
      exact List.append_nil _
    have hany : ((s.inp.closes ++ [s.inp.nextSeq.toNat]).any fun t => decide (t ≤ s.inp.head?.getD s.inp.nextSeq.toNat)) = true := by
      rw [hhead]
      exact List.any_eq_true.mpr ⟨_, List.mem_append_right _ (List.mem_singleton_self _), decide_eq_true (Nat.le_refl _)⟩
    exact (if_pos hany).trans (congrArg (fun cs => Inp.closeMb im { s.inp with closes := cs }) hfilter)
  have hexec := exec_closeMb_eq hlive himg h0 h1
  rw [hdue] at hexec
  obtain ⟨hshut, hdone, hwaits, hcloses⟩ := Inp.closeMb_spec im { s.inp with closes := s.inp.closes.filter fun c => decide (s.inp.nextSeq.toNat < c) }
  exact ⟨_, hexec, hshut, hdone, hwaits, hcloses, rfl⟩

/-- Samples not yet emitted are waited for (R438). -/
theorem exec_closeMb_later {im : Image} (himg : s.img = some im) (h0 : v.getLsbD 0 = false) (h1 : v.getLsbD 1 = true) {k : Nat} (hk : s.inp.head? = some k)
    (hseq : k < s.inp.nextSeq.toNat) (hcloses : ∀ c ∈ s.inp.closes, k < c) :
    exec (.closeMb v) s = .next { s with inp := { s.inp with closes := s.inp.closes ++ [s.inp.nextSeq.toNat] } } := by
  rw [exec_closeMb_eq hlive himg h0 h1]
  have hnone : ¬ ((s.inp.closes ++ [s.inp.nextSeq.toNat]).any fun t => decide (t ≤ s.inp.head?.getD s.inp.nextSeq.toNat)) = true := by
    rw [hk, List.any_eq_true]
    rintro ⟨c, hc, hle⟩
    rw [decide_eq_true_eq, Option.getD_some] at hle
    obtain hc | hc := List.mem_append.mp hc
    · exact absurd hle (Nat.not_le.mpr (hcloses c hc))
    · rw [List.mem_singleton] at hc
      omega
  exact congrArg (fun x => Host.Outcome.next { s with inp := x }) (if_neg hnone)

/-! FLUSH -/

theorem exec_flush_rejected (h0 : v.getLsbD 0 = true) (hrun : s.ctl.state.running = true ∨ s.adm.running = true) :
    exec (.flush v) s = .next { s with inp := { s.inp with flushRej := true } } := by
  refine (State.host_of_live _ hlive : execFlush v s = _).trans (congrArg Host.Outcome.next ?_)
  unfold State.writeInpCtrl
  rw [bit_eq_getLsbD, h0, if_pos rfl, if_pos (Bool.or_eq_true_iff.mpr hrun)]

/-- Between steps FLUSH empties the intake (R441). -/
theorem exec_flush (h0 : v.getLsbD 0 = true) (hstate : s.ctl.state.running = false) (hadm : s.adm.running = false) :
    ∃ t, exec (.flush v) s = .next t ∧ t.inp.ctx = [] ∧ t.inp.rows = [] ∧ t.inp.ready = [] ∧
      t.inp.closes = [] ∧ t.inp.nextRow = s.inp.nextMb * s.inp.mbRows ∧
      t.inp.live = s.inp.live.filter (fun g => decide (g < t.inp.nextRow)) ∧ t.inp.queue = s.inp.queue ∧ t.flt = { s.flt with needFlush := false } ∧
      t = { s with inp := t.inp, flt := t.flt, hif := t.hif } := by
  have hexec : exec (.flush v) s = .next (({ s with flt := { s.flt with needFlush := false } } : State).setInp s.inp.flush) := by
    refine (State.host_of_live _ hlive : execFlush v s = _).trans (congrArg Host.Outcome.next ?_)
    unfold State.writeInpCtrl
    rw [bit_eq_getLsbD, h0, if_pos rfl, hstate, hadm]
    rfl
  obtain ⟨c, hc⟩ := s.inp.abort_eq
  refine ⟨_, hexec, ?_⟩
  unfold State.setInp
  rw [State.samplesDone_frame]
  unfold Inp.flush
  dsimp only
  rw [hc]
  exact ⟨rfl, rfl, rfl, rfl, rfl, rfl, rfl, rfl, rfl⟩

end

/-- Settles O59. -/
theorem rowsAndMicroBatches : Obligations.RowsAndMicroBatches := by
  unfold Obligations.RowsAndMicroBatches
  intro s hlive
  refine ⟨fun im himg => ⟨fun r hr => ⟨exec_rowSetSeal himg hlive hr, exec_rowSetSeal_bad himg hlive hr⟩, exec_rowSetSeal_idle himg hlive, fun l => exec_mbComplete himg hlive,
    exec_mbComplete_idle himg hlive, fun v h0 h1 => ⟨exec_closeMb_now hlive himg h0 h1, fun k => exec_closeMb_later hlive himg h0 h1⟩⟩,
    fun v h0 => ⟨exec_flush_rejected hlive h0, exec_flush hlive h0⟩⟩

end Sys2Proof.Machine
end
